-- ==== Sys2Proof/Word.lean ====
section
/-! DEFINITION. The word types of the NX-AKZ960 (R5, R145, R155): byte, V register, S register, code address. -/

namespace Sys2Proof

/-- One byte of memory. -/
abbrev Byte := BitVec 8

/-- One V register of one lane (R155), and one 32-bit instruction word (R144). -/
abbrev Word := BitVec 32

/-- One S register, one special register, one global address before its check (R155, R156, R151). -/
abbrev DWord := BitVec 64

/-- The PC of a split: a 54-bit virtual address (R145). -/
abbrev CodeAddr := BitVec 54

/-- A lane mask: bit `l` stands for lane `l` of the group (R21, R156). -/
abbrev Mask := BitVec 64

end Sys2Proof
end

