-- ==== Sys2Proof/Syntax.lean ====
section
/-! DEFINITION. The instructions and steps of the Akzan as data: one constructor of `Instr` for each row of
spec/opcode_table.json. A Kloam, lauter or steep row carries the fields of its encoding (R144, R147, R148, R268, R354);
a row that is a step of the device with no encoding carries what names the place where it strikes and, for input from
outside the device, what arrives. -/

namespace Sys2Proof

/-- Bits 5:1 of the first word of every Kloam instruction (R144). -/
structure Hdr where
  /-- GN: the guard is negated. -/
  gn : Bool
  /-- G: the guard register. -/
  g : BitVec 3
  /-- W: wait for outstanding register results before issue (R28). -/
  w : Bool
deriving DecidableEq, Repr

/-- The fields of format SR (R147). -/
structure SRF where
  i : Bool
  b : BitVec 6
  a : BitVec 6
  d : BitVec 6
deriving DecidableEq, Repr

/-- The fields of format SI (R147). -/
structure SIF where
  imm : BitVec 13
  d : BitVec 6
deriving DecidableEq, Repr

/-- The field of format SB (R147). -/
structure SBF where
  off : BitVec 19
deriving DecidableEq, Repr

/-- The fields of the long format (R148). `sat` is bit 24 (SAT, NI), `rm` is bits 23:21 (RM, CP). -/
structure LongF where
  a : BitVec 8
  d : BitVec 8
  sc : BitVec 4
  mo : BitVec 3
  sat : Bool
  rm : BitVec 3
  ty : BitVec 5
  c : BitVec 8
  b : BitVec 8
  x : BitVec 32
deriving DecidableEq, Repr

/-- The fields of a lauter instruction (R268). -/
structure LauterF where
  imm32 : BitVec 32
  imm12 : BitVec 12
  b : BitVec 4
  a : BitVec 4
  d : BitVec 4
deriving DecidableEq, Repr

/-- The fields of a steep instruction (R354). -/
structure SteepF where
  imm : BitVec 16
  a : BitVec 4
  d : BitVec 4
deriving DecidableEq, Repr

/-- A split, by its group's unique number and its split entry 0 to 3 (R21, R390). -/
structure SplitRef where
  group : Nat
  slot : Nat
deriving DecidableEq, Repr

/-- A lauter engine: core 0 to 191, engine 0 or 1 (R263). -/
structure EngRef where
  core : Nat
  eng : Nat
deriving DecidableEq, Repr

/-- A queue of a partition, by its local number (R330). -/
structure QueueRef where
  part : Nat
  queue : Nat
deriving DecidableEq, Repr

/-- A packet in flight: packet `idx` of the queue; `sub` 0 is the packet itself, higher numbers are the bundle members,
graph nodes or emitted packets that belong to it (R342, R344, R357). -/
structure PacketRef where
  part : Nat
  queue : Nat
  idx : Nat
  sub : Nat
deriving DecidableEq, Repr

/-- A register outside the cores that a write can name: the Kiln window, a partition block in it, a mailbox window, or a
partition's device-register page (R331, R328, R385, R391). -/
inductive RegRef where
  | kiln (off : Nat)
  | block (part off : Nat)
  | mailbox (part port off : Nat)
  | devreg (part off : Nat)
deriving DecidableEq, Repr

/-- Where a host request arrives: fabric port and job key (R411). -/
structure HostRef where
  port : Nat
  key : BitVec 32
deriving DecidableEq, Repr

/-- Bytes a remote unit writes at an offset; an empty mask writes every bit of them, else the bits it names (R60, R279). -/
structure WritePart where
  off : Nat
  data : List Byte
  mask : List Byte := []
deriving DecidableEq, Repr

/-- What a remote request asks of this device as its home (R403, R407). `order` and `scope` are the codes of R151, R69. -/
inductive RemoteOp where
  | read (size : Nat)
  | write (data : List Byte)
  /-- A store of elements of a decoded page: the bits that the mask names (R60). -/
  | writeBits (data mask : List Byte)
  | rmw (op : Nat) (ty : BitVec 5) (v : DWord)
  | acas (ty : BitVec 5) (cmp v : DWord)
  | redt (op : Nat) (ty : BitVec 5) (tag : BitVec 32) (v : DWord)
  | arrive (n : BitVec 32)
  /-- A barrier word is read, for WAITPH and WAITB (R426). -/
  | word
  /-- The lanes of a TDRAW on one device, each at an offset: a slot that several name is read once for all of them (R259). -/
  | draw (size : Nat) (seq : BitVec 32) (consume : Bool) (offs : List Nat)
  /-- A unit of a lauter move: bytes at several offsets, all or none (R279). -/
  | writeUnit (parts : List WritePart)
  /-- A unit of LRED: one tag, elements at several offsets (R283). -/
  | redtUnit (op : Nat) (ty : BitVec 5) (tag : BitVec 32) (elems : List (Nat × Nat))
deriving DecidableEq, Repr

/-- A request from another Akzan: its device address, job key, the source a REDT window keeps it under (R228), the offset
(an intermediate address of the partition, R407), the operation, its order and scope. -/
structure RemoteReq where
  src : BitVec 32
  key : BitVec 32
  srcId : Nat
  off : Nat
  op : RemoteOp
  order : BitVec 3
  scope : BitVec 4
deriving DecidableEq, Repr

/-- An answer to one of this device's own remote operations: to the request of it that stands at this place (R407, R408). -/
inductive RemoteAns where
  | accept (place : Nat)
  | nak (place : Nat) (sub : BitVec 8)
  | complete (place : Nat) (data : List Byte)
deriving DecidableEq, Repr

/-- A rail of R422, in the order the board must bring them up. -/
inductive Rail where
  | io | memory | core
deriving DecidableEq, Repr

/-- A firmware image: its contents as one number, its security version, whether its ML-DSA-65 signature verifies under the
Ngutrix key, whether it was stored whole (R423, R425). -/
structure FirmwareImage where
  content : List (BitVec 8)
  version : Nat
  signed : Bool
  whole : Bool
deriving DecidableEq, Repr

/-- What a gang failure notice names: the sender's job key and GKEY (R416). -/
structure GangName where
  key : BitVec 32
  gkey : Word
deriving DecidableEq, Repr

/-- The thresholds that firmware sets (R421): temperatures in tenths of a degree, power in W, currents in A, the deviation of a rail in percent
and how long it must last in µs. -/
structure Thresholds where
  hot : Nat := 1000
  stop : Nat := 1150
  power : Nat := 6000
  current : Nat := 12000
  currentClear : Nat := 11400
  rail : Nat := 10
  railUs : Nat := 100
deriving DecidableEq, Repr

/-- What firmware reads in one poll of a die's monitors (R421): eight temperatures in tenths of a degree; the voltage in mV of each of the die's
six cluster rail domains, of the memory rail and of the I/O rail; a process reading of each cluster; package power in W, averaged over 1 ms, and core-rail
current in A. And what firmware sets at this time, if it sets it: the cluster budget, REMTMO in CLOCK cycles, the thresholds. -/
structure MonitorReading where
  temps : List Nat := []
  volts : List Nat := []
  memoryMv : Nat := 1100
  ioMv : Nat := 750
  process : List Nat := []
  power : Nat := 0
  current : Nat := 0
  setBudget : Option Nat := none
  setRemtmo : Option Nat := none
  setLimits : Option Thresholds := none
deriving DecidableEq, Repr

/-- Where an error is detected (R417, R418). A die-scratchpad byte is named by its die, the grid that holds it and its offset; a byte of core
scratchpad or accumulator memory by the team that holds it (and the half of a paired team's accumulator) and its offset; a die-to-die link by a die of
it and by what the access was for: an HBM address or a die-scratchpad byte. -/
inductive ErrorSite where
  | hbm (addr : Nat)
  | l2 (addr : Nat)
  | dieScratch (die grid off : Nat)
  | l1Line (core line : Nat)
  | instrLine (core line : Nat)
  | scaleLine (core line : Nat)
  | scratch (team off : Nat)
  | acc (team half off : Nat)
  | tunMemory (tun : Nat)
  | group (uid : Nat)
  | link (die addr : Nat)
  | linkScratch (die target grid off : Nat)
  | port (p : Nat)
  | kiln
deriving DecidableEq, Repr

/-- What the I3C target can be asked (R422). -/
inductive Telemetry where
  | temperature (die sensor : Nat)
  | railVoltage (r : Rail)
  | railCurrent (r : Rail)
  | packagePower
  | rasCount
  | portErr
deriving DecidableEq, Repr

/-- The rows of spec/opcode_table.json. -/
inductive Instr where
  /-- NOP (R183). Does nothing; with W set it only parks the split until its outstanding results are written. -/
  | nop (h : Hdr)
  /-- SMOV (R165). Writes S[D] := opB, a register or a 6-bit immediate. -/
  | smov (h : Hdr) (f : SRF)
  /-- SLI (R166). Writes S[D] := the sign-extended imm13. -/
  | sli (h : Hdr) (f : SIF)
  /-- SSHI (R166). Shifts S[D] left by 13 and ORs in the zero-extended imm13. -/
  | sshi (h : Hdr) (f : SIF)
  /-- SADD (R165). Writes S[D] := S[A] + opB modulo 2^64. -/
  | sadd (h : Hdr) (f : SRF)
  /-- SSUB (R165). Writes S[D] := S[A] - opB modulo 2^64. -/
  | ssub (h : Hdr) (f : SRF)
  /-- SMUL (R165). Writes the low 64 bits of S[A] * opB. -/
  | smul (h : Hdr) (f : SRF)
  /-- SMULH (R165). Writes the unsigned high 64 bits of S[A] * opB. -/
  | smulh (h : Hdr) (f : SRF)
  /-- SAND (R165). Writes S[A] AND opB. -/
  | sand (h : Hdr) (f : SRF)
  /-- SOR (R165). Writes S[A] OR opB. -/
  | sor (h : Hdr) (f : SRF)
  /-- SXOR (R165). Writes S[A] XOR opB. -/
  | sxor (h : Hdr) (f : SRF)
  /-- SSHL (R165). Shifts S[A] left by opB; counts of 64 or more give 0. -/
  | sshl (h : Hdr) (f : SRF)
  /-- SSHR (R165). Shifts S[A] right logically by opB; counts of 64 or more give 0. -/
  | sshr (h : Hdr) (f : SRF)
  /-- SSRA (R165). Shifts S[A] right arithmetically by opB. -/
  | ssra (h : Hdr) (f : SRF)
  /-- SMIN (R165). Writes the signed minimum of S[A] and opB. -/
  | smin (h : Hdr) (f : SRF)
  /-- SMAX (R165). Writes the signed maximum of S[A] and opB. -/
  | smax (h : Hdr) (f : SRF)
  /-- SCMP (R167). Writes K[Kd] := the condition in D bits 5:3 applied to S[A] and opB. -/
  | scmp (h : Hdr) (f : SRF)
  /-- KLOP (R168). Writes K[Kd] := a logic function of K[Ka] and K[Kb]. -/
  | klop (h : Hdr) (f : SRF)
  /-- SPOPC (R169). Writes the number of one bits in S[A]. -/
  | spopc (h : Hdr) (f : SRF)
  /-- SCLZ (R169). Writes the number of leading zero bits of S[A]. -/
  | sclz (h : Hdr) (f : SRF)
  /-- SLD (R174). Loads one aligned 64-bit global word once for the split, weak or strong by the I bit. -/
  | sld (h : Hdr) (f : SRF)
  /-- SST (R174). Stores S[D] as one aligned 64-bit global word once for the split, weak or strong by the I bit. -/
  | sst (h : Hdr) (f : SRF)
  /-- SRD (R156). Reads a uniform special register into S[D]. -/
  | srd (h : Hdr) (f : SIF)
  /-- SWR (R170). Writes S[D] into a uniform special register, with effects such as rearming TIMER. -/
  | swr (h : Hdr) (f : SIF)
  /-- JMP (R175). Branches the split to PC + 4 + 4 x sext(off19). -/
  | jmp (h : Hdr) (f : SBF)
  /-- CALL (R175). Writes S63 := PC + 4 and branches. -/
  | call (h : Hdr) (f : SBF)
  /-- JR (R175). Writes an optional link and jumps to S[A], faulting ALIGN or PAGE on a bad target. -/
  | jr (h : Hdr) (f : SRF)
  /-- JOIN (R24). Handles a DEFER or ARRIVED entry or parks the split to merge with others of the same tag. -/
  | join (h : Hdr)
  /-- EXIT (R178). Retires every lane of the split. -/
  | exit (h : Hdr)
  /-- TRAP (R181). Raises TRAPI with an 8-bit code. -/
  | trap (h : Hdr) (f : SIF)
  /-- SYSCALL (R181). Raises SYSCALL to the supervisor with a 13-bit code. -/
  | syscall (h : Hdr) (f : SIF)
  /-- ERET (R182). Returns from the user or supervisor handler to the saved PC. -/
  | eret (h : Hdr)
  /-- WAITC (R31). Parks the split until an in-flight counter is at most S[A]. -/
  | waitc (h : Hdr) (f : SRF)
  /-- BAR (R32). Arrives at a team barrier and parks until all live groups arrive. -/
  | bar (h : Hdr) (f : SRF)
  /-- YIELD (R183). Makes the split the youngest of its priority level. -/
  | yield (h : Hdr)
  /-- SLEEP (R184). Parks the split until CLOCK reaches t0 + S[A] or an early wake. -/
  | sleep (h : Hdr) (f : SRF)
  /-- DWB (R240). Writes back the dirty bytes of L1 lines in a range or of all lines. -/
  | dwb (h : Hdr) (f : SRF)
  /-- DINV (R240). Writes back and drops L1 lines in a range, with matching scale-cache lines. -/
  | dinv (h : Hdr) (f : SRF)
  /-- ICINV (R241). Drops instruction-cache lines of the core in a range or all of them. -/
  | icinv (h : Hdr) (f : SRF)
  /-- FETCHB (R241). Discards prefetched words and orders later fetches after earlier ICINV, acquires and write-backs. -/
  | fetchb (h : Hdr)
  /-- MOV (R189). Copies operand A into V[D] in each active lane. -/
  | mov (h : Hdr) (f : LongF)
  /-- MOVI (R189). Writes the typed immediate X into V[D]. -/
  | movi (h : Hdr) (f : LongF)
  /-- IADD (R189). Integer addition, wrapped or saturated. -/
  | iadd (h : Hdr) (f : LongF)
  /-- ISUB (R189). Integer subtraction, wrapped or saturated. -/
  | isub (h : Hdr) (f : LongF)
  /-- IMUL (R189). Integer multiplication, wrapped or saturated. -/
  | imul (h : Hdr) (f : LongF)
  /-- IMULH (R189). High half of an integer product. -/
  | imulh (h : Hdr) (f : LongF)
  /-- IMAD (R189). Integer multiply-add. -/
  | imad (h : Hdr) (f : LongF)
  /-- IMIN (R189). Integer minimum. -/
  | imin (h : Hdr) (f : LongF)
  /-- IMAX (R189). Integer maximum. -/
  | imax (h : Hdr) (f : LongF)
  /-- IABS (R189). Integer absolute value. -/
  | iabs (h : Hdr) (f : LongF)
  /-- INEG (R189). Integer negation. -/
  | ineg (h : Hdr) (f : LongF)
  /-- AND (R190). Bitwise AND of two operands. -/
  | land (h : Hdr) (f : LongF)
  /-- OR (R190). Bitwise OR of two operands. -/
  | lor (h : Hdr) (f : LongF)
  /-- XOR (R190). Bitwise XOR of two operands. -/
  | lxor (h : Hdr) (f : LongF)
  /-- LOGT (R190). Applies an 8-bit truth table bitwise to three operands. -/
  | logt (h : Hdr) (f : LongF)
  /-- SHL (R191). Shifts left, giving 0 for counts at or beyond the width. -/
  | shl (h : Hdr) (f : LongF)
  /-- SHR (R191). Shifts right logically. -/
  | shr (h : Hdr) (f : LongF)
  /-- SRA (R191). Shifts right arithmetically. -/
  | sra (h : Hdr) (f : LongF)
  /-- BFE (R191). Extracts a bit field. -/
  | bfe (h : Hdr) (f : LongF)
  /-- BFI (R191). Inserts a bit field into operand C. -/
  | bfi (h : Hdr) (f : LongF)
  /-- POPC (R191). Counts one bits. -/
  | popc (h : Hdr) (f : LongF)
  /-- CLZ (R191). Counts leading zero bits. -/
  | clz (h : Hdr) (f : LongF)
  /-- BREV (R191). Reverses the bits. -/
  | brev (h : Hdr) (f : LongF)
  /-- ICMP (R192). Writes a predicate from an integer comparison. -/
  | icmp (h : Hdr) (f : LongF)
  /-- SEL (R192). Selects operand A or B by a predicate. -/
  | sel (h : Hdr) (f : LongF)
  /-- IDIV (R193). Integer division truncating toward zero, variable latency. -/
  | idiv (h : Hdr) (f : LongF)
  /-- IREM (R193). Integer remainder with the dividend's sign, variable latency. -/
  | irem (h : Hdr) (f : LongF)
  /-- IDOT4 (R194). Four-byte dot product accumulated into V[C]. -/
  | idot4 (h : Hdr) (f : LongF)
  /-- BSEL (R195). Builds each result byte from eight source bytes under selector bytes. -/
  | bsel (h : Hdr) (f : LongF)
  /-- NLUT (R196). Looks up eight 4-bit indices in a 16-byte table. -/
  | nlut (h : Hdr) (f : LongF)
  /-- PLOP (R197). Applies a truth table to three predicates. -/
  | plop (h : Hdr) (f : LongF)
  /-- PTOV (R197). Packs the lane's predicates into V[D]. -/
  | ptov (h : Hdr) (f : LongF)
  /-- VTOP (R197). Writes masked predicates from bits of V[A]. -/
  | vtop (h : Hdr) (f : LongF)
  /-- FADD (R199). Floating-point addition with one rounding. -/
  | fadd (h : Hdr) (f : LongF)
  /-- FSUB (R199). Floating-point subtraction. -/
  | fsub (h : Hdr) (f : LongF)
  /-- FMUL (R199). Floating-point multiplication. -/
  | fmul (h : Hdr) (f : LongF)
  /-- FFMA (R199). Fused multiply-add with one rounding. -/
  | ffma (h : Hdr) (f : LongF)
  /-- FMIN (R200). IEEE minimumNumber. -/
  | fmin (h : Hdr) (f : LongF)
  /-- FMAX (R200). IEEE maximumNumber. -/
  | fmax (h : Hdr) (f : LongF)
  /-- FCMP (R200). Writes a predicate from a floating-point comparison. -/
  | fcmp (h : Hdr) (f : LongF)
  /-- FDIV (R201). Correctly rounded division, variable latency. -/
  | fdiv (h : Hdr) (f : LongF)
  /-- FSQRT (R201). Correctly rounded square root, variable latency. -/
  | fsqrt (h : Hdr) (f : LongF)
  /-- FRCP (R202). Reciprocal within 1 ulp. -/
  | frcp (h : Hdr) (f : LongF)
  /-- FRSQ (R202). Reciprocal square root within 1 ulp. -/
  | frsq (h : Hdr) (f : LongF)
  /-- FEX2 (R202). Base-2 exponential. -/
  | fex2 (h : Hdr) (f : LongF)
  /-- FLG2 (R202). Base-2 logarithm. -/
  | flg2 (h : Hdr) (f : LongF)
  /-- FSIN (R202). Sine in radians. -/
  | fsin (h : Hdr) (f : LongF)
  /-- FCOS (R202). Cosine in radians. -/
  | fcos (h : Hdr) (f : LongF)
  /-- FTANH (R202). Hyperbolic tangent. -/
  | ftanh (h : Hdr) (f : LongF)
  /-- FCLASS (R203). Writes a one-hot class of the operand's bit pattern. -/
  | fclass (h : Hdr) (f : LongF)
  /-- FDOT2 (R204). Exact two-element dot product added to an f32 and rounded once. -/
  | fdot2 (h : Hdr) (f : LongF)
  /-- HADD2 (R205). Packed two-element addition. -/
  | hadd2 (h : Hdr) (f : LongF)
  /-- HMUL2 (R205). Packed two-element multiplication. -/
  | hmul2 (h : Hdr) (f : LongF)
  /-- HFMA2 (R205). Packed two-element fused multiply-add. -/
  | hfma2 (h : Hdr) (f : LongF)
  /-- FRND (R206). Rounds to an integral value by RM. -/
  | frnd (h : Hdr) (f : LongF)
  /-- FSCALE (R206). Multiplies by 2^n and rounds once. -/
  | fscale (h : Hdr) (f : LongF)
  /-- CVT (R207). Converts one value between numeric types. -/
  | cvt (h : Hdr) (f : LongF)
  /-- CVPK (R208). Converts two values and packs them into a slot of V[D]. -/
  | cvpk (h : Hdr) (f : LongF)
  /-- CVUP (R209). Converts two packed elements up to a wider type. -/
  | cvup (h : Hdr) (f : LongF)
  /-- QSCL (R210). Chooses a shared E8M0 scale for a block of lanes. -/
  | qscl (h : Hdr) (f : LongF)
  /-- QCVT (R211). Quantises values with a given scale into narrow elements. -/
  | qcvt (h : Hdr) (f : LongF)
  /-- VXCH (R213). Gives each lane operand A from another lane of its segment. -/
  | vxch (h : Hdr) (f : LongF)
  /-- RDLANE (R214). Reads one lane's V register into an S register. -/
  | rdlane (h : Hdr) (f : LongF)
  /-- WRLANE (R214). Writes an S register into one lane's V register. -/
  | wrlane (h : Hdr) (f : LongF)
  /-- VOTE (R215). Combines a predicate over active lanes into a K or S register. -/
  | vote (h : Hdr) (f : LongF)
  /-- FOLD (R216). Reduces operand A over active lanes. -/
  | fold (h : Hdr) (f : LongF)
  /-- SCAN (R216). Prefix-combines operand A over active lanes. -/
  | scan (h : Hdr) (f : LongF)
  /-- SAMEV (R217). Groups active lanes by equal operand values. -/
  | samev (h : Hdr) (f : LongF)
  /-- VSRD (R218). Reads a per-lane special register. -/
  | vsrd (h : Hdr) (f : LongF)
  /-- ELECT (R180). Sets a predicate in the lowest active lane only. -/
  | elect (h : Hdr) (f : LongF)
  /-- BRD (R23). Divides the split by a predicate, creating a split or pushing a DEFER entry. -/
  | brd (h : Hdr) (f : LongF)
  /-- LEXIT (R179). Retires the active lanes of the split. -/
  | lexit (h : Hdr) (f : LongF)
  /-- LD (R221). Loads one value per active lane from a memory space. -/
  | ld (h : Hdr) (f : LongF)
  /-- ST (R221). Stores one value per active lane to a memory space. -/
  | st (h : Hdr) (f : LongF)
  /-- ATOM (R224). Performs an atomic read-modify-write at the home and returns the old value. -/
  | atom (h : Hdr) (f : LongF)
  /-- ACAS (R225). Atomic compare-and-swap at the home. -/
  | acas (h : Hdr) (f : LongF)
  /-- RED (R227). Atomic reduction without a returned value. -/
  | red (h : Hdr) (f : LongF)
  /-- REDT (R228). Tagged reduction deduplicated per source at the home slice. -/
  | redt (h : Hdr) (f : LongF)
  /-- FENCE (R229). Orders accesses and waits for selected engine operations at its scope. -/
  | fence (h : Hdr) (f : LongF)
  /-- PREF (R230). Brings a global line toward the core without faulting. -/
  | pref (h : Hdr) (f : LongF)
  /-- ARRIVE (R232). Arrives on a barrier word, flipping its phase or poisoning it. -/
  | arrive (h : Hdr) (f : LongF)
  /-- WAITPH (R233). Parks the split until a barrier word's phase differs or it is poisoned. -/
  | waitph (h : Hdr) (f : LongF)
  /-- RAWAIT (R234). Claims one filled ring slot per active lane. -/
  | rawait (h : Hdr) (f : LongF)
  /-- RREL (R235). Releases a ring claim and advances the release frontier. -/
  | rrel (h : Hdr) (f : LongF)
  /-- QPUT (R236). Pushes one task per active lane to a cask. -/
  | qput (h : Hdr) (f : LongF)
  /-- QGET (R236). Pops one task from a cask. -/
  | qget (h : Hdr) (f : LongF)
  /-- MMA (R251). Multiplies memory operand tiles into an accumulator tile. -/
  | mma (h : Hdr) (f : LongF)
  /-- MMAS (R251). Block-scaled matrix multiply with explicit scale arrays. -/
  | mmas (h : Hdr) (f : LongF)
  /-- ACLR (R253). Zeroes an accumulator tile. -/
  | aclr (h : Hdr) (f : LongF)
  /-- ALD (R253). Loads accumulator bytes into V registers per lane. -/
  | ald (h : Hdr) (f : LongF)
  /-- AST (R253). Stores V registers into accumulator memory per lane. -/
  | ast (h : Hdr) (f : LongF)
  /-- ASTS (R254). Converts an accumulator tile and stores it to memory. -/
  | asts (h : Hdr) (f : LongF)
  /-- XQT (R255). Transposes a block-scaled tile and chooses new scales. -/
  | xqt (h : Hdr) (f : LongF)
  /-- TINST (R256). Starts installing a tun from a descriptor. -/
  | tinst (h : Hdr) (f : LongF)
  /-- TFREE (R257). Unbinds a tun and frees its operator memory. -/
  | tfree (h : Hdr) (f : LongF)
  /-- TDRAW (R259). Waits for a newer result of named draw slots and returns a slot image. -/
  | tdraw (h : Hdr) (f : LongF)
  /-- TSTAT (R258). Reads install status or tun counters into S[D]. -/
  | tstat (h : Hdr) (f : LongF)
  /-- RACK (R261). Parks every split at a team-wide compaction of surviving lanes. -/
  | rack (h : Hdr) (f : LongF)
  /-- RESAMP (R262). Arrives at a grid-wide resampling of the population. -/
  | resamp (h : Hdr) (f : LongF)
  /-- LXSTART (R263). Queues a lauter program on an engine and returns its handle. -/
  | lxstart (h : Hdr) (f : LongF)
  /-- LXSTAT (R264). Reads the state of a lauter program by handle. -/
  | lxstat (h : Hdr) (f : LongF)
  /-- LXKILL (R265). Stops a lauter program started by the team. -/
  | lxkill (h : Hdr) (f : LongF)
  /-- LAUTER_LI (R271). Loads a sign-extended immediate into an X register. -/
  | lauterLi (f : LauterF)
  /-- LAUTER_LIH (R271). Loads an immediate into the high half of an X register. -/
  | lauterLih (f : LauterF)
  /-- LAUTER_MOV (R271). Copies an X register. -/
  | lauterMov (f : LauterF)
  /-- LAUTER_ADD (R271). Adds two X registers. -/
  | lauterAdd (f : LauterF)
  /-- LAUTER_SUB (R271). Subtracts two X registers. -/
  | lauterSub (f : LauterF)
  /-- LAUTER_MUL (R271). Multiplies two X registers, low 64 bits. -/
  | lauterMul (f : LauterF)
  /-- LAUTER_AND (R271). Bitwise AND of X registers. -/
  | lauterAnd (f : LauterF)
  /-- LAUTER_OR (R271). Bitwise OR of X registers. -/
  | lauterOr (f : LauterF)
  /-- LAUTER_XOR (R271). Bitwise XOR of X registers. -/
  | lauterXor (f : LauterF)
  /-- LAUTER_SHL (R271). Shifts an X register left. -/
  | lauterShl (f : LauterF)
  /-- LAUTER_SHR (R271). Shifts an X register right. -/
  | lauterShr (f : LauterF)
  /-- LAUTER_ADDI (R271). Adds a sign-extended immediate. -/
  | lauterAddi (f : LauterF)
  /-- LAUTER_LDX (R272). Loads one value from memory into an X register. -/
  | lauterLdx (f : LauterF)
  /-- LAUTER_STX (R272). Stores the low bytes of an X register to memory. -/
  | lauterStx (f : LauterF)
  /-- LAUTER_BEQ (R273). Branches when two X registers are equal. -/
  | lauterBeq (f : LauterF)
  /-- LAUTER_BNE (R273). Branches when two X registers differ. -/
  | lauterBne (f : LauterF)
  /-- LAUTER_BLT (R273). Branches on signed less-than. -/
  | lauterBlt (f : LauterF)
  /-- LAUTER_BGE (R273). Branches on signed greater-or-equal. -/
  | lauterBge (f : LauterF)
  /-- LAUTER_JMP (R273). Always branches. -/
  | lauterJmp (f : LauterF)
  /-- LAUTER_LOOP (R274). Pushes a loop entry that repeats the next L instructions. -/
  | lauterLoop (f : LauterF)
  /-- LAUTER_DSET (R278). Loads a 64-byte tensor descriptor. -/
  | lauterDset (f : LauterF)
  /-- LAUTER_DIDX (R278). Sets the INDEX of one descriptor dimension. -/
  | lauterDidx (f : LauterF)
  /-- LAUTER_DSTEP (R278). Advances the outer descriptor dimensions as an odometer. -/
  | lauterDstep (f : LauterF)
  /-- LAUTER_MOVT (R280). Moves one sub-tensor with format conversion. -/
  | lauterMovt (f : LauterF)
  /-- LAUTER_GATH (R281). Gathers rows through an index list. -/
  | lauterGath (f : LauterF)
  /-- LAUTER_SCAT (R281). Scatters rows through an index list. -/
  | lauterScat (f : LauterF)
  /-- LAUTER_MCST (R282). Delivers a common slice and own slices to several receivers. -/
  | lauterMcst (f : LauterF)
  /-- LAUTER_LRED (R283). Reduces a sub-tensor into a destination with tagged units. -/
  | lauterLred (f : LauterF)
  /-- LAUTER_FILL (R285). Publishes filled ring slots by advancing WPTR. -/
  | lauterFill (f : LauterF)
  /-- LAUTER_ARRV (R286). Arrives on a barrier word as ARRIVE does. -/
  | lauterArrv (f : LauterF)
  /-- LAUTER_WAITB (R287). Parks the program on a barrier phase or free ring slots. -/
  | lauterWaitb (f : LauterF)
  /-- LAUTER_FENCE (R288). Holds later accesses until earlier ones are performed at its scope. -/
  | lauterFence (f : LauterF)
  /-- LAUTER_ABORT (R289). Ends the program as ABORTED with a code, as a core-scope release. -/
  | lauterAbort (f : LauterF)
  /-- LAUTER_END (R289). Ends the program as ENDED, as a core-scope release. -/
  | lauterEnd (f : LauterF)
  /-- STEEP_LDI (R355). Loads a sign-extended immediate or one 16-bit chunk into a Q register. -/
  | steepLdi (f : SteepF)
  /-- STEEP_MOV (R355). Writes Q[d] := Q[a] + sext(imm16). -/
  | steepMov (f : SteepF)
  /-- STEEP_ADD (R355). Adds b to Q[d]. -/
  | steepAdd (f : SteepF)
  /-- STEEP_SUB (R355). Subtracts b from Q[d]. -/
  | steepSub (f : SteepF)
  /-- STEEP_AND (R355). ANDs b into Q[d]. -/
  | steepAnd (f : SteepF)
  /-- STEEP_OR (R355). ORs b into Q[d]. -/
  | steepOr (f : SteepF)
  /-- STEEP_SHL (R355). Shifts Q[d] left by b. -/
  | steepShl (f : SteepF)
  /-- STEEP_SHR (R355). Shifts Q[d] right by b. -/
  | steepShr (f : SteepF)
  /-- STEEP_LDPF (R355). Reads a quadword of the private packet copy. -/
  | steepLdpf (f : SteepF)
  /-- STEEP_STPF (R355). Writes a quadword of the private packet copy, keeping protected header bits. -/
  | steepStpf (f : SteepF)
  /-- STEEP_LDW (R355). Acquire-loads a window word at the window's scope. -/
  | steepLdw (f : SteepF)
  /-- STEEP_STW (R355). Release-stores a window word. -/
  | steepStw (f : SteepF)
  /-- STEEP_BZ (R355). Branches forward when Q[a] is zero. -/
  | steepBz (f : SteepF)
  /-- STEEP_BNZ (R355). Branches forward when Q[a] is non-zero. -/
  | steepBnz (f : SteepF)
  /-- STEEP_LOOP (R355). Runs the next L words a bounded number of times. -/
  | steepLoop (f : SteepF)
  /-- STEEP_EMIT (R355). Acquire-reads 64 bytes of a window into the run's emit list. -/
  | steepEmit (f : SteepF)
  /-- STEEP_WAITV (R355). Parks the run until a window word equals Q[d]. -/
  | steepWaitv (f : SteepF)
  /-- STEEP_SIGNAL (R355). Adds Q[d] to a window word at its home as a release. -/
  | steepSignal (f : SteepF)
  /-- STEEP_DROP (R357). Ends the run, starts emitted packets and lets the packet complete with no effect. -/
  | steepDrop (f : SteepF)
  /-- STEEP_FAULTQ (R356). Raises HOOKFAULT on the queue. -/
  | steepFaultq (f : SteepF)
  /-- STEEP_END (R357). Ends the run, starts emitted packets and lets the edited packet start. -/
  | steepEnd (f : SteepF)
  /-- VARIABLE_LATENCY_RESULT (R28). A pending variable-latency register result is written into its register. -/
  | variableLatencyResult (sp : SplitRef) (op : Nat) (lanes : Mask)
  /-- OPERATION_COMPLETION (R31). An operation on a counter path completes and its counter is lowered in issue order. -/
  | operationCompletion (group : Nat) (path : BitVec 3)
  /-- USER_TRAP_ENTRY (R34). A user-deliverable cause is taken at the user handler, writing UTCAUSE, UTEPC, FAULTMASK, FAULTADDR and the trap frame. -/
  | userTrapEntry (sp : SplitRef)
  /-- SUPERVISOR_TRAP_ENTRY (R324). A cause is taken at the supervisor handler with SCAUSE, SEPC and SSTATUS written. -/
  | supervisorTrapEntry (sp : SplitRef)
  /-- ESCALATION (R324). A cause with no supervisor handler, or inside it, stops the group and sends the Kiln a partition fault. -/
  | escalation (sp : SplitRef)
  /-- TIMER_DUE (R36). CLOCK reaches TIMECMP and TIMER becomes pending for each split, ending a SLEEP early. -/
  | timerDue (group : Nat)
  /-- SWAP_OUT (R399). RUN := 0 on a running partition saves all its state and halts its cores. -/
  | swapOut (part : Nat)
  /-- RACK_EFFECT (R39). Once all splits are parked and counters drain, survivors are packed into renumbered groups. -/
  | rackEffect (team : Nat)
  /-- RESAMP_EFFECT (R42). Once every live thread arrives and results drain, new counts are computed, light threads retire and clones are made. -/
  | resampEffect (grid : Nat)
  /-- SPLIT_WAKE (R363). A parked split becomes ready after its wake condition holds. -/
  | splitWake (sp : SplitRef)
  /-- PRIORITY_AGING (R364). A ready split's effective priority rises one level after 2 048 cycles without issue. -/
  | priorityAging (sp : SplitRef)
  /-- WAITPH_REREAD (R233). A changed barrier word is re-read for a parked WAITPH, ending the wait or trapping BARPOISON. -/
  | waitphReread (sp : SplitRef)
  /-- RAWAIT_CLAIM (R234). A filled slot or poison lets a waiting lane's claim proceed. -/
  | rawaitClaim (sp : SplitRef)
  /-- TDRAW_SERVE (R259). A newer READY or FAULTED image serves a waiting TDRAW's slot. -/
  | tdrawServe (sp : SplitRef) (slot : Nat)
  /-- TDRAW_TIMEOUT (R259). A TDRAW's timeout expires and it returns the slot image as it stands. -/
  | tdrawTimeout (sp : SplitRef)
  /-- SLEEP_WAKE (R184). The sleep time passes and the split is woken. -/
  | sleepWake (sp : SplitRef)
  /-- TUN_FIRE (R138). A fire finishes, writing status and M results as one unit and applying held stores. -/
  | tunFire (tun : Nat) (slot : Nat)
  /-- FILL_TIMEOUT (R137). A slot's fill timer reaches FILLTMO and the fill is abandoned. -/
  | fillTimeout (tun : Nat) (slot : Nat)
  /-- INSTALL_COMPLETION (R132). A tun install finishes loading operator memory and clearing slots, or ends with READFAULT. -/
  | installCompletion (tun : Nat)
  /-- LAUTER_PROGRAM_START (R263). An engine starts its next accepted program once it is free. -/
  | lauterProgramStart (eng : EngRef)
  /-- WAITB_REREAD (R287). A changed barrier word or ring header is re-read for a waiting program. -/
  | waitbReread (eng : EngRef)
  /-- FAULT_RESUME (R291). A disposition of resume restarts the faulted instruction or move from DELIV. -/
  | faultResume (eng : EngRef)
  /-- FAULT_ABORT (R291). A disposition of abort ends the program ABORTED with code 0xFF. -/
  | faultAbort (eng : EngRef)
  /-- FAULT_ABORT_AND_POISON (R291). A disposition of abort and poison poisons the bound words and ends the program. -/
  | faultAbortAndPoison (eng : EngRef)
  /-- CELLAR_MOVE (R237). Entries move from the cellar's head to free on-chip cask entries. -/
  | cellarMove (cask : Nat)
  /-- TASK_ENTRY_TAKE (R367). The scheduler takes a cask entry into the forming group of its entry index. -/
  | taskEntryTake (grid : Nat) (cask : Nat)
  /-- FILL_DELAY_EXPIRY (R367). A partial forming group or team reaches its fill delay and is completed. -/
  | fillDelayExpiry (grid : Nat) (entry : Nat)
  /-- TEAM_PLACEMENT (R360). A waiting team is placed on a core or pair once resources allow. -/
  | teamPlacement (grid : Nat)
  /-- GRID_RETIREMENT (R368). A grid retires when its teams are gone and, for a task grid, its casks are drained. -/
  | gridRetirement (grid : Nat)
  /-- BUDGET_PERIOD (R371). A cluster's matrix power budget for a new microsecond becomes available. -/
  | budgetPeriod (cluster : Nat)
  /-- MATRIX_WAIT_LIMIT (R371). A matrix operation that has waited 20 µs goes next. -/
  | matrixWaitLimit (core : Nat)
  /-- MONITOR_POLL (R421). Firmware reads temperature, voltage and power monitors and acts on them. -/
  | monitorPoll (die : Nat) (r : MonitorReading)
  /-- KICK (R333). A NOTIFY write with OP 0 makes the VCP read WPTR of the queue. -/
  | kick (q : QueueRef)
  /-- RESTART (R336). A NOTIFY write with OP 1 re-reads a faulted queue's packet from its header. -/
  | restart (q : QueueRef)
  /-- SKIP (R336). A NOTIFY write with OP 2 completes the faulting packet SKIPPED and continues. -/
  | skip (q : QueueRef)
  /-- WAKE (R331). A WAKE write ends the SLEEP of each split of the named group. -/
  | wake (part : Nat) (v : DWord)
  /-- VCP_PACKET_READ (R335). The VCP acquires a packet header, checks PHASE and SEQ and accepts the packet. -/
  | vcpPacketRead (q : QueueRef)
  /-- PHASE_REREAD (R335). A header with the wrong PHASE is read again when it changes or after 2 µs. -/
  | phaseReread (q : QueueRef)
  /-- STALE_PACKET (R335). PHASE still differs 100 µs after the first read and the queue faults. -/
  | stalePacket (q : QueueRef)
  /-- LAUNCH (R338). A LAUNCH packet starts a grid or completes with a refusal status. -/
  | launch (p : PacketRef)
  /-- BUNDLE (R342). A BUNDLE reserves resources for all members and starts them in one cycle. -/
  | bundle (p : PacketRef)
  /-- LXRUN (R337). An LXRUN packet starts a lauter program on a named core and engine. -/
  | lxrun (p : PacketRef)
  /-- WAITMEM (R337). A WAITMEM packet waits until a masked word meets a condition. -/
  | waitmem (p : PacketRef)
  /-- WAITMEM_REREAD (R337). A changed watched word is re-read as an acquire and may complete the WAITMEM. -/
  | waitmemReread (p : PacketRef)
  /-- WAITMEM_TIMEOUT (R337). A WAITMEM's timeout expires and it completes TIMEOUT. -/
  | waitmemTimeout (p : PacketRef)
  /-- SIGNAL (R341). A SIGNAL packet performs its store, add or or as the completion release once earlier packets complete. -/
  | signal (p : PacketRef)
  /-- GRAPH (R345). A GRAPH packet submits a replay, snapshotting parameters and version. -/
  | graph (p : PacketRef)
  /-- GRAPH_REPLAY_START (R345). A replay of a non-reentrant object starts after the previous one completes. -/
  | graphReplayStart (p : PacketRef)
  /-- PATCH (R345). A PATCH writes masked bytes of one node into a new graph version. -/
  | patch (p : PacketRef)
  /-- TIMESTAMP (R337). A TIMESTAMP packet writes CLOCK at acceptance or after earlier packets complete. -/
  | timestamp (p : PacketRef)
  /-- RESERVE (R369). A RESERVE packet reserves cores for the partition's RSV launches. -/
  | reserve (p : PacketRef)
  /-- RESERVE_RELEASE (R369). A RESERVE packet with RELEASE returns reserved cores. -/
  | reserveRelease (p : PacketRef)
  /-- TUNOP_INSTALL (R337). A TUNOP with op 0 performs TINST on the named core and writes the status word. -/
  | tunopInstall (p : PacketRef)
  /-- TUNOP_FREE (R337). A TUNOP with op 1 performs TFREE and writes the status word. -/
  | tunopFree (p : PacketRef)
  /-- SAVEQ (R347). Stops named queues, pre-empts their work and writes it to a save area. -/
  | saveq (p : PacketRef)
  /-- RESTQ (R347). Restores saved queues and work from a save area. -/
  | restq (p : PacketRef)
  /-- PACKET_COMPLETION (R341). A packet completes and CPTR advances in order, as a release when ROC = 1. -/
  | packetCompletion (p : PacketRef)
  /-- CUSTOM_PACKET (R351). A packet of type 0xF0–0xFF runs its bound program and completes OK with no effect. -/
  | customPacket (p : PacketRef)
  /-- STEEP_WAITV_REREAD (R355). A changed window word is re-read for a parked WAITV. -/
  | steepWaitvReread (run : Nat)
  /-- STEEP_WAITV_TIMEOUT (R355). A WAITV parked 10 ms faults the run. -/
  | steepWaitvTimeout (run : Nat)
  /-- STEEPREQ (R348). A write of a request address to STEEPREQ queues one steep load. -/
  | steepreq (v : DWord)
  /-- STEEP_LOAD (R349). The interpreter verifies and installs a queued steep and writes STATUS as a release. -/
  | steepLoad
  /-- PARTITION_ENABLE (R386). Setting EN creates the partition, or the Kiln refuses the write. -/
  | partitionEnable (part : Nat)
  /-- PARTITION_DESTROY (R387). Clearing EN discards the partition's work, tuns, casks and TLB entries. -/
  | partitionDestroy (part : Nat)
  /-- SWAP_IN (R399). RUN := 1 on a swapped partition restores its state onto its cores or is refused. -/
  | swapIn (part : Nat)
  /-- PARTITION_START (R399). RUN := 1 on a stopped partition starts it with nothing saved. -/
  | partitionStart (part : Nat)
  /-- WAYMASK_WRITE (R386). A WAYMASK write governs the partition's later L2 allocations. -/
  | waymaskWrite (part : Nat) (mask : DWord)
  /-- GCTL_RESUME (R391). A GCTL resume restarts an escalated group. -/
  | gctlResume (part : Nat) (slot : Nat)
  /-- GCTL_RETIRE (R391). A GCTL retire retires every lane of a stopped group. -/
  | gctlRetire (part : Nat) (slot : Nat)
  /-- GCTL_ENGINE_RESUME (R391). A GCTL resume with ENG resumes a lauter program stopped for the hypervisor. -/
  | gctlEngineResume (part : Nat) (slot : Nat)
  /-- ATTREQ (R424). A nonce address written to ATTREQ makes firmware write a signed attestation report. -/
  | attreq (v : DWord)
  /-- REGISTER_WRITE (R6). A write to a device, mailbox or Kiln register without its own row updates its RW fields. -/
  | registerWrite (r : RegRef) (v : DWord)
  /-- HOST_WRITE (R411). A host write arrives and is applied in order as a device-scope release. -/
  | hostWrite (h : HostRef) (addr : DWord) (bytes : List Byte)
  /-- HOST_READ (R411). A host read arrives and is performed as a system-scope acquire load. -/
  | hostRead (h : HostRef) (addr : DWord) (size : Nat)
  /-- DOORBELL (R411). A host write to mailbox offset 0x18 increments DOOR. -/
  | doorbell (h : HostRef)
  /-- REMOTE_REQUEST (R407). A remote request arrives at the home and is accepted and performed, or NAKed. -/
  | remoteRequest (r : RemoteReq)
  /-- REMOTE_ANSWER (R408). An ACCEPT, NAK or COMPLETE arrives at the sender, releasing or trapping lanes. -/
  | remoteAnswer (req : Nat) (a : RemoteAns)
  /-- REMTIMEOUT (R408). No answer arrives within REMTMO and the lanes raise REMTIMEOUT. -/
  | remtimeout (req : Nat)
  /-- DEADLINE_FLUSH (R414). A deadline entry flushes, copying TARGET to FWD with a release header. -/
  | deadlineFlush (part : Nat) (entry : Nat)
  /-- GANG_NOTICE (R416). A gang failure notice arrives and the device marks its matching gang failed. -/
  | gangNotice (name : GangName)
  /-- UNRELIABLE_PACKET (R403). A packet for unreliable delivery is dropped and counted. -/
  | unreliablePacket (port : Nat)
  /-- ERROR_RETRY (R417). A detected error is retried once and classed transient or lasting. -/
  | errorRetry (e : ErrorSite) (lasting : Bool)
  /-- POWER_UP (R422). The board brings up the I/O, memory and core rails in sequence. -/
  | powerUp (rail : Rail)
  /-- RESET_RELEASE (R423). Reset is released and the Kiln boots, verifies the firmware and starts it or enters recovery. -/
  | resetRelease
  /-- PROVISIONING_IMAGE (R425). A provisioning image arrives over port 0 and is verified and stored for the next reset. -/
  | provisioningImage (img : FirmwareImage) (fromPort : Nat)
  /-- I3C_READ (R422). The I3C target answers a telemetry read. -/
  | i3cRead (what : Telemetry)
  /-- I3C_CCC (R422). The I3C target handles a standard common command code. -/
  | i3cCcc (code : Byte)
  /-- POWER_LOSS (R425). Power is lost, which may leave a partly written firmware image that fails verification at the next boot. -/
  | powerLoss (partWritten : Bool)
  /-- SECOND_STAGE_TABLE_WRITE (R383). The Kiln writes a second-stage table entry, and every TLB and walk-cache copy of it is dropped before the write completes. -/
  | secondStageTableWrite (addr : Nat) (v : DWord)
deriving DecidableEq, Repr

end Sys2Proof
end

