-- ==== Sys2Proof/Machine/Legal.lean ====
section
/-! DEFINITION. Which encodings are legal (R152): the rule of each instruction's entry on its own fields, before the guard and
before any state is looked at. What also depends on the kernel (the declared V count, GWIDTH, the level) is checked by the
meaning. -/

namespace Sys2Proof.Machine

/-! ### Type codes (R101) -/

/-- The bits of a value of the type; 0 for a code that names no type. -/
def tyBits (ty : BitVec 5) : Nat :=
  match ty.toNat with
  | 0 | 5 | 6 | 11 => 32
  | 1 | 2 | 13 | 14 | 18 => 8
  | 3 | 4 | 9 | 10 => 16
  | 7 | 8 | 12 | 21 => 64
  | 15 | 16 => 6
  | 17 | 19 | 20 => 4
  | 22 => 128
  | 23 => 256
  | _ => 0

/-- The V registers a value of the type occupies: one, an even pair, four or eight (R101). -/
def tyRegs (ty : BitVec 5) : Nat :=
  match ty.toNat with
  | 7 | 8 | 12 | 21 => 2
  | 22 => 4
  | 23 => 8
  | _ => 1

/-- A floating-point type with a sign (R103). -/
def tySignedFloat (ty : BitVec 5) : Bool :=
  let t := ty.toNat
  (9 ≤ t && t ≤ 17)

/-- Any floating-point type, `.e8m0` among them. -/
def tyFloat (ty : BitVec 5) : Bool := tySignedFloat ty || ty.toNat == 18

/-- A signed integer type (R106). -/
def tySignedInt (ty : BitVec 5) : Bool :=
  match ty.toNat with
  | 2 | 4 | 6 | 8 | 19 => true
  | _ => false

/-- An unsigned integer type (R106). -/
def tyUnsignedInt (ty : BitVec 5) : Bool :=
  match ty.toNat with
  | 1 | 3 | 5 | 7 | 20 => true
  | _ => false

/-- A raw type: `.b32`, `.b64`, `.b128`, `.b256`. -/
def tyRaw (ty : BitVec 5) : Bool :=
  match ty.toNat with
  | 0 | 21 | 22 | 23 => true
  | _ => false

/-- The type code is one of those an entry lists (R102). -/
def tyIn (ty : BitVec 5) (l : List Nat) : Bool := l.contains ty.toNat

/-- `.n8` to `.i64` (R188). -/
def intTypes : List Nat := [1, 2, 3, 4, 5, 6, 7, 8]
/-- `.n32`, `.i32`, `.n64`, `.i64`. -/
def wideIntTypes : List Nat := [5, 6, 7, 8]
/-- `.b32`, `.b64`. -/
def rawTypes : List Nat := [0, 21]
/-- `.f16`, `.bf16`, `.f32`, `.f64` (R198). -/
def fpTypes : List Nat := [9, 10, 11, 12]
/-- `.f16`, `.bf16`, `.f32` (R198, the transcendentals). -/
def fpSmallTypes : List Nat := [9, 10, 11]
/-- `.f16`, `.bf16`, packed. -/
def packedTypes : List Nat := [9, 10]
/-- The types of R150's immediate table. -/
def immTypes : List Nat := [0, 1, 2, 3, 4, 5, 6, 7, 8, 9, 10, 11, 12, 13, 14, 17, 19, 20, 21]
/-- The elements a register holds of a packed type of the CVPK table (R208); 0 for a type not in it. -/
def packElems (ty : BitVec 5) : Nat :=
  match ty.toNat with
  | 9 | 10 => 2
  | 13 | 14 | 18 | 2 | 1 | 15 | 16 => 4
  | 17 | 19 | 20 => 8
  | _ => 0

/-! ### Fields -/

/-- An S register number in an 8-bit field: bits 7:6 zero (R148). -/
def isS (r : BitVec 8) : Bool := r.toNat < 64
/-- A P or K register number in an 8-bit field: bits 7:3 zero (R148). -/
def isP (r : BitVec 8) : Bool := r.toNat < 8
/-- A V register number aligned for `n` registers (R101, R102, R152). -/
def isV (n : Nat) (r : BitVec 8) : Bool := r.toNat % n == 0
/-- Bits 5 down to `lo` of a field are zero and bits above are free: `x` is below `2 ^ hi`. -/
def below (x : BitVec 32) (n : Nat) : Bool := x.toNat < n

/-- Operand A: S[A] with MO bit 0, else V[A] aligned for `n` registers (R150). -/
def srcAOk (n : Nat) (f : LongF) : Bool := if f.mo.getLsbD 0 then isS f.a else isV n f.a
/-- Operand B: S[B] with MO bit 1, the immediate X with bit 2, else V[B]; not both bits; X reserved unless it is the
operand (R148, R150). -/
def srcBOk (n : Nat) (f : LongF) : Bool :=
  if f.mo.getLsbD 2 then !f.mo.getLsbD 1 && f.b.toNat == 0
  else (if f.mo.getLsbD 1 then isS f.b else isV n f.b) && f.x.toNat == 0
/-- Operand B without an immediate: X holds a selector, table or mode (R185). -/
def srcBNoImm (n : Nat) (f : LongF) : Bool :=
  !f.mo.getLsbD 2 && (if f.mo.getLsbD 1 then isS f.b else isV n f.b)
/-- No operand B: the field, MO bits 1 and 2 reserved. -/
def noB (f : LongF) : Bool := f.b.toNat == 0 && !f.mo.getLsbD 1 && !f.mo.getLsbD 2
/-- The modifier bits set are among `allowed`, and no negate bit stands on an `.n` or `.b` type (R150). -/
def modsOk (allowed : Nat) (f : LongF) : Bool :=
  f.sc.toNat &&& allowed == f.sc.toNat &&
  (f.sc.toNat % 8 == 0 || tySignedInt f.ty || tySignedFloat f.ty) &&
  (!f.sc.getLsbD 3 || tySignedFloat f.ty)
/-- SAT and RM both zero. -/
def noSatRm (f : LongF) : Bool := !f.sat && f.rm.toNat == 0
/-- Everything but OP, D and the header is zero below word 0, and A too when `noA`. -/
def word1Zero (f : LongF) : Bool :=
  f.sc.toNat == 0 && f.mo.toNat == 0 && noSatRm f && f.ty.toNat == 0 && f.c.toNat == 0 && f.b.toNat == 0

/-- A guard is legal: not `?!p7` or `?!k7` (R144). -/
def guardOk (h : Hdr) : Bool := !(h.gn && h.g.toNat == 7)
/-- The guard of JOIN and RACK: exactly "always" (R177, R38). -/
def guardAlways (h : Hdr) : Bool := !h.gn && h.g.toNat == 7

/-! ### The integer and logic entries (R188 to R197) -/

/-- `op.ty vD, a, b` on integers of the listed types. -/
def intBinOk (types : List Nat) (satOk : Bool) (f : LongF) : Bool :=
  let n := tyRegs f.ty
  tyIn f.ty types && isV n f.d && srcAOk n f && srcBOk n f && f.c.toNat == 0 && modsOk 3 f && f.rm.toNat == 0 &&
  (satOk || !f.sat)
/-- `op.ty vD, a, b, vC`. -/
def intTriOk (types : List Nat) (satOk : Bool) (f : LongF) : Bool :=
  let n := tyRegs f.ty
  tyIn f.ty types && isV n f.d && srcAOk n f && srcBOk n f && isV n f.c && modsOk 7 f && f.rm.toNat == 0 &&
  (satOk || !f.sat)
/-- `op.ty vD, a`; the result aligned for `nd` registers. -/
def intUnOk (types : List Nat) (satOk : Bool) (nd : Nat) (f : LongF) : Bool :=
  tyIn f.ty types && isV nd f.d && srcAOk (tyRegs f.ty) f && noB f && f.c.toNat == 0 && f.x.toNat == 0 && modsOk 1 f &&
  f.rm.toNat == 0 && (satOk || !f.sat)
/-- A shift or BFE: operand B is a 32-bit count or control (R188). -/
def shiftOk (types : List Nat) (f : LongF) : Bool :=
  let n := tyRegs f.ty
  tyIn f.ty types && isV n f.d && srcAOk n f && srcBOk 1 f && f.c.toNat == 0 && modsOk 3 f && noSatRm f
def movOk (f : LongF) : Bool := intUnOk rawTypes false (tyRegs f.ty) f
/-- IABS, INEG: the signed types of 8 to 64 bits. -/
def intAbsOk (f : LongF) : Bool := intUnOk [2, 4, 6, 8] true (tyRegs f.ty) f
def brevOk (f : LongF) : Bool := intUnOk rawTypes false (tyRegs f.ty) f
def moviOk (f : LongF) : Bool :=
  tyIn f.ty immTypes && isV (tyRegs f.ty) f.d && f.a.toNat == 0 && f.b.toNat == 0 && f.c.toNat == 0 && f.mo.toNat == 0 &&
  f.sc.toNat == 0 && noSatRm f
def logtOk (f : LongF) : Bool :=
  let n := tyRegs f.ty
  tyIn f.ty rawTypes && isV n f.d && srcAOk n f && srcBNoImm n f && isV n f.c && modsOk 0 f && noSatRm f && below f.x 256
def bfiOk (f : LongF) : Bool :=
  let n := tyRegs f.ty
  tyIn f.ty rawTypes && isV n f.d && srcAOk n f && srcBOk 1 f && isV n f.c && modsOk 0 f && noSatRm f
/-- ICMP: a condition in SC, eq ne bany bnone only for raw types (R192). -/
def icmpOk (f : LongF) : Bool :=
  let n := tyRegs f.ty
  tyIn f.ty (intTypes ++ rawTypes) && isP f.d && srcAOk n f && srcBOk n f && f.c.toNat == 0 && f.sc.toNat < 8 &&
  (!tyRaw f.ty || f.sc.toNat < 2 || f.sc.toNat ≥ 6) && noSatRm f
def selOk (f : LongF) : Bool :=
  let n := tyRegs f.ty
  tyIn f.ty rawTypes && isV n f.d && srcAOk n f && srcBOk n f && isP f.c && modsOk 0 f && noSatRm f
def idot4Ok (f : LongF) : Bool :=
  tyIn f.ty [1, 2] && srcAOk 1 f && srcBOk 1 f && f.sc.toNat == 0 && f.rm.toNat == 0
/-- Each selector byte of BSEL has bits 7:5 zero (R195). -/
def bselOk (f : LongF) : Bool :=
  tyIn f.ty [0] && srcAOk 1 f && srcBNoImm 1 f && f.c.toNat == 0 && f.sc.toNat == 0 && noSatRm f &&
  (f.x &&& 0xE0E0E0E0#32).toNat == 0
/-- NLUT: D even; the table in V[B] to V[B + 3] with B a multiple of 4, or S[B], S[B + 1] with B even (R196). -/
def nlutOk (f : LongF) : Bool :=
  tyIn f.ty [21] && isV 2 f.d && srcAOk 1 f && !f.mo.getLsbD 2 &&
  (if f.mo.getLsbD 1 then isS f.b && f.b.toNat % 2 == 0 else isV 4 f.b) && f.c.toNat == 0 && f.x.toNat == 0 &&
  f.sc.toNat == 0 && noSatRm f
def plopOk (f : LongF) : Bool :=
  f.ty.toNat == 0 && isP f.d && isP f.a && isP f.b && isP f.c && f.mo.toNat == 0 && f.sc.toNat == 0 && noSatRm f && below f.x 256
def ptovOk (f : LongF) : Bool := word1Zero f && f.a.toNat == 0 && f.x.toNat == 0
def vtopOk (f : LongF) : Bool := word1Zero f && f.d.toNat == 0 && below f.x 128

/-! ### The floating-point entries (R198 to R206) -/

/-- RM in the codes 0 to 5, or 0 alone (R107, R198). -/
def rmOk (all : Bool) (f : LongF) : Bool := if all then f.rm.toNat ≤ 5 else f.rm.toNat == 0
def fpBinOk (types : List Nat) (rmAll : Bool) (f : LongF) : Bool :=
  let n := tyRegs f.ty
  tyIn f.ty types && isV n f.d && srcAOk n f && srcBOk n f && f.c.toNat == 0 && modsOk 11 f && rmOk rmAll f
def fpTriOk (types : List Nat) (f : LongF) : Bool :=
  let n := tyRegs f.ty
  tyIn f.ty types && isV n f.d && srcAOk n f && srcBOk n f && isV n f.c && modsOk 15 f && rmOk true f
def fpUnOk (types : List Nat) (rmAll : Bool) (f : LongF) : Bool :=
  let n := tyRegs f.ty
  tyIn f.ty types && isV n f.d && srcAOk n f && noB f && f.c.toNat == 0 && f.x.toNat == 0 && modsOk 9 f && rmOk rmAll f
def fcmpOk (f : LongF) : Bool :=
  let n := tyRegs f.ty
  tyIn f.ty fpTypes && isP f.d && srcAOk n f && srcBOk n f && f.c.toNat == 0 && f.sc.toNat < 8 && noSatRm f
def fclassOk (f : LongF) : Bool :=
  tyIn f.ty fpTypes && srcAOk (tyRegs f.ty) f && noB f && f.c.toNat == 0 && f.x.toNat == 0 && f.sc.toNat == 0 && noSatRm f
def fscaleOk (f : LongF) : Bool :=
  let n := tyRegs f.ty
  tyIn f.ty fpTypes && isV n f.d && srcAOk n f && srcBOk 1 f && f.c.toNat == 0 && modsOk 9 f && rmOk true f

/-! ### Conversion and quantisation (R207 to R211) -/

/-- X<4:0>: the source type of a conversion. -/
def srcTy (f : LongF) : BitVec 5 := f.x.extractLsb' 0 5
/-- X<7:5>: the slot of CVPK, CVUP and QCVT. -/
def slotJ (f : LongF) : Nat := (f.x.extractLsb' 5 3).toNat
/-- Modifiers of a conversion: among `allowed`, and only on a signed floating-point source (R207, R208, R209). -/
def cvtMods (allowed : Nat) (f : LongF) : Bool :=
  f.sc.toNat &&& allowed == f.sc.toNat && (f.sc.toNat == 0 || tySignedFloat (srcTy f))
def numericTy (ty : BitVec 5) : Bool := 1 ≤ ty.toNat && ty.toNat ≤ 20
def cvtOk (f : LongF) : Bool :=
  numericTy f.ty && numericTy (srcTy f) && isV (tyRegs f.ty) f.d && srcAOk (tyRegs (srcTy f)) f && noB f && f.c.toNat == 0 &&
  below f.x 32 && cvtMods 9 f && rmOk true f
def cvpkOk (f : LongF) : Bool :=
  tyIn (srcTy f) [11, 9, 10, 6, 5] && srcAOk 1 f && srcBNoImm 1 f && f.c.toNat == 0 && below f.x 256 && cvtMods 11 f &&
  rmOk true f && 2 * slotJ f + 1 < packElems f.ty
def cvupOk (f : LongF) : Bool :=
  tyIn f.ty [11, 6, 5, 9, 10] && (if tyIn f.ty [11, 6, 5] then isV 2 f.d else true) && srcAOk 1 f && noB f &&
  f.c.toNat == 0 && below f.x 256 && cvtMods 9 f && rmOk true f && 2 * slotJ f + 1 < packElems (srcTy f)
def qsclOk (f : LongF) : Bool :=
  tyIn f.ty [13, 14, 15, 16, 17] && tyIn (srcTy f) [11, 9, 10] && srcAOk 1 f && noB f && f.c.toNat == 0 && below f.x 64 &&
  f.sc.toNat == 0 && noSatRm f
/-- QCVT (R211): a scale in B, slot j naming elements that exist. A sign or absolute value for A may be asked, none for the scale: SC bit 1 raises
ILLOP (DESIGN CHOICE, R211 does not speak of SC and R150 has the bit negate operand B; log entry 126). -/
def qcvtOk (f : LongF) : Bool :=
  tyIn f.ty [13, 14, 15, 16, 17] && tyIn (srcTy f) [11, 9, 10] && srcAOk 1 f && srcBNoImm 1 f && f.c.toNat == 0 &&
  below f.x 256 && cvtMods 9 f && rmOk true f && !f.sat &&
  (if tyIn (srcTy f) [11] then slotJ f < packElems f.ty else 2 * slotJ f + 1 < packElems f.ty)

/-! ### Cross-lane entries (R213 to R218, R180, R176, R179) -/

def vxchOk (f : LongF) : Bool :=
  let n := tyRegs f.ty
  tyIn f.ty rawTypes && isV n f.d && isV n f.a && (if f.mo.getLsbD 2 then f.b.toNat == 0 else f.x.toNat == 0) &&
  f.c.toNat ≤ 6 && f.sc.toNat == 0 && noSatRm f
/-- Operand B of RDLANE and WRLANE names the lane: S[B] or X (R214). -/
def laneNOk (f : LongF) : Bool :=
  (f.mo.getLsbD 1 && !f.mo.getLsbD 2 && isS f.b && f.x.toNat == 0) || (f.mo.getLsbD 2 && !f.mo.getLsbD 1 && f.b.toNat == 0)
def rdlaneOk (f : LongF) : Bool :=
  tyIn f.ty rawTypes && isS f.d && isV (tyRegs f.ty) f.a && !f.mo.getLsbD 0 && laneNOk f && f.c.toNat == 0 && f.sc.toNat == 0 && noSatRm f
def wrlaneOk (f : LongF) : Bool :=
  tyIn f.ty rawTypes && isV (tyRegs f.ty) f.d && isS f.a && f.mo.getLsbD 0 && laneNOk f && f.c.toNat == 0 && f.sc.toNat == 0 && noSatRm f
def voteOk (f : LongF) : Bool :=
  f.sc.toNat ≤ 4 && (if f.sc.toNat ≤ 1 then isP f.d else isS f.d) && isP f.a && f.ty.toNat == 0 && f.mo.toNat == 0 && noSatRm f &&
  f.b.toNat == 0 && f.c.toNat == 0 && f.x.toNat == 0
/-- The operation and the type of FOLD and SCAN fit, with their RM and SAT (R216). -/
def foldTyOk (f : LongF) : Bool :=
  let op := (f.x.extractLsb' 0 3).toNat
  if tyIn f.ty wideIntTypes then op ≤ 5 && f.rm.toNat == 0 && (!f.sat || op == 0)
  else tyIn f.ty fpTypes && op ≤ 2 && !f.sat && (if op == 0 then f.rm.toNat ≤ 5 else f.rm.toNat == 0)
def foldOk (f : LongF) : Bool :=
  foldTyOk f && isV (tyRegs f.ty) f.d && isV (tyRegs f.ty) f.a && f.mo.toNat == 0 && f.sc.toNat == 0 && f.b.toNat == 0 &&
  f.c.toNat == 0 && below f.x 8
def scanOk (f : LongF) : Bool :=
  foldTyOk f && isV (tyRegs f.ty) f.d && isV (tyRegs f.ty) f.a && f.mo.toNat == 0 && f.sc.toNat == 0 && f.b.toNat == 0 &&
  f.c.toNat == 0 && below f.x 16
def samevOk (f : LongF) : Bool :=
  tyIn f.ty rawTypes && isV (tyRegs f.ty) f.a && (if f.x.getLsbD 0 then true else isV 2 f.d) && below f.x 2 && f.mo.toNat == 0 &&
  f.sc.toNat == 0 && noSatRm f && f.b.toNat == 0 && f.c.toNat == 0
def vsrdOk (f : LongF) : Bool := word1Zero f && f.a.toNat == 0 && f.x.toNat ≤ 8
def electOk (f : LongF) : Bool := word1Zero f && f.a.toNat == 0 && f.x.toNat == 0 && f.d.toNat < 7
def brdOk (f : LongF) : Bool := word1Zero f && f.x.toNat % 4 == 0
def lexitOk (f : LongF) : Bool := word1Zero f && f.a.toNat == 0 && f.d.toNat == 0 && f.x.toNat == 0

/-! ### The memory class (R151, R219 to R238) -/

/-- Scope and order: order among `orders`; SC 0 to 11, 0 when weak (R68, R151, R219). -/
def orderOk (orders : List Nat) (f : LongF) : Bool :=
  orders.contains f.mo.toNat && f.sc.toNat ≤ 11 && (f.mo.toNat != 0 || f.sc.toNat == 0)
/-- The address fields: S base, V index or none, C bits 3:2 not both, C 7:4 zero, the space among `spaces` (R151). -/
def addrOk (spaces : List Nat) (f : LongF) : Bool :=
  isS f.b && f.c.toNat < 16 && spaces.contains (f.c.toNat % 4) &&
  (if f.sat then f.a.toNat == 0 && f.c.toNat / 4 == 0
   else f.c.toNat / 4 != 3 && (!f.c.getLsbD 2 || isV 2 f.a))
/-- CP 0 to 3, and 0 outside global space (R57, R151). -/
def cpOk (f : LongF) : Bool := f.rm.toNat ≤ 3 && (f.c.toNat % 4 == 0 || f.rm.toNat == 0)
/-- The types LD and ST move (R220): every code below 24 but the four-bit ones. -/
def ldTyOk (ty : BitVec 5) : Bool := ty.toNat ≤ 23 && !tyIn ty [17, 19, 20]
def ldOk (f : LongF) : Bool := orderOk [0, 1, 2, 5] f && addrOk [0, 1, 2, 3] f && cpOk f && ldTyOk f.ty && isV (tyRegs f.ty) f.d
def stOk (f : LongF) : Bool := orderOk [0, 1, 3, 5] f && addrOk [0, 1, 2, 3] f && cpOk f && ldTyOk f.ty && isV (tyRegs f.ty) f.d
/-- The types of each operation of ATOM (R223). -/
def atomTypes (op : Nat) : List Nat :=
  match op with
  | 0 | 1 | 4 | 5 | 6 => [5, 6, 7, 8, 0, 21]
  | 2 | 3 => [5, 6, 7, 8]
  | 7 => [5, 6, 7, 8, 0, 21, 11, 12]
  | 8 | 9 => [5, 7]
  | 10 | 11 | 12 => [9, 10, 11, 12]
  | _ => []
def xByte (i : Nat) (f : LongF) : BitVec 8 := f.x.extractLsb' (8 * i) 8
def atomOk (f : LongF) : Bool :=
  let n := tyRegs f.ty
  orderOk [0, 1, 2, 3, 4, 5] f && addrOk [0, 1, 2, 3] f && f.rm.toNat == 0 && tyIn f.ty (atomTypes (xByte 0 f).toNat) &&
  isV n f.d && isV n (xByte 1 f) && below f.x 0x10000
def acasOk (f : LongF) : Bool :=
  let n := tyRegs f.ty
  orderOk [0, 1, 2, 3, 4, 5] f && addrOk [0, 1, 2, 3] f && f.rm.toNat == 0 && tyIn f.ty [0, 5, 6, 21, 7, 8] && isV n f.d &&
  isV n (xByte 1 f) && isV n (xByte 2 f) && (xByte 0 f).toNat == 0 && (xByte 3 f).toNat == 0
def redOk (f : LongF) : Bool :=
  orderOk [0, 1, 2, 3, 4, 5] f && addrOk [0, 1, 2, 3] f && f.rm.toNat == 0 && (xByte 0 f).toNat != 7 &&
  tyIn f.ty (atomTypes (xByte 0 f).toNat) && isV (tyRegs f.ty) f.d && below f.x 0x100
def redtOk (f : LongF) : Bool :=
  orderOk [0, 1, 2, 3, 4, 5] f && addrOk [0] f && f.rm.toNat == 0 && (xByte 0 f).toNat != 7 &&
  tyIn f.ty (atomTypes (xByte 0 f).toNat) && isV (tyRegs f.ty) (xByte 1 f) && below f.x 0x10000
def fenceOk (f : LongF) : Bool :=
  orderOk [1, 2, 3, 4, 5] f && f.d.toNat == 0 && f.a.toNat == 0 && f.b.toNat == 0 && f.c.toNat == 0 && f.ty.toNat == 0 && !f.sat &&
  f.rm.toNat == 0 && below f.x 8
def prefOk (f : LongF) : Bool :=
  f.mo.toNat == 0 && f.sc.toNat == 0 && addrOk [0, 1, 2, 3] f && cpOk f && f.d.toNat == 0 && f.ty.toNat == 0
def arriveOk (f : LongF) : Bool := orderOk [1, 2, 3, 4, 5] f && addrOk [0, 1, 2] f && f.rm.toNat == 0 && f.ty.toNat == 0 && isS f.d
def waitphOk (f : LongF) : Bool := orderOk [1, 2, 5] f && addrOk [0, 1, 2] f && f.rm.toNat == 0 && f.ty.toNat == 0 && isS f.d
def rawaitOk (f : LongF) : Bool := orderOk [1, 2, 5] f && addrOk [1, 2] f && f.rm.toNat == 0 && f.ty.toNat == 0 && isV 2 f.d
def rrelOk (f : LongF) : Bool := orderOk [1, 3, 5] f && addrOk [1, 2] f && f.rm.toNat == 0 && f.ty.toNat == 0
def qputOk (f : LongF) : Bool := orderOk [0, 1, 3, 5] f && addrOk [0] f && f.rm.toNat == 0 && f.ty.toNat == 0 && isV 4 f.d && below f.x 256
def qgetOk (f : LongF) : Bool := orderOk [0, 1, 2, 5] f && addrOk [0] f && f.rm.toNat == 0 && f.ty.toNat == 0 && isV 4 f.d && below f.x 256

/-! ### Matrix, tun, population and engine entries (R243) -/

def rmMat (f : LongF) : Bool := f.rm.toNat ≤ 4
def mmaOk (f : LongF) : Bool := isS f.d && isS f.a && isS f.b && isS f.c && rmMat f && f.ty.toNat == 0 && f.x.toNat == 0
def mmasOk (f : LongF) : Bool :=
  isS f.d && isS f.a && isS f.b && isS f.c && rmMat f && f.ty.toNat == 0 && (f.x &&& 0xFFFFC0C0#32).toNat == 0
def aclrOk (f : LongF) : Bool :=
  isS f.d && isS f.c && f.a.toNat == 0 && f.b.toNat == 0 && f.sc.toNat == 0 && f.mo.toNat == 0 && noSatRm f && f.ty.toNat == 0 && f.x.toNat == 0
def aldOk (f : LongF) : Bool :=
  tyIn f.ty [0, 21, 22, 23] && isV (tyRegs f.ty) f.d && (!f.sat || f.a.toNat == 0) && isS f.b && f.c.toNat == 0 && f.sc.toNat == 0 &&
  f.mo.toNat == 0 && f.rm.toNat == 0
def astsOk (f : LongF) : Bool :=
  isS f.d && isS f.a && isS f.c && f.b.toNat == 0 && f.sc.toNat < 4 && f.mo.toNat == 0 && rmMat f && tyIn f.ty [11, 9, 10, 13, 14, 12, 6, 2]
def xqtOk (f : LongF) : Bool :=
  isS f.d && isS f.a && isS f.b && isS f.c && f.mo.toNat < 2 && !f.sat && rmMat f && tyIn f.ty [13, 14, 15, 16, 17] && f.x.toNat == 0
/-- Only A, an S register. -/
def onlyA (f : LongF) : Bool := isS f.a && f.d.toNat == 0 && word1Zero f && f.x.toNat == 0
def tdrawOk (f : LongF) : Bool :=
  tyIn f.ty [21, 22, 23] && isV (tyRegs f.ty) f.d && (!f.rm.getLsbD 1 || f.a.toNat == 0) && isS f.b && isS f.c && f.sc.toNat ≤ 11 &&
  (f.mo.toNat != 0 || f.sc.toNat == 0) && [0, 1, 2, 5].contains f.mo.toNat && !f.sat && !f.rm.getLsbD 2
def tstatOk (f : LongF) : Bool := isS f.d && isS f.a && word1Zero f && f.x.toNat ≤ 4
def rackOk (f : LongF) : Bool := isP f.a && f.d.toNat == 0 && word1Zero f && f.x.toNat == 0
def resampOk (f : LongF) : Bool :=
  isS f.d && isS f.b && (if f.mo.toNat == 1 then isS f.c else f.mo.toNat == 0 && f.c.toNat == 0) && f.sc.toNat == 0 && noSatRm f &&
  f.ty.toNat == 0 && f.x.toNat == 0
def lxstartOk (f : LongF) : Bool :=
  isS f.d && isS f.a && isS f.b && f.b.toNat % 4 == 0 && f.c.toNat == 0 && f.sc.toNat == 0 && f.mo.toNat == 0 && noSatRm f &&
  f.ty.toNat == 0 && below f.x 8 && !(f.x.getLsbD 0 && f.x.getLsbD 1)
def lxstatOk (f : LongF) : Bool := isS f.d && isS f.a && word1Zero f && f.x.toNat == 0

/-! ### Short entries (R163, R164, R239) -/

/-- Format SR with B an operand and every field used. -/
def srUnOk (f : SRF) : Bool := !f.i && f.b.toNat == 0
/-- WAITC: I = 1, path 0 to 7, D = 0. -/
def waitcOk (f : SRF) : Bool := f.i && f.b.toNat < 8 && f.d.toNat == 0
def barOk (f : SRF) : Bool := f.i && f.b.toNat < 16 && f.a.toNat == 0 && f.d.toNat == 0
/-- DWB, DINV, ICINV: D<0> = ALL, and with it A, I and B zero. -/
def rangeOk (f : SRF) : Bool := f.d.toNat < 2 && (f.d.toNat == 0 || (!f.i && f.a.toNat == 0 && f.b.toNat == 0))
def klopOk (f : SRF) : Bool := !f.i && f.d.toNat < 8 && f.a.toNat < 8
/-- SLD, SST: the strong form's scope 0 to 11 and order code 0 to 2 (R174). -/
def sldOk (f : SRF) : Bool := !f.i || (f.b.toNat / 4 ≤ 11 && f.b.toNat % 4 ≤ 2)
def jrOk (f : SRF) : Bool := srUnOk f
def sleepOk (f : SRF) : Bool := srUnOk f && f.d.toNat == 0
def srdOk (f : SIF) : Bool := f.imm.toNat < 256
def trapOk (f : SIF) : Bool := f.imm.toNat < 256 && f.d.toNat == 0
def syscallOk (f : SIF) : Bool := f.d.toNat == 0

/-! ### Lauter entries (R268 to R289) -/

def lNoMem (f : LauterF) : Bool := f.imm12.toNat == 0
def lDesc (r : BitVec 4) : Bool := r.toNat < 4
/-- The memory control field (R270): SIZE or KIND among `kinds`, ORDER among `orders`, SPACE among `spaces`. -/
def lMemOk (kinds orders spaces : List Nat) (f : LauterF) : Bool :=
  let v := f.imm12.toNat
  v < 2048 && kinds.contains (v % 4) && spaces.contains (v / 4 % 4) && orders.contains (v / 16 % 8) && v / 128 % 16 ≤ 11 &&
  (v / 16 % 8 != 0 || v / 128 % 16 == 0)
def lImmOk (f : LauterF) : Bool := lNoMem f && f.a.toNat == 0 && f.b.toNat == 0
def lMovOk (f : LauterF) : Bool := lNoMem f && f.b.toNat == 0 && f.imm32.toNat == 0
def lAluOk (f : LauterF) : Bool := lNoMem f && f.imm32.toNat == 0
def lAddiOk (f : LauterF) : Bool := lNoMem f && f.b.toNat == 0
def lLdxOk (f : LauterF) : Bool := lMemOk [0, 1, 2, 3] [0, 1, 2, 5] [0, 1, 2, 3] f && f.b.toNat == 0
def lStxOk (f : LauterF) : Bool := lMemOk [0, 1, 2, 3] [0, 1, 3, 5] [0, 1, 2, 3] f && f.b.toNat == 0
def lBrOk (f : LauterF) : Bool := lNoMem f && f.d.toNat == 0
def lJmpOk (f : LauterF) : Bool := lNoMem f && f.d.toNat == 0 && f.a.toNat == 0 && f.b.toNat == 0
/-- LOOP: L 1 to 65 535; with a ≠ 0 imm12 is reserved (R274). -/
def lLoopOk (f : LauterF) : Bool :=
  f.d.toNat == 0 && f.b.toNat == 0 && 1 ≤ f.imm32.toNat && f.imm32.toNat ≤ 65535 && (f.a.toNat == 0 || f.imm12.toNat == 0)
def lDsetOk (f : LauterF) : Bool := lMemOk [0] [0] [0, 1, 2, 3] f && f.b.toNat == 0 && lDesc f.d
def lDidxOk (f : LauterF) : Bool := f.imm12.toNat < 8 && f.b.toNat == 0 && f.imm32.toNat == 0 && lDesc f.d
def lDstepOk (f : LauterF) : Bool := lNoMem f && f.b.toNat == 0 && f.imm32.toNat == 0 && lDesc f.d
def lMovtOk (f : LauterF) : Bool := lNoMem f && f.b.toNat == 0 && f.imm32.toNat == 0 && lDesc f.d && lDesc f.a
def lGathOk (f : LauterF) : Bool := lMemOk [0] [0] [0, 1, 2, 3] f && lDesc f.d && lDesc f.a
def lMcstOk (f : LauterF) : Bool := f.imm12.toNat < 4 && f.imm32.toNat == 0 && lDesc f.d && lDesc f.a && lDesc f.b
def lLredOk (f : LauterF) : Bool := lNoMem f && f.imm32.toNat == 0 && lDesc f.d && lDesc f.a
def lFillOk (f : LauterF) : Bool := lMemOk [0] [1, 3, 5] [1, 2] f && f.d.toNat == 0
def lArrvOk (f : LauterF) : Bool := lMemOk [0] [1, 3, 4, 5] [0, 1, 2] f && f.d.toNat == 0
def lWaitbOk (f : LauterF) : Bool :=
  lMemOk [0, 1] [1, 2, 5] [0, 1, 2] f && f.d.toNat == 0 && !(f.imm12.toNat % 4 == 1 && f.imm12.toNat / 4 % 4 == 0)
def lFenceOk (f : LauterF) : Bool :=
  lMemOk [0] [1, 2, 3, 4, 5] [0] f && f.d.toNat == 0 && f.a.toNat == 0 && f.b.toNat == 0 && f.imm32.toNat == 0
def lAbortOk (f : LauterF) : Bool := lNoMem f && f.d.toNat == 0 && f.a.toNat == 0 && f.b.toNat == 0 && f.imm32.toNat < 256
def lEndOk (f : LauterF) : Bool := lAbortOk f && f.imm32.toNat == 0

/-! ### Steep entries (R353 rules 2, 4 and 7, R355) -/

def sLdiOk (f : SteepF) : Bool := f.a.toNat < 4
def sPfOk (f : SteepF) : Bool := f.a.toNat == 0 && f.imm.toNat < 8
def sNoD (f : SteepF) : Bool := f.d.toNat == 0
/-- Count and body length are the verifier's matter (R353 rule 4). -/
def sLoopOk (f : SteepF) : Bool := f.a.toNat == 0 && f.d.toNat == 0
def sNone (f : SteepF) : Bool := f.a.toNat == 0 && f.d.toNat == 0 && f.imm.toNat == 0

/-! ### V registers an encoding names (R152: a number at or beyond the declared count) -/

/-- (first register, count) of D. -/
def vD (n : Nat) (f : LongF) : List (Nat × Nat) := [(f.d.toNat, n)]
/-- Operand A when it is a V register (R150). -/
def vA (n : Nat) (f : LongF) : List (Nat × Nat) := if f.mo.getLsbD 0 then [] else [(f.a.toNat, n)]
/-- Operand B when it is a V register (R150). -/
def vB (n : Nat) (f : LongF) : List (Nat × Nat) := if f.mo.getLsbD 1 || f.mo.getLsbD 2 then [] else [(f.b.toNat, n)]
def vC (n : Nat) (f : LongF) : List (Nat × Nat) := [(f.c.toNat, n)]
/-- The V index of a memory-class address (R151). -/
def vIdx (f : LongF) : List (Nat × Nat) := if f.sat then [] else [(f.a.toNat, if f.c.getLsbD 2 then 2 else 1)]
def vX (i n : Nat) (f : LongF) : List (Nat × Nat) := [((xByte i f).toNat, n)]

/-- The V registers an instruction names, as (first, count). -/
def vUses (i : Instr) : List (Nat × Nat) :=
  match i with
  | .mov _ f | .iabs _ f | .ineg _ f | .brev _ f | .fsqrt _ f | .frcp _ f | .frsq _ f | .fex2 _ f | .flg2 _ f | .fsin _ f
  | .fcos _ f | .ftanh _ f | .frnd _ f => vD (tyRegs f.ty) f ++ vA (tyRegs f.ty) f
  | .movi _ f => vD (tyRegs f.ty) f
  | .iadd _ f | .isub _ f | .imul _ f | .imulh _ f | .imin _ f | .imax _ f | .land _ f | .lor _ f | .lxor _ f | .sel _ f
  | .idiv _ f | .irem _ f | .fadd _ f | .fsub _ f | .fmul _ f | .fmin _ f | .fmax _ f | .fdiv _ f | .hadd2 _ f | .hmul2 _ f =>
    vD (tyRegs f.ty) f ++ vA (tyRegs f.ty) f ++ vB (tyRegs f.ty) f
  | .imad _ f | .logt _ f | .ffma _ f | .hfma2 _ f =>
    vD (tyRegs f.ty) f ++ vA (tyRegs f.ty) f ++ vB (tyRegs f.ty) f ++ vC (tyRegs f.ty) f
  | .shl _ f | .shr _ f | .sra _ f | .bfe _ f | .fscale _ f => vD (tyRegs f.ty) f ++ vA (tyRegs f.ty) f ++ vB 1 f
  | .bfi _ f => vD (tyRegs f.ty) f ++ vA (tyRegs f.ty) f ++ vB 1 f ++ vC (tyRegs f.ty) f
  | .popc _ f | .clz _ f | .fclass _ f => vD 1 f ++ vA (tyRegs f.ty) f
  | .icmp _ f | .fcmp _ f => vA (tyRegs f.ty) f ++ vB (tyRegs f.ty) f
  | .idot4 _ f | .fdot2 _ f => vD 1 f ++ vA 1 f ++ vB 1 f ++ vC 1 f
  | .bsel _ f | .cvpk _ f | .qcvt _ f => vD 1 f ++ vA 1 f ++ vB 1 f
  | .nlut _ f => vD 2 f ++ vA 1 f ++ vB 4 f
  | .ptov _ f | .vsrd _ f => vD 1 f
  | .vtop _ f => [(f.a.toNat, 1)]
  | .cvt _ f => vD (tyRegs f.ty) f ++ vA (tyRegs (srcTy f)) f
  | .cvup _ f => vD (if tyIn f.ty [9, 10] then 1 else 2) f ++ vA 1 f
  | .qscl _ f => vD 1 f ++ vA 1 f
  | .vxch _ f => vD (tyRegs f.ty) f ++ [(f.a.toNat, tyRegs f.ty)] ++ (if f.mo.getLsbD 2 then [] else [(f.b.toNat, 1)])
  | .rdlane _ f => [(f.a.toNat, tyRegs f.ty)]
  | .wrlane _ f => vD (tyRegs f.ty) f
  | .fold _ f | .scan _ f => vD (tyRegs f.ty) f ++ [(f.a.toNat, tyRegs f.ty)]
  | .samev _ f => vD (if f.x.getLsbD 0 then 1 else 2) f ++ [(f.a.toNat, tyRegs f.ty)]
  | .ld _ f | .st _ f | .red _ f => vD (tyRegs f.ty) f ++ vIdx f
  | .atom _ f => vD (tyRegs f.ty) f ++ vX 1 (tyRegs f.ty) f ++ vIdx f
  | .acas _ f => vD (tyRegs f.ty) f ++ vX 1 (tyRegs f.ty) f ++ vX 2 (tyRegs f.ty) f ++ vIdx f
  | .redt _ f => vD 1 f ++ vX 1 (tyRegs f.ty) f ++ vIdx f
  | .pref _ f | .arrive _ f | .waitph _ f => vIdx f
  | .rawait _ f => vD 2 f ++ vIdx f
  | .rrel _ f => vD 1 f ++ vIdx f
  | .qput _ f | .qget _ f => vD 4 f ++ vX 0 1 f ++ vIdx f
  | .ald _ f | .ast _ f => vD (tyRegs f.ty) f ++ (if f.sat then [] else [(f.a.toNat, 1)])
  | .tdraw _ f => vD (tyRegs f.ty) f ++ (if f.rm.getLsbD 1 then [] else [(f.a.toNat, 1)])
  | .resamp _ f => [(f.a.toNat, 1)]
  | _ => []

/-! ### Rows with no encoding -/

def splitRefOk (r : SplitRef) : Bool := r.slot < 4
def engRefOk (r : EngRef) : Bool := r.core < 192 && r.eng < 2
def queueRefOk (r : QueueRef) : Bool := r.part < 16 && r.queue < 256
def packetRefOk (r : PacketRef) : Bool := r.part < 16 && r.queue < 256
def regRefOk (r : RegRef) : Bool :=
  match r with
  | .kiln o => o < 0x10000
  | .block p o => p < 16 && o < 0x100
  | .mailbox p q o => p < 16 && q < 8 && o < 0x10000
  | .devreg p o => p < 16 && o < 0x10000

end Sys2Proof.Machine
end

