-- ==== Sys2Proof/Config.lean ====
section
/-! DEFINITION. What an implementation fixes and the spec leaves open: constants with no body, so that nothing can be proved
from their values. -/

namespace Sys2Proof.Config

/-- Free bytes, by the index of `State.free` and the byte's place (log entry 1): what the spec gives no layout for (R393, R395). -/
opaque freeByte : Nat → Nat → BitVec 8

/-- A free value, by the index of `State.free` (log entry 1): nothing constrains it. -/
opaque freeValue : Nat → BitVec 64

/-- The value of a transcendental inside its bound (R202): function number (0 FRCP, 1 FRSQ, 2 FEX2, 3 FLG2, 4 FSIN, 5 FCOS,
6 FTANH) and binary32 operand. The same for every device; the meaning keeps it within the bound. -/
opaque transcendental : Nat → BitVec 32 → BitVec 32

/-- The home slice of a physical line within its die, 0 to 47 (R56): fixed while the device runs, not architected. -/
opaque homeSlice : Nat → Nat

/-- The fabric port whose mailbox window lies in this frame of a partition (R328): the hypervisor supplies the frames. -/
opaque mailboxPort : Nat → Nat → Nat

/-- The order in which the home performs one instruction's RMWs from several lanes on one address (R50): a rank for the
lane, by the index of `State.free`. -/
opaque rmwRank : Nat → Nat → Nat

/-- The identity public key and the signature over a report, by firmware image digest (R423, R424): they come from a fused secret. -/
opaque identityKey : List (BitVec 8) → Nat → BitVec 8
opaque signReport : List (BitVec 8) → List (BitVec 8) → Nat → BitVec 8

/-- The fabric device address that firmware sets (R404, R423), by firmware image content. -/
opaque deviceAddress : List (BitVec 8) → BitVec 32

/-- The cluster matrix budget in units per µs that firmware sets when it starts (R371): none means no limit. -/
opaque clusterBudget : Option Nat

/-- How many microseconds in a row firmware lets a cluster spend its whole budget before it lowers the core clock (R372): none means any
number. -/
opaque budgetOverrun : Option Nat

/-- The bytes a save area needs for a number of queues and of teams (R347): less than HBM has. -/
opaque saveAreaSize : Nat → Nat → BitVec 39

end Sys2Proof.Config
end

