-- ==== Sys2Proof/WellFormed.lean ====
section
/-! DEFINITION. Which instructions are well formed: the encodings that raise no ILLOP of R152 on their own fields (guard,
operand classes, reserved fields, types, orders, scopes), entry by entry; and for a row with no encoding, that the place it
names exists on the device (R5). -/

namespace Sys2Proof

open Machine in
/-- The instruction's own fields are legal (R144, R150 to R152 and each entry). -/
def Instr.wellFormed (i : Instr) : Bool :=
  match i with
  | .nop h => guardOk h
  | .smov h f => guardOk h && f.a.toNat == 0
  | .sli h _ => guardOk h
  | .sshi h _ => guardOk h
  | .sadd h _ => guardOk h
  | .ssub h _ => guardOk h
  | .smul h _ => guardOk h
  | .smulh h _ => guardOk h
  | .sand h _ => guardOk h
  | .sor h _ => guardOk h
  | .sxor h _ => guardOk h
  | .sshl h _ => guardOk h
  | .sshr h _ => guardOk h
  | .ssra h _ => guardOk h
  | .smin h _ => guardOk h
  | .smax h _ => guardOk h
  | .scmp h _ => guardOk h
  | .klop h f => guardOk h && klopOk f
  | .spopc h f => guardOk h && srUnOk f
  | .sclz h f => guardOk h && srUnOk f
  | .sld h f => guardOk h && sldOk f
  | .sst h f => guardOk h && sldOk f
  | .srd h f => guardOk h && srdOk f
  | .swr h f => guardOk h && srdOk f
  | .jmp h _ => guardOk h
  | .call h _ => guardOk h
  | .jr h f => guardOk h && srUnOk f
  | .join h => guardAlways h
  | .exit h => guardOk h
  | .trap h f => guardOk h && trapOk f
  | .syscall h f => guardOk h && syscallOk f
  | .eret h => guardOk h
  | .waitc h f => guardOk h && waitcOk f
  | .bar h f => guardOk h && barOk f
  | .yield h => guardOk h
  | .sleep h f => guardOk h && sleepOk f
  | .dwb h f => guardOk h && rangeOk f
  | .dinv h f => guardOk h && rangeOk f
  | .icinv h f => guardOk h && rangeOk f
  | .fetchb h => guardOk h
  | .mov h f => guardOk h && movOk f
  | .movi h f => guardOk h && moviOk f
  | .iadd h f => guardOk h && intBinOk intTypes true f
  | .isub h f => guardOk h && intBinOk intTypes true f
  | .imul h f => guardOk h && intBinOk intTypes true f
  | .imulh h f => guardOk h && intBinOk wideIntTypes false f
  | .imad h f => guardOk h && intTriOk intTypes true f
  | .imin h f => guardOk h && intBinOk intTypes false f
  | .imax h f => guardOk h && intBinOk intTypes false f
  | .iabs h f => guardOk h && intAbsOk f
  | .ineg h f => guardOk h && intAbsOk f
  | .land h f => guardOk h && intBinOk rawTypes false f
  | .lor h f => guardOk h && intBinOk rawTypes false f
  | .lxor h f => guardOk h && intBinOk rawTypes false f
  | .logt h f => guardOk h && logtOk f
  | .shl h f => guardOk h && shiftOk [0, 5, 21, 7] f
  | .shr h f => guardOk h && shiftOk [0, 5, 21, 7] f
  | .sra h f => guardOk h && shiftOk [6, 8] f
  | .bfe h f => guardOk h && shiftOk wideIntTypes f
  | .bfi h f => guardOk h && bfiOk f
  | .popc h f => guardOk h && intUnOk rawTypes false 1 f
  | .clz h f => guardOk h && intUnOk rawTypes false 1 f
  | .brev h f => guardOk h && brevOk f
  | .icmp h f => guardOk h && icmpOk f
  | .sel h f => guardOk h && selOk f
  | .idiv h f => guardOk h && intBinOk wideIntTypes true f
  | .irem h f => guardOk h && intBinOk wideIntTypes true f
  | .idot4 h f => guardOk h && idot4Ok f
  | .bsel h f => guardOk h && bselOk f
  | .nlut h f => guardOk h && nlutOk f
  | .plop h f => guardOk h && plopOk f
  | .ptov h f => guardOk h && ptovOk f
  | .vtop h f => guardOk h && vtopOk f
  | .fadd h f => guardOk h && fpBinOk fpTypes true f
  | .fsub h f => guardOk h && fpBinOk fpTypes true f
  | .fmul h f => guardOk h && fpBinOk fpTypes true f
  | .ffma h f => guardOk h && fpTriOk fpTypes f
  | .fmin h f => guardOk h && fpBinOk fpTypes false f
  | .fmax h f => guardOk h && fpBinOk fpTypes false f
  | .fcmp h f => guardOk h && fcmpOk f
  | .fdiv h f => guardOk h && fpBinOk fpTypes true f
  | .fsqrt h f => guardOk h && fpUnOk fpTypes true f
  | .frcp h f => guardOk h && fpUnOk fpSmallTypes false f
  | .frsq h f => guardOk h && fpUnOk fpSmallTypes false f
  | .fex2 h f => guardOk h && fpUnOk fpSmallTypes false f
  | .flg2 h f => guardOk h && fpUnOk fpSmallTypes false f
  | .fsin h f => guardOk h && fpUnOk fpSmallTypes false f
  | .fcos h f => guardOk h && fpUnOk fpSmallTypes false f
  | .ftanh h f => guardOk h && fpUnOk fpSmallTypes false f
  | .fclass h f => guardOk h && fclassOk f
  | .fdot2 h f => guardOk h && fpTriOk packedTypes f
  | .hadd2 h f => guardOk h && fpBinOk packedTypes true f
  | .hmul2 h f => guardOk h && fpBinOk packedTypes true f
  | .hfma2 h f => guardOk h && fpTriOk packedTypes f
  | .frnd h f => guardOk h && fpUnOk fpTypes true f
  | .fscale h f => guardOk h && fscaleOk f
  | .cvt h f => guardOk h && cvtOk f
  | .cvpk h f => guardOk h && cvpkOk f
  | .cvup h f => guardOk h && cvupOk f
  | .qscl h f => guardOk h && qsclOk f
  | .qcvt h f => guardOk h && qcvtOk f
  | .vxch h f => guardOk h && vxchOk f
  | .rdlane h f => guardOk h && rdlaneOk f
  | .wrlane h f => guardOk h && wrlaneOk f
  | .vote h f => guardOk h && voteOk f
  | .fold h f => guardOk h && foldOk f
  | .scan h f => guardOk h && scanOk f
  | .samev h f => guardOk h && samevOk f
  | .vsrd h f => guardOk h && vsrdOk f
  | .elect h f => guardOk h && electOk f
  | .brd h f => guardOk h && brdOk f
  | .lexit h f => guardOk h && lexitOk f
  | .ld h f => guardOk h && ldOk f
  | .st h f => guardOk h && stOk f
  | .atom h f => guardOk h && atomOk f
  | .acas h f => guardOk h && acasOk f
  | .red h f => guardOk h && redOk f
  | .redt h f => guardOk h && redtOk f
  | .fence h f => guardOk h && fenceOk f
  | .pref h f => guardOk h && prefOk f
  | .arrive h f => guardOk h && arriveOk f
  | .waitph h f => guardOk h && waitphOk f
  | .rawait h f => guardOk h && rawaitOk f
  | .rrel h f => guardOk h && rrelOk f
  | .qput h f => guardOk h && qputOk f
  | .qget h f => guardOk h && qgetOk f
  | .mma h f => guardOk h && mmaOk f
  | .mmas h f => guardOk h && mmasOk f
  | .aclr h f => guardOk h && aclrOk f
  | .ald h f => guardOk h && aldOk f
  | .ast h f => guardOk h && aldOk f
  | .asts h f => guardOk h && astsOk f
  | .xqt h f => guardOk h && xqtOk f
  | .tinst h f => guardOk h && onlyA f
  | .tfree h f => guardOk h && onlyA f
  | .tdraw h f => guardOk h && tdrawOk f
  | .tstat h f => guardOk h && tstatOk f
  | .rack h f => guardAlways h && rackOk f
  | .resamp h f => guardOk h && resampOk f
  | .lxstart h f => guardOk h && lxstartOk f
  | .lxstat h f => guardOk h && lxstatOk f
  | .lxkill h f => guardOk h && onlyA f
  | .lauterLi f => lImmOk f
  | .lauterLih f => lImmOk f
  | .lauterMov f => lMovOk f
  | .lauterAdd f => lAluOk f
  | .lauterSub f => lAluOk f
  | .lauterMul f => lAluOk f
  | .lauterAnd f => lAluOk f
  | .lauterOr f => lAluOk f
  | .lauterXor f => lAluOk f
  | .lauterShl f => lAluOk f
  | .lauterShr f => lAluOk f
  | .lauterAddi f => lAddiOk f
  | .lauterLdx f => lLdxOk f
  | .lauterStx f => lStxOk f
  | .lauterBeq f => lBrOk f
  | .lauterBne f => lBrOk f
  | .lauterBlt f => lBrOk f
  | .lauterBge f => lBrOk f
  | .lauterJmp f => lJmpOk f
  | .lauterLoop f => lLoopOk f
  | .lauterDset f => lDsetOk f
  | .lauterDidx f => lDidxOk f
  | .lauterDstep f => lDstepOk f
  | .lauterMovt f => lMovtOk f
  | .lauterGath f => lGathOk f
  | .lauterScat f => lGathOk f
  | .lauterMcst f => lMcstOk f
  | .lauterLred f => lLredOk f
  | .lauterFill f => lFillOk f
  | .lauterArrv f => lArrvOk f
  | .lauterWaitb f => lWaitbOk f
  | .lauterFence f => lFenceOk f
  | .lauterAbort f => lAbortOk f
  | .lauterEnd f => lEndOk f
  | .steepLdi f => sLdiOk f
  | .steepMov _ => true
  | .steepAdd _ => true
  | .steepSub _ => true
  | .steepAnd _ => true
  | .steepOr _ => true
  | .steepShl _ => true
  | .steepShr _ => true
  | .steepLdpf f => sPfOk f
  | .steepStpf f => sPfOk f
  | .steepLdw _ => true
  | .steepStw _ => true
  | .steepBz f => sNoD f
  | .steepBnz f => sNoD f
  | .steepLoop f => sLoopOk f
  | .steepEmit f => sNoD f
  | .steepWaitv _ => true
  | .steepSignal _ => true
  | .steepDrop f => sNone f
  | .steepFaultq f => sNone f
  | .steepEnd f => sNone f
  | .variableLatencyResult sp _ _ => splitRefOk sp
  | .operationCompletion _ _ => true
  | .userTrapEntry sp => splitRefOk sp
  | .supervisorTrapEntry sp => splitRefOk sp
  | .escalation sp => splitRefOk sp
  | .timerDue _ => true
  | .rackEffect _ => true
  | .resampEffect _ => true
  | .splitWake sp => splitRefOk sp
  | .priorityAging sp => splitRefOk sp
  | .waitphReread sp => splitRefOk sp
  | .rawaitClaim sp => splitRefOk sp
  | .tdrawServe sp _ => splitRefOk sp
  | .tdrawTimeout sp => splitRefOk sp
  | .sleepWake sp => splitRefOk sp
  | .tunFire _ _ => true
  | .fillTimeout _ _ => true
  | .installCompletion _ => true
  | .lauterProgramStart eng => engRefOk eng
  | .waitbReread eng => engRefOk eng
  | .faultResume eng => engRefOk eng
  | .faultAbort eng => engRefOk eng
  | .faultAbortAndPoison eng => engRefOk eng
  | .cellarMove _ => true
  | .taskEntryTake _ _ => true
  | .fillDelayExpiry _ _ => true
  | .teamPlacement _ => true
  | .gridRetirement _ => true
  | .budgetPeriod cluster => cluster < 24
  | .matrixWaitLimit core => core < 192
  | .monitorPoll die r => die < 4 && r.temps.length == 8 && r.volts.length == 6 && r.process.length == 6
  | .kick q => queueRefOk q
  | .restart q => queueRefOk q
  | .skip q => queueRefOk q
  | .wake part _ => part < 16
  | .vcpPacketRead q => queueRefOk q
  | .phaseReread q => queueRefOk q
  | .stalePacket q => queueRefOk q
  | .launch p => packetRefOk p
  | .bundle p => packetRefOk p
  | .lxrun p => packetRefOk p
  | .waitmem p => packetRefOk p
  | .waitmemReread p => packetRefOk p
  | .waitmemTimeout p => packetRefOk p
  | .signal p => packetRefOk p
  | .graph p => packetRefOk p
  | .graphReplayStart p => packetRefOk p
  | .patch p => packetRefOk p
  | .timestamp p => packetRefOk p
  | .reserve p => packetRefOk p
  | .reserveRelease p => packetRefOk p
  | .tunopInstall p => packetRefOk p
  | .tunopFree p => packetRefOk p
  | .saveq p => packetRefOk p
  | .restq p => packetRefOk p
  | .packetCompletion p => packetRefOk p
  | .customPacket p => packetRefOk p
  | .steepWaitvReread _ => true
  | .steepWaitvTimeout _ => true
  | .steepreq _ => true
  | .steepLoad => true
  | .partitionEnable part => part < 16
  | .partitionDestroy part => part < 16
  | .swapOut part => part < 16
  | .swapIn part => part < 16
  | .partitionStart part => part < 16
  | .waymaskWrite part _ => part < 16
  | .gctlResume part _ => part < 16
  | .gctlRetire part _ => part < 16
  | .gctlEngineResume part _ => part < 16
  | .attreq _ => true
  | .registerWrite r _ => regRefOk r
  | .hostWrite _ _ _ => true
  | .hostRead _ _ _ => true
  | .doorbell _ => true
  | .remoteRequest _ => true
  | .remoteAnswer _ _ => true
  | .remtimeout _ => true
  | .deadlineFlush part _ => part < 16
  | .gangNotice _ => true
  | .unreliablePacket _ => true
  | .errorRetry _ _ => true
  | .powerUp _ => true
  | .resetRelease => true
  | .provisioningImage _ _ => true
  | .i3cRead _ => true
  | .i3cCcc _ => true
  | .powerLoss _ => true
  | .secondStageTableWrite _ _ => true

/-- The instruction's own fields are legal, as a proposition. -/
abbrev Instr.WellFormed (i : Instr) : Prop := i.wellFormed = true

end Sys2Proof
end

