-- ==== Sys2Proof/Decode.lean ====
section
/-! DEFINITION. The decoders of the three instruction sets, total on any bytes and rejecting by name, and the encoder, from the
encoding tables R144, R147, R148 and the maps R158, R159 (Kloam), R268, R269 (lauter), R354 (steep). -/

namespace Sys2Proof

open Machine

/-- Why a decoder reads no instruction. -/
inductive Reject where
  /-- The bytes end before the instruction does. -/
  | truncated
  /-- The opcode is a cell marked "—" in its map (R158, R159, R269, R354). -/
  | unassigned (op : Nat)
  /-- A reserved field, operand field, type, order, scope or guard of this opcode is illegal (R152). -/
  | illegal (op : Nat)
deriving DecidableEq, Repr

/-! ### Byte order (R5) -/

/-- `n` bytes of a number, least significant first. -/
def leBytes : Nat → Nat → List Byte
  | 0, _ => []
  | n + 1, v => BitVec.ofNat 8 v :: leBytes n (v / 256)

/-- The number that bytes stand for, least significant first. -/
def leNat : List Byte → Nat
  | [] => 0
  | b :: bs => b.toNat + 256 * leNat bs

/-! ### Fields -/

/-- Bits 5:1 of word 0 (R144). -/
def hdrOf (w : Word) : Hdr := { gn := w.getLsbD 5, g := w.extractLsb' 2 3, w := w.getLsbD 1 }
/-- Format SR (R147). -/
def srOf (w : Word) : SRF :=
  { i := w.getLsbD 31, b := w.extractLsb' 25 6, a := w.extractLsb' 19 6, d := w.extractLsb' 13 6 }
/-- Format SI (R147). -/
def siOf (w : Word) : SIF := { imm := w.extractLsb' 19 13, d := w.extractLsb' 13 6 }
/-- Format SB (R147). -/
def sbOf (w : Word) : SBF := { off := w.extractLsb' 13 19 }
/-- The long format (R148). -/
def longOf (w0 w1 w2 : Word) : LongF :=
  { a := w0.extractLsb' 24 8, d := w0.extractLsb' 16 8, sc := w1.extractLsb' 28 4, mo := w1.extractLsb' 25 3,
    sat := w1.getLsbD 24, rm := w1.extractLsb' 21 3, ty := w1.extractLsb' 16 5, c := w1.extractLsb' 8 8,
    b := w1.extractLsb' 0 8, x := w2 }
/-- A lauter word (R268). -/
def lauterOf (w : DWord) : LauterF :=
  { imm32 := w.extractLsb' 32 32, imm12 := w.extractLsb' 20 12, b := w.extractLsb' 16 4, a := w.extractLsb' 12 4,
    d := w.extractLsb' 8 4 }
/-- A steep word (R354). -/
def steepOf (w : Word) : SteepF := { imm := w.extractLsb' 16 16, a := w.extractLsb' 12 4, d := w.extractLsb' 8 4 }

/-! ### Decoders -/

/-- The instruction a short opcode names, with the bits 31:13 of its word already split up; `none` for "—" (R158). -/
def shortOp (op : Nat) (h : Hdr) (sr : SRF) (si : SIF) (sb : SBF) : Option Instr :=
  match op with
  | 0x00 => some (.nop h)
  | 0x01 => some (.smov h sr)
  | 0x02 => some (.sli h si)
  | 0x03 => some (.sshi h si)
  | 0x04 => some (.sadd h sr)
  | 0x05 => some (.ssub h sr)
  | 0x06 => some (.smul h sr)
  | 0x07 => some (.smulh h sr)
  | 0x08 => some (.sand h sr)
  | 0x09 => some (.sor h sr)
  | 0x0A => some (.sxor h sr)
  | 0x0B => some (.sshl h sr)
  | 0x0C => some (.sshr h sr)
  | 0x0D => some (.ssra h sr)
  | 0x0E => some (.smin h sr)
  | 0x0F => some (.smax h sr)
  | 0x10 => some (.scmp h sr)
  | 0x11 => some (.klop h sr)
  | 0x12 => some (.spopc h sr)
  | 0x13 => some (.sclz h sr)
  | 0x14 => some (.sld h sr)
  | 0x15 => some (.sst h sr)
  | 0x16 => some (.srd h si)
  | 0x17 => some (.swr h si)
  | 0x20 => some (.jmp h sb)
  | 0x21 => some (.call h sb)
  | 0x22 => some (.jr h sr)
  | 0x23 => some (.join h)
  | 0x24 => some (.exit h)
  | 0x25 => some (.trap h si)
  | 0x26 => some (.syscall h si)
  | 0x27 => some (.eret h)
  | 0x28 => some (.waitc h sr)
  | 0x29 => some (.bar h sr)
  | 0x2A => some (.yield h)
  | 0x2B => some (.sleep h sr)
  | 0x2C => some (.dwb h sr)
  | 0x2D => some (.dinv h sr)
  | 0x2E => some (.icinv h sr)
  | 0x2F => some (.fetchb h)
  | _ => none

/-- Whether a short opcode uses format "—", whose bits 31:13 are reserved (R147). -/
def shortBare (op : Nat) : Bool := [0x00, 0x23, 0x24, 0x27, 0x2A, 0x2F].contains op

/-- The instruction a long opcode names; `none` for "—" (R159). -/
def longOp (op : Nat) (h : Hdr) (f : LongF) : Option Instr :=
  match op with
  | 0x000 => some (.mov h f)
  | 0x001 => some (.movi h f)
  | 0x002 => some (.iadd h f)
  | 0x003 => some (.isub h f)
  | 0x004 => some (.imul h f)
  | 0x005 => some (.imulh h f)
  | 0x006 => some (.imad h f)
  | 0x007 => some (.imin h f)
  | 0x008 => some (.imax h f)
  | 0x009 => some (.iabs h f)
  | 0x00A => some (.ineg h f)
  | 0x00B => some (.land h f)
  | 0x00C => some (.lor h f)
  | 0x00D => some (.lxor h f)
  | 0x00E => some (.logt h f)
  | 0x00F => some (.shl h f)
  | 0x010 => some (.shr h f)
  | 0x011 => some (.sra h f)
  | 0x012 => some (.bfe h f)
  | 0x013 => some (.bfi h f)
  | 0x014 => some (.popc h f)
  | 0x015 => some (.clz h f)
  | 0x016 => some (.brev h f)
  | 0x017 => some (.icmp h f)
  | 0x018 => some (.sel h f)
  | 0x019 => some (.idiv h f)
  | 0x01A => some (.irem h f)
  | 0x01B => some (.idot4 h f)
  | 0x01C => some (.bsel h f)
  | 0x01D => some (.nlut h f)
  | 0x020 => some (.plop h f)
  | 0x021 => some (.ptov h f)
  | 0x022 => some (.vtop h f)
  | 0x100 => some (.fadd h f)
  | 0x101 => some (.fsub h f)
  | 0x102 => some (.fmul h f)
  | 0x103 => some (.ffma h f)
  | 0x104 => some (.fmin h f)
  | 0x105 => some (.fmax h f)
  | 0x106 => some (.fcmp h f)
  | 0x107 => some (.fdiv h f)
  | 0x108 => some (.fsqrt h f)
  | 0x109 => some (.frcp h f)
  | 0x10A => some (.frsq h f)
  | 0x10B => some (.fex2 h f)
  | 0x10C => some (.flg2 h f)
  | 0x10D => some (.fsin h f)
  | 0x10E => some (.fcos h f)
  | 0x10F => some (.ftanh h f)
  | 0x110 => some (.fclass h f)
  | 0x111 => some (.fdot2 h f)
  | 0x112 => some (.hadd2 h f)
  | 0x113 => some (.hmul2 h f)
  | 0x114 => some (.hfma2 h f)
  | 0x115 => some (.frnd h f)
  | 0x116 => some (.fscale h f)
  | 0x200 => some (.cvt h f)
  | 0x201 => some (.cvpk h f)
  | 0x202 => some (.cvup h f)
  | 0x203 => some (.qscl h f)
  | 0x204 => some (.qcvt h f)
  | 0x210 => some (.vxch h f)
  | 0x211 => some (.rdlane h f)
  | 0x212 => some (.wrlane h f)
  | 0x213 => some (.vote h f)
  | 0x214 => some (.fold h f)
  | 0x215 => some (.scan h f)
  | 0x216 => some (.samev h f)
  | 0x217 => some (.vsrd h f)
  | 0x218 => some (.elect h f)
  | 0x219 => some (.brd h f)
  | 0x21A => some (.lexit h f)
  | 0x280 => some (.ld h f)
  | 0x281 => some (.st h f)
  | 0x282 => some (.atom h f)
  | 0x283 => some (.acas h f)
  | 0x284 => some (.red h f)
  | 0x285 => some (.redt h f)
  | 0x286 => some (.fence h f)
  | 0x287 => some (.pref h f)
  | 0x290 => some (.arrive h f)
  | 0x291 => some (.waitph h f)
  | 0x292 => some (.rawait h f)
  | 0x293 => some (.rrel h f)
  | 0x298 => some (.qput h f)
  | 0x299 => some (.qget h f)
  | 0x380 => some (.mma h f)
  | 0x381 => some (.mmas h f)
  | 0x382 => some (.aclr h f)
  | 0x383 => some (.ald h f)
  | 0x384 => some (.ast h f)
  | 0x385 => some (.asts h f)
  | 0x386 => some (.xqt h f)
  | 0x388 => some (.tinst h f)
  | 0x389 => some (.tfree h f)
  | 0x38A => some (.tdraw h f)
  | 0x38B => some (.tstat h f)
  | 0x390 => some (.rack h f)
  | 0x391 => some (.resamp h f)
  | 0x392 => some (.lxstart h f)
  | 0x393 => some (.lxstat h f)
  | 0x394 => some (.lxkill h f)
  | _ => none

/-- The instruction a lauter opcode names (R269). -/
def lauterOp (op : Nat) (f : LauterF) : Option Instr :=
  match op with
  | 0x01 => some (.lauterLi f)
  | 0x02 => some (.lauterLih f)
  | 0x03 => some (.lauterMov f)
  | 0x04 => some (.lauterAdd f)
  | 0x05 => some (.lauterSub f)
  | 0x06 => some (.lauterMul f)
  | 0x07 => some (.lauterAnd f)
  | 0x08 => some (.lauterOr f)
  | 0x09 => some (.lauterXor f)
  | 0x0A => some (.lauterShl f)
  | 0x0B => some (.lauterShr f)
  | 0x0C => some (.lauterAddi f)
  | 0x10 => some (.lauterLdx f)
  | 0x11 => some (.lauterStx f)
  | 0x14 => some (.lauterBeq f)
  | 0x15 => some (.lauterBne f)
  | 0x16 => some (.lauterBlt f)
  | 0x17 => some (.lauterBge f)
  | 0x18 => some (.lauterJmp f)
  | 0x19 => some (.lauterLoop f)
  | 0x20 => some (.lauterDset f)
  | 0x21 => some (.lauterDidx f)
  | 0x22 => some (.lauterDstep f)
  | 0x23 => some (.lauterMovt f)
  | 0x24 => some (.lauterGath f)
  | 0x25 => some (.lauterScat f)
  | 0x26 => some (.lauterMcst f)
  | 0x27 => some (.lauterLred f)
  | 0x30 => some (.lauterFill f)
  | 0x31 => some (.lauterArrv f)
  | 0x32 => some (.lauterWaitb f)
  | 0x33 => some (.lauterFence f)
  | 0x3E => some (.lauterAbort f)
  | 0x3F => some (.lauterEnd f)
  | _ => none

/-- The instruction a steep opcode names (R354). -/
def steepOp (op : Nat) (f : SteepF) : Option Instr :=
  match op with
  | 0x01 => some (.steepLdi f)
  | 0x02 => some (.steepMov f)
  | 0x03 => some (.steepAdd f)
  | 0x04 => some (.steepSub f)
  | 0x05 => some (.steepAnd f)
  | 0x06 => some (.steepOr f)
  | 0x07 => some (.steepShl f)
  | 0x08 => some (.steepShr f)
  | 0x09 => some (.steepLdpf f)
  | 0x0A => some (.steepStpf f)
  | 0x0B => some (.steepLdw f)
  | 0x0C => some (.steepStw f)
  | 0x0D => some (.steepBz f)
  | 0x0E => some (.steepBnz f)
  | 0x0F => some (.steepLoop f)
  | 0x10 => some (.steepEmit f)
  | 0x11 => some (.steepWaitv f)
  | 0x12 => some (.steepSignal f)
  | 0x13 => some (.steepDrop f)
  | 0x14 => some (.steepFaultq f)
  | 0x15 => some (.steepEnd f)
  | _ => none

/-- Accepts an instruction that is well formed; the encoding checks come before the guard (R152). -/
def accept (op : Nat) (r : Option Instr) : Except Reject Instr :=
  match r with
  | none => .error (.unassigned op)
  | some i => if i.wellFormed then .ok i else .error (.illegal op)

/-- The opcode of a short word: bits 12:6 (R147). -/
def shortOpcode (w : Word) : Nat := (w.extractLsb' 6 7).toNat
/-- The opcode of a long word 0: bits 15:6 (R148). -/
def longOpcode (w : Word) : Nat := (w.extractLsb' 6 10).toNat
/-- Bit 0 of the first word: a long instruction (R144, R145). -/
def isLong (w : Word) : Bool := w.getLsbD 0

/-- A short Kloam word. -/
def decodeShort (w : Word) : Except Reject Instr :=
  if shortBare (shortOpcode w) && (w.extractLsb' 13 19).toNat != 0 then .error (.illegal (shortOpcode w))
  else accept (shortOpcode w) (shortOp (shortOpcode w) (hdrOf w) (srOf w) (siOf w) (sbOf w))

/-- A long Kloam instruction. -/
def decodeLong (w0 w1 w2 : Word) : Except Reject Instr :=
  accept (longOpcode w0) (longOp (longOpcode w0) (hdrOf w0) (longOf w0 w1 w2))

/-- A lauter word. -/
def decodeLauter (w : DWord) : Except Reject Instr :=
  accept (w.extractLsb' 0 8).toNat (lauterOp (w.extractLsb' 0 8).toNat (lauterOf w))

/-- A steep word (R353 rules 2 and 7 on its fields). -/
def decodeSteep (w : Word) : Except Reject Instr :=
  accept (w.extractLsb' 0 8).toNat (steepOp (w.extractLsb' 0 8).toNat (steepOf w))

/-- Kloam bytes: the instruction and the bytes after it. Words 1 and 2 of a long instruction are never decoded as
instructions (R145). -/
def decodeKloam (bs : List Byte) : Except Reject (Instr × List Byte) :=
  if bs.length < 4 then .error .truncated
  else
    let w0 : Word := BitVec.ofNat 32 (leNat (bs.take 4))
    if isLong w0 then
      if bs.length < 12 then .error .truncated
      else (decodeLong w0 (BitVec.ofNat 32 (leNat ((bs.drop 4).take 4))) (BitVec.ofNat 32 (leNat ((bs.drop 8).take 4)))).map
        (fun i => (i, bs.drop 12))
    else (decodeShort w0).map (fun i => (i, bs.drop 4))

/-- Lauter bytes. -/
def decodeLauterBytes (bs : List Byte) : Except Reject (Instr × List Byte) :=
  if bs.length < 8 then .error .truncated
  else (decodeLauter (BitVec.ofNat 64 (leNat (bs.take 8)))).map (fun i => (i, bs.drop 8))

/-- Steep bytes. -/
def decodeSteepBytes (bs : List Byte) : Except Reject (Instr × List Byte) :=
  if bs.length < 4 then .error .truncated
  else (decodeSteep (BitVec.ofNat 32 (leNat (bs.take 4)))).map (fun i => (i, bs.drop 4))

/-! ### The three instruction sets -/

/-- Kloam for splits, lauter for engines, steep for queue programs. -/
inductive Isa where
  | kloam | lauter | steep
deriving DecidableEq, Repr

/-- The instruction set of an instruction; none for a row with no encoding. -/
def Instr.isa (i : Instr) : Option Isa :=
  match i with
  | .nop _ | .smov _ _ | .sli _ _ | .sshi _ _ | .sadd _ _ | .ssub _ _ | .smul _ _ | .smulh _ _ | .sand _ _ | .sor _ _ | .sxor _ _ |
    .sshl _ _ | .sshr _ _ | .ssra _ _ | .smin _ _ | .smax _ _ | .scmp _ _ | .klop _ _ | .spopc _ _ | .sclz _ _ | .sld _ _ | .sst _ _ |
    .srd _ _ | .swr _ _ | .jmp _ _ | .call _ _ | .jr _ _ | .join _ | .exit _ | .trap _ _ | .syscall _ _ | .eret _ | .waitc _ _ | .bar _ _ |
    .yield _ | .sleep _ _ | .dwb _ _ | .dinv _ _ | .icinv _ _ | .fetchb _ | .mov _ _ | .movi _ _ | .iadd _ _ | .isub _ _ | .imul _ _ |
    .imulh _ _ | .imad _ _ | .imin _ _ | .imax _ _ | .iabs _ _ | .ineg _ _ | .land _ _ | .lor _ _ | .lxor _ _ | .logt _ _ | .shl _ _ |
    .shr _ _ | .sra _ _ | .bfe _ _ | .bfi _ _ | .popc _ _ | .clz _ _ | .brev _ _ | .icmp _ _ | .sel _ _ | .idiv _ _ | .irem _ _ |
    .idot4 _ _ | .bsel _ _ | .nlut _ _ | .plop _ _ | .ptov _ _ | .vtop _ _ | .fadd _ _ | .fsub _ _ | .fmul _ _ | .ffma _ _ | .fmin _ _ |
    .fmax _ _ | .fcmp _ _ | .fdiv _ _ | .fsqrt _ _ | .frcp _ _ | .frsq _ _ | .fex2 _ _ | .flg2 _ _ | .fsin _ _ | .fcos _ _ | .ftanh _ _ |
    .fclass _ _ | .fdot2 _ _ | .hadd2 _ _ | .hmul2 _ _ | .hfma2 _ _ | .frnd _ _ | .fscale _ _ | .cvt _ _ | .cvpk _ _ | .cvup _ _ |
    .qscl _ _ | .qcvt _ _ | .vxch _ _ | .rdlane _ _ | .wrlane _ _ | .vote _ _ | .fold _ _ | .scan _ _ | .samev _ _ | .vsrd _ _ |
    .elect _ _ | .brd _ _ | .lexit _ _ | .ld _ _ | .st _ _ | .atom _ _ | .acas _ _ | .red _ _ | .redt _ _ | .fence _ _ | .pref _ _ |
    .arrive _ _ | .waitph _ _ | .rawait _ _ | .rrel _ _ | .qput _ _ | .qget _ _ | .mma _ _ | .mmas _ _ | .aclr _ _ | .ald _ _ | .ast _ _ |
    .asts _ _ | .xqt _ _ | .tinst _ _ | .tfree _ _ | .tdraw _ _ | .tstat _ _ | .rack _ _ | .resamp _ _ | .lxstart _ _ | .lxstat _ _ |
    .lxkill _ _ => some .kloam
  | .lauterLi _ | .lauterLih _ | .lauterMov _ | .lauterAdd _ | .lauterSub _ | .lauterMul _ | .lauterAnd _ | .lauterOr _ | .lauterXor _ |
    .lauterShl _ | .lauterShr _ | .lauterAddi _ | .lauterLdx _ | .lauterStx _ | .lauterBeq _ | .lauterBne _ | .lauterBlt _ | .lauterBge _ |
    .lauterJmp _ | .lauterLoop _ | .lauterDset _ | .lauterDidx _ | .lauterDstep _ | .lauterMovt _ | .lauterGath _ | .lauterScat _ |
    .lauterMcst _ | .lauterLred _ | .lauterFill _ | .lauterArrv _ | .lauterWaitb _ | .lauterFence _ | .lauterAbort _ |
    .lauterEnd _ => some .lauter
  | .steepLdi _ | .steepMov _ | .steepAdd _ | .steepSub _ | .steepAnd _ | .steepOr _ | .steepShl _ | .steepShr _ | .steepLdpf _ |
    .steepStpf _ | .steepLdw _ | .steepStw _ | .steepBz _ | .steepBnz _ | .steepLoop _ | .steepEmit _ | .steepWaitv _ | .steepSignal _ |
    .steepDrop _ | .steepFaultq _ | .steepEnd _ => some .steep
  | .variableLatencyResult _ _ _ | .operationCompletion _ _ | .userTrapEntry _ | .supervisorTrapEntry _ | .escalation _ | .timerDue _ |
    .rackEffect _ | .resampEffect _ | .splitWake _ | .priorityAging _ | .waitphReread _ | .rawaitClaim _ | .tdrawServe _ _ |
    .tdrawTimeout _ | .sleepWake _ | .tunFire _ _ | .fillTimeout _ _ | .installCompletion _ | .lauterProgramStart _ | .waitbReread _ |
    .faultResume _ | .faultAbort _ | .faultAbortAndPoison _ | .cellarMove _ | .taskEntryTake _ _ | .fillDelayExpiry _ _ | .teamPlacement _ |
    .gridRetirement _ | .budgetPeriod _ | .matrixWaitLimit _ | .monitorPoll _ _ | .kick _ | .restart _ | .skip _ | .wake _ _ |
    .vcpPacketRead _ | .phaseReread _ | .stalePacket _ | .launch _ | .bundle _ | .lxrun _ | .waitmem _ | .waitmemReread _ |
    .waitmemTimeout _ | .signal _ | .graph _ | .graphReplayStart _ | .patch _ | .timestamp _ | .reserve _ | .reserveRelease _ |
    .tunopInstall _ | .tunopFree _ | .saveq _ | .restq _ | .packetCompletion _ | .customPacket _ | .steepWaitvReread _ |
    .steepWaitvTimeout _ | .steepreq _ | .steepLoad | .partitionEnable _ | .partitionDestroy _ | .swapOut _ | .swapIn _ |
    .partitionStart _ | .waymaskWrite _ _ | .gctlResume _ _ | .gctlRetire _ _ | .gctlEngineResume _ _ | .attreq _ | .registerWrite _ _ |
    .hostWrite _ _ _ | .hostRead _ _ _ | .doorbell _ | .remoteRequest _ | .remoteAnswer _ _ | .remtimeout _ | .deadlineFlush _ _ |
    .gangNotice _ | .unreliablePacket _ | .errorRetry _ _ | .powerUp _ | .resetRelease | .provisioningImage _ _ | .i3cRead _ | .i3cCcc _ |
    .powerLoss _ | .secondStageTableWrite _ _ => none

/-- The decoder of an instruction set: the instruction at the head of the bytes, and the bytes after it. -/
def decodeIn (k : Isa) (bs : List Byte) : Except Reject (Instr × List Byte) :=
  match k with
  | .kloam => decodeKloam bs
  | .lauter => decodeLauterBytes bs
  | .steep => decodeSteepBytes bs

/-! ### Encoder -/

/-- Bits 5:0 of a first word (R144). -/
def hdrBits (h : Hdr) (long : Bool) : BitVec 6 := BitVec.ofBool h.gn ++ h.g ++ BitVec.ofBool h.w ++ BitVec.ofBool long
/-- A short word from its bits 31:13 (R147). -/
def packShort (op : BitVec 7) (h : Hdr) (top : BitVec 19) : Word := top ++ op ++ hdrBits h false
/-- Bits 31:13 of format SR. -/
def srTop (f : SRF) : BitVec 19 := BitVec.ofBool f.i ++ f.b ++ f.a ++ f.d
/-- Bits 31:13 of format SI. -/
def siTop (f : SIF) : BitVec 19 := f.imm ++ f.d
/-- Word 0 of the long format (R148). -/
def packLong0 (op : BitVec 10) (h : Hdr) (f : LongF) : Word := f.a ++ f.d ++ op ++ hdrBits h true
/-- Word 1 of the long format (R148). -/
def packLong1 (f : LongF) : Word := f.sc ++ f.mo ++ BitVec.ofBool f.sat ++ f.rm ++ f.ty ++ f.c ++ f.b
/-- The three words of a long instruction. -/
def packLong (op : BitVec 10) (h : Hdr) (f : LongF) : List Word := [packLong0 op h f, packLong1 f, f.x]
/-- A lauter word (R268). -/
def packLauter (op : BitVec 8) (f : LauterF) : DWord := f.imm32 ++ f.imm12 ++ f.b ++ f.a ++ f.d ++ op
/-- A lauter word as two 32-bit words, the low one first. -/
def lauterWords (op : BitVec 8) (f : LauterF) : List Word :=
  [(packLauter op f).extractLsb' 0 32, (packLauter op f).extractLsb' 32 32]
/-- A steep word (R354). -/
def packSteep (op : BitVec 8) (f : SteepF) : Word := f.imm ++ f.a ++ f.d ++ op

/-- The 32-bit words of an instruction, in ascending order; `[]` for a row with no encoding. -/
def encode (i : Instr) : List Word :=
  match i with
  | .nop h => [packShort 0x00 h 0]
  | .smov h f => [packShort 0x01 h (srTop f)]
  | .sli h f => [packShort 0x02 h (siTop f)]
  | .sshi h f => [packShort 0x03 h (siTop f)]
  | .sadd h f => [packShort 0x04 h (srTop f)]
  | .ssub h f => [packShort 0x05 h (srTop f)]
  | .smul h f => [packShort 0x06 h (srTop f)]
  | .smulh h f => [packShort 0x07 h (srTop f)]
  | .sand h f => [packShort 0x08 h (srTop f)]
  | .sor h f => [packShort 0x09 h (srTop f)]
  | .sxor h f => [packShort 0x0A h (srTop f)]
  | .sshl h f => [packShort 0x0B h (srTop f)]
  | .sshr h f => [packShort 0x0C h (srTop f)]
  | .ssra h f => [packShort 0x0D h (srTop f)]
  | .smin h f => [packShort 0x0E h (srTop f)]
  | .smax h f => [packShort 0x0F h (srTop f)]
  | .scmp h f => [packShort 0x10 h (srTop f)]
  | .klop h f => [packShort 0x11 h (srTop f)]
  | .spopc h f => [packShort 0x12 h (srTop f)]
  | .sclz h f => [packShort 0x13 h (srTop f)]
  | .sld h f => [packShort 0x14 h (srTop f)]
  | .sst h f => [packShort 0x15 h (srTop f)]
  | .srd h f => [packShort 0x16 h (siTop f)]
  | .swr h f => [packShort 0x17 h (siTop f)]
  | .jmp h f => [packShort 0x20 h f.off]
  | .call h f => [packShort 0x21 h f.off]
  | .jr h f => [packShort 0x22 h (srTop f)]
  | .join h => [packShort 0x23 h 0]
  | .exit h => [packShort 0x24 h 0]
  | .trap h f => [packShort 0x25 h (siTop f)]
  | .syscall h f => [packShort 0x26 h (siTop f)]
  | .eret h => [packShort 0x27 h 0]
  | .waitc h f => [packShort 0x28 h (srTop f)]
  | .bar h f => [packShort 0x29 h (srTop f)]
  | .yield h => [packShort 0x2A h 0]
  | .sleep h f => [packShort 0x2B h (srTop f)]
  | .dwb h f => [packShort 0x2C h (srTop f)]
  | .dinv h f => [packShort 0x2D h (srTop f)]
  | .icinv h f => [packShort 0x2E h (srTop f)]
  | .fetchb h => [packShort 0x2F h 0]
  | .mov h f => packLong 0x000 h f
  | .movi h f => packLong 0x001 h f
  | .iadd h f => packLong 0x002 h f
  | .isub h f => packLong 0x003 h f
  | .imul h f => packLong 0x004 h f
  | .imulh h f => packLong 0x005 h f
  | .imad h f => packLong 0x006 h f
  | .imin h f => packLong 0x007 h f
  | .imax h f => packLong 0x008 h f
  | .iabs h f => packLong 0x009 h f
  | .ineg h f => packLong 0x00A h f
  | .land h f => packLong 0x00B h f
  | .lor h f => packLong 0x00C h f
  | .lxor h f => packLong 0x00D h f
  | .logt h f => packLong 0x00E h f
  | .shl h f => packLong 0x00F h f
  | .shr h f => packLong 0x010 h f
  | .sra h f => packLong 0x011 h f
  | .bfe h f => packLong 0x012 h f
  | .bfi h f => packLong 0x013 h f
  | .popc h f => packLong 0x014 h f
  | .clz h f => packLong 0x015 h f
  | .brev h f => packLong 0x016 h f
  | .icmp h f => packLong 0x017 h f
  | .sel h f => packLong 0x018 h f
  | .idiv h f => packLong 0x019 h f
  | .irem h f => packLong 0x01A h f
  | .idot4 h f => packLong 0x01B h f
  | .bsel h f => packLong 0x01C h f
  | .nlut h f => packLong 0x01D h f
  | .plop h f => packLong 0x020 h f
  | .ptov h f => packLong 0x021 h f
  | .vtop h f => packLong 0x022 h f
  | .fadd h f => packLong 0x100 h f
  | .fsub h f => packLong 0x101 h f
  | .fmul h f => packLong 0x102 h f
  | .ffma h f => packLong 0x103 h f
  | .fmin h f => packLong 0x104 h f
  | .fmax h f => packLong 0x105 h f
  | .fcmp h f => packLong 0x106 h f
  | .fdiv h f => packLong 0x107 h f
  | .fsqrt h f => packLong 0x108 h f
  | .frcp h f => packLong 0x109 h f
  | .frsq h f => packLong 0x10A h f
  | .fex2 h f => packLong 0x10B h f
  | .flg2 h f => packLong 0x10C h f
  | .fsin h f => packLong 0x10D h f
  | .fcos h f => packLong 0x10E h f
  | .ftanh h f => packLong 0x10F h f
  | .fclass h f => packLong 0x110 h f
  | .fdot2 h f => packLong 0x111 h f
  | .hadd2 h f => packLong 0x112 h f
  | .hmul2 h f => packLong 0x113 h f
  | .hfma2 h f => packLong 0x114 h f
  | .frnd h f => packLong 0x115 h f
  | .fscale h f => packLong 0x116 h f
  | .cvt h f => packLong 0x200 h f
  | .cvpk h f => packLong 0x201 h f
  | .cvup h f => packLong 0x202 h f
  | .qscl h f => packLong 0x203 h f
  | .qcvt h f => packLong 0x204 h f
  | .vxch h f => packLong 0x210 h f
  | .rdlane h f => packLong 0x211 h f
  | .wrlane h f => packLong 0x212 h f
  | .vote h f => packLong 0x213 h f
  | .fold h f => packLong 0x214 h f
  | .scan h f => packLong 0x215 h f
  | .samev h f => packLong 0x216 h f
  | .vsrd h f => packLong 0x217 h f
  | .elect h f => packLong 0x218 h f
  | .brd h f => packLong 0x219 h f
  | .lexit h f => packLong 0x21A h f
  | .ld h f => packLong 0x280 h f
  | .st h f => packLong 0x281 h f
  | .atom h f => packLong 0x282 h f
  | .acas h f => packLong 0x283 h f
  | .red h f => packLong 0x284 h f
  | .redt h f => packLong 0x285 h f
  | .fence h f => packLong 0x286 h f
  | .pref h f => packLong 0x287 h f
  | .arrive h f => packLong 0x290 h f
  | .waitph h f => packLong 0x291 h f
  | .rawait h f => packLong 0x292 h f
  | .rrel h f => packLong 0x293 h f
  | .qput h f => packLong 0x298 h f
  | .qget h f => packLong 0x299 h f
  | .mma h f => packLong 0x380 h f
  | .mmas h f => packLong 0x381 h f
  | .aclr h f => packLong 0x382 h f
  | .ald h f => packLong 0x383 h f
  | .ast h f => packLong 0x384 h f
  | .asts h f => packLong 0x385 h f
  | .xqt h f => packLong 0x386 h f
  | .tinst h f => packLong 0x388 h f
  | .tfree h f => packLong 0x389 h f
  | .tdraw h f => packLong 0x38A h f
  | .tstat h f => packLong 0x38B h f
  | .rack h f => packLong 0x390 h f
  | .resamp h f => packLong 0x391 h f
  | .lxstart h f => packLong 0x392 h f
  | .lxstat h f => packLong 0x393 h f
  | .lxkill h f => packLong 0x394 h f
  | .lauterLi f => lauterWords 0x01 f
  | .lauterLih f => lauterWords 0x02 f
  | .lauterMov f => lauterWords 0x03 f
  | .lauterAdd f => lauterWords 0x04 f
  | .lauterSub f => lauterWords 0x05 f
  | .lauterMul f => lauterWords 0x06 f
  | .lauterAnd f => lauterWords 0x07 f
  | .lauterOr f => lauterWords 0x08 f
  | .lauterXor f => lauterWords 0x09 f
  | .lauterShl f => lauterWords 0x0A f
  | .lauterShr f => lauterWords 0x0B f
  | .lauterAddi f => lauterWords 0x0C f
  | .lauterLdx f => lauterWords 0x10 f
  | .lauterStx f => lauterWords 0x11 f
  | .lauterBeq f => lauterWords 0x14 f
  | .lauterBne f => lauterWords 0x15 f
  | .lauterBlt f => lauterWords 0x16 f
  | .lauterBge f => lauterWords 0x17 f
  | .lauterJmp f => lauterWords 0x18 f
  | .lauterLoop f => lauterWords 0x19 f
  | .lauterDset f => lauterWords 0x20 f
  | .lauterDidx f => lauterWords 0x21 f
  | .lauterDstep f => lauterWords 0x22 f
  | .lauterMovt f => lauterWords 0x23 f
  | .lauterGath f => lauterWords 0x24 f
  | .lauterScat f => lauterWords 0x25 f
  | .lauterMcst f => lauterWords 0x26 f
  | .lauterLred f => lauterWords 0x27 f
  | .lauterFill f => lauterWords 0x30 f
  | .lauterArrv f => lauterWords 0x31 f
  | .lauterWaitb f => lauterWords 0x32 f
  | .lauterFence f => lauterWords 0x33 f
  | .lauterAbort f => lauterWords 0x3E f
  | .lauterEnd f => lauterWords 0x3F f
  | .steepLdi f => [packSteep 0x01 f]
  | .steepMov f => [packSteep 0x02 f]
  | .steepAdd f => [packSteep 0x03 f]
  | .steepSub f => [packSteep 0x04 f]
  | .steepAnd f => [packSteep 0x05 f]
  | .steepOr f => [packSteep 0x06 f]
  | .steepShl f => [packSteep 0x07 f]
  | .steepShr f => [packSteep 0x08 f]
  | .steepLdpf f => [packSteep 0x09 f]
  | .steepStpf f => [packSteep 0x0A f]
  | .steepLdw f => [packSteep 0x0B f]
  | .steepStw f => [packSteep 0x0C f]
  | .steepBz f => [packSteep 0x0D f]
  | .steepBnz f => [packSteep 0x0E f]
  | .steepLoop f => [packSteep 0x0F f]
  | .steepEmit f => [packSteep 0x10 f]
  | .steepWaitv f => [packSteep 0x11 f]
  | .steepSignal f => [packSteep 0x12 f]
  | .steepDrop f => [packSteep 0x13 f]
  | .steepFaultq f => [packSteep 0x14 f]
  | .steepEnd f => [packSteep 0x15 f]
  | .variableLatencyResult _ _ _ => []
  | .operationCompletion _ _ => []
  | .userTrapEntry _ => []
  | .supervisorTrapEntry _ => []
  | .escalation _ => []
  | .timerDue _ => []
  | .rackEffect _ => []
  | .resampEffect _ => []
  | .splitWake _ => []
  | .priorityAging _ => []
  | .waitphReread _ => []
  | .rawaitClaim _ => []
  | .tdrawServe _ _ => []
  | .tdrawTimeout _ => []
  | .sleepWake _ => []
  | .tunFire _ _ => []
  | .fillTimeout _ _ => []
  | .installCompletion _ => []
  | .lauterProgramStart _ => []
  | .waitbReread _ => []
  | .faultResume _ => []
  | .faultAbort _ => []
  | .faultAbortAndPoison _ => []
  | .cellarMove _ => []
  | .taskEntryTake _ _ => []
  | .fillDelayExpiry _ _ => []
  | .teamPlacement _ => []
  | .gridRetirement _ => []
  | .budgetPeriod _ => []
  | .matrixWaitLimit _ => []
  | .monitorPoll _ _ => []
  | .kick _ => []
  | .restart _ => []
  | .skip _ => []
  | .wake _ _ => []
  | .vcpPacketRead _ => []
  | .phaseReread _ => []
  | .stalePacket _ => []
  | .launch _ => []
  | .bundle _ => []
  | .lxrun _ => []
  | .waitmem _ => []
  | .waitmemReread _ => []
  | .waitmemTimeout _ => []
  | .signal _ => []
  | .graph _ => []
  | .graphReplayStart _ => []
  | .patch _ => []
  | .timestamp _ => []
  | .reserve _ => []
  | .reserveRelease _ => []
  | .tunopInstall _ => []
  | .tunopFree _ => []
  | .saveq _ => []
  | .restq _ => []
  | .packetCompletion _ => []
  | .customPacket _ => []
  | .steepWaitvReread _ => []
  | .steepWaitvTimeout _ => []
  | .steepreq _ => []
  | .steepLoad => []
  | .partitionEnable _ => []
  | .partitionDestroy _ => []
  | .swapOut _ => []
  | .swapIn _ => []
  | .partitionStart _ => []
  | .waymaskWrite _ _ => []
  | .gctlResume _ _ => []
  | .gctlRetire _ _ => []
  | .gctlEngineResume _ _ => []
  | .attreq _ => []
  | .registerWrite _ _ => []
  | .hostWrite _ _ _ => []
  | .hostRead _ _ _ => []
  | .doorbell _ => []
  | .remoteRequest _ => []
  | .remoteAnswer _ _ => []
  | .remtimeout _ => []
  | .deadlineFlush _ _ => []
  | .gangNotice _ => []
  | .unreliablePacket _ => []
  | .errorRetry _ _ => []
  | .powerUp _ => []
  | .resetRelease => []
  | .provisioningImage _ _ => []
  | .i3cRead _ => []
  | .i3cCcc _ => []
  | .powerLoss _ => []
  | .secondStageTableWrite _ _ => []

/-- The bytes of an instruction as memory holds them (R5). -/
def encodeBytes (i : Instr) : List Byte := (encode i).flatMap (fun w => leBytes 4 w.toNat)

/-! ### The opcode table's view -/

/-- A 32-bit table word is a steep word when its low byte is a steep opcode, else a short Kloam word. -/
def isSteepWord (w : Nat) : Bool := 1 ≤ w % 256 && w % 256 ≤ 0x15

/-- The instruction the decoders read from the bits `w` of an opcode-table row of `nbits` bits: 96 bits a long Kloam
instruction, 64 a lauter word, otherwise a steep or short Kloam word. -/
def decodeTableWord (nbits w : Nat) : Option Instr :=
  let r :=
    if nbits = 96 then decodeKloam (leBytes 12 w)
    else if nbits = 64 then decodeLauterBytes (leBytes 8 w)
    else if isSteepWord w then decodeSteepBytes (leBytes 4 w)
    else decodeKloam (leBytes 12 w)
  match r with
  | .ok (i, _) => some i
  | .error _ => none

end Sys2Proof
end

