-- ==== Sys2Proof/Machine/State.lean ====
section
/-! DEFINITION. The state of the Akzan as plain data: every piece of architectural state the spec gives the device, the
bookkeeping of work in flight, and the model's own schedule. Collections are lists; a thing that is absent is not listed. -/

namespace Sys2Proof.Machine

/-! ### Outcomes -/

/-- Why the machine stops. No instruction of the spec stops the device: each fault is the model's own. -/
inductive Fault where
  /-- Raised by a meaning when the state names no agent of the kind that could execute the instruction (a Kloam instruction
  with no such split, a lauter instruction with no such running program, a steep instruction with no such run). Safe: the
  device never issues an instruction without an agent, so the model stops where the device cannot be. -/
  | noAgent
deriving DecidableEq, Repr

/-- Why there is no meaning. -/
inductive Refusal where
  /-- Raised by an arm of `exec` for an instruction that has no meaning yet. Safe: the machine stops. -/
  | notModelled (mnemonic : String)
deriving DecidableEq, Repr

/-- Memory: (address, byte) pairs, addresses strictly rising, no entry equal to what an unlisted address reads as. -/
abbrev Memory := List Host.Cell

/-! ### Trap causes (R35) -/

/-- A cause with its subcode, the address of the lane it is reported for, and the access type of R390. -/
structure Cause where
  code : BitVec 8
  sub : BitVec 8 := 0
  addr : DWord := 0
  /-- SYSCALL's imm13 (R322). -/
  sysCode : BitVec 13 := 0
  /-- The access type of R390. -/
  access : BitVec 8 := 0
  /-- A second-stage fault (R379): it escalates, with bit 7 of SUB set; `addr` is then the intermediate address. -/
  stage2 : Bool := false
  /-- LXF: a lauter program fault of this group (R326). -/
  lxf : Bool := false
deriving DecidableEq, Repr

/-! ### Lanes, splits, groups, teams, grids (R16 to R47, R155 to R157) -/

/-- One lane (R155, R157). -/
structure Lane where
  /-- A thread occupies the lane and has not retired (R18, R367). -/
  live : Bool := false
  /-- The declared V registers (R155). -/
  v : List Word := []
  /-- P0 to P6; bit 7 is not used, since P7 reads true (R155). -/
  p : BitVec 8 := 0
  popidx : Word := 0
  parent : Word := 0
  root : Word := 0
  copy : Word := 0
  /-- The LANERND draw counter (R109, R110). -/
  draw : DWord := 0
  /-- PRIVBASE (R51). -/
  privbase : DWord := 0
deriving DecidableEq, Repr

/-- An entry of the deferral stack (R22). -/
inductive StackEntry where
  | defer (join : CodeAddr) (mask : Mask) (pc : CodeAddr)
  | arrived (join : CodeAddr) (mask : Mask)
  | outer (join : CodeAddr) (tag : Option CodeAddr)
  | held (pc : CodeAddr) (mask : Mask)
deriving DecidableEq, Repr

/-- One register write of a variable-latency operation that has not landed yet (R27, R28). -/
inductive RegWrite where
  | v (lane reg : Nat) (val : Word)
  | s (reg : Nat) (val : DWord)
deriving DecidableEq, Repr

/-- A register-writing operation of variable latency that is outstanding for a split (R28, R29). -/
structure Pend where
  op : Nat
  writes : List RegWrite
  /-- The operation waits for something else (an answer, a served slot) before its writes may land. -/
  held : Bool := false
deriving DecidableEq, Repr

/-- The memory space of an access (R48). -/
inductive Space where
  | global | scratch | cluster | die
deriving DecidableEq, Repr

/-- A place in memory after its checks: a physical HBM byte, an offset of a team's scratchpad, an offset of a die allocation, or
an offset of a partition's device-register page. -/
inductive Loc where
  | hbm (addr : Nat)
  | scratch (team off : Nat)
  | die (key off : Nat)
  | page (part off : Nat)
  /-- A location homed on another device, for the releases this device has made there (R84). -/
  | away (dest : Word) (off : Nat)
deriving DecidableEq, Repr

/-- A move or STX of a lauter program: the engine, the program's serial, and how many moves and STX the program had begun with it. -/
structure MoveRef where
  core : Nat
  eng : Nat
  serial : Word
  begun : Nat
deriving DecidableEq, Repr

/-- The engine operations that a FENCE or an access waits for: those that were in flight when it first came to issue (R74, R88). -/
structure FenceWait where
  pc : CodeAddr
  /-- Operations of the group, by number. -/
  ops : List Nat
  /-- Programs of the group with a move or STX under way. -/
  moves : List MoveRef
  /-- Page-table entries about to be written: address and size (R383). -/
  remap : List (Nat × Nat) := []
deriving DecidableEq, Repr

/-- A lane of a WAITPH or RAWAIT that is not finished: its lane, its address and where it acts. -/
structure LaneLoc where
  lane : Nat
  addr : DWord
  loc : Loc
  /-- The cache policy of its page, for a word of global memory (R378). -/
  cp : BitVec 2 := 0
deriving DecidableEq, Repr

/-- What a parked split waits for (R363). -/
inductive Park where
  /-- W = 1, or a mixed BRD: outstanding register results (R28, R176). -/
  | results
  /-- JOIN (R24): the split's PC is the JOIN. -/
  | join
  /-- BAR with this id (R32). -/
  | bar (id : Nat)
  /-- RACK with predicate Pk, and its words (R261). -/
  | rack (k : Nat) (insn : List Word)
  /-- RESAMP: S[stat], the weight register, S[target] and, in the explicit form, S[u], read when it arrived (R41 to R43). -/
  | resamp (stat weight : Nat) (target : DWord) (u : Option DWord) (guard : Mask) (insn : List Word)
  /-- WAITC: path and threshold (R31). -/
  | waitc (path : Nat) (n : DWord)
  /-- WAITPH (R233): S[D]<0>, order and scope, the words of the lanes, the lanes that fault (R37), the instruction's words, and whether
  it is issued again once the words are ready, because other lanes' words are on other devices. -/
  | waitph (phase : Bool) (order : BitVec 3) (scope : BitVec 4) (words : List LaneLoc) (faults : List (Nat × Cause))
      (insn : List Word) (again : Bool)
  /-- RAWAIT (R234): destination register, order and scope, the rings of the lanes still waiting in ascending order, the lanes that
  fault, and the instruction's words. -/
  | rawait (dst : Nat) (order : BitVec 3) (scope : BitVec 4) (lanes : List LaneLoc) (faults : List (Nat × Cause)) (insn : List Word)
  /-- QPUT and TSTAT (R238, R258): until the operation's results are written. -/
  | statuses (op : Nat)
  /-- TDRAW (R259): until every slot of the operation is served. -/
  | tdraw (op : Nat)
  /-- SLEEP until CLOCK reaches this value (R184). -/
  | sleep (until_ : DWord)
  /-- An occupied handler of the group, at user or supervisor level (R325). -/
  | handler (sup : Bool)
  /-- A 64 KB page whose fault another split of the group has in hand (R384), numbered as in `Split.pages`. -/
  | page (page : Nat)
deriving DecidableEq, Repr

/-- Why a split is stalled (R363). -/
inductive Stall where
  /-- A 17th register-writing operation (R29). -/
  | results
  /-- A 64th operation on this counter path (R31). -/
  | counter (path : Nat)
  /-- The matrix power budget of the cluster is spent: the charge of the operation (R371, R372). -/
  | budget (charge : Nat)
  /-- Engine operations that a FENCE or access waits for, and, for a strong one, earlier strong accesses to other devices (R73, R74, R88). -/
  | fence (strong : Bool)
  /-- Requests held behind earlier ones to the same blocks: device and block number (R409). -/
  | block (places : List (Word × Nat))
  /-- No place in the start queue of any of these engines (R263). -/
  | engine (rs : List EngRef)
deriving DecidableEq, Repr

/-- The state of a split entry that is not free (R363). -/
inductive SplitStatus where
  | ready
  | stalled (s : Stall)
  | parked (p : Park)
deriving DecidableEq, Repr

/-- Lanes that run on after a fault in other lanes of their split (R37): the trap to take once they stop. -/
structure RunOn where
  pc : CodeAddr
  cause : Cause
  faulting : Mask
  /-- Lanes of the same instruction that faulted with another cause. -/
  others : Mask
  /-- Lanes that faulted while running on, with the PC each group of them is held at. -/
  heldLater : List (CodeAddr × Mask)
  insn : List Word
deriving DecidableEq, Repr

/-- A trap of a split at an instruction that it has not completed since, for RETRY (R390). -/
structure LastTrap where
  pc : CodeAddr
  code : BitVec 8
  retry : BitVec 8
deriving DecidableEq, Repr

/-- A cause that met an occupied handler and is raised again (R325), with the instruction's address, the address to return to, its words,
and the in-handler marks the split had. -/
structure HeldCause where
  cause : Cause
  pc : CodeAddr
  epc : CodeAddr
  insn : List Word
  inUser : Bool
  inSup : Bool
deriving DecidableEq, Repr

/-- Where a cause is taken (R324, R325): the user handler, the supervisor handler, the hypervisor, or a handler that another split of
the group is in. -/
inductive Route where
  | user | sup | hyp | wait (sup : Bool)
deriving DecidableEq, Repr

/-- One split (R21, R363) with its marks (R34, R324) and the work it waits for. -/
structure Split where
  /-- Split entry 0 to 3. -/
  slot : Nat := 0
  /-- Rank in order of creation: a lower age is an older split (R24). -/
  age : Nat := 0
  pc : CodeAddr := 0
  mask : Mask := 0
  tag : Option CodeAddr := none
  /-- Deferral stack, top first (R22). -/
  stack : List StackEntry := []
  status : SplitStatus := .ready
  /-- Supervisor level (R321). -/
  sup : Bool := false
  /-- In its user handler (R34). -/
  inUser : Bool := false
  /-- In its supervisor handler (R324). -/
  inSup : Bool := false
  /-- Has taken TIMER since TIMECMP was last written (R36). -/
  timerTaken : Bool := false
  /-- GANGFAIL is pending, with its subcode (R388, R416). -/
  gangFail : Option (BitVec 8) := none
  /-- Causes that were pending when the user handler was entered: they wait for that handler's ERET (R388; log entry 46). Bit 0 GANGFAIL,
  bit 1 a lauter program fault, bit 2 TIMER, bit 3 the POISON of a matrix operation. -/
  owedUser : BitVec 4 := 0
  /-- The same for the supervisor handler. -/
  owedSup : BitVec 4 := 0
  /-- Causes that met an occupied handler, newest first (R325). -/
  waiting : List HeldCause := []
  /-- Pages whose faults this split has in hand: 2n for page n, 2n + 1 for an intermediate page (R384). -/
  pages : List Nat := []
  /-- A lasting error met by a matrix operation, to take as POISON at the next issue: the line (R252). -/
  poisonAt : Option DWord := none
  /-- Results of variable latency that are outstanding (R28). -/
  pend : List Pend := []
  runOn : Option RunOn := none
  lastTrap : List LastTrap := []
  /-- Levels gained by aging since the last issue (R364). -/
  aging : Nat := 0
  /-- CLOCK when the split last became ready or issued (R364). -/
  readySince : DWord := 0
  /-- Release FENCE not yet followed by a strong store: its scope (R73, R76). -/
  relFence : Option (BitVec 4) := none
  /-- Lines named by signatures that relaxed strong loads and RMWs have read: an acquire FENCE applies them (R73, R76). -/
  acqSig : List (Nat × Nat) := []
  /-- Words prefetched since the last FETCHB, as (address, word) (R241). -/
  prefetch : List (Nat × Word) := []
  /-- CLOCK at which the matrix operation of the split began to wait for budget, and its charge (R371). -/
  budgetSince : Option DWord := none
  budgetCharge : Nat := 0
  /-- That operation has waited its limit and goes next (R371). -/
  budgetGranted : Bool := false
  /-- What the FENCE or access at the PC waits for (R74, R88). -/
  fenceWait : Option FenceWait := none
  /-- Bits 63:54 of the PC a task lane was started at: when not zero its first instruction cannot be fetched (R154, R366). -/
  farPc : BitVec 10 := 0
deriving DecidableEq, Repr

/-- An operation counted in flight, oldest first within its path (R30, R31). -/
structure Flight where
  path : Nat
  op : Nat
  /-- The operation is complete and may be counted once every earlier one on its path has been. -/
  done : Bool
deriving DecidableEq, Repr

/-- GSTATE of a group's register image (R393). -/
inductive GState where
  | resident | saved | escalated
deriving DecidableEq, Repr

/-- A trap frame of a group's register image (R390, R393). -/
structure TrapFrame where
  pc : DWord := 0
  info : DWord := 0
  mask : DWord := 0
  addr : DWord := 0
  insn : List Word := [0, 0, 0]
deriving DecidableEq, Repr

/-- A lauter program fault of the group waiting to be taken as LXF (R326): engine and record address. -/
structure LxFault where
  core : Nat
  eng : Nat
  cause : BitVec 8
  sub : BitVec 8
  record : DWord
  /-- The program was started with NOTIFY (R263). -/
  notify : Bool := false
  /-- Serial of the program on its engine (R263). -/
  serial : Word := 0
deriving DecidableEq, Repr

/-- One group (R155, R156, R322, R363, R392, R393). -/
structure Group where
  uid : Nat
  /-- Unique number of its grid and team. -/
  grid : Nat
  team : Nat
  /-- GROUPID in the team (R17). -/
  groupid : Nat := 0
  core : Nat := 0
  /-- Group entry of the core, 0 to 63 (R364). -/
  entry : Nat := 0
  /-- GWIDTH. -/
  width : Nat := 16
  /-- Declared V count. -/
  vregs : Nat := 8
  lanes : List Lane := []
  /-- S0 to S63; S0 is not used, since it reads zero. -/
  s : List DWord := List.replicate 64 0
  /-- K0 to K6; bit 7 is not used, since K7 reads true. -/
  k : BitVec 8 := 0
  timecmp : DWord := 0
  utvec : DWord := 0
  utcause : DWord := 0
  utepc : DWord := 0
  faultmask : DWord := 0
  faultaddr : DWord := 0
  kernarg : DWord := 0
  scbase : DWord := 0
  scshift : DWord := 5
  wkey : DWord := 0
  stvec : DWord := 0
  scause : DWord := 0
  sepc : DWord := 0
  sstatus : DWord := 0
  ptroot : DWord := 0
  asid : DWord := 0
  partid : DWord := 0
  sscratch : DWord := 0
  lxrbase : DWord := 0
  splits : List Split := []
  /-- Age to give the next split. -/
  nextAge : Nat := 1
  flights : List Flight := []
  gstate : GState := .resident
  /-- Image slot (R392). -/
  slot : Nat := 0
  /-- Bytes of the slot as the device last left them, and whether software has changed any that it may not write (R393). -/
  image : Memory := []
  tampered : Bool := false
  uframe : TrapFrame := {}
  sframe : TrapFrame := {}
  /-- Lauter faults not yet taken, oldest first (R326). -/
  lxfaults : List LxFault := []
  /-- The lauter fault whose LXF trap is in hand (R401). -/
  lxHand : Option LxFault := none
  /-- The split that escalated (R391), by split entry. -/
  escalatedSplit : Option Nat := none
  /-- The group's most recent TINST: its operation, tun number read, status and faulting address (R258). -/
  instOp : Nat := 0
  instTun : BitVec 12 := 0xFFF
  instStatus : BitVec 8 := 0xFF
  instAddr : DWord := 0
  /-- Lines written by finished lauter programs of the group that no WAITC on LAU has applied yet (R87): (core, line). -/
  lauSig : List (Nat × Nat) := []
  /-- The S and K register cache tags (R363, R394): which of the four lines of S and the line of K the register cache holds
  (log entry 107). -/
  regTags : BitVec 5 := 0x1F
deriving DecidableEq, Repr

/-- A team that exists: placed on cores, or saved (R17, R359, R395). -/
structure Team where
  uid : Nat
  grid : Nat
  teamid : Nat := 0
  /-- The core, or the even core of the pair (R17). -/
  core : Nat := 0
  paired : Bool := false
  /-- Scratchpad bytes, rounded to 1 KB (R52); accumulator bytes on each core (R64). -/
  scratch : Nat := 0
  acc : Nat := 0
  /-- Off its cores: pre-empted, or created without a place (R362, R395). -/
  saved : Bool := false
  /-- Saved by SAVEQ, until RESTQ (R347). -/
  heldBySave : Bool := false
  /-- TEAMGROUPS: the groups it has had since its launch, its last RACK and the RESAMPs after them (R17, R39, R46; log entry 99). -/
  groups : Nat := 1
  /-- Created by RESAMP without a place: it is placed ahead of every waiting team (R362). -/
  ahead : Bool := false
  /-- Units that hold its memories once it has been saved (R392). -/
  units : List Nat := []
deriving DecidableEq, Repr

/-- KIND of a grid (R19). -/
inductive GridKind where
  | ordinary | population | task
deriving DecidableEq, Repr

/-- A task taken from a cask, waiting in a forming group (R367): PC, payload, and what its start acquires (R368). -/
structure Task where
  pc : DWord
  lo : Word
  hi : Word
  scope : BitVec 4 := 0
  sig : List (Nat × Nat) := []
deriving DecidableEq, Repr

/-- The forming group of an entry index, and CLOCK when its first task was taken (R367). -/
structure Forming where
  entry : Nat
  tasks : List Task
  since : DWord
deriving DecidableEq, Repr

/-- The forming team of an entry index: complete groups, and CLOCK when the first became complete (R367). -/
structure FormingTeam where
  entry : Nat
  groups : List (List Task)
  since : DWord
  /-- Complete: it has TG groups, or its fill delay is over. -/
  ready : Bool
deriving DecidableEq, Repr

/-- One grid (R16, R19, R20, R299, R338). -/
structure Grid where
  uid : Nat
  gridid : Word := 0
  part : Nat := 0
  /-- The packet that launched it. -/
  packet : PacketRef := ⟨0, 0, 0, 0⟩
  kind : GridKind := .ordinary
  kernarg : DWord := 0
  pc : CodeAddr := 0
  width : Nat := 16
  vregs : Nat := 8
  scratch : Nat := 0
  acc : Nat := 0
  priv : Nat := 0
  paired : Bool := false
  clus : Bool := false
  rsv : Bool := false
  tg : Nat := 1
  nt : Nat := 1
  /-- The placement set: cores (R359). -/
  cores : BitVec 192 := 0
  dieAlloc : Nat := 0
  /-- The die allocation is made, so that teams may be placed (R54). -/
  admitted : Bool := true
  pri : BitVec 2 := 0
  /-- The next TEAMID to place. -/
  nextTeam : Nat := 0
  popcap : Word := 0
  popseed : DWord := 0
  popgen : Word := 0
  popsize : Word := 0
  /-- Lane slots still reserved beyond resident groups, by core, in units of GWIDTH (R20). -/
  reserve : List (Nat × Nat) := []
  /-- Image slots still reserved for groups of a population grid (R20). -/
  images : Nat := 0
  /-- Its groups start at supervisor level (R321; log entry 100). -/
  sup : Bool := false
  /-- An RSV grid that has started: every one of its teams could be resident (R369). -/
  started : Bool := false
  /-- Where its lane-private slices begin: those of its launch indices, or of POPCAP threads (R20, R51). -/
  privNext : DWord := 0
  /-- Launch context copied to groups (R331). -/
  stvec : DWord := 0
  ptroot : DWord := 0
  asid : DWord := 0
  lxrbase : DWord := 0
  wkey : DWord := 0
  /-- Bound casks and fill delay of a task grid (R366). -/
  casks : List Nat := []
  fillDelay : Nat := 0
  forming : List Forming := []
  formingTeams : List FormingTeam := []
deriving DecidableEq, Repr

/-! ### Caches and translations (R55 to R63, R241, R382) -/

/-- Which cache of a core holds a line. -/
inductive CacheKind where
  | l1 | instr | scale
deriving DecidableEq, Repr

/-- A 128-byte line of physical memory in a cache of a core: its number (address / 128), its bytes, its dirty mask (L1 only)
the virtual intervals (first address, count) it has been reached through, for ranges of DWB, DINV and ICINV, whether it is the first to
be evicted (R57, CP 2), and which dirty bytes a load has returned (R317). -/
structure CacheLine where
  kind : CacheKind
  core : Nat
  line : Nat
  data : BitVec 1024
  dirty : BitVec 128 := 0
  vas : List (Nat × Nat) := []
  first : Bool := false
  read : BitVec 128 := 0
deriving DecidableEq, Repr

/-- What a translation yields (R375, R378, R382). -/
structure TlbEntry where
  /-- Core c's data TLB is c, its instruction TLB 192 + c, die d's shared TLB 384 + d. -/
  owner : Nat
  part : Nat
  asid : DWord
  ptroot : DWord
  /-- Virtual base and size of the page or block. -/
  vbase : Nat
  size : Nat
  /-- Physical base of the second-stage leaf's frame under it, and the intermediate base. -/
  pbase : Nat
  r : Bool
  w : Bool
  x : Bool
  u : Bool
  cp : BitVec 2
  bgeo : BitVec 2
  efmt : BitVec 5
  ptype : BitVec 3
  tunid : BitVec 12
  /-- Physical addresses of the two leaves, and every 8-byte entry read in the walk with its value but for A and D (R381, R383). -/
  leaf1 : Nat
  leaf2 : Nat
  src : List (Nat × Nat)
  /-- D is known set in both leaves (R381). -/
  dirty : Bool
deriving DecidableEq, Repr

/-- A release signature at a location (R84): the bytes of the released word, the (core, line) pairs it covers, and whether its table entry
has been retired, the releasers' lines being written back (step 4). -/
structure Signature where
  loc : Loc
  size : Nat
  lines : List (Nat × Nat)
  retired : Bool := false
deriving DecidableEq, Repr

/-- The agent context an access is made in (R378, R382): core, partition, address space, level and writer key. -/
structure Ctx where
  core : Nat
  part : Nat
  asid : DWord
  ptroot : DWord
  sup : Bool
  wkey : DWord
  grid : Option Nat
  team : Option Nat
deriving DecidableEq, Repr

/-! ### Tuns (R124 to R143) -/

/-- The fill state of one slot that is not idle and empty (R137, R140). -/
structure TunSlot where
  slot : Nat
  /-- Element-valid bitmap and element codes. -/
  valid : BitVec 4096
  elems : List Nat
  /-- CLOCK when the fill timer started. -/
  since : DWord
  firing : Bool := false
  /-- Writer entry of the completing store. -/
  writer : BitVec 8 := 0
  /-- Feed stores held while firing, oldest first: writer entry and (element, code) pairs. -/
  held : List (BitVec 8 × List (Nat × Nat)) := []
deriving DecidableEq, Repr

/-- A tun number that is bound (R125, R126, R127). -/
structure Tun where
  num : Nat
  part : Nat
  /-- The descriptor, sixteen quadwords (R126). -/
  desc : List DWord
  /-- The install has not completed (R125). -/
  installing : Bool := true
  /-- Stripe cores (R130). -/
  cores : List Nat
  /-- Physical bases of the 64 KB pages of the feed and draw windows, as they were mapped at the install (R131). -/
  feedPages : List Nat := []
  drawPages : List Nat := []
  /-- Bytes of those pages, by physical address: the proper value of each byte of a draw slot, and what the feed pages held at the install; a
  byte that differs was written through another mapping (R124). -/
  own : Memory := []
  /-- Operator element codes by row, scales by row, bias codes (operator memory). -/
  op : List (List Nat) := []
  scales : List (List Nat) := []
  bias : List Nat := []
  slots : List TunSlot := []
  fires : Word := 0
  refused : Word := 0
  abandoned : Word := 0
  overrun : Word := 0
  faulted : Word := 0
  /-- A lasting error struck its operator memory (R138, R418). -/
  bad : Bool := false
  /-- Lines released by feed stores, for the draw's acquire (R85). -/
  sig : List (Nat × Nat) := []
  /-- Context of the install, the installing group and its TUN operation. -/
  ctx : Ctx
  group : Nat
  flight : Nat
  /-- TUNOP packet to answer (R337). -/
  packet : Option PacketRef := none
deriving DecidableEq, Repr

/-- A TDRAW in flight (R259, R260). -/
structure Draw where
  op : Nat
  group : Nat
  split : Nat
  /-- Destination register, bytes per lane, consumption, order, scope, last sequence. -/
  dst : Nat
  size : Nat
  cons : Bool
  order : BitVec 3
  scope : BitVec 4
  last : Word
  /-- Timeout in µs (R259) and CLOCK at issue. -/
  timeout : Word
  since : DWord
  /-- Lanes not served yet: lane, its address, tun, slot, offset in the slot. -/
  lanes : List (Nat × DWord × Nat × Nat × Nat)
  /-- Lanes that trap once the others are served (R37), and the instruction's words. -/
  faults : List (Nat × Cause)
  insn : List Word
deriving DecidableEq, Repr

/-! ### Casks (R236, R237) -/

/-- One entry of a cask. -/
structure CaskEntry where
  producer : Nat
  w0 : Word
  lo : Word
  hi : Word
  scope : BitVec 4
  sig : List (Nat × Nat)
deriving DecidableEq, Repr

/-- A cask assigned to a partition. -/
structure Cask where
  num : Nat
  part : Nat
  chip : List CaskEntry := []
  cellar : List CaskEntry := []
  /-- Cellar size in entries, 0 to 2^24. -/
  cap : Nat := 0
  /-- The task grid it is bound to (R366). -/
  bound : Option Nat := none
deriving DecidableEq, Repr

/-! ### Lauter engines (R263 to R292) -/

/-- A faulted program's record (R290). -/
structure LauterFault where
  code : BitVec 8
  sub : BitVec 8
  addr : DWord
  record : DWord
  /-- A second-stage fault, or one stopped for the hypervisor: no record written (R379, R391). -/
  hyp : Bool
deriving DecidableEq, Repr

/-- The state of a program that has not finished. -/
inductive ProgState where
  | queued
  | running
  /-- Parked in this WAITB. -/
  | waiting (f : LauterF)
  | faulted (f : LauterFault)
  /-- Waiting for the answers to its remote accesses. -/
  | remote (req : Nat)
  /-- Ending with this STATE and CODE, once its writes are performed at their homes (R265, R289). -/
  | ending (st : BitVec 3) (code : BitVec 8)
deriving DecidableEq, Repr

/-- One entry of the loop stack (R274). -/
structure LoopEntry where
  start : CodeAddr
  stop : CodeAddr
  remaining : DWord
deriving DecidableEq, Repr

/-- A lauter program (R263, R266). -/
structure Program where
  serial : Word
  ctx : Ctx
  group : Nat
  flight : Nat
  notify : Bool
  lxrbase : DWord
  packet : Option PacketRef
  x : List DWord
  pc : CodeAddr
  /-- Innermost first. -/
  loops : List LoopEntry
  /-- Four descriptors of eight quadwords. -/
  d : List (List DWord)
  /-- Bound words, newest first: (is a ring header, space, address); and whether older ones were dropped (R289). -/
  bound : List (Bool × BitVec 2 × DWord) := []
  boundMore : Bool := false
  state : ProgState := .queued
  /-- Units the move at the PC has accepted so far (R279, R290). -/
  deliv : Nat := 0
  /-- What remote accesses of the instruction at the PC have brought: (was a write, device, offset, data). -/
  got : List (Bool × Word × Nat × List Byte) := []
  /-- Release FENCE and the signatures of strong reads, as for a split (R73, R288). -/
  relFence : Option (BitVec 4) := none
  acqSig : List (Nat × Nat) := []
  /-- The source of its tags: device, partition, GRIDID, TEAMID of the starter (R228, R283). -/
  src : List Nat := []
  /-- Moves and STX it has begun, and whether the instruction at the PC is a move under way (R74). -/
  begun : Nat := 0
  inMove : Bool := false
deriving DecidableEq, Repr

/-- A finished program (R264): serial, partition, STATE and CODE. -/
structure Finished where
  serial : Word
  part : Nat
  state : BitVec 3
  code : BitVec 8
deriving DecidableEq, Repr

/-- An engine (R263): the programs it has accepted and not finished, the running one first. -/
structure Engine where
  core : Nat
  eng : Nat
  accepted : Word
  progs : List Program
  finished : List Finished
deriving DecidableEq, Repr

/-! ### Partitions, queues, packets, steeps (R328 to R358, R385 to R405) -/

/-- One fabric port's mailbox window (R328). -/
structure Mailbox where
  en : Bool := false
  asid : BitVec 16 := 0
  wkey : DWord := 0
  door : DWord := 0
  err : BitVec 3 := 0
deriving DecidableEq, Repr

/-- A packet with what it emitted and the launch context it was read in (R331, R357). -/
structure ReadPacket where
  words : List DWord
  ctx : List DWord
deriving DecidableEq, Repr

/-- A BUNDLE whose steeps have ended and whose members are not all there yet (R335, R342). -/
structure HeldBundle where
  pkt : ReadPacket
  emits : List ReadPacket
  dropped : Bool
deriving DecidableEq, Repr

/-- What a VCP knows of a queue beside its block (R333, R335). -/
structure VcpQueue where
  queue : Nat
  /-- WPTR as last read for a kick; nothing is read without one. -/
  limit : Word := 0
  /-- CLOCK of the first header read that found the wrong PHASE, for the packet at RPTR. -/
  firstRead : Option DWord := none
  /-- The bundle member that was found early first, and when. -/
  firstMember : Option (Nat × DWord) := none
  held : Option HeldBundle := none
  /-- A steep run holds the packet at RPTR. -/
  running : Bool := false
  /-- A kick, and restarts (1) and skips (2) in order, recorded while the partition is stopped (R346). -/
  kicked : Bool := false
  ops : List Nat := []
  /-- How often RPTR has wrapped: the high part of the packet index over the queue's life (R332, R352). -/
  laps : Nat := 0
  /-- BASE and the control quadword of the queue's block as they were when a NOTIFY last named the queue (R330). -/
  base : DWord := 0
  ctl : DWord := 0
deriving DecidableEq, Repr

/-- Progress of a packet (R341). -/
inductive PktState where
  /-- Accepted, not started. -/
  | waiting
  /-- Its row has been performed or its work runs. -/
  | started
  /-- Complete, CPTR not past it yet. -/
  | complete
deriving DecidableEq, Repr

/-- A packet accepted and not retired: of a queue (sub 0), or belonging to one (bundle members, graph nodes, emitted packets). -/
structure Packet where
  ref : PacketRef
  /-- Header and body, eight quadwords. -/
  words : List DWord
  state : PktState
  /-- Completion status (R340). -/
  code : BitVec 8
  /-- CLOCK at acceptance or start. -/
  since : DWord
  /-- A graph replay's nodes, with parameters bound, not yet accepted as packets (R345). -/
  nodes : List (List DWord)
  /-- DROP: the packet has no effect of its own (R357). -/
  dropped : Bool
  /-- The launch context as it was when the VCP read the packet: STVEC, PTROOT, ASID, LXRBASE, WKEY (R331). -/
  ctx : List DWord := []
  /-- The graph object of a submitted replay is REENTRANT (R344). -/
  reent : Bool := false
  /-- A graph replay that has been submitted (R345). -/
  submitted : Bool := false
  /-- Its completion with an error has been noted in LASTERR (R332, R340). -/
  noted : Bool := false
deriving DecidableEq, Repr

/-- A window of a steep (R350): base, writable, scope, size. -/
structure SteepWindow where
  base : DWord
  wr : Bool
  scope : BitVec 4
  size : Nat
deriving DecidableEq, Repr

/-- An installed steep (R349). -/
structure Steep where
  part : Nat
  slot : Nat
  code : List Word
  budget : Nat
  windows : List (Option SteepWindow)
deriving DecidableEq, Repr

/-- A steep's loop: first word, word after the body, rounds left. -/
structure SteepLoopEntry where
  start : Nat
  stop : Nat
  left : Nat
deriving DecidableEq, Repr

/-- A run of a steep over a packet (R351, R352). -/
structure SteepRun where
  id : Nat
  ref : PacketRef
  steep : Steep
  /-- The run of the type's bound program, after HOOK's. -/
  second : Bool
  q : List DWord
  pc : Nat
  /-- Instructions executed for the packet, by both its programs (R351). -/
  count : Nat
  /-- The launch context as it was when the VCP read the packet (R331). -/
  ctx : List DWord := []
  loops : List SteepLoopEntry
  /-- The private packet copy. -/
  pkt : List DWord
  emits : List ReadPacket
  /-- Parked in WAITV since this CLOCK. -/
  waitv : Option DWord
  /-- A remote access of the word at the PC is out, or what it has brought. -/
  away : Bool := false
  got : Option (List Byte) := none
deriving DecidableEq, Repr

/-- A patch of a graph object (R345): object address, node, quadword, value, byte mask. -/
structure GraphPatch where
  obj : DWord
  node : Nat
  quad : Nat
  value : DWord
  bytes : BitVec 8
deriving DecidableEq, Repr

/-- Which memory beside HBM. -/
inductive SideMem where
  | scratch | acc | die
deriving DecidableEq, Repr

/-- A piece of a swap area: where it comes from, where it lies in HBM, and its size (R398). -/
structure SwapPiece where
  mem : SideMem
  base : Nat
  pa : Nat
  size : Nat
deriving DecidableEq, Repr

/-- One partition (R328, R331, R385). -/
structure Partition where
  /-- The 256-byte block, quadword by quadword: offsets 0x00 to 0x90 (R385, R392, R398, R405). -/
  block : List DWord := List.replicate 19 0
  /-- The device-register page, byte by byte (R330, R331). -/
  dev : Memory := []
  mailboxes : List Mailbox := List.replicate 8 {}
  vcp : List VcpQueue := []
  /-- Cores reserved for RSV launches (R369). -/
  reserved : BitVec 192 := 0
  /-- Cores that were returned while an RSV grid still ran there (R369). -/
  releasing : BitVec 192 := 0
  patches : List GraphPatch := []
  /-- WAITMEMs of other devices that are registered with its VCP (R341). -/
  waiters : Nat := 0
  /-- Swapped out: CLOCK when it stopped, its programs with the engines they stood on, and what its swap area holds (R398, R399). -/
  stoppedAt : DWord := 0
  progs : List (EngRef × Program) := []
  swap : List SwapPiece := []
  /-- Gang entries that failed by a notice, not by an error here (R416). -/
  gangBy : List Nat := []
  /-- Image slots and units in use (R392). -/
  slotsUsed : List Nat := []
deriving DecidableEq, Repr

/-! ### Fabric (R403 to R416) -/

/-- How a lane's remote request stands (R408). -/
inductive RemoteState where
  /-- A word or slot that was not ready is to be asked for again (R233, R259). -/
  | idle
  | waiting | accepted | nak (sub : BitVec 8) | timeout | complete
  /-- An ARRIVE or ARRV that met or made a poisoned word. -/
  | poisoned
deriving DecidableEq, Repr

/-- One lane's request (R408): lane, its own address, destination device, offset there, what is asked. -/
structure RemoteLane where
  lane : Nat
  addr : DWord
  dest : Word
  off : Nat
  op : RemoteOp
  state : RemoteState
  /-- On a decoded page: the bit of its first byte where the first element begins, and how many elements (R60). -/
  unpack : Option (Nat × Nat) := none
  /-- Further lanes that the request is made for, each with its address and offset (TDRAW). -/
  also : List (Nat × DWord × Nat) := []
  /-- CLOCK when the request was last sent, for REMTMO. -/
  since : DWord := 0
  /-- Addresses of the page-table entries its translation was read from (R383). -/
  src : List Nat := []
deriving DecidableEq, Repr

/-- A remote access of a split, or of an engine's program when `engine` is set (R408, R279). -/
structure RemoteOut where
  id : Nat
  group : Nat
  split : Nat
  engine : Option EngRef
  /-- Register of the result, type of the data, and the operation's register write. -/
  dst : Nat
  ty : BitVec 5
  reg : Bool
  op : Nat
  pc : CodeAddr
  insn : List Word
  lanes : List RemoteLane
  /-- Lanes of the same instruction that faulted at issue (R37). -/
  faults : List (Nat × Cause) := []
  /-- The split waits for the COMPLETE of every lane, not for its ACCEPT: WAITPH (with the phase awaited) and TDRAW. -/
  atComplete : Bool := false
  phase : Option Bool := none
  /-- SLD and SST: one request for the split, whose result goes to an S register. -/
  uniform : Bool := false
  /-- TDRAW: its timeout in µs, and CLOCK at issue. -/
  drawTmo : Option (Word × DWord) := none
  /-- The split no longer waits. -/
  released : Bool := false
  /-- Order and scope the requests carry, and the lanes of the split that made them (R73, R233). -/
  order : BitVec 3 := 0
  scope : BitVec 4 := 0
  mask : Mask := 0
  /-- A program's count of moves and STX when it sent the requests (R74). -/
  begun : Nat := 0
  /-- A request of a VCP for this packet, or of this steep run. -/
  packet : Option PacketRef := none
  run : Option Nat := none
deriving DecidableEq, Repr

/-- What leaves the device over the fabric: a request, an answer, data read by a host, a gang notice. -/
inductive FabricMsg where
  | request (dest src : Word) (key : BitVec 32) (off : Nat) (op : RemoteOp) (order : BitVec 3) (scope : BitVec 4)
  | accept (dest : Word)
  | nak (dest : Word) (sub : BitVec 8)
  | complete (dest : Word) (data : List Byte)
  | hostData (port : Nat) (data : List Byte)
  | hostNak (port : Nat) (sub : BitVec 8)
  | hostAck (port : Nat)
  | gangNotice (dest : Word) (name : GangName)
deriving DecidableEq, Repr

/-- A flush of a deadline entry whose copies, or whose header, are on their way to another device (R414): partition, entry, header, the
requests that are awaited, and whether the header has been sent. -/
structure Flush where
  part : Nat
  entry : Nat
  header : Nat
  reqs : List Nat
  sent : Bool
deriving DecidableEq, Repr

/-- A REDT window at a home slice (R228): slice, source, highest tag, bitmap (bit k for tag H - k). -/
structure RedtWindow where
  slice : Nat
  src : List Nat
  high : Word
  bits : BitVec 4096
deriving DecidableEq, Repr

/-! ### The Kiln, errors, power (R348, R391, R417 to R425) -/

/-- The Kiln window's registers (R348, R391, R420, R424). -/
structure Kiln where
  pfbase : DWord := 0
  pfcount : DWord := 0
  rasbase : DWord := 0
  rascount : DWord := 0
  nodedup : DWord := 0
  porterr : DWord := 0
  /-- Load requests written to STEEPREQ and not handled yet, oldest first. -/
  steepreq : List DWord := []
  /-- Writes of second-stage entries that are not performed yet, oldest first: address and value (R383). -/
  s2writes : List (Nat × DWord) := []
deriving DecidableEq, Repr

/-- A log record's unit, number and CLOCK, where it was written and whether it is of lasting errors, for merging within 1 ms (R420). -/
structure RasRecent where
  unit : List Nat
  lasting : Bool
  base : Nat
  source : Nat
  number : Nat
  clock : DWord
  merged : Nat
deriving DecidableEq, Repr

/-- How far bring-up has come (R423, R421). -/
inductive Boot where
  | held | recovery | running | shutdown
deriving DecidableEq, Repr

/-- A cluster's matrix power budget (R371): the limit firmware set, if any, what is left of this microsecond, and for how many
microseconds in a row it has been spent (R372). -/
structure Budget where
  limit : Option Nat := none
  left : Nat := 0
  spent : Nat := 0
deriving DecidableEq, Repr

/-- A save area written by SAVEQ and not restored (R347): partition, area, queues with their blocks, and the LXRUN programs they
started with the engines they stood on. -/
structure SaveArea where
  part : Nat
  area : DWord
  queues : List (Nat × List DWord)
  progs : List (EngRef × Program) := []
deriving DecidableEq, Repr

/-! ### The schedule: what steps next -/

/-- Bytes on the chip as a lane still sees them in a weak load that no order yet binds to the writes since (R72, R82): the lane of a group, the
first byte, and the bytes. -/
structure Veil where
  group : Nat
  lane : Nat
  loc : Loc
  bytes : List Byte
deriving DecidableEq, Repr

/-- What one step does. -/
inductive Action where
  /-- A split issues (R363; the arbiter of R364 is not asked: log entry 111). -/
  | issue (sp : SplitRef)
  /-- An engine executes its program's next instruction. -/
  | engine (e : EngRef)
  /-- A steep run executes its next word. -/
  | steep (run : Nat)
  /-- A row of the table with no encoding happens. -/
  | event (i : Instr)
  /-- The VCP performs a packet: the row of its type. -/
  | packet (p : PacketRef)
  /-- A cache drops a line, writing back its dirty bytes first (R55). -/
  | evict (kind : CacheKind) (core line : Nat)
  /-- A TLB drops its translations of a page (R382). -/
  | dropTlb (owner vbase : Nat)
  /-- A split fetches a word ahead (R241). -/
  | prefetch (sp : SplitRef) (addr : Nat)
  /-- The element or status word at this offset of a tun's draw window holds its proper value again, after a write through another mapping
  (R124). -/
  | drawProper (tun off : Nat)
  /-- An element of a fill holds the value written through another mapping at this offset of the feed frames (R124). -/
  | fillWritten (tun slot elem off : Nat)
  /-- The grid of a source whose contributions come over the fabric has retired: its windows here are dropped (R228). -/
  | sourceOver (dev : Word) (srcId : Nat)
  /-- A WAITMEM of another device registers itself with a VCP, or has completed (R341). -/
  | remoteWaiter (part : Nat) (registers : Bool)
  /-- A lane goes on seeing bytes of a scratchpad or die allocation as they stand now in its weak loads, until an instruction that may order them
  is next (R72, R82). -/
  | veil (sp : SplitRef) (lane : Nat) (loc : Loc) (n : Nat)
deriving DecidableEq, Repr

/-- One item of the schedule: CLOCK advances by `dt`, then `act` happens. -/
structure AgendaItem where
  dt : Nat
  act : Action
deriving DecidableEq, Repr

/-- Who executes the current instruction. -/
inductive Actor where
  | nobody
  | split (sp : SplitRef)
  | engine (e : EngRef)
  | steep (run : Nat)
deriving DecidableEq, Repr

/-- The Akzan. -/
structure State where
  /-- CLOCK, R156. -/
  clock : DWord := 0
  /-- The model's schedule: what happens next, in order. -/
  agenda : List AgendaItem := []
  /-- The model's: what may still execute an instruction in this cycle, and the quadrants (4·core + entry mod 4) that are taken in the next one
  by a 64-lane group (R364). -/
  turns : List Action := []
  slow : List Nat := []
  /-- The model's: who executes the current instruction. -/
  actor : Actor := .nobody
  /-- The model's: bytes that a lane's weak loads see as they were (R82). -/
  veils : List Veil := []
  /-- The model's: index of the next free value. -/
  free : Nat := 0
  /-- The model's: the next unique number (groups, teams, grids, operations, runs). -/
  uid : Nat := 1
  boot : Boot := .held
  /-- Rails that are up, with CLOCK when each came up (R422). -/
  rails : List (Rail × DWord) := []
  /-- The stored firmware image, the one that runs, and the fused minimum of its security version (R423, R425). -/
  firmware : FirmwareImage := ⟨[], 0, true, true⟩
  booted : FirmwareImage := ⟨[], 0, true, true⟩
  fusedMin : Nat := 0
  /-- DEVID (R404). -/
  devid : Word := 0
  /-- REMTMO in CLOCK cycles; default 20 ms (R408). -/
  remtmo : Nat := 35000000
  /-- HBM by physical address; scratchpads by team·2^19 + offset; die allocations by (grid·4 + die)·2^25 + offset; accumulator
  memories by (team·2 + half)·2^19 + offset, the half of a paired team being its core mod 2. -/
  hbm : Memory := []
  scratch : Memory := []
  dieScratch : Memory := []
  acc : Memory := []
  /-- Poisoned 64-byte units, by their first byte (R418). -/
  poison : List Loc := []
  /-- 32-byte halves of poisoned units that an ST has covered since (R419). -/
  halves : List Loc := []
  caches : List CacheLine := []
  tlb : List TlbEntry := []
  sigs : List Signature := []
  /-- Lines each core has written or learned of by an acquire: (core, line) (R84). -/
  touched : List (Nat × Nat) := []
  groups : List Group := []
  teams : List Team := []
  grids : List Grid := []
  /-- The next GRIDID. -/
  nextGrid : Word := 0
  draws : List Draw := []
  tuns : List Tun := []
  casks : List Cask := []
  engines : List Engine := []
  parts : List Partition := List.replicate 16 {}
  packets : List Packet := []
  steeps : List Steep := []
  /-- Type bindings: (partition, type, slot) (R349). -/
  bindings : List (Nat × Nat × Nat) := []
  runs : List SteepRun := []
  saves : List SaveArea := []
  remotes : List RemoteOut := []
  egress : List FabricMsg := []
  redt : List RedtWindow := []
  flushes : List Flush := []
  /-- Groups whose image slots have been written otherwise than by the device's writing of images (R393). -/
  slotHits : List Nat := []
  kiln : Kiln := {}
  ras : List RasRecent := []
  budgets : List Budget := List.replicate 24 {}
  /-- The cluster budget that firmware has set, and whether it is halved because of the core-rail current (R371, R421). -/
  budgetBase : Option Nat := none
  /-- How many microseconds in a row a cluster may spend its budget before the clock of its die is lowered (R372). -/
  overAllowed : Option Nat := none
  halved : Bool := false
  /-- Core clock of each die in MHz (R12, R421). -/
  dieClock : List Nat := [1750, 1750, 1750, 1750]
  /-- The answer to the last I3C read (R422). -/
  i3c : Nat := 0
  /-- Firmware requests over I3C that power be removed (R421). -/
  powerOff : Bool := false
  /-- What firmware last read of each die's monitors (R421). -/
  monitors : List MonitorReading := List.replicate 4 {}
  /-- The thresholds that firmware has set (R421). -/
  limits : Thresholds := {}
  /-- Rails that read outside their limits, with CLOCK of the first such reading: 8·die + domain, the core rail's six, memory, I/O (R421). -/
  railOut : List (Nat × DWord) := []
deriving DecidableEq, Repr

/-- The machine right after power-on reset: reset still held, nothing launched, every register at its reset value (R6, R33,
R62, R155, R322, R328, R331, R385, R391, R420, R423). -/
def State.reset : State := {}

end Sys2Proof.Machine
end

