-- ==== Sys2Proof/Machine/Mem.lean ====
section
/-! DEFINITION. Plain memory: one byte, byte ranges as little-endian numbers (R5), its canonical form; bit-field helpers and lane
masks. -/

namespace Sys2Proof.Machine

/-! ### Memory -/

/-- What an unlisted address reads as: 0 (SRAM by R423 step 4; HBM by log entry 2). -/
def blankByte : Byte := 0

/-- One byte. -/
def memRead : Memory → Nat → Byte
  | [], _ => blankByte
  | (x, b) :: t, a => if x = a then b else memRead t a

/-- Writes one byte, keeping the canonical form. -/
def memWrite : Memory → Nat → Byte → Memory
  | [], a, b => if b = blankByte then [] else [(a, b)]
  | (x, c) :: t, a, b =>
    if a < x then (if b = blankByte then (x, c) :: t else (a, b) :: (x, c) :: t)
    else if a = x then (if b = blankByte then t else (a, b) :: t)
    else (x, c) :: memWrite t a b

/-- Addresses above `lo` strictly rising, and no entry equal to what an unlisted address reads as. -/
def memWfFrom : Nat → Memory → Bool
  | _, [] => true
  | lo, (x, b) :: t => lo ≤ x && b != blankByte && memWfFrom (x + 1) t

/-- The canonical form. -/
def Memory.wf (m : Memory) : Bool := memWfFrom 0 m

/-- `n` bytes as a number, least significant first (R5). -/
def memReadNat (m : Memory) (a : Nat) : Nat → Nat
  | 0 => 0
  | n + 1 => (memRead m a).toNat + 256 * memReadNat m (a + 1) n

/-- Writes the low `n` bytes of a number. -/
def memWriteNat (m : Memory) (a : Nat) : Nat → Nat → Memory
  | 0, _ => m
  | n + 1, v => memWriteNat (memWrite m a (BitVec.ofNat 8 v)) (a + 1) n (v / 256)

/-- Removes every entry of a range, so that it reads blank. -/
def memClear (m : Memory) (a n : Nat) : Memory := m.filter (fun c => c.1 < a || a + n ≤ c.1)

/-- Writes bytes. -/
def memWriteBytes (m : Memory) (a : Nat) : List Byte → Memory
  | [] => m
  | b :: bs => memWriteBytes (memWrite m a b) (a + 1) bs

/-- Writes `n` bytes given by their place. -/
def memFill (m : Memory) (a n : Nat) (f : Nat → Byte) : Memory :=
  (List.range n).foldl (fun m i => if f i = blankByte then m else memWrite m (a + i) (f i)) (memClear m a n)

/-- Copies `n` bytes from `b` of one memory to `a` of another. -/
def memMove (dst : Memory) (a : Nat) (src : Memory) (b n : Nat) : Memory :=
  (src.filter (fun c => b ≤ c.1 && c.1 < b + n)).foldl (fun m c => memWrite m (a + (c.1 - b)) c.2) (memClear dst a n)

/-! ### Bit fields -/

/-- Bits `lo + n - 1 : lo` of a number. -/
def bits (v lo n : Nat) : Nat := v / 2 ^ lo % 2 ^ n
/-- Bit `i` of a number. -/
def bit (v i : Nat) : Bool := v / 2 ^ i % 2 == 1
/-- Replaces bits `lo + n - 1 : lo` of `v` by those of `x`. -/
def setBits (v lo n x : Nat) : Nat := v % 2 ^ lo + 2 ^ lo * (x % 2 ^ n + 2 ^ n * (v / 2 ^ (lo + n)))
/-- A field of a quadword. -/
def fld (q : DWord) (lo n : Nat) : Nat := bits q.toNat lo n
/-- A field as an integer, two's complement. -/
def signedOf (w v : Nat) : Int := if v % 2 ^ w < 2 ^ (w - 1) then (v % 2 ^ w : Nat) else (v % 2 ^ w : Nat) - (2 ^ w : Nat)
/-- An integer modulo 2^w. -/
def wrapInt (w : Nat) (x : Int) : Nat := (x % (2 ^ w : Nat)).toNat
/-- The quadword of a number. -/
def dw (n : Nat) : DWord := BitVec.ofNat 64 n
/-- The word of a number. -/
def wd (n : Nat) : Word := BitVec.ofNat 32 n
/-- Sign extension of a 32-bit word. -/
def sx32 (w : Word) : DWord := w.signExtend 64
/-- Zero extension. -/
def zx (w : Word) : DWord := w.zeroExtend 64
/-- A flag as a number. -/
def b2n (b : Bool) : Nat := if b then 1 else 0
/-- The number of one bits among the low `n`. -/
def popcount : Nat → Nat → Nat
  | 0, _ => 0
  | n + 1, v => v % 2 + popcount n (v / 2)
/-- The number of bits up to the highest one bit: 0 for 0. -/
def bitLen (v : Nat) : Nat := if v = 0 then 0 else v.log2 + 1
/-- `a / b` rounded up. -/
def ceilDiv (a b : Nat) : Nat := (a + b - 1) / b
/-- `a` rounded up to a multiple of `b`. -/
def roundUp (a b : Nat) : Nat := ceilDiv a b * b

/-! ### Lists -/

/-- `0, 1, …, n - 1`. -/
def upTo (n : Nat) : List Nat := List.range n
/-- Replaces entry `n`; entries a list lacks below `n` are `d`. -/
def setAt {α : Type} (d : α) : List α → Nat → α → List α
  | [], 0, v => [v]
  | [], n + 1, v => d :: setAt d [] n v
  | _ :: t, 0, v => v :: t
  | x :: t, n + 1, v => x :: setAt d t n v
/-- The first entry of a table with this key. -/
def lookupNat {α : Type} (k : Nat) (l : List (Nat × α)) : Option α := (l.find? (fun p => p.1 == k)).map Prod.snd
/-- Adds pairs that are not there yet. -/
def unionPairs (a b : List (Nat × Nat)) : List (Nat × Nat) := b.foldl (fun acc p => if acc.contains p then acc else p :: acc) a

/-! ### Lane masks (R21) -/

/-- The lanes of a mask, lowest first. -/
def lanesOf (m : Mask) : List Nat := (upTo 64).filter (fun l => m.getLsbD l)
/-- The mask of one lane. -/
def laneBit (l : Nat) : Mask := BitVec.ofNat 64 (2 ^ l)
/-- The mask of the lanes listed. -/
def maskOf (ls : List Nat) : Mask := ls.foldl (fun m l => m ||| laneBit l) 0
/-- All lanes of a group of this width. -/
def fullMask (w : Nat) : Mask := BitVec.ofNat 64 (2 ^ w - 1)
/-- Lanes of `a` not in `b`. -/
def maskDiff (a b : Mask) : Mask := a &&& ~~~b
/-- The lowest lane of a mask; 64 when it is empty. -/
def lowestLane (m : Mask) : Nat := ((lanesOf m).head?).getD 64

end Sys2Proof.Machine
end

