-- ==== Sys2Proof/Machine/Float.lean ====
section
/-! DEFINITION. Number formats and arithmetic (R101 to R119): values of the floating-point types, exact sums and products, one
rounding by every mode, saturation, and the integer types. -/

namespace Sys2Proof.Machine

/-! ### Values -/

/-- A floating-point value: NaN, an infinity, or (−1)^neg · m · 2^e, zeros signed. -/
inductive FVal where
  | nan
  | inf (neg : Bool)
  | fin (neg : Bool) (m : Nat) (e : Int)
deriving DecidableEq, Repr

/-- Mantissa bits of a format (R103). -/
def mantBits (ty : BitVec 5) : Nat :=
  match ty.toNat with
  | 9 => 10 | 10 => 7 | 11 => 23 | 12 => 52 | 13 => 3 | 14 => 2 | 15 => 3 | 16 => 2 | 17 => 1 | _ => 0
/-- Exponent bias of a format (R103). -/
def expBias (ty : BitVec 5) : Nat :=
  match ty.toNat with
  | 9 => 15 | 10 => 127 | 11 => 127 | 12 => 1023 | 13 => 7 | 14 => 15 | 15 => 1 | 16 => 3 | 17 => 1 | _ => 127
/-- Whether a format has infinities (R103). -/
def hasInf (ty : BitVec 5) : Bool := match ty.toNat with | 9 | 10 | 11 | 12 | 14 => true | _ => false
/-- The code of the largest finite magnitude (R103). -/
def maxCode (ty : BitVec 5) : Nat :=
  match ty.toNat with
  | 9 => 0x7BFF | 10 => 0x7F7F | 11 => 0x7F7FFFFF | 12 => 0x7FEFFFFFFFFFFFFF | 13 => 0x7E | 14 => 0x7B | 15 => 0x1F | 16 => 0x1F
  | 17 => 7 | _ => 0xFE
/-- The canonical NaN of a format; +0 for the formats without NaN (R111). -/
def canonNan (ty : BitVec 5) : Nat :=
  match ty.toNat with
  | 9 => 0x7E00 | 10 => 0x7FC0 | 11 => 0x7FC00000 | 12 => 0x7FF8000000000000 | 13 => 0x7F | 14 => 0x7E | 18 => 0xFF | _ => 0
/-- The exponent of the last place of a subnormal. -/
def minQuantum (ty : BitVec 5) : Int := 1 - (expBias ty : Int) - (mantBits ty : Int)

/-- The value of an encoding (R103 to R105). -/
def fdec (ty : BitVec 5) (x : Nat) : FVal :=
  if ty.toNat = 18 then (if x % 256 = 255 then .nan else .fin false 1 (((x % 256 : Nat) : Int) - 127))
  else
    let w := tyBits ty
    let neg := bit x (w - 1)
    let mag := x % 2 ^ (w - 1)
    if mag > maxCode ty then (if hasInf ty && mag == maxCode ty + 1 then .inf neg else .nan)
    else
      let e := mag / 2 ^ mantBits ty
      let m := mag % 2 ^ mantBits ty
      if e = 0 then .fin neg m (minQuantum ty)
      else .fin neg (m + 2 ^ mantBits ty) (minQuantum ty + ((e - 1 : Nat) : Int))

def FVal.isNan : FVal → Bool | .nan => true | _ => false
def FVal.isInf : FVal → Bool | .inf _ => true | _ => false
def FVal.isZero : FVal → Bool | .fin _ 0 _ => true | _ => false
def FVal.neg : FVal → Bool | .nan => false | .inf n => n | .fin n _ _ => n
def FVal.abs : FVal → FVal | .nan => .nan | .inf _ => .inf false | .fin _ m e => .fin false m e
/-- The signed mantissa. -/
def FVal.signed : FVal → Int | .fin true m _ => -(m : Int) | .fin false m _ => m | _ => 0
def FVal.exp : FVal → Int | .fin _ _ e => e | _ => 0
/-- A finite value of an integer. -/
def FVal.ofInt (x : Int) : FVal := .fin (x < 0) x.natAbs 0
/-- Multiplies by 2^k exactly. -/
def FVal.scale (v : FVal) (k : Int) : FVal := match v with | .fin n m e => .fin n m (e + k) | v => v

/-! ### Exact operations -/

/-- a · b: NaN for a NaN operand and for 0 · ∞. -/
def fmulV (a b : FVal) : FVal :=
  match a, b with
  | .nan, _ | _, .nan => .nan
  | .inf s, .inf t => .inf (xor s t)
  | .inf s, .fin t m _ => if m = 0 then .nan else .inf (xor s t)
  | .fin s m _, .inf t => if m = 0 then .nan else .inf (xor s t)
  | .fin s m e, .fin t k f => .fin (xor s t) (m * k) (e + f)

/-- x · 2^(e − lo) as an integer, for e at or above lo. -/
def alignTo (lo : Int) (v : FVal) : Int := v.signed * ((2 ^ (v.exp - lo).toNat : Nat) : Int)

/-- The exact sum of several terms: NaN for a NaN term or opposite infinities; a zero sum is +0, −0 under RM 3 or when every term
is −0 (R112, R118). -/
def fsumV (rm : Nat) (l : List FVal) : FVal :=
  if l.any (·.isNan) then .nan
  else if l.any (·.isInf) then
    let i := l.filter (·.isInf)
    if i.all (·.neg) then .inf true else if i.all (fun x => !x.neg) then .inf false else .nan
  else
    let nz := l.filter (fun x => !x.isZero)
    let lo := nz.foldl (fun (m : Int) x => min m x.exp) ((nz.head?.map (·.exp)).getD 0)
    let t := nz.foldl (fun (a : Int) x => a + alignTo lo x) 0
    if t = 0 then .fin (l.all (fun x => x.isZero && x.neg) || rm == 3) 0 0 else .fin (t < 0) t.natAbs lo

/-- The negated value. -/
def FVal.negate : FVal → FVal | .nan => .nan | .inf n => .inf (!n) | .fin n m e => .fin (!n) m e

/-- a / b with enough bits for one rounding in every mode, the last bit standing for what is left (R201). -/
def fdivV (a b : FVal) : FVal :=
  match a, b with
  | .nan, _ | _, .nan => .nan
  | .inf _, .inf _ => .nan
  | .inf s, .fin t _ _ => .inf (xor s t)
  | .fin s _ _, .inf t => .fin (xor s t) 0 0
  | .fin s m e, .fin t k f =>
    if k = 0 then (if m = 0 then .nan else .inf (xor s t))
    else if m = 0 then .fin (xor s t) 0 0
    else
      let sh := 110 + bitLen k
      let q := m * 2 ^ sh / k
      let r := m * 2 ^ sh % k
      .fin (xor s t) (2 * q + b2n (r != 0)) (e - f - (sh : Int) - 1)

/-- The integer square root, bit by bit from bit `i - 1` down. -/
def isqrtFrom (n : Nat) : Nat → Nat → Nat
  | 0, r => r
  | i + 1, r => isqrtFrom n i (if (r + 2 ^ i) * (r + 2 ^ i) ≤ n then r + 2 ^ i else r)
def isqrt (n : Nat) : Nat := isqrtFrom n (bitLen n / 2 + 1) 0
/-- √a (R201). -/
def fsqrtV (a : FVal) : FVal :=
  match a with
  | .nan => .nan
  | .inf s => if s then .nan else .inf false
  | .fin s m e =>
    if m = 0 then .fin s 0 0
    else if s then .nan
    else
      let sh : Nat := 240 + (if e % 2 = 0 then 0 else 1)
      let n := m * 2 ^ sh
      let q := isqrt n
      .fin false (2 * q + b2n (q * q != n)) ((e - (sh : Int)) / 2 - 1)

/-! ### Rounding (R107 to R109, R114, R115) -/

/-- Whether the truncated magnitude `t` with a remainder `r / d` of a step moves up one step. -/
def roundsUp (rm draw : Nat) (neg : Bool) (t r d : Nat) : Bool :=
  match rm with
  | 0 => 2 * r > d || (2 * r == d && t % 2 == 1)
  | 2 => r != 0 && !neg
  | 3 => r != 0 && neg
  | 4 => 2 * r ≥ d
  | 5 => 2 ^ 32 * r / d + draw ≥ 2 ^ 32
  | _ => false
/-- m · 2^e as steps of 2^q, rounded. Far below one step, how far makes no difference. -/
def roundSteps (rm draw : Nat) (neg : Bool) (m : Nat) (e q : Int) : Nat :=
  if q ≤ e then m * 2 ^ (e - q).toNat
  else
    let d := 2 ^ min (q - e).toNat (bitLen m + 40)
    m / d + b2n (roundsUp rm draw neg (m / d) (m % d) d)
/-- The magnitude code when the rounded magnitude exceeds the largest finite value (R108). -/
def overflowCode (ty : BitVec 5) (rm : Nat) (neg : Bool) : Nat :=
  if !hasInf ty then maxCode ty
  else
    match rm with
    | 1 => maxCode ty
    | 2 => if neg then maxCode ty else maxCode ty + 1
    | 3 => if neg then maxCode ty + 1 else maxCode ty
    | _ => maxCode ty + 1
/-- The sign bit in place. -/
def signCode (ty : BitVec 5) (neg : Bool) : Nat := if neg then 2 ^ (tyBits ty - 1) else 0
/-- A finite non-zero magnitude fitted to a format: m · 2^e. -/
def roundMag (ty : BitVec 5) (rm draw : Nat) (neg : Bool) (m : Nat) (e : Int) : Nat :=
  let p := mantBits ty
  let q := max ((bitLen m : Int) - 1 + e - (p : Int)) (minQuantum ty)
  let c := (q - minQuantum ty).toNat * 2 ^ p + roundSteps rm draw neg m e q
  if c > maxCode ty then overflowCode ty rm neg else c
/-- Conversion to `.e8m0` (R114). -/
def roundE8 (rm draw : Nat) (v : FVal) : Nat :=
  match v with
  | .nan => 0xFF
  | .inf n => if n then 0xFF else 0xFE
  | .fin n m e =>
    if n || m = 0 then 0xFF
    else
      let k := bitLen m - 1
      let f : Int := (k : Int) + e + 127
      let up := match rm with
        | 0 => 2 * (m - 2 ^ k) > 2 ^ k || (2 * (m - 2 ^ k) == 2 ^ k && f % 2 == 1)
        | _ => roundsUp rm draw false 0 (m - 2 ^ k) (2 ^ k)
      (min (max (if up then f + 1 else f) 0) 0xFE).toNat
/-- A value fitted to a floating-point type: the encoding (R107, R108, R111, R114). -/
def froundV (ty : BitVec 5) (rm draw : Nat) (v : FVal) : Nat :=
  if ty.toNat = 18 then roundE8 rm draw v
  else
    match v with
    | .nan => canonNan ty
    | .inf n => signCode ty n + (if hasInf ty then maxCode ty + 1 else maxCode ty)
    | .fin n m e => signCode ty n + (if m = 0 then 0 else roundMag ty rm draw n m e)
/-- A value rounded to an integer. NaN gives 0; the infinities are handled by the caller (R115). -/
def froundInt (rm draw : Nat) (v : FVal) : Int :=
  match v with
  | .fin n m e => let t : Int := roundSteps rm draw n m e 0; if n then -t else t
  | _ => 0
/-- The value itself, rounded to an integral value with its sign kept (R206). -/
def fintegral (rm draw : Nat) (v : FVal) : FVal :=
  match v with
  | .fin n m e => .fin n (roundSteps rm draw n m e 0) 0
  | v => v

/-! ### Saturation of a floating-point result (R113) -/

/-- The encoding of 1.0. -/
def oneCode (ty : BitVec 5) : Nat := if ty.toNat = 18 then 0x7F else expBias ty * 2 ^ mantBits ty
def satF (ty : BitVec 5) (x : Nat) : Nat :=
  if ty.toNat = 18 then (if x = 0xFF then 0xFF else min x 0x7F)
  else
    match fdec ty x with
    | .nan => 0
    | v => if v.neg then 0 else if x > oneCode ty then oneCode ty else x
/-- A result rounded, then saturated when SAT is set. -/
def fresult (ty : BitVec 5) (rm draw : Nat) (sat : Bool) (v : FVal) : Nat :=
  if sat then satF ty (froundV ty rm draw v) else froundV ty rm draw v

/-! ### Integer types (R106, R115) -/

/-- The value of an integer type's bits. -/
def intVal (ty : BitVec 5) (x : Nat) : Int :=
  if tySignedInt ty then signedOf (tyBits ty) x else (x % 2 ^ tyBits ty : Nat)
def intMin (ty : BitVec 5) : Int := if tySignedInt ty then -(2 ^ (tyBits ty - 1) : Nat) else 0
def intMax (ty : BitVec 5) : Int := if tySignedInt ty then (2 ^ (tyBits ty - 1) : Nat) - 1 else (2 ^ tyBits ty : Nat) - 1
def clampInt (ty : BitVec 5) (x : Int) : Int := min (max x (intMin ty)) (intMax ty)
/-- An exact integer fitted to its type: clamped with SAT, else wrapped (R115). -/
def fitInt (ty : BitVec 5) (sat : Bool) (x : Int) : Nat := wrapInt (tyBits ty) (if sat then clampInt ty x else x)
/-- What a register holds of a value narrower than it: sign-extended for `.i`, zero-extended otherwise (R102). -/
def regImage (ty : BitVec 5) (x : Nat) : Nat :=
  if tySignedInt ty && tyBits ty < 32 then wrapInt 32 (signedOf (tyBits ty) x) else x % 2 ^ tyBits ty

/-! ### Conversion of one value (R207) -/

/-- `convert(x, source, destination, RM, SAT)`. -/
def convert (src dst : BitVec 5) (rm draw : Nat) (sat : Bool) (x : Nat) : Nat :=
  if tyFloat src then
    if tyFloat dst then
      (if src == dst && !(fdec src x).isNan then (if sat then satF dst (x % 2 ^ tyBits dst) else x % 2 ^ tyBits dst)
       else fresult dst rm draw sat (fdec src x))
    else
      match fdec src x with
      | .nan => 0
      | .inf n => fitInt dst true (if n then intMin dst else intMax dst)
      | v => fitInt dst true (froundInt rm draw v)
  else if tyFloat dst then fresult dst rm draw sat (FVal.ofInt (intVal src x))
  else fitInt dst sat (intVal src x)

/-! ### Minimum and maximum (R112) -/

/-- A key that orders the values of a type, −0 below +0; NaNs are out of it. -/
def orderKey (ty : BitVec 5) (x : Nat) : Int :=
  let w := tyBits ty
  if bit x (w - 1) then -((x % 2 ^ (w - 1) : Nat) : Int) - 1 else (x % 2 ^ (w - 1) : Nat)
/-- minimumNumber or maximumNumber of two encodings. -/
def fminmax (ty : BitVec 5) (mx : Bool) (x y : Nat) : Nat :=
  match (fdec ty x).isNan, (fdec ty y).isNan with
  | true, true => canonNan ty
  | true, false => y
  | false, true => x
  | false, false => if mx == (decide (orderKey ty x ≥ orderKey ty y)) then x else y

/-! ### The mixer of stochastic draws (R43, R110) -/

/-- The mixer of R43 on a key and a counter. -/
def mixer (key ctr : DWord) : DWord :=
  let z := key ^^^ (ctr * 0x8C5F27E3B9A14D17#64)
  let z := (z ^^^ (z >>> 31)) * 0xE6A30F59D2C871B5#64
  let z := (z ^^^ (z >>> 29)) * 0x8C5F27E3B9A14D17#64
  z ^^^ (z >>> 32)

end Sys2Proof.Machine
end

