-- ==== Sys2Proof/Machine/Access.lean ====
section
/-! DEFINITION. Reading and writing the parts of the state: groups, splits, lanes, registers of every file (R155 to R157), teams,
grids, partitions; in-flight counters and outstanding results. -/

namespace Sys2Proof.Machine

/-! ### Finding and replacing -/

def State.group? (s : State) (uid : Nat) : Option Group := s.groups.find? (fun g => g.uid == uid)
def State.setGroup (s : State) (g : Group) : State :=
  { s with groups := s.groups.map (fun x => if x.uid == g.uid then g else x) }
def State.modGroup (s : State) (uid : Nat) (f : Group → Group) : State :=
  { s with groups := s.groups.map (fun x => if x.uid == uid then f x else x) }
def Group.split? (g : Group) (slot : Nat) : Option Split := g.splits.find? (fun x => x.slot == slot)
def Group.setSplit (g : Group) (sp : Split) : Group :=
  { g with splits := g.splits.map (fun x => if x.slot == sp.slot then sp else x) }
def State.split? (s : State) (r : SplitRef) : Option (Group × Split) :=
  (s.group? r.group).bind (fun g => (g.split? r.slot).map (fun sp => (g, sp)))
/-- Replaces a split of a group. -/
def State.setSplit (s : State) (uid : Nat) (sp : Split) : State := s.modGroup uid (fun g => g.setSplit sp)
def State.modSplit (s : State) (uid slot : Nat) (f : Split → Split) : State :=
  s.modGroup uid (fun g => { g with splits := g.splits.map (fun x => if x.slot == slot then f x else x) })
def State.team? (s : State) (uid : Nat) : Option Team := s.teams.find? (fun t => t.uid == uid)
def State.modTeam (s : State) (uid : Nat) (f : Team → Team) : State :=
  { s with teams := s.teams.map (fun x => if x.uid == uid then f x else x) }
def State.grid? (s : State) (uid : Nat) : Option Grid := s.grids.find? (fun t => t.uid == uid)
def State.modGrid (s : State) (uid : Nat) (f : Grid → Grid) : State :=
  { s with grids := s.grids.map (fun x => if x.uid == uid then f x else x) }
def State.tun? (s : State) (num : Nat) : Option Tun := s.tuns.find? (fun t => t.num == num)
def State.modTun (s : State) (num : Nat) (f : Tun → Tun) : State :=
  { s with tuns := s.tuns.map (fun x => if x.num == num then f x else x) }
def State.cask? (s : State) (num : Nat) : Option Cask := s.casks.find? (fun t => t.num == num)
def State.modCask (s : State) (num : Nat) (f : Cask → Cask) : State :=
  { s with casks := s.casks.map (fun x => if x.num == num then f x else x) }
def State.packet? (s : State) (r : PacketRef) : Option Packet := s.packets.find? (fun p => p.ref == r)
def State.modPacket (s : State) (r : PacketRef) (f : Packet → Packet) : State :=
  { s with packets := s.packets.map (fun x => if x.ref == r then f x else x) }
def State.run? (s : State) (id : Nat) : Option SteepRun := s.runs.find? (fun r => r.id == id)
def State.modRun (s : State) (id : Nat) (f : SteepRun → SteepRun) : State :=
  { s with runs := s.runs.map (fun x => if x.id == id then f x else x) }
/-- An engine; one that has accepted nothing yet is not listed. -/
def State.engine (s : State) (r : EngRef) : Engine :=
  (s.engines.find? (fun e => e.core == r.core && e.eng == r.eng)).getD
    { core := r.core, eng := r.eng, accepted := 0, progs := [], finished := [] }
def State.setEngine (s : State) (e : Engine) : State :=
  { s with engines := e :: s.engines.filter (fun x => !(x.core == e.core && x.eng == e.eng)) }
/-- Partition `p`; partitions 0 to 15 exist. -/
def State.part (s : State) (p : Nat) : Partition := s.parts.getD p {}
def State.setPart (s : State) (p : Nat) (x : Partition) : State := { s with parts := setAt {} s.parts p x }
def State.modPart (s : State) (p : Nat) (f : Partition → Partition) : State := s.setPart p (f (s.part p))
/-- A new unique number. -/
def State.fresh (s : State) : Nat × State := (s.uid, { s with uid := s.uid + 1 })
/-- A free value (log entry 1). -/
def State.takeFree (s : State) : DWord × State := (Config.freeValue s.free, { s with free := s.free + 1 })

/-- Lets something happen at the next step. -/
def State.post (s : State) (a : Action) : State := { s with agenda := { dt := 0, act := a } :: s.agenda }

/-! ### Partition blocks (R385, R392, R398, R405) -/

def Partition.reg (p : Partition) (off : Nat) : DWord := p.block.getD (off / 8) 0
def Partition.setReg (p : Partition) (off : Nat) (v : DWord) : Partition := { p with block := setAt 0 p.block (off / 8) v }
def Partition.en (p : Partition) : Bool := (p.reg 0x00).getLsbD 0
def Partition.running (p : Partition) : Bool := (p.reg 0x70).toNat == 1
def Partition.pstate (p : Partition) : Nat := fld (p.reg 0x70) 0 3
def Partition.cores (p : Partition) : BitVec 192 := (p.reg 0x20) ++ (p.reg 0x18) ++ (p.reg 0x10)
def Partition.hasCore (p : Partition) (c : Nat) : Bool := p.cores.getLsbD c
def Partition.qcount (p : Partition) : Nat := if (p.reg 0x48).getLsbD 24 then 256 else fld (p.reg 0x40) 16 8
def Partition.hasTun (p : Partition) (n : Nat) : Bool :=
  fld (p.reg 0x48) 0 12 ≤ n && n < fld (p.reg 0x48) 0 12 + fld (p.reg 0x48) 12 12
def Partition.hasCask (p : Partition) (n : Nat) : Bool :=
  fld (p.reg 0x50) 0 16 ≤ n && n < fld (p.reg 0x50) 0 16 + fld (p.reg 0x50) 16 16
/-- A quadword of the device-register page (R331). -/
def Partition.devReg (p : Partition) (off : Nat) : DWord := dw (memReadNat p.dev off 8)
def Partition.setDevReg (p : Partition) (off : Nat) (v : DWord) : Partition := { p with dev := memWriteNat p.dev off 8 v.toNat }

/-! ### Register files (R155) -/

/-- S[n]: S0 reads zero. -/
def Group.sReg (g : Group) (n : Nat) : DWord := if n = 0 then 0 else g.s.getD n 0
/-- Writes S[n]: a write to S0 is discarded. -/
def Group.setS (g : Group) (n : Nat) (v : DWord) : Group := if n = 0 then g else { g with s := setAt 0 g.s n v }
/-- K[n]: K7 reads true. -/
def Group.kReg (g : Group) (n : Nat) : Bool := n == 7 || g.k.getLsbD n
/-- Replaces bit `n` of a byte. -/
def setBit8 (b : BitVec 8) (n : Nat) (v : Bool) : BitVec 8 := if v then b ||| (1#8 <<< n) else b &&& ~~~(1#8 <<< n)
/-- Writes K[n]: a write to K7 is discarded. -/
def Group.setK (g : Group) (n : Nat) (v : Bool) : Group := if n ≥ 7 then g else { g with k := setBit8 g.k n v }
/-- P[n] of a lane: P7 reads true. -/
def Lane.pReg (l : Lane) (n : Nat) : Bool := n == 7 || l.p.getLsbD n
/-- Writes P[n] of a lane: a write to P7 is discarded. -/
def Lane.setP (l : Lane) (n : Nat) (v : Bool) : Lane := if n ≥ 7 then l else { l with p := setBit8 l.p n v }
/-- V[n] of a lane. -/
def Lane.vReg (l : Lane) (n : Nat) : Word := l.v.getD n 0
def Lane.setV (l : Lane) (n : Nat) (v : Word) : Lane := { l with v := setAt 0 l.v n v }
/-- The value of `k` consecutive V registers, the low word first. -/
def Lane.vNat (l : Lane) (n : Nat) : Nat → Nat
  | 0 => 0
  | k + 1 => (l.vReg n).toNat + 2 ^ 32 * l.vNat (n + 1) k
/-- Writes the low `32 k` bits of a number to `k` consecutive V registers. -/
def Lane.setVNat (l : Lane) (n : Nat) : Nat → Nat → Lane
  | 0, _ => l
  | k + 1, x => (l.setV n (wd x)).setVNat (n + 1) k (x / 2 ^ 32)
def Group.lane (g : Group) (l : Nat) : Lane := g.lanes.getD l {}
def Group.setLane (g : Group) (l : Nat) (x : Lane) : Group := { g with lanes := setAt {} g.lanes l x }
def Group.modLane (g : Group) (l : Nat) (f : Lane → Lane) : Group := g.setLane l (f (g.lane l))
/-- Applies a function to each lane of a list, lowest first. -/
def Group.modLanes (g : Group) (ls : List Nat) (f : Nat → Lane → Lane) : Group :=
  ls.foldl (fun g l => g.modLane l (f l)) g
/-- Lanes that hold a thread. -/
def Group.liveMask (g : Group) : Mask := maskOf ((upTo g.width).filter (fun l => (g.lane l).live))
/-- K guard of a short or U-class instruction (R144, R146). -/
def Group.kGuard (g : Group) (h : Hdr) : Bool := xor (g.kReg h.g.toNat) h.gn
/-- The active lanes of a lane-class instruction (R146). -/
def activeLanes (g : Group) (sp : Split) (h : Hdr) : List Nat :=
  (lanesOf sp.mask).filter (fun l => xor ((g.lane l).pReg h.g.toNat) h.gn)

/-! ### Counters and outstanding results (R28 to R31) -/

/-- CNT`path` (R30). -/
def Group.counter (g : Group) (path : Nat) : Nat := (g.flights.filter (fun f => f.path == path)).length
def Group.addFlight (g : Group) (path op : Nat) (done : Bool) : Group :=
  { g with flights := g.flights ++ [{ path := path, op := op, done := done }] }
/-- Marks an operation complete; its counter falls in issue order (R31). -/
def Group.flightDone (g : Group) (op : Nat) : Group :=
  { g with flights := g.flights.map (fun f => if f.op == op then { f with done := true } else f) }
def State.flightDone (s : State) (uid op : Nat) : State := s.modGroup uid (fun g => g.flightDone op)
/-- Performs one landed register write. A retired lane's result is discarded (R18). -/
def Group.land (g : Group) (w : RegWrite) : Group :=
  match w with
  | .v lane reg val => if (g.lane lane).live then g.modLane lane (fun l => l.setV reg val) else g
  | .s reg val => g.setS reg val
/-- Adds an outstanding register-writing operation to a split (R29). -/
def Split.addPend (sp : Split) (op : Nat) (ws : List RegWrite) : Split :=
  { sp with pend := sp.pend ++ [{ op := op, writes := ws }] }
/-- The writes of `k` registers of a lane that a number gives. -/
def vWrites (lane reg : Nat) : Nat → Nat → List RegWrite
  | 0, _ => []
  | k + 1, x => .v lane reg (wd x) :: vWrites lane (reg + 1) k (x / 2 ^ 32)
/-- Whether a write belongs to one of the lanes; S writes go with any. -/
def RegWrite.inLanes (m : Mask) (w : RegWrite) : Bool :=
  match w with
  | .v lane _ _ => m.getLsbD lane
  | .s _ _ => true
/-- An outstanding operation none of whose writes is left: gone, unless it still waits for something. -/
def keepHeld (l : List Pend) : List Pend := l.filter (fun p => p.held || !p.writes.isEmpty)
/-- Lands those writes of operation `op` of a split that belong to the lanes of `m`. -/
def landPend (g : Group) (sp : Split) (op : Nat) (m : Mask) : Group :=
  let now := (sp.pend.filter (fun p => p.op == op)).flatMap (fun p => p.writes.filter (RegWrite.inLanes m))
  let pend := keepHeld (sp.pend.map (fun p => if p.op == op then { p with writes := p.writes.filter (fun w => !w.inLanes m) } else p))
  (now.foldl Group.land g).setSplit { sp with pend := pend }
/-- Lands every write of a split that is there to land. -/
def landAll (g : Group) (sp : Split) : Group :=
  let now := sp.pend.flatMap (fun p => p.writes)
  (now.foldl Group.land g).setSplit { sp with pend := keepHeld (sp.pend.map (fun p => { p with writes := [] })) }

/-! ### Image slots (R392) -/

def imgBase (s : State) (part : Nat) : Nat := ((s.part part).reg 0x58).toNat
/-- Units of 128 KB in the image region. -/
def imgUnits (s : State) (part : Nat) : Nat := (((s.part part).reg 0x60).toNat - imgBase s part) / 131072
def groupPart (g : Group) : Nat := fld g.partid 0 4
def slotAddr (s : State) (g : Group) : Nat := imgBase s (groupPart g) + 131072 * g.slot
/-- The group's slot lies in the region. -/
def hasSlot (s : State) (g : Group) : Bool := g.slot < imgUnits s (groupPart g)

/-! ### Places (R9) -/

def dieOf (core : Nat) : Nat := core / 48
def clusterOf (core : Nat) : Nat := core / 8
def rankOf (core : Nat) : Nat := core % 8
def pairOf (core : Nat) : Nat := core / 2

/-! ### Addresses of the PC (R145) -/

/-- A code address with bits 1:0 zero. -/
def codeAddr (v : DWord) : CodeAddr := (v.extractLsb' 0 54) &&& ~~~3#54
/-- Bits 53:2 of a quadword, as UTVEC, UTEPC, SEPC and STVEC hold them (R33, R322). -/
def pcField (v : DWord) : DWord := v &&& 0x003FFFFFFFFFFFFC#64
/-- A PC as a quadword. -/
def pcWord (p : CodeAddr) : DWord := p.zeroExtend 64

/-! ### Context of accesses (R378, R382) -/

/-- The context a split's accesses are made in. -/
def splitCtx (g : Group) (sp : Split) : Ctx :=
  { core := g.core, part := fld g.partid 0 4, asid := g.asid, ptroot := g.ptroot, sup := sp.sup, wkey := g.wkey,
    grid := some g.grid, team := some g.team }
/-- A partition's launch context (R331), for its VCP, steeps and gang lists. -/
def launchCtx (s : State) (p : Nat) (core : Nat) : Ctx :=
  { core := core, part := p, asid := dw (fld ((s.part p).devReg 0x50) 0 16), ptroot := (s.part p).devReg 0x48, sup := true,
    wkey := (s.part p).devReg 0x60, grid := none, team := none }

end Sys2Proof.Machine
end

