-- ==== Sys2Proof/Machine/Cache.lean ====
section
/-! DEFINITION. The home of global memory, the caches of a core, write-back and dropping of lines, poison, and the release
signatures by which acquires find what to drain (R55 to R58, R63, R79, R84, R241, R418, R419). -/

namespace Sys2Proof.Machine

/-- The end of HBM: 576 GB (R374). -/
def hbmEnd : Nat := 576 * 2 ^ 30
/-- The first aperture address (R374). -/
def apertureBase : Nat := 2 ^ 40

/-! ### Poison (R418, R419) -/

/-- The place of a byte, moved by `k`. -/
def Loc.plus (l : Loc) (k : Nat) : Loc :=
  match l with
  | .hbm a => .hbm (a + k)
  | .scratch t o => .scratch t (o + k)
  | .die d o => .die d (o + k)
  | .page p o => .page p (o + k)
  | .away d o => .away d (o + k)
/-- The 64-byte unit of a byte. -/
def Loc.unit (l : Loc) : Loc :=
  match l with
  | .hbm a => .hbm (a / 64 * 64)
  | .scratch t o => .scratch t (o / 64 * 64)
  | .die d o => .die d (o / 64 * 64)
  | .page p o => .page p (o / 64 * 64)
  | .away d o => .away d (o / 64 * 64)
/-- Whether an aligned access of at most 64 bytes touches a poisoned unit. -/
def poisoned (s : State) (l : Loc) : Bool := s.poison.contains l.unit
/-- Whether any of `n` bytes from a physical address is poisoned. -/
def poisonedRange (s : State) (pa n : Nat) : Bool :=
  s.poison.any (fun u => match u with | .hbm a => a < pa + n && pa < a + 64 | _ => false)
def setPoison (s : State) (l : Loc) : State :=
  { s with poison := if s.poison.contains l.unit then s.poison else l.unit :: s.poison, halves := s.halves.filter (fun u => u.unit != l.unit) }
def clearPoison (s : State) (l : Loc) : State :=
  { s with poison := s.poison.filter (fun u => u != l.unit), halves := s.halves.filter (fun u => u.unit != l.unit) }
/-- A single write of `n` bytes clears the poison of a unit it covers whole (R419). -/
def coverPoison (s : State) (l : Loc) (n : Nat) : State := if n = 64 && l == l.unit then clearPoison s l else s

/-! ### The home (R56) -/

def homeRead (s : State) (pa n : Nat) : Nat := memReadNat s.hbm pa n
def homeWrite (s : State) (pa n v : Nat) : State := { s with hbm := memWriteNat s.hbm pa n v }
/-- Whether a write of `n` bytes meets the slot of a group where software may not write: anywhere, but S and V while it is ESCALATED (R393). -/
def meetsSlot (s : State) (pa n : Nat) (g : Group) : Bool :=
  let a := slotAddr s g
  let meets (lo hi : Nat) : Bool := pa < a + hi && a + lo < pa + n
  hasSlot s g && (if g.gstate == .escalated then meets 0 0x200 || meets 0x400 0x8000 || meets 0x18000 0x20000 else meets 0 0x20000)
/-- Notes the groups whose slots a write meets that is not the device's own write of an image (R393). -/
def noteSlots (s : State) (pa n : Nat) : State :=
  { s with slotHits := s.slotHits ++ (s.groups.filter (fun g => meetsSlot s pa n g && !s.slotHits.contains g.uid)).map (·.uid) }
/-- A write at the home on behalf of software. -/
def softWrite (s : State) (pa n v : Nat) : State := noteSlots (homeWrite s pa n v) pa n

/-! ### Cache lines (R55, R63, R241) -/

def cacheLine? (s : State) (k : CacheKind) (core line : Nat) : Option CacheLine :=
  s.caches.find? (fun c => c.kind == k && c.core == core && c.line == line)
def CacheLine.is (c : CacheLine) (k : CacheKind) (core line : Nat) : Bool := c.kind == k && c.core == core && c.line == line
/-- Drops a line without writing back. -/
def dropLine (s : State) (k : CacheKind) (core line : Nat) : State :=
  { s with caches := s.caches.filter (fun c => !c.is k core line) }
/-- The virtual interval through which one physical line is reached: on a decoded page by element address (R60). -/
def lineVas (va pa : Nat) (decoded : Bool) : Nat × Nat :=
  if decoded then
    let page := va / 65536 * 65536
    let o := pa / 128 * 128 % 65536
    (page + 8 * o / 6, (8 * o + 1023) / 6 - 8 * o / 6 + 1)
  else (va - pa % 128, 128)
/-- `n` bytes of a held line from byte `off`. -/
def CacheLine.bytes (c : CacheLine) (off n : Nat) : Nat := bits c.data.toNat (8 * off) (8 * n)
/-- The bits of `n` bytes of a line. -/
def byteMask (off n : Nat) : BitVec 128 := BitVec.ofNat 128 ((2 ^ n - 1) * 2 ^ off)
/-- Replaces bytes of a line; `dirty` says whether they become dirty or clean. -/
def CacheLine.put (c : CacheLine) (off n v : Nat) (dirty : Bool) : CacheLine :=
  let m := byteMask off n
  { c with data := BitVec.ofNat 1024 (setBits c.data.toNat (8 * off) (8 * n) v)
           dirty := if dirty then c.dirty ||| m else c.dirty &&& ~~~m
           read := c.read &&& ~~~m }
def modLine (s : State) (k : CacheKind) (core line : Nat) (f : CacheLine → CacheLine) : State :=
  { s with caches := s.caches.map (fun x => if x.is k core line then f x else x) }

/-- Records that a core has written a line or learned of a write to it (R84; log entry 7). -/
def touch (s : State) (core line : Nat) : State :=
  if s.touched.contains (core, line) then s else { s with touched := (core, line) :: s.touched }

/-- Sends the dirty bytes of a line to its home, one by one in address order (R55). -/
def writeDirty (m : Memory) (c : CacheLine) : List Nat → Memory
  | [] => m
  | i :: is =>
    writeDirty (if c.dirty.getLsbD i then memWrite m (128 * c.line + i) (BitVec.ofNat 8 (c.bytes i 1)) else m) c is
/-- Writes back the dirty bytes of an L1 line; the line stays, clean. A dirty half line that is whole clears its unit's
poison (R419). -/
def writeBack (s : State) (core line : Nat) : State :=
  match cacheLine? s .l1 core line with
  | none => s
  | some c =>
    if c.dirty.toNat = 0 then s
    else
      let s := noteSlots { s with hbm := writeDirty s.hbm c (upTo 128) } (128 * line) 128
      let s := if (c.dirty.extractLsb' 0 64).toNat = 2 ^ 64 - 1 then clearPoison s (.hbm (128 * line)) else s
      let s := if (c.dirty.extractLsb' 64 64).toNat = 2 ^ 64 - 1 then clearPoison s (.hbm (128 * line + 64)) else s
      modLine s .l1 core line (fun x => { x with dirty := 0, read := 0 })
/-- Every core writes back its dirty bytes of a line. -/
def writeBackAll (s : State) (line : Nat) : State :=
  (s.caches.filter (fun c => c.kind == .l1 && c.line == line)).foldl (fun s c => writeBack s c.core line) s
/-- An ST of 32 bytes: one to each half of a poisoned unit, one after the other, clear its poison, as R419's table requires (log entry
108). -/
def coverHalf (s : State) (l : Loc) (n : Nat) : State :=
  if n = 32 && poisoned s l then
    if s.halves.contains (if l == l.unit then l.plus 32 else l.unit) then
      clearPoison (match l with | .hbm a => writeBackAll s (a / 128) | _ => s) l
    else { s with halves := l :: s.halves }
  else s
/-- Writes back and drops an L1 line. -/
def flushLine (s : State) (core line : Nat) : State := dropLine (writeBack s core line) .l1 core line
/-- How many 128-byte lines a cache of a core has (R10): 128 KB of L1, 64 KB of instruction cache. The size of the scale cache is not given:
no bound. -/
def CacheKind.lines : CacheKind → Option Nat
  | .l1 => some 1024
  | .instr => some 512
  | .scale => none
/-- The lines of one cache. -/
def kindLines (s : State) (k : CacheKind) (core : Nat) : List CacheLine := s.caches.filter (fun c => c.kind == k && c.core == core)
/-- The line a cache gives up: one marked so (R57), else the one filled first (DESIGN CHOICE: the spec names no order; log entry 91). -/
def victim (l : List CacheLine) : Option CacheLine := (l.reverse.find? (·.first)).or l.getLast?
/-- A cache loses a line, an L1 writing back its dirty bytes (R55). -/
def evictLine (s : State) (k : CacheKind) (core line : Nat) : State := if k == .l1 then flushLine s core line else dropLine s k core line
/-- A full cache gives up a line before it fills another (R10). -/
def makeRoom (s : State) (k : CacheKind) (core : Nat) : State :=
  match k.lines with
  | none => s
  | some n =>
    let l := kindLines s k core
    if l.length < n then s
    else
      match victim l with
      | some c => evictLine s k core c.line
      | none => s
/-- Makes sure a line is held, filling it from the home (R57); records the interval it is reached through. -/
def fillLine (s : State) (k : CacheKind) (core line : Nat) (va : Nat × Nat) : State :=
  match cacheLine? s k core line with
  | some c =>
    if c.vas.contains va then s
    else { s with caches := s.caches.map (fun x => if x.is k core line then { x with vas := va :: x.vas } else x) }
  | none =>
    let s := makeRoom s k core
    { s with caches := { kind := k, core := core, line := line,
                         data := BitVec.ofNat 1024 (homeRead s (128 * line) 128), vas := [va] } :: s.caches }
/-- A line is the first to be evicted (R57). -/
def markFirst (s : State) (core line : Nat) : State := modLine s .l1 core line (fun c => { c with first := true })
/-- Drops every scale-cache line of a core (R63). -/
def dropScales (s : State) (core : Nat) : State :=
  { s with caches := s.caches.filter (fun c => !(c.kind == .scale && c.core == core)) }
/-- The L1 lines of a core. -/
def l1Lines (s : State) (core : Nat) : List Nat := (s.caches.filter (fun c => c.kind == .l1 && c.core == core)).map (·.line)
/-- Writes back and drops a core's whole L1. -/
def flushCore (s : State) (core : Nat) : State := (l1Lines s core).foldl (fun s l => flushLine s core l) s
/-- Writes back a core's whole L1. -/
def cleanCore (s : State) (core : Nat) : State := (l1Lines s core).foldl (fun s l => writeBack s core l) s
/-- Whether a line's virtual intervals meet a range; an empty range meets none. -/
def CacheLine.overlaps (c : CacheLine) (a n : Nat) : Bool := 0 < n && c.vas.any (fun v => v.1 < a + n && a < v.1 + v.2)

/-! ### Weak accesses of a core (R57) -/

/-- Whether a line has dirty bytes of these that a load has returned. -/
def CacheLine.readDirty (c : CacheLine) (off n : Nat) : Bool := (c.dirty &&& c.read &&& byteMask off n) != 0
/-- A load returns dirty bytes of a line. -/
def noteRead (s : State) (core pa n : Nat) : State :=
  match cacheLine? s .l1 core (pa / 128) with
  | some c =>
    let m := c.dirty &&& byteMask (pa % 128) n
    if m = 0 then s else modLine s .l1 core (pa / 128) (fun c => { c with read := c.read ||| m })
  | none => s
/-- Dirty bytes that a load has returned go home before a load of policy 1 reads there, so that it returns nothing older (R317). -/
def settleRead (s : State) (core pa n : Nat) : State :=
  match cacheLine? s .l1 core (pa / 128) with
  | some c => if c.readDirty (pa % 128) n then writeBack s core (pa / 128) else s
  | none => s
/-- A weak load of `n` bytes inside one line. -/
def l1Load (s : State) (core : Nat) (cp : Nat) (va pa n : Nat) (decoded : Bool) : State × Nat :=
  if cp = 1 then (fun s => (s, homeRead s pa n)) (settleRead s core pa n)
  else
    let held := (cacheLine? s .l1 core (pa / 128)).isSome
    let s := fillLine s .l1 core (pa / 128) (lineVas va pa decoded)
    let s := if cp = 2 && !held then markFirst s core (pa / 128) else s
    match cacheLine? s .l1 core (pa / 128) with
    | some c => (noteRead s core pa n, c.bytes (pa % 128) n)
    | none => (s, homeRead s pa n)
/-- A store of this core updates its scale cache (R63). -/
def scaleUpdate (s : State) (core pa n v : Nat) : State :=
  modLine s .scale core (pa / 128) (fun c => c.put (pa % 128) n v false)
/-- A store written through to the home, updating the L1 copy if there is one (R57 CP 1, R267). -/
def throughStore (s : State) (core pa n v : Nat) : State :=
  let s := modLine s .l1 core (pa / 128) (fun c => c.put (pa % 128) n v false)
  scaleUpdate (touch (softWrite s pa n v) core (pa / 128)) core pa n v
/-- A weak store of `n` bytes inside one line. -/
def l1Store (s : State) (core : Nat) (cp : Nat) (va pa n v : Nat) (decoded : Bool) : State :=
  if cp = 1 then throughStore s core pa n v
  else
    let s := fillLine s .l1 core (pa / 128) (lineVas va pa decoded)
    let s := modLine s .l1 core (pa / 128) (fun c => c.put (pa % 128) n v true)
    let s := if cp = 2 then markFirst s core (pa / 128) else s
    scaleUpdate (touch s core (pa / 128)) core pa n v

/-- What a load of an engine finds: the L1 copy's dirty bytes over the home, without a fill (R267). -/
def engineByte (s : State) (core pa : Nat) : Nat :=
  match cacheLine? s .l1 core (pa / 128) with
  | some c => if c.dirty.getLsbD (pa % 128) then c.bytes (pa % 128) 1 else homeRead s pa 1
  | none => homeRead s pa 1
def engineRead (s : State) (core pa : Nat) : Nat → Nat
  | 0 => 0
  | n + 1 => engineByte s core pa + 256 * engineRead s core (pa + 1) n

/-! ### Releases and acquires (R76, R84) -/

/-- Whether a release or acquire of this scope leaves the L1: pair scope or wider, or team scope of a paired team (R71, R84). -/
def wideScope (scope : Nat) (paired : Bool) : Bool := scope ≥ 4 || (scope == 2 && paired)
/-- Whether two places of given sizes meet. -/
def locMeets (a : Loc) (n : Nat) (b : Loc) (m : Nat) : Bool :=
  match a, b with
  | .hbm x, .hbm y => x < y + m && y < x + n
  | .scratch t x, .scratch u y => t == u && x < y + m && y < x + n
  | .die d x, .die e y => d == e && x < y + m && y < x + n
  | .page p x, .page q y => p == q && x < y + m && y < x + n
  | .away d x, .away e y => d == e && x < y + m && y < x + n
  | _, _ => false
/-- The lines the signatures at a location name. -/
def sigAt (s : State) (l : Loc) (n : Nat) : List (Nat × Nat) :=
  (s.sigs.filter (fun g => locMeets g.loc g.size l n)).foldl (fun acc g => unionPairs acc g.lines) []
/-- What this device's releases at other devices have named: an agent there may have acquired it, and hand it on. -/
def awayLines (s : State) : List (Nat × Nat) :=
  (s.sigs.filter (fun g => match g.loc with | .away _ _ => true | _ => false)).foldl (fun acc g => unionPairs acc g.lines) []
/-- The (core, line) pairs a release of this core covers: every line it has written or learned of (R84 step 1; log entry 7). Another device
(4096 and up) may have learned of all that this device has released to others. -/
def releaseLines (s : State) (core : Nat) : List (Nat × Nat) :=
  s.touched.filter (fun p => p.1 == core) ++ (if 4096 ≤ core then awayLines s else [])
/-- What a strong read answered by another device may have acquired: lines written here by agents outside the cores, and all that this
device's releases to other devices named (R76, R84). -/
def remoteSig (s : State) : List (Nat × Nat) := unionPairs (s.touched.filter (fun p => 192 ≤ p.1)) (awayLines s)
/-- A plain write ends the release sequence there (R76). -/
def endSequence (s : State) (l : Loc) (n : Nat) : State :=
  { s with sigs := s.sigs.filter (fun g => !locMeets g.loc g.size l n) }
/-- The home slice of a physical address, device-wide (R56). -/
def homeSliceOf (pa : Nat) : Nat := pa / (144 * 2 ^ 30) * 48 + Config.homeSlice (pa / 128) % 48
/-- The table that holds a location's signature and how many entries it has (R84 step 4): 4,096 at a home slice and at a die's scratchpad, 256
at a core's; the upper half of a paired team's scratchpad lies on the odd core (R52). The table of another device, and of a mailbox or device-register page, is none of these. -/
def sigTable (s : State) (l : Loc) : Option (Nat × Nat) :=
  match l with
  | .hbm a => some (homeSliceOf a, 4096)
  | .scratch t o => (s.teams.find? (fun x => x.uid == t)).map (fun x => (1000 + x.core + o / 2 ^ 18, 256))
  | .die k _ => some (2000 + k % 4, 4096)
  | .page _ _ | .away _ _ => none
/-- The entries of a table that are not retired, the newest first. -/
def tableEntries (s : State) (t : Nat) : List Signature :=
  s.sigs.filter (fun g => !g.retired && (match sigTable s g.loc with | some x => x.1 == t | none => false))
/-- A full table retires its oldest entry, the releasers writing back its lines first. An acquire still finds which lines of its own to drop
(R84 step 4: early retiring changes only cost). -/
def retireOldest (s : State) (l : Loc) : State :=
  if s.sigs.length < 256 then s
  else
    match sigTable s l with
    | none => s
    | some (t, n) =>
      let es := tableEntries s t
      if es.length < n then s
      else
        match es.getLast? with
        | none => s
        | some g =>
          let s := g.lines.foldl (fun s p => writeBack s p.1 p.2) s
          { s with sigs := s.sigs.map (fun x => if x == g then { x with retired := true } else x) }
/-- Deposits a signature; an RMW merges the one that is there (R84 steps 1, 2). -/
def deposit (s : State) (l : Loc) (n : Nat) (lines : List (Nat × Nat)) (rmw : Bool) : State :=
  let old := if rmw then sigAt s l n else []
  let all := unionPairs old lines
  let s := endSequence s l n
  if all.isEmpty then s
  else
    let s := retireOldest s l
    { s with sigs := { loc := l, size := n, lines := all } :: s.sigs }
/-- An acquire that has read a signature: every releaser writes back its dirty bytes of the lines named; the acquiring core
writes back and drops its own copies; the scale cache is dropped (R63, R84 step 3). -/
def applySig (s : State) (core : Nat) (sig : List (Nat × Nat)) : State :=
  let s := sig.foldl (fun s p => writeBack s p.1 p.2) s
  let s := sig.foldl (fun s p => touch (flushLine s core p.2) core p.2) s
  dropScales s core
/-- An acquire at core scope or narrower: only the scale cache is dropped (R63, R84 step 6). -/
def narrowAcquire (s : State) (core : Nat) : State := dropScales s core
/-- The acquire side of a read at a location. -/
def acquireAt (s : State) (core : Nat) (l : Loc) (n scope : Nat) (paired : Bool) : State :=
  if wideScope scope paired then applySig s core (sigAt s l n) else narrowAcquire s core

/-! ### Translations follow the tables (R383) -/

/-- A strong write at device scope or wider to an 8-byte entry drops every translation filled from it. -/
def shootdown (s : State) (pa n : Nat) : State :=
  { s with tlb := s.tlb.filter (fun e => !e.src.any (fun q => q.1 < pa + n && pa < q.1 + 8)) }

end Sys2Proof.Machine
end

