-- ==== Sys2Proof/Machine/Translate.lean ====
section
/-! DEFINITION. Two-stage translation (R373 to R383), permissions (R378), page types (R59 to R61) and instruction fetch (R154). -/

namespace Sys2Proof.Machine

/-! ### Cause codes (R35) -/

def cIllop : BitVec 8 := 0x01
def cPriv : BitVec 8 := 0x02
def cTrapi : BitVec 8 := 0x03
def cSyscall : BitVec 8 := 0x04
def cTimer : BitVec 8 := 0x05
def cAlign : BitVec 8 := 0x06
def cPage : BitVec 8 := 0x07
def cProt : BitVec 8 := 0x08
def cSpace : BitVec 8 := 0x09
def cTunperm : BitVec 8 := 0x0A
def cTunalign : BitVec 8 := 0x0B
def cTunaccess : BitVec 8 := 0x0C
def cTunnotready : BitVec 8 := 0x0D
def cRemref : BitVec 8 := 0x0E
def cRemtimeout : BitVec 8 := 0x0F
def cPoison : BitVec 8 := 0x10
def cLxfault : BitVec 8 := 0x11
def cBarpoison : BitVec 8 := 0x12
def cSplitovf : BitVec 8 := 0x13
def cGangfail : BitVec 8 := 0x14
def cLstack : BitVec 8 := 0x40
def cRingfull : BitVec 8 := 0x41
def cDescfmt : BitVec 8 := 0x42
def cImage : BitVec 8 := 0x43

/-- A cause with an address. -/
def causeAt (code : BitVec 8) (sub : Nat) (va : Nat) : Cause := { code := code, sub := BitVec.ofNat 8 sub, addr := dw va }
def Cause.withAccess (c : Cause) (a : Nat) : Cause := { c with access := BitVec.ofNat 8 a }

/-! ### Entries (R375 to R377) -/

def entV (e : Nat) : Bool := bit e 0
def entT (e : Nat) : Bool := bit e 1
/-- FRAME as an address: bits 51:20 hold address bits 47:16. -/
def entFrame (e : Nat) : Nat := bits e 20 32 * 65536
/-- Only V, T and FRAME may be set in a table entry. -/
def tableBad (e : Nat) : Bool := bits e 2 18 != 0 || bits e 52 12 != 0
/-- A block frame with bits 32:20 set. -/
def blockBad (e : Nat) : Bool := bits e 20 13 != 0
/-- The size of what a leaf maps. -/
def leafSize (level : Nat) : Nat := if level = 2 then 2 ^ 29 else 65536
/-- A format error of a first-stage entry at a level (R377). -/
def entry1Bad (p : Partition) (level e : Nat) : Bool :=
  if entT e then level == 3 || tableBad e
  else
    let pt := bits e 17 3
    let tun := bits e 52 12
    level == 1 || (level == 2 && blockBad e) || pt ≥ 5 || bits e 15 2 ≥ 2 || bits e 10 5 ≥ 24 ||
    (if pt == 1 || pt == 2 then !p.hasTun tun else tun != 0) || (pt != 0 && bits e 8 2 != 0)
/-- A format error of a second-stage entry (R377); frames in the partition's HBM range or in the apertures. -/
def entry2Bad (p : Partition) (part level e : Nat) : Bool :=
  if entT e then level == 3 || tableBad e
  else
    let f := entFrame e
    let sz := leafSize level
    level == 1 || (level == 2 && blockBad e) || bits e 52 8 != 0 || bits e 8 12 != 0 || bit e 5 || bits e 60 4 != part ||
    !((fld (p.reg 0x30) 0 48 ≤ f && f + sz ≤ fld (p.reg 0x38) 0 48) || apertureBase ≤ f)

/-! ### Walks (R373, R380) -/

/-- What the second stage yields for one intermediate address. -/
structure Stage2 where
  pa : Nat
  pbase : Nat
  size : Nat
  leaf : Nat
  r : Bool
  w : Bool
  x : Bool
  accessed : Bool
  src : List (Nat × Nat)

/-- A second-stage fault (R379). -/
def stage2Fault (code : BitVec 8) (sub ia : Nat) : Cause :=
  { code := code, sub := BitVec.ofNat 8 (128 + sub), addr := dw ia, stage2 := true }

/-- An entry without its A and D bits, which the device itself sets (R381). -/
def entryKey (e : Nat) : Nat := setBits e 6 2 0
/-- The index into a table at a level. -/
def walkIndex (a level : Nat) : Nat := if level = 1 then bits a 42 12 else if level = 2 then bits a 29 13 else bits a 16 13

/-- One level of the second stage, at the home L2 (R380). -/
def walk2Level (s : State) (part ia : Nat) : Nat → Nat → Nat → List (Nat × Nat) → Except Cause Stage2
  | 0, _, _, _ => .error (stage2Fault cPage 2 ia)
  | fuel + 1, level, table, src =>
    let ea := table + 8 * walkIndex ia level
    if ea + 8 > hbmEnd then .error (stage2Fault cPage 2 ia)
    else
      let e := homeRead s ea 8
      if !entV e then .error (stage2Fault cPage 1 ia)
      else if entry2Bad (s.part part) part level e then .error (stage2Fault cPage 2 ia)
      else if entT e then walk2Level s part ia fuel (level + 1) (entFrame e) ((ea, entryKey e) :: src)
      else
        let sz := leafSize level
        .ok { pa := entFrame e + ia % sz, pbase := entFrame e, size := sz, leaf := ea, r := bit e 2, w := bit e 3, x := bit e 4,
              accessed := bit e 6, src := (ea, entryKey e) :: src }
/-- The second stage: an intermediate address to a physical one. -/
def walk2 (s : State) (part ia : Nat) : Except Cause Stage2 :=
  if ia ≥ 2 ^ 48 then .error (stage2Fault cPage 0 ia) else walk2Level s part ia 3 1 ((s.part part).reg 0x08).toNat []

/-- A walk's result: the leaves it found with A = 0, whose A is to be set even when it ends in a fault (R381), and the translation. -/
abbrev Walked := List Nat × Except Cause TlbEntry

/-- One level of the first stage. Every table read is itself translated, and needs R there (R380). -/
def walk1Level (s : State) (c : Ctx) (va : Nat) : Nat → Nat → Nat → List (Nat × Nat) → List Nat → Walked
  | 0, _, _, _, setA => (setA, .error (causeAt cPage 2 va))
  | fuel + 1, level, table, src, setA =>
    let eia := table + 8 * walkIndex va level
    if eia ≥ 2 ^ 48 then (setA, .error (causeAt cPage 0 va))
    else
      match walk2 s c.part eia with
      | .error f => (setA, .error f)
      | .ok t =>
        let setA := if t.accessed then setA else t.leaf :: setA
        if !t.r then (setA, .error (stage2Fault cProt 1 eia))
        else if t.pa + 8 > hbmEnd then (setA, .error (causeAt cPage 2 va))
        else
          let e := homeRead s t.pa 8
          let src := (t.pa, entryKey e) :: t.src ++ src
          if !entV e then (setA, .error (causeAt cPage 1 va))
          else if entry1Bad (s.part c.part) level e then (setA, .error (causeAt cPage 2 va))
          else if entT e then walk1Level s c va fuel (level + 1) (entFrame e) src setA
          else
            let sz := leafSize level
            let setA := if bit e 6 then setA else t.pa :: setA
            match walk2 s c.part (entFrame e + va % sz) with
            | .error f => (setA, .error f)
            | .ok l =>
              let size := min sz l.size
              (if l.accessed then setA else l.leaf :: setA,
               .ok { owner := c.core, part := c.part, asid := c.asid, ptroot := c.ptroot, vbase := va / size * size,
                     size := size, pbase := l.pa / size * size, r := bit e 2 && l.r, w := bit e 3 && l.w,
                     x := bit e 4 && l.x, u := bit e 5, cp := BitVec.ofNat 2 (bits e 8 2), bgeo := BitVec.ofNat 2 (bits e 15 2),
                     efmt := BitVec.ofNat 5 (bits e 10 5), ptype := BitVec.ofNat 3 (bits e 17 3),
                     tunid := BitVec.ofNat 12 (bits e 52 12), leaf1 := t.pa, leaf2 := l.leaf, src := l.src ++ src,
                     dirty := bit e 7 && bit (homeRead s l.leaf 8) 7 })
/-- The first stage from PTROOT (R322, R373). -/
def walk1 (s : State) (c : Ctx) (va : Nat) : Walked :=
  if c.ptroot.toNat ≥ 2 ^ 48 then ([], .error (causeAt cPage 0 va)) else walk1Level s c va 3 1 c.ptroot.toNat [] []

/-- A translation filled from one of these entries as it was before a change (R383). -/
def TlbEntry.stale (s : State) (e : TlbEntry) (as : List Nat) : Bool :=
  e.src.any (fun q => as.contains q.1 && entryKey (homeRead s q.1 8) != q.2)
/-- Drops the translations filled from these entries before they changed. -/
def dropStale (s : State) (as : List Nat) : State := { s with tlb := s.tlb.filter (fun e => !e.stale s as) }
/-- Sets one bit of entries at their home (R381): it drops no translation, but older values of the entry are not used from then on (R383). -/
def setEntryBit (s : State) (i : Nat) (as : List Nat) : State :=
  dropStale (as.foldl (fun s a => homeWrite s a 8 (homeRead s a 8 ||| 2 ^ i)) s) as

/-! ### TLBs (R382) -/

/-- The TLB a context uses: data, or instruction for a fetch. -/
def tlbOwner (c : Ctx) (fetch : Bool) : Nat := if fetch then 192 + c.core else c.core
def tlbDie (c : Ctx) : Nat := 384 + dieOf c.core
def TlbEntry.hits (e : TlbEntry) (owner : Nat) (c : Ctx) (va : Nat) : Bool :=
  e.owner == owner && e.part == c.part && e.asid == c.asid && e.ptroot == c.ptroot && e.vbase ≤ va && va < e.vbase + e.size
def tlbFind (s : State) (owner : Nat) (c : Ctx) (va : Nat) : Option TlbEntry := s.tlb.find? (fun e => e.hits owner c va)

/-- The page type of a page as one number, 5 for a decoded one and 0 for ordinary memory (R60, R61). -/
def pageKind (ptype efmt : Nat) : Nat := if ptype != 0 then ptype else if efmt = 15 || efmt = 16 then 5 else 0
def TlbEntry.kind (e : TlbEntry) : Nat := pageKind e.ptype.toNat e.efmt.toNat
/-- A walk from the root, which fills both TLBs and sets A (R381, R382). -/
def walkFill (s : State) (c : Ctx) (fetch : Bool) (va : Nat) : State × Except Cause TlbEntry :=
  let w := walk1 s c va
  let s := setEntryBit s 6 w.1
  match w.2 with
  | .error f => (s, .error f)
  | .ok e => ({ s with tlb := { e with owner := tlbOwner c fetch } :: { e with owner := tlbDie c } :: s.tlb }, .ok e)
/-- The translation of a virtual address: the core's TLB, the die's, or a walk (R382). -/
def translate (s : State) (c : Ctx) (fetch : Bool) (va : Nat) : State × Except Cause TlbEntry :=
  match tlbFind s (tlbOwner c fetch) c va with
  | some e => (s, .ok e)
  | none =>
    match tlbFind s (tlbDie c) c va with
    | some e => ({ s with tlb := { e with owner := tlbOwner c fetch } :: s.tlb }, .ok e)
    | none => walkFill s c fetch va
/-- The translation a write uses: when D is still to be set and a leaf has changed since, the walk is repeated from the root (R381). -/
def translateFor (s : State) (c : Ctx) (fetch write : Bool) (va : Nat) : State × Except Cause TlbEntry :=
  match translate s c fetch va with
  | (s, .error f) => (s, .error f)
  | (s, .ok e) =>
    if write && !e.dirty && e.stale s [e.leaf1, e.leaf2] then walkFill (dropStale s [e.leaf1, e.leaf2]) c fetch va else (s, .ok e)

/-- Before the first write through an entry whose D is 0, D is set in both leaves (R381). -/
def markDirty (s : State) (e : TlbEntry) : State :=
  if e.dirty then s
  else
    let s := setEntryBit s 7 [e.leaf1, e.leaf2]
    { s with tlb := s.tlb.map (fun x => if x.leaf1 == e.leaf1 && x.leaf2 == e.leaf2 && x.vbase == e.vbase then
        { x with dirty := true } else x) }
/-- The same for the page of an address that has just been checked. -/
def markPage (s : State) (c : Ctx) (va : Nat) : State :=
  match translate s c false va with
  | (s, .ok e) => markDirty s e
  | (s, .error _) => s

/-! ### Page types by frame (R407) -/

/-- The entries of a table that are not all zero: index and value. -/
def tableEntriesOf (s : State) (pa n : Nat) : List (Nat × Nat) :=
  (((s.hbm.filter (fun c => pa ≤ c.1 && c.1 < pa + 8 * n)).map (fun c => (c.1 - pa) / 8)).eraseDups).map (fun i => (i, homeRead s (pa + 8 * i) 8))
/-- The page type, other than ordinary memory, by which a first-stage table of a partition maps an intermediate address, if one does. -/
def frameType (s : State) (part ia : Nat) : Nat → Nat → Nat → Option Nat
  | 0, _, _ => none
  | fuel + 1, level, table =>
    match walk2 s part table with
    | .error _ => none
    | .ok t =>
      (tableEntriesOf s t.pa (if level = 1 then 4096 else 8192)).findSome? (fun q =>
        let e := q.2
        if !entV e || entry1Bad (s.part part) level e then none
        else if entT e then frameType s part ia fuel (level + 1) (entFrame e)
        else
          let k := pageKind (bits e 17 3) (bits e 10 5)
          if k != 0 && entFrame e ≤ ia && ia < entFrame e + leafSize level then some k else none)
/-- The first-stage roots of a partition: of its launch context, its groups and its lauter programs. -/
def partRoots (s : State) (part : Nat) : List Nat :=
  (((s.part part).devReg 0x48).toNat ::
    (s.groups.filter (fun g => fld g.partid 0 4 == part)).map (fun g => g.ptroot.toNat) ++
    s.engines.flatMap (fun e => (e.progs.filter (fun p => p.ctx.part == part)).map (fun p => p.ctx.ptroot.toNat))).eraseDups
/-- The page type of an intermediate address of a partition: 1 feed, 2 draw, 3 mailbox, 4 device registers, 5 decoded, 0 ordinary memory. A
remote request carries an intermediate address, while the type stands in the first stage: the first entry of the partition's tables that
maps the address as something else than ordinary memory decides (DESIGN CHOICE, log entry 78). -/
def frameKind (s : State) (part ia : Nat) : Nat := ((partRoots s part).findSome? (frameType s part ia 3 1)).getD 0

/-! ### Permissions (R378) -/

/-- What an access needs. -/
structure Need where
  r : Bool
  w : Bool
  x : Bool
deriving DecidableEq, Repr

def needR : Need := ⟨true, false, false⟩
def needW : Need := ⟨false, true, false⟩
def needRW : Need := ⟨true, true, false⟩
def needX : Need := ⟨false, false, true⟩

/-- The subcode of the PROT an access raises; `none` when it is allowed. -/
def permSub (c : Ctx) (e : TlbEntry) (n : Need) : Option Nat :=
  if !c.sup && (!e.u || e.ptype.toNat == 3 || e.ptype.toNat == 4) then some 4
  else if n.r && !e.r then some 1
  else if n.w && !e.w then some 2
  else if n.x && !e.x then some 3
  else none

/-! ### Targets: what lies at an address -/

/-- What a permitted global access reaches (R60, R61, R374). -/
inductive Target where
  | plain (pa : Nat) (e : TlbEntry)
  /-- A decoded page: its frame and the element (R60). -/
  | decoded (frame elem : Nat) (e : TlbEntry)
  | feed (e : TlbEntry)
  | draw (pa : Nat) (e : TlbEntry)
  | mailbox (port off : Nat)
  | device (off : Nat)
  /-- A fabric aperture: the physical address (R406). -/
  | remote (pa : Nat) (e : TlbEntry)

def targetOf (c : Ctx) (e : TlbEntry) (va : Nat) : Target :=
  let pa := e.pbase + (va - e.vbase)
  if apertureBase ≤ pa then .remote pa e
  else
    match e.ptype.toNat with
    | 1 => .feed e
    | 2 => .draw pa e
    | 3 => .mailbox (Config.mailboxPort c.part (pa / 65536) % 8) (pa % 65536)
    | 4 => .device (pa % 65536)
    | _ => if e.efmt.toNat == 15 || e.efmt.toNat == 16 then .decoded (pa / 65536 * 65536) (va % 65536) e else .plain pa e

/-- Whether a permitted write of `n` bytes is performed as far as its page and poison tell, so that D is set (R381). A feed store sets it once
the tun has taken it. -/
def writeGoes (s : State) (need : Need) (n : Nat) (t : Target) : Bool :=
  match t with
  | .plain pa _ => !need.r || !poisoned s (.hbm pa)
  | .decoded _ _ _ => !need.r
  | .mailbox _ _ | .device _ => !need.r && (n = 4 || n = 8)
  | .remote _ _ => true
  | .feed _ | .draw _ _ => false
/-- The checks of one global access of `n` bytes up to permissions, in their order (R49, R379). -/
def globalCheck (s : State) (c : Ctx) (need : Need) (addr : DWord) (n : Nat) : State × Except Cause Target :=
  let va := addr.toNat
  if va ≥ 2 ^ 54 then (s, .error (causeAt cPage 0 va))
  else if va % n != 0 then (s, .error (causeAt cAlign 0 va))
  else
    match translateFor s c need.x need.w va with
    | (s, .error f) => (s, .error f)
    | (s, .ok e) =>
      match permSub c e need with
      | some sub => (s, .error (causeAt cProt sub va))
      | none => (if need.w && writeGoes s need n (targetOf c e va) then markDirty s e else s, .ok (targetOf c e va))

/-! ### Decoded pages (R60) -/

/-- The physical byte and bit where element `a` of a frame begins: six bits at bit 6a of the frame. -/
def elemByte (frame a : Nat) : Nat := frame + 6 * a / 8
/-- The bytes that hold element `a` whole (one or two), as a number and its shift. -/
def elemShift (a : Nat) : Nat := 6 * a % 8
def elemSpan (a : Nat) : Nat := if elemShift a > 2 then 2 else 1

/-! ### Instruction fetch (R154, R241) -/

/-- One instruction word: from the words fetched ahead, or through the instruction cache from the home. A page of another type, or a decoded
one, holds no instructions: PROT, SUB 3 (DESIGN CHOICE, log entry 17). Words fetched ahead are used until FETCHB, whatever level, PTROOT or
ASID the split has by then (DESIGN CHOICE, log entry 92). -/
def fetchWord (s : State) (c : Ctx) (pre : List (Nat × Word)) (va : Nat) : State × Except Cause Word :=
  match lookupNat va pre with
  | some w => (s, .ok w)
  | none =>
    match globalCheck s c needX (dw va) 4 with
    | (s, .error f) => (s, .error (f.withAccess 4))
    | (s, .ok (.plain pa _)) =>
      if poisoned s (.hbm pa) then (s, .error ((causeAt cPoison 0 va).withAccess 4))
      else
        let s := fillLine s .instr c.core (pa / 128) (lineVas va pa false)
        match cacheLine? s .instr c.core (pa / 128) with
        | some l => (s, .ok (wd (l.bytes (pa % 128) 4)))
        | none => (s, .ok (wd (homeRead s pa 4)))
    | (s, .ok (.remote _ _)) => (s.takeFree.2, .ok (s.takeFree.1.extractLsb' 0 32))
    | (s, .ok _) => (s, .error ((causeAt cProt 3 va).withAccess 4))

end Sys2Proof.Machine
end

