-- ==== Sys2Proof/Machine/Images.lean ====
section
/-! DEFINITION. Register images of groups in the image region (R392 to R394) and the stores of the Kiln. -/

namespace Sys2Proof.Machine

/-- The core number that stands for the Kiln in signatures; no core has it. -/
def kilnCore : Nat := 1100
/-- A store of the Kiln at a physical address, as a release at system scope (R391, R394, R420). -/
def kilnStore (s : State) (pa n v : Nat) : State :=
  let s := touch (homeWrite s pa n v) kilnCore (pa / 128)
  deposit s (.hbm pa) n (releaseLines s kilnCore) false

/-! ### Slots (R392) -/

/-- The lowest free unit. -/
def freeUnit (s : State) (part : Nat) : Option Nat :=
  let used := (s.part part).slotsUsed
  match (upTo (used.length + 1)).find? (fun n => !used.contains n) with
  | some n => if n < imgUnits s part then some n else none
  | none => none
def takeUnit (s : State) (part n : Nat) : State := s.modPart part (fun p => { p with slotsUsed := n :: p.slotsUsed })
def returnUnit (s : State) (part n : Nat) : State := s.modPart part (fun p => { p with slotsUsed := p.slotsUsed.filter (fun x => x != n) })

/-! ### The layout (R390, R393) -/

/-- The 128 bytes of a trap frame. -/
def TrapFrame.bytes (f : TrapFrame) : Nat :=
  f.pc.toNat + 2 ^ 64 * f.info.toNat + 2 ^ 128 * f.mask.toNat + 2 ^ 192 * f.addr.toNat +
  2 ^ 256 * ((f.insn.getD 0 0).toNat + 2 ^ 32 * (f.insn.getD 1 0).toNat + 2 ^ 64 * (f.insn.getD 2 0).toNat)
def gstateCode (st : GState) : Nat := match st with | .resident => 1 | .saved => 2 | .escalated => 3
/-- The bytes of a range, as listed. -/
def memSlice (m : Memory) (a n : Nat) : Memory := m.filter (fun c => a ≤ c.1 && c.1 < a + n)
/-- The bytes that software must not write: all of the slot, but S and V while the group is ESCALATED. -/
def guarded (s : State) (g : Group) (m : Memory) : Memory :=
  let a := slotAddr s g
  if g.gstate == .escalated then
    m.filter (fun c => !((a + 0x200 ≤ c.1 && c.1 < a + 0x400) || (a + 0x8000 ≤ c.1 && c.1 < a + 0x18000)))
  else m
/-- Software has written none of the guarded bytes, and they are as the device left them (R393; log entry 86). -/
def imageIntact (s : State) (g : Group) : Bool :=
  !hasSlot s g || (!g.tampered && !s.slotHits.contains g.uid && guarded s g g.image == guarded s g (memSlice s.hbm (slotAddr s g) 131072))
/-- Looks at the slot of a group before the device writes it, and notes how the device leaves it. -/
def checkImage (s : State) (uid : Nat) : State :=
  match s.group? uid with
  | some g => if hasSlot s g then s.modGroup uid (fun x => { x with tampered := !imageIntact s g }) else s
  | none => s
def noteImage (s : State) (uid : Nat) : State :=
  match s.group? uid with
  | some g => if hasSlot s g then s.modGroup uid (fun x => { x with image := memSlice s.hbm (slotAddr s g) 131072 }) else s
  | none => s
/-- Writes a trap frame of the group to its slot (R390). -/
def storeFrame (s : State) (g : Group) (sup : Bool) : State :=
  if hasSlot s g then
    noteImage (kilnStore (checkImage s g.uid) (slotAddr s g + (if sup then 0x180 else 0x100)) 128 (if sup then g.sframe.bytes else g.uframe.bytes)) g.uid
  else s
/-- Writes GRID, IDENT and GSTATE. -/
def storeHeader (s : State) (g : Group) (code : Nat) : State :=
  if hasSlot s g then
    let a := slotAddr s g
    let gid := match s.grid? g.grid with | some r => r.gridid.toNat | none => 0
    let tid := match s.team? g.team with | some t => t.teamid | none => 0
    let s := kilnStore (checkImage s g.uid) a 8 gid
    let s := kilnStore s (a + 8) 8 (groupPart g * 2 ^ 60 + tid % 2 ^ 16 * 2 ^ 32 + g.groupid % 64)
    noteImage (kilnStore s (a + 16) 8 (code + g.core * 256)) g.uid
  else s
/-- Writes S and V. Lanes and registers that the group does not have are zero. -/
def storeRegs (s : State) (g : Group) : State :=
  let a := slotAddr s g
  let s := (upTo 64).foldl (fun s n => kilnStore s (a + 0x200 + 8 * n) 8 (g.sReg n).toNat) s
  let s := { s with hbm := memClear s.hbm (a + 0x8000) 0x10000 }
  (upTo g.vregs).foldl (fun s n => (upTo g.width).foldl (fun s l =>
    kilnStore s (a + 0x8000 + 256 * n + 4 * l) 4 ((g.lane l).vReg n).toNat) s) s
/-- Bytes that the device writes and that have no architected layout: each is a free value (R393, R395; log entry 20). -/
def openArea (s : State) (a n : Nat) : State :=
  { s with free := s.free + 1, hbm := memFill s.hbm a n (Config.freeByte s.free) }
/-- The two areas of device state. -/
def storeDevice (s : State) (g : Group) : State := openArea (openArea s (slotAddr s g + 0x400) 0x7C00) (slotAddr s g + 0x18000) 0x8000
/-- Writes the whole image, GSTATE last, and notes how it is left. -/
def storeImage (s : State) (g : Group) : State :=
  if hasSlot s g then
    noteImage (storeHeader (noteImage (storeDevice (storeRegs (storeFrame (storeFrame s g false) g true) g) g) g.uid) g (gstateCode g.gstate)) g.uid
  else s
/-- The PC of a group that has stopped: of the split that escalated, else of its first (R391). -/
def stoppedPc (g : Group) : CodeAddr :=
  match g.escalatedSplit with
  | some k => ((g.splits.find? (fun x => x.slot == k)).getD {}).pc
  | none => ((g.splits.head?).getD {}).pc
/-- The group with S and V as its slot holds them. -/
def loadRegs (s : State) (g : Group) : Group :=
  if hasSlot s g then
    let a := slotAddr s g
    let g := { g with s := (upTo 64).map (fun n => if n = 0 then 0 else dw (homeRead s (a + 0x200 + 8 * n) 8)) }
    { g with lanes := g.lanes.zipIdx.map (fun q =>
        { q.1 with v := (upTo g.vregs).map (fun n => wd (homeRead s (a + 0x8000 + 256 * n + 4 * q.2) 4)) }) }
  else g

end Sys2Proof.Machine
end

