-- ==== Sys2Proof/Machine/Ops.lean ====
section
/-! DEFINITION. The operations instructions share: taking an exception (R34, R37, R324, R325, R390, R391), returning from one
(R182, R401), retiring lanes, splits, groups and teams (R18, R427), merging at a JOIN (R24), releasing a barrier (R32), and the
frame of an issue (R146, R152, R153). -/

namespace Sys2Proof.Machine

/-! ### Stores of the Kiln and the VCP -/

/-- The core number that stands for a partition's VCP in signatures and translations; no core has it. -/
def vcpCore (p : Nat) : Nat := 1024 + p
/-- A store of a partition's VCP in its launch context, at the home; nothing if it does not translate. `release` deposits the
lines the VCP knows of (R341). -/
def vcpStore (s : State) (p : Nat) (addr : DWord) (n v : Nat) (release : Bool) : State :=
  match globalCheck s (launchCtx s p (vcpCore p)) needW addr n with
  | (s, .ok (.plain pa _)) =>
    let s := touch (softWrite s pa n v) (vcpCore p) (pa / 128)
    if release then deposit (shootdown s pa n) (.hbm pa) n (releaseLines s (vcpCore p)) false else endSequence s (.hbm pa) n
  | (s, _) => s
/-- A load of a partition's VCP in its launch context, at the home, as an acquire. -/
def vcpLoad (s : State) (p : Nat) (addr : DWord) (n : Nat) : State × Option Nat :=
  match globalCheck s (launchCtx s p (vcpCore p)) needR addr n with
  | (s, .ok (.plain pa _)) =>
    if poisonedRange s pa n then (s, none)
    else
      let s := applySig s (vcpCore p) (sigAt s (.hbm pa) n)
      (s, some (homeRead s pa n))
  | (s, _) => (s, none)

/-! ### Partition-fault records and events (R343, R391) -/

/-- Appends a partition-fault record (R391). -/
def pfRecord (s : State) (part slot : Nat) (eng : Bool) (code sub : BitVec 8) (pc addr : DWord) : State :=
  let base := bits s.kiln.pfbase.toNat 16 32 * 65536
  let count := bits s.kiln.pfcount.toNat 0 32
  let lost := bits s.kiln.pfcount.toNat 32 32
  if base = 0 then
    { s with kiln := { s.kiln with pfcount := dw (((lost + 1) % 2 ^ 32) * 2 ^ 32 + count) } }
  else
    let a := base + 32 * (count % 2048)
    let s := kilnStore s a 8 (part * 2 ^ 60 + b2n eng * 2 ^ 55 + slot)
    let s := kilnStore s (a + 8) 8 (sub.toNat * 256 + code.toNat)
    let s := kilnStore s (a + 16) 8 pc.toNat
    let s := kilnStore s (a + 24) 8 addr.toNat
    { s with kiln := { s.kiln with pfcount := dw (lost * 2 ^ 32 + (count + 1) % 2 ^ 32) } }

/-- Posts an event record of a partition (R343); with EVTBASE 0 it is dropped and counted (R331). -/
def postEvent (s : State) (p : Nat) (type queue code arg : Nat) : State :=
  let base := (s.part p).devReg 0x20
  let w := (s.part p).devReg 0x28
  if base = 0 then s.modPart p (fun x => x.setDevReg 0x28 (dw ((fld w 32 32 + 1) % 2 ^ 32 * 2 ^ 32 + fld w 0 32)))
  else
    let a := base + dw (64 * (fld w 0 32 % 1024))
    let s := [type, queue, code, arg, 0, 0, 0, 0].zipIdx.foldl (fun s q => vcpStore s p (a + dw (8 * q.2)) 8 q.1 false) s
    let s := s.modPart p (fun x => x.setDevReg 0x28 (dw (fld w 32 32 * 2 ^ 32 + (fld w 0 32 + 1) % 2 ^ 32)))
    deposit s (.page p 0x28) 8 (releaseLines s (vcpCore p)) false

/-! ### Taking an exception -/

/-- Causes a user handler can take (R35). -/
def userDeliverable (c : BitVec 8) : Bool :=
  [0x03, 0x05, 0x06, 0x0A, 0x0B, 0x0C, 0x0D, 0x0E, 0x0F, 0x11, 0x12, 0x14].contains c.toNat
/-- Causes taken at an issue, before the instruction (R34, R388): frame without instruction words (R390). -/
def issueCause (c : Cause) : Bool := c.code == cTimer || c.code == cGangfail || c.lxf
/-- The earlier trap of the split at this instruction with this cause. -/
def LastTrap.same (t : LastTrap) (pc : CodeAddr) (c : Cause) : Bool := t.pc == pc && t.code == c.code
/-- RETRY of this trap (R390). -/
def retryOf (sp : Split) (c : Cause) : BitVec 8 :=
  match sp.lastTrap.find? (fun t => t.same sp.pc c) with
  | some t => if t.retry.toNat = 255 then 255 else t.retry + 1
  | none => 0
/-- The split has completed the instruction at its PC: RETRY of that instruction is over (R390). -/
def Split.completed (sp : Split) : Split := { sp with lastTrap := sp.lastTrap.filter (fun t => t.pc != sp.pc) }
/-- The traps noted for RETRY once this one is taken; TRAP and SYSCALL complete by it (R181, R390). -/
def trapsNoted (sp : Split) (c : Cause) : List LastTrap :=
  if c.code == cTrapi || c.code == cSyscall then sp.completed.lastTrap
  else { pc := sp.pc, code := c.code, retry := retryOf sp c } :: sp.lastTrap.filter (fun t => !t.same sp.pc c)
/-- FAULTADDR (R34): 0 for TRAPI, TIMER, GANGFAIL; the record address for LXFAULT. A cause that has no failing address (ILLOP, PRIV, SYSCALL,
SPLITOVF) carries address 0: DESIGN CHOICE, the spec names none (log entry 89). -/
def faultAddr (c : Cause) : DWord := if c.code == cTrapi || c.code == cTimer || c.code == cGangfail then 0 else c.addr
/-- The fault record of a trap frame (R390). -/
def frameOf (sp : Split) (c : Cause) (epc : CodeAddr) (lanes : Mask) (insn : List Word) : TrapFrame :=
  { pc := pcWord epc
    info := dw (c.code.toNat + c.sub.toNat * 2 ^ 8 + c.sysCode.toNat * 2 ^ 16 + b2n c.lxf * 2 ^ 31 + c.access.toNat * 2 ^ 32 +
      (retryOf sp c).toNat * 2 ^ 40 + sp.slot * 2 ^ 48)
    mask := lanes
    addr := faultAddr c
    insn := if issueCause c then [0, 0, 0] else (insn ++ [0, 0, 0]).take 3 }
/-- Whether the user handler takes a cause of this split: EN = 1 and the split in no handler (R34, R324). -/
def goesUser (g : Group) (sp : Split) (c : Cause) : Bool :=
  userDeliverable c.code && !c.lxf && !c.stage2 && g.utvec.getLsbD 0 && !sp.inSup && !sp.inUser

/-! ### Pending causes (R36, R326, R388) -/

/-- TIMER is due for a split (R36). -/
def timerPending (s : State) (g : Group) (sp : Split) : Bool :=
  g.timecmp.toNat != 0 && g.timecmp.toNat ≤ s.clock.toNat && !sp.timerTaken
/-- The oldest live split of the group (R326). -/
def isOldest (g : Group) (sp : Split) : Bool := g.splits.all (fun x => sp.age ≤ x.age)
/-- A pending lauter program fault that this split takes (R326). -/
def lxfPending (g : Group) (sp : Split) : Bool := !g.lxfaults.isEmpty && isOldest g sp
/-- What is pending for a split: bit 0 GANGFAIL, bit 1 a lauter program fault, bit 2 TIMER, bit 3 the POISON of a matrix operation (R252). -/
def pendingBits (s : State) (g : Group) (sp : Split) : BitVec 4 :=
  BitVec.ofNat 4 (b2n sp.gangFail.isSome + 2 * b2n (lxfPending g sp) + 4 * b2n (timerPending s g sp) + 8 * b2n sp.poisonAt.isSome)
/-- The pending causes that wait for the ERET of the handler the split is in (R388; log entry 46). -/
def owedNow (sp : Split) : BitVec 4 := if sp.inSup then sp.owedSup else if sp.inUser then sp.owedUser else 0

/-! ### Page faults in hand (R384) -/

/-- The page of a first-stage page fault, or the intermediate page of a second-stage fault, numbered apart. -/
def faultPage (c : Cause) : Option Nat :=
  if c.stage2 then some (2 * (c.addr.toNat / 65536) + 1) else if c.code == cPage then some (2 * (c.addr.toNat / 65536)) else none
/-- Another split of the group has the fault of this page in hand. -/
def pageInHand (g : Group) (sp : Split) (page : Nat) : Bool := g.splits.any (fun x => x.slot != sp.slot && x.pages.contains page)
/-- The page of this cause, when another split has it in hand. -/
def pageHeld (g : Group) (sp : Split) (c : Cause) : Option Nat :=
  match faultPage c with
  | some p => if pageInHand g sp p then some p else none
  | none => none
/-- The page of the first of these faults that another split has in hand; lanes that run on are held instead (R37). -/
def faultsHeld (g : Group) (sp : Split) (faults : List (Nat × Cause)) : Option Nat :=
  if sp.runOn.isSome then none else faults.findSome? (fun f => pageHeld g sp f.2)
/-- The split has the fault in hand. -/
def Split.inHand (sp : Split) (c : Cause) : Split :=
  match faultPage c with
  | some p => if sp.pages.contains p then sp else { sp with pages := p :: sp.pages }
  | none => sp

/-! ### Entry -/

/-- The split after trap entry at a handler: it runs from there with the mask reduced to the faulting lanes. -/
def Split.enter (sp : Split) (c : Cause) (handler : DWord) (lanes : Mask) : Split :=
  { sp with pc := codeAddr handler, mask := lanes, status := .ready, runOn := none, lastTrap := trapsNoted sp c, fenceWait := none,
            budgetSince := none, budgetGranted := false, farPc := 0 }
/-- User trap entry (R34), with the causes left pending. A split at supervisor level that is in no handler keeps that level in it: DESIGN CHOICE,
R34 names no level (log entry 113). -/
def enterUser (g : Group) (sp : Split) (c : Cause) (epc : CodeAddr) (lanes : Mask) (insn : List Word) (owed : BitVec 4) : Group :=
  ({ g with utcause := dw (c.sub.toNat * 256 + c.code.toNat), utepc := pcField (pcWord epc), faultmask := lanes,
            faultaddr := faultAddr c, uframe := frameOf sp c epc lanes insn }).setSplit
    { sp.enter c g.utvec lanes with inUser := true, owedUser := owed }
/-- Supervisor trap entry (R324): SSTATUS keeps PRI, saves level and user mark, sets SIH. -/
def enterSup (g : Group) (sp : Split) (c : Cause) (epc : CodeAddr) (lanes : Mask) (insn : List Word) (owed : BitVec 4) : Group :=
  ({ g with scause := dw (c.sub.toNat * 2 ^ 8 + c.code.toNat + c.sysCode.toNat * 2 ^ 16 + b2n c.lxf * 2 ^ 31),
            sepc := pcField (pcWord epc), faultmask := lanes, faultaddr := faultAddr c,
            sstatus := (g.sstatus &&& 0x300#64) ||| dw (b2n sp.inUser * 4 + b2n sp.sup * 2 + 1),
            sframe := frameOf sp c epc lanes insn, lxHand := if c.lxf then g.lxHand else none }).setSplit
    { (sp.inHand c).enter c g.stvec lanes with inUser := false, inSup := true, sup := true, owedSup := owed }
/-- Every outstanding result that may land lands. -/
def landGroup (g : Group) : Group :=
  g.splits.foldl (fun g x => match g.split? x.slot with | some y => landAll g y | none => g) g
/-- Operations that are complete are counted in issue order (R31). -/
def countDone (l : List Flight) : List Flight :=
  l.foldl (fun acc f => if f.done && !acc.any (fun x => x.path == f.path) then acc else acc ++ [f]) []
/-- A group that stops or is stopped: results that may land have landed, and complete operations are counted (R395). -/
def awaitGroup (g : Group) : Group :=
  let g := landGroup g
  { g with flights := countDone g.flights }
/-- A group that is off its core or stopped receives results and acknowledgements in its image, S and V standing there as the hypervisor may have
written them (R260, R391, R395). -/
def landSaved (s0 : State) (uid : Nat) : State :=
  let s := checkImage s0 uid
  match s.group? uid with
  | some g =>
    if g.gstate == .resident then s0
    else
      let g := awaitGroup (if g.gstate == .escalated then loadRegs s g else g)
      storeImage (s.setGroup g) g
  | none => s0
/-- Escalation (R324, R391): the group stops with its state saved, the Kiln and the VCP are told. -/
def escalate (s0 : State) (g0 : Group) (sp0 : Split) (c : Cause) (lanes : Mask) : State :=
  let s := checkImage s0 g0.uid
  let g := awaitGroup (g0.setSplit sp0)
  let sp := { sp0 with pend := sp0.pend.filter (fun p => p.held) }
  let sp := { sp.inHand c with mask := lanes, runOn := none, lastTrap := trapsNoted sp c }
  let g := { g.setSplit sp with gstate := .escalated, escalatedSplit := some sp.slot,
                                tampered := match s.group? g.uid with | some x => x.tampered | none => g.tampered }
  let s := storeImage (s.setGroup g) g
  let part := groupPart g
  let s := pfRecord s part g.slot false c.code c.sub (pcWord sp.pc) c.addr
  let queue := match s.grid? g.grid with | some r => r.packet.queue | none => 0
  if c.stage2 then s else postEvent s part 3 queue c.code.toNat sp.pc.toNat
/-- Another split of the group is in the handler of this level, or has been taken out of it by a supervisor trap (R324, R325). -/
def handlerBusy (g : Group) (slot : Nat) (sup : Bool) : Bool :=
  g.splits.any (fun x => x.slot != slot && (if sup then x.inSup else x.inUser || (x.inSup && g.sstatus.getLsbD 2)))
/-- A split waits at an occupied handler, before the faulting instruction takes effect (R325). -/
def parkHandler (s : State) (g : Group) (sp : Split) (lanes : Mask) (sup : Bool) : State :=
  s.setGroup (g.setSplit { sp with mask := lanes, status := .parked (.handler sup), runOn := none })
/-- Where a cause of this split is taken (R34, R324, R325). -/
def routeOf (g : Group) (sp : Split) (c : Cause) : Route :=
  if goesUser g sp c then (if handlerBusy g sp.slot false then .wait false else .user)
  else if c.stage2 || (pcField g.stvec).toNat = 0 || sp.inSup then .hyp
  else if handlerBusy g sp.slot true then .wait true
  else .sup
/-- The split with the cause kept, to be raised again when the handler's ERET has completed (R325). -/
def Split.keep (sp : Split) (c : Cause) (epc : CodeAddr) (insn : List Word) : Split :=
  { sp with waiting := { cause := c, pc := sp.pc, epc := epc, insn := insn, inUser := sp.inUser, inSup := sp.inSup } :: sp.waiting }
/-- The split waits for the page fault that another split has in hand, and retries its instruction then (R384). -/
def parkPage (s : State) (g : Group) (sp : Split) (lanes : Mask) (page : Nat) : State :=
  s.setGroup (g.setSplit { sp with mask := lanes, status := .parked (.page page), runOn := none })
/-- TAKING AN EXCEPTION, the one shared operation: cause `c` of the split whose PC is the instruction concerned, for `lanes`,
returning to `epc`. It goes to the user handler, the supervisor handler or the hypervisor (R34, R324, R325). -/
def deliver (s : State) (g : Group) (sp : Split) (c : Cause) (epc : CodeAddr) (lanes : Mask) (insn : List Word) : State :=
  match pageHeld g sp c with
  | some p => parkPage s g sp lanes p
  | none =>
    match routeOf g sp c with
    | .user =>
      storeFrame (s.setGroup (enterUser g sp c epc lanes insn (pendingBits s g sp))) (enterUser g sp c epc lanes insn (pendingBits s g sp)) false
    | .sup =>
      storeFrame (s.setGroup (enterSup g sp c epc lanes insn (pendingBits s g sp))) (enterSup g sp c epc lanes insn (pendingBits s g sp)) true
    | .hyp => escalate s g sp c lanes
    | .wait sup => parkHandler s g ((sp.inHand c).keep c epc insn) lanes sup

/-- Running-on lanes have stopped, at `stop` with the mask the split has, or all retired: what is held is pushed, the earliest
on top, and the trap is taken (R37). When a push takes the stack past 256 entries the split raises SPLITOVF in place of its cause, which the
instruction raises again when it is executed again (R22, R177): DESIGN CHOICE, the spec does not say which trap stands (log entry 90). -/
def finishRunOn (s : State) (g : Group) (sp : Split) (r : RunOn) : State :=
  let stopped := if sp.mask.toNat = 0 then [] else [StackEntry.held sp.pc sp.mask]
  let others := if r.others.toNat = 0 then [] else [StackEntry.held r.pc r.others]
  let pushed := others ++ r.heldLater.map (fun p => StackEntry.held p.1 p.2) ++ stopped
  let sp := { sp with stack := pushed ++ sp.stack, runOn := none, pc := r.pc }
  deliver s (g.setSplit sp) sp (if !pushed.isEmpty && 256 < sp.stack.length then { code := cSplitovf } else r.cause) r.pc r.faulting r.insn

/-- Raises a cause for the whole split at its instruction (R162); with lanes running on, these lanes are held instead (R37). -/
def raiseAt (s : State) (g : Group) (sp : Split) (c : Cause) (epc : CodeAddr) (insn : List Word) : State :=
  match sp.runOn with
  | some r =>
    let r := { r with heldLater := r.heldLater ++ [(sp.pc, sp.mask)] }
    finishRunOn s g { sp with mask := 0 } r
  | none => deliver s g sp c epc sp.mask insn
/-- Raises a cause whose return address is the instruction itself. -/
def raise (s : State) (g : Group) (sp : Split) (c : Cause) (insn : List Word) : State := raiseAt s g sp c sp.pc insn

/-! ### Issue: completing an instruction -/

/-- The split after its instruction of `len` bytes (R145): RETRY of that instruction is over (R390). -/
def Split.next (sp : Split) (len : Nat) : Split := { sp.completed with pc := sp.pc + BitVec.ofNat 54 len, fenceWait := none }
/-- Ends an instruction: the group as the instruction leaves it, the split past it. -/
def finish (s : State) (g : Group) (sp : Split) (len : Nat) : State := s.setGroup (g.setSplit (sp.next len))
/-- Parks a split at its instruction. -/
def parkAt (s : State) (g : Group) (sp : Split) (p : Park) : State := s.setGroup (g.setSplit { sp with status := .parked p })
/-- Stalls a split at its instruction (R363). -/
def stallAt (s : State) (g : Group) (sp : Split) (p : Stall) : State := s.setGroup (g.setSplit { sp with status := .stalled p })

/-- Lanes of one instruction that fault with another cause than its first (R37). -/
def sameCause (c : Cause) (f : Nat × Cause) : Bool := f.2.code == c.code && f.2.sub == c.sub
/-- Ends a lane-class instruction some of whose lanes faulted (R37). `g` and `sp` are as the good lanes leave them. -/
def settleFaults (s : State) (g : Group) (sp : Split) (faults : List (Nat × Cause)) (len : Nat) (insn : List Word) : State :=
  match faults with
  | [] => finish s g sp len
  | (_, c) :: _ =>
    let bad := maskOf (faults.map (·.1))
    let rest := maskDiff sp.mask bad
    match sp.runOn with
    | some r =>
      let r := { r with heldLater := r.heldLater ++ [(sp.pc, bad)] }
      if rest.toNat = 0 then finishRunOn s g { sp with mask := 0 } r
      else finish s g { sp with mask := rest, runOn := some r } len
    | none =>
      let same := maskOf ((faults.filter (sameCause c)).map (·.1))
      let others := maskDiff bad same
      let r : RunOn := { pc := sp.pc, cause := c, faulting := same, others := others, heldLater := [], insn := insn }
      if rest.toNat = 0 then finishRunOn s g { sp with mask := 0 } r
      else finish s g { sp.inHand c with mask := rest, runOn := some r } len

/-! ### Joins (R24) -/

/-- How far a scope reaches: team scope of a paired team is wider than core scope (R69, R71). -/
def scopeRank (paired : Bool) (sc : BitVec 4) : Nat := if sc.toNat = 2 && paired then 7 else 2 * sc.toNat
/-- The wider of two fence scopes. -/
def widerFence (paired : Bool) (old : Option (BitVec 4)) (sc : BitVec 4) : Option (BitVec 4) :=
  match old with
  | some o => some (if scopeRank paired o < scopeRank paired sc then sc else o)
  | none => some sc
/-- Whether a group's team stands on two cores. -/
def teamPaired (s : State) (g : Group) : Bool := match s.team? g.team with | some t => t.paired | none => false
/-- The release FENCE that lanes of several splits leave for a later strong store of theirs: the widest (R73). -/
def fenceOf (paired : Bool) (xs : List Split) : Option (BitVec 4) :=
  xs.foldl (fun o x => match x.relFence with | some b => widerFence paired o b | none => o) none
/-- What the lanes of several splits have read for a later acquire FENCE of theirs (R73). -/
def readsOf (xs : List Split) : List (Nat × Nat) := xs.foldl (fun a x => unionPairs a x.acqSig) []

/-- Merges the splits of a group whose tag is `a` once all of them are parked at the JOIN there. -/
def joinCheck (s : State) (uid : Nat) (a : CodeAddr) : State :=
  match s.group? uid with
  | none => s
  | some g =>
    let tagged := g.splits.filter (fun x => x.tag == some a)
    if tagged.isEmpty || !tagged.all (fun x => x.status == .parked .join && x.pc == a) then s
    else
      match tagged.foldl (fun (o : Option Split) x => match o with | none => some x | some y => if x.age < y.age then some x else o) none with
      | none => s
      | some old =>
        let rest := tagged.filter (fun x => x.slot != old.slot)
        let bad := rest.filter (fun x => !x.stack.isEmpty)
        let good := rest.filter (fun x => x.stack.isEmpty)
        let merged := { old with mask := good.foldl (fun (m : Mask) (x : Split) => m ||| x.mask) old.mask
                                 pend := old.pend ++ good.flatMap (fun (x : Split) => x.pend)
                                 relFence := fenceOf (teamPaired s g) (old :: good), acqSig := readsOf (old :: good)
                                 status := .ready, readySince := s.clock, aging := 0 }
        let merged := match merged.stack with
          | .outer j t :: st => if j == a then { merged with tag := t, stack := st } else { merged with tag := none }
          | _ => { merged with tag := none }
        let g := { g with splits := g.splits.filter (fun x => !good.any (fun y => y.slot == x.slot)) }
        let s := s.setGroup (g.setSplit (merged.next 4))
        bad.foldl (fun s x => match s.group? uid with
          | some g => raise s g { x with status := .ready } { code := cIllop } (encode (.join ⟨false, 7, false⟩))
          | none => s) s

/-! ### Barriers (R32) -/

/-- The live groups of a team. -/
def teamGroups (s : State) (team : Nat) : List Group := s.groups.filter (fun g => g.team == team)
/-- Cores a team runs on. -/
def teamCores (s : State) (team : Nat) : List Nat :=
  match s.team? team with
  | some t => if t.paired then [t.core, t.core + 1] else [t.core]
  | none => []
/-- BAR as an acq-rel fence at team scope: over a pair, each core acquires what the other releases (R32, R71, R84). -/
def barrierFence (s : State) (team : Nat) : State :=
  match teamCores s team with
  | [c] => dropScales s c
  | [c, d] => applySig (applySig s c (releaseLines s d)) d (releaseLines s c)
  | _ => s
/-- Releases barrier `id` of a team once every live group has arrived. -/
def barCheck (s : State) (team id : Nat) : State :=
  let gs := teamGroups s team
  if !gs.isEmpty && gs.all (fun g => g.splits.all (fun x => x.status == .parked (.bar id))) then
    let s := barrierFence s team
    { s with groups := s.groups.map (fun g => if g.team == team then
        { g with splits := g.splits.map (fun x => { x.next 4 with status := .ready, readySince := s.clock, aging := 0 }) } else g) }
  else s
/-- Tests the barriers of a team that some split waits at. -/
def barCheckAll (s : State) (team : Nat) : State := (upTo 16).foldl (fun s id => barCheck s team id) s

/-! ### Retiring (R18, R427) -/

/-- The split with this tag that has existed the longest, other than `slot`. -/
def oldestTagged (g : Group) (slot : Nat) (j : CodeAddr) : Option Split :=
  (g.splits.filter (fun x => x.slot != slot && x.tag == some j)).foldl
    (fun o x => match o with | none => some x | some y => if x.age < y.age then some x else o) none
/-- Works through the deferral stack of a split that has no lanes left (R427); a released entry leaves the group. An OUTER entry is handed on
whatever the depth of the stack it goes to: DESIGN CHOICE, R22's SPLITOVF is for a push, and R427 names none (log entry 90). -/
def unwind : Nat → Group → Split → Group
  | 0, g, sp => { g with splits := g.splits.filter (fun x => x.slot != sp.slot) }
  | n + 1, g, sp =>
    match sp.stack with
    | [] => { g with splits := g.splits.filter (fun x => x.slot != sp.slot) }
    | .defer _ m pc :: st => g.setSplit { sp with stack := st, mask := m, pc := pc, status := .ready }
    | .held pc m :: st => g.setSplit { sp with stack := st, mask := m, pc := pc, status := .ready }
    | .arrived j m :: st => g.setSplit { sp with stack := st, mask := m, pc := j, status := .ready }
    | .outer j t :: st =>
      let g := match oldestTagged g sp.slot j with
        | some o => g.setSplit { o with stack := o.stack ++ [.outer j t] }
        | none => g
      unwind n g { sp with stack := st, tag := t }
/-- The supervisor mark of a group falls, and level and user mark return as saved (R324). -/
def leaveSup (g : Group) (sp : Split) : Group × Split :=
  ({ g with sstatus := g.sstatus &&& 0x306#64, lxHand := none },
   { sp with inSup := false, owedSup := 0, pages := [], sup := g.sstatus.getLsbD 1, inUser := g.sstatus.getLsbD 2 })
/-- Whether a split waits for the handler of this level, or, at supervisor level, for a page fault that no other split has in hand. -/
def waitsFor (g : Group) (sup : Bool) (x : Split) : Bool :=
  match x.status with
  | .parked (.handler b) => b == sup
  | .parked (.page p) => sup && !pageInHand g x p
  | _ => false
/-- Splits that wait for a handler of this level become ready (R325, R384). -/
def wakeHandlers (s : State) (g : Group) (sup : Bool) : Group :=
  { g with splits := g.splits.map (fun x =>
      if waitsFor g sup x then { x with status := .ready, readySince := s.clock, aging := 0 } else x) }
/-- Retired handler lanes end the in-handler mark (R178). -/
def endMarks (s : State) (g : Group) (sp : Split) : Group × Split :=
  if sp.inSup then
    let r := leaveSup g sp
    (wakeHandlers s (r.1.setSplit r.2) true, r.2)
  else if sp.inUser then (wakeHandlers s g false, { sp with inUser := false, owedUser := 0 })
  else (g, sp)
/-- A group without live lanes retires; its team follows when it was the last; its lauter faults are posted (R18, R326). -/
def groupCheck (s : State) (uid : Nat) : State :=
  match s.group? uid with
  | none => s
  | some g =>
    if g.lanes.any (·.live) then s
    else
      let s := storeHeader { s with groups := s.groups.filter (fun x => x.uid != uid) } g 0
      let part := groupPart g
      let s := g.lxfaults.foldl (fun s f => postEvent s part 2 (2 * f.core + f.eng) f.cause.toNat f.record.toNat) s
      let s := returnUnit s part g.slot
      let s := s.modGrid g.grid (fun r =>
        if r.kind == .population then
          { r with images := r.images + 1,
                   reserve := r.reserve.filter (fun q => q.1 != g.core) ++ [(g.core, (lookupNat g.core r.reserve).getD 0 + 1)] }
        else r)
      if (teamGroups s g.team).isEmpty then
        let s := match s.team? g.team with
          | some t => t.units.foldl (fun s u => returnUnit s part u) s
          | none => s
        { s with teams := s.teams.filter (fun t => t.uid != g.team)
                 scratch := memClear s.scratch (g.team * 2 ^ 19) (2 ^ 19)
                 acc := memClear s.acc (g.team * 2 ^ 20) (2 ^ 20) }
      else barCheckAll s g.team
/-- The split's mask has changed by retirement: it goes on, ends its run-on, or unwinds; then joins, barriers and the group are
looked at. -/
def afterRetire (s : State) (g : Group) (sp : Split) : State :=
  if sp.mask.toNat != 0 then groupCheck (s.setGroup (g.setSplit sp)) g.uid
  else
    match sp.runOn with
    | some r => finishRunOn (s.setGroup (g.setSplit sp)) g sp r
    | none =>
      let m := endMarks s g sp
      let g := unwind (m.2.stack.length + 1) (m.1.setSplit m.2) m.2
      let s := s.setGroup g
      let s := g.splits.foldl (fun s x => match x.tag with | some a => joinCheck s g.uid a | none => s) s
      groupCheck (barCheckAll s g.team) g.uid
/-- Marks lanes of a group retired. -/
def killLanes (g : Group) (m : Mask) : Group := g.modLanes (lanesOf m) (fun _ x => { x with live := false })
/-- Retires lanes of a split that is past its instruction (R18, R178, R179). -/
def retireLanes (s : State) (g : Group) (sp : Split) (m : Mask) : State :=
  afterRetire s (killLanes g m) { sp with mask := maskDiff sp.mask m }
/-- Retires every lane of a group, wherever its splits stand (R391, R416). -/
def retireGroup (s : State) (uid : Nat) : State :=
  groupCheck (s.modGroup uid (fun g => { killLanes g (fullMask 64) with splits := [], gstate := .resident })) uid

/-! ### Returning from an exception (R182, R324, R401) -/

/-- The disposition word of an engine (R401), as the device reads it at its home. -/
def dispositionAddr (lxrbase : DWord) (core eng : Nat) : DWord := lxrbase + dw (0xC000 + 8 * (2 * core + eng))
/-- LXRBASE as it was at the LXSTART of a fault's program (R323). -/
def LxFault.base (f : LxFault) : DWord := f.record - dw (128 * (2 * f.core + f.eng))
/-- The lauter fault whose LXF trap the supervisor's ERET ends, if it is to be handed to the user handler (R401). -/
def lxfPassed (s : State) (g : Group) (sp : Split) : State × Option LxFault :=
  match g.lxHand with
  | none => (s, none)
  | some f =>
    match globalCheck s { splitCtx g sp with sup := true } needR (dispositionAddr f.base f.core f.eng) 8 with
    | (s, .ok (.plain pa _)) => let w := homeRead s pa 8; (s, if bits w 0 2 != 0 && bit w 2 && f.notify then some f else none)
    | (s, _) => (s, none)
/-- ERET (R182). ILLOP outside a handler, and at supervisor level outside the supervisor handler. An ERET that hands a lauter fault to the
user handler waits before it takes effect while another split is in that handler (R325, R401). -/
def returnFrom (s : State) (g : Group) (sp : Split) (insn : List Word) : State :=
  if sp.inSup then
    let r := lxfPassed s g sp
    let l := leaveSup g sp
    let sp1 := { l.2.completed with pc := codeAddr g.sepc }
    let g1 := wakeHandlers s (l.1.setSplit sp1) true
    match r.2 with
    | none => r.1.setGroup g1
    | some f =>
      if !g.utvec.getLsbD 0 || sp1.inUser then r.1.setGroup g1
      else if handlerBusy g1 sp.slot false then parkHandler s g sp sp.mask false
      else
        let g2 := enterUser g1 sp1 { code := cLxfault, addr := f.record, lxf := true } (codeAddr g.sepc) sp1.mask [] (pendingBits s g1 sp1)
        storeFrame (r.1.setGroup g2) g2 false
  else if sp.inUser && !sp.sup then
    s.setGroup (wakeHandlers s (g.setSplit { sp.completed with inUser := false, pc := codeAddr g.utepc, owedUser := 0 }) false)
  else raise s g sp { code := cIllop } insn

/-! ### The frame of an issue -/

/-- Instructions before which running-on lanes stop (R37); a W = 1 instruction is another. -/
def stopPoint (i : Instr) : Bool :=
  match i with
  | .join _ | .bar _ _ | .waitc _ _ | .brd _ _ | .sleep _ _ | .rack _ _ | .resamp _ _ => true
  | _ => false

/-- The split the current instruction is executed by. -/
def State.current? (s : State) : Option (Group × Split) :=
  match s.actor with
  | .split r => s.split? r
  | _ => none

/-- No V register at or beyond the kernel's declared count is named (R152). -/
def vOk (g : Group) (i : Instr) : Bool := (vUses i).all (fun u => u.1 + u.2 ≤ g.vregs)

/-- What comes before an instruction's own effect, in this order: running-on lanes stop (R37), W parks (R28, R146), an illegal
encoding raises ILLOP (R152), a privileged use below supervisor level whose guard holds raises PRIV (R146, R153). -/
def beforeEffect (i : Instr) (h : Hdr) (legal priv : Bool) (s : State) (g : Group) (sp : Split) (k : State) : State :=
  if sp.runOn.isSome && (stopPoint i || h.w) then
    match sp.runOn with
    | some r => finishRunOn s g sp r
    | none => s
  else if h.w && !sp.pend.isEmpty then parkAt s g sp .results
  else if !(i.wellFormed && vOk g i && legal) then raise s g sp { code := cIllop } (encode i)
  else if priv then raise s g sp { code := cPriv } (encode i)
  else k

/-- Runs an instruction that executes once for the split, under its K guard (R146, R161). -/
def asUniform (i : Instr) (h : Hdr) (len : Nat) (legal priv : Group → Split → Bool) (body : State → Group → Split → State)
    (s : State) : Host.Outcome State Fault Refusal :=
  match s.current? with
  | none => .fault .noAgent
  | some (g, sp) =>
    -- a guarded-off instruction takes no trap but those of R152 (R146)
    .next (beforeEffect i h (legal g sp) (priv g sp && g.kGuard h) s g sp (if g.kGuard h then body s g sp else finish s g sp len))

/-- Runs a lane-class instruction for the active lanes (R146). -/
def asLanes (i : Instr) (h : Hdr) (legal : Group → Split → Bool) (body : State → Group → Split → List Nat → State) (s : State) :
    Host.Outcome State Fault Refusal :=
  match s.current? with
  | none => .fault .noAgent
  | some (g, sp) =>
    .next (beforeEffect i h (legal g sp) false s g sp
      (if (activeLanes g sp h).isEmpty then finish s g sp 12 else body s g sp (activeLanes g sp h)))

/-- Holds issue while a 17th register-writing operation or a 64th operation on the path would be outstanding (R29, R31). -/
def withRoom (reg : Bool) (path : Option Nat) (s : State) (g : Group) (sp : Split) (k : State) : State :=
  if reg && sp.pend.length ≥ 16 then stallAt s g sp .results
  else
    match path with
    | some p => if g.counter p ≥ 63 then stallAt s g sp (.counter p) else k
    | none => k

/-- A variable-latency result (R27): the writes become outstanding, and the split goes on. -/
def finishLater (s : State) (g : Group) (sp : Split) (ws : List RegWrite) (len : Nat) : State :=
  let f := s.fresh
  finish f.2 g (sp.addPend f.1 ws) len

end Sys2Proof.Machine
end

