-- ==== Sys2Proof/Machine/Operands.lean ====
section
/-! DEFINITION. Operand forms: opB of the short formats (R163), operands A, B and C of the ALU class with their sources, absolute
value and negation (R150, R185, R187), immediates, packed elements, and the address of a memory-class lane (R151). -/

namespace Sys2Proof.Machine

/-- opB (R163). -/
def opB (g : Group) (f : SRF) : DWord := if f.i then f.b.zeroExtend 64 else g.sReg f.b.toNat

/-- binary32 widened exactly to binary64 (R150), bit by bit. -/
def widen32 (x : Nat) : Nat :=
  let s := bits x 31 1; let e := bits x 23 8; let m := bits x 0 23
  if e = 255 then s * 2 ^ 63 + 2047 * 2 ^ 52 + m * 2 ^ 29
  else if e = 0 then
    if m = 0 then s * 2 ^ 63
    else
      let k := m.log2
      s * 2 ^ 63 + (k + 1023 - 149) * 2 ^ 52 + (m - 2 ^ k) * 2 ^ (52 - k)
  else s * 2 ^ 63 + (e + 1023 - 127) * 2 ^ 52 + m * 2 ^ 29

/-- The immediate X as a value of the type (R150). -/
def immOf (ty : BitVec 5) (x : BitVec 32) : Nat :=
  match ty.toNat with
  | 7 => x.toNat
  | 8 | 21 => (x.signExtend 64).toNat
  | 12 => widen32 x.toNat
  | _ => x.toNat % 2 ^ tyBits ty

/-- Absolute value, then negation, of a value of the type (R150). -/
def modify (ty : BitVec 5) (neg abs : Bool) (v : Nat) : Nat :=
  let w := tyBits ty
  if tyFloat ty then
    let v := if abs then v % 2 ^ (w - 1) else v
    if neg then (v + 2 ^ (w - 1)) % 2 ^ w else v
  else if neg then (2 ^ w - v % 2 ^ w) % 2 ^ w else v

/-- Operand A before modifiers: S[A] or V[A], the low bits of the type (R150, R187). -/
def rawA (g : Group) (l : Nat) (ty : BitVec 5) (f : LongF) : Nat :=
  (if f.mo.getLsbD 0 then (g.sReg f.a.toNat).toNat else (g.lane l).vNat f.a.toNat (tyRegs ty)) % 2 ^ tyBits ty
/-- Operand B before modifiers: S[B], X or V[B]. -/
def rawB (g : Group) (l : Nat) (ty : BitVec 5) (f : LongF) : Nat :=
  if f.mo.getLsbD 2 then immOf ty f.x
  else (if f.mo.getLsbD 1 then (g.sReg f.b.toNat).toNat else (g.lane l).vNat f.b.toNat (tyRegs ty)) % 2 ^ tyBits ty
/-- Operand C before modifiers: V[C]. -/
def rawC (g : Group) (l : Nat) (ty : BitVec 5) (f : LongF) : Nat := (g.lane l).vNat f.c.toNat (tyRegs ty) % 2 ^ tyBits ty

/-- srcA(l) of the type (R160). -/
def srcAT (ty : BitVec 5) (g : Group) (l : Nat) (f : LongF) : Nat := modify ty (f.sc.getLsbD 0) (f.sc.getLsbD 3) (rawA g l ty f)
def srcBT (ty : BitVec 5) (g : Group) (l : Nat) (f : LongF) : Nat := modify ty (f.sc.getLsbD 1) false (rawB g l ty f)
def srcCT (ty : BitVec 5) (g : Group) (l : Nat) (f : LongF) : Nat := modify ty (f.sc.getLsbD 2) false (rawC g l ty f)
def srcA (g : Group) (l : Nat) (f : LongF) : Nat := srcAT f.ty g l f
def srcB (g : Group) (l : Nat) (f : LongF) : Nat := srcBT f.ty g l f
def srcC (g : Group) (l : Nat) (f : LongF) : Nat := srcCT f.ty g l f

/-- A 32-bit count or control in operand B, negated when SC bit 1 is set (R188; log entry 12). -/
def srcB32 (g : Group) (l : Nat) (f : LongF) : Nat :=
  let v := if f.mo.getLsbD 2 then f.x.toNat
    else if f.mo.getLsbD 1 then (g.sReg f.b.toNat).toNat % 2 ^ 32 else ((g.lane l).vReg f.b.toNat).toNat
  if f.sc.getLsbD 1 then (2 ^ 32 - v) % 2 ^ 32 else v

/-- The 32-bit words of operands A, B and C, for packed elements (R101, R205). -/
def wordA (g : Group) (l : Nat) (f : LongF) : Nat :=
  if f.mo.getLsbD 0 then (g.sReg f.a.toNat).toNat % 2 ^ 32 else ((g.lane l).vReg f.a.toNat).toNat
def wordB (g : Group) (l : Nat) (f : LongF) : Nat :=
  if f.mo.getLsbD 2 then f.x.toNat
  else if f.mo.getLsbD 1 then (g.sReg f.b.toNat).toNat % 2 ^ 32 else ((g.lane l).vReg f.b.toNat).toNat
def wordC (g : Group) (l : Nat) (f : LongF) : Nat := ((g.lane l).vReg f.c.toNat).toNat
/-- Element `e` of a packed pair, with its modifiers. -/
def pairA (g : Group) (l : Nat) (ty : BitVec 5) (f : LongF) (e : Nat) : Nat :=
  modify ty (f.sc.getLsbD 0) (f.sc.getLsbD 3) (bits (wordA g l f) (16 * e) 16)
def pairB (g : Group) (l : Nat) (ty : BitVec 5) (f : LongF) (e : Nat) : Nat :=
  modify ty (f.sc.getLsbD 1) false (bits (wordB g l f) (16 * e) 16)
def pairC (g : Group) (l : Nat) (ty : BitVec 5) (f : LongF) (e : Nat) : Nat :=
  modify ty (f.sc.getLsbD 2) false (bits (wordC g l f) (16 * e) 16)

/-- The index of a memory-class lane (R151). -/
def laneIndex (g : Group) (l : Nat) (f : LongF) : DWord :=
  if f.sat then 0
  else if f.c.getLsbD 2 then dw ((g.lane l).vNat f.a.toNat 2)
  else if f.c.getLsbD 3 then sx32 ((g.lane l).vReg f.a.toNat)
  else zx ((g.lane l).vReg f.a.toNat)
/-- The address of a lane with displacement X (R151). -/
def laneAddr (g : Group) (l : Nat) (f : LongF) : DWord := g.sReg f.b.toNat + laneIndex g l f + sx32 f.x
/-- The address of a lane without displacement (R219). -/
def laneAddr0 (g : Group) (l : Nat) (f : LongF) : DWord := g.sReg f.b.toNat + laneIndex g l f
/-- The space of a memory-class instruction (R48). -/
def spaceOf (n : Nat) : Space := match n % 4 with | 0 => .global | 1 => .scratch | 2 => .cluster | _ => .die

/-- Where a lane's result goes: `n` registers of V[D] from a number (R102, R187). -/
def putD (f : LongF) (n v : Nat) (x : Lane) : Lane := x.setVNat f.d.toNat n v

end Sys2Proof.Machine
end

