-- ==== Sys2Proof/Machine/Flags.lean ====
section
/-! DEFINITION. The conditions that write K and P registers: SCMP (R167), KLOP (R168), ICMP (R192), FCMP (R200), truth tables
(R190, R197), votes (R215). The Akzan has no flag register: these one-bit registers are its flags. -/

namespace Sys2Proof.Machine

/-- The condition of SCMP (R167). -/
def scmpHolds (code : Nat) (a b : DWord) : Bool :=
  match code with
  | 0 => a == b
  | 1 => a != b
  | 2 => decide (a.toInt < b.toInt)
  | 3 => decide (b.toInt ≤ a.toInt)
  | 4 => decide (a.toNat < b.toNat)
  | 5 => decide (b.toNat ≤ a.toNat)
  | 6 => (a &&& b) != 0
  | _ => (a &&& b) == 0

/-- The function of KLOP (R168). -/
def klopFn (code : Nat) (a b : Bool) : Bool :=
  match code with
  | 0 => a && b
  | 1 => a || b
  | 2 => xor a b
  | 3 => a && !b
  | 4 => a || !b
  | 5 => !(a && b)
  | 6 => !(a || b)
  | _ => !(xor a b)

/-- The condition of ICMP on values of the type (R150, R192). -/
def icmpHolds (code : Nat) (ty : BitVec 5) (a b : Nat) : Bool :=
  match code with
  | 0 => a == b
  | 1 => a != b
  | 2 => decide (intVal ty a < intVal ty b)
  | 3 => decide (intVal ty a ≤ intVal ty b)
  | 4 => decide (intVal ty a > intVal ty b)
  | 5 => decide (intVal ty a ≥ intVal ty b)
  | 6 => (a &&& b) != 0
  | _ => (a &&& b) == 0

/-- The sign of a − b for two values neither of which is NaN: zeros are equal. -/
def fcompare (a b : FVal) : Int :=
  match a, b with
  | .inf s, .inf t => if s == t then 0 else if s then -1 else 1
  | .inf s, _ => if s then -1 else 1
  | _, .inf t => if t then 1 else -1
  | a, b => (alignTo (min a.exp b.exp) a - alignTo (min a.exp b.exp) b).sign
/-- The condition of FCMP (R150, R200). -/
def fcmpHolds (code : Nat) (a b : FVal) : Bool :=
  let un := a.isNan || b.isNan
  let c := fcompare a b
  match code with
  | 0 => !un && c == 0
  | 1 => !un && c != 0
  | 2 => !un && c < 0
  | 3 => !un && c ≤ 0
  | 4 => !un && c > 0
  | 5 => !un && c ≥ 0
  | 6 => un
  | _ => !un

/-- The bit of an eight-bit truth table for three inputs (R190, R197). -/
def truthBit (table : Nat) (a b c : Bool) : Bool := bit table (4 * b2n c + 2 * b2n b + b2n a)
/-- A truth table applied to the low `w` bits of three numbers (R190). -/
def truthBits (table a b c : Nat) : Nat → Nat
  | 0 => 0
  | w + 1 => truthBits table a b c w + 2 ^ w * b2n (truthBit table (bit a w) (bit b w) (bit c w))

/-- Lanes of a list in which P[n] holds. -/
def lanesWith (g : Group) (ls : List Nat) (n : Nat) : List Nat := ls.filter (fun l => (g.lane l).pReg n)

end Sys2Proof.Machine
end

