-- ==== Sys2Proof/Machine/Uniform.lean ====
section
/-! DEFINITION. Uniform instructions: integers, constants, comparisons and special registers (R161 to R170, R183, R184). -/

namespace Sys2Proof.Machine

/-! ### Shared shapes -/

def always (_ : Group) (_ : Split) : Bool := true
def never (_ : Group) (_ : Split) : Bool := false

/-- An instruction that leaves group and split as `f` says and goes on. -/
def uniformWrite (i : Instr) (h : Hdr) (f : Group → Group) (s : State) : Host.Outcome State Fault Refusal :=
  asUniform i h 4 always never (fun s g sp => finish s (f g) sp 4) s

/-- A shift count of 64 or more. -/
def bigShift (b : DWord) : Bool := 64 ≤ b.toNat
/-- The result of SMOV to SMAX (R165), by opcode. -/
def uniformAlu (op : Nat) (a b : DWord) : DWord :=
  match op with
  | 0x01 => b
  | 0x04 => a + b
  | 0x05 => a - b
  | 0x06 => a * b
  | 0x07 => dw (a.toNat * b.toNat / 2 ^ 64)
  | 0x08 => a &&& b
  | 0x09 => a ||| b
  | 0x0A => a ^^^ b
  | 0x0B => if bigShift b then 0 else a <<< b.toNat
  | 0x0C => if bigShift b then 0 else a >>> b.toNat
  | 0x0D => if bigShift b then (if a.getLsbD 63 then -1#64 else 0) else a.sshiftRight b.toNat
  | 0x0E => if a.toInt < b.toInt then a else b
  | _ => if a.toInt > b.toInt then a else b
/-- Writes the result of a two-source operation to S[D]. -/
def aluWrite (op : Nat) (f : SRF) (g : Group) : Group := g.setS f.d.toNat (uniformAlu op (g.sReg f.a.toNat) (opB g f))

/-! ### R165, R166 -/

def execNop (h : Hdr) (s : State) : Host.Outcome State Fault Refusal := uniformWrite (.nop h) h (fun g => g) s
def execSmov (h : Hdr) (f : SRF) (s : State) : Host.Outcome State Fault Refusal := uniformWrite (.smov h f) h (aluWrite 0x01 f) s
def execSadd (h : Hdr) (f : SRF) (s : State) : Host.Outcome State Fault Refusal := uniformWrite (.sadd h f) h (aluWrite 0x04 f) s
def execSsub (h : Hdr) (f : SRF) (s : State) : Host.Outcome State Fault Refusal := uniformWrite (.ssub h f) h (aluWrite 0x05 f) s
def execSmul (h : Hdr) (f : SRF) (s : State) : Host.Outcome State Fault Refusal := uniformWrite (.smul h f) h (aluWrite 0x06 f) s
def execSmulh (h : Hdr) (f : SRF) (s : State) : Host.Outcome State Fault Refusal := uniformWrite (.smulh h f) h (aluWrite 0x07 f) s
def execSand (h : Hdr) (f : SRF) (s : State) : Host.Outcome State Fault Refusal := uniformWrite (.sand h f) h (aluWrite 0x08 f) s
def execSor (h : Hdr) (f : SRF) (s : State) : Host.Outcome State Fault Refusal := uniformWrite (.sor h f) h (aluWrite 0x09 f) s
def execSxor (h : Hdr) (f : SRF) (s : State) : Host.Outcome State Fault Refusal := uniformWrite (.sxor h f) h (aluWrite 0x0A f) s
def execSshl (h : Hdr) (f : SRF) (s : State) : Host.Outcome State Fault Refusal := uniformWrite (.sshl h f) h (aluWrite 0x0B f) s
def execSshr (h : Hdr) (f : SRF) (s : State) : Host.Outcome State Fault Refusal := uniformWrite (.sshr h f) h (aluWrite 0x0C f) s
def execSsra (h : Hdr) (f : SRF) (s : State) : Host.Outcome State Fault Refusal := uniformWrite (.ssra h f) h (aluWrite 0x0D f) s
def execSmin (h : Hdr) (f : SRF) (s : State) : Host.Outcome State Fault Refusal := uniformWrite (.smin h f) h (aluWrite 0x0E f) s
def execSmax (h : Hdr) (f : SRF) (s : State) : Host.Outcome State Fault Refusal := uniformWrite (.smax h f) h (aluWrite 0x0F f) s

def execSli (h : Hdr) (f : SIF) (s : State) : Host.Outcome State Fault Refusal :=
  uniformWrite (.sli h f) h (fun g => g.setS f.d.toNat (f.imm.signExtend 64)) s
def execSshi (h : Hdr) (f : SIF) (s : State) : Host.Outcome State Fault Refusal :=
  uniformWrite (.sshi h f) h (fun g => g.setS f.d.toNat ((g.sReg f.d.toNat) <<< (13 : Nat) ||| f.imm.zeroExtend 64)) s

/-! ### R167 to R169 -/

def execScmp (h : Hdr) (f : SRF) (s : State) : Host.Outcome State Fault Refusal :=
  uniformWrite (.scmp h f) h
    (fun g => g.setK (f.d.toNat % 8) (scmpHolds (f.d.toNat / 8) (g.sReg f.a.toNat) (opB g f))) s
def execKlop (h : Hdr) (f : SRF) (s : State) : Host.Outcome State Fault Refusal :=
  uniformWrite (.klop h f) h
    (fun g => g.setK (f.d.toNat % 8) (klopFn (f.b.toNat / 8) (g.kReg (f.a.toNat % 8)) (g.kReg (f.b.toNat % 8)))) s
def execSpopc (h : Hdr) (f : SRF) (s : State) : Host.Outcome State Fault Refusal :=
  uniformWrite (.spopc h f) h (fun g => g.setS f.d.toNat (dw (popcount 64 (g.sReg f.a.toNat).toNat))) s
def execSclz (h : Hdr) (f : SRF) (s : State) : Host.Outcome State Fault Refusal :=
  uniformWrite (.sclz h f) h (fun g => g.setS f.d.toNat (dw (64 - bitLen (g.sReg f.a.toNat).toNat))) s

/-! ### Special registers (R156, R170, R322) -/

/-- Numbers with an assignment: 0x00 to 0x25 and 0x80 to 0x88. -/
def srAssigned (n : Nat) : Bool := n ≤ 0x25 || (0x80 ≤ n && n ≤ 0x88)
/-- Numbers an SWR may name: the RW registers; SCAUSE and PARTID, whose fields are all RO, only below supervisor level, where PRIV
comes of them (R156). -/
def swrAssigned (n : Nat) (sup : Bool) : Bool :=
  [0x07, 0x08, 0x0A, 0x14, 0x15, 0x1B, 0x80, 0x82, 0x83, 0x84, 0x85, 0x87, 0x88].contains n || (!sup && (n == 0x81 || n == 0x86))
/-- The value of uniform special register `n` for a split. -/
def srRead (s : State) (g : Group) (sp : Split) (n : Nat) : DWord :=
  let grid := (s.grid? g.grid).getD { uid := 0 }
  let team := (s.team? g.team).getD { uid := 0, grid := 0 }
  let pop (v : DWord) : DWord := if grid.kind == .population then v else 0
  match n with
  | 0x00 => dw g.groupid
  | 0x01 => dw team.teamid
  | 0x02 => zx grid.gridid
  | 0x03 => dw g.width
  | 0x04 => sp.mask
  | 0x05 => dw g.splits.length
  | 0x06 => s.clock
  | 0x07 => g.timecmp
  | 0x08 => g.utvec
  | 0x09 => g.utcause
  | 0x0A => g.utepc
  | 0x0B => g.faultmask
  | 0x0C => g.faultaddr
  | 0x0D => g.kernarg
  | 0x0E => dw grid.nt
  | 0x0F => dw team.groups
  | 0x10 => pop (zx grid.popsize)
  | 0x11 => pop (zx grid.popgen)
  | 0x12 => pop grid.popseed
  | 0x13 => pop (zx grid.popcap)
  | 0x14 => g.scbase
  | 0x15 => g.scshift
  | 0x16 => dw g.core
  | 0x17 => dw (pairOf g.core)
  | 0x18 => dw (clusterOf g.core)
  | 0x19 => dw (dieOf g.core)
  | 0x1A => zx s.devid
  | 0x1B => g.wkey
  | 0x24 => dw team.scratch
  | 0x25 => dw (roundUp grid.priv 16)
  | 0x80 => g.stvec
  | 0x81 => g.scause
  | 0x82 => g.sepc
  | 0x83 => g.sstatus
  | 0x84 => g.ptroot
  | 0x85 => g.asid
  | 0x86 => g.partid
  | 0x87 => g.sscratch
  | 0x88 => g.lxrbase
  | n => dw (g.counter (n - 0x1C))
/-- A write of TIMECMP arms TIMER anew: the split has not taken it, and none is left from before a handler (R36, R388). -/
def Split.rearm (sp : Split) : Split := { sp with timerTaken := false, owedUser := sp.owedUser &&& 11#4, owedSup := sp.owedSup &&& 11#4 }
/-- Writes the RW fields of uniform special register `n`; RO fields and reserved bits are ignored (R4, R6). -/
def srWrite (g : Group) (n : Nat) (v : DWord) : Group :=
  match n with
  | 0x07 => { g with timecmp := v, splits := g.splits.map Split.rearm }
  | 0x08 => { g with utvec := v &&& 0x003FFFFFFFFFFFFD#64 }
  | 0x0A => { g with utepc := pcField v }
  | 0x14 => { g with scbase := v }
  | 0x15 => { g with scshift := if (v &&& 63#64).toNat > 40 then 40 else v &&& 63#64 }
  | 0x1B => { g with wkey := v }
  | 0x80 => { g with stvec := pcField v }
  | 0x82 => { g with sepc := pcField v }
  | 0x83 => { g with sstatus := (v &&& 0x306#64) ||| (g.sstatus &&& 1#64) }
  | 0x84 => { g with ptroot := v }
  | 0x85 => { g with asid := v &&& 0xFFFF#64 }
  | 0x87 => { g with sscratch := v }
  | 0x88 => { g with lxrbase := v &&& 0x003FFFFFFFFF0000#64 }
  | _ => g

def execSrd (h : Hdr) (f : SIF) (s : State) : Host.Outcome State Fault Refusal :=
  asUniform (.srd h f) h 4 (fun _ _ => srAssigned f.imm.toNat) (fun _ sp => 0x80 ≤ f.imm.toNat && !sp.sup)
    (fun s g sp => finish s (g.setS f.d.toNat (srRead s g sp f.imm.toNat)) sp 4) s
/-- The split after an SWR: TIMECMP rearms TIMER for every split of the group, the executing one included (R36). -/
def swrSplit (n : Nat) (sp : Split) : Split := if n = 0x07 then sp.rearm else sp
def execSwr (h : Hdr) (f : SIF) (s : State) : Host.Outcome State Fault Refusal :=
  asUniform (.swr h f) h 4 (fun _ sp => swrAssigned f.imm.toNat sp.sup)
    (fun _ sp => (0x80 ≤ f.imm.toNat || f.imm.toNat == 0x1B) && !sp.sup)
    (fun s g sp => finish s (srWrite g f.imm.toNat (g.sReg f.d.toNat)) (swrSplit f.imm.toNat sp) 4) s

/-! ### YIELD and SLEEP (R183, R184) -/

/-- The split becomes the youngest of its level: its waiting age starts now (R364). -/
def yieldTo (s : State) (g : Group) (sp : Split) : State := finish s g { sp with readySince := s.clock, aging := 0 } 4
def execYield (h : Hdr) (s : State) : Host.Outcome State Fault Refusal := asUniform (.yield h) h 4 always never yieldTo s
def execSleep (h : Hdr) (f : SRF) (s : State) : Host.Outcome State Fault Refusal :=
  asUniform (.sleep h f) h 4 always never
    (fun s g sp =>
      let n := (g.sReg f.a.toNat).toNat
      if n = 0 then yieldTo s g sp
      else parkAt s g sp (.sleep (dw (min (s.clock.toNat + n) (2 ^ 64 - 1))))) s

end Sys2Proof.Machine
end

