-- ==== Sys2Proof/Machine/Control.lean ====
section
/-! DEFINITION. Control flow: branches and calls (R175), BRD and JOIN (R23, R24, R176, R177), EXIT, LEXIT, ELECT (R178 to R180), traps
and return (R181, R182). -/

namespace Sys2Proof.Machine

/-! ### Branches (R175) -/

/-- The split at a new PC; the instruction is complete. -/
def Split.goto (sp : Split) (pc : CodeAddr) : Split := { sp.next 0 with pc := pc }
/-- PC + 4 + 4 · sext(off19). -/
def branchTarget (sp : Split) (f : SBF) : CodeAddr := sp.pc + 4#54 + (f.off.signExtend 54) * 4#54

def execJmp (h : Hdr) (f : SBF) (s : State) : Host.Outcome State Fault Refusal :=
  asUniform (.jmp h f) h 4 always never (fun s g sp => s.setGroup (g.setSplit (sp.goto (branchTarget sp f)))) s
def execCall (h : Hdr) (f : SBF) (s : State) : Host.Outcome State Fault Refusal :=
  asUniform (.call h f) h 4 always never
    (fun s g sp => s.setGroup ((g.setS 63 (pcWord (sp.pc + 4#54))).setSplit (sp.goto (branchTarget sp f)))) s
/-- JR's target is checked before the link is written. -/
def jumpReg (h : Hdr) (f : SRF) (s : State) (g : Group) (sp : Split) : State :=
  let t := g.sReg f.a.toNat
  if t.toNat % 4 != 0 then raise s g sp (causeAt cAlign 0 t.toNat) (encode (.jr h f))
  else if 2 ^ 54 ≤ t.toNat then raise s g sp (causeAt cPage 0 t.toNat) (encode (.jr h f))
  else s.setGroup ((g.setS f.d.toNat (pcWord (sp.pc + 4#54))).setSplit (sp.goto (codeAddr t)))
def execJr (h : Hdr) (f : SRF) (s : State) : Host.Outcome State Fault Refusal :=
  asUniform (.jr h f) h 4 always never (jumpReg h f) s

/-! ### JOIN (R24) -/

/-- Parks a split at its JOIN and merges if every split of the tag is there. -/
def joinPark (s : State) (g : Group) (sp : Split) : State :=
  joinCheck (parkAt s g sp .join) g.uid sp.pc
/-- JOIN once no ARRIVED entry of its address is on top (case 3 and case 4). -/
def joinTag (s : State) (g : Group) (sp : Split) : State :=
  if sp.tag == some sp.pc then joinPark s g sp else finish s g sp 4
/-- The four cases of JOIN. -/
def joinHere (s : State) (g : Group) (sp : Split) : State :=
  match sp.stack with
  | .defer a m pc :: st =>
    if a == sp.pc then s.setGroup (g.setSplit { sp.goto pc with stack := .arrived a sp.mask :: st, mask := m })
    else joinTag s g sp
  | .arrived a m :: st =>
    if a == sp.pc then joinTag s g { sp with mask := sp.mask ||| m, stack := st } else joinTag s g sp
  | _ => joinTag s g sp
def execJoin (h : Hdr) (s : State) : Host.Outcome State Fault Refusal := asUniform (.join h) h 4 always never joinHere s

/-! ### EXIT and LEXIT (R178, R179) -/

/-- Retires lanes of a split and takes it past the instruction. -/
def exitLanes (s : State) (g : Group) (sp : Split) (m : Mask) (len : Nat) : State := retireLanes s g (sp.next len) m
def execExit (h : Hdr) (s : State) : Host.Outcome State Fault Refusal :=
  asUniform (.exit h) h 4 always never (fun s g sp => exitLanes s g sp sp.mask 4) s
def execLexit (h : Hdr) (f : LongF) (s : State) : Host.Outcome State Fault Refusal :=
  asLanes (.lexit h f) h always (fun s g sp ls => exitLanes s g sp (maskOf ls) 12) s

/-! ### Traps and return (R181, R182) -/

/-- A trap instruction: it is complete when its trap is taken, which returns past it. -/
def trapInstr (s : State) (g : Group) (sp : Split) (c : Cause) (i : Instr) : State := raiseAt s g sp c (sp.pc + 4#54) (encode i)
def execTrap (h : Hdr) (f : SIF) (s : State) : Host.Outcome State Fault Refusal :=
  asUniform (.trap h f) h 4 always never
    (fun s g sp => trapInstr s g sp { code := cTrapi, sub := BitVec.ofNat 8 f.imm.toNat } (.trap h f)) s
def execSyscall (h : Hdr) (f : SIF) (s : State) : Host.Outcome State Fault Refusal :=
  asUniform (.syscall h f) h 4 always never
    (fun s g sp => trapInstr s g sp { code := cSyscall, sysCode := f.imm } (.syscall h f)) s
def execEret (h : Hdr) (s : State) : Host.Outcome State Fault Refusal :=
  asUniform (.eret h) h 4 always never (fun s g sp => returnFrom s g sp (encode (.eret h))) s

/-! ### BRD (R23, R176) -/

/-- T and J: signed offsets from the BRD. -/
def brdTarget (sp : Split) (f : LongF) : CodeAddr := sp.pc + f.x.signExtend 54
def brdJoin (sp : Split) (f : LongF) : CodeAddr := sp.pc + ((f.d ++ f.a).signExtend 54) * 4#54
/-- The lowest free split entry of a group. -/
def freeSlot (g : Group) : Nat := (((upTo 4).filter (fun k => g.splits.all (fun x => x.slot != k))).head?).getD 4
/-- A mixed BRD: a new split while fewer than four are live, else a DEFER entry. The new split is in no handler and has not taken TIMER
(R34, R36; log entry 47). -/
def divide (i : Instr) (f : LongF) (s : State) (g : Group) (sp : Split) (taking : Mask) : State :=
  let others := maskDiff sp.mask taking
  let next := sp.next 12
  if g.splits.length < 4 then
    let new : Split := { slot := freeSlot g, age := g.nextAge, pc := brdTarget sp f, mask := taking, tag := some (brdJoin sp f),
                         sup := sp.sup, relFence := sp.relFence, acqSig := sp.acqSig, readySince := s.clock }
    let old := { next with stack := .outer (brdJoin sp f) sp.tag :: sp.stack, tag := some (brdJoin sp f), mask := others }
    if 256 ≤ sp.stack.length then raise s g sp { code := cSplitovf } (encode i)
    else s.setGroup { g.setSplit old with splits := (g.setSplit old).splits ++ [new], nextAge := g.nextAge + 1 }
  else if 256 ≤ sp.stack.length then raise s g sp { code := cSplitovf } (encode i)
  else
    s.setGroup (g.setSplit { sp.goto (brdTarget sp f) with
      stack := .defer (brdJoin sp f) others next.pc :: sp.stack, mask := taking })
def branchDivide (i : Instr) (f : LongF) (s : State) (g : Group) (sp : Split) (ls : List Nat) : State :=
  if maskOf ls == sp.mask then s.setGroup (g.setSplit (sp.goto (brdTarget sp f)))
  else if !sp.pend.isEmpty then parkAt s g sp .results
  else divide i f s g sp (maskOf ls)
def execBrd (h : Hdr) (f : LongF) (s : State) : Host.Outcome State Fault Refusal :=
  asLanes (.brd h f) h always (branchDivide (.brd h f) f) s

/-! ### ELECT (R180) -/

def execElect (h : Hdr) (f : LongF) (s : State) : Host.Outcome State Fault Refusal :=
  asLanes (.elect h f) h always
    (fun s g sp ls => finish s (g.modLanes ls (fun l x => x.setP f.d.toNat (some l == ls.head?))) sp 12) s

end Sys2Proof.Machine
end

