-- ==== Sys2Proof/Machine/Integer.lean ====
section
/-! DEFINITION. Integer, logic and predicate instructions of the lanes (R188 to R197). -/

namespace Sys2Proof.Machine

/-! ### Shared shapes -/

/-- A fixed-latency instruction that changes each active lane by itself: every source is read from the group as it was (R160). -/
def laneWrite (i : Instr) (h : Hdr) (legal : Group → Split → Bool) (f : Group → Nat → Lane → Lane) (s : State) :
    Host.Outcome State Fault Refusal :=
  asLanes i h legal (fun s g sp ls => finish s (g.modLanes ls (f g)) sp 12) s
/-- A fixed-latency result of the type in V[D] (R102, R187). -/
def laneResult (i : Instr) (h : Hdr) (f : LongF) (v : Group → Nat → Nat) (s : State) : Host.Outcome State Fault Refusal :=
  laneWrite i h always (fun g l x => putD f (tyRegs f.ty) (regImage f.ty (v g l)) x) s
/-- A variable-latency result of the type in V[D] of each active lane (R27, R186). -/
def laneLater (i : Instr) (h : Hdr) (f : LongF) (v : Group → Nat → Nat) (s : State) : Host.Outcome State Fault Refusal :=
  asLanes i h always (fun s g sp ls => withRoom true none s g sp
    (finishLater s g sp (ls.flatMap (fun l => vWrites l f.d.toNat (tyRegs f.ty) (regImage f.ty (v g l)))) 12)) s
/-- Operands as integers of the type. -/
def intA (g : Group) (l : Nat) (f : LongF) : Int := intVal f.ty (srcA g l f)
def intB (g : Group) (l : Nat) (f : LongF) : Int := intVal f.ty (srcB g l f)
def intC (g : Group) (l : Nat) (f : LongF) : Int := intVal f.ty (srcC g l f)
/-- An exact integer fitted to the type, clamped with SAT (R189). -/
def intResult (i : Instr) (h : Hdr) (f : LongF) (v : Group → Nat → Int) (s : State) : Host.Outcome State Fault Refusal :=
  laneResult i h f (fun g l => fitInt f.ty f.sat (v g l)) s

/-! ### Moves and arithmetic (R189) -/

def execMov (h : Hdr) (f : LongF) (s : State) : Host.Outcome State Fault Refusal := laneResult (.mov h f) h f (fun g l => srcA g l f) s
/-- X as R150's table reads it; the types of several elements per register take the whole word. -/
def moviValue (f : LongF) : Nat :=
  if tyIn f.ty [13, 14, 17, 19, 20] then f.x.toNat else regImage f.ty (immOf f.ty f.x)
def execMovi (h : Hdr) (f : LongF) (s : State) : Host.Outcome State Fault Refusal :=
  laneWrite (.movi h f) h always (fun _ _ x => putD f (tyRegs f.ty) (moviValue f) x) s
def execIadd (h : Hdr) (f : LongF) (s : State) : Host.Outcome State Fault Refusal :=
  intResult (.iadd h f) h f (fun g l => intA g l f + intB g l f) s
def execIsub (h : Hdr) (f : LongF) (s : State) : Host.Outcome State Fault Refusal :=
  intResult (.isub h f) h f (fun g l => intA g l f - intB g l f) s
def execImul (h : Hdr) (f : LongF) (s : State) : Host.Outcome State Fault Refusal :=
  intResult (.imul h f) h f (fun g l => intA g l f * intB g l f) s
/-- The high half, rounded down (R189). -/
def execImulh (h : Hdr) (f : LongF) (s : State) : Host.Outcome State Fault Refusal :=
  intResult (.imulh h f) h f (fun g l => intA g l f * intB g l f / ((2 ^ tyBits f.ty : Nat) : Int)) s
def execImad (h : Hdr) (f : LongF) (s : State) : Host.Outcome State Fault Refusal :=
  intResult (.imad h f) h f (fun g l => intA g l f * intB g l f + intC g l f) s
def execImin (h : Hdr) (f : LongF) (s : State) : Host.Outcome State Fault Refusal :=
  intResult (.imin h f) h f (fun g l => min (intA g l f) (intB g l f)) s
def execImax (h : Hdr) (f : LongF) (s : State) : Host.Outcome State Fault Refusal :=
  intResult (.imax h f) h f (fun g l => max (intA g l f) (intB g l f)) s
def execIabs (h : Hdr) (f : LongF) (s : State) : Host.Outcome State Fault Refusal :=
  intResult (.iabs h f) h f (fun g l => ((intA g l f).natAbs : Int)) s
def execIneg (h : Hdr) (f : LongF) (s : State) : Host.Outcome State Fault Refusal :=
  intResult (.ineg h f) h f (fun g l => -intA g l f) s

/-! ### Logic (R190) -/

def execLand (h : Hdr) (f : LongF) (s : State) : Host.Outcome State Fault Refusal :=
  laneResult (.land h f) h f (fun g l => srcA g l f &&& srcB g l f) s
def execLor (h : Hdr) (f : LongF) (s : State) : Host.Outcome State Fault Refusal :=
  laneResult (.lor h f) h f (fun g l => srcA g l f ||| srcB g l f) s
def execLxor (h : Hdr) (f : LongF) (s : State) : Host.Outcome State Fault Refusal :=
  laneResult (.lxor h f) h f (fun g l => srcA g l f ^^^ srcB g l f) s
def execLogt (h : Hdr) (f : LongF) (s : State) : Host.Outcome State Fault Refusal :=
  laneResult (.logt h f) h f (fun g l => truthBits (f.x.toNat % 256) (srcA g l f) (srcB g l f) (srcC g l f) (tyBits f.ty)) s

/-! ### Shifts, fields and bit counts (R191) -/

def shiftLeft (w a n : Nat) : Nat := if n < w then a * 2 ^ n % 2 ^ w else 0
def shiftRight (w a n : Nat) : Nat := if n < w then a / 2 ^ n else 0
def shiftArith (w a n : Nat) : Nat :=
  if n < w then wrapInt w (signedOf w a / ((2 ^ n : Nat) : Int)) else if bit a (w - 1) then 2 ^ w - 1 else 0
/-- BFE: bits of the operand extended without bound. -/
def fieldExtract (ty : BitVec 5) (a ctl : Nat) : Nat :=
  let w := tyBits ty
  let pos := ctl % 256
  let len := min (ctl / 256 % 256) w
  let v := wrapInt len (intVal ty a / ((2 ^ pos : Nat) : Int))
  if len = 0 then 0 else if tySignedInt ty then wrapInt w (signedOf len v) else v
/-- BFI. -/
def fieldInsert (w a ctl c : Nat) : Nat :=
  let pos := ctl % 256
  let len := min (ctl / 256 % 256) (w - pos)
  setBits c pos len a % 2 ^ w
/-- Bits `w - 1` to 0 in the other order. -/
def reverseBits (a : Nat) : Nat → Nat
  | 0 => 0
  | w + 1 => a % 2 * 2 ^ w + reverseBits (a / 2) w

def execShl (h : Hdr) (f : LongF) (s : State) : Host.Outcome State Fault Refusal :=
  laneResult (.shl h f) h f (fun g l => shiftLeft (tyBits f.ty) (srcA g l f) (srcB32 g l f)) s
def execShr (h : Hdr) (f : LongF) (s : State) : Host.Outcome State Fault Refusal :=
  laneResult (.shr h f) h f (fun g l => shiftRight (tyBits f.ty) (srcA g l f) (srcB32 g l f)) s
def execSra (h : Hdr) (f : LongF) (s : State) : Host.Outcome State Fault Refusal :=
  laneResult (.sra h f) h f (fun g l => shiftArith (tyBits f.ty) (srcA g l f) (srcB32 g l f)) s
def execBfe (h : Hdr) (f : LongF) (s : State) : Host.Outcome State Fault Refusal :=
  laneResult (.bfe h f) h f (fun g l => fieldExtract f.ty (srcA g l f) (srcB32 g l f)) s
def execBfi (h : Hdr) (f : LongF) (s : State) : Host.Outcome State Fault Refusal :=
  laneResult (.bfi h f) h f (fun g l => fieldInsert (tyBits f.ty) (srcA g l f) (srcB32 g l f) (srcC g l f)) s
/-- POPC and CLZ write one register for either width. -/
def execPopc (h : Hdr) (f : LongF) (s : State) : Host.Outcome State Fault Refusal :=
  laneWrite (.popc h f) h always (fun g l x => putD f 1 (popcount (tyBits f.ty) (srcA g l f)) x) s
def execClz (h : Hdr) (f : LongF) (s : State) : Host.Outcome State Fault Refusal :=
  laneWrite (.clz h f) h always (fun g l x => putD f 1 (tyBits f.ty - bitLen (srcA g l f)) x) s
def execBrev (h : Hdr) (f : LongF) (s : State) : Host.Outcome State Fault Refusal :=
  laneResult (.brev h f) h f (fun g l => reverseBits (srcA g l f) (tyBits f.ty)) s

/-! ### Comparison and selection (R192) -/

def execIcmp (h : Hdr) (f : LongF) (s : State) : Host.Outcome State Fault Refusal :=
  laneWrite (.icmp h f) h always
    (fun g l x => x.setP f.d.toNat (icmpHolds f.sc.toNat f.ty (rawA g l f.ty f) (rawB g l f.ty f))) s
def execSel (h : Hdr) (f : LongF) (s : State) : Host.Outcome State Fault Refusal :=
  laneResult (.sel h f) h f (fun g l => if (g.lane l).pReg f.c.toNat then srcA g l f else srcB g l f) s

/-! ### Division (R116, R193) -/

/-- The quotient, truncated toward zero, with its corner cases. -/
def intQuot (ty : BitVec 5) (a b : Nat) : Nat :=
  let x := intVal ty a
  let y := intVal ty b
  if y = 0 then (if tySignedInt ty then (if x < 0 then 1 else 2 ^ tyBits ty - 1) else 2 ^ tyBits ty - 1)
  else wrapInt (tyBits ty) (x.tdiv y)
/-- The remainder, with the dividend's sign. -/
def intRem (ty : BitVec 5) (a b : Nat) : Nat :=
  let x := intVal ty a
  let y := intVal ty b
  if y = 0 then a else wrapInt (tyBits ty) (x.tmod y)
def execIdiv (h : Hdr) (f : LongF) (s : State) : Host.Outcome State Fault Refusal :=
  laneLater (.idiv h f) h f (fun g l => intQuot f.ty (srcA g l f) (srcB g l f)) s
def execIrem (h : Hdr) (f : LongF) (s : State) : Host.Outcome State Fault Refusal :=
  laneLater (.irem h f) h f (fun g l => intRem f.ty (srcA g l f) (srcB g l f)) s

/-! ### Bytes (R194 to R196) -/

/-- The four byte products and the accumulator, exactly; TY gives the bytes' signedness. -/
def dot4 (ty : BitVec 5) (a b c : Nat) : Int :=
  (upTo 4).foldl (fun (t : Int) i => t + intVal ty (bits a (8 * i) 8) * intVal ty (bits b (8 * i) 8))
    (intVal (if tySignedInt ty then 6 else 5) c)
def execIdot4 (h : Hdr) (f : LongF) (s : State) : Host.Outcome State Fault Refusal :=
  laneWrite (.idot4 h f) h always
    (fun g l x => putD f 1 (fitInt (if tySignedInt f.ty then 6 else 5) f.sat (dot4 f.ty (wordA g l f) (wordB g l f) (wordC g l f))) x) s
/-- One result byte of BSEL. -/
def selectByte (src sel : Nat) : Nat :=
  let v := bits src (8 * (sel % 8)) 8
  match sel / 8 % 4 with
  | 0 => v
  | 1 => 0
  | 2 => if bit v 7 then 0xFF else 0
  | _ => 0xFF
def byteSelect (a b sel : Nat) : Nat :=
  (upTo 4).foldl (fun r i => r + 2 ^ (8 * i) * selectByte (a + 2 ^ 32 * b) (bits sel (8 * i) 8)) 0
def execBsel (h : Hdr) (f : LongF) (s : State) : Host.Outcome State Fault Refusal :=
  laneWrite (.bsel h f) h always (fun g l x => putD f 1 (byteSelect (wordA g l f) (wordB g l f) f.x.toNat) x) s
/-- The 16-byte table of NLUT. -/
def nlutTable (g : Group) (l : Nat) (f : LongF) : Nat :=
  if f.mo.getLsbD 1 then (g.sReg f.b.toNat).toNat + 2 ^ 64 * (g.sReg (f.b.toNat + 1)).toNat else (g.lane l).vNat f.b.toNat 4
def lookup4 (table idx : Nat) : Nat := (upTo 8).foldl (fun r i => r + 2 ^ (8 * i) * bits table (8 * bits idx (4 * i) 4) 8) 0
def execNlut (h : Hdr) (f : LongF) (s : State) : Host.Outcome State Fault Refusal :=
  laneWrite (.nlut h f) h always (fun g l x => putD f 2 (lookup4 (nlutTable g l f) (wordA g l f)) x) s

/-! ### Predicates (R197) -/

def execPlop (h : Hdr) (f : LongF) (s : State) : Host.Outcome State Fault Refusal :=
  laneWrite (.plop h f) h always (fun g l x =>
    let p (n : Nat) := (g.lane l).pReg n
    x.setP f.d.toNat (truthBit (f.x.toNat % 256) (p f.a.toNat) (p f.b.toNat) (p f.c.toNat))) s
def execPtov (h : Hdr) (f : LongF) (s : State) : Host.Outcome State Fault Refusal :=
  laneWrite (.ptov h f) h always (fun g l x => putD f 1 (128 + (g.lane l).p.toNat % 128) x) s
def execVtop (h : Hdr) (f : LongF) (s : State) : Host.Outcome State Fault Refusal :=
  laneWrite (.vtop h f) h always (fun g l x =>
    (upTo 7).foldl (fun x n => if f.x.getLsbD n then x.setP n (((g.lane l).vReg f.a.toNat).getLsbD n) else x) x) s

end Sys2Proof.Machine
end

