-- ==== Sys2Proof/Machine/Transcend.lean ====
section
/-! DEFINITION. FRCP, FRSQ, FEX2, FLG2, FSIN, FCOS, FTANH (R202): the special inputs and exact cases by value, every other result
an open value kept within its bound. The exact result is approximated in fixed point to far below one unit of the bound (log entry
13). -/

namespace Sys2Proof.Machine

/-! ### Fixed point with 192 fraction bits -/

def fixOne : Int := ((2 ^ 192 : Nat) : Int)
/-- ln 2. -/
def fixLn2 : Int := 0xb17217f7d1cf79abc9e3b39803f2f6af40f343267298b62d
/-- π with 512 fraction bits. -/
def pi512 : Int := 0x3243f6a8885a308d313198a2e03707344a4093822299f31d0082efa98ec4e6c89452821e638d01377be5466cf34e90c6cc0ac29b7c97c50dd3f84d5b5b5470917
/-- A finite value in fixed point with `p` fraction bits, rounded down. -/
def toFix (p : Nat) (v : FVal) : Int :=
  let e := v.exp + (p : Int)
  if 0 ≤ e then v.signed * ((2 ^ e.toNat : Nat) : Int) else v.signed / ((2 ^ (-e).toNat : Nat) : Int)
/-- A fixed-point number as a value. -/
def ofFix (x : Int) : FVal := .fin (x < 0) x.natAbs (-192)
def fixMul (x y : Int) : Int := x * y / fixOne
/-- The series Σ ± tᵏ/k! from term `k` on, by steps of one: the exponential. -/
def expSeries (y : Int) : Nat → Int → Int → Int
  | 0, _, _ => 0
  | n + 1, k, t => t + expSeries y n (k + 1) (fixMul t y / k)
def fixExp (y : Int) : Int := expSeries y 64 1 fixOne
/-- The alternating series by steps of two: sine from t = y, k = 2; cosine from t = 1, k = 1. -/
def trigSeries (y2 : Int) : Nat → Int → Int → Int
  | 0, _, _ => 0
  | n + 1, k, t => t + trigSeries y2 n (k + 2) (-(fixMul t y2 / (k * (k + 1))))
def fixSin (y : Int) : Int := trigSeries (fixMul y y) 40 2 y
def fixCos (y : Int) : Int := trigSeries (fixMul y y) 40 1 fixOne
/-- The series of atanh: Σ z^(2k+1)/(2k+1). -/
def atanhSeries (z2 : Int) : Nat → Int → Int → Int
  | 0, _, _ => 0
  | n + 1, k, t => t / k + atanhSeries z2 n (k + 2) (fixMul t z2)

/-! ### The exact results, approximated -/

/-- 2^x for |x| below 200. -/
def exp2V (x : FVal) : FVal :=
  let f := toFix 192 x
  let n := f / fixOne
  let r := f - n * fixOne
  (ofFix (fixExp (fixMul r fixLn2))).scale n
/-- log₂ x for x > 0, from x = z · 2ⁿ with z in [1, 2). -/
def log2V (x : FVal) : FVal :=
  match x with
  | .fin _ m e =>
    let k := bitLen m - 1
    let z : Int := m * fixOne / ((2 ^ k : Nat) : Int)
    let u := (z - fixOne) * fixOne / (z + fixOne)
    ofFix (2 * atanhSeries (fixMul u u) 130 1 u * fixOne / fixLn2 + ((k : Int) + e) * fixOne)
  | v => v
/-- Sine or cosine: x reduced by multiples of π/2, exactly enough for every finite `.f32` x. -/
def trigV (cos : Bool) (x : FVal) : FVal :=
  let f := toFix 512 x
  let k := f / (pi512 / 2)
  let y := (f - k * pi512 / 2) / ((2 ^ 320 : Nat) : Int)
  match ((k + (if cos then 1 else 0)) % 4).toNat with
  | 0 => ofFix (fixSin y)
  | 1 => ofFix (fixCos y)
  | 2 => ofFix (-fixSin y)
  | _ => ofFix (-fixCos y)
/-- tanh x = (e^2x − 1) / (e^2x + 1). -/
def tanhV (x : FVal) : FVal :=
  let big := fcompareMag x 6
  if fcompareMag x (-40) == false then x
  else if big then .fin x.neg (2 ^ 100 - 1) (-100)
  else
    let e := fixExp4 (2 * toFix 192 x)
    fdivV (ofFix (e - fixOne)) (ofFix (e + fixOne))
where
  /-- |x| ≥ 2^k. -/
  fcompareMag (x : FVal) (k : Int) : Bool := match x with | .fin _ m e => k < bitLen m + e | _ => true
  /-- e^y for |y| up to 128, from e^(y/256). -/
  fixExp4 (y : Int) : Int := (List.range 8).foldl (fun z _ => fixMul z z) (fixExp (y / 256))

/-! ### The bound (R202) -/

/-- |y − r| ≤ b for finite values. -/
def nearV (y r b : FVal) : Bool :=
  match y with
  | .fin _ _ _ =>
    let lo := min (min y.exp r.exp) b.exp
    decide ((alignTo lo y - alignTo lo r).natAbs ≤ (alignTo lo b).natAbs)
  | _ => false
/-- One unit in the last place of a non-zero exact result in `.f32`. -/
def ulp32 (r : FVal) : FVal := match r with | .fin _ m e => .fin false 1 (max ((bitLen m : Int) - 1 + e - 23) (-149)) | v => v
/-- A candidate is allowed: within the bound, or the infinity that rounding the exact result overflows to. -/
def allowed32 (y : Nat) (r b : FVal) : Bool :=
  nearV (fdec 11 y) r b || ((fdec 11 y).isInf && y == froundV 11 0 0 r)
/-- The open value of function `fn` at binary32 `x`, if it is allowed; else the exact result rounded, which is allowed. -/
def boundedValue (fn x : Nat) (r b : FVal) : Nat :=
  let y := (Config.transcendental fn (wd x)).toNat
  if allowed32 y r b then y else froundV 11 0 0 r

/-- A power of two: its exponent. -/
def pow2Exp (v : FVal) : Option Int :=
  match v with
  | .fin false m e => if m != 0 && m == 2 ^ (bitLen m - 1) then some ((bitLen m : Int) - 1 + e) else none
  | _ => none
/-- An integral value of moderate size. -/
def integralV (v : FVal) : Option Int :=
  match v with
  | .fin n m e =>
    if 0 ≤ e then (if e ≤ 10 then some (v.signed * ((2 ^ e.toNat : Nat) : Int)) else none)
    else if m % 2 ^ (-e).toNat == 0 then some ((if n then -1 else 1) * ((m / 2 ^ (-e).toNat : Nat) : Int)) else none
  | _ => none
/-- 1.0. -/
def oneV : FVal := .fin false 1 0

def frcp32 (x : Nat) : Nat :=
  let v := fdec 11 x
  match v with
  | .nan => canonNan 11
  | .inf n => signCode 11 n
  | .fin n m _ =>
    if m = 0 then signCode 11 n + 0x7F800000
    else
      let r := fdivV oneV v
      match pow2Exp v.abs with
      | some k => if -k ≥ -126 then froundV 11 0 0 r else boundedValue 0 x r (ulp32 r)
      | none => boundedValue 0 x r (ulp32 r)
def frsq32 (x : Nat) : Nat :=
  let v := fdec 11 x
  match v with
  | .nan => canonNan 11
  | .inf n => if n then canonNan 11 else 0
  | .fin n m _ =>
    if m = 0 then signCode 11 n + 0x7F800000
    else if n then canonNan 11
    else
      let r := fdivV oneV (fsqrtV v)
      match pow2Exp v with
      | some k => if k % 2 == 0 then froundV 11 0 0 (.fin false 1 (-(k / 2))) else boundedValue 1 x r (ulp32 r)
      | none => boundedValue 1 x r (ulp32 r)
def fex2_32 (x : Nat) : Nat :=
  let v := fdec 11 x
  match v with
  | .nan => canonNan 11
  | .inf n => if n then 0 else 0x7F800000
  | .fin n m e =>
    if m != 0 && (8 : Int) < bitLen m + e then
      (if n then boundedValue 2 x (.fin false 1 (-200)) (.fin false 1 (-148)) else 0x7F800000)
    else
      match integralV v with
      | some k => if -149 ≤ k && k ≤ 127 then froundV 11 0 0 (.fin false 1 k)
                  else boundedValue 2 x (.fin false 1 k) ((ulp32 (.fin false 1 k)).scale 1)
      | none => boundedValue 2 x (exp2V v) ((ulp32 (exp2V v)).scale 1)
def flg2_32 (x : Nat) : Nat :=
  let v := fdec 11 x
  match v with
  | .nan => canonNan 11
  | .inf n => if n then canonNan 11 else 0x7F800000
  | .fin n m _ =>
    if m = 0 then 0xFF800000
    else if n then canonNan 11
    else
      match pow2Exp v with
      | some k => froundV 11 0 0 (FVal.ofInt k)
      | none =>
        let r := log2V v
        boundedValue 3 x r (if 0x3F000000 ≤ x && x ≤ 0x40000000 then .fin false 1 (-22) else (ulp32 r).scale 1)
def ftrig32 (cos : Bool) (x : Nat) : Nat :=
  let v := fdec 11 x
  match v with
  | .fin _ m _ =>
    if m = 0 then (if cos then 0x3F800000 else x) else boundedValue (if cos then 5 else 4) x (trigV cos v) (.fin false 1 (-21))
  | _ => canonNan 11
def ftanh32 (x : Nat) : Nat :=
  let v := fdec 11 x
  match v with
  | .nan => canonNan 11
  | .inf n => signCode 11 n + 0x3F800000
  | .fin _ m _ => if m = 0 then x else boundedValue 6 x (tanhV v) ((ulp32 (tanhV v)).scale 1)
/-- Function number `fn` at a binary32 operand. -/
def transcend32 (fn x : Nat) : Nat :=
  match fn with
  | 0 => frcp32 x
  | 1 => frsq32 x
  | 2 => fex2_32 x
  | 3 => flg2_32 x
  | 4 => ftrig32 false x
  | 5 => ftrig32 true x
  | _ => ftanh32 x
/-- The same for `.f16` and `.bf16`: widened, formed in `.f32`, rounded to nearest even (R202). -/
def transcend (fn : Nat) (ty : BitVec 5) (x : Nat) : Nat :=
  if ty.toNat = 11 then transcend32 fn x
  else froundV ty 0 0 (fdec 11 (transcend32 fn (froundV 11 0 0 (fdec ty x))))

end Sys2Proof.Machine
end

