-- ==== Sys2Proof/Machine/Numeric.lean ====
section
/-! DEFINITION. Floating-point instructions of the lanes (R198 to R206) and the stochastic draws of a lane (R109, R110). -/

namespace Sys2Proof.Machine

/-! ### Draws -/

/-- The key of a lane's LANERND stream: POPSEED, 0 outside a population grid, with POPIDX (R110). -/
def drawKey (s : State) (g : Group) (x : Lane) : DWord :=
  (match s.grid? g.grid with
   | some r => if r.kind == .population then r.popseed else 0
   | none => 0) ^^^ (zx x.popidx <<< (32 : Nat))
/-- Draw number `k` from now of a lane: the low 32 bits of the mixer. -/
def drawOf (s : State) (g : Group) (x : Lane) (k : Nat) : Nat := (mixer (drawKey s g x) (x.draw + dw k)).toNat % 2 ^ 32
/-- Draws a lane takes for `n` rounded results: one each under RM 5. -/
def drawsTaken (f : LongF) (n : Nat) : Nat := if f.rm.toNat = 5 then n else 0
def Lane.advance (x : Lane) (n : Nat) : Lane := { x with draw := x.draw + dw n }

/-! ### Shared shapes -/

/-- A fixed-latency result that rounds `n` times: the value gets the lane's draws by number. -/
def fpLane (i : Instr) (h : Hdr) (f : LongF) (regs n : Nat) (v : Group → Nat → (Nat → Nat) → Nat) (s : State) :
    Host.Outcome State Fault Refusal :=
  asLanes i h always (fun s g sp ls =>
    finish s (g.modLanes ls (fun l x => (putD f regs (v g l (drawOf s g (g.lane l))) x).advance (drawsTaken f n))) sp 12) s
/-- The same with variable latency: the draws are taken at issue. -/
def fpLater (i : Instr) (h : Hdr) (f : LongF) (n : Nat) (v : Group → Nat → (Nat → Nat) → Nat) (s : State) :
    Host.Outcome State Fault Refusal :=
  asLanes i h always (fun s g sp ls => withRoom true none s g sp
    (finishLater s (g.modLanes ls (fun _ x => x.advance (drawsTaken f n))) sp
      (ls.flatMap (fun l => vWrites l f.d.toNat (tyRegs f.ty) (v g l (drawOf s g (g.lane l))))) 12)) s
/-- Operands as floating-point values. -/
def fpA (g : Group) (l : Nat) (f : LongF) : FVal := fdec f.ty (srcA g l f)
def fpB (g : Group) (l : Nat) (f : LongF) : FVal := fdec f.ty (srcB g l f)
def fpC (g : Group) (l : Nat) (f : LongF) : FVal := fdec f.ty (srcC g l f)
/-- One exact value rounded once into the type, then SAT. -/
def fpResult (i : Instr) (h : Hdr) (f : LongF) (v : Group → Nat → FVal) (s : State) : Host.Outcome State Fault Refusal :=
  fpLane i h f (tyRegs f.ty) 1 (fun g l d => fresult f.ty f.rm.toNat (d 0) f.sat (v g l)) s

/-! ### Basic operations (R199) -/

def execFadd (h : Hdr) (f : LongF) (s : State) : Host.Outcome State Fault Refusal :=
  fpResult (.fadd h f) h f (fun g l => fsumV f.rm.toNat [fpA g l f, fpB g l f]) s
/-- FSUB adds A and the negated B, so that (-0) - (+0) is the sum of two -0 operands, -0: DESIGN CHOICE, R112's words also make it an exact-zero
difference, +0 (log entry 34). -/
def execFsub (h : Hdr) (f : LongF) (s : State) : Host.Outcome State Fault Refusal :=
  fpResult (.fsub h f) h f (fun g l => fsumV f.rm.toNat [fpA g l f, (fpB g l f).negate]) s
def execFmul (h : Hdr) (f : LongF) (s : State) : Host.Outcome State Fault Refusal :=
  fpResult (.fmul h f) h f (fun g l => fmulV (fpA g l f) (fpB g l f)) s
def execFfma (h : Hdr) (f : LongF) (s : State) : Host.Outcome State Fault Refusal :=
  fpResult (.ffma h f) h f (fun g l => fsumV f.rm.toNat [fmulV (fpA g l f) (fpB g l f), fpC g l f]) s

/-! ### Minimum, maximum, comparison (R200) -/

/-- FMIN and FMAX do not round; SAT still acts. -/
def fpMinMax (f : LongF) (mx : Bool) (g : Group) (l : Nat) : Nat :=
  let r := fminmax f.ty mx (srcA g l f) (srcB g l f)
  if f.sat then satF f.ty r else r
def execFmin (h : Hdr) (f : LongF) (s : State) : Host.Outcome State Fault Refusal :=
  laneWrite (.fmin h f) h always (fun g l x => putD f (tyRegs f.ty) (fpMinMax f false g l) x) s
def execFmax (h : Hdr) (f : LongF) (s : State) : Host.Outcome State Fault Refusal :=
  laneWrite (.fmax h f) h always (fun g l x => putD f (tyRegs f.ty) (fpMinMax f true g l) x) s
def execFcmp (h : Hdr) (f : LongF) (s : State) : Host.Outcome State Fault Refusal :=
  laneWrite (.fcmp h f) h always (fun g l x =>
    x.setP f.d.toNat (fcmpHolds f.sc.toNat (fdec f.ty (rawA g l f.ty f)) (fdec f.ty (rawB g l f.ty f)))) s

/-! ### Division, square root, transcendentals (R201, R202) -/

def execFdiv (h : Hdr) (f : LongF) (s : State) : Host.Outcome State Fault Refusal :=
  fpLater (.fdiv h f) h f 1 (fun g l d => fresult f.ty f.rm.toNat (d 0) f.sat (fdivV (fpA g l f) (fpB g l f))) s
def execFsqrt (h : Hdr) (f : LongF) (s : State) : Host.Outcome State Fault Refusal :=
  fpLater (.fsqrt h f) h f 1 (fun g l d => fresult f.ty f.rm.toNat (d 0) f.sat (fsqrtV (fpA g l f))) s
/-- A transcendental: its value in TY, then SAT. -/
def fpTranscend (i : Instr) (h : Hdr) (f : LongF) (fn : Nat) (s : State) : Host.Outcome State Fault Refusal :=
  fpLater i h f 0 (fun g l _ =>
    if f.sat then satF f.ty (transcend fn f.ty (srcA g l f)) else transcend fn f.ty (srcA g l f)) s
def execFrcp (h : Hdr) (f : LongF) (s : State) : Host.Outcome State Fault Refusal := fpTranscend (.frcp h f) h f 0 s
def execFrsq (h : Hdr) (f : LongF) (s : State) : Host.Outcome State Fault Refusal := fpTranscend (.frsq h f) h f 1 s
def execFex2 (h : Hdr) (f : LongF) (s : State) : Host.Outcome State Fault Refusal := fpTranscend (.fex2 h f) h f 2 s
def execFlg2 (h : Hdr) (f : LongF) (s : State) : Host.Outcome State Fault Refusal := fpTranscend (.flg2 h f) h f 3 s
def execFsin (h : Hdr) (f : LongF) (s : State) : Host.Outcome State Fault Refusal := fpTranscend (.fsin h f) h f 4 s
def execFcos (h : Hdr) (f : LongF) (s : State) : Host.Outcome State Fault Refusal := fpTranscend (.fcos h f) h f 5 s
def execFtanh (h : Hdr) (f : LongF) (s : State) : Host.Outcome State Fault Refusal := fpTranscend (.ftanh h f) h f 6 s

/-! ### Class (R203) -/

/-- The class bit of an encoding. A quiet NaN has the top mantissa bit set. -/
def fclassBit (ty : BitVec 5) (x : Nat) : Nat :=
  let neg := bit x (tyBits ty - 1)
  match fdec ty x with
  | .nan => if bit x (mantBits ty - 1) then 9 else 8
  | .inf n => if n then 0 else 7
  | .fin _ m _ =>
    if m = 0 then (if neg then 3 else 4)
    else if m < 2 ^ mantBits ty then (if neg then 2 else 5)
    else (if neg then 1 else 6)
def execFclass (h : Hdr) (f : LongF) (s : State) : Host.Outcome State Fault Refusal :=
  laneWrite (.fclass h f) h always (fun g l x => putD f 1 (2 ^ fclassBit f.ty (rawA g l f.ty f)) x) s

/-! ### Packed pairs (R204, R205) -/

/-- Product of element `e` of A and B. -/
def pairProduct (g : Group) (l : Nat) (f : LongF) (e : Nat) : FVal := fmulV (fdec f.ty (pairA g l f.ty f e)) (fdec f.ty (pairB g l f.ty f e))
/-- FDOT2: C is `.f32`. -/
def execFdot2 (h : Hdr) (f : LongF) (s : State) : Host.Outcome State Fault Refusal :=
  fpLane (.fdot2 h f) h f 1 1 (fun g l d => fresult 11 f.rm.toNat (d 0) f.sat
    (fsumV f.rm.toNat [pairProduct g l f 0, pairProduct g l f 1, fdec 11 (srcCT 11 g l f)])) s
/-- An operation on each element of a packed pair, element 0 drawing first. -/
def fpPair (i : Instr) (h : Hdr) (f : LongF) (v : Group → Nat → Nat → FVal) (s : State) : Host.Outcome State Fault Refusal :=
  fpLane i h f 1 2 (fun g l d => fresult f.ty f.rm.toNat (d 0) f.sat (v g l 0) + 2 ^ 16 * fresult f.ty f.rm.toNat (d 1) f.sat (v g l 1)) s
def execHadd2 (h : Hdr) (f : LongF) (s : State) : Host.Outcome State Fault Refusal :=
  fpPair (.hadd2 h f) h f (fun g l e => fsumV f.rm.toNat [fdec f.ty (pairA g l f.ty f e), fdec f.ty (pairB g l f.ty f e)]) s
def execHmul2 (h : Hdr) (f : LongF) (s : State) : Host.Outcome State Fault Refusal :=
  fpPair (.hmul2 h f) h f (fun g l e => pairProduct g l f e) s
def execHfma2 (h : Hdr) (f : LongF) (s : State) : Host.Outcome State Fault Refusal :=
  fpPair (.hfma2 h f) h f (fun g l e => fsumV f.rm.toNat [pairProduct g l f e, fdec f.ty (pairC g l f.ty f e)]) s

/-! ### FRND and FSCALE (R206) -/

def execFrnd (h : Hdr) (f : LongF) (s : State) : Host.Outcome State Fault Refusal :=
  fpLane (.frnd h f) h f (tyRegs f.ty) 1 (fun g l d => fresult f.ty 0 0 f.sat (fintegral f.rm.toNat (d 0) (fpA g l f))) s
def execFscale (h : Hdr) (f : LongF) (s : State) : Host.Outcome State Fault Refusal :=
  fpResult (.fscale h f) h f (fun g l => (fpA g l f).scale (signedOf 32 (srcB32 g l f))) s

end Sys2Proof.Machine
end

