-- ==== Sys2Proof/Machine/Convert.lean ====
section
/-! DEFINITION. Conversion and quantisation (R207 to R211). -/

namespace Sys2Proof.Machine

/-! ### CVT, CVPK, CVUP (R207 to R209) -/

/-- Bits each element of a packed type takes in a register (R101, R208). -/
def slotBits (ty : BitVec 5) : Nat := 32 / packElems ty
/-- Element `k` of a register of a packed type. -/
def elemOf (ty : BitVec 5) (word k : Nat) : Nat := bits word (slotBits ty * k) (tyBits ty)
/-- Writes element `k`, its slot's other bits zero (R102). -/
def putElem (ty : BitVec 5) (word k v : Nat) : Nat := setBits word (slotBits ty * k) (slotBits ty) v
/-- Source value of a conversion from operand A or B, with its modifiers. -/
def cvtA (g : Group) (l : Nat) (f : LongF) : Nat := srcAT (srcTy f) g l f
def cvtB (g : Group) (l : Nat) (f : LongF) : Nat :=
  modify (srcTy f) (f.sc.getLsbD 1) false
    ((if f.mo.getLsbD 1 then (g.sReg f.b.toNat).toNat else ((g.lane l).vReg f.b.toNat).toNat) % 2 ^ tyBits (srcTy f))
/-- Converts by the instruction's RM and SAT. -/
def cvtValue (f : LongF) (draw x : Nat) : Nat := convert (srcTy f) f.ty f.rm.toNat draw f.sat x

/-- Draws a conversion takes for `n` results: an integer made from an integer wraps or clamps and is never rounded (R109, R115, R207). -/
def cvtDraws (f : LongF) (n : Nat) : Nat := if tyFloat f.ty || tyFloat (srcTy f) then n else 0

def execCvt (h : Hdr) (f : LongF) (s : State) : Host.Outcome State Fault Refusal :=
  fpLane (.cvt h f) h f (tyRegs f.ty) (cvtDraws f 1) (fun g l d => regImage f.ty (cvtValue f (d 0) (cvtA g l f))) s
def execCvpk (h : Hdr) (f : LongF) (s : State) : Host.Outcome State Fault Refusal :=
  fpLane (.cvpk h f) h f 1 (cvtDraws f 2) (fun g l d =>
    putElem f.ty (putElem f.ty ((g.lane l).vReg f.d.toNat).toNat (2 * slotJ f) (cvtValue f (d 0) (cvtA g l f)))
      (2 * slotJ f + 1) (cvtValue f (d 1) (cvtB g l f))) s
/-- One of the two elements CVUP converts. -/
def cvupElem (g : Group) (l : Nat) (f : LongF) (e draw : Nat) : Nat :=
  cvtValue f draw (modify (srcTy f) (f.sc.getLsbD 0) (f.sc.getLsbD 3) (elemOf (srcTy f) (wordA g l f) (2 * slotJ f + e)))
def execCvup (h : Hdr) (f : LongF) (s : State) : Host.Outcome State Fault Refusal :=
  fpLane (.cvup h f) h f (if tyBits f.ty = 16 then 1 else 2) (cvtDraws f 2)
    (fun g l d => cvupElem g l f 0 (d 0) + 2 ^ tyBits f.ty * cvupElem g l f 1 (d 1)) s

/-! ### QSCL (R210) -/

/-- The exponent of a target type's largest power of two. -/
def emaxOf (ty : BitVec 5) : Nat := match ty.toNat with | 13 => 8 | 14 => 15 | 15 => 2 | 16 => 4 | _ => 2
/-- The elements a lane contributes. -/
def qsclElems (g : Group) (l : Nat) (f : LongF) : List FVal :=
  if (srcTy f).toNat = 11 then [fdec 11 (wordA g l f)]
  else [fdec (srcTy f) (bits (wordA g l f) 0 16), fdec (srcTy f) (bits (wordA g l f) 16 16)]
/-- The larger magnitude. -/
def maxMag (a b : FVal) : FVal := if fcompare a.abs b.abs < 0 then b.abs else a.abs
/-- The shared scale of a block's elements. -/
def chooseScale (ty : BitVec 5) (noClamp : Bool) (es : List FVal) : Nat :=
  if es.any (fun x => x.isNan || x.isInf) then 0xFF
  else
    match es.foldl maxMag (.fin false 0 0) with
    | .fin _ m e =>
      if m = 0 then 0x7F
      else
        let k : Int := (bitLen m : Int) - 1 + e
        let ex : Int := k - (emaxOf ty : Int) + 127
        let beyond := fcompare (.fin false m (e + (emaxOf ty : Int) - k)) (fdec ty (maxCode ty)) > 0
        (min (max (if noClamp && beyond then ex + 1 else ex) 0) 0xFE).toNat
    | _ => 0xFF
/-- Lanes of a block: 32 for `.f32`, 16 for packed pairs. -/
def qsclBlock (f : LongF) : Nat := if (srcTy f).toNat = 11 then 32 else 16
def execQscl (h : Hdr) (f : LongF) (s : State) : Host.Outcome State Fault Refusal :=
  asLanes (.qscl h f) h always (fun s g sp ls =>
    finish s (g.modLanes ls (fun l x =>
      putD f 1 (chooseScale f.ty (f.x.getLsbD 5)
        ((ls.filter (fun t => t / qsclBlock f == l / qsclBlock f)).flatMap (fun t => qsclElems g t f))) x)) sp 12) s

/-! ### QCVT (R211) -/

/-- One element quantised under scale `sc`. -/
def quantise (ty : BitVec 5) (rm draw sc : Nat) (x : FVal) : Nat :=
  if sc = 0xFF then canonNan ty else froundV ty rm draw (x.scale (127 - (sc : Int)))
/-- The scale: operand B<7:0>. -/
def qcvtScale (g : Group) (l : Nat) (f : LongF) : Nat :=
  (if f.mo.getLsbD 1 then (g.sReg f.b.toNat).toNat else ((g.lane l).vReg f.b.toNat).toNat) % 256
/-- Source element `e` of QCVT with its modifiers. -/
def qcvtElem (g : Group) (l : Nat) (f : LongF) (e : Nat) : FVal :=
  fdec (srcTy f) (modify (srcTy f) (f.sc.getLsbD 0) (f.sc.getLsbD 3) (bits (wordA g l f) (16 * e) (tyBits (srcTy f))))
def qcvtValue (g : Group) (l : Nat) (f : LongF) (d : Nat → Nat) : Nat :=
  let old := ((g.lane l).vReg f.d.toNat).toNat
  let q (e : Nat) := quantise f.ty f.rm.toNat (d e) (qcvtScale g l f) (qcvtElem g l f e)
  if (srcTy f).toNat = 11 then putElem f.ty old (slotJ f) (q 0)
  else putElem f.ty (putElem f.ty old (2 * slotJ f) (q 0)) (2 * slotJ f + 1) (q 1)
def execQcvt (h : Hdr) (f : LongF) (s : State) : Host.Outcome State Fault Refusal :=
  fpLane (.qcvt h f) h f 1 (if (srcTy f).toNat = 11 then 1 else 2) (fun g l d => qcvtValue g l f d) s

end Sys2Proof.Machine
end

