-- ==== Sys2Proof/Machine/CrossLane.lean ====
section
/-! DEFINITION. Instructions that pass values between the lanes of a split (R212 to R218, R121, R122). Sources are the active lanes, as
they were at issue. -/

namespace Sys2Proof.Machine

/-! ### VXCH (R213) -/

/-- The segment of VXCH. -/
def vxchSeg (g : Group) (f : LongF) : Nat := if f.c.toNat = 0 then g.width else 2 ^ f.c.toNat
/-- The lane that lane `l` takes its value from; `none` for NONE. -/
def vxchSource (g : Group) (f : LongF) (l : Nat) : Option Nat :=
  let seg := vxchSeg g f
  let b := if f.mo.getLsbD 2 then f.x.toNat else ((g.lane l).vReg f.b.toNat).toNat
  let o := l % seg
  let base := l - o
  match f.mo.toNat % 4 with
  | 0 => some (base + b % seg)
  | 1 => some (base + (o + seg - b % seg) % seg)
  | 2 => some (base + (o + b) % seg)
  | _ => if b < seg then some (base + (o ^^^ b)) else none
/-- The value lane `l` receives. -/
def vxchValue (g : Group) (ls : List Nat) (f : LongF) (l : Nat) : Nat :=
  match vxchSource g f l with
  | some t => if ls.contains t then (g.lane t).vNat f.a.toNat (tyRegs f.ty) else (g.lane l).vNat f.a.toNat (tyRegs f.ty)
  | none => (g.lane l).vNat f.a.toNat (tyRegs f.ty)
/-- A variable-latency cross-lane result of `regs` registers. -/
def crossLater (i : Instr) (h : Hdr) (f : LongF) (legal : Group → Split → Bool) (regs : Nat) (v : Group → List Nat → Nat → Nat)
    (s : State) : Host.Outcome State Fault Refusal :=
  asLanes i h legal (fun s g sp ls => withRoom true none s g sp
    (finishLater s g sp (ls.flatMap (fun l => vWrites l f.d.toNat regs (v g ls l))) 12)) s
def execVxch (h : Hdr) (f : LongF) (s : State) : Host.Outcome State Fault Refusal :=
  crossLater (.vxch h f) h f (fun g _ => vxchSeg g f ≤ g.width) (tyRegs f.ty) (fun g ls l => vxchValue g ls f l) s

/-! ### RDLANE and WRLANE (R214) -/

/-- The lane named: X, or S[B], of which a type of 32 bits takes bits 31:0 (R150). -/
def laneN (g : Group) (f : LongF) : Nat := if f.mo.getLsbD 2 then f.x.toNat else (g.sReg f.b.toNat).toNat % 2 ^ tyBits f.ty
def execRdlane (h : Hdr) (f : LongF) (s : State) : Host.Outcome State Fault Refusal :=
  asLanes (.rdlane h f) h always (fun s g sp ls => withRoom true none s g sp
    (finishLater s g sp
      [.s f.d.toNat (if ls.contains (laneN g f) then dw ((g.lane (laneN g f)).vNat f.a.toNat (tyRegs f.ty)) else 0)] 12)) s
def execWrlane (h : Hdr) (f : LongF) (s : State) : Host.Outcome State Fault Refusal :=
  asLanes (.wrlane h f) h always (fun s g sp ls =>
    finish s (if ls.contains (laneN g f) then
        g.modLane (laneN g f) (putD f (tyRegs f.ty) ((g.sReg f.a.toNat).toNat % 2 ^ tyBits f.ty))
      else g) sp 12) s

/-! ### VOTE (R215) -/

def voteWrite (g : Group) (ls : List Nat) (f : LongF) : Group :=
  let yes := lanesWith g ls f.a.toNat
  match f.sc.toNat with
  | 0 => g.setK f.d.toNat (!yes.isEmpty)
  | 1 => g.setK f.d.toNat (yes.length == ls.length)
  | 2 => g.setS f.d.toNat (maskOf yes)
  | 3 => g.setS f.d.toNat (dw yes.length)
  | _ => g.setS f.d.toNat (dw ((yes.head?).getD g.width))
def execVote (h : Hdr) (f : LongF) (s : State) : Host.Outcome State Fault Refusal :=
  asLanes (.vote h f) h always (fun s g sp ls => finish s (voteWrite g ls f) sp 12) s

/-! ### FOLD and SCAN (R121, R122, R216) -/

/-- The operation of X<2:0>. -/
def foldOp (f : LongF) : Nat := f.x.toNat % 8
/-- Whether a combine rounds and may draw. -/
def foldDraws (f : LongF) : Bool := tyFloat f.ty && foldOp f == 0 && f.rm.toNat == 5
/-- Combines two values. -/
def combine (f : LongF) (draw x y : Nat) : Nat :=
  let ty := f.ty
  if tyFloat ty then
    match foldOp f with
    | 0 => froundV ty f.rm.toNat draw (fsumV f.rm.toNat [fdec ty x, fdec ty y])
    | 1 => fminmax ty false x y
    | _ => fminmax ty true x y
  else
    match foldOp f with
    | 0 => fitInt ty f.sat (intVal ty x + intVal ty y)
    | 1 => if intVal ty x ≤ intVal ty y then x else y
    | 2 => if intVal ty x ≤ intVal ty y then y else x
    | 3 => x &&& y
    | 4 => x ||| y
    | _ => x ^^^ y
/-- One level of the tree: pairs are combined, holes pass the other side up, a NaN too as it stands (R121; DEDUCED, log entry 109). `k` counts
the draws taken. -/
def treeLevel (f : LongF) (d : Nat → Nat) : Nat → List (Option Nat) → Nat × List (Option Nat)
  | k, some x :: some y :: t =>
    let r := treeLevel f d (k + b2n (foldDraws f)) t
    (r.1, some (combine f (d k) x y) :: r.2)
  | k, some x :: none :: t => let r := treeLevel f d k t; (r.1, some x :: r.2)
  | k, none :: y :: t => let r := treeLevel f d k t; (r.1, y :: r.2)
  | k, l => (k, l)
/-- The tree over lane positions, lowest level first: draws taken and the root. -/
def foldTree (f : LongF) (d : Nat → Nat) : Nat → Nat → List (Option Nat) → Nat × Option Nat
  | 0, k, l => (k, l.head?.getD none)
  | n + 1, k, l => let r := treeLevel f d k l; foldTree f d n r.1 r.2
/-- The leaves: lane positions of the group, a hole for every lane not in the list. -/
def treeLeaves (g : Group) (f : LongF) (ls : List Nat) : List (Option Nat) :=
  (upTo g.width).map (fun l => if ls.contains l then some ((g.lane l).vNat f.a.toNat (tyRegs f.ty) % 2 ^ tyBits f.ty) else none)
def foldOver (g : Group) (f : LongF) (ls : List Nat) (d : Nat → Nat) : Nat × Option Nat := foldTree f d 6 0 (treeLeaves g f ls)
/-- The identity of an operation (R216). -/
def foldIdentity (f : LongF) : Nat :=
  let ty := f.ty
  if tyFloat ty then
    match foldOp f with
    | 0 => 0
    | 1 => maxCode ty + 1
    | _ => signCode ty true + maxCode ty + 1
  else
    match foldOp f with
    | 1 => wrapInt (tyBits ty) (intMax ty)
    | 2 => wrapInt (tyBits ty) (intMin ty)
    | 3 => 2 ^ tyBits ty - 1
    | _ => 0
/-- FOLD: every active lane gets the root; draws come from the lowest active lane. -/
def execFold (h : Hdr) (f : LongF) (s : State) : Host.Outcome State Fault Refusal :=
  asLanes (.fold h f) h always (fun s g sp ls => withRoom true none s g sp (
    let low := ls.headD 0
    let r := foldOver g f ls (drawOf s g (g.lane low))
    finishLater s (g.modLane low (fun x => x.advance r.1)) sp
      (ls.flatMap (fun l => vWrites l f.d.toNat (tyRegs f.ty) (r.2.getD 0))) 12)) s
/-- The lanes whose values SCAN combines for lane `l`. -/
def scanLanes (f : LongF) (ls : List Nat) (l : Nat) : List Nat := ls.filter (fun t => if f.x.getLsbD 3 then t < l else t ≤ l)
def scanOver (s : State) (g : Group) (f : LongF) (ls : List Nat) (l : Nat) : Nat × Nat :=
  let r := foldOver g f (scanLanes f ls l) (drawOf s g (g.lane l))
  (r.1, r.2.getD (foldIdentity f))
def execScan (h : Hdr) (f : LongF) (s : State) : Host.Outcome State Fault Refusal :=
  asLanes (.scan h f) h always (fun s g sp ls => withRoom true none s g sp
    (finishLater s (g.modLanes ls (fun l x => x.advance (scanOver s g f ls l).1)) sp
      (ls.flatMap (fun l => vWrites l f.d.toNat (tyRegs f.ty) (scanOver s g f ls l).2)) 12)) s

/-! ### SAMEV and VSRD (R217, R218) -/

/-- Active lanes with the same operand A, bit for bit. -/
def sameLanes (g : Group) (f : LongF) (ls : List Nat) (l : Nat) : List Nat :=
  ls.filter (fun t => (g.lane t).vNat f.a.toNat (tyRegs f.ty) == (g.lane l).vNat f.a.toNat (tyRegs f.ty))
def execSamev (h : Hdr) (f : LongF) (s : State) : Host.Outcome State Fault Refusal :=
  crossLater (.samev h f) h f always (if f.x.getLsbD 0 then 1 else 2)
    (fun g ls l => if f.x.getLsbD 0 then (sameLanes g f ls l).headD l else (maskOf (sameLanes g f ls l)).toNat) s
/-- Per-lane special registers (R157). -/
def laneSpecial (g : Group) (l n : Nat) : Word :=
  let x := g.lane l
  match n with
  | 0 => wd l
  | 1 => wd (g.groupid * g.width + l)
  | 2 => x.popidx
  | 3 => x.parent
  | 4 => x.root
  | 5 => x.copy
  | 6 => x.privbase.extractLsb' 0 32
  | 7 => (x.privbase.extractLsb' 32 22).zeroExtend 32
  | _ => x.draw.extractLsb' 0 32
def execVsrd (h : Hdr) (f : LongF) (s : State) : Host.Outcome State Fault Refusal :=
  laneWrite (.vsrd h f) h always (fun g l x => putD f 1 (laneSpecial g l f.x.toNat).toNat x) s

end Sys2Proof.Machine
end

