-- ==== Sys2Proof/Machine/Devices.lean ====
section
/-! DEFINITION. Mailbox windows and the device-register page as loads and stores see them (R61, R222, R327 to R332). -/

namespace Sys2Proof.Machine

/-! ### Parts of quadwords: accesses are of 4 or 8 bytes -/

/-- `n` bytes at offset `off` of a quadword. -/
def quadPart (q : DWord) (off n : Nat) : Nat := fld q (8 * (off % 8)) (8 * n)
/-- The bits that such an access covers, as a mask. -/
def quadMask (off n : Nat) : DWord := dw ((2 ^ (8 * n) - 1) * 2 ^ (8 * (off % 8)))
/-- A written value in its place. -/
def quadAt (off v : Nat) : DWord := dw (v * 2 ^ (8 * (off % 8)))
/-- Writes the bits of a mask. -/
def maskedWrite (old new mask : DWord) : DWord := (old &&& ~~~mask) ||| (new &&& mask)

/-! ### Mailbox windows (R328) -/

def mailboxQuad (m : Mailbox) (off : Nat) : DWord :=
  match off / 8 with
  | 0 => dw (b2n m.en)
  | 1 => m.asid.zeroExtend 64
  | 2 => m.wkey
  | 3 => m.door
  | 4 => m.err.zeroExtend 64
  | _ => 0
def State.mailbox (s : State) (part port : Nat) : Mailbox := (s.part part).mailboxes.getD port {}
def State.modMailbox (s : State) (part port : Nat) (f : Mailbox → Mailbox) : State :=
  s.modPart part (fun p => { p with mailboxes := p.mailboxes.set port (f (p.mailboxes.getD port {})) })
def mailboxRead (s : State) (part port off n : Nat) : Nat := quadPart (mailboxQuad (s.mailbox part port) off) off n
/-- DOOR is RO and ERR is W1C. -/
def mailboxWrite (s : State) (part port off n v : Nat) : State :=
  let w := maskedWrite (mailboxQuad (s.mailbox part port) off) (quadAt off v) (quadMask off n)
  s.modMailbox part port (fun m =>
    match off / 8 with
    | 0 => { m with en := w.getLsbD 0 }
    | 1 => { m with asid := w.extractLsb' 0 16 }
    | 2 => { m with wkey := w }
    | 4 => { m with err := m.err &&& ~~~((quadAt off v &&& quadMask off n).extractLsb' 0 3) }
    | _ => m)

/-! ### The device-register page (R330 to R332) -/

/-- The bits software may store at each quadword; zero for RO and unassigned ones. -/
def devRegMask (off : Nat) : DWord :=
  if off < 0x1000 then
    match off / 8 with
    | 0 => 0x3FF#64
    | 1 => 0x003FFFFFFFFFFFFF#64
    | 4 | 8 | 9 | 10 | 11 | 12 => -1#64
    | _ => 0
  else if off < 0x5000 then
    match off / 8 % 8 with
    | 0 => 0x003FFFFFFFFFFFC0#64
    | 1 => 0xF5F#64
    | 2 => 0xFFFFFFFF#64
    | _ => 0
  else 0
/-- NOTIFY and WAKE read as zero. -/
def devPageRead (s : State) (part off n : Nat) : Nat := if off < 0x10 then 0 else memReadNat (s.part part).dev off n
/-- What the VCP does at a store to NOTIFY or WAKE. -/
def notifyAction (part : Nat) (v : DWord) : Option Action :=
  match fld v 8 2 with
  | 0 => some (.event (.kick ⟨part, fld v 0 8⟩))
  | 1 => some (.event (.restart ⟨part, fld v 0 8⟩))
  | 2 => some (.event (.skip ⟨part, fld v 0 8⟩))
  | _ => none
def devPageWrite (s : State) (part off n v : Nat) : State :=
  let q := off / 8 * 8
  let w := maskedWrite ((s.part part).devReg q) (quadAt off v) (quadMask off n &&& devRegMask q)
  let s := s.modPart part (fun p => p.setDevReg q w)
  if q = 0 then (match notifyAction part w with | some a => s.post a | none => s)
  else if q = 8 then s.post (.event (.wake part w))
  else s

/-! ### Queue blocks (R332) -/

/-- Quadword `i` of queue block `q`. -/
def Partition.qReg (p : Partition) (q i : Nat) : DWord := p.devReg (0x1000 + 64 * q + 8 * i)
def Partition.setQReg (p : Partition) (q i : Nat) (v : DWord) : Partition := p.setDevReg (0x1000 + 64 * q + 8 * i) v
/-- A number in bits of quadword `i` of queue block `q`. -/
def Partition.setQField (p : Partition) (q i lo n v : Nat) : Partition := p.setQReg q i (dw (setBits (p.qReg q i).toNat lo n v))
def Partition.qEn (p : Partition) (q : Nat) : Bool := (p.qReg q 1).getLsbD 6
def Partition.qLog (p : Partition) (q : Nat) : Nat := fld (p.qReg q 1) 0 5
def Partition.qPri (p : Partition) (q : Nat) : Nat := fld (p.qReg q 1) 8 2
def Partition.qBase (p : Partition) (q : Nat) : DWord := p.qReg q 0 &&& 0x003FFFFFFFFFFFC0#64
def Partition.wptr (p : Partition) (q : Nat) : Nat := fld (p.qReg q 2) 0 32
def Partition.rptr (p : Partition) (q : Nat) : Nat := fld (p.qReg q 3) 0 32
def Partition.cptr (p : Partition) (q : Nat) : Nat := fld (p.qReg q 4) 0 32
/-- STATE: 0 IDLE, 1 ACTIVE, 2 FAULTED, 3 SAVED. -/
def Partition.qState (p : Partition) (q : Nat) : Nat := fld (p.qReg q 5) 0 2

/-! ### Gangs (R415) -/

def gangBase (s : State) (part : Nat) : Nat := ((s.part part).reg 0x90).toNat
/-- Quadword `i` of gang entry `g`. -/
def gangQuad (s : State) (part g i : Nat) : DWord := dw (homeRead s (gangBase s part + 64 * g + 8 * i) 8)
/-- The gang entry a queue belongs to: the lowest valid one that lists it. -/
def gangOf (s : State) (part queue : Nat) : Option Nat :=
  if gangBase s part = 0 then none
  else (upTo 16).find? (fun g => (gangQuad s part g 0).getLsbD 63 && (gangQuad s part g (1 + queue / 64)).getLsbD (queue % 64))
/-- The scope of an access of a group or program of a grid: one at gang scope is performed at fabric scope when the gang lists devices, and at
device scope otherwise (R69, R415). -/
def gangScope (s : State) (grid : Option Nat) (scope : Nat) : Nat :=
  if scope != 9 then scope
  else
    match grid.bind s.grid? with
    | some r =>
      (match gangOf s r.part r.packet.queue with
       | some e => if fld (gangQuad s r.part e 6) 0 8 != 0 then 10 else 8
       | none => 8)
    | none => 8

end Sys2Proof.Machine
end

