-- ==== Sys2Proof/Machine/RemoteOps.lean ====
section
/-! DEFINITION. Remote accesses on the sender's side (R405, R406, R408, R409): the route, the request, and what ends the wait. -/

namespace Sys2Proof.Machine

/-! ### Routes (R405, R406) -/

def jobValid (s : State) (part : Nat) : Bool := ((s.part part).reg 0x78).getLsbD 32
def jobKey (s : State) (part : Nat) : BitVec 32 := ((s.part part).reg 0x78).extractLsb' 0 32
/-- Route entry of an aperture address: the destination and whether it is a host; `none` for NOROUTE. An entry with a reserved bit set is
invalid (R4). -/
def routeEntry (s : State) (part pa : Nat) : Option (Word × Bool) :=
  let e := homeRead s (((s.part part).reg 0x80).toNat + 8 * bits pa 40 8) 8
  if jobValid s part && bit e 63 && bits e 32 30 = 0 then some (wd (bits e 0 32), bit e 62) else none
def cNoRoute (va : Nat) : Cause := causeAt cRemref 3 va
/-- The bytes that a request at an offset touches: offset and size. An element of a unit lies in one block. -/
def opSpans (off : Nat) (op : RemoteOp) : List (Nat × Nat) :=
  match op with
  | .read n => [(off, n)]
  | .write bs | .writeBits bs _ => [(off, bs.length)]
  | .rmw _ ty _ | .acas ty _ _ | .redt _ ty _ _ => [(off, (tyBits ty + 7) / 8)]
  | .arrive _ | .word => [(off, 8)]
  | .draw n _ _ offs => (if offs.isEmpty then [off] else offs).map (fun o => (o, n))
  | .writeUnit ps => if ps.isEmpty then [(off, 1)] else ps.map (fun p => (p.off, p.data.length))
  | .redtUnit _ _ _ es => if es.isEmpty then [(off, 1)] else es.map (fun e => (e.1, 1))
/-- The 64-byte blocks of the destination that a request touches: they order requests of one group (R409). -/
def RemoteLane.blocks (r : RemoteLane) : List Nat :=
  ((opSpans r.off r.op).flatMap (fun p => (upTo ((p.1 % 64 + max 1 p.2 + 63) / 64)).map (fun i => p.1 / 64 + i))).eraseDups
/-- A request of a group to this block is not accepted yet. -/
def blockAsked (s : State) (group : Nat) (dest : Word) (block : Nat) : Bool :=
  s.remotes.any (fun o => o.group == group && o.lanes.any (fun x => x.state == .waiting && x.dest == dest && x.blocks.contains block))
/-- An earlier request of the group to one of its blocks is not accepted yet: the sender holds this one (R409). -/
def blockHeld (s : State) (group : Nat) (r : RemoteLane) : Bool := r.blocks.any (blockAsked s group r.dest)
/-- What held requests wait for: every block of theirs. -/
def heldPlaces (rs : List RemoteLane) : List (Word × Nat) := rs.flatMap (fun r => r.blocks.map (fun b => (r.dest, b)))
/-- Sends the requests of an operation (R406). -/
def sendAll (s : State) (part : Nat) (order : BitVec 3) (scope : BitVec 4) (rs : List RemoteLane) : State :=
  { s with egress := s.egress ++ rs.map (fun r => FabricMsg.request r.dest s.devid (jobKey s part) r.off r.op order scope) }
/-- An access that translated through one of these page-table entries, and that is on its way to another device (R383). -/
def remapBusy (s : State) (es : List (Nat × Nat)) : Bool :=
  !es.isEmpty && s.remotes.any (fun o => o.lanes.any (fun r =>
    (r.state == .waiting || r.state == .accepted) && r.src.any (fun a => es.any (fun q => q.1 < a + 8 && a < q.1 + q.2))))
/-- The request of one lane for a place behind an aperture; NOROUTE when the route is not valid. -/
def remoteLane (s : State) (part lane : Nat) (addr : DWord) (pa : Nat) (op : RemoteOp) : Except Cause RemoteLane :=
  match routeEntry s part pa with
  | none => .error (cNoRoute addr.toNat)
  | some (dest, host) =>
    match op, host with
    | .redt _ _ _ _, true | .redtUnit _ _ _ _, true | .writeUnit _, true => .error (causeAt cRemref 1 addr.toNat)
    | _, _ => .ok { lane := lane, addr := addr, dest := dest, off := bits pa 0 40, op := op, state := .waiting }

/-! ### The end of the wait (R408) -/

/-- The cause of a refused lane. -/
def remoteCause (r : RemoteLane) : Option Cause :=
  match r.state with
  | .nak sub => some { causeAt cRemref 0 r.addr.toNat with sub := sub }
  | .timeout => some (causeAt cRemtimeout 0 r.addr.toNat)
  | .poisoned => some (causeAt cBarpoison 0 r.addr.toNat)
  | _ => none
/-- Whether a request only writes: its ACCEPT is all that a program waits for. -/
def writesOnly (r : RemoteLane) : Bool :=
  match r.op with
  | .write _ | .writeBits _ _ | .writeUnit _ | .redt _ _ _ _ | .redtUnit _ _ _ _ => true
  | _ => false
/-- The data of an answer as bytes of a register or of memory: elements of a decoded page one a byte (R60). -/
def RemoteLane.value (r : RemoteLane) (data : List Byte) : Nat :=
  match r.unpack with
  | none => leNat data
  | some (sh, n) => (upTo n).foldl (fun v i => v + 256 ^ i * bits (leNat data) (sh + 6 * i) 6) 0
/-- The offset of a request, with the bit where its first element begins on a decoded page. -/
def RemoteLane.spot (r : RemoteLane) : Nat := r.off + 2 ^ 48 * (match r.unpack with | some q => q.1 + 1 | none => 0)
/-- The bytes that hold a run of packed elements. -/
def packedBytes (sh n : Nat) : Nat := (sh + 6 * n + 7) / 8
/-- The request to read `n` bytes there, or the packed bytes of its elements. -/
def RemoteLane.reading (r : RemoteLane) (n : Nat) : RemoteLane :=
  { r with op := .read (match r.unpack with | some q => packedBytes q.1 q.2 | none => n) }
/-- Elements in packed form, and the bits they take. -/
def packedData (sh : Nat) (vs : List Byte) : List Byte × List Byte :=
  let n := packedBytes sh vs.length
  (leBytes n (vs.zipIdx.foldl (fun x q => x + 2 ^ (sh + 6 * q.2) * (q.1.toNat % 64)) 0), leBytes n ((2 ^ (6 * vs.length) - 1) * 2 ^ sh))
/-- The request of a lane whose address lies behind an aperture, by the page's format (R60): loads and stores of a decoded page move packed
elements, other accesses raise SPACE. -/
def remotePage (s : State) (part lane : Nat) (addr : DWord) (pa : Nat) (e : TlbEntry) (op : RemoteOp) : Except Cause RemoteLane :=
  if e.kind != 5 then (remoteLane s part lane addr pa op).map (fun r => { r with src := e.src.map (·.1) })
  else
    let el := addr.toNat % 65536
    let at_ (n : Nat) (op : RemoteOp) : Except Cause RemoteLane :=
      (remoteLane s part lane addr (elemByte (pa / 65536 * 65536) el) op).map (fun r =>
        { r with unpack := some (elemShift el, n), src := e.src.map (·.1) })
    match op with
    | .read n => at_ n (.read (packedBytes (elemShift el) n))
    | .write bs => let d := packedData (elemShift el) bs; at_ bs.length (.writeBits d.1 d.2)
    | _ => .error (causeAt cSpace 0 addr.toNat)
/-- The causes of the lanes a refused request was made for: each lane's own address. -/
def remoteCauses (r : RemoteLane) : List (Nat × Cause) :=
  match remoteCause r with
  | some c => (r.lane, c) :: r.also.map (fun x => (x.1, { c with addr := x.2.1 }))
  | none => []
/-- Joins a TDRAW lane's request to that of an earlier lane of the same device. -/
def joinDraw (ls : List RemoteLane) (r : RemoteLane) : List RemoteLane :=
  if ls.any (fun x => x.dest == r.dest) then
    ls.map (fun x =>
      if x.dest == r.dest then
        { x with also := x.also ++ [(r.lane, r.addr, r.off)]
                 src := x.src ++ r.src
                 op := match x.op with | .draw n q c os => .draw n q c (os ++ [r.off]) | o => o }
      else x)
  else ls ++ [{ r with op := match r.op with | .draw n q c _ => .draw n q c [r.off] | o => o }]
/-- An arrival is answered whole only by its COMPLETE, which tells whether the word was poisoned (R232). -/
def arrivesOp (op : RemoteOp) : Bool := match op with | .arrive _ => true | _ => false
/-- Lanes still awaited: for their ACCEPT, or for their COMPLETE. -/
def stillAwaited (o : RemoteOut) : Bool :=
  o.lanes.any (fun r => r.state == .waiting || r.state == .idle || (o.atComplete && r.state == .accepted))
def RemoteOut.finished (o : RemoteOut) : Bool := o.lanes.all (fun r => r.state != .waiting && r.state != .idle && r.state != .accepted)

end Sys2Proof.Machine
end

