-- ==== Sys2Proof/Machine/TunOps.lean ====
section
/-! DEFINITION. Resident operators: the descriptor's fields (R126, R127), strides and layout (R129, R131), feed stores (R134 to R137),
fires (R138, R141), abandonment, and the draw window (R139). -/

namespace Sys2Proof.Machine

/-! ### The descriptor (R126, R127) -/

def Tun.quad (t : Tun) (i : Nat) : DWord := t.desc.getD i 0
def Tun.geom (t : Tun) (lo n : Nat) : Nat := fld (t.quad 1) lo n
def Tun.m (t : Tun) : Nat := t.geom 0 11 + 1
def Tun.k (t : Tun) : Nat := t.geom 12 12 + 1
def Tun.opTy (t : Tun) : BitVec 5 := BitVec.ofNat 5 (t.geom 24 5)
def Tun.inTy (t : Tun) : BitVec 5 := BitVec.ofNat 5 (t.geom 29 5)
def Tun.resTy (t : Tun) : BitVec 5 := BitVec.ofNat 5 (t.geom 34 5)
/-- MODE 1: accumulate until consumed. -/
def Tun.accum (t : Tun) : Bool := t.geom 39 1 == 1
def Tun.scaled (t : Tun) : Bool := t.geom 40 1 == 1
def Tun.stripes (t : Tun) : Nat := 2 ^ t.geom 41 2
/-- The tun's scope as a scope code: die, device, fabric. -/
def Tun.scope (t : Tun) : Nat := match t.geom 43 2 with | 0 => 6 | 1 => 8 | _ => 10
def Tun.nslots (t : Tun) : Nat := t.geom 45 8 + 1
def Tun.feedVa (t : Tun) : Nat := fld (t.quad 4) 16 38 * 65536
def Tun.drawVa (t : Tun) : Nat := fld (t.quad 5) 16 38 * 65536
def Tun.enable (t : Tun) (i : Nat) : Bool := (t.quad 4).getLsbD i
def Tun.remote (t : Tun) (i : Nat) : Bool := (t.quad 4).getLsbD (8 + i)
/-- FILLTMO in µs; 0 for never. -/
def Tun.fillTmo (t : Tun) : Nat := fld (t.quad 5) 0 16
/-- Slot base and count of writer entry `i`. -/
def Tun.base (t : Tun) (i : Nat) : Nat := fld (t.quad (6 + i / 4)) (16 * (i % 4)) 8
def Tun.count (t : Tun) (i : Nat) : Nat := fld (t.quad (6 + i / 4)) (16 * (i % 4) + 8) 8 + 1
def Tun.key (t : Tun) (i : Nat) : DWord := t.quad (8 + i)

/-! ### Layout (R129, R131) -/

/-- Storage bits of an element: six-bit formats take a byte. -/
def storeBits (ty : BitVec 5) : Nat := if tyBits ty = 6 then 8 else tyBits ty
/-- A row of K elements, rounded up to 64 bytes. -/
def rowStride (k bits : Nat) : Nat := roundUp (ceilDiv (k * bits) 8) 64
def Tun.feedStride (t : Tun) : Nat := rowStride t.k (storeBits t.inTy)
def Tun.opStride (t : Tun) : Nat := rowStride t.k (storeBits t.opTy)
def Tun.resSize (t : Tun) : Nat := tyBits t.resTy / 8
def Tun.drawStride (t : Tun) : Nat := roundUp (8 + t.m * t.resSize) 64
def Tun.scalesPerRow (t : Tun) : Nat := ceilDiv t.k 32
/-- Element `k` of packed bytes that start at bit 0 of `v`. -/
def packedElem (ty : BitVec 5) (v k : Nat) : Nat := bits v (storeBits ty * k) (tyBits ty)

/-- The physical address of draw-window offset `off`: by the frames the window was installed over. -/
def Tun.drawAt (t : Tun) (off : Nat) : Nat := t.drawPages.getD (off / 65536) 0 + off % 65536
/-- Writes `n` bytes of a draw slot, byte by byte, in its frame and as the proper value. -/
def drawWrite (s : State) (t : Tun) (off v : Nat) : Nat → State
  | 0 => s
  | n + 1 =>
    drawWrite ((homeWrite s (t.drawAt off) 1 (v % 256)).modTun t.num (fun x => { x with own := memWrite x.own (t.drawAt off) (BitVec.ofNat 8 v) }))
      t (off + 1) (v / 256) n
/-- Reads `n` bytes of a draw slot. -/
def drawRead (s : State) (t : Tun) (off : Nat) : Nat → Nat
  | 0 => 0
  | n + 1 => homeRead s (t.drawAt off) 1 + 256 * drawRead s t (off + 1) n

/-! ### The status word and the slot (R139, R141) -/

def statusWord (writer state seq : Nat) : Nat := writer * 2 ^ 40 + state * 2 ^ 32 + seq % 2 ^ 32
def Tun.status (s : State) (t : Tun) (slot : Nat) : Nat := drawRead s t (slot * t.drawStride) 8
def slotState (w : Nat) : Nat := bits w 32 8
def slotSeq (w : Nat) : Nat := bits w 0 32
/-- Writes a slot as one unit: status and M results (as one number). -/
def putSlot (s : State) (t : Tun) (slot status results : Nat) : State :=
  let o := slot * t.drawStride
  drawWrite (drawWrite s t o status 8) t (o + 8) results (t.m * t.resSize)
/-- SEQ `q` is newer than `p` (R142). -/
def newerSeq (q p : Nat) : Bool := let d := (q + 2 ^ 32 - p % 2 ^ 32) % 2 ^ 32; 1 ≤ d && d < 2 ^ 31

/-! ### Fill state -/

/-- The fill state of a slot. It is the tun's own; a value written through another mapping of the feed frames reaches it by
`Action.fillWritten` (R124; log entry 98). -/
def Tun.slot? (t : Tun) (n : Nat) : Option TunSlot := t.slots.find? (fun x => x.slot == n)
/-- Replaces a slot's fill state; an idle one is not listed. -/
def Tun.setSlot (t : Tun) (x : TunSlot) : Tun := { t with slots := x :: t.slots.filter (fun y => y.slot != x.slot) }
def Tun.clearSlot (t : Tun) (n : Nat) : Tun := { t with slots := t.slots.filter (fun y => y.slot != n) }
/-- All K bits. -/
def Tun.full (t : Tun) (v : BitVec 4096) : Bool := v.toNat == 2 ^ t.k - 1
/-- Sets elements of a filling slot; when the last bit is set the slot fires (R137). -/
def fillElems (now : DWord) (t : Tun) (slot : Nat) (writer : BitVec 8) (es : List (Nat × Nat)) : Tun :=
  let x := (t.slot? slot).getD { slot := slot, valid := 0, elems := List.replicate t.k 0, since := now }
  if es.isEmpty then t
  else
    let valid := es.foldl (fun (v : BitVec 4096) e => v ||| (1#4096 <<< e.1)) x.valid
    let elems := es.foldl (fun (l : List Nat) e => l.set e.1 e.2) x.elems
    if t.full valid then t.setSlot { x with valid := 0, elems := elems, firing := true, writer := writer }
    else t.setSlot { x with valid := valid, elems := elems }
/-- A permitted store: held while its slot is firing (R137, R140). -/
def acceptFeed (now : DWord) (t : Tun) (slot : Nat) (writer : BitVec 8) (es : List (Nat × Nat)) : Tun :=
  match t.slot? slot with
  | some x => if x.firing then t.setSlot { x with held := x.held ++ [(writer, es)] } else fillElems now t slot writer es
  | none => fillElems now t slot writer es
/-- Held stores are applied after a fire; those that come after another completion are held again. -/
def applyHeld (now : DWord) (t : Tun) (slot : Nat) : List (BitVec 8 × List (Nat × Nat)) → Tun
  | [] => t
  | h :: hs => applyHeld now (acceptFeed now t slot h.1 h.2) slot hs

/-! ### Other mappings of a window's frames (R124) -/

/-- The element or status word of a draw slot that an offset of the draw window lies in: offset and size. -/
def Tun.drawPart (t : Tun) (off : Nat) : Nat × Nat :=
  let b := off / t.drawStride * t.drawStride
  let r := off - b
  if r < 8 then (b, 8) else (b + 8 + (r - 8) / t.resSize * t.resSize, t.resSize)
/-- `n` proper bytes of a draw slot go back into its frame. -/
def restoreDraw (s : State) (t : Tun) (off : Nat) : Nat → State
  | 0 => s
  | n + 1 => restoreDraw (homeWrite s (t.drawAt off) 1 (memRead t.own (t.drawAt off)).toNat) t (off + 1) n
/-- One of the two outcomes of R124 for a part of a draw slot: its proper value. The other, what was written, is what the frame holds. -/
def drawProper (s : State) (num off : Nat) : State :=
  match s.tun? num with
  | some t => if t.installing || t.nslots * t.drawStride ≤ off then s else restoreDraw s t (t.drawPart off).1 (t.drawPart off).2
  | none => s
/-- The physical address of offset `off` of the feed window. -/
def Tun.feedAt (t : Tun) (off : Nat) : Nat := t.feedPages.getD (off / 65536) 0 + off % 65536
/-- One of the two outcomes of R124 for an element of a fill: a value written at an offset of the feed frames, where the bytes are no longer those
of the install. The other, its proper value, is what the fill holds. -/
def fillWritten (s : State) (num slot elem off : Nat) : State :=
  match s.tun? num with
  | some t =>
    let n := max 1 (storeBits t.inTy / 8)
    match t.slot? slot with
    | some x =>
      if t.installing || t.k ≤ elem || 65536 * t.feedPages.length < off + n || homeRead s (t.feedAt off) n = memReadNat t.own (t.feedAt off) n then s
      else s.modTun num (fun t => t.setSlot { x with elems := x.elems.set elem (homeRead s (t.feedAt off) n % 2 ^ tyBits t.inTy) })
    | none => s
  | none => s

/-! ### Writers (R136) -/

/-- Who feeds: an agent of this device by its partition and key, or a remote agent by job key and device address. -/
inductive FeedWriter where
  | here (part : Nat) (key : DWord)
  | remote (job src : BitVec 32)
deriving DecidableEq, Repr

def entryMatches (t : Tun) (w : FeedWriter) (slot i : Nat) : Bool :=
  t.enable i && t.base i ≤ slot && slot < t.base i + t.count i &&
  (match w with
   | .here part key => !t.remote i && t.part == part && t.key i == key
   | .remote job src => t.remote i && fld (t.key i) 32 32 == job.toNat &&
       (fld (t.key i) 0 32 == src.toNat || fld (t.key i) 0 32 == 0xFFFFFFFF))
/-- The writer entry of a store: the lowest that permits it. -/
def writerEntry (t : Tun) (w : FeedWriter) (slot : Nat) : Option Nat := (upTo 8).find? (fun i => entryMatches t w slot i)

/-! ### A feed store (R134, R135) -/

/-- The elements that `n` bytes at offset `o` of a slot cover, with their codes; `none` when a byte is padding or beyond. -/
def feedElems (t : Tun) (o n v : Nat) : Option (List (Nat × Nat)) :=
  let b := storeBits t.inTy
  let rowBytes := ceilDiv (t.k * b) 8
  if t.feedStride < o + n || rowBytes < o + n then none
  else
    let first := 8 * o / b
    some (((upTo (8 * n / b)).filter (fun i => first + i < t.k)).map (fun i => (first + i, packedElem t.inTy v i)))
/-- A store of `n` bytes to virtual address `va` of a feed page of tun `num`. The cause, or the state after it. -/
def feedStore (s : State) (num : Nat) (w : FeedWriter) (va n v : Nat) (sig : List (Nat × Nat)) : State × Option Cause :=
  match s.tun? num with
  | none => (s, some (causeAt cPage 0 va))
  | some t =>
    if t.installing then (s, some (causeAt cTunnotready 0 va))
    else if (n % 2 = 1 || va % 2 = 1) && storeBits t.inTy == 16 then (s, some (causeAt cTunalign 0 va))
    else if va < t.feedVa || t.feedVa + t.nslots * t.feedStride < va + n then (s, some (causeAt cTunaccess 0 va))
    else
      let slot := (va - t.feedVa) / t.feedStride
      match feedElems t ((va - t.feedVa) % t.feedStride) n v with
      | none => (s, some (causeAt cTunaccess 0 va))
      | some es =>
        match writerEntry t w slot with
        | none => (s.modTun num (fun t => { t with refused := t.refused + 1 }), some (causeAt cTunperm 0 va))
        | some i =>
          (s.modTun num (fun t => { acceptFeed s.clock t slot (BitVec.ofNat 8 i) es with sig := unionPairs t.sig sig }), none)

/-! ### A fire (R117 to R119, R138) -/

/-- Result `m` of a fire: operator row, elements and accumulator, rounded once to nearest even. -/
def fireResult (t : Tun) (elems : List Nat) (acc m : Nat) : Nat :=
  let row := t.op.getD m []
  if t.resTy.toNat = 6 then
    let x : Int := (upTo t.k).foldl (fun (a : Int) k => a + intVal t.opTy (row.getD k 0) * intVal t.inTy (elems.getD k 0)) (intVal 6 acc)
    fitInt 6 false x
  else
    let terms := (upTo t.k).map (fun k =>
      let p := fmulV (fdec t.opTy (row.getD k 0)) (fdec t.inTy (elems.getD k 0))
      if t.scaled then
        let e := (t.scales.getD m []).getD (k / 32) 0
        if e = 255 then FVal.nan else p.scale ((e : Int) - 127)
      else p)
    froundV t.resTy 0 0 (fsumV 0 (fdec t.resTy acc :: terms))
/-- The accumulator input of result `m`. -/
def fireAcc (s : State) (t : Tun) (slot m : Nat) : Nat :=
  if t.accum && slotState (t.status s slot) == 1 then drawRead s t (slot * t.drawStride + 8 + m * t.resSize) t.resSize
  else t.bias.getD m 0
/-- All M results as one number, result 0 lowest. -/
def fireResults (s : State) (t : Tun) (slot : Nat) (elems : List Nat) : Nat :=
  (upTo t.m).foldl (fun r m => r + 2 ^ (8 * t.resSize * m) * fireResult t elems (fireAcc s t slot m) m) 0
/-- Ends a fire: writes the slot, counts, and applies the stores that were held (R138, R140, R141). -/
def endFire (s : State) (t : Tun) (x : TunSlot) : State :=
  let st := t.status s x.slot
  let seq := slotSeq st + 1
  let s' := if t.bad then putSlot s t x.slot (statusWord 0 3 seq) 0
    else putSlot s t x.slot (statusWord x.writer.toNat 1 seq) (fireResults s t x.slot x.elems)
  s'.modTun t.num (fun t =>
    let t := if t.bad then { t with faulted := t.faulted + 1 }
      else { t with fires := t.fires + 1, overrun := if !t.accum && slotState st == 1 then t.overrun + 1 else t.overrun }
    applyHeld s.clock (t.clearSlot x.slot) x.slot x.held)
/-- Abandons a fill (R137, R141). -/
def abandonFill (s : State) (t : Tun) (slot : Nat) : State :=
  (putSlot s t slot (statusWord 0 2 (slotSeq (t.status s slot))) 0).modTun t.num (fun t =>
    { t.clearSlot slot with abandoned := t.abandoned + 1 })

/-! ### The draw window (R139, R125) -/

/-- The checks of a load of the draw window. -/
def drawCheck (s : State) (num va n : Nat) : Option Cause :=
  match s.tun? num with
  | none => some (causeAt cPage 0 va)
  | some t =>
    if t.installing then some (causeAt cTunnotready 0 va)
    else if va < t.drawVa || t.drawVa + t.nslots * t.drawStride < va + n then some (causeAt cTunaccess 0 va)
    else none

end Sys2Proof.Machine
end

