-- ==== Sys2Proof/Machine/MemOps.lean ====
section
/-! DEFINITION. One access at a time: where it goes and its checks (R48 to R54, R379, R426), loads, stores and read-modify-writes of one
value with order, scope and cache policy (R55 to R60, R68, R73, R76, R79, R83, R84), and lanes run one after another (R37, R50). -/

namespace Sys2Proof.Machine

/-! ### Where an access goes -/

/-- A checked place: a byte of scratchpad or die scratchpad, or what a global address reaches. -/
inductive Place where
  | loc (l : Loc)
  | glob (t : Target)

/-- The accessing agent and how it accesses: context, whether its team is paired, kind of access for the trap frame (R390). -/
structure Agent where
  ctx : Ctx
  paired : Bool
  writer : FeedWriter
  /-- The group its remote requests belong to. -/
  group : Nat
  /-- A lane of a partition whose WAYMASK is 0: every access behaves as CP 3 (R386). -/
  na : Bool := false

/-- Order and scope of an access; order 0 is weak (R151). -/
structure Ord where
  order : Nat
  scope : Nat
  cp : Nat
deriving DecidableEq, Repr

def Ord.strong (o : Ord) : Bool := o.order != 0
/-- Acquire, acq-rel, seq-cst. -/
def Ord.acquires (o : Ord) : Bool := o.order == 2 || o.order == 4 || o.order == 5
/-- Release, acq-rel, seq-cst. -/
def Ord.releases (o : Ord) : Bool := o.order == 3 || o.order == 4 || o.order == 5

/-- The agent of a split's lane. -/
def laneAgent (s : State) (g : Group) (sp : Split) : Agent :=
  { ctx := splitCtx g sp, paired := match s.team? g.team with | some t => t.paired | none => false,
    writer := .here (fld g.partid 0 4) g.wkey, group := g.uid, na := fld ((s.part (fld g.partid 0 4)).reg 0x28) 0 16 == 0 }
/-- The cache policy of an access to a page (R378): the instruction's CP unless it is 0, else the page's; CP 3 where WAYMASK is 0 (R386). -/
def Ord.onPage (o : Ord) (a : Agent) (e : TlbEntry) : Ord :=
  { o with cp := if a.na then 3 else if o.cp != 0 then o.cp else e.cp.toNat }

/-- An access at gang scope as the gang of its group performs it (R415). -/
def Ord.gang (o : Ord) (s : State) (g : Group) : Ord := { o with scope := gangScope s (some g.grid) o.scope }
/-- The team of a grid on the core of rank `r` in the cluster of a team (R53): the team itself on its own core, else the one with the lowest
TEAMID there (DESIGN CHOICE where a core holds several, log entry 101). -/
def teamAtRank (s : State) (t : Team) (r : Nat) : Option Team :=
  if t.core % 8 = r then some t
  else
    (s.teams.filter (fun x => x.grid == t.grid && !x.saved && x.core == 8 * (t.core / 8) + r)).foldl (fun o x =>
      match o with | none => some x | some y => if x.teamid < y.teamid then some x else o) none
/-- Scratchpad, cluster and die offsets (R49, R52 to R54). -/
def placeOffset (s : State) (c : Ctx) (sp : Space) (a n : Nat) : Except Cause Place :=
  if a % n != 0 then .error (causeAt cAlign 0 a)
  else
    match sp with
    | .scratch =>
      match c.team.bind s.team? with
      | some t => if a + n ≤ t.scratch then .ok (.loc (.scratch t.uid a)) else .error (causeAt cSpace 0 a)
      | none => .error (causeAt cSpace 0 a)
    | .cluster =>
      match c.grid.bind s.grid?, c.team.bind s.team? with
      | some r, some t =>
        if !r.clus || 8 * 2 ^ 18 ≤ a then .error (causeAt cSpace 0 a)
        else
          match teamAtRank s t (a / 2 ^ 18) with
          | some t => if a % 2 ^ 18 + n ≤ t.scratch then .ok (.loc (.scratch t.uid (a % 2 ^ 18))) else .error (causeAt cSpace 0 a)
          | none => .error (causeAt cSpace 0 a)
      | _, _ => .error (causeAt cSpace 0 a)
    | _ =>
      match c.grid.bind s.grid? with
      | some r => if a + n ≤ r.dieAlloc then .ok (.loc (.die (r.uid * 4 + dieOf c.core) a)) else .error (causeAt cSpace 0 a)
      | none => .error (causeAt cSpace 0 a)
/-- The checks of one access of `n` bytes up to permissions. -/
def place (s : State) (c : Ctx) (sp : Space) (need : Need) (addr : DWord) (n : Nat) : State × Except Cause Place :=
  match sp with
  | .global =>
    match globalCheck s c need addr n with
    | (s, .error f) => (s, .error f)
    | (s, .ok t) => (s, .ok (.glob t))
  | _ => (s, placeOffset s c sp addr.toNat n)

/-! ### Bytes at a place -/

def locRead (s : State) (l : Loc) (n : Nat) : Nat :=
  match l with
  | .hbm a => homeRead s a n
  | .scratch t o => memReadNat s.scratch (t * 2 ^ 19 + o) n
  | .die k o => memReadNat s.dieScratch (k * 2 ^ 25 + o) n
  | .page p o => devPageRead s p o n
  | .away _ _ => 0
def locWrite (s : State) (l : Loc) (n v : Nat) : State :=
  match l with
  | .hbm a => softWrite s a n v
  | .scratch t o => { s with scratch := memWriteNat s.scratch (t * 2 ^ 19 + o) n v }
  | .die k o => { s with dieScratch := memWriteNat s.dieScratch (k * 2 ^ 25 + o) n v }
  | .page p o => devPageWrite s p o n v
  | .away _ _ => s

/-- The byte that a veil shows at a location. -/
def Veil.byteAt (x : Veil) (l : Loc) : Option Byte :=
  match x.loc, l with
  | .scratch t a, .scratch u b => if t == u && a ≤ b then x.bytes[b - a]? else none
  | .die t a, .die u b => if t == u && a ≤ b then x.bytes[b - a]? else none
  | _, _ => none
/-- `n` bytes that read as `v`, as a lane sees them in a weak load: a byte under a veil of the lane is the older one (R82). -/
def seenBytes (s : State) (group lane : Nat) (l : Loc) (n v : Nat) : Nat :=
  leNat ((upTo n).map (fun k =>
    match s.veils.findSome? (fun x => if x.group == group && x.lane == lane then x.byteAt (l.plus k) else none) with
    | some b => b
    | none => BitVec.ofNat 8 (bits v (8 * k) 8)))
/-! ### Acquire and release sides (R73, R76, R84) -/

/-- Whether an access is performed at the home, after the core's copy of the line is written back and dropped (R58). -/
def atHome (a : Agent) (o : Ord) : Bool := o.strong && wideScope o.scope a.paired
/-- Whether an access performed in the L1 leaves what stands at the home as it was (R58). -/
def inL1 (a : Agent) (o : Ord) (l : Loc) : Bool := match l with | .hbm _ => !atHome a o | _ => false
/-- A strong read has been made at a location: an acquire applies the signature it read, a relaxed read keeps it for a later acquire
fence. -/
def readSide (s : State) (a : Agent) (o : Ord) (l : Loc) (n : Nat) : State × List (Nat × Nat) :=
  if o.acquires then (acquireAt s a.ctx.core l n o.scope a.paired, [])
  else if o.strong && wideScope o.scope a.paired then (s, sigAt s l n)
  else (s, [])
/-- Whether a strong write releases, of itself or by an earlier release fence, and leaves the L1. -/
def releasesWide (a : Agent) (o : Ord) (fence : Option (BitVec 4)) : Bool :=
  (o.releases && wideScope o.scope a.paired) ||
  (o.strong && wideScope o.scope a.paired && (match fence with | some f => wideScope f.toNat a.paired | none => false))
/-- The signature side of a strong write or RMW at a location. A store performed in the L1 leaves the home's signature. -/
def writeSide (s : State) (a : Agent) (o : Ord) (fence : Option (BitVec 4)) (l : Loc) (n : Nat) (rmw : Bool) : State :=
  if releasesWide a o fence then deposit s l n (releaseLines s a.ctx.core) rmw
  else if rmw || inL1 a o l then s
  else endSequence s l n
/-- A strong write at device scope or wider to a table entry drops translations (R383). -/
def entrySide (s : State) (o : Ord) (l : Loc) (n : Nat) : State :=
  match l with
  | .hbm a => if o.strong && 8 ≤ o.scope then shootdown s a n else s
  | _ => s

/-! ### Loads of global memory -/

/-- `n` bytes within a line, at the home or through the L1 (R57, R58). -/
def lineLoad (s : State) (a : Agent) (o : Ord) (va pa n : Nat) (decoded : Bool) : State × Nat :=
  if atHome a o then (fun s => (s, homeRead s pa n)) (flushLine s a.ctx.core (pa / 128))
  else l1Load s a.ctx.core o.cp va pa n decoded
/-- One element of a decoded page (R60). -/
def elemLoad (s : State) (a : Agent) (o : Ord) (va frame e : Nat) : State × Nat :=
  let p := elemByte frame e
  let r0 := lineLoad s a o va p 1 true
  if elemSpan e = 1 then (r0.1, bits r0.2 (elemShift e) 6)
  else
    let r1 := lineLoad r0.1 a o va (p + 1) 1 true
    (r1.1, bits (r0.2 + 256 * r1.2) (elemShift e) 6)
/-- `n` elements, one a byte. -/
def elemsLoad (s : State) (a : Agent) (o : Ord) (va frame e : Nat) : Nat → State × Nat
  | 0 => (s, 0)
  | n + 1 =>
    let r := elemLoad s a o va frame e
    let t := elemsLoad r.1 a o va frame (e + 1) n
    (t.1, r.2 + 256 * t.2)
/-- The physical bytes that hold `n` elements. -/
def elemRange (frame e n : Nat) : Nat × Nat := (elemByte frame e, elemByte frame (e + n - 1) + elemSpan (e + n - 1) - elemByte frame e)

/-- Accesses of mailbox and device-register pages are strong at device scope, whatever order the instruction gives (R222, R327). -/
def Ord.device (o : Ord) : Ord := { order := max 1 o.order, scope := 8, cp := 0 }
/-- The place of a mailbox window's byte for signatures. -/
def mailboxLoc (part port off : Nat) : Loc := .page part (65536 * (port + 1) + off)
/-- The result of one access. -/
structure Read where
  s : State
  v : Except Cause Nat
  sig : List (Nat × Nat) := []

/-- The acquire side of a read of a draw slot: what the fires' feed stores have released (R85). -/
def drawSide (s : State) (a : Agent) (o : Ord) (sig : List (Nat × Nat)) : State × List (Nat × Nat) :=
  if o.acquires then (if wideScope o.scope a.paired then applySig s a.ctx.core sig else narrowAcquire s a.ctx.core, [])
  else (s, if atHome a o then sig else [])
/-- A load of `n` bytes at a place that is not behind an aperture. -/
def loadPlace (s : State) (a : Agent) (o : Ord) (va n : Nat) (p : Place) : Read :=
  match p with
  | .loc l =>
    if poisoned s l then ⟨s, .error (causeAt cPoison 0 va), []⟩
    else
      let v := locRead s l n
      let r := readSide s a o l n
      ⟨r.1, .ok v, r.2⟩
  | .glob (.plain pa e) =>
    if poisoned s (.hbm pa) then ⟨s, .error (causeAt cPoison 0 va), []⟩
    else
      let v := lineLoad s a (o.onPage a e) va pa n false
      let r := readSide v.1 a o (.hbm pa) n
      ⟨r.1, .ok v.2, r.2⟩
  | .glob (.decoded frame e t) =>
    let q := elemRange frame e n
    if poisonedRange s q.1 q.2 then ⟨s, .error (causeAt cPoison 0 va), []⟩
    else
      let v := elemsLoad s a (o.onPage a t) va frame e n
      let r := readSide v.1 a o (.hbm q.1) q.2
      ⟨r.1, .ok v.2, r.2⟩
  | .glob (.feed e) =>
    if (s.tun? e.tunid.toNat).isNone then ⟨s, .error (causeAt cPage 0 va), []⟩ else ⟨s, .error (causeAt cTunaccess 0 va), []⟩
  | .glob (.draw pa e) =>
    match drawCheck s e.tunid.toNat va n with
    | some c => ⟨s, .error c, []⟩
    | none =>
      if poisoned s (.hbm pa) then ⟨s, .error (causeAt cPoison 0 va), []⟩
      else
        let v := homeRead s pa n
        let r := drawSide s a o (match s.tun? e.tunid.toNat with | some t => t.sig | none => [])
        ⟨r.1, .ok v, r.2⟩
  | .glob (.mailbox port off) =>
    if n != 4 && n != 8 then ⟨s, .error (causeAt cAlign 0 va), []⟩
    else
      let r := readSide s a o.device (mailboxLoc a.ctx.part port off) n
      ⟨r.1, .ok (mailboxRead s a.ctx.part port off n), r.2⟩
  | .glob (.device off) =>
    if n != 4 && n != 8 then ⟨s, .error (causeAt cAlign 0 va), []⟩
    else
      let r := readSide s a o.device (.page a.ctx.part off) n
      ⟨r.1, .ok (devPageRead s a.ctx.part off n), r.2⟩
  | .glob (.remote _ _) => ⟨s.takeFree.2, .ok s.takeFree.1.toNat, []⟩

/-- A lane's load at a place: a weak one on the chip sees what veils show. -/
def seenRead (s : State) (group lane n : Nat) (o : Ord) (p : Place) (r : Read) : Read :=
  match p, r.v with
  | .loc l, .ok v => if o.strong || s.veils.isEmpty then r else { r with v := .ok (seenBytes s group lane l n v) }
  | _, _ => r

/-! ### Stores -/

/-- `n` bytes within a line (R55, R57, R58). -/
def lineStore (s : State) (a : Agent) (o : Ord) (va pa n v : Nat) (decoded : Bool) : State :=
  if atHome a o then
    let s := softWrite (flushLine s a.ctx.core (pa / 128)) pa n v
    scaleUpdate (touch s a.ctx.core (pa / 128)) a.ctx.core pa n v
  else l1Store s a.ctx.core o.cp va pa n v decoded
/-- Replaces the six bits of one element (R60). A write through leaves the other bits of the L1's bytes as they are. -/
def elemStore (s : State) (a : Agent) (o : Ord) (va frame e v : Nat) : State :=
  let p := elemByte frame e
  let sh := elemShift e
  let n := elemSpan e
  if !atHome a o && o.cp == 1 then
    let s := softWrite s p n (setBits (homeRead s p n) sh 6 v)
    let s := (upTo n).foldl (fun s k => scaleUpdate s a.ctx.core (p + k) 1 (homeRead s (p + k) 1)) s
    let s := (upTo n).foldl (fun s k => modLine s .l1 a.ctx.core ((p + k) / 128) (fun c =>
      { c with data := BitVec.ofNat 1024 (setBits c.data.toNat (8 * ((p + k) % 128) + (if k = 0 then sh else 0))
                 (if k = 0 then min 6 (8 - sh) else sh + 6 - 8) (if k = 0 then v else v / 2 ^ (8 - sh))) })) s
    touch s a.ctx.core (p / 128)
  else
    let r0 := lineLoad s a o va p 1 true
    let r1 := if n = 1 then (r0.1, 0) else lineLoad r0.1 a o va (p + 1) 1 true
    let w := setBits (r0.2 + 256 * r1.2) sh 6 v
    let s := lineStore r1.1 a o va p 1 (w % 256) true
    if n = 1 then s else lineStore s a o va (p + 1) 1 (w / 256) true
def elemsStore (s : State) (a : Agent) (o : Ord) (va frame e v : Nat) : Nat → State
  | 0 => s
  | n + 1 => elemsStore (elemStore s a o va frame e (v % 64)) a o va frame (e + 1) (v / 256) n
/-- A store of `n` bytes at a place that is not behind an aperture. -/
def storePlace (s : State) (a : Agent) (o : Ord) (fence : Option (BitVec 4)) (va n v : Nat) (p : Place) : State × Option Cause :=
  match p with
  | .loc l => (coverPoison (if o.strong then writeSide (locWrite s l n v) a o fence l n false else locWrite s l n v) l n, none)
  | .glob (.plain pa e) =>
    let s := lineStore s a (o.onPage a e) va pa n v false
    let s := if o.strong then entrySide (writeSide s a o fence (.hbm pa) n false) o (.hbm pa) n else s
    (s, none)
  | .glob (.decoded frame e t) =>
    let q := elemRange frame e n
    let s := elemsStore s a (o.onPage a t) va frame e v n
    (if o.strong then entrySide (writeSide s a o fence (.hbm q.1) q.2 false) o (.hbm q.1) q.2 else s, none)
  | .glob (.feed e) =>
    (match feedStore s e.tunid.toNat a.writer va n v (if o.releases || fence.isSome then releaseLines s a.ctx.core else []) with
     | (s, none) => (markPage s a.ctx va, none)
     | x => x)
  | .glob (.draw _ e) =>
    if (s.tun? e.tunid.toNat).isNone then (s, some (causeAt cPage 0 va)) else (s, some (causeAt cTunaccess 0 va))
  | .glob (.mailbox port off) =>
    if n != 4 && n != 8 then (s, some (causeAt cAlign 0 va))
    else (writeSide (mailboxWrite s a.ctx.part port off n v) a o.device fence (mailboxLoc a.ctx.part port off) n false, none)
  | .glob (.device off) =>
    if n != 4 && n != 8 then (s, some (causeAt cAlign 0 va))
    else (writeSide (devPageWrite s a.ctx.part off n v) a o.device fence (.page a.ctx.part off) n false, none)
  | .glob (.remote _ _) => (s, none)

/-! ### Read-modify-writes at the home (R79, R224, R226) -/

/-- The page-type refusals of atomics, reductions and barrier words (R226, R426); `none` for a place where they run. R426 gives the cause PROT
of a mailbox or device page without a subcode: 1 (DESIGN CHOICE, log entry 93). -/
def rmwRefusal (s : State) (va : Nat) (p : Place) : Option Cause :=
  match p with
  | .loc _ | .glob (.plain _ _) | .glob (.remote _ _) => none
  | .glob (.decoded _ _ _) => some (causeAt cSpace 0 va)
  | .glob (.feed e) | .glob (.draw _ e) =>
    if (s.tun? e.tunid.toNat).isNone then some (causeAt cPage 0 va) else some (causeAt cTunaccess 0 va)
  | .glob (.mailbox _ _) | .glob (.device _) => some (causeAt cProt 1 va)
/-- The location of a place where an RMW runs. -/
def Place.loc? (p : Place) : Option Loc :=
  match p with
  | .loc l => some l
  | .glob (.plain pa _) => some (.hbm pa)
  | _ => none
/-- One indivisible step at a location: the new value from the old. The old value comes back. -/
def rmwAt (s : State) (a : Agent) (o : Ord) (fence : Option (BitVec 4)) (l : Loc) (n : Nat) (f : Nat → Nat) : State × Nat × List (Nat × Nat) :=
  let s := match l with | .hbm pa => touch (flushLine s a.ctx.core (pa / 128)) a.ctx.core (pa / 128) | _ => s
  let old := locRead s l n
  let r := readSide s a o l n
  let s := locWrite r.1 l n (f old)
  (entrySide (writeSide s a o fence l n true) o l n, old, r.2)
/-- An RMW at a place: refusals, poison, then the step. -/
def rmwPlace (s : State) (a : Agent) (o : Ord) (fence : Option (BitVec 4)) (va n : Nat) (p : Place) (f : Nat → Nat) : Read :=
  match rmwRefusal s va p with
  | some c => ⟨s, .error c, []⟩
  | none =>
    match p.loc? with
    | none => ⟨s, .ok 0, []⟩
    | some l =>
      if poisoned s l then ⟨s, .error (causeAt cPoison 0 va), []⟩
      else
        let r := rmwAt s a o fence l n f
        ⟨r.1, .ok r.2.1, r.2.2⟩

/-! ### Running the lanes of an instruction -/

/-- How one lane's access ended. -/
inductive LaneEnd where
  | done (path : Nat) (v : Nat)
  | fault (c : Cause)
  | remote (r : RemoteLane)

/-- What the lanes of an instruction have done. -/
structure MemRun where
  s : State
  vals : List (Nat × Nat) := []
  faults : List (Nat × Cause) := []
  remote : List RemoteLane := []
  paths : List Nat := []
  sig : List (Nat × Nat) := []

/-- Adds one lane's end. -/
def MemRun.add (m : MemRun) (s : State) (l : Nat) (sig : List (Nat × Nat)) (e : LaneEnd) : MemRun :=
  match e with
  | .done path v =>
    { m with s := s, vals := m.vals ++ [(l, v)], paths := if m.paths.contains path then m.paths else m.paths ++ [path],
             sig := unionPairs m.sig sig }
  | .fault c => { m with s := s, faults := m.faults ++ [(l, c)] }
  | .remote r => { m with s := s, remote := m.remote ++ [r] }
/-- Runs lanes one after another. -/
def runLanes (s : State) (ls : List Nat) (f : State → Nat → State × LaneEnd × List (Nat × Nat)) : MemRun :=
  ls.foldl (fun m l => let r := f m.s l; m.add r.1 l r.2.2 r.2.1) { s := s }
/-- Faults in ascending lane order, whatever the order the lanes ran in. -/
def sortFaults (l : List (Nat × Cause)) : List (Nat × Cause) := (upTo 64).flatMap (fun i => l.filter (fun p => p.1 == i))

/-- Where the lanes' values go: register, registers per value, and its register image. -/
structure Dest where
  reg : Nat
  count : Nat
  image : Nat → Nat
/-- The register writes of the lanes that are done. -/
def MemRun.writes (m : MemRun) (d : Dest) : List RegWrite := m.vals.flatMap (fun p => vWrites p.1 d.reg d.count (d.image p.2))

/-- The order that the requests of an access carry: a relaxed access after a release FENCE of fabric scope is sent as the release it ends (R73,
R76). -/
def sentOrder (o : Ord) (fence : Option (BitVec 4)) : Nat :=
  if o.strong && 9 ≤ o.scope && (match fence with | some f => 9 ≤ f.toNat | none => false) then
    (if o.order = 1 then 3 else if o.order = 2 then 4 else o.order)
  else o.order
/-- Sends an agent's requests. A release that leaves the L1 leaves its signature at the locations on the other devices (R84), and what it covers
goes home at once: no later reader there can ask this core for it (R76, R90). -/
def sendFrom (s : State) (core part : Nat) (order scope : Nat) (wide : Bool) (o : RemoteOut) : State :=
  let o := { o with lanes := o.lanes.map (fun r => { r with since := s.clock }) }
  let s := { s with remotes := s.remotes ++ [o] }
  let s := if wide then
      o.lanes.foldl (fun s r => deposit s (.away r.dest r.off) 8 (releaseLines s core) true)
        ((releaseLines s core).foldl (fun s p => writeBack s p.1 p.2) s)
    else s
  sendAll s part (BitVec.ofNat 3 order) (BitVec.ofNat 4 scope) o.lanes
/-- The stall of requests held behind earlier ones (R409). -/
def heldStall (s : State) (g : Group) (rs : List RemoteLane) : Option Stall :=
  if rs.any (fun r => blockHeld s g.uid r) then some (.block (heldPlaces rs)) else none
/-- Why the instruction cannot issue yet: a 17th result, a 64th operation on a path, or a request held behind an earlier one
(R29, R31, R409). -/
def MemRun.blocked (m : MemRun) (g : Group) (sp : Split) (reg : Bool) (s0 : State) : Option Stall :=
  if reg && sp.pend.length ≥ 16 then some .results
  else
    match (m.paths ++ (if m.remote.isEmpty then [] else [6])).find? (fun p => g.counter p ≥ 63) with
    | some p => some (.counter p)
    | none => (heldStall s0 g m.remote)
/-- Ends a memory-class instruction: counters, outstanding results, requests, traps. `k` finishes an instruction none of whose lanes is
remote. -/
def memClose (s0 : State) (g : Group) (sp : Split) (m : MemRun) (dest : Option (Dest × BitVec 5)) (o0 : Ord) (insn : List Word) : State :=
  let o := o0.gang s0 g
  match m.blocked g sp dest.isSome s0, faultsHeld g sp m.faults with
  | some st, _ => stallAt s0 g sp st
  | none, some p => parkPage s0 g sp sp.mask p
  | none, none =>
    let f := m.s.fresh
    let g := m.paths.foldl (fun (g : Group) p => g.addFlight p f.1 true) g
    let g := if m.remote.isEmpty then g else g.addFlight 6 f.1 false
    let sp := { sp with acqSig := unionPairs sp.acqSig m.sig }
    let sp := match dest with
      | some d =>
        if m.vals.isEmpty && m.remote.isEmpty then sp
        else { sp with pend := sp.pend ++ [{ op := f.1, writes := m.writes d.1, held := !m.remote.isEmpty }] }
      | none => sp
    if m.remote.isEmpty then settleFaults f.2 g sp (sortFaults m.faults) 12 insn
    else
      let out : RemoteOut :=
        { id := f.1, group := g.uid, split := sp.slot, engine := none, dst := (match dest with | some d => d.1.reg | none => 0),
          ty := (match dest with | some d => d.2 | none => 0), reg := dest.isSome, op := f.1, pc := sp.pc,
          insn := insn, lanes := m.remote, faults := sortFaults m.faults,
          atComplete := o.acquires || m.remote.any (fun r => arrivesOp r.op), order := BitVec.ofNat 3 o.order,
          scope := BitVec.ofNat 4 o.scope, mask := sp.mask }
      let s := sendFrom f.2 g.core (fld g.partid 0 4) (sentOrder o sp.relFence) o.scope (releasesWide (laneAgent s0 g sp) o sp.relFence) out
      parkAt s g sp (.statuses f.1)

/-! ### Waiting for engine operations and remote accesses (R73, R74, R88) -/

/-- A program's moves and STX that have been issued, by their requests and the move under way. -/
def progMoving (s : State) (core eng : Nat) (p : Program) : Bool :=
  p.inMove || s.remotes.any (fun o => o.engine == some ⟨core, eng⟩ && o.op == p.serial.toNat && !o.finished && o.lanes.any writesOnly)
/-- One of them is not performed yet: the move is still under way, or a request of it or of an earlier one is not complete. -/
def moveBusy (s : State) (m : MoveRef) : Bool :=
  s.engines.any (fun e => e.core == m.core && e.eng == m.eng &&
    e.progs.any (fun p => p.serial == m.serial && p.begun == m.begun && p.inMove)) ||
  s.remotes.any (fun o => o.engine == some ⟨m.core, m.eng⟩ && o.op == m.serial.toNat && o.begun ≤ m.begun && !o.finished && o.lanes.any writesOnly)
/-- Remote loads, stores and reductions, and feed stores and TINST, but no TDRAW and no WAITPH: what the TUN and FAB bits select. -/
def fenceOp (s : State) (f : Flight) : Bool :=
  !f.done && s.draws.all (fun d => d.op != f.op) && s.remotes.all (fun o => o.op != f.op || o.engine.isSome || o.phase.isNone)
/-- What an access waits for beyond what its order asks: engine operations; earlier strong accesses to other devices, as a strong access;
accesses that translated through page-table entries it writes (R73, R85, R88, R383). -/
structure Waits where
  engines : Nat := 0
  strong : Bool := false
  remap : List (Nat × Nat) := []
/-- The selected engine operations of a group in flight: bit 0 LAU, 1 TUN, 2 FAB (R74). -/
def engineOps (s : State) (g : Group) (pc : CodeAddr) (mask : Nat) : FenceWait :=
  { pc := pc
    ops := (g.flights.filter (fun f => ((bit mask 1 && f.path == 5) || (bit mask 2 && f.path == 6)) && fenceOp s f)).map (·.op)
    moves := if bit mask 0 then s.engines.flatMap (fun e =>
        (e.progs.filter (fun p => p.group == g.uid && progMoving s e.core e.eng p)).map (fun p => ⟨e.core, e.eng, p.serial, p.begun⟩))
      else [] }
/-- What the instruction at the split's PC waits for: as it was when it first came to issue. -/
def Split.fenced (s : State) (g : Group) (sp : Split) (mask : Nat) : FenceWait :=
  match sp.fenceWait with
  | some w => if w.pc == sp.pc then w else engineOps s g sp.pc mask
  | none => engineOps s g sp.pc mask
/-- Some of it is not performed yet. -/
def FenceWait.busy (s : State) (g : Group) (w : FenceWait) : Bool :=
  w.ops.any (fun o => g.flights.any (fun f => f.op == o && !f.done)) || w.moves.any (moveBusy s)
def enginesBusy (s : State) (g : Group) (sp : Split) (mask : Nat) : Bool := (Split.fenced s g sp mask).busy s g
/-- A seq-cst access waits for all three kinds (R74), a fabric-scope release for the group's remote accesses (R88). -/
def fenceMask (o : Ord) (fence : Option (BitVec 4)) : Nat :=
  if o.order = 5 then 7 else if 9 ≤ o.scope && 3 ≤ sentOrder o fence then 4 else 0
/-- An earlier strong access of the same lanes to another device is not performed yet (R73). -/
def strongAway (s : State) (g : Group) (sp : Split) : Bool :=
  s.remotes.any (fun o => o.engine.isNone && o.group == g.uid && o.order.toNat != 0 && !o.finished && (o.mask &&& sp.mask).toNat != 0)
/-- A feed store waits as a strong store; one that releases, of itself or by a release FENCE, to a tun of fabric scope waits for the group's remote
accesses too (R68, R85, R88). -/
def feedWaits (s : State) (c : Ctx) (o : Ord) (fence : Option (BitVec 4)) (sp : Space) (addr : DWord) (n : Nat) : Waits :=
  match (place s c sp needW addr n).2 with
  | .ok (.glob (.feed e)) =>
    { strong := true
      engines := if (o.releases || fence.isSome) && (match s.tun? e.tunid.toNat with | some t => 9 ≤ t.scope | none => false) then 4 else 0 }
  | _ => {}
/-- The bytes that a strong write of device scope or wider changes, which may be page-table entries (R383). -/
def entryWaits (s : State) (c : Ctx) (o : Ord) (sp : Space) (need : Need) (addr : DWord) (n : Nat) : Waits :=
  if !o.strong || o.scope < 8 || s.remotes.isEmpty then {}
  else
    match (place s c sp need addr n).2 with
    | .ok (.glob (.plain pa _)) => { remap := [(pa, n)] }
    | _ => {}
def Waits.and (a b : Waits) : Waits := { engines := a.engines ||| b.engines, strong := a.strong || b.strong, remap := a.remap ++ b.remap }
/-- An access waits before it issues, for what `x` says too. -/
def mustWaitFor (s : State) (g : Group) (sp : Split) (o : Ord) (x : Waits) : Bool :=
  ((o.strong || x.strong) && strongAway s g sp) || remapBusy s x.remap || enginesBusy s g sp (fenceMask (o.gang s g) sp.relFence ||| x.engines)
def mustWait (s : State) (g : Group) (sp : Split) (o : Ord) : Bool := mustWaitFor s g sp o {}
/-- The split waits, and what it waits for is noted. -/
def holdIssue (s : State) (g : Group) (sp : Split) (mask : Nat) (strong : Bool) (remap : List (Nat × Nat)) : State :=
  stallAt s g { sp with fenceWait := some { Split.fenced s g sp mask with remap := remap } } (.fence strong)
def holdFor (s : State) (g : Group) (sp : Split) (o : Ord) (x : Waits) : State :=
  holdIssue s g sp (fenceMask (o.gang s g) sp.relFence ||| x.engines) (o.strong || x.strong) x.remap
def holdAccess (s : State) (g : Group) (sp : Split) (o : Ord) : State := holdFor s g sp o {}
/-- The counter path of an access that is performed here. -/
def pathOf (sp : Space) (p : Place) (store : Bool) : Nat :=
  match sp with
  | .global => (match p with | .glob (.feed _) => 5 | _ => if store then 1 else 0)
  | _ => 2

end Sys2Proof.Machine
end

