-- ==== Sys2Proof/Machine/Reduce.lean ====
section
/-! DEFINITION. What a read-modify-write stores (R123, R223), the tag windows of REDT and LRED (R228), and deadline entries (R412,
R413). -/

namespace Sys2Proof.Machine

/-! ### New values (R123, R223) -/

/-- A subnormal becomes a zero of its sign (R123). -/
def flushSub (ty : BitVec 5) (x : Nat) : Nat :=
  let mag := x % 2 ^ (tyBits ty - 1)
  if mag < 2 ^ mantBits ty then x % 2 ^ tyBits ty - mag else x % 2 ^ tyBits ty
/-- The value ATOM and RED store, by operation. -/
def rmwValue (op : Nat) (ty : BitVec 5) (v old : Nat) : Nat :=
  let w := tyBits ty
  match op with
  | 0 => (old + v) % 2 ^ w
  | 1 => (old + 2 ^ w - v % 2 ^ w) % 2 ^ w
  | 2 => if intVal ty old ≤ intVal ty v then old else v % 2 ^ w
  | 3 => if intVal ty old ≤ intVal ty v then v % 2 ^ w else old
  | 4 => old &&& v
  | 5 => old ||| v % 2 ^ w
  | 6 => old ^^^ v % 2 ^ w
  | 7 => v % 2 ^ w
  | 8 => if old ≥ v then 0 else old + 1
  | 9 => if old = 0 || old > v then v % 2 ^ w else old - 1
  | 10 => flushSub ty (froundV ty 0 0 (fsumV 0 [fdec ty (flushSub ty old), fdec ty (flushSub ty v)]))
  | 11 => fminmax ty false (flushSub ty old) (flushSub ty v)
  | _ => fminmax ty true (flushSub ty old) (flushSub ty v)
/-- ACAS: writes the new value when the old one is the compare value, bit for bit. -/
def casValue (cmp v old : Nat) : Nat := if old = cmp then v else old

/-! ### Several lanes at one address (R50) -/

def insertRank (free l : Nat) : List Nat → List Nat
  | [] => [l]
  | x :: xs => if Config.rmwRank free l ≤ Config.rmwRank free x then l :: x :: xs else x :: insertRank free l xs
def rankSort (free : Nat) (ls : List Nat) : List Nat := ls.foldr (insertRank free) []
/-- The order in which lanes' RMWs are performed: open when two may meet, which their page offsets show. -/
def rmwOrder (s : State) (ls : List Nat) (addr : Nat → DWord) : State × List Nat :=
  let offs := ls.map (fun l => (addr l).toNat % 65536)
  if offs.eraseDups.length = offs.length then (s, ls) else ({ s with free := s.free + 1 }, rankSort s.free ls)

/-! ### Tag windows (R228) -/

/-- What a tag meets in its source's window. -/
inductive TagCheck where
  | fresh (w : RedtWindow)
  | dup
  | noWindow
def shiftWindow (w : RedtWindow) (t : Nat) : RedtWindow :=
  { w with high := wd t, bits := (w.bits <<< ((t + 2 ^ 32 - w.high.toNat) % 2 ^ 32)) ||| 1#4096 }
def tagCheck (s : State) (slice : Nat) (src : List Nat) (t : Nat) : TagCheck :=
  match s.redt.find? (fun w => w.slice == slice && w.src == src) with
  | some w =>
    let up := (t + 2 ^ 32 - w.high.toNat) % 2 ^ 32
    let down := (w.high.toNat + 2 ^ 32 - t % 2 ^ 32) % 2 ^ 32
    if 1 ≤ up && up < 2 ^ 31 then .fresh (shiftWindow w t)
    else if down < 4096 then (if w.bits.getLsbD down then .dup else .fresh { w with bits := w.bits ||| (1#4096 <<< down) })
    else .dup
  | none =>
    if (s.redt.filter (fun w => w.slice == slice)).length ≥ 1024 then .noWindow
    else .fresh { slice := slice, src := src, high := wd t, bits := 1 }
def putWindow (s : State) (w : RedtWindow) : State :=
  { s with redt := w :: s.redt.filter (fun x => !(x.slice == w.slice && x.src == w.src)) }

/-- The grid of a source whose contributions come over the fabric (its device address and its number there) has retired: its windows here go.
How a home learns of it the spec does not say: it is an item of the schedule (R228; log entry 110). -/
def dropRemoteSource (s : State) (dev : Word) (srcId : Nat) : State := { s with redt := s.redt.filter (fun w => w.src != [dev.toNat, srcId]) }

/-! ### Deadline entries (R412, R413) -/

def dltBase (s : State) (part : Nat) : Nat := ((s.part part).reg 0x88).toNat
/-- Quadword `i` of deadline entry `k`. -/
def dltQuad (s : State) (part k i : Nat) : DWord := dw (homeRead s (dltBase s part + 64 * k + 8 * i) 8)
/-- STATE, 0 for an entry that counts as off, and 2 for one whose flush is under way (R414). -/
def dltState (s : State) (part k : Nat) : Nat :=
  let q := dltQuad s part k 6
  let bad := (q &&& 0xFFFFFFFFFFFFFEFC#64) != 0 || fld (dltQuad s part k 0) 54 10 != 0 || fld (dltQuad s part k 1) 21 27 != 0 ||
    fld (dltQuad s part k 5) 54 10 != 0 || fld (dltQuad s part k 7) 32 32 != 0
  if bad then 0 else if s.flushes.any (fun x => x.part == part && x.entry == k) then 2 else fld q 0 2
def dltEarly (s : State) (part k : Nat) : Bool := (dltQuad s part k 6).getLsbD 8
def dltLen (s : State) (part k : Nat) : Nat := fld (dltQuad s part k 1) 0 21
def dltTarget (s : State) (part k : Nat) : Nat := fld (dltQuad s part k 0) 0 54
/-- The context TARGET and FWD translate in. -/
def dltCtx (s : State) (part k : Nat) : Ctx := { launchCtx s part (vcpCore part) with asid := dw (fld (dltQuad s part k 1) 48 16) }
/-- Bytes of the entry among `n` bytes at a physical address. -/
def dltHits (s : State) (part k pa n : Nat) : Nat :=
  ((upTo n).filter (fun i =>
    (upTo 17).any (fun j =>
      let va := dltTarget s part k / 65536 * 65536 + 65536 * j
      match (walk1 s (dltCtx s part k) va).2 with
      | .ok w =>
        let base := w.pbase + (va - w.vbase)
        base ≤ pa + i && pa + i < base + 65536 && dltTarget s part k ≤ va + (pa + i - base) &&
          va + (pa + i - base) < dltTarget s part k + dltLen s part k
      | .error _ => false))).length
/-- The deadline entry a contribution to these byte ranges checks: the lowest that it meets, and whether it lies wholly in it. -/
def dltFind (s : State) (part : Nat) (rs : List (Nat × Nat)) : Option (Nat × Bool) :=
  if dltBase s part = 0 then none
  else
    ((upTo 64).find? (fun k => (dltState s part k == 1 || dltState s part k == 2) && rs.any (fun r => dltHits s part k r.1 r.2 != 0))).map
      (fun k => (k, rs.all (fun r => dltHits s part k r.1 r.2 == r.2)))

/-! ### A tagged reduction at the home (R228, R413) -/

/-- How the home answers: applied, a duplicate, LATE or PERM. -/
inductive RedtEnd where
  | ok | dup | late | perm
deriving DecidableEq, Repr

/-- Deduplicates and applies: `apply` performs the reduction. -/
def dedupApply (s : State) (pa : Nat) (src : List Nat) (tag : Nat) (apply : State → State) : State × RedtEnd :=
  match tagCheck s (homeSliceOf pa) src tag with
  | .dup => (s, .dup)
  | .fresh w => (apply (putWindow s w), .ok)
  | .noWindow => (apply { s with kiln := { s.kiln with nodedup := s.kiln.nodedup + 1 } }, .ok)
/-- One contribution to bytes of one home slice: the deadline check, then deduplication; GOT is set on OK and DUP. -/
def taggedReduce (s : State) (part : Nat) (rs : List (Nat × Nat)) (src : List Nat) (tag : Nat) (apply : State → State) : State × RedtEnd :=
  let pa := match rs with | r :: _ => r.1 | [] => 0
  match dltFind s part rs with
  | none => dedupApply s pa src (tag % 2 ^ 32) apply
  | some (k, whole) =>
    let i := bits tag 26 6
    if !whole then (s, .perm)
    else if dltState s part k = 2 then (s, .late)
    else if !(dltQuad s part k 3).getLsbD i then (s, .perm)
    else
      let r := dedupApply s pa src (tag % 2 ^ 32) apply
      (homeWrite r.1 (dltBase s part + 64 * k + 32) 8 ((dltQuad r.1 part k 4).toNat ||| 2 ^ i), r.2)
/-- The cause of a refused local contribution. -/
def redtCause (va : Nat) (e : RedtEnd) : Option Cause :=
  match e with
  | .late => some (causeAt cRemref 2 va)
  | .perm => some (causeAt cRemref 1 va)
  | _ => none

end Sys2Proof.Machine
end

