-- ==== Sys2Proof/Machine/MemAccess.lean ====
section
/-! DEFINITION. Loads and stores of the split and of its lanes (R171 to R174, R219 to R222), atomics and reductions (R223 to R228),
FENCE and PREF (R229, R230), DWB, DINV, ICINV, FETCHB (R240, R241). -/

namespace Sys2Proof.Machine

/-! ### Shared pieces -/

/-- Bytes a value of the type moves (R220). -/
def memBytes (ty : BitVec 5) : Nat := (tyBits ty + 7) / 8
/-- Bits of it that a register and memory exchange: of a six-bit format bits 7:6 are not looked at, and zero is written (R102). -/
def dataBits (ty : BitVec 5) : Nat := if tyBits ty = 6 then 6 else 8 * memBytes ty
/-- The register image of a loaded value. -/
def loadImage (ty : BitVec 5) (v : Nat) : Nat :=
  if tySignedInt ty && tyBits ty < 32 then wrapInt 32 (signedOf (tyBits ty) v) else v % 2 ^ dataBits ty
/-- Order, scope and policy of a memory-class instruction. -/
def ordOf (f : LongF) : Ord := { order := f.mo.toNat, scope := f.sc.toNat, cp := f.rm.toNat }
/-- The same for atomics and reductions: weak ones are relaxed at device scope (R68). -/
def ordRmw (f : LongF) : Ord := if f.mo.toNat = 0 then { order := 1, scope := 8, cp := 0 } else { order := f.mo.toNat, scope := f.sc.toNat, cp := 0 }
/-- The access type of a cause raised at a place (R390). -/
def accessAt (p : Place) (dflt : Nat) : Nat := match p with | .glob (.feed _) => 5 | .glob (.draw _ _) => 6 | _ => dflt
def bytesOf (n v : Nat) : List Byte := leBytes n v

/-- One lane's access at its checked place, or the request it sends. -/
def laneAccess (s : State) (a : Agent) (sp : Space) (need : Need) (addr : DWord) (n l kind : Nat) (op : RemoteOp) (store : Bool)
    (act : State → Place → Read) : State × LaneEnd × List (Nat × Nat) :=
  match place s a.ctx sp need addr n with
  | (s, .error c) => (s, .fault (c.withAccess kind), [])
  | (s, .ok (.glob (.remote pa e))) =>
    match remotePage s a.ctx.part l addr pa e op with
    | .ok r => (s, .remote r, [])
    | .error c => (s, .fault (c.withAccess kind), [])
  | (s, .ok p) =>
    let r := act s p
    match r.v with
    | .ok v => (r.s, .done (pathOf sp p store) v, r.sig)
    | .error c => (r.s, .fault (c.withAccess (accessAt p kind)), [])
/-- A memory-class instruction: waits for engine operations and remote accesses where its order asks it, and those of `extra`, runs its lanes,
ends. -/
def memInstrFor (i : Instr) (h : Hdr) (legal : Group → Split → Bool) (o : Ord) (extra : State → Group → Split → List Nat → Waits) (order : State → Group → List Nat → State × List Nat)
    (dest : Option (Dest × BitVec 5)) (lane : State → Group → Split → Nat → State × LaneEnd × List (Nat × Nat)) (s : State) :
    Host.Outcome State Fault Refusal :=
  asLanes i h legal (fun s g sp ls =>
    if mustWaitFor s g sp o (extra s g sp ls) then holdFor s g sp o (extra s g sp ls)
    else
      let q := order s g ls
      memClose s g sp (runLanes q.1 q.2 (fun s l => lane s g sp l)) dest o (encode i)) s
/-- The same with nothing else to wait for. -/
def memInstr (i : Instr) (h : Hdr) (legal : Group → Split → Bool) (o : Ord) (order : State → Group → List Nat → State × List Nat)
    (dest : Option (Dest × BitVec 5)) (lane : State → Group → Split → Nat → State × LaneEnd × List (Nat × Nat)) (s : State) :
    Host.Outcome State Fault Refusal := memInstrFor i h legal o (fun _ _ _ _ => {}) order dest lane s
/-- Lanes in ascending order. -/
def inOrder (s : State) (_ : Group) (ls : List Nat) : State × List Nat := (s, ls)

/-! ### LD and ST (R220 to R222) -/

def loadDest (f : LongF) : Dest := { reg := f.d.toNat, count := tyRegs f.ty, image := loadImage f.ty }
def execLd (h : Hdr) (f : LongF) (s : State) : Host.Outcome State Fault Refusal :=
  memInstr (.ld h f) h always (ordOf f) inOrder (some (loadDest f, f.ty)) (fun s g sp l =>
    let a := laneAgent s g sp
    let addr := laneAddr g l f
    laneAccess s a (spaceOf f.c.toNat) needR addr (memBytes f.ty) l 1 (.read (memBytes f.ty)) false
      (fun s p => seenRead s g.uid l (memBytes f.ty) (ordOf f) p (loadPlace s a (ordOf f) addr.toNat (memBytes f.ty) p))) s
/-- The data of a storing lane: the low bytes of V[D]. -/
def storeData (g : Group) (l : Nat) (f : LongF) : Nat := (g.lane l).vNat f.d.toNat (tyRegs f.ty) % 2 ^ dataBits f.ty
/-- A store as the result of an access. -/
def storeRead (r : State × Option Cause) : Read := ⟨r.1, match r.2 with | some c => .error c | none => .ok 0, []⟩
/-- An ST at its place, which may clear the poison of the unit (R419). -/
def stPlace (p : Place) (n : Nat) (r : State × Option Cause) : State × Option Cause :=
  match p.loc? with
  | some l => (coverHalf r.1 l n, r.2)
  | none => r
/-- What a store waits for: as a feed store, and as a write of page-table entries. -/
def stWaits (f : LongF) (s : State) (g : Group) (sp : Split) (ls : List Nat) : Waits :=
  ls.foldl (fun w l => (w.and (feedWaits s (splitCtx g sp) (ordOf f) sp.relFence (spaceOf f.c.toNat) (laneAddr g l f) (memBytes f.ty))).and
    (entryWaits s (splitCtx g sp) ((ordOf f).gang s g) (spaceOf f.c.toNat) needW (laneAddr g l f) (memBytes f.ty))) {}
def execSt (h : Hdr) (f : LongF) (s : State) : Host.Outcome State Fault Refusal :=
  memInstrFor (.st h f) h always (ordOf f) (stWaits f) inOrder none (fun s g sp l =>
    let a := laneAgent s g sp
    let addr := laneAddr g l f
    let v := storeData g l f
    laneAccess s a (spaceOf f.c.toNat) needW addr (memBytes f.ty) l 2 (.write (bytesOf (memBytes f.ty) v)) true
      (fun s p => storeRead (stPlace p (memBytes f.ty) (storePlace s a (ordOf f) sp.relFence addr.toNat (memBytes f.ty) v p)))) s

/-! ### ATOM, ACAS, RED, REDT (R223 to R228) -/

/-- Lanes of an RMW: their addresses decide whether the order is open (R50). -/
def rmwLanes (f : LongF) (s : State) (g : Group) (ls : List Nat) : State × List Nat := rmwOrder s ls (fun l => laneAddr0 g l f)
/-- What an RMW waits for, as a write of page-table entries. -/
def rmwWaits (f : LongF) (addr : Group → Nat → DWord) (n : Nat) (s : State) (g : Group) (sp : Split) (ls : List Nat) : Waits :=
  ls.foldl (fun w l => w.and (entryWaits s (splitCtx g sp) ((ordRmw f).gang s g) (spaceOf f.c.toNat) needRW (addr g l) n)) {}
/-- The counter path of RMWs with a result is a load's (R219). -/
def rmwLane (s : State) (g : Group) (sp : Split) (f : LongF) (l : Nat) (op : RemoteOp) (store : Bool) (v : Nat → Nat) :
    State × LaneEnd × List (Nat × Nat) :=
  let a := laneAgent s g sp
  let addr := laneAddr0 g l f
  laneAccess s a (spaceOf f.c.toNat) needRW addr (memBytes f.ty) l 3 op store
    (fun s p => rmwPlace s a (ordRmw f) sp.relFence addr.toNat (memBytes f.ty) p v)
def resultDest (f : LongF) : Dest := { reg := (xByte 1 f).toNat, count := tyRegs f.ty, image := fun v => v }
def laneReg (g : Group) (l : Nat) (r : BitVec 8) (ty : BitVec 5) : Nat := (g.lane l).vNat r.toNat (tyRegs ty) % 2 ^ tyBits ty

def execAtom (h : Hdr) (f : LongF) (s : State) : Host.Outcome State Fault Refusal :=
  memInstrFor (.atom h f) h always (ordRmw f) (rmwWaits f (fun g l => laneAddr0 g l f) (memBytes f.ty)) (rmwLanes f) (some (resultDest f, f.ty)) (fun s g sp l =>
    let v := laneReg g l f.d f.ty
    rmwLane s g sp f l (.rmw (xByte 0 f).toNat f.ty (dw v)) false (rmwValue (xByte 0 f).toNat f.ty v)) s
def execAcas (h : Hdr) (f : LongF) (s : State) : Host.Outcome State Fault Refusal :=
  memInstrFor (.acas h f) h always (ordRmw f) (rmwWaits f (fun g l => laneAddr0 g l f) (memBytes f.ty)) (rmwLanes f) (some (resultDest f, f.ty)) (fun s g sp l =>
    let v := laneReg g l f.d f.ty
    let cmp := laneReg g l (xByte 2 f) f.ty
    rmwLane s g sp f l (.acas f.ty (dw cmp) (dw v)) false (casValue cmp v)) s
def execRed (h : Hdr) (f : LongF) (s : State) : Host.Outcome State Fault Refusal :=
  memInstrFor (.red h f) h always (ordRmw f) (rmwWaits f (fun g l => laneAddr0 g l f) (memBytes f.ty)) (rmwLanes f) none (fun s g sp l =>
    let v := laneReg g l f.d f.ty
    rmwLane s g sp f l (.rmw (xByte 0 f).toNat f.ty (dw v)) true (rmwValue (xByte 0 f).toNat f.ty v)) s
/-- The source of a group's tags: device, partition, GRIDID, TEAMID (R228). -/
def redtSource (s : State) (g : Group) : List Nat :=
  [s.devid.toNat, fld g.partid 0 4, match s.grid? g.grid with | some r => r.gridid.toNat | none => 0,
   match s.team? g.team with | some t => t.teamid | none => 0]
/-- A tagged reduction at a place here. -/
def redtPlace (s : State) (a : Agent) (o : Ord) (fence : Option (BitVec 4)) (va n : Nat) (src : List Nat) (tag : Nat) (v : Nat → Nat)
    (p : Place) : Read :=
  match rmwRefusal s va p, p.loc? with
  | some c, _ => ⟨s, .error c, []⟩
  | none, some (.hbm pa) =>
    if poisoned s (.hbm pa) then ⟨s, .error (causeAt cPoison 0 va), []⟩
    else
      let r := taggedReduce s a.ctx.part [(pa, n)] src tag (fun s => (rmwAt s a o fence (.hbm pa) n v).1)
      ⟨r.1, match redtCause va r.2 with | some c => .error c | none => .ok 0, []⟩
  | none, _ => ⟨s, .ok 0, []⟩
def execRedt (h : Hdr) (f : LongF) (s : State) : Host.Outcome State Fault Refusal :=
  memInstrFor (.redt h f) h always (ordRmw f) (rmwWaits f (fun g l => laneAddr0 g l f) (memBytes f.ty)) (rmwLanes f) none (fun s g sp l =>
    let a := laneAgent s g sp
    let addr := laneAddr0 g l f
    let tag := (g.lane l).vReg f.d.toNat
    let v := laneReg g l (xByte 1 f) f.ty
    laneAccess s a .global needRW addr (memBytes f.ty) l 3 (.redt (xByte 0 f).toNat f.ty tag (dw v)) true
      (fun s p => redtPlace s a (ordRmw f) sp.relFence addr.toNat (memBytes f.ty) (redtSource s g) tag.toNat
        (rmwValue (xByte 0 f).toNat f.ty v) p)) s

/-! ### SLD and SST (R171 to R174) -/

/-- Order, scope and policy of the short forms: order code 2 is seq-cst. -/
def ordShort (f : SRF) (store : Bool) : Ord :=
  if f.i then
    { order := match f.b.toNat % 4 with | 0 => 1 | 1 => if store then 3 else 2 | _ => 5
      scope := f.b.toNat / 4, cp := 0 }
  else { order := 0, scope := 0, cp := 0 }
def shortAddr (g : Group) (f : SRF) : DWord := if f.i then g.sReg f.a.toNat else g.sReg f.a.toNat + g.sReg f.b.toNat
/-- Ends an access made once for the split. -/
def uniClose (s0 : State) (g : Group) (sp : Split) (r : State × LaneEnd × List (Nat × Nat)) (dst : Option Nat) (o : Ord)
    (insn : List Word) : State :=
  match r.2.1 with
  | .fault c => raise r.1 g sp c insn
  | .done path v =>
    if g.counter path ≥ 63 then stallAt s0 g sp (.counter path)
    else
      let f := r.1.fresh
      let sp := { sp with acqSig := unionPairs sp.acqSig r.2.2 }
      match dst with
      | some d => finish f.2 (g.addFlight path f.1 true) (sp.addPend f.1 [.s d (dw v)]) 4
      | none => finish f.2 (g.addFlight path f.1 true) sp 4
  | .remote l =>
    if g.counter 6 ≥ 63 then stallAt s0 g sp (.counter 6)
    else if blockHeld s0 g.uid l then stallAt s0 g sp (.block (heldPlaces [l]))
    else
      let o := o.gang s0 g
      let f := r.1.fresh
      let sp := match dst with
        | some _ => { sp with pend := sp.pend ++ [{ op := f.1, writes := [], held := true }] }
        | none => sp
      let out : RemoteOut :=
        { id := f.1, group := g.uid, split := sp.slot, engine := none, dst := dst.getD 0, ty := 21, reg := dst.isSome, op := f.1,
          pc := sp.pc, insn := insn, lanes := [l], uniform := true, atComplete := o.acquires,
          order := BitVec.ofNat 3 o.order, scope := BitVec.ofNat 4 o.scope, mask := sp.mask }
      let s := sendFrom f.2 g.core (fld g.partid 0 4) (sentOrder o sp.relFence) o.scope (releasesWide (laneAgent s0 g sp) o sp.relFence) out
      parkAt s (g.addFlight 6 f.1 false) sp (.statuses f.1)
/-- An access made once for the split. -/
def uniAccess (i : Instr) (h : Hdr) (f : SRF) (store : Bool) (s : State) : Host.Outcome State Fault Refusal :=
  asUniform i h 4 always never (fun s g sp =>
    let o := ordShort f store
    let a := laneAgent s g sp
    let addr := shortAddr g f
    let v := (g.sReg f.d.toNat).toNat
    let extra := if store then (feedWaits s a.ctx o sp.relFence .global addr 8).and (entryWaits s a.ctx (o.gang s g) .global needW addr 8) else {}
    if mustWaitFor s g sp o extra then holdFor s g sp o extra
    else if !store && sp.pend.length ≥ 16 then stallAt s g sp .results
    else uniClose s g sp
      (laneAccess s a .global (if store then needW else needR) addr 8 0 (if store then 2 else 1)
        (if store then .write (bytesOf 8 v) else .read 8) store
        (fun s p => if store then storeRead (storePlace s a o sp.relFence addr.toNat 8 v p) else loadPlace s a o addr.toNat 8 p))
      (if store then none else some f.d.toNat) o (encode i)) s
def execSld (h : Hdr) (f : SRF) (s : State) : Host.Outcome State Fault Refusal := uniAccess (.sld h f) h f false s
def execSst (h : Hdr) (f : SRF) (s : State) : Host.Outcome State Fault Refusal := uniAccess (.sst h f) h f true s

/-! ### FENCE and PREF (R229, R230) -/

/-- What a fence does once the engine operations it waits for are performed. -/
def fenceNow (s : State) (g : Group) (sp : Split) (o0 : Ord) : State :=
  let o := o0.gang s g
  let a := laneAgent s g sp
  let sp1 := if o.releases then { sp with relFence := widerFence a.paired sp.relFence (BitVec.ofNat 4 o.scope) } else sp
  if o.acquires then
    if wideScope o.scope a.paired then finish (applySig s g.core sp.acqSig) g { sp1 with acqSig := [] } 12
    else finish (narrowAcquire s g.core) g sp1 12
  else finish s g sp1 12
def execFence (h : Hdr) (f : LongF) (s : State) : Host.Outcome State Fault Refusal :=
  asLanes (.fence h f) h always (fun s g sp _ =>
    if enginesBusy s g sp (f.x.toNat % 8) || ((ordOf f).acquires && strongAway s g sp) then holdIssue s g sp (f.x.toNat % 8) (ordOf f).acquires []
    else fenceNow s g sp (ordOf f)) s
/-- One lane of PREF: a readable byte of a normal page that is not poisoned brings its line into the L1. -/
def prefLane (s : State) (a : Agent) (addr : DWord) (o : Ord) : State :=
  let bring (s : State) (pa : Nat) (t : TlbEntry) (dec : Bool) : State :=
    if (o.onPage a t).cp = 1 || poisoned s (.hbm pa) then s else (l1Load s a.ctx.core (o.onPage a t).cp addr.toNat pa 1 dec).1
  match globalCheck s a.ctx needR addr 1 with
  | (s, .ok (.plain pa t)) => bring s pa t false
  | (s, .ok (.decoded frame e t)) => bring s (elemByte frame e) t true
  | (s, _) => s
def execPref (h : Hdr) (f : LongF) (s : State) : Host.Outcome State Fault Refusal :=
  asLanes (.pref h f) h always (fun s g sp ls =>
    finish (if f.c.toNat % 4 = 0 then ls.foldl (fun s l => prefLane s (laneAgent s g sp) (laneAddr g l f) { order := 0, scope := 0, cp := f.rm.toNat }) s else s) g sp 12) s

/-! ### Maintenance (R240, R241) -/

/-- The range of DWB, DINV and ICINV. -/
def rangeOf (g : Group) (f : SRF) : Nat × Nat :=
  ((g.sReg f.a.toNat).toNat, if f.i then f.b.toNat * 128 else (g.sReg f.b.toNat).toNat)
/-- Whether a line of this core is meant: every line with ALL, else one that the range reaches. -/
def inRange (g : Group) (f : SRF) (c : CacheLine) : Bool :=
  f.d.getLsbD 0 || (let r := rangeOf g f; c.overlaps r.1 r.2)
/-- The L1 lines meant. -/
def linesIn (s : State) (g : Group) (f : SRF) (k : CacheKind) : List Nat :=
  (s.caches.filter (fun c => c.kind == k && c.core == g.core && inRange g f c)).map (·.line)
/-- DWB and DINV count on GST; their write-backs are performed at once. -/
def maintain (i : Instr) (h : Hdr) (act : State → Group → State) (s : State) : Host.Outcome State Fault Refusal :=
  asUniform i h 4 always never (fun s g sp => withRoom false (some 1) s g sp (
    let q := (act s g).fresh
    finish q.2 (g.addFlight 1 q.1 true) sp 4)) s
def execDwb (h : Hdr) (f : SRF) (s : State) : Host.Outcome State Fault Refusal :=
  maintain (.dwb h f) h (fun s g => (linesIn s g f .l1).foldl (fun s l => writeBack s g.core l) s) s
def execDinv (h : Hdr) (f : SRF) (s : State) : Host.Outcome State Fault Refusal :=
  maintain (.dinv h f) h (fun s g =>
    let s1 := (linesIn s g f .l1).foldl (fun s l => flushLine s g.core l) s
    (linesIn s g f .scale).foldl (fun s l => dropLine s .scale g.core l) s1) s
def execIcinv (h : Hdr) (f : SRF) (s : State) : Host.Outcome State Fault Refusal :=
  asUniform (.icinv h f) h 4 always never (fun s g sp =>
    finish ((linesIn s g f .instr).foldl (fun s l => dropLine s .instr g.core l) s) g sp 4) s
def execFetchb (h : Hdr) (s : State) : Host.Outcome State Fault Refusal :=
  asUniform (.fetchb h) h 4 always never (fun s g sp => finish s g { sp with prefetch := [] } 4) s

end Sys2Proof.Machine
end

