-- ==== Sys2Proof/Machine/Casks.lean ====
section
/-! DEFINITION. Casks (R236 to R238): pushing, popping, the cellar, and the instructions QPUT and QGET. -/

namespace Sys2Proof.Machine

/-! ### The cask (R237) -/

/-- Entries on chip. -/
def chipSize : Nat := 4096
/-- Entries move from the cellar's head to free on-chip entries. -/
def Cask.refill (c : Cask) : Cask :=
  let n := min (chipSize - c.chip.length) c.cellar.length
  { c with chip := c.chip ++ c.cellar.take n, cellar := c.cellar.drop n }
/-- The producer has entries in the cellar. -/
def Cask.sticky (c : Cask) (producer : Nat) : Bool := c.cellar.any (fun e => e.producer == producer)
/-- A push: the first row of R237 that fits, and its status. -/
def Cask.push (c : Cask) (e : CaskEntry) : Cask × Nat :=
  let c := c.refill
  let room := c.cellar.length < c.cap
  if c.sticky e.producer then (if room then ({ c with cellar := c.cellar ++ [e] }, 1) else (c, 2))
  else if c.chip.length < chipSize then ({ c with chip := c.chip ++ [e] }, 0)
  else if room then ({ c with cellar := c.cellar ++ [e] }, 1)
  else (c, 2)
/-- A pop from the head of the chip. -/
def Cask.pop (c : Cask) : Cask × Option CaskEntry :=
  let c := c.refill
  match c.chip with
  | [] => (c, none)
  | e :: es => ({ c with chip := es }, some e)
/-- The cask a partition may use under a number. -/
def caskOf (s : State) (part num : Nat) : Option Cask :=
  match s.cask? num with
  | some c => if c.part = part then some c else none
  | none => none
/-- The cask of a lane: S[B] + index; 1024 or more raises SPACE. -/
def caskLane (g : Group) (l : Nat) (f : LongF) : Except Cause Nat :=
  let n := (laneAddr0 g l f).toNat
  if n ≥ 1024 then .error ((causeAt cSpace 0 n).withAccess 9) else .ok n

/-! ### Lanes -/

/-- What the lanes of QPUT or QGET have done. -/
structure CaskRun where
  s : State
  writes : List RegWrite := []
  faults : List (Nat × Cause) := []
  sig : List (Nat × Nat) := []
/-- The entry a lane pushes. -/
def taskEntry (s : State) (g : Group) (sp : Split) (f : LongF) (l : Nat) : CaskEntry :=
  let a := laneAgent s g sp
  let o := ordOf f
  let x := g.lane l
  { producer := g.uid, w0 := x.vReg f.d.toNat, lo := x.vReg (f.d.toNat + 2), hi := x.vReg (f.d.toNat + 3), scope := f.sc,
    sig := if releasesWide a o sp.relFence then releaseLines s g.core else [] }
def qputLane (g : Group) (sp : Split) (f : LongF) (m : CaskRun) (l : Nat) : CaskRun :=
  match caskLane g l f with
  | .error c => { m with faults := m.faults ++ [(l, c)] }
  | .ok n =>
    match caskOf m.s (fld g.partid 0 4) n with
    | none => { m with writes := m.writes ++ [.v l (xByte 0 f).toNat (wd 3)] }
    | some c =>
      let r := c.push (taskEntry m.s g sp f l)
      { m with s := m.s.modCask n (fun _ => r.1), writes := m.writes ++ [.v l (xByte 0 f).toNat (wd r.2)] }
def qgetLane (g : Group) (sp : Split) (f : LongF) (m : CaskRun) (l : Nat) : CaskRun :=
  match caskLane g l f with
  | .error c => { m with faults := m.faults ++ [(l, c)] }
  | .ok n =>
    match caskOf m.s (fld g.partid 0 4) n with
    | none => { m with writes := m.writes ++ [.v l (xByte 0 f).toNat (wd 3)] }
    | some c =>
      if c.bound.isSome then { m with writes := m.writes ++ [.v l (xByte 0 f).toNat (wd 3)] }
      else
        let r := c.pop
        let s := m.s.modCask n (fun _ => r.1)
        match r.2 with
        | none => { m with s := s, writes := m.writes ++ [.v l (xByte 0 f).toNat (wd 2)] }
        | some e =>
          let o := ordOf f
          let wide := wideScope o.scope (laneAgent s g sp).paired
          let s := if o.acquires then (if wide then applySig s g.core e.sig else narrowAcquire s g.core) else s
          { m with s := s,
                   writes := m.writes ++ vWrites l f.d.toNat 4 (e.w0.toNat + 2 ^ 64 * e.lo.toNat + 2 ^ 96 * e.hi.toNat) ++
                     [.v l (xByte 0 f).toNat 0],
                   sig := if o.strong && !o.acquires && wide then unionPairs m.sig e.sig else m.sig }
/-- Ends QPUT or QGET: the results are outstanding; QPUT waits until its statuses are written (R238). -/
def caskClose (g : Group) (sp : Split) (m : CaskRun) (park : Bool) (insn : List Word) : State :=
  let f := m.s.fresh
  let sp := { sp with acqSig := unionPairs sp.acqSig m.sig }
  let sp := if m.writes.isEmpty then sp else sp.addPend f.1 m.writes
  let s := settleFaults f.2 (g.addFlight 7 f.1 true) sp (sortFaults m.faults) 12 insn
  if park && !m.writes.isEmpty then s.modSplit g.uid sp.slot (fun x => { x with status := .parked (.statuses f.1) }) else s
/-- QPUT and QGET, lanes in ascending order. -/
def caskInstr (i : Instr) (h : Hdr) (f : LongF) (lane : Group → Split → LongF → CaskRun → Nat → CaskRun) (park : Bool) (s : State) :
    Host.Outcome State Fault Refusal :=
  asLanes i h always (fun s g sp ls =>
    if mustWait s g sp (ordOf f) then holdAccess s g sp (ordOf f)
    else withRoom true (some 7) s g sp (caskClose g sp (ls.foldl (lane g sp f) { s := s }) park (encode i))) s
def execQput (h : Hdr) (f : LongF) (s : State) : Host.Outcome State Fault Refusal := caskInstr (.qput h f) h f qputLane true s
def execQget (h : Hdr) (f : LongF) (s : State) : Host.Outcome State Fault Refusal := caskInstr (.qget h f) h f qgetLane false s

end Sys2Proof.Machine
end

