-- ==== Sys2Proof/Machine/Sync.lean ====
section
/-! DEFINITION. Waiting and synchronising: WAITC and BAR (R31, R32, R239), barrier words with ARRIVE and WAITPH (R231 to R233), rings with
RAWAIT and RREL (R234, R235, R284). -/

namespace Sys2Proof.Machine

/-! ### WAITC and BAR (R31, R32) -/

/-- What WAITC does once its counter is low enough: on LAU it acquires what the finished programs of the group released (R31, R87). -/
def waitcDone (s : State) (g : Group) (sp : Split) (path : Nat) : State :=
  if path = 3 then finish (applySig s g.core g.lauSig) { g with lauSig := [] } sp 4 else finish s g sp 4
def execWaitc (h : Hdr) (f : SRF) (s : State) : Host.Outcome State Fault Refusal :=
  asUniform (.waitc h f) h 4 always never (fun s g sp =>
    let n := g.sReg f.a.toNat
    if g.counter f.b.toNat ≤ n.toNat then waitcDone s g sp f.b.toNat else parkAt s g sp (.waitc f.b.toNat n)) s
/-- BAR orders memory as an acq-rel FENCE: a split arrives once its earlier strong accesses to other devices are performed (R32, R73). -/
def execBar (h : Hdr) (f : SRF) (s : State) : Host.Outcome State Fault Refusal :=
  asUniform (.bar h f) h 4 always never (fun s g sp =>
    if strongAway s g sp then holdIssue s g sp 0 true [] else barCheck (parkAt s g sp (.bar f.b.toNat)) g.team f.b.toNat) s

/-! ### Barrier words (R231, R232) -/

/-- The word after an arrival of count `n` on a word that is not poisoned. -/
def arriveValue (n w : Nat) : Nat :=
  let pending := w % 2 ^ 32
  let flipped := if bit w 63 then 0 else 2 ^ 63
  if n > pending then flipped + 2 ^ 62 + w % 2 ^ 62
  else if n = pending && n != 0 then flipped + bits w 32 30 * 2 ^ 32 + bits w 32 30
  else w - n
/-- Whether the arrival traps: the word was poisoned, or becomes so. -/
def arrivePoisons (n w : Nat) : Bool := bit w 62 || n > w % 2 ^ 32
/-- The value of a location at its home, seen from a core whose own copy goes home first. -/
def homeValue (s : State) (core : Nat) (l : Loc) (n : Nat) : State × Nat :=
  match l with
  | .hbm pa => (fun s => (s, homeRead s pa n)) (flushLine s core (pa / 128))
  | _ => (s, locRead s l n)
/-- One arrival at a location, and whether it poisons or meets poison. -/
def arriveAt (s : State) (a : Agent) (o : Ord) (fence : Option (BitVec 4)) (l : Loc) (n : Nat) : State × Bool × List (Nat × Nat) :=
  let h := homeValue s a.ctx.core l 8
  if bit h.2 62 then (h.1, true, [])
  else
    let r := rmwAt h.1 a o fence l 8 (arriveValue n)
    (r.1, arrivePoisons n r.2.1, r.2.2)
/-- One arrival at a place. -/
def arrivePlace (s : State) (a : Agent) (o : Ord) (fence : Option (BitVec 4)) (va n : Nat) (p : Place) : Read :=
  match rmwRefusal s va p, p.loc? with
  | some c, _ => ⟨s, .error c, []⟩
  | none, some l =>
    if poisoned s l then ⟨s, .error (causeAt cPoison 0 va), []⟩
    else
      let r := arriveAt s a o fence l n
      ⟨r.1, if r.2.1 then .error (causeAt cBarpoison 0 va) else .ok 0, r.2.2⟩
  | none, none => ⟨s, .ok 0, []⟩
def execArrive (h : Hdr) (f : LongF) (s : State) : Host.Outcome State Fault Refusal :=
  memInstrFor (.arrive h f) h always (ordRmw f) (rmwWaits f (fun g l => laneAddr g l f) 8) (fun s g ls => rmwOrder s ls (fun l => laneAddr g l f)) none (fun s g sp l =>
    let a := laneAgent s g sp
    let addr := laneAddr g l f
    let n := (g.sReg f.d.toNat).toNat % 2 ^ 32
    laneAccess s a (spaceOf f.c.toNat) needRW addr 8 l 3 (.arrive (BitVec.ofNat 32 n)) true
      (fun s p => arrivePlace s a (ordRmw f) sp.relFence addr.toNat n p)) s

/-! ### WAITPH (R233) -/

/-- The location of a barrier word that is read, or what refuses it. -/
def wordAt (s : State) (va : Nat) (p : Place) : Except Cause Loc :=
  match rmwRefusal s va p, p.loc? with
  | some c, _ => .error c
  | none, some l => if poisoned s l then .error (causeAt cPoison 0 va) else .ok l
  | none, none => .error (causeAt cSpace 0 va)
/-- The cache policy of a barrier word that is read (R378). -/
def wordPolicy (a : Agent) (o : Ord) (p : Place) : BitVec 2 := match p with | .glob (.plain _ e) => BitVec.ofNat 2 (o.onPage a e).cp | _ => 0
/-- The checks of one lane: its word here, or the read it sends. -/
def waitphLane (s : State) (g : Group) (sp : Split) (f : LongF) (l : Nat) : State × Except Cause (LaneLoc ⊕ RemoteLane) :=
  let a := laneAgent s g sp
  let addr := laneAddr g l f
  match place s a.ctx (spaceOf f.c.toNat) needR addr 8 with
  | (s, .error c) => (s, .error (c.withAccess 1))
  | (s, .ok (.glob (.remote pa e))) =>
    match remotePage s a.ctx.part l addr pa e .word with
    | .ok r => (s, .ok (.inr r))
    | .error c => (s, .error (c.withAccess 1))
  | (s, .ok p) =>
    match wordAt s addr.toNat p with
    | .error c => (s, .error (c.withAccess 1))
    | .ok loc => (s, .ok (.inl { lane := l, addr := addr, loc := loc, cp := wordPolicy a (ordOf f) p }))
/-- What the lanes of a WAITPH found. -/
structure WaitphRun where
  s : State
  here : List LaneLoc := []
  away : List RemoteLane := []
  faults : List (Nat × Cause) := []
def waitphLanes (s : State) (g : Group) (sp : Split) (f : LongF) (ls : List Nat) : WaitphRun :=
  ls.foldl (fun m l =>
    match waitphLane m.s g sp f l with
    | (s, .ok (.inl x)) => { m with s := s, here := m.here ++ [x] }
    | (s, .ok (.inr r)) => { m with s := s, away := m.away ++ [r] }
    | (s, .error c) => { m with s := s, faults := m.faults ++ [(l, c)] }) { s := s }
/-- A word that ends the wait: its PHASE differs, or it is poisoned. -/
def phaseReady (phase : Bool) (w : Nat) : Bool := bit w 62 || bit w 63 != phase
/-- A barrier word as a strong load of this order and scope reads it (R58, R233): at its home, or through the core's L1 as its page's policy
says. -/
def phaseValue (s : State) (a : Agent) (o : Ord) (x : LaneLoc) : State × Nat :=
  match x.loc with
  | .hbm pa => lineLoad s a { o with cp := x.cp.toNat } x.addr.toNat pa 8 false
  | l => (s, locRead s l 8)
/-- The words of the lanes. -/
def phaseWords (s : State) (a : Agent) (o : Ord) (ws : List LaneLoc) : State × List (LaneLoc × Nat) :=
  ws.foldl (fun r x => let v := phaseValue r.1 a o x; (v.1, r.2 ++ [(x, v.2)])) (s, [])
/-- Lanes that see POISON. -/
def phaseFaults (ws : List (LaneLoc × Nat)) : List (Nat × Cause) :=
  (ws.filter (fun q => bit q.2 62)).map (fun q => (q.1.lane, (causeAt cBarpoison 0 q.1.addr.toNat).withAccess 1))
/-- The read that ends the wait is the acquire: its signatures are applied, or kept for a later fence. -/
def phaseAcquire (s : State) (g : Group) (sp : Split) (o : Ord) (ws : List LaneLoc) : State × Split :=
  let a := laneAgent s g sp
  ws.foldl (fun r x =>
    let q := readSide r.1 a o x.loc 8
    (q.1, { r.2 with acqSig := unionPairs r.2.acqSig q.2 })) (s, sp)
/-- Ends the wait over words here. -/
def waitphEnd (s : State) (g : Group) (sp : Split) (o : Ord) (ws : List (LaneLoc × Nat)) (faults : List (Nat × Cause)) (insn : List Word) : State :=
  let r := phaseAcquire s g sp o (ws.map (·.1))
  settleFaults r.1 g r.2 (sortFaults (faults ++ phaseFaults ws)) 12 insn
/-- Sends the reads of words on other devices: the split waits for what they answer. -/
def waitphSend (s : State) (g : Group) (sp : Split) (o : Ord) (phase : Bool) (m : WaitphRun) (ws : List (LaneLoc × Nat)) (insn : List Word) :
    State :=
  if g.counter 6 ≥ 63 then stallAt s g sp (.counter 6)
  else if m.away.any (fun r => blockHeld s g.uid r) then stallAt s g sp (.block (heldPlaces m.away))
  else
    let o := o.gang s g
    let f := s.fresh
    let r := phaseAcquire f.2 g sp o (ws.map (·.1))
    let out : RemoteOut :=
      { id := f.1, group := g.uid, split := sp.slot, engine := none, dst := 0, ty := 21, reg := false, op := f.1,
        pc := sp.pc, insn := insn, lanes := m.away, faults := sortFaults (m.faults ++ phaseFaults ws), atComplete := true,
        phase := some phase, order := BitVec.ofNat 3 o.order, scope := BitVec.ofNat 4 o.scope, mask := sp.mask }
    let s := sendFrom r.1 g.core (fld g.partid 0 4) o.order o.scope false out
    parkAt s (g.addFlight 6 f.1 false) r.2 (.statuses f.1)
def execWaitph (h : Hdr) (f : LongF) (s : State) : Host.Outcome State Fault Refusal :=
  asLanes (.waitph h f) h always (fun s g sp ls =>
    if mustWait s g sp (ordOf f) then holdAccess s g sp (ordOf f)
    else
      let phase := (g.sReg f.d.toNat).getLsbD 0
      let m := waitphLanes s g sp f ls
      match faultsHeld g sp m.faults with
      | some p => parkPage s g sp sp.mask p
      | none =>
      let r := phaseWords m.s (laneAgent m.s g sp) (ordOf f) m.here
      if !r.2.all (fun q => phaseReady phase q.2) then
        parkAt r.1 g sp (.waitph phase f.mo f.sc m.here m.faults (encode (.waitph h f)) (!m.away.isEmpty))
      else if m.away.isEmpty then waitphEnd r.1 g sp (ordOf f) r.2 m.faults (encode (.waitph h f))
      else waitphSend r.1 g sp (ordOf f) phase m r.2 (encode (.waitph h f))) s
/-- What the words of a parked WAITPH have come to: a global address is translated anew at every read (R383). -/
structure Relook where
  s : State
  here : List LaneLoc := []
  faults : List (Nat × Cause) := []
  /-- A word now lies on another device. -/
  moved : Bool := false
def relookLane (g : Group) (sp : Split) (m : Relook) (x : LaneLoc) : Relook :=
  match x.loc with
  | .hbm _ =>
    match place m.s (splitCtx g sp) .global needR x.addr 8 with
    | (s, .error c) => { m with s := s, faults := m.faults ++ [(x.lane, c.withAccess 1)] }
    | (s, .ok (.glob (.remote _ _))) => { m with s := s, moved := true }
    | (s, .ok p) =>
      match wordAt s x.addr.toNat p with
      | .error c => { m with s := s, faults := m.faults ++ [(x.lane, c.withAccess 1)] }
      | .ok l => { m with s := s, here := m.here ++ [{ x with loc := l, cp := wordPolicy (laneAgent s g sp) { order := 0, scope := 0, cp := 0 } p }] }
  | l =>
    if poisoned m.s l then { m with faults := m.faults ++ [(x.lane, (causeAt cPoison 0 x.addr.toNat).withAccess 1)] }
    else { m with here := m.here ++ [x] }
/-- The wait of a parked WAITPH, looked at again. With words on other devices, or moved to one, the instruction is issued again. -/
def waitphAgain (s : State) (g : Group) (sp : Split) (phase : Bool) (o : Ord) (ws : List LaneLoc) (faults : List (Nat × Cause))
    (insn : List Word) (again : Bool) : State :=
  let m := ws.foldl (relookLane g sp) { s := s }
  let r := phaseWords m.s (laneAgent m.s g sp) o m.here
  let faults := faults ++ m.faults
  let sp1 := { sp with status := .ready, readySince := s.clock, aging := 0 }
  if m.moved then m.s.setGroup (g.setSplit sp1)
  else if !r.2.all (fun q => phaseReady phase q.2) then
    parkAt r.1 g sp (.waitph phase (BitVec.ofNat 3 o.order) (BitVec.ofNat 4 o.scope) m.here faults insn again)
  else if again then r.1.setGroup (g.setSplit sp1)
  else waitphEnd r.1 (g.setSplit sp1) sp1 o r.2 faults insn

/-! ### Rings (R234, R235, R284) -/

/-- The fields of a ring header, from its 32 bytes. -/
def rBase (h : Nat) : Nat := bits h 0 32
def rSlotsz (h : Nat) : Nat := bits h 32 32
def rWptr (h : Nat) : Nat := bits h 64 32
def rCptr (h : Nat) : Nat := bits h 96 32
def rFront (h : Nat) : Nat := bits h 128 32
def rNslot (h : Nat) : Nat := bits h 160 7
def rPoison (h : Nat) : Bool := bit h 191
def rMap (h : Nat) : Nat := bits h 192 64
/-- A format error of the header. -/
def ringBad (h : Nat) : Bool := rNslot h = 0 || rNslot h > 64 || rSlotsz h = 0 || rSlotsz h % 16 != 0 || bits h 167 24 != 0
/-- The number of free slots. -/
def ringFree (h : Nat) : Int := (rNslot h : Int) - (((rWptr h + 2 ^ 32 - rFront h) % 2 ^ 32 : Nat) : Int)
def ringPoison (h : Nat) : Nat := setBits h 191 1 1
/-- A claim: the next slot. -/
def ringClaim (h : Nat) : Nat := setBits h 96 32 ((rCptr h + 1) % 2 ^ 32)
def ringHasSlot (h : Nat) : Bool := rWptr h != rCptr h
/-- The frontier passes the oldest released claims: at most 64 of them. -/
def ringAdvance : Nat → Nat → Nat
  | 0, h => h
  | n + 1, h =>
    if rFront h != rCptr h && bit (rMap h) (rFront h % rNslot h) then
      ringAdvance n (setBits (setBits h (192 + rFront h % rNslot h) 1 0) 128 32 ((rFront h + 1) % 2 ^ 32))
    else h
/-- A release of a claim that was not claimed, or was released before. -/
def ringMisuse (k h : Nat) : Bool :=
  (rCptr h + 2 ^ 32 - rFront h) % 2 ^ 32 ≤ (k + 2 ^ 32 - rFront h) % 2 ^ 32 || bit (rMap h) (k % rNslot h)
def ringRelease (k h : Nat) : Nat :=
  if ringMisuse k h then ringPoison h else ringAdvance 64 (setBits h (192 + k % rNslot h) 1 1)

/-- One claim attempt of a lane: it waits (`none`), traps, or has its registers' value. -/
def claimAt (s : State) (a : Agent) (o : Ord) (fence : Option (BitVec 4)) (x : LaneLoc) :
    State × Option (Except Cause Nat) × List (Nat × Nat) :=
  let h := locRead s x.loc 32
  if poisoned s x.loc then (s, some (.error ((causeAt cPoison 0 x.addr.toNat).withAccess 3)), [])
  else if ringBad h then (s, some (.error ((causeAt cSpace 0 x.addr.toNat).withAccess 3)), [])
  else if rPoison h then (s, some (.error ((causeAt cBarpoison 0 x.addr.toNat).withAccess 3)), [])
  else if !ringHasSlot h then (s, none, [])
  else
    let r := rmwAt s a o fence x.loc 32 ringClaim
    let k := rCptr r.2.1
    (r.1, some (.ok (k + 2 ^ 32 * ((rBase r.2.1 + k % rNslot r.2.1 * rSlotsz r.2.1) % 2 ^ 32))), r.2.2)
/-- What a RAWAIT has done so far. -/
structure ClaimRun where
  s : State
  g : Group
  sp : Split
  left : List LaneLoc
  faults : List (Nat × Cause)
/-- Claims for lanes in ascending order, until one has to wait. A claimed slot's registers can be read at once. -/
def claimLanes (o : Ord) (dst : Nat) : List LaneLoc → ClaimRun → ClaimRun
  | [], m => { m with left := [] }
  | x :: xs, m =>
    match claimAt m.s (laneAgent m.s m.g m.sp) o m.sp.relFence x with
    | (s, none, _) => { m with s := s, left := x :: xs }
    | (s, some (.error c), _) => claimLanes o dst xs { m with s := s, faults := m.faults ++ [(x.lane, c)] }
    | (s, some (.ok v), sig) =>
      claimLanes o dst xs
        { m with s := s, g := m.g.modLane x.lane (fun y => y.setVNat dst 2 v), sp := { m.sp with acqSig := unionPairs m.sp.acqSig sig } }
/-- Goes on with a RAWAIT: it ends, or parks on the lanes that are left. It is counted on SPAD once its last lane has claimed or trapped, not while it
is parked: DESIGN CHOICE, R219 does not say whether a parked one counts (log entry 128). -/
def rawaitGo (s : State) (g : Group) (sp : Split) (o : Ord) (dst : Nat) (lanes : List LaneLoc) (faults : List (Nat × Cause))
    (insn : List Word) : State :=
  let m := claimLanes o dst lanes { s := s, g := g, sp := sp, left := [], faults := faults }
  if m.left.isEmpty then
    let f := m.s.fresh
    settleFaults f.2 (m.g.addFlight 2 f.1 true) { m.sp with status := .ready } (sortFaults m.faults) 12 insn
  else parkAt m.s m.g m.sp (.rawait dst (BitVec.ofNat 3 o.order) (BitVec.ofNat 4 o.scope) m.left m.faults insn)
/-- The checks of the lanes of RAWAIT and RREL. -/
def ringLane (s : State) (g : Group) (sp : Split) (f : LongF) (l : Nat) : Except Cause LaneLoc :=
  let addr := laneAddr g l f
  match placeOffset s (splitCtx g sp) (spaceOf f.c.toNat) addr.toNat 32 with
  | .error c => .error (c.withAccess 3)
  | .ok p =>
    match p.loc? with
    | some loc => .ok { lane := l, addr := addr, loc := loc }
    | none => .error ((causeAt cSpace 0 addr.toNat).withAccess 3)
def execRawait (h : Hdr) (f : LongF) (s : State) : Host.Outcome State Fault Refusal :=
  asLanes (.rawait h f) h always (fun s g sp ls =>
    if mustWait s g sp (ordOf f) then holdAccess s g sp (ordOf f)
    else if g.counter 2 ≥ 63 then stallAt s g sp (.counter 2)
    else
      let all := ls.map (fun l => (l, ringLane s g sp f l))
      let good := all.filterMap (fun q => match q.2 with | .ok x => some x | .error _ => none)
      let bad := all.filterMap (fun q => match q.2 with | .ok _ => none | .error c => some (q.1, c))
      rawaitGo s g sp (ordOf f) f.d.toNat good bad (encode (.rawait h f))) s
/-- One release of a claim. -/
def rrelPlace (s : State) (a : Agent) (o : Ord) (fence : Option (BitVec 4)) (va k : Nat) (p : Place) : Read :=
  match p.loc? with
  | none => ⟨s, .error (causeAt cSpace 0 va), []⟩
  | some l =>
    let h := locRead s l 32
    if poisoned s l then ⟨s, .error (causeAt cPoison 0 va), []⟩
    else if ringBad h then ⟨s, .error (causeAt cSpace 0 va), []⟩
    else if rPoison h then ⟨s, .error (causeAt cBarpoison 0 va), []⟩
    else
      let r := rmwAt s a o fence l 32 (ringRelease k)
      ⟨r.1, if ringMisuse k h then .error (causeAt cBarpoison 0 va) else .ok 0, r.2.2⟩
def execRrel (h : Hdr) (f : LongF) (s : State) : Host.Outcome State Fault Refusal :=
  memInstr (.rrel h f) h always (ordOf f) inOrder none (fun s g sp l =>
    let a := laneAgent s g sp
    let addr := laneAddr g l f
    let k := ((g.lane l).vReg f.d.toNat).toNat
    laneAccess s a (spaceOf f.c.toNat) needRW addr 32 l 3 (.read 0) false
      (fun s p => rrelPlace s a (ordOf f) sp.relFence addr.toNat k p)) s

end Sys2Proof.Machine
end

