-- ==== Sys2Proof/Machine/Matrix.lean ====
section
/-! DEFINITION. The accumulator memory and the matrix instructions (R62 to R64, R117 to R120, R243 to R255, R370, R371, R426). -/

namespace Sys2Proof.Machine

/-! ### The control word (R247) -/

def cwM (c : DWord) : Nat := 16 * 2 ^ fld c 0 3
def cwN (c : DWord) : Nat := 16 * 2 ^ fld c 3 3
def cwK (c : DWord) : Nat := 32 * 2 ^ fld c 6 3
def cwA (c : DWord) : BitVec 5 := BitVec.ofNat 5 (fld c 9 5)
def cwB (c : DWord) : BitVec 5 := BitVec.ofNat 5 (fld c 14 5)
def cwC (c : DWord) : BitVec 5 := BitVec.ofNat 5 (fld c 19 5)
def cwScaled (c : DWord) : Bool := c.getLsbD 24
def cwAstr (c : DWord) : Nat := fld c 32 16 * 16
def cwBstr (c : DWord) : Nat := fld c 48 16 * 16
/-- MC and NC in range. -/
def mcOk (c : DWord) : Bool := fld c 0 3 ≤ 3
def ncOk (c : DWord) : Bool := fld c 3 3 ≤ 3
def kcOk (c : DWord) : Bool := fld c 6 3 ≤ 4
/-- The accumulator types of R248. -/
def accType (ty : BitVec 5) : Bool := [6, 9, 10, 11, 12].contains ty.toNat
/-- The combinations of R248. -/
def comboOk (c : DWord) : Bool :=
  let f := [9, 10, 13, 14, 15, 16, 17]
  let a := (cwA c).toNat; let b := (cwB c).toNat; let d := (cwC c).toNat
  (f.contains a && f.contains b && [9, 10, 11].contains d && (!cwScaled c || (13 ≤ a && 13 ≤ b))) ||
  ([2, 19].contains a && [2, 19].contains b && d == 6 && !cwScaled c) ||
  (a == 12 && b == 12 && d == 12 && !cwScaled c)

/-! ### Accumulator memory (R64, R245) -/

/-- The half of a paired team's allocation that lies on this core. -/
def accHalf (s : State) (g : Group) : Nat := match s.team? g.team with | some t => if t.paired then g.core % 2 else 0 | none => 0
/-- Where the group's allocation lies in the accumulator memories: it moves with the team (R64, R397). -/
def accKey (s : State) (g : Group) : Nat := (2 * g.team + accHalf s g) * 2 ^ 19
def accAlloc (s : State) (g : Group) : Nat := match s.team? g.team with | some t => t.acc | none => 0
/-- The checks of `n` bytes at an offset that must be a multiple of `al`. -/
def accCheck (s : State) (g : Group) (off : DWord) (n al : Nat) : Option Cause :=
  if accAlloc s g < off.toNat + n then some (causeAt cSpace 0 off.toNat)
  else if off.toNat % al != 0 then some (causeAt cAlign 0 off.toNat)
  else none
def accRead (s : State) (g : Group) (off n : Nat) : Nat := memReadNat s.acc (accKey s g + off) n
def accWrite (s : State) (g : Group) (off n v : Nat) : State := { s with acc := memWriteNat s.acc (accKey s g + off) n v }
def accSize (ty : BitVec 5) : Nat := tyBits ty / 8

/-! ### Operand places (R249, R379, R426) -/

/-- A matrix access is weak, policy 0 (R251, R254). -/
def weakOrd : Ord := { order := 0, scope := 0, cp := 0 }
/-- The page types that refuse a matrix access (R426). The subcode of PROT is the model's (DESIGN CHOICE, log entry 93). -/
def matRefusal (s : State) (write : Bool) (va : Nat) (p : Place) : Option Cause :=
  match p with
  | .glob (.feed e) | .glob (.draw _ e) =>
    if (s.tun? e.tunid.toNat).isNone then some (causeAt cPage 0 va) else some (causeAt cTunaccess 0 va)
  | .glob (.mailbox _ _) | .glob (.device _) => some (causeAt cProt (if write then 2 else 1) va)
  | _ => none
/-- One access's checks, at issue. -/
def matPlace (s : State) (c : Ctx) (sp : Space) (write : Bool) (addr : DWord) (n kind : Nat) : State × Except Cause Place :=
  match place s c sp (if write then needW else needR) addr n with
  | (s, .error f) => (s, .error (f.withAccess kind))
  | (s, .ok p) =>
    match matRefusal s write addr.toNat p with
    | some f => (s, .error (f.withAccess kind))
    | none => (s, .ok p)

/-! ### Scales (R62, R63, R250) -/

/-- The address of the scale of the element at a byte address. -/
def scaleAddr (g : Group) (elem : Nat) : DWord := g.scbase + dw (elem >>> g.scshift.toNat)
/-- One byte of a scale line, through the scale cache (R63). -/
def scaleCached (s : State) (core : Nat) (va : Nat × Nat) (pa : Nat) : State × Nat :=
  let s := fillLine s .scale core (pa / 128) va
  (s, match cacheLine? s .scale core (pa / 128) with | some l => l.bytes (pa % 128) 1 | none => homeRead s pa 1)
/-- A scale byte through the scale cache; `none` when it is poisoned. -/
def scaleByte (s : State) (c : Ctx) (addr : DWord) : State × Except Cause (Option Nat) :=
  match matPlace s c .global false addr 1 7 with
  | (s, .error f) => (s, .error f)
  | (s, .ok (.glob (.plain pa _))) =>
    if poisoned s (.hbm pa) then (s, .ok none)
    else
      let r := scaleCached s c.core (lineVas addr.toNat pa false) pa
      (r.1, .ok (some r.2))
  | (s, .ok (.glob (.decoded frame e _))) =>
    let p := elemByte frame e
    if poisonedRange s p (elemSpan e) then (s, .ok none)
    else
      let lo := scaleCached s c.core (lineVas addr.toNat p true) p
      let hi := if elemSpan e = 1 then (lo.1, 0) else scaleCached lo.1 c.core (lineVas addr.toNat (p + 1) true) (p + 1)
      (hi.1, .ok (some (bits (lo.2 + 256 * hi.2) (elemShift e) 6)))
  | (s, .ok _) => (s.takeFree.2, .ok (some (s.takeFree.1.toNat % 256)))
/-- On a page with BGEO 1, the scale lines of an operand line are fetched with it, and their faults are found at issue (R59); a page behind an
aperture is no exception. -/
def geometryScales (s : State) (g : Group) (c : Ctx) (va : Nat) (p : Place) : State × Option Cause :=
  let go (e : TlbEntry) (pa : Nat) (dec : Bool) : State × Option Cause :=
    if e.bgeo.toNat != 1 then (s, none)
    else
      let v := lineVas va pa dec
      match scaleByte s c (scaleAddr g v.1) with
      | (s, .error f) => (s, some f)
      | (s, .ok _) =>
        match scaleByte s c (scaleAddr g (v.1 + v.2 - 1)) with
        | (s, .error f) => (s, some f)
        | (s, .ok _) => (s, none)
  match p with
  | .glob (.plain pa e) => go e pa false
  | .glob (.decoded frame e t) => go t (elemByte frame e) true
  | .glob (.remote pa e) => if e.kind = 5 then go e (elemByte (pa / 65536 * 65536) (va % 65536)) true else go e pa false
  | _ => (s, none)

/-! ### Operands -/

/-- An operand in memory: rows of elements along its contiguous direction. -/
structure Operand where
  space : Space
  base : DWord
  stride : Nat
  ty : BitVec 5
  rows : Nat
  cols : Nat

def Operand.rowBytes (o : Operand) : Nat := ceilDiv (o.cols * storeBits o.ty) 8
/-- The stride limit. -/
def Operand.strideOk (o : Operand) : Bool := roundUp o.rowBytes 16 ≤ o.stride
/-- The address of byte `b` of row `i`. -/
def Operand.at (o : Operand) (i b : Nat) : DWord := o.base + dw (i * o.stride + b)
/-- The address of the byte that holds element `j` of row `i`. -/
def Operand.elemAt (o : Operand) (i j : Nat) : DWord := o.at i (j * storeBits o.ty / 8)
/-- What the checks have come to: a cause ends them; the places met are kept. -/
structure Checked where
  s : State
  cause : Option Cause := none
  locs : List Loc := []
/-- The location of a place, for overlap. -/
def Place.spot (p : Place) : List Loc :=
  match p with
  | .loc l => [l]
  | .glob (.plain pa _) => [.hbm pa]
  | .glob (.decoded frame e _) => [.hbm (elemByte frame e)]
  | _ => []
/-- Checks every 8-byte part of an operand. -/
def checkOperand (g : Group) (c : Ctx) (write : Bool) (kind : Nat) (o : Operand) (m : Checked) : Checked :=
  (upTo o.rows).foldl (fun m i =>
    (upTo (o.rowBytes / 8)).foldl (fun (m : Checked) b =>
      if m.cause.isSome then m
      else
        match matPlace m.s c o.space write (o.at i (8 * b)) 8 kind with
        | (s, .error f) => { m with s := s, cause := some f }
        | (s, .ok p) =>
          let r := if write then (s, none) else geometryScales s g c (o.at i (8 * b)).toNat p
          { m with s := r.1, cause := r.2, locs := m.locs ++ p.spot }) m) m
/-- The base must be a multiple of 16 (R249). -/
def checkBase (o : Operand) (m : Checked) : Checked :=
  if m.cause.isSome then m else if o.base.toNat % 16 != 0 then { m with cause := some (causeAt cAlign 0 o.base.toNat) } else m

/-- A grid of codes, a row at a time; `none` for data that meets a lasting error. -/
abbrev Codes := List (List (Option Nat))
def Codes.at (l : Codes) (i j : Nat) : Option Nat := (l.getD i []).getD j none
/-- Data fetched so far, and the first address that met a lasting error. -/
structure Fetched where
  s : State
  rows : Codes := []
  bad : Option DWord := none
/-- `n` bytes of an operand. -/
def fetchBytes (s : State) (a : Agent) (sp : Space) (addr : DWord) (n : Nat) : State × Option Nat :=
  match place s a.ctx sp needR addr n with
  | (s, .error _) => (s, none)
  | (s, .ok p) =>
    let r := loadPlace s a weakOrd addr.toNat n p
    (r.s, match r.v with | .ok v => some v | .error _ => none)
/-- One element. -/
def fetchElem (s : State) (a : Agent) (o : Operand) (i j : Nat) : State × Option Nat :=
  let b := storeBits o.ty
  if b < 8 then
    let r := fetchBytes s a o.space (o.elemAt i j) 1
    (r.1, r.2.map (fun v => bits v (b * (j % 2)) b))
  else
    let r := fetchBytes s a o.space (o.elemAt i j) (b / 8)
    (r.1, r.2.map (fun v => v % 2 ^ tyBits o.ty))
def fetchRow (a : Agent) (o : Operand) (i : Nat) (m : Fetched) : Fetched :=
  let r := (upTo o.cols).foldl (fun (q : State × List (Option Nat) × Option DWord) j =>
    let e := fetchElem q.1 a o i j
    (e.1, q.2.1 ++ [e.2], if q.2.2.isNone && e.2.isNone then some (o.elemAt i j) else q.2.2)) (m.s, [], m.bad)
  { s := r.1, rows := m.rows ++ [r.2.1], bad := r.2.2 }
def fetchOperand (s : State) (a : Agent) (o : Operand) : Fetched := (upTo o.rows).foldl (fun m i => fetchRow a o i m) { s := s }
/-- Scales by row and block, from addresses; they are checked as they are fetched, all of it at issue. -/
structure Scales where
  s : State
  rows : Codes := []
  bad : Option DWord := none
  cause : Option Cause := none
def fetchScales (c : Ctx) (rows cols : Nat) (addr : Nat → Nat → DWord) (m : Scales) : Scales :=
  (upTo rows).foldl (fun m i =>
    let r := (upTo cols).foldl (fun (q : Scales × List (Option Nat)) j =>
      if q.1.cause.isSome then q
      else
        match scaleByte q.1.s c (addr i j) with
        | (s, .error f) => ({ q.1 with s := s, cause := some f }, q.2)
        | (s, .ok v) => ({ q.1 with s := s, bad := if q.1.bad.isNone && v.isNone then some (addr i j) else q.1.bad }, q.2 ++ [v])) (m, [])
    { r.1 with rows := r.1.rows ++ [r.2] }) { m with rows := [] }

/-! ### The power budget (R370, R371) -/

/-- Operand width's weight. -/
def budgetW (ty : BitVec 5) : Nat := match tyBits ty with | 4 => 1 | 6 => 2 | 8 => 2 | 16 => 4 | _ => 32
/-- The toggle estimate from the first bytes of the first two rows of an operand. -/
def toggles (s : State) (a : Agent) (o : Operand) : Nat :=
  let n := min 16 o.rowBytes
  let x := (upTo n).map (fun b => ((fetchBytes s a o.space (o.at 0 b) 1).2.getD 0) ^^^ ((fetchBytes s a o.space (o.at 1 b) 1).2.getD 0))
  1 + (x.foldl (fun t v => t + popcount 8 v) 0) * 15 / 128
def budgetUnits (m n k w t : Nat) : Nat := ceilDiv (m * n * k * w * t) 65536
/-- A matrix operation that waits for budget: its charge, since when, its split's age, whether it goes next. -/
structure BudgetWait where
  charge : Nat
  since : Nat
  age : Nat
  granted : Bool
def budgetWait (x : Split) : Option BudgetWait := x.budgetSince.map (fun t => ⟨x.budgetCharge, t.toNat, x.age, x.budgetGranted⟩)
/-- One wait began before another. -/
def BudgetWait.before (a b : BudgetWait) : Bool := a.since < b.since || (a.since == b.since && a.age < b.age)
/-- The pending operation of a group: the first of its splits to have come (R371). -/
def groupWait (g : Group) : Option BudgetWait :=
  (g.splits.filterMap budgetWait).foldl (fun o w => match o with | some x => if w.before x then some w else some x | none => some w) none
/-- Whether this operation goes before those that wait on its core: the group's own in issue order, one pending operation for each other group
by charge and age (R371, R246). -/
def budgetFirst (s : State) (g : Group) (w : BudgetWait) : Bool :=
  s.groups.all (fun x =>
    if x.core != g.core || x.gstate != .resident then true
    else
      match groupWait x with
      | none => true
      | some q => if x.uid == g.uid then !q.before w else w.granted || (!q.granted && (w.charge < q.charge || (w.charge == q.charge && w.since ≤ q.since))))
/-- An operation may go: it is first, and its cluster's budget is not spent or it has waited its limit (R371). -/
def budgetFree (s : State) (g : Group) (w : BudgetWait) : Bool :=
  let b := s.budgets.getD (clusterOf g.core) {}
  budgetFirst s g w && (b.limit.isNone || w.granted || b.left != 0)
/-- Charges an operation and lets it go, or leaves it waiting. -/
def budgetGate (s : State) (g : Group) (sp : Split) (units : Nat) (k : State → Split → State) : State :=
  let c := clusterOf g.core
  let b := s.budgets.getD c {}
  let go := { sp with budgetSince := none, budgetCharge := 0, budgetGranted := false }
  match b.limit with
  | none => k s go
  | some _ =>
    let since := sp.budgetSince.getD s.clock
    if budgetFree s g ⟨units, since.toNat, sp.age, sp.budgetGranted⟩ then
      k { s with budgets := s.budgets.set c { b with left := b.left - units } } go
    else stallAt s g { sp with budgetSince := some since, budgetCharge := units } (.budget units)

/-! ### MMA and MMAS (R249 to R252) -/

/-- The accumulator value after saturation (R118, R119). -/
def satMax (ty : BitVec 5) (x : Nat) : Nat :=
  match fdec ty x with
  | .inf n => signCode ty n + maxCode ty
  | _ => x
/-- The result of one tile element from its products. -/
def tileFloat (ty : BitVec 5) (rm : Nat) (sat : Bool) (acc : Nat) (terms : List FVal) : Nat :=
  let r := froundV ty rm 0 (fsumV rm (fdec ty acc :: terms))
  if sat then satMax ty r else r
def tileInt (sat : Bool) (acc : Nat) (sum : Int) : Nat := fitInt 6 sat (intVal 6 acc + sum)
/-- The fetched inputs of a matrix multiply, indexed as the operation uses them. -/
structure MmaIn where
  a : Nat → Nat → Option Nat
  b : Nat → Nat → Option Nat
  sa : Nat → Nat → Option Nat
  sb : Nat → Nat → Option Nat
/-- Some datum of the element meets a lasting error. -/
def mmaBad (c : DWord) (x : MmaIn) (m n : Nat) : Bool :=
  (upTo (cwK c)).any (fun k => (x.a m k).isNone || (x.b k n).isNone) ||
  (cwScaled c && (upTo (cwK c / 32)).any (fun j => (x.sa m j).isNone || (x.sb n j).isNone))
/-- One product, with its scales. -/
def mmaTerm (c : DWord) (x : MmaIn) (neg : Bool) (m n k : Nat) : FVal :=
  let p := fmulV (fdec (cwA c) ((x.a m k).getD 0)) (fdec (cwB c) ((x.b k n).getD 0))
  let p := if cwScaled c then
      fmulV p (fmulV (fdec 18 ((x.sa m (k / 32)).getD 0)) (fdec 18 ((x.sb n (k / 32)).getD 0)))
    else p
  if neg then p.negate else p
/-- The new element (m, n). -/
def mmaElem (c : DWord) (rm : Nat) (sat neg : Bool) (x : MmaIn) (acc m n : Nat) : Nat :=
  let ty := cwC c
  if mmaBad c x m n then (if ty.toNat = 6 then 0 else canonNan ty)
  else if ty.toNat = 6 then
    let sum := (upTo (cwK c)).foldl (fun (t : Int) k =>
      t + intVal (cwA c) ((x.a m k).getD 0) * intVal (cwB c) ((x.b k n).getD 0)) 0
    tileInt sat acc (if neg then -sum else sum)
  else tileFloat ty rm sat acc ((upTo (cwK c)).map (fun k => mmaTerm c x neg m n k))
/-- Updates every element of the tile. -/
def mmaTile (s : State) (g : Group) (c : DWord) (off rm : Nat) (sat neg : Bool) (x : MmaIn) : State :=
  let sz := accSize (cwC c)
  (upTo (cwM c)).foldl (fun s m => (upTo (cwN c)).foldl (fun s n =>
    let o := off + (m * cwN c + n) * sz
    accWrite s g o sz (mmaElem c rm sat neg x (accRead s g o sz) m n)) s) s
/-- A and B as operands (R249). -/
def opndA (g : Group) (f : LongF) (c : DWord) : Operand :=
  let t := f.mo.getLsbD 0
  { space := spaceOf (f.sc.toNat % 4), base := g.sReg f.a.toNat, stride := cwAstr c, ty := cwA c,
    rows := if t then cwK c else cwM c, cols := if t then cwM c else cwK c }
def opndB (g : Group) (f : LongF) (c : DWord) : Operand :=
  let t := f.mo.getLsbD 1
  { space := spaceOf (f.sc.toNat / 4), base := g.sReg f.b.toNat, stride := cwBstr c, ty := cwB c,
    rows := if t then cwK c else cwN c, cols := if t then cwN c else cwK c }
/-- What makes a control word illegal for MMA and MMAS (R247 to R249). -/
def mmaLegal (g : Group) (f : LongF) (explicit : Bool) (c : DWord) : Bool :=
  fld c 25 7 == 0 && kcOk c && mcOk c && ncOk c && comboOk c && (!explicit || cwScaled c) &&
  !(cwScaled c && !explicit && f.mo.toNat % 4 != 0) && (opndA g f c).strideOk && (opndB g f c).strideOk
/-- The scale addresses of A's row `m` and B's column `n`, block `j` (R250). -/
def scaleAAddr (g : Group) (f : LongF) (explicit : Bool) (c : DWord) (m j : Nat) : DWord :=
  if explicit then g.sReg (f.x.toNat % 64) + dw (m * (cwK c / 32) + j) else scaleAddr g ((opndA g f c).elemAt m (32 * j)).toNat
def scaleBAddr (g : Group) (f : LongF) (explicit : Bool) (c : DWord) (n j : Nat) : DWord :=
  if explicit then g.sReg (f.x.toNat / 256 % 64) + dw (n * (cwK c / 32) + j) else scaleAddr g ((opndB g f c).elemAt n (32 * j)).toNat
/-- Leaves POISON for the next issue of the split (R252). -/
def notePoison (sp : Split) (bad : Option DWord) : Split :=
  match bad with
  | some a => { sp with poisonAt := some (a &&& 0xFFFFFFFFFFFFFF80#64) }
  | none => sp
def firstSome (l : List (Option DWord)) : Option DWord := (l.find? (·.isSome)).getD none
/-- Ends a matrix operation: counted on MMA, complete. -/
def matDone (s : State) (g : Group) (sp : Split) : State :=
  let f := s.fresh
  finish f.2 (g.addFlight 4 f.1 true) sp 12
/-- Performs a multiply whose checks have passed. -/
def mmaGo (g : Group) (f : LongF) (c : DWord) (explicit : Bool) (sc : Scales × Scales) (s : State) (sp : Split) : State :=
  let a := laneAgent s g sp
  let ra := fetchOperand s a (opndA g f c)
  let rb := fetchOperand ra.s a (opndB g f c)
  let x : MmaIn :=
    { a := fun m k => if f.mo.getLsbD 0 then ra.rows.at k m else ra.rows.at m k
      b := fun k n => if f.mo.getLsbD 1 then rb.rows.at k n else rb.rows.at n k
      sa := fun m j => sc.1.rows.at m j
      sb := fun n j => sc.2.rows.at n j }
  let s := mmaTile rb.s g c (g.sReg f.d.toNat).toNat f.rm.toNat f.sat (f.mo.getLsbD 2) x
  let bad := if cwScaled c || explicit then [ra.bad, rb.bad, sc.1.bad, sc.2.bad] else [ra.bad, rb.bad]
  matDone s g (notePoison sp (firstSome bad))
/-- The checks of MMA and MMAS at issue, then the operation. -/
def mmaBody (i : Instr) (f : LongF) (explicit : Bool) (s : State) (g : Group) (sp : Split) : State :=
  let c := g.sReg f.c.toNat
  let ctx := splitCtx g sp
  if !mmaLegal g f explicit c then raise s g sp { code := cIllop } (encode i)
  else
    match accCheck s g (g.sReg f.d.toNat) (cwM c * cwN c * accSize (cwC c)) 256 with
    | some e => raise s g sp e (encode i)
    | none =>
      let m := checkOperand g ctx false 8 (opndA g f c) (checkBase (opndA g f c) { s := s })
      let m := checkOperand g ctx false 8 (opndB g f c) (checkBase (opndB g f c) m)
      match m.cause with
      | some e => raise m.s g sp e (encode i)
      | none =>
        let nb := if cwScaled c then cwK c / 32 else 0
        let sa := fetchScales ctx (cwM c) nb (scaleAAddr g f explicit c) { s := m.s }
        let sb := fetchScales ctx (cwN c) nb (scaleBAddr g f explicit c) { s := sa.s, cause := sa.cause }
        match sb.cause with
        | some e => raise sb.s g sp e (encode i)
        | none =>
          let w := max (budgetW (cwA c)) (budgetW (cwB c))
          budgetGate sb.s g sp (budgetUnits (cwM c) (cwN c) (cwK c) w (toggles sb.s (laneAgent s g sp) (opndA g f c)))
            (mmaGo g f c explicit (sa, sb))
def execMma (h : Hdr) (f : LongF) (s : State) : Host.Outcome State Fault Refusal :=
  asUniform (.mma h f) h 12 always never (fun s g sp => withRoom false (some 4) s g sp (mmaBody (.mma h f) f false s g sp)) s
def execMmas (h : Hdr) (f : LongF) (s : State) : Host.Outcome State Fault Refusal :=
  asUniform (.mmas h f) h 12 always never (fun s g sp => withRoom false (some 4) s g sp (mmaBody (.mmas h f) f true s g sp)) s

/-! ### ACLR, ALD, AST (R253) -/

def execAclr (h : Hdr) (f : LongF) (s : State) : Host.Outcome State Fault Refusal :=
  asUniform (.aclr h f) h 12 always never (fun s g sp => withRoom false (some 4) s g sp (
    let c := g.sReg f.c.toNat
    let n := cwM c * cwN c * accSize (cwC c)
    let off := g.sReg f.d.toNat
    if !(mcOk c && ncOk c && accType (cwC c)) then raise s g sp { code := cIllop } (encode (.aclr h f))
    else
      match accCheck s g off n 256 with
      | some e => raise s g sp e (encode (.aclr h f))
      | none => matDone { s with acc := memClear s.acc (accKey s g + off.toNat) n } g sp)) s
/-- The offset of a lane of ALD and AST. -/
def accLane (g : Group) (l : Nat) (f : LongF) : DWord :=
  g.sReg f.b.toNat + (if f.sat then 0 else zx ((g.lane l).vReg f.a.toNat)) + sx32 f.x
def execAld (h : Hdr) (f : LongF) (s : State) : Host.Outcome State Fault Refusal :=
  memInstr (.ald h f) h always weakOrd inOrder (some ({ reg := f.d.toNat, count := tyRegs f.ty, image := fun v => v }, f.ty))
    (fun s g _ l =>
      let n := tyBits f.ty / 8
      match accCheck s g (accLane g l f) n n with
      | some e => (s, .fault e, [])
      | none => (s, .done 4 (accRead s g (accLane g l f).toNat n), [])) s
def execAst (h : Hdr) (f : LongF) (s : State) : Host.Outcome State Fault Refusal :=
  memInstr (.ast h f) h always weakOrd inOrder none
    (fun s g _ l =>
      let n := tyBits f.ty / 8
      match accCheck s g (accLane g l f) n n with
      | some e => (s, .fault e, [])
      | none => (accWrite s g (accLane g l f).toNat n ((g.lane l).vNat f.d.toNat (tyRegs f.ty)), .done 4 0, [])) s

/-! ### ASTS (R254) -/

/-- The accumulator and destination types that go together. -/
def astsPair (c d : BitVec 5) : Bool :=
  match c.toNat with
  | 9 | 10 | 11 => [9, 10, 11, 13, 14].contains d.toNat
  | 12 => [11, 12].contains d.toNat
  | 6 => [2, 6].contains d.toNat
  | _ => false
def astsAddr (g : Group) (f : LongF) (c : DWord) (m n : Nat) : DWord :=
  g.sReg f.a.toNat + sx32 f.x + dw (m * cwAstr c + n * (tyBits f.ty / 8))
/-- The tile's elements in row order. -/
def tileCells (c : DWord) : List (Nat × Nat) := (upTo (cwM c)).flatMap (fun m => (upTo (cwN c)).map (fun n => (m, n)))
def astsChecks (s : State) (g : Group) (ctx : Ctx) (f : LongF) (c : DWord) : Checked :=
  (tileCells c).foldl (fun (m : Checked) q =>
    if m.cause.isSome then m
    else
      match matPlace m.s ctx (spaceOf f.sc.toNat) true (astsAddr g f c q.1 q.2) (tyBits f.ty / 8) 2 with
      | (s, .error e) => { m with s := s, cause := some e }
      | (s, .ok _) => { m with s := s }) { s := s }
/-- A weak store of a checked place. -/
def matStore (s : State) (a : Agent) (sp : Space) (addr : DWord) (n v : Nat) : State :=
  match place s a.ctx sp needW addr n with
  | (s, .error _) => s
  | (s, .ok p) => (storePlace s a weakOrd none addr.toNat n v p).1
def astsStores (s : State) (g : Group) (a : Agent) (f : LongF) (c : DWord) : State :=
  let sz := accSize (cwC c)
  (tileCells c).foldl (fun s q =>
    let x := accRead s g ((g.sReg f.d.toNat).toNat + (q.1 * cwN c + q.2) * sz) sz
    matStore s a (spaceOf f.sc.toNat) (astsAddr g f c q.1 q.2) (tyBits f.ty / 8) (convert (cwC c) f.ty f.rm.toNat 0 f.sat x)) s
def execAsts (h : Hdr) (f : LongF) (s : State) : Host.Outcome State Fault Refusal :=
  asUniform (.asts h f) h 12 always never (fun s g sp => withRoom false (some 4) s g sp (
    let c := g.sReg f.c.toNat
    let ins := encode (.asts h f)
    if !(mcOk c && ncOk c && astsPair (cwC c) f.ty && roundUp (cwN c * (tyBits f.ty / 8)) 16 ≤ cwAstr c) then
      raise s g sp { code := cIllop } ins
    else
      match accCheck s g (g.sReg f.d.toNat) (cwM c * cwN c * accSize (cwC c)) 256 with
      | some e => raise s g sp e ins
      | none =>
        let m := astsChecks s g (splitCtx g sp) f c
        match m.cause with
        | some e => raise m.s g sp e ins
        | none => matDone (astsStores m.s g (laneAgent s g sp) f c) g sp)) s

/-! ### XQT (R255) -/

def xqtSrc (g : Group) (f : LongF) (c : DWord) : Operand :=
  { space := spaceOf (f.sc.toNat % 4), base := g.sReg f.a.toNat, stride := cwAstr c, ty := f.ty, rows := cwM c, cols := cwK c }
def xqtDst (g : Group) (f : LongF) (c : DWord) : Operand :=
  { space := spaceOf (f.sc.toNat / 4), base := g.sReg f.b.toNat, stride := cwBstr c, ty := f.ty, rows := cwK c, cols := cwM c }
/-- The checks of XQT's words (R255). R249's limits hold for both tiles, and so does its alignment of a base: DESIGN CHOICE, R249 gives them for MMA and
MMAS, and R255 names neither (log entry 127). -/
def xqtLegal (g : Group) (f : LongF) (c : DWord) : Bool :=
  mcOk c && fld c 0 3 != 0 && kcOk c && (xqtSrc g f c).strideOk && (xqtDst g f c).strideOk
/-- The work area, row by row of the transposed tile. -/
def xqtWork (s : State) (g : Group) (off : Nat) (c : DWord) (v : Nat → Nat → FVal) : State :=
  (upTo (cwK c)).foldl (fun s k => (upTo (cwM c)).foldl (fun s m =>
    accWrite s g (off + (k * cwM c + m) * 4) 4 (froundV 11 0 0 (v m k))) s) s
/-- The scale of row `k`, block `b` of the new tile. -/
def xqtScale (ty : BitVec 5) (nc : Bool) (v : Nat → Nat → FVal) (k b : Nat) : Nat := chooseScale ty nc ((upTo 32).map (fun i => v (32 * b + i) k))
/-- Byte `b` of row `k` of the new tile: two codes for 4-bit types, else one. -/
def xqtByte (ty : BitVec 5) (rm : Nat) (nc : Bool) (v : Nat → Nat → FVal) (k b : Nat) : Nat :=
  let q (m : Nat) := quantise ty rm 0 (xqtScale ty nc v k (m / 32)) (v m k)
  if tyBits ty = 4 then q (2 * b) + 16 * q (2 * b + 1) else q b
/-- Bytes of a row of the new tile. -/
def xqtRowBytes (ty : BitVec 5) (c : DWord) : Nat := if tyBits ty = 4 then cwM c / 2 else cwM c
/-- Codes and scales of an operand. -/
abbrev Tile := Codes × Codes
/-- The exact value of source element (m, k), with the scale that R62 gives it; NaN where its data meets a lasting error. Of a source that is
partly overwritten: which elements and scales are those of the beginning and which those after the stores so far is open. Bit `m` of
a mask tells it for element (m, k). -/
def mixTile (ty : BitVec 5) (old new : Tile) (m1 m2 : Nat) : Nat → Nat → FVal := fun m k =>
  match (if bit m1 m then new.1.at m k else old.1.at m k), (if bit m2 m then new.2.at m k else old.2.at m k) with
  | some e, some s => fmulV (fdec ty e) (fdec 18 s)
  | _, _ => .nan
/-- Four free values as two masks of 128 bits. -/
def takeMasks (s : State) : State × Nat × Nat :=
  let a := s.takeFree
  let b := a.2.takeFree
  let c := b.2.takeFree
  let d := c.2.takeFree
  (d.2, a.1.toNat + 2 ^ 64 * b.1.toNat, c.1.toNat + 2 ^ 64 * d.1.toNat)
/-- The address of the scale of row `k`, block `b` of the new tile. -/
def xqtScaleAt (g : Group) (o : Operand) (k b : Nat) : DWord := scaleAddr g (o.elemAt k (32 * b)).toNat
/-- The source tile as it stands: codes and scales. -/
def xqtTile (s : State) (g : Group) (a : Agent) (f : LongF) (c : DWord) : State × Tile :=
  let o := xqtSrc g f c
  let d := fetchOperand s a o
  let sc := fetchScales a.ctx (cwM c) (cwK c) (fun m k => scaleAddr g (o.elemAt m k).toNat) { s := d.s }
  (sc.s, d.rows, sc.rows)
/-- Stores row `k` and its scales. Where source and destination meet, each byte and scale holds its value, or one computed from a partly
overwritten source (R255). -/
def xqtStoreRow (s : State) (g : Group) (a : Agent) (f : LongF) (c : DWord) (open_ : Bool) (t : Tile) (k : Nat) : State :=
  let o := xqtDst g f c
  let now := if open_ then xqtTile s g a f c else (s, t)
  let value (s : State) : State × (Nat → Nat → FVal) :=
    if open_ then (fun (q : State × Nat × Nat) => (q.1, mixTile f.ty t now.2 q.2.1 q.2.2)) (takeMasks s) else (s, mixTile f.ty t t 0 0)
  let s := (upTo (xqtRowBytes f.ty c)).foldl (fun s b =>
    let v := value s
    matStore v.1 a o.space (o.at k b) 1 (xqtByte f.ty f.rm.toNat (f.mo.getLsbD 0) v.2 k b)) now.1
  (upTo (cwM c / 32)).foldl (fun s b =>
    let v := value s
    matStore v.1 a .global (xqtScaleAt g o k b) 1 (xqtScale f.ty (f.mo.getLsbD 0) v.2 k b)) s
def xqtGo (g : Group) (f : LongF) (c : DWord) (open_ : Bool) (sc : Scales) (s : State) (sp : Split) : State :=
  let a := laneAgent s g sp
  let src := fetchOperand s a (xqtSrc g f c)
  let t : Tile := (src.rows, sc.rows)
  let s := (upTo (cwK c)).foldl (fun s k => xqtStoreRow s g a f c open_ t k)
    (xqtWork src.s g (g.sReg f.d.toNat).toNat c (mixTile f.ty t t 0 0))
  matDone s g (notePoison sp (firstSome [src.bad, sc.bad]))
/-- The checks of the new tile's scales. -/
def checkScaleStores (ctx : Ctx) (g : Group) (o : Operand) (m : Checked) : Checked :=
  (upTo o.rows).foldl (fun m k => (upTo (o.cols / 32)).foldl (fun (m : Checked) b =>
    if m.cause.isSome then m
    else
      match matPlace m.s ctx .global true (xqtScaleAt g o k b) 1 2 with
      | (s, .error e) => { m with s := s, cause := some e }
      | (s, .ok _) => { m with s := s }) m) m
def xqtBody (i : Instr) (f : LongF) (s : State) (g : Group) (sp : Split) : State :=
  let c := g.sReg f.c.toNat
  let ctx := splitCtx g sp
  let src := xqtSrc g f c
  let dst := xqtDst g f c
  if !xqtLegal g f c then raise s g sp { code := cIllop } (encode i)
  else
    match accCheck s g (g.sReg f.d.toNat) (cwM c * cwK c * 4) 256 with
    | some e => raise s g sp e (encode i)
    | none =>
      let m := checkOperand g ctx false 8 src (checkBase src { s := s })
      let sc := fetchScales ctx (cwM c) (cwK c) (fun m k => scaleAddr g (src.elemAt m k).toNat) { s := m.s, cause := m.cause }
      let d := checkScaleStores ctx g dst (checkOperand g ctx true 2 dst (checkBase dst { s := sc.s, cause := sc.cause }))
      match d.cause with
      | some e => raise d.s g sp e (encode i)
      | none =>
        let meets := m.locs.any (fun x => d.locs.any (fun y => locMeets x 8 y 8))
        budgetGate d.s g sp (budgetUnits (cwM c) 1 (cwK c) (budgetW f.ty) (toggles d.s (laneAgent s g sp) src)) (xqtGo g f c meets sc)
def execXqt (h : Hdr) (f : LongF) (s : State) : Host.Outcome State Fault Refusal :=
  asUniform (.xqt h f) h 12 always never (fun s g sp => withRoom false (some 4) s g sp (xqtBody (.xqt h f) f s g sp)) s

end Sys2Proof.Machine
end

