-- ==== Sys2Proof/Machine/VcpMem.lean ====
section
/-! DEFINITION. Accesses of a partition's VCP and of its steeps in the launch context, here or behind an aperture (R337, R341, R355, R406). -/

namespace Sys2Proof.Machine

/-- How an access of a VCP ends: performed with a value, refused by its checks, or requested of another device. -/
inductive VcpEnd where
  | done (s : State) (v : Nat)
  | fault (s : State)
  | away (s : State)

/-- For whom the VCP makes an access: a packet or a steep run. -/
structure VcpWho where
  part : Nat
  packet : Option PacketRef := none
  run : Option Nat := none

/-- One request to the home of a word on another device; its COMPLETE is awaited. -/
def vcpRequest (s : State) (w : VcpWho) (addr : DWord) (pa : Nat) (e : TlbEntry) (op : RemoteOp) (order scope : Nat) : VcpEnd :=
  match remotePage s w.part 0 addr pa e op with
  | .error _ => .fault s
  | .ok x =>
    let f := s.fresh
    let out : RemoteOut :=
      { id := f.1, group := 0, split := 0, engine := none, dst := 0, ty := 0, reg := false, op := f.1, pc := 0,
        insn := [], lanes := [x], atComplete := true, packet := w.packet, run := w.run, order := BitVec.ofNat 3 order,
        scope := BitVec.ofNat 4 scope }
    .away (sendFrom f.2 (vcpCore w.part) w.part order scope (3 ≤ order) out)
/-- The agent of a partition's VCP. -/
def vcpAgent (s : State) (part : Nat) : Agent :=
  { ctx := launchCtx s part (vcpCore part), paired := false, writer := .here part ((s.part part).devReg 0x60), group := 0 }
/-- An acquire load of `n` bytes. -/
def vcpRead (s : State) (w : VcpWho) (addr : DWord) (n scope : Nat) : VcpEnd :=
  match globalCheck s (launchCtx s w.part (vcpCore w.part)) needR addr n with
  | (s, .error _) => .fault s
  | (s, .ok (.remote pa e)) => vcpRequest s w addr pa e (.read n) 2 scope
  | (s, .ok t) =>
    let r := loadPlace s (vcpAgent s w.part) { order := 2, scope := max 4 scope, cp := 1 } addr.toNat n (.glob t)
    match r.v with
    | .ok v => .done r.s v
    | .error _ => .fault r.s
/-- The new value of a store (0), an add (1) or an or (2) of 8 bytes. -/
def vcpValue (op old v : Nat) : Nat := if op = 0 then v % 2 ^ 64 else if op = 1 then (old + v) % 2 ^ 64 else old ||| v % 2 ^ 64
/-- The request of such a write. -/
def vcpWriteOp (op v : Nat) : RemoteOp :=
  if op = 0 then .write (leBytes 8 v) else if op = 1 then .rmw 0 7 (dw v) else .rmw 5 7 (dw v)
/-- A store, add or or of 8 bytes in one step at the home: a release of `sig`, or a weak store when there is none. -/
def vcpWrite (s : State) (w : VcpWho) (op : Nat) (addr : DWord) (v : Nat) (sig : Option (List (Nat × Nat))) (scope : Nat) : VcpEnd :=
  match globalCheck s (launchCtx s w.part (vcpCore w.part)) (if op = 0 then needW else needRW) addr 8 with
  | (s, .error _) => .fault s
  | (s, .ok (.plain pa _)) =>
    if op != 0 && poisoned s (.hbm pa) then .fault s
    else
      let s := touch (softWrite s pa 8 (vcpValue op (homeRead s pa 8) v)) (vcpCore w.part) (pa / 128)
      .done (match sig with
        | some l => deposit (shootdown s pa 8) (.hbm pa) 8 l (op != 0)
        | none => endSequence s (.hbm pa) 8) 0
  | (s, .ok (.remote pa e)) => vcpRequest s w addr pa e (vcpWriteOp op v) (if sig.isSome then 3 else 0) scope
  | (s, .ok t) =>
    if op != 0 then .fault s
    else
      match storePlace s (vcpAgent s w.part) { order := if sig.isSome then 3 else 0, scope := if sig.isSome then max 4 scope else 0, cp := 1 } none
          addr.toNat 8 (v % 2 ^ 64) (.glob t) with
      | (s, some _) => .fault s
      | (s, none) => .done s 0
/-- The (core, line) pairs a completion release covers: all that the partition's cores and its VCP have written or learned of (R341;
log entry 7). -/
def completionSig (s : State) (part : Nat) : List (Nat × Nat) :=
  s.touched.filter (fun p => p.1 == vcpCore part || (p.1 < 192 && (s.part part).hasCore p.1))
/-- `n` quadwords in the launch context, read one after another as acquires; `none` when one is refused. -/
def vcpQuads (s : State) (part : Nat) (addr : DWord) : Nat → State × Option (List DWord)
  | 0 => (s, some [])
  | n + 1 =>
    match vcpRead s { part := part } addr 8 8 with
    | .fault s => (s, none)
    | .away _ => (s, none)
    | .done s v =>
      match vcpQuads s part (addr + 8) n with
      | (s, some vs) => (s, some (dw v :: vs))
      | (s, none) => (s, none)

/-! ### The state of a packet -/

/-- A packet is complete with a status. -/
def completePacket (s : State) (r : PacketRef) (code : Nat) : State :=
  s.modPacket r (fun x => { x with state := .complete, code := BitVec.ofNat 8 code })
/-- An access that is the packet's whole effect: it completes with it, FAULT when it is refused (R340). -/
def packetAccess (r : PacketRef) (e : VcpEnd) : State :=
  match e with
  | .done s _ => completePacket s r 0
  | .fault s => completePacket s r 1
  | .away s => s.modPacket r (fun x => { x with state := .started })

end Sys2Proof.Machine
end

