-- ==== Sys2Proof/Machine/Tuns.lean ====
section
/-! DEFINITION. TINST, TFREE, TDRAW, TSTAT (R125 to R143, R256 to R260) and the steps of tuns: the completion of an install, fires, fill
timeouts, and draws that are served or time out. -/

namespace Sys2Proof.Machine

/-- CLOCK cycles in a microsecond: 1.75 GHz. -/
def usCycles : Nat := 1750

/-! ### Install: reads and checks (R128 to R132) -/

/-- Install status codes. -/
def instOk : Nat := 0
def instFormat : Nat := 1
def instWindow : Nat := 2
def instNospace : Nat := 3
def instBusy : Nat := 4
def instReadfault : Nat := 5

/-- One byte of an install's reads: the core's dirty byte goes home first; a refused byte ends the install. A byte with a lasting error is
refused like one that does not translate (DESIGN CHOICE, log entry 96: the spec names only translation and permission faults). -/
def instByte (s : State) (a : Agent) (addr : DWord) : State × Option Nat :=
  match globalCheck s a.ctx needR addr 1 with
  | (s, .ok (.plain pa e)) =>
    let r := loadPlace (writeBack s a.ctx.core (pa / 128)) a weakOrd addr.toNat 1 (.glob (.plain pa e))
    (r.s, match r.v with | .ok v => some v | .error _ => none)
  | (s, .ok (.decoded fr i e)) =>
    let s := writeBack (writeBack s a.ctx.core (elemByte fr i / 128)) a.ctx.core ((elemByte fr i + 1) / 128)
    let r := loadPlace s a weakOrd addr.toNat 1 (.glob (.decoded fr i e))
    (r.s, match r.v with | .ok v => some v | .error _ => none)
  | (s, _) => (s, none)
/-- What an install has read so far: a refused address ends it. -/
structure InstRead where
  s : State
  bad : Option DWord := none
/-- `n` bytes as a number. -/
def instBytes (a : Agent) (addr : DWord) (n : Nat) (m : InstRead) : InstRead × Nat :=
  (upTo n).foldl (fun (q : InstRead × Nat) i =>
    if q.1.bad.isSome then q
    else
      match instByte q.1.s a (addr + dw i) with
      | (s, some v) => ({ s := s }, q.2 + 256 ^ i * v)
      | (s, none) => ({ s := s, bad := some (addr + dw i) }, q.2)) (m, 0)
/-- Several numbers of `n` bytes each, `stride` apart. -/
def instMany (a : Agent) (addr : DWord) (count stride n : Nat) (m : InstRead) : InstRead × List Nat :=
  (upTo count).foldl (fun (q : InstRead × List Nat) i =>
    let r := instBytes a (addr + dw (i * stride)) n q.1
    (r.1, q.2 ++ [r.2])) (m, [])

/-- The formats of R128. -/
def tunFormats (o i r : Nat) : Bool :=
  let f := [9, 10, 13, 14, 15, 16, 17]
  (f.contains o && f.contains i && [9, 10, 11].contains r) || ([2, 19].contains o && [2, 19].contains i && r == 6)
/-- The format checks of R128 and R129. -/
def Tun.formatOk (t : Tun) : Bool :=
  fld (t.quad 0) 0 6 == 0 && t.geom 53 11 == 0 && t.geom 11 1 == 0 && t.geom 43 2 != 3 &&
  fld (t.quad 4) 54 10 == 0 && fld (t.quad 5) 54 10 == 0 && (t.scaled || t.quad 2 == 0) &&
  tunFormats t.opTy.toNat t.inTy.toNat t.resTy.toNat && (!t.scaled || (13 ≤ t.opTy.toNat && t.opTy.toNat ≤ 17)) && (t.quad 3).toNat % t.resSize == 0 &&
  (upTo 8).all (fun i => !t.enable i || (t.base i + t.count i ≤ t.nslots && (!t.remote i || t.geom 43 2 == 2)))
/-- 64 KB pages of a window of `n` bytes. -/
def windowPages (n : Nat) : Nat := ceilDiv n 65536
/-- A window's pages: type, tun number and physical base of each; `none` for one that does not map as that type, or lies past VA 2^54. -/
def windowFrames (s : State) (c : Ctx) (va n ptype : Nat) (num : Option Nat) : State × Option (List Nat × Nat) :=
  (upTo (windowPages n)).foldl (fun q i =>
    match q.2 with
    | none => q
    | some (fs, k) =>
      if 2 ^ 54 ≤ va + 65536 * i then (q.1, none)
      else
      match translate q.1 c false (va + 65536 * i) with
      | (s, .error _) => (s, none)
      | (s, .ok e) =>
        let pa := e.pbase + (va + 65536 * i - e.vbase)
        let want := if i = 0 && num.isNone then e.tunid.toNat else k
        if e.ptype.toNat = ptype && e.tunid.toNat = want && pa < apertureBase then (s, some (fs ++ [pa], want)) else (s, none))
    (s, some ([], num.getD 0))
def rangesMeet (a n b m : Nat) : Bool := a < b + m && b < a + n
/-- The stripe cores (R130). -/
def stripeCores (core n : Nat) : List Nat := (upTo n).map (fun i => core / 8 * 8 + (rankOf core / n * n) + i)
/-- Rows of stripe `i`. -/
def Tun.stripeRows (t : Tun) (i : Nat) : Nat := let h := ceilDiv t.m t.stripes; min ((i + 1) * h) t.m - min (i * h) t.m
/-- Operator memory taken on stripe `i`'s core. -/
def Tun.stripeBytes (t : Tun) (i : Nat) : Nat :=
  roundUp (t.stripeRows i * (t.opStride + (if t.scaled then t.scalesPerRow else 0) + (if t.quad 3 == 0 then 0 else t.resSize))) 4096
/-- The tuns on a core; those of a partition that is swapped out have left it (R399). -/
def coreTuns (s : State) (core : Nat) : List (Tun × Nat) :=
  (s.tuns.filter (fun t => (s.part t.part).pstate != 3)).filterMap (fun t => (t.cores.idxOf? core).map (fun i => (t, i)))
def opMemUsed (s : State) (core : Nat) : Nat := (coreTuns s core).foldl (fun n q => n + q.1.stripeBytes q.2) 0
def spaceFor (s : State) (t : Tun) : Bool :=
  t.cores.zipIdx.all (fun q => (coreTuns s q.1).length < 16 && opMemUsed s q.1 + t.stripeBytes q.2 ≤ 2 ^ 20)

/-- Who installs, and what waits for the end: context, core, group and its operation, or a TUNOP packet. -/
structure Installer where
  agent : Agent
  group : Nat
  flight : Nat
  packet : Option PacketRef
/-- A TUNOP packet's end: the selector-0 word of R258 goes to its status address (R337). -/
def tunopEnd (s : State) (p : Option PacketRef) (num : BitVec 12) (status : Nat) : State :=
  match p with
  | some r =>
    (match s.packet? r with
     | some k => packetAccess r (vcpWrite s { part := r.part, packet := some r } 0 (k.words.getD 4 0) (num.toNat * 256 + status) none 8)
     | none => s)
  | none => s
/-- An install ends: status, and the operation completes. -/
def installEnd (s : State) (w : Installer) (num : BitVec 12) (status : Nat) (addr : DWord) : State :=
  let s := s.modGroup w.group (fun g =>
    let g := if g.instOp = w.flight then { g with instTun := num, instStatus := BitVec.ofNat 8 status, instAddr := addr } else g
    g.flightDone w.flight)
  tunopEnd s w.packet num status
/-- The checks of an install in their order, up to binding the number (R125, R132). -/
def installStart (s : State) (w : Installer) (da : DWord) : State :=
  let a := w.agent
  let q := instMany a da 16 8 8 { s := s }
  match q.1.bad with
  | some b => installEnd q.1.s w 0xFFF instReadfault b
  | none =>
    let t : Tun := { num := 0, part := a.ctx.part, desc := q.2.map dw, cores := [], ctx := a.ctx, group := w.group, flight := w.flight, packet := w.packet }
    if !t.formatOk then installEnd q.1.s w 0xFFF instFormat 0
    else
      let fn := t.nslots * t.feedStride
      let dn := t.nslots * t.drawStride
      match windowFrames q.1.s a.ctx t.feedVa (min fn 65536) 1 none with
      | (s, none) => installEnd s w 0xFFF instWindow 0
      | (s, some (_, num)) =>
        let n := BitVec.ofNat 12 num
        match windowFrames s a.ctx t.feedVa fn 1 (some num) with
        | (s, none) => installEnd s w n instWindow 0
        | (s, some (fs, _)) =>
          match windowFrames s a.ctx t.drawVa dn 2 (some num) with
          | (s, none) => installEnd s w n instWindow 0
          | (s, some (ds, _)) =>
            let t := { t with num := num, feedPages := fs, drawPages := ds, cores := stripeCores a.ctx.core t.stripes }
            if rangesMeet t.feedVa (65536 * fs.length) t.drawVa (65536 * ds.length) then installEnd s w n instWindow 0
            else if !spaceFor s t then installEnd s w n instNospace 0
            else if (s.tun? num).isSome then installEnd s w n instBusy 0
            else
              let s := s.modGroup w.group (fun g => if g.instOp = w.flight then { g with instTun := n } else g)
              { s with tuns := t :: s.tuns }

/-- Operator memory's contents: codes of a row from its bytes. -/
def rowCodes (ty : BitVec 5) (k v : Nat) : List Nat := (upTo k).map (fun i => packedElem ty v i)
/-- Clears every draw slot. -/
def clearDraws (s : State) (t : Tun) : State := drawWrite s t 0 0 (t.nslots * t.drawStride)
/-- The loads of an install, and its end (R132). -/
def installFinish (s : State) (t : Tun) : State :=
  let a : Agent := { ctx := t.ctx, paired := false, writer := .here t.part t.ctx.wkey, group := t.group,
                     na := fld ((s.part t.part).reg 0x28) 0 16 == 0 }
  let w : Installer := { agent := a, group := t.group, flight := t.flight, packet := t.packet }
  let n := BitVec.ofNat 12 t.num
  let r := instMany a (t.quad 0) t.m t.opStride (ceilDiv (t.k * storeBits t.opTy) 8) { s := s }
  let c := if t.scaled then instMany a (t.quad 2) t.m t.scalesPerRow t.scalesPerRow r.1 else (r.1, [])
  let b := if t.quad 3 == 0 then (c.1, []) else instMany a (t.quad 3) t.m t.resSize t.resSize c.1
  match b.1.bad with
  | some x => installEnd { b.1.s with tuns := b.1.s.tuns.filter (fun y => y.num != t.num) } w n instReadfault x
  | none =>
    let s := clearDraws (b.1.s.modTun t.num (fun t => { t with own := t.feedPages.foldl (fun m p => memMove m p b.1.s.hbm p 65536) [] })) t
    let s := s.modTun t.num (fun t => { t with installing := false, op := r.2.map (rowCodes t.opTy t.k),
                                               scales := c.2.map (fun v => (upTo t.scalesPerRow).map (fun j => bits v (8 * j) 8)), bias := b.2 })
    installEnd s w n instOk 0

def execTinst (h : Hdr) (f : LongF) (s : State) : Host.Outcome State Fault Refusal :=
  asUniform (.tinst h f) h 12 always never (fun s g sp =>
    let da := g.sReg f.a.toNat
    if 2 ^ 54 ≤ da.toNat then raise s g sp ((causeAt cPage 0 da.toNat).withAccess 1) (encode (.tinst h f))
    else if da.toNat % 128 != 0 then raise s g sp ((causeAt cAlign 0 da.toNat).withAccess 1) (encode (.tinst h f))
    else withRoom false (some 5) s g sp (
      let q := s.fresh
      let g := { g with instOp := q.1, instTun := 0xFFF, instStatus := 0xFF, instAddr := 0 }
      let s := finish q.2 (g.addFlight 5 q.1 false) sp 12
      installStart s { agent := laneAgent s g sp, group := g.uid, flight := q.1, packet := none } da)) s

/-! ### Draws (R142, R259, R260) -/

def State.draw? (s : State) (op : Nat) : Option Draw := s.draws.find? (fun d => d.op == op)
def State.modDraw (s : State) (op : Nat) (f : Draw → Draw) : State := { s with draws := s.draws.map (fun d => if d.op == op then f d else d) }
/-- Adds writes to an outstanding operation of a split. -/
def addWrites (s : State) (group slot op : Nat) (ws : List RegWrite) : State :=
  s.modSplit group slot (fun x => { x with pend := x.pend.map (fun p => if p.op == op then { p with writes := p.writes ++ ws } else p) })
/-- An operation's writes may land from now on; one without writes is over. -/
def Split.release (sp : Split) (op : Nat) : Split :=
  { sp with pend := (sp.pend.map (fun p => if p.op == op then { p with held := false } else p)).filter (fun p => p.held || !p.writes.isEmpty) }
/-- A slot's image satisfies a draw: READY or FAULTED, with a newer sequence. -/
def imageReady (w : Nat) (last : Word) : Bool := (slotState w == 1 || slotState w == 3) && newerSeq (slotSeq w) last.toNat
/-- Where a lane of a TDRAW reads: a slot here, or a request to another device. -/
def drawPlace (s : State) (c : Ctx) (addr : DWord) (n l : Nat) (last : Word) (cons : Bool) :
    State × Except Cause ((Nat × DWord × Nat × Nat × Nat) ⊕ RemoteLane) :=
  let va := addr.toNat
  let refused (e : TlbEntry) : Cause := (causeAt (if (s.tun? e.tunid.toNat).isNone then cPage else cTunaccess) 0 va).withAccess 6
  match globalCheck s c needR addr n with
  | (s, .error e) => (s, .error (e.withAccess 6))
  | (s, .ok (.draw _ e)) =>
    (match s.tun? e.tunid.toNat with
     | none => (s, .error (refused e))
     | some t =>
       if va < t.drawVa || t.drawVa + t.nslots * t.drawStride < va + n then (s, .error (refused e))
       else (s, .ok (.inl (l, addr, t.num, (va - t.drawVa) / t.drawStride, (va - t.drawVa) % t.drawStride))))
  | (s, .ok (.remote pa t)) =>
    if t.kind = 5 then (s, .error ((causeAt cTunaccess 0 va).withAccess 6))
    else
      (match remotePage s c.part l addr pa t (.draw n last cons []) with
       | .ok r => (s, .ok (.inr r))
       | .error e => (s, .error (e.withAccess 6)))
  | (s, .ok (.feed e)) => (s, .error (refused e))
  | (s, .ok _) => (s, .error ((causeAt cTunaccess 0 va).withAccess 6))
/-- What the lanes of a TDRAW have come to. -/
structure DrawRun where
  s : State
  here : List (Nat × DWord × Nat × Nat × Nat) := []
  away : List RemoteLane := []
  faults : List (Nat × Cause) := []
/-- Where lanes, each with its address, read now. -/
def drawLanes (s : State) (c : Ctx) (n : Nat) (last : Word) (cons : Bool) (ls : List (Nat × DWord)) : DrawRun :=
  ls.foldl (fun m l =>
    match drawPlace m.s c l.2 n l.1 last cons with
    | (s, .ok (.inl x)) => { m with s := s, here := m.here ++ [x] }
    | (s, .ok (.inr r)) => { m with s := s, away := joinDraw m.away r }
    | (s, .error c) => { m with s := s, faults := m.faults ++ [(l.1, c)] }) { s := s }
/-- Sends the requests of a TDRAW to other devices, as operation `id` of the draw (R408). -/
def drawAway (s : State) (g : Group) (d : Draw) (id : Nat) (pc : CodeAddr) (mask : Mask) (ty : BitVec 5) (ls : List RemoteLane) : State :=
  let o : Ord := Ord.gang { order := d.order.toNat, scope := d.scope.toNat, cp := 0 } s g
  let out : RemoteOut :=
    { id := id, group := d.group, split := d.split, engine := none, dst := d.dst, ty := ty, reg := true, op := d.op, pc := pc, insn := d.insn,
      lanes := ls, atComplete := true, drawTmo := some (d.timeout, d.since), order := d.order, scope := BitVec.ofNat 4 o.scope, mask := mask }
  sendFrom s g.core (fld g.partid 0 4) o.order o.scope false out
/-- The poisoned bytes of a slot that a lane reads (R419). -/
def slotPoisoned (s : State) (t : Tun) (slot off : Nat) : Bool := poisoned s (.hbm (t.drawAt (slot * t.drawStride + off)))
/-- Lanes whose pages have moved since they began to wait go on where these are now (R383). -/
def drawMoved (s : State) (g : Group) (sp : Split) (op : Nat) (m : DrawRun) (keep : Nat × DWord × Nat × Nat × Nat → Bool) : State :=
  let s := s.modDraw op (fun d => { d with lanes := d.lanes ++ m.here.filter (fun q => !keep q), faults := d.faults ++ m.faults })
  match s.draw? op with
  | some d =>
    if m.away.isEmpty then s
    else
      let f := s.fresh
      let s := f.2.modGroup g.uid (fun g => if g.flights.any (fun x => x.path == 6 && x.op == op) then g else g.addFlight 6 op false)
      drawAway s g d f.1 sp.pc sp.mask 21 m.away
  | none => s
/-- Serves one slot to the lanes of a draw that name it, each translated anew: on a fitting image, or as it stands when `force`. A lane that
reads poisoned bytes raises POISON (R419); a result that no lane gets is not consumed (DESIGN CHOICE, log entry 115). -/
def serveSlot (s : State) (op num slot : Nat) (force : Bool) : State :=
  match s.draw? op, s.tun? num with
  | some d, some t =>
    let w := t.status s slot
    let blind := slotPoisoned s t slot 0
    let ready := !blind && slotState w == 1 && newerSeq (slotSeq w) d.last.toNat
    if t.installing || !(force || blind || imageReady w d.last) then s
    else
      match s.split? ⟨d.group, d.split⟩ with
      | none => s
      | some (g, sp) =>
        let names (q : Nat × DWord × Nat × Nat × Nat) : Bool := q.2.2.1 == num && q.2.2.2.1 == slot
        let m := drawLanes s (splitCtx g sp) d.size d.last d.cons ((d.lanes.filter names).map (fun q => (q.1, q.2.1)))
        let here := m.here.filter names
        let bad := here.filter (fun q => blind || slotPoisoned m.s t slot q.2.2.2.2)
        let good := here.filter (fun q => !(blind || slotPoisoned m.s t slot q.2.2.2.2))
        let ws := good.flatMap (fun q => vWrites q.1 d.dst (d.size / 4) (drawRead m.s t (slot * t.drawStride + q.2.2.2.2) d.size))
        let s := if d.cons && ready && !good.isEmpty then putSlot m.s t slot (statusWord 0 0 (slotSeq w)) 0 else m.s
        let s := (addWrites s d.group d.split op ws).modDraw op (fun d =>
          { d with lanes := d.lanes.filter (fun q => !names q),
                   faults := d.faults ++ bad.map (fun q => (q.1, (causeAt cPoison 0 q.2.1.toNat).withAccess 6)) })
        let s := drawMoved s g sp op m names
        let r := drawSide s (laneAgent s g sp) { order := d.order.toNat, scope := d.scope.toNat, cp := 0 }
          (unionPairs t.sig (sigAt s (.hbm (t.drawAt (slot * t.drawStride))) 8))
        r.1.modSplit d.group d.split (fun x => { x with acqSig := unionPairs x.acqSig r.2 })
  | some _, none =>
    s.modDraw op (fun d =>
      { d with lanes := d.lanes.filter (fun q => !(q.2.2.1 == num && q.2.2.2.1 == slot)),
               faults := d.faults ++ (d.lanes.filter (fun q => q.2.2.1 == num && q.2.2.2.1 == slot)).map
                 (fun q => (q.1, (causeAt cPage 0 q.2.1.toNat).withAccess 6)) })
  | none, _ => s
/-- The distinct slots a draw still waits for. -/
def Draw.slots (d : Draw) : List (Nat × Nat) := (d.lanes.map (fun q => (q.2.2.1, q.2.2.2.1))).eraseDups
/-- The remote part of an operation is over. -/
def remoteSettled (s : State) (op : Nat) : Bool := s.remotes.all (fun o => o.op != op || !stillAwaited o)
def remoteFaults (s : State) (op : Nat) : List (Nat × Cause) :=
  (s.remotes.filter (fun o => o.op == op)).flatMap (fun o => o.lanes.flatMap (fun r => (remoteCauses r).map (fun q => (q.1, q.2.withAccess 6))))
/-- Every slot is served: the split goes on past the TDRAW, or traps (R37, R259). -/
def drawSettle (s : State) (op : Nat) : State :=
  match s.draw? op with
  | none => s
  | some d =>
    if !d.lanes.isEmpty || !remoteSettled s op then s
    else
      let rf := remoteFaults s op
      let s := { s with draws := s.draws.filter (fun x => x.op != op), remotes := s.remotes.filter (fun o => o.op != op) }
      match s.split? ⟨d.group, d.split⟩ with
      | none => s
      | some (g, sp) =>
        landSaved (settleFaults s (g.flightDone op) { sp.release op with status := .ready, readySince := s.clock, aging := 0 }
          (sortFaults (d.faults ++ rf)) 12 d.insn) d.group
/-- The timeout of a draw has passed. -/
def drawExpired (clock : DWord) (timeout : Word) (since : DWord) : Bool :=
  timeout.toNat != 2 ^ 32 - 1 && since.toNat + timeout.toNat * usCycles ≤ clock.toNat
/-- The draw's group is on its core: a draw of a group that is saved, or stopped by an escalation, waits until it is resumed (R260, R395). -/
def drawWaits (s : State) (d : Draw) : Bool := match s.group? d.group with | some g => g.gstate == .resident | none => true
/-- Looks at every slot of a draw, then whether it is over. -/
def drawTry (s : State) (op : Nat) : State :=
  match s.draw? op with
  | none => s
  | some d =>
    if !drawWaits s d then s
    else drawSettle (d.slots.foldl (fun s q => serveSlot s op q.1 q.2 (drawExpired s.clock d.timeout d.since)) s) op
/-- Looks at every draw of a tun, in order of issue: which of several waiting draws a fire serves first is open (DESIGN CHOICE, log entry 97). -/
def drawsOf (s : State) (num : Nat) : State :=
  (s.draws.filter (fun d => d.lanes.any (fun q => q.2.2.1 == num))).foldl (fun s d => drawTry s d.op) s

/-- The address of a TDRAW lane: no displacement (R243). -/
def drawAddr (g : Group) (l : Nat) (f : LongF) : DWord :=
  g.sReg f.b.toNat + (if f.rm.getLsbD 1 then 0 else zx ((g.lane l).vReg f.a.toNat))
/-- Starts a TDRAW: it is outstanding and counted; slots that can be served now are. -/
def tdrawStart (g : Group) (sp : Split) (f : LongF) (n : Nat) (m : DrawRun) (insn : List Word) : State :=
  let q := m.s.fresh
  let s := q.2
  let g := if m.here.isEmpty then g else g.addFlight 5 q.1 false
  let g := if m.away.isEmpty then g else g.addFlight 6 q.1 false
  let sp := { sp with pend := sp.pend ++ [{ op := q.1, writes := [], held := true }] }
  let d : Draw :=
    { op := q.1, group := g.uid, split := sp.slot, dst := f.d.toNat, size := n, cons := f.rm.getLsbD 0, order := f.mo, scope := f.sc,
      last := (g.sReg f.c.toNat).extractLsb' 0 32, timeout := f.x, since := s.clock, lanes := m.here, faults := m.faults, insn := insn }
  let s := { s with draws := s.draws ++ [d] }
  let s := if m.away.isEmpty then s else drawAway s g d q.1 sp.pc sp.mask f.ty m.away
  drawTry (parkAt s g sp (.tdraw q.1)) q.1
def execTdraw (h : Hdr) (f : LongF) (s : State) : Host.Outcome State Fault Refusal :=
  asLanes (.tdraw h f) h always (fun s g sp ls =>
    if mustWait s g sp (ordOf f) then holdAccess s g sp (ordOf f)
    else withRoom true (some 5) s g sp (
      let n := tyBits f.ty / 8
      let m := drawLanes s (splitCtx g sp) n ((g.sReg f.c.toNat).extractLsb' 0 32) (f.rm.getLsbD 0) (ls.map (fun l => (l, drawAddr g l f)))
      match faultsHeld g sp m.faults with
      | some p => parkPage s g sp sp.mask p
      | none =>
      if m.here.isEmpty && m.away.isEmpty then settleFaults m.s g sp (sortFaults m.faults) 12 (encode (.tdraw h f))
      else if !m.away.isEmpty && g.counter 6 ≥ 63 then stallAt s g sp (.counter 6)
      else if m.away.any (fun r => blockHeld s g.uid r) then stallAt s g sp (.block (heldPlaces m.away))
      else tdrawStart g sp f n m (encode (.tdraw h f)))) s

/-! ### TFREE and TSTAT (R133, R257, R258) -/

/-- Ends the fires in progress of a tun, each slot's held stores dropped. -/
def endFires (s : State) (t : Tun) : State :=
  (t.slots.filter (·.firing)).foldl (fun s x =>
    match s.tun? t.num with
    | some t => endFire s t { x with held := [] }
    | none => s) s
/-- Every draw that waits on a tun number, of groups that are saved too, raises PAGE for its lanes there (R133, R260). -/
def failDraws (s : State) (num : Nat) : State :=
  (s.draws.filter (fun d => d.lanes.any (fun q => q.2.2.1 == num))).foldl (fun s d =>
    drawTry ((d.slots.filter (fun q => q.1 == num)).foldl (fun s q => serveSlot s d.op q.1 q.2 false) s) d.op) s
/-- Unbinds a tun: its install ends first, fires end and serve draws, draws that still wait trap, fills are dropped, operator memory is free. -/
def freeTun (s : State) (t : Tun) : State :=
  let s := if t.installing then installFinish s t else s
  let s := match s.tun? t.num with | some t => drawsOf (endFires s t) t.num | none => s
  failDraws { s with tuns := s.tuns.filter (fun x => x.num != t.num) } t.num
def execTfree (h : Hdr) (f : LongF) (s : State) : Host.Outcome State Fault Refusal :=
  asUniform (.tfree h f) h 12 always never (fun s g sp =>
    let v := g.sReg f.a.toNat
    if 4096 ≤ v.toNat then raise s g sp { code := cIllop } (encode (.tfree h f))
    else withRoom false (some 5) s g sp (
      let q := s.fresh
      let s := finish q.2 (g.addFlight 5 q.1 true) sp 12
      match s.tun? v.toNat with
      | some t => if t.part = fld g.partid 0 4 then freeTun s t else s
      | none => s)) s
/-- The word TSTAT writes. -/
def tstatWord (s : State) (g : Group) (num sel : Nat) : DWord :=
  let t := match s.tun? num with | some t => if t.part = fld g.partid 0 4 then some t else none | none => none
  match sel, t with
  | 0, _ => dw (g.instTun.toNat * 256 + g.instStatus.toNat)
  | 1, _ => if g.instStatus.toNat = instReadfault then g.instAddr else 0
  | 2, some t => dw (t.refused.toNat * 2 ^ 32 + t.fires.toNat)
  | 3, some t => dw (t.overrun.toNat * 2 ^ 32 + t.abandoned.toNat)
  | 4, some t => zx t.faulted
  | _, _ => 0
def execTstat (h : Hdr) (f : LongF) (s : State) : Host.Outcome State Fault Refusal :=
  asUniform (.tstat h f) h 12 always never (fun s g sp => withRoom true none s g sp (
    let q := s.fresh
    let v := tstatWord s g ((g.sReg f.a.toNat).toNat % 4096) f.x.toNat
    finish q.2 g { sp.addPend q.1 [.s f.d.toNat v] with status := .parked (.statuses q.1) } 12)) s

/-! ### Steps of tuns -/

/-- Events of a tun happen while its partition runs (R133). -/
def tunRuns (s : State) (t : Tun) : Bool := s.boot == .running && (s.part t.part).running
def execInstallCompletion (tun : Nat) (s : State) : Host.Outcome State Fault Refusal :=
  .next (match s.tun? tun with
    | some t => if t.installing && tunRuns s t then drawsOf (installFinish s t) tun else s
    | none => s)
def execTunFire (tun slot : Nat) (s : State) : Host.Outcome State Fault Refusal :=
  .next (match s.tun? tun with
    | some t =>
      match t.slot? slot with
      | some x => if x.firing && tunRuns s t then drawsOf (endFire s t x) tun else s
      | none => s
    | none => s)
/-- A fill has reached its time. -/
def fillDue (s : State) (t : Tun) (x : TunSlot) : Bool :=
  !x.firing && t.fillTmo != 0 && x.since.toNat + t.fillTmo * usCycles ≤ s.clock.toNat
def execFillTimeout (tun slot : Nat) (s : State) : Host.Outcome State Fault Refusal :=
  .next (match s.tun? tun with
    | some t =>
      match t.slot? slot with
      | some x => if fillDue s t x && tunRuns s t then abandonFill s t slot else s
      | none => s
    | none => s)
/-- The draw a split waits in. -/
def drawOfSplit (s : State) (r : SplitRef) : Option Draw := s.draws.find? (fun d => d.group == r.group && d.split == r.slot)
def execTdrawServe (sp : SplitRef) (slot : Nat) (s : State) : Host.Outcome State Fault Refusal :=
  .next (match drawOfSplit s sp with
    | some d =>
      if !drawWaits s d then s
      else drawSettle ((d.slots.filter (fun q => q.2 == slot)).foldl (fun s q => serveSlot s d.op q.1 q.2 false) s) d.op
    | none => s)
def execTdrawTimeout (sp : SplitRef) (s : State) : Host.Outcome State Fault Refusal :=
  .next (match drawOfSplit s sp with
    | some d => if drawExpired s.clock d.timeout d.since then drawTry s d.op else s
    | none => s)

end Sys2Proof.Machine
end

