-- ==== Sys2Proof/Machine/Engines.lean ====
section
/-! DEFINITION. Lauter programs as the cores and the engines handle them: starting, inspecting and stopping them (R263 to R266), loops
(R274), faults and their records (R290, R323, R326), their end (R289), and instruction fetch (R268). -/

namespace Sys2Proof.Machine

/-! ### Programs of an engine -/

/-- The program an engine runs or will run next. -/
def State.prog? (s : State) (r : EngRef) : Option Program := (s.engine r).progs.head?
def State.setHead (s : State) (r : EngRef) (p : Program) : State :=
  let e := s.engine r
  s.setEngine { e with progs := match e.progs with | _ :: t => p :: t | [] => [] }
/-- X[n]: X0 reads zero and discards writes (R266). -/
def Program.xReg (p : Program) (n : BitVec 4) : DWord := if n.toNat = 0 then 0 else p.x.getD n.toNat 0
def Program.setX (p : Program) (n : BitVec 4) (v : DWord) : Program := if n.toNat = 0 then p else { p with x := setAt 0 p.x n.toNat v }
/-- The agent of a program's accesses. -/
def progAgent (s : State) (p : Program) : Agent :=
  { ctx := p.ctx, paired := match p.ctx.team.bind s.team? with | some t => t.paired | none => false,
    writer := .here p.ctx.part p.ctx.wkey, group := p.group }
/-- The remote accesses of a program. -/
def ownRemote (r : EngRef) (p : Program) (o : RemoteOut) : Bool := o.engine == some r && o.op == p.serial.toNat
/-- Every write of the program is performed at its home (R87): those here at once, those elsewhere at their COMPLETE. -/
def progDrained (s : State) (r : EngRef) (p : Program) : Bool := s.remotes.all (fun o => !ownRemote r p o || o.finished)
/-- Number of an engine in records: 2c + e. -/
def engNum (r : EngRef) : Nat := 2 * r.core + r.eng

/-! ### The PC and the loop stack (R273, R274) -/

/-- Control has come to `pc` other than by a taken branch. -/
def loopEnd : List LoopEntry → CodeAddr → List LoopEntry × CodeAddr
  | [], pc => ([], pc)
  | e :: es, pc =>
    if pc == e.stop then
      if 1 < e.remaining.toNat then ({ e with remaining := e.remaining - 1 } :: es, e.start) else loopEnd es pc
    else (e :: es, pc)
/-- A branch is taken to `pc`: entries whose body it leaves are popped. -/
def loopLeave : List LoopEntry → CodeAddr → List LoopEntry
  | [], _ => []
  | e :: es, pc => if e.start.toNat ≤ pc.toNat && pc.toNat < e.stop.toNat then e :: es else loopLeave es pc
/-- The program after its instruction, control going on at `pc`. -/
def Program.flow (p : Program) (pc : CodeAddr) : Program :=
  let q := loopEnd p.loops pc
  { p with pc := q.2, loops := q.1, state := .running, deliv := 0, got := [], inMove := false }
def Program.branch (p : Program) (pc : CodeAddr) : Program :=
  { p with pc := pc, loops := loopLeave p.loops pc, state := .running, deliv := 0, got := [], inMove := false }
/-- The address `k` instructions after the next one. -/
def Program.ahead (p : Program) (k : BitVec 32) : CodeAddr := p.pc + 8 + ((k.signExtend 54) <<< (3 : Nat))
/-- Ends an instruction. -/
def progNext (s : State) (r : EngRef) (p : Program) : State := s.setHead r (p.flow (p.pc + 8))

/-! ### The end of a program (R265, R289) -/

/-- The program leaves its engine: its final state is kept among the last 64, its starter's counter and its packet learn of it. -/
def finishProgram (s : State) (r : EngRef) (p : Program) (st : BitVec 3) (code : BitVec 8) : State :=
  let e := s.engine r
  let fin := e.finished ++ [{ serial := p.serial, part := p.ctx.part, state := st, code := code }]
  let s := s.setEngine { e with progs := e.progs.filter (fun x => x.serial != p.serial), finished := fin.drop (fin.length - 64) }
  let s := { s with remotes := s.remotes.filter (fun o => !ownRemote r p o) }
  let s := s.modGroup p.group (fun g =>
    let g := g.flightDone p.flight
    if g.core = r.core then g else { g with lauSig := unionPairs g.lauSig (releaseLines s r.core) })
  match p.packet with
  | some k => completePacket s k (if st.toNat = 3 then 0 else 8)
  | none => s
/-- Ends the program once its writes are performed. -/
def endProgram (s : State) (r : EngRef) (p : Program) (st : BitVec 3) (code : BitVec 8) : State :=
  if progDrained s r p then finishProgram s r p st code else s.setHead r { p with state := .ending st code }
/-- Looks at an ending program again. -/
def endingAgain (s : State) (r : EngRef) : State :=
  match s.prog? r with
  | some p => (match p.state with | .ending st code => endProgram s r p st code | _ => s)
  | none => s

/-! ### Faults (R290, R323, R326, R379) -/

/-- INDEX of dimension `i` of a descriptor. -/
def descIndex (d : List DWord) (i : Nat) : Nat := fld (d.getD (2 + i) 0) 16 16
/-- A bound word as the record shows it. -/
def boundWord (more : Bool) (b : Option (Bool × BitVec 2 × DWord)) : Nat :=
  match b with
  | some x => 2 ^ 63 + b2n more * 2 ^ 62 + x.2.1.toNat * 2 ^ 56 + x.2.2.toNat % 2 ^ 54
  | none => 0
/-- The sixteen quadwords of a fault record (R290). -/
def faultRecord (r : EngRef) (p : Program) (f : LauterF) (c : Cause) : List Nat :=
  let rem (i : Nat) : Nat := match p.loops[i]? with | some e => e.remaining.toNat % 2 ^ 32 | none => 0
  let idx (k : Nat) : Nat := (upTo 4).foldl (fun n j => n + 2 ^ (16 * j) * descIndex (p.d.getD ((4 * k + j) / 5) []) ((4 * k + j) % 5)) 0
  [p.pc.toNat,
   p.deliv * 2 ^ 32 + f.b.toNat * 2 ^ 28 + f.a.toNat * 2 ^ 24 + f.d.toNat * 2 ^ 20 + p.loops.length * 2 ^ 16 + c.sub.toNat * 2 ^ 8 + c.code.toNat,
   c.addr.toNat, r.core * 2 ^ 40 + r.eng * 2 ^ 32 + p.serial.toNat,
   rem 0 + 2 ^ 32 * rem 1, rem 2 + 2 ^ 32 * rem 3,
   idx 0, idx 1, idx 2, idx 3, idx 4, 0,
   boundWord false (p.bound[0]?), boundWord false (p.bound[1]?), boundWord false (p.bound[2]?), boundWord p.boundMore (p.bound[3]?)]
def recordAddr (p : Program) (r : EngRef) : DWord := p.lxrbase + dw (128 * (engNum r))
/-- Writes quadwords in the starter's address space, as the engine writes; the first that faults ends it. -/
def engineQuads (r : EngRef) (p : Program) (addr : DWord) : List Nat → State → State × Option Cause
  | [], s => (s, none)
  | v :: vs, s =>
    match globalCheck s { p.ctx with sup := true } needW addr 8 with
    | (s, .ok (.plain pa _)) => engineQuads r p (addr + 8) vs (endSequence (throughStore s r.core pa 8 v) (.hbm pa) 8)
    | (s, .ok _) => (s, some (causeAt cProt 2 addr.toNat))
    | (s, .error c) => (s, some c)
/-- The group takes LXF; a retired one's fault is an event of its partition (R326). -/
def raiseLx (s : State) (r : EngRef) (p : Program) (c : Cause) : State :=
  match s.group? p.group with
  | some _ => s.modGroup p.group (fun g => { g with lxfaults := g.lxfaults ++
      [{ core := r.core, eng := r.eng, cause := c.code, sub := c.sub, record := recordAddr p r, notify := p.notify, serial := p.serial }] })
  | none => postEvent s p.ctx.part 2 (engNum r) c.code.toNat (recordAddr p r).toNat
/-- A program fault stops the program at its instruction: the record and a zero disposition word are written, then the fault is
raised. A second-stage fault stops it for the hypervisor; a record that cannot be written aborts it with code 0xFE. -/
def faultProgram (s : State) (r : EngRef) (p0 : Program) (f : LauterF) (c : Cause) : State :=
  let p := { p0 with got := [] }
  let stop (hyp : Bool) : Program :=
    { p with state := .faulted { code := c.code, sub := c.sub, addr := c.addr, record := recordAddr p r, hyp := hyp } }
  if c.stage2 then pfRecord (s.setHead r (stop true)) p.ctx.part (engNum r) true c.code c.sub (pcWord p.pc) c.addr
  else
    match engineQuads r p (recordAddr p r) (faultRecord r p f c) s with
    | (s, some e) => endProgram (pfRecord s p.ctx.part (engNum r) true e.code e.sub (pcWord p.pc) e.addr) r p 4 0xFE
    | (s, none) =>
      match engineQuads r p (dispositionAddr p.lxrbase r.core r.eng) [0] s with
      | (s, some e) => endProgram (pfRecord s p.ctx.part (engNum r) true e.code e.sub (pcWord p.pc) e.addr) r p 4 0xFE
      | (s, none) => raiseLx (s.setHead r (stop false)) r p c

/-! ### Accepting programs (R263, R266) -/

/-- A program at its start. -/
def newProgram (serial : Word) (ctx : Ctx) (group flight : Nat) (notify : Bool) (lxrbase : DWord) (packet : Option PacketRef) (pc : CodeAddr)
    (args : List DWord) (src : List Nat) : Program :=
  { serial := serial, ctx := ctx, group := group, flight := flight, notify := notify, lxrbase := lxrbase, packet := packet,
    x := 0 :: (args ++ List.replicate 15 0).take 15, pc := pc, loops := [], d := List.replicate 4 (List.replicate 8 0), src := src }
/-- The engine a start goes to: the one named, or the one with fewer programs. -/
def chooseEngine (s : State) (core : Nat) (any : Bool) (eng : Nat) : EngRef :=
  if any then (if (s.engine ⟨core, 1⟩).progs.length < (s.engine ⟨core, 0⟩).progs.length then ⟨core, 1⟩ else ⟨core, 0⟩) else ⟨core, eng⟩
/-- The engines one of which a start waits for. -/
def startEngines (core : Nat) (any : Bool) (eng : Nat) : List EngRef := if any then [⟨core, 0⟩, ⟨core, 1⟩] else [⟨core, eng⟩]
/-- An engine accepts at most 8 programs at a time. -/
def engineFull (s : State) (r : EngRef) : Bool := 8 ≤ (s.engine r).progs.length
def acceptProgram (s : State) (r : EngRef) (p : Program) : State :=
  let e := s.engine r
  s.setEngine { e with accepted := e.accepted + 1, progs := e.progs ++ [p] }
/-- The handle of the next program an engine accepts. -/
def nextHandle (s : State) (r : EngRef) : DWord := dw (r.core * 2 ^ 40 + r.eng * 2 ^ 32 + (s.engine r).accepted.toNat)

/-- LXSTART (R263). The program's address space, level and WKEY are its starter's at this moment (R266, R322); a later SWR of PTROOT, ASID or WKEY by
the group does not reach it: DESIGN CHOICE, R266 does not say which (log entry 125). -/
def execLxstart (h : Hdr) (f : LongF) (s : State) : Host.Outcome State Fault Refusal :=
  asUniform (.lxstart h f) h 12 always never (fun s g sp =>
    let pc := g.sReg f.a.toNat
    if 2 ^ 54 ≤ pc.toNat then raise s g sp (causeAt cPage 0 pc.toNat) (encode (.lxstart h f))
    else if pc.toNat % 8 != 0 then raise s g sp (causeAt cAlign 0 pc.toNat) (encode (.lxstart h f))
    else withRoom true (some 3) s g sp (
      let r := chooseEngine s g.core (f.x.getLsbD 1) (b2n (f.x.getLsbD 0))
      if engineFull s r then stallAt s g sp (.engine (startEngines g.core (f.x.getLsbD 1) (b2n (f.x.getLsbD 0))))
      else
        let q := s.fresh
        let args := (upTo 4).map (fun i => g.sReg (f.b.toNat + i))
        let p := newProgram (s.engine r).accepted { splitCtx g sp with core := r.core } g.uid q.1 (f.x.getLsbD 2) g.lxrbase none
          (pc.extractLsb' 0 54) args (redtSource s g)
        finish (acceptProgram q.2 r p) (g.addFlight 3 q.1 false) (sp.addPend q.1 [.s f.d.toNat (nextHandle s r)]) 12)) s

/-! ### LXSTAT and LXKILL (R264, R265) -/

/-- The engine and serial a handle names. -/
def handleOf (h : DWord) : Option (EngRef × Word) :=
  if fld h 48 16 != 0 || fld h 33 7 != 0 || 192 ≤ fld h 40 8 then none else some (⟨fld h 40 8, fld h 32 1⟩, wd (fld h 0 32))
/-- The program of a handle that has not finished. -/
def progOf (s : State) (r : EngRef) (serial : Word) : Option Program := (s.engine r).progs.find? (fun p => p.serial == serial)
/-- STATE and CODE of a handle as a partition sees it. -/
def lxStatus (s : State) (part : Nat) (h : DWord) : Nat :=
  match handleOf h with
  | none => 7
  | some (r, serial) =>
    match progOf s r serial with
    | some p =>
      if p.ctx.part != part then 7
      else match p.state with
        | .queued => 0
        | .faulted f => f.code.toNat * 256 + 2
        | _ => 1
    | none =>
      match (s.engine r).finished.reverse.find? (fun x => x.serial == serial) with
      | some x => if x.part != part then 7 else (if x.state.toNat = 4 then x.code.toNat * 256 else 0) + x.state.toNat
      | none => 7
def execLxstat (h : Hdr) (f : LongF) (s : State) : Host.Outcome State Fault Refusal :=
  asUniform (.lxstat h f) h 12 always never (fun s g sp => withRoom true none s g sp
    (finishLater s g sp [.s f.d.toNat (dw (lxStatus s (groupPart g) (g.sReg f.a.toNat)))] 12)) s
/-- The fault of a program is no longer pending for its group. -/
def dropFault (s : State) (r : EngRef) (p : Program) : State :=
  s.modGroup p.group (fun g => { g with lxfaults := g.lxfaults.filter (fun f => !(f.core == r.core && f.eng == r.eng && f.serial == p.serial)) })
/-- Stops the program of a handle that the team started. A queued one never runs; of a faulted one the fault is discarded. -/
def lxKill (s : State) (team : Nat) (h : DWord) : State :=
  match handleOf h with
  | none => s
  | some (r, serial) =>
    match progOf s r serial with
    | none => s
    | some p =>
      if p.ctx.team != some team then s
      else match p.state with
        | .queued => finishProgram s r p 5 0
        | .faulted _ => endProgram (dropFault s r p) r p 5 0
        | .ending _ _ => s
        | _ => endProgram s r p 5 0
def execLxkill (h : Hdr) (f : LongF) (s : State) : Host.Outcome State Fault Refusal :=
  asUniform (.lxkill h f) h 12 always never (fun s g sp => lxKill (finish s g sp 12) g.team (g.sReg f.a.toNat)) s

/-! ### Executing lauter instructions -/

/-- The engine the state names and its program. -/
def State.currentProg? (s : State) : Option (EngRef × Program) :=
  match s.actor with
  | .engine r => (s.prog? r).map (fun p => (r, p))
  | _ => none
/-- Runs a lauter instruction; an illegal one faults its program (R269). -/
def asProgram (i : Instr) (f : LauterF) (body : State → EngRef → Program → State) (s : State) : Host.Outcome State Fault Refusal :=
  match s.currentProg? with
  | none => .fault .noAgent
  | some (r, p) => .next (if i.wellFormed then body s r p else faultProgram s r p f { code := cIllop })

/-! ### Fetch (R268) -/

/-- An engine may execute: the device and the partition run. -/
def engineRuns (s : State) (p : Program) : Bool := s.boot == .running && (s.part p.ctx.part).running
def noFields : LauterF := ⟨0, 0, 0, 0, 0⟩
/-- One step of an engine up to its instruction. -/
def issueEngine (s : State) (r : EngRef) : State × Option Instr :=
  match s.prog? r with
  | none => (s, none)
  | some p =>
    if !engineRuns s p || p.state != .running then (endingAgain s r, none)
    else
      match globalCheck s p.ctx needX (pcWord p.pc) 8 with
      | (s, .error c) => (faultProgram s r p noFields c, none)
      | (s, .ok (.plain pa _)) =>
        if poisoned s (.hbm pa) then (faultProgram s r p noFields (causeAt cPoison 0 p.pc.toNat), none)
        else
          let w : DWord := dw (engineRead s r.core pa 8)
          match decodeLauter w with
          | .ok i => ({ s with actor := .engine r }, some i)
          | .error _ => (faultProgram s r p (lauterOf w) { code := cIllop }, none)
      | (s, .ok (.remote _ _)) =>
        match decodeLauter s.takeFree.1 with
        | .ok i => ({ s.takeFree.2 with actor := .engine r }, some i)
        | .error _ => (faultProgram s.takeFree.2 r p (lauterOf s.takeFree.1) { code := cIllop }, none)
      | (s, .ok _) => (faultProgram s r p noFields (causeAt cProt 3 p.pc.toNat), none)

/-! ### Steps of programs -/

/-- An engine that is free starts the program it accepted next (R263, R266). -/
def execLauterProgramStart (eng : EngRef) (s : State) : Host.Outcome State Fault Refusal :=
  .next (match s.prog? eng with
    | some p => if p.state == .queued && engineRuns s p then (narrowAcquire s eng.core).setHead eng { p with state := .running } else s
    | none => s)
/-- The disposition the supervisor has written: ACT, when no reserved bit is set (R401). -/
def disposition (s : State) (r : EngRef) (p : Program) : State × Nat :=
  match globalCheck s { p.ctx with sup := true } needR (dispositionAddr p.lxrbase r.core r.eng) 8 with
  | (s, .ok (.plain pa _)) =>
    let s := applySig (flushLine s r.core (pa / 128)) r.core (sigAt s (.hbm pa) 8)
    let w := homeRead s pa 8
    (s, if w < 8 then w % 4 else 0)
  | (s, _) => (s, 0)
/-- A program that faulted to the supervisor, and its disposition. -/
def onDisposition (s : State) (r : EngRef) (act : Nat) (k : State → Program → State) : State :=
  match s.prog? r with
  | some p =>
    match p.state with
    | .faulted f =>
      if f.hyp || !engineRuns s p then s
      else
        let d := disposition s r p
        if d.2 = act then k d.1 p else d.1
    | _ => s
  | none => s
/-- The instruction is executed again in full; a move goes on at unit DELIV (R291). -/
def resumeProgram (s : State) (r : EngRef) (p : Program) : State := s.setHead r { p with state := .running }
def execFaultResume (eng : EngRef) (s : State) : Host.Outcome State Fault Refusal :=
  .next (onDisposition s eng 1 (fun s p => resumeProgram s eng p))
def execFaultAbort (eng : EngRef) (s : State) : Host.Outcome State Fault Refusal :=
  .next (onDisposition s eng 2 (fun s p => endProgram s eng p 4 0xFF))
/-- The requests that poison a program's bound words behind an aperture (R291). -/
def boundAway (p : Program) (s : State) : State × List RemoteLane :=
  p.bound.foldl (fun q b =>
    match place q.1 p.ctx (spaceOf b.2.1.toNat) needRW b.2.2 (if b.1 then 32 else 8) with
    | (s, .ok (.glob (.remote pa e))) =>
      (match remotePage s p.ctx.part 0 b.2.2 pa e (.rmw 5 7 (dw (2 ^ 62))) with
       | .ok x => (s, q.2 ++ [x])
       | .error _ => (s, q.2))
    | (s, _) => (s, q.2)) (s, [])
/-- Poisons one bound word here, if an RMW there would not fault (R291). -/
def poisonBound (p : Program) (s : State) (b : Bool × BitVec 2 × DWord) : State :=
  let n := if b.1 then 32 else 8
  let a := progAgent s p
  match place s p.ctx (spaceOf b.2.1.toNat) needRW b.2.2 n with
  | (s, .error _) => s
  | (s, .ok q) =>
    match rmwRefusal s b.2.2.toNat q, q.loc? with
    | none, some l =>
      if poisoned s l then s
      else (rmwAt s a { order := 1, scope := 8, cp := 0 } none l n (fun v => if b.1 then ringPoison v else setBits v 62 1 1)).1
    | _, _ => s
/-- Sets POISON in every bound word; the program ends once the RMWs are performed, those on other devices too (R291). -/
def abortAndPoison (s : State) (r : EngRef) (p : Program) : State :=
  let w := boundAway p s
  if w.2.any (blockHeld w.1 p.group) then w.1
  else
    let s := p.bound.foldl (poisonBound p) w.1
    if w.2.isEmpty then endProgram s r p 4 0xFF
    else
      let f := s.fresh
      let out : RemoteOut :=
        { id := f.1, group := p.group, split := 0, engine := some r, dst := 0, ty := 0, reg := false, op := p.serial.toNat, pc := p.pc, insn := [],
          lanes := w.2, atComplete := true, order := 1, scope := 10, begun := p.begun }
      endProgram (sendFrom f.2 r.core p.ctx.part 1 10 false out) r p 4 0xFF
def execFaultAbortAndPoison (eng : EngRef) (s : State) : Host.Outcome State Fault Refusal :=
  .next (onDisposition s eng 3 (fun s p => abortAndPoison s eng p))

end Sys2Proof.Machine
end

