-- ==== Sys2Proof/Machine/Packets.lean ====
section
/-! DEFINITION. How a VCP reads packets: headers and body checks (R334, R337, R338), queue faults (R336, R339), graph objects (R344, R345),
acceptance (R335, R342, R351), kicks, restart and skip (R333, R336), completion (R340, R341), and what may start when (R334, R341, R357). -/

namespace Sys2Proof.Machine

/-! ### Headers (R334) -/

/-- Quadword `i` of a packet. -/
def pq (ws : List DWord) (i : Nat) : Nat := (ws.getD i 0).toNat
def hdrType (h : Nat) : Nat := bits h 0 8
def hdrPhase (h : Nat) : Bool := bit h 8
def hdrBB (h : Nat) : Bool := bit h 9
def hdrRoc (h : Nat) : Bool := bit h 10
def hdrRscope (h : Nat) : Nat := bits h 11 4
def hdrLinks (h : Nat) : Nat := bits h 16 8
def hdrHook (h : Nat) : Nat := bits h 24 8
def hdrSeq (h : Nat) : Nat := bits h 32 32
def pktType (ws : List DWord) : Nat := hdrType (pq ws 0)
def Packet.type (k : Packet) : Nat := pktType k.words
/-- A type given to queue programs. -/
def customType (t : Nat) : Bool := 0xF0 ≤ t

/-! ### Checks (R337, R338, R347) -/

/-- Quadwords from `i` up are zero. -/
def restZero (ws : List DWord) (i : Nat) : Bool := (ws.drop i).all (· == 0)
def hdrBad (ws : List DWord) : Bool :=
  let h := pq ws 0
  bit h 15 || hdrRscope h < 8 || 11 < hdrRscope h || (hdrType h != 2 && hdrLinks h != 0)
/-- LAUNCH (R338). -/
def launchBad (ws : List DWord) : Bool :=
  let a := pq ws 3
  let kind := bits a 28 2
  let tg := bits a 16 12
  pq ws 1 % 64 != 0 || 2 ^ 32 ≤ a || kind == 3 || tg == 0 || 64 < tg || bits a 0 16 == 0 || 2 ^ 24 ≤ pq ws 4 || pq ws 5 % 4096 != 0 ||
  (match kind with
   | 0 => !restZero ws 6
   | 1 => 2 ^ 32 ≤ pq ws 6
   | _ => 2 ^ 32 ≤ pq ws 6 || pq ws 7 != 0 || 1024 < bits (pq ws 6) 0 10 + bits (pq ws 6) 10 6 + 1)
/-- The bitmap of 192 cores in quadwords 1 to 3 of a RESERVE. -/
def reserveCores (ws : List DWord) : BitVec 192 := (ws.getD 3 0) ++ (ws.getD 2 0) ++ (ws.getD 1 0)
/-- The local queues a SAVEQ names. -/
def saveQueues (ws : List DWord) : List Nat := (upTo 256).filter (fun q => bit (pq ws (3 + q / 64)) (q % 64))
/-- A core of the partition. -/
def ownCore (p : Partition) (c : Nat) : Bool := c < 192 && p.hasCore c
/-- A broken limit or a reserved bit of a body. -/
def bodyBad (p : Partition) (queue : Nat) (ws : List DWord) : Bool :=
  match pktType ws with
  | 1 => launchBad ws
  | 2 => 1 < pq ws 1 || !restZero ws 2 || hdrLinks (pq ws 0) == 0 || 16 < hdrLinks (pq ws 0)
  | 3 => 2 ^ 11 ≤ pq ws 2 || !ownCore p (bits (pq ws 2) 0 8) || (bit (pq ws 2) 9 && bit (pq ws 2) 8) || !restZero ws 7
  | 4 => pq ws 1 % 8 != 0 || 6 ≤ bits (pq ws 4) 0 3 || bit (pq ws 4) 3 || 11 < bits (pq ws 4) 4 4 || 256 ≤ pq ws 4 || !restZero ws 6
  | 5 => pq ws 1 % 8 != 0 || 2 < pq ws 3 || !restZero ws 4
  | 6 => pq ws 3 % 8 != 0 || 4096 < pq ws 3 || !restZero ws 4
  | 7 => pq ws 3 == 0 || 7 < pq ws 3 || 256 ≤ pq ws 5 || !restZero ws 6
  | 8 => pq ws 1 % 8 != 0 || 1 < pq ws 2 || !restZero ws 3
  | 9 => 1 < pq ws 4 || (reserveCores ws &&& ~~~p.cores) != 0#192 || !restZero ws 5
  | 10 => 1 < pq ws 1 || !ownCore p (pq ws 3) || pq ws 4 % 8 != 0 || !restZero ws 5
  | 11 => pq ws 1 % 65536 != 0 || (saveQueues ws).any (fun q => q == queue || p.qcount ≤ q) || !restZero ws 7
  | 12 => !restZero ws 2
  | _ => false
/-- The slot bound to a custom type. -/
def boundSlot (s : State) (part type : Nat) : Option Nat :=
  (s.bindings.find? (fun b => b.1 == part && b.2.1 == type)).map (fun b => b.2.2)
/-- An installed steep. -/
def steepIn (s : State) (part slot : Nat) : Option Steep := s.steeps.find? (fun x => x.part == part && x.slot == slot)
def typeKnown (s : State) (part t : Nat) : Bool := (1 ≤ t && t ≤ 12) || (customType t && (boundSlot s part t).isSome)
/-- The queue fault of a packet's format: 0 for none, 1 BADTYPE, 2 BADPKT (R339). -/
def pktCheck (s : State) (part queue : Nat) (ws : List DWord) : Nat :=
  if !typeKnown s part (pktType ws) then 1 else if hdrBad ws || bodyBad (s.part part) queue ws then 2 else 0
/-- A member of a bundle (R342): a LAUNCH or LXRUN with LINKS, ROC, BB and HOOK zero. -/
def memberOk (s : State) (part queue : Nat) (ws : List DWord) : Bool :=
  let h := pq ws 0
  (hdrType h == 1 || hdrType h == 3) && !hdrRoc h && !hdrBB h && hdrHook h == 0 && pktCheck s part queue ws == 0
/-- An emitted packet (R357). -/
def emitOk (s : State) (part queue : Nat) (ws : List DWord) : Bool :=
  [1, 3, 4, 5, 8, 10].contains (pktType ws) && hdrHook (pq ws 0) == 0 && pktCheck s part queue ws == 0

/-! ### Queues of the VCP -/

/-- The device and the partition run. -/
def vcpRuns (s : State) (part : Nat) : Bool := s.boot == .running && (s.part part).running
def Partition.vq (p : Partition) (q : Nat) : VcpQueue := (p.vcp.find? (fun v => v.queue == q)).getD { queue := q }
def State.vq (s : State) (r : QueueRef) : VcpQueue := (s.part r.part).vq r.queue
def State.modVq (s : State) (r : QueueRef) (f : VcpQueue → VcpQueue) : State :=
  s.modPart r.part (fun p => { p with vcp := f (p.vq r.queue) :: p.vcp.filter (fun v => v.queue != r.queue) })
/-- Nothing of the packet at RPTR has been read. -/
def VcpQueue.settled (v : VcpQueue) : VcpQueue := { v with firstRead := none, firstMember := none, held := none, running := false }
def ringLog (v : VcpQueue) : Nat := fld v.ctl 0 5
def ringSize (v : VcpQueue) : Nat := 2 ^ ringLog v
/-- Where packet `i` lies (R332), and the PHASE of its lap (R334). -/
def ringAddr (v : VcpQueue) (i : Nat) : DWord := v.base + dw (64 * (i % ringSize v))
def lapPhase (v : VcpQueue) (i : Nat) : Bool := i / ringSize v % 2 == 0
/-- Quadword `i` of a queue's block as a place. -/
def qLoc (r : QueueRef) (i : Nat) : Loc := .page r.part (0x1000 + 64 * r.queue + 8 * i)
/-- The VCP's store to its block: a release of `sig`, or a plain one. -/
def setQ (s : State) (r : QueueRef) (i v : Nat) (sig : Option (List (Nat × Nat))) : State :=
  let s := s.modPart r.part (fun p => p.setQReg r.queue i (dw v))
  match sig with
  | some l => deposit s (qLoc r i) 8 l false
  | none => endSequence s (qLoc r i) 8
def setQState (s : State) (r : QueueRef) (st : Nat) : State := s.modPart r.part (fun p => p.setQField r.queue 5 0 2 st)
/-- A queue fault stops reading at packet `seq` (R336, R343). -/
def queueFault (s : State) (r : QueueRef) (code seq : Nat) : State :=
  let s := s.modPart r.part (fun p => p.setQReg r.queue 5 (dw (seq % 2 ^ 32 * 2 ^ 32 + code * 2 ^ 16 + 2)))
  let s := s.modVq r VcpQueue.settled
  let s := { s with runs := s.runs.filter (fun x => !(x.ref.part == r.part && x.ref.queue == r.queue && x.ref.sub == 0)) }
  postEvent s r.part 1 r.queue code (seq % 2 ^ 32)
/-- The queue goes IDLE when nothing is left to read or to complete, and is ACTIVE otherwise, unless it is FAULTED or SAVED. -/
def queueIdle (s : State) (r : QueueRef) : State :=
  let p := s.part r.part
  if 2 ≤ p.qState r.queue then s
  else if p.rptr r.queue = p.cptr r.queue && (s.vq r).limit.toNat = p.rptr r.queue then setQState s r 0
  else setQState s r 1

/-! ### Kicks, restart, skip (R333, R336) -/

/-- The VCP reads the block of a queue that a NOTIFY names. -/
def readBlock (s : State) (r : QueueRef) : State :=
  let p := s.part r.part
  s.modVq r (fun v => { v with limit := wd (p.wptr r.queue), base := p.qBase r.queue, ctl := p.qReg r.queue 1, kicked := false })
/-- LOG2N and the distance are legal. -/
def pointersOk (s : State) (r : QueueRef) : Bool :=
  let v := s.vq r
  4 ≤ ringLog v && ringLog v ≤ 16 && (v.limit.toNat + 2 ^ 32 - (s.part r.part).rptr r.queue) % 2 ^ 32 ≤ ringSize v
/-- A kick of a queue of a running partition. -/
def kickNow (s : State) (r : QueueRef) : State :=
  let s := readBlock s r
  if (s.part r.part).qState r.queue = 2 then s
  else if pointersOk s r then queueIdle s r
  else queueFault s r 6 ((s.part r.part).rptr r.queue)
def execKick (q : QueueRef) (s : State) : Host.Outcome State Fault Refusal :=
  .next (
    let p := s.part q.part
    if p.qcount ≤ q.queue || !p.qEn q.queue || p.qState q.queue = 3 then s
    else if !vcpRuns s q.part then s.modVq q (fun v => { v with kicked := true })
    else kickNow s q)
/-- The queue reads on from RPTR. -/
def resumeQueue (s : State) (r : QueueRef) : State :=
  let s := readBlock (setQState s r 1) r
  if pointersOk s r then s else queueFault s r 6 ((s.part r.part).rptr r.queue)
def restartNow (s : State) (q : QueueRef) : State := if (s.part q.part).qState q.queue = 2 then resumeQueue s q else s
/-- A restart (1) or skip (2) of a partition that is stopped is recorded, as a kick is: DESIGN CHOICE, the spec names kicks only (log entry 104). -/
def recordOp (s : State) (q : QueueRef) (op : Nat) : State := s.modVq q (fun v => { v with ops := v.ops ++ [op] })
def execRestart (q : QueueRef) (s : State) : Host.Outcome State Fault Refusal :=
  .next (
    if (s.part q.part).qcount ≤ q.queue then s
    else if !vcpRuns s q.part then recordOp s q 1
    else restartNow s q)

/-! ### Adding and finding packets -/

/-- The launch context a VCP reads with a packet (R331). -/
def launchQuads (s : State) (part : Nat) : List DWord := (upTo 5).map (fun i => (s.part part).devReg (0x40 + 8 * i))
def addPacket (s : State) (ref : PacketRef) (ws ctx : List DWord) (st : PktState) (code : Nat) : State :=
  { s with packets := s.packets ++ [{ ref := ref, words := ws, state := st, code := BitVec.ofNat 8 code, since := s.clock, nodes := [],
                                      dropped := false, ctx := ctx }] }
/-- Numbers of what belongs to a packet: members and nodes from 1, emitted packets, and packets that a node's steep emits. -/
def emitBase : Nat := 0x10000
def nodeEmitBase : Nat := 0x100000
def emitSub (sub k : Nat) : Nat := if sub = 0 then emitBase + k else nodeEmitBase + 16 * sub + k
/-- The node a sub belongs to in its replay, and its place there: emitted packets come before the packet. -/
def isEmit (sub : Nat) : Bool := emitBase ≤ sub
def emitOwner (sub : Nat) : Nat := if nodeEmitBase ≤ sub then (sub - nodeEmitBase) / 16 else 0
def sameQueue (a b : PacketRef) : Bool := a.part == b.part && a.queue == b.queue
def samePacket (a b : PacketRef) : Bool := sameQueue a b && a.idx == b.idx
/-- The packet a sub belongs to directly: an emitted one to its owner, a bundle member to its BUNDLE, a node to its GRAPH. -/
def ownerOf (s : State) (r : PacketRef) : PacketRef :=
  if isEmit r.sub then { r with sub := emitOwner r.sub }
  else
    match s.packets.find? (fun b => samePacket b.ref r && !isEmit b.ref.sub && b.type == 2 && b.ref.sub < r.sub &&
        r.sub ≤ b.ref.sub + hdrLinks (pq b.words 0)) with
    | some b => b.ref
    | none => { r with sub := 0 }
/-- A member of a bundle, which its BUNDLE starts. -/
def isMember (s : State) (r : PacketRef) : Bool :=
  !isEmit r.sub && r.sub != 0 && (match s.packet? (ownerOf s r) with | some b => b.type == 2 | none => false)
/-- Emitted packets of a packet, and members or nodes of one. -/
def emitsOf (s : State) (r : PacketRef) : List Packet :=
  s.packets.filter (fun x => samePacket x.ref r && isEmit x.ref.sub && emitOwner x.ref.sub == r.sub)
def partsOf (s : State) (r : PacketRef) : List Packet :=
  s.packets.filter (fun x => samePacket x.ref r && !isEmit x.ref.sub && x.ref != r && ownerOf s x.ref == r)
/-- Members of a BUNDLE in order. -/
def membersOf (s : State) (k : Packet) : List Packet :=
  (upTo (hdrLinks (pq k.words 0))).filterMap (fun i => s.packet? { k.ref with sub := k.ref.sub + 1 + i })

/-! ### What may start (R334, R341, R345, R357) -/

/-- How far a packet index lies beyond CPTR. -/
def distance (s : State) (r : PacketRef) : Nat := (r.idx + 2 ^ 32 - (s.part r.part).cptr r.queue) % 2 ^ 32
/-- A node or something a node emitted: its node number, else 0. -/
def nodeOf (sub : Nat) : Nat := if isEmit sub then emitOwner sub else sub
/-- `a` comes before `b` where `b` is ordered: among the nodes of its replay, or in its queue with its emitted packets before it. -/
def before (s : State) (a b : PacketRef) : Bool :=
  if !sameQueue a b then false
  else if nodeOf b.sub != 0 then
    samePacket a b && nodeOf a.sub != 0 &&
      (nodeOf a.sub < nodeOf b.sub || (nodeOf a.sub == nodeOf b.sub && isEmit a.sub && (!isEmit b.sub || a.sub < b.sub)))
  else if samePacket a b then isEmit a.sub && nodeOf a.sub == 0 && (b.sub == 0 || a.sub < b.sub)
  else distance s a < distance s b
/-- Every packet before this one has completed. -/
def earlierDone (s : State) (r : PacketRef) : Bool := s.packets.all (fun x => !before s x.ref r || x.state == .complete)
/-- Packets it emitted, or that were emitted before it, have started. -/
def emitsStarted (s : State) (r : PacketRef) : Bool :=
  s.packets.all (fun x => !(samePacket x.ref r && isEmit x.ref.sub && nodeOf x.ref.sub == nodeOf r.sub && (!isEmit r.sub || x.ref.sub < r.sub)) ||
    x.state != .waiting)
/-- The scope S of a completion release (R341): raised to system where the host watches the queue, to fabric where another device does or has
registered a WAITMEM. HOSTW and REMW are those of the block as a NOTIFY last had it read (R330). -/
def releaseScope (s : State) (r : QueueRef) (h : Nat) : Nat :=
  let c := (s.vq r).ctl
  if c.getLsbD 10 then 11 else if c.getLsbD 11 || (s.part r.part).waiters != 0 then max 10 (hdrRscope h) else hdrRscope h
/-- A WAITMEM of another device, on a word homed here, registers itself with a VCP or has completed (R341; log entry 105). -/
def remoteWaiter (s : State) (part : Nat) (registers : Bool) : State :=
  s.modPart part (fun p => { p with waiters := if registers then p.waiters + 1 else p.waiters - 1 })
/-- SIGNAL and TIMESTAMP with WHEN = 1 wait for every earlier packet, as BB does. -/
def waitsEarlier (ws : List DWord) : Bool := hdrBB (pq ws 0) || pktType ws == 5 || (pktType ws == 8 && pq ws 2 == 1)
def startable (s : State) (k : Packet) : Bool :=
  vcpRuns s k.ref.part && (s.part k.ref.part).qState k.ref.queue != 3 && k.state == .waiting && !isMember s k.ref && emitsStarted s k.ref &&
  (!waitsEarlier k.words || earlierDone s k.ref)
/-- A packet of a type that may start. -/
def onStart (s : State) (r : PacketRef) (type : Nat) (f : Packet → State) : State :=
  match s.packet? r with
  | some k => if k.type = type && startable s k then f k else s
  | none => s

/-! ### Graph objects (R344, R345) -/

/-- What reading a graph object for a replay gives. -/
inductive Replay where
  | nesting
  | status (code : Nat)
  | nodes (l : List (List DWord)) (reent : Bool)
/-- Replaces the bytes of a mask. -/
def patchQuad (old new : DWord) (m : BitVec 8) : DWord :=
  (upTo 8).foldl (fun v i => if m.getLsbD i then dw (setBits v.toNat (8 * i) 8 (fld new (8 * i) 8)) else v) old
/-- A node as the patches of its object leave it. -/
def patchNode (ps : List GraphPatch) (obj : DWord) (node : Nat) (ws : List DWord) : List DWord :=
  (ps.filter (fun x => x.obj == obj && x.node == node)).foldl (fun ws x => ws.set x.quad (patchQuad (ws.getD x.quad 0) x.value x.bytes)) ws
/-- Format of a binding. -/
def bindingBad (count b : Nat) : Bool := count ≤ bits b 0 12 || bits b 12 3 == 0 || bits b 15 17 != 0 || bits b 32 32 % 8 != 0
/-- A node with its bound quadwords replaced; a binding beyond the parameters reads zero. -/
def bindNode (bs : List DWord) (params : List DWord) (node : Nat) (ws : List DWord) : List DWord :=
  (bs.filter (fun b => fld b 0 12 == node)).foldl (fun ws b => ws.set (fld b 12 3) (params.getD (fld b 32 32 / 8) 0)) ws
/-- Nodes in order are well formed: `skip` members of a bundle are still to come. -/
def nodesOk (s : State) (part queue : Nat) : Nat → List (List DWord) → Bool
  | skip, [] => skip == 0
  | 0, ws :: l =>
    hdrHook (pq ws 0) == 0 && pktType ws != 11 && pktType ws != 12 && pktCheck s part queue ws == 0 &&
    nodesOk s part queue (if pktType ws = 2 then hdrLinks (pq ws 0) else 0) l
  | n + 1, ws :: l => memberOk s part queue ws && nodesOk s part queue n l
/-- `n` packets from an address. -/
def readNodes (s : State) (part : Nat) (addr : DWord) : Nat → State × Option (List (List DWord))
  | 0 => (s, some [])
  | n + 1 =>
    match vcpQuads s part addr 8 with
    | (s, none) => (s, none)
    | (s, some ws) =>
      match readNodes s part (addr + 64) n with
      | (s, some l) => (s, some (ws :: l))
      | (s, none) => (s, none)
/-- Reads a graph object with its parameters. -/
def readGraph (s : State) (part queue : Nat) (ws : List DWord) : State × Replay :=
  let obj := ws.getD 1 0
  match vcpQuads s part obj 8 with
  | (s, none) => (s, .status 1)
  | (s, some h) =>
    let n := pq h 0
    let b := pq h 4
    if n = 0 || 4096 < n || 1 < pq h 1 || 4096 < b || !restZero h 5 then (s, .status 2)
    else
      let q1 := readNodes s part (h.getD 2 0) n
      let q2 := vcpQuads q1.1 part (h.getD 3 0) b
      let q3 := vcpQuads q2.1 part (ws.getD 2 0) (pq ws 3 / 8)
      let s := q3.1
      match q1.2, q2.2, q3.2 with
      | some nodes, some bs, some params =>
        let ps := (s.part part).patches
        let l := nodes.zipIdx.map (fun q => bindNode bs params q.2 (patchNode ps obj q.2 q.1))
        if l.any (fun w => pktType w == 6 || pktType w == 7) then (s, .nesting)
        else if bs.any (fun x => bindingBad n x.toNat) || !nodesOk s part queue 0 l then (s, .status 2)
        else (s, .nodes l (bit (pq h 1) 0))
      | _, _, _ => (s, .status 1)

/-! ### Acceptance (R335, R342, R357) -/

/-- What reading the members of a bundle gives: their packets, a queue fault at a packet, or a header that is not there yet. -/
inductive Members where
  | ok (l : List (List DWord))
  | fault (code seq : Nat)
  | early (seq : Nat)
def readMembers (s : State) (r : QueueRef) (i : Nat) : Nat → State × Members
  | 0 => (s, .ok [])
  | n + 1 =>
    let v := s.vq r
    match vcpLoad s r.part (ringAddr v i) 8 with
    | (s, none) => (s, .fault 5 i)
    | (s, some h) =>
      if hdrPhase h != lapPhase v i then (s, .early i)
      else if hdrSeq h != i % 2 ^ 32 then (s, .fault 3 i)
      else
        match vcpQuads s r.part (ringAddr v i + 8) 7 with
        | (s, none) => (s, .fault 5 i)
        | (s, some b) =>
          if !memberOk s r.part r.queue (dw h :: b) then (s, .fault 2 i)
          else
            match readMembers s r (i + 1) n with
            | (s, .ok l) => (s, .ok ((dw h :: b) :: l))
            | (s, e) => (s, e)
/-- The packets that follow the packet at RPTR as far as WPTR was read. -/
def packetsAhead (s : State) (r : QueueRef) : Nat := ((s.vq r).limit.toNat + 2 ^ 32 - (s.part r.part).rptr r.queue) % 2 ^ 32
/-- A header had the wrong PHASE: it is read again. -/
def noteEarly (s : State) (r : QueueRef) : State :=
  s.modVq r (fun v => { v with firstRead := some (v.firstRead.getD s.clock), running := false })
/-- So had the header of a member: the 100 µs count from the first read of that one. -/
def noteMember (s : State) (r : QueueRef) (i : Nat) : State :=
  s.modVq r (fun v =>
    let t := match v.firstMember with | some (j, t) => if j = i then t else s.clock | none => s.clock
    { v with firstMember := some (i, t), firstRead := some t, running := false })
/-- Types whose row follows acceptance at once: GRAPH, PATCH, TIMESTAMP. -/
def actsAtOnce (ws : List DWord) : Bool := pktType ws == 6 || pktType ws == 7 || (pktType ws == 8 && pq ws 2 == 0)
/-- RPTR passes packet `i` and `past` members, as a release at system scope (R335, R342); its wraps are counted (R352). -/
def advance (s : State) (r : QueueRef) (i past : Nat) : State :=
  (setQ s r 3 ((i + 1 + past) % 2 ^ 32) (some (releaseLines s (vcpCore r.part)))).modVq r (fun v =>
    { v with laps := v.laps + (i + 1 + past) / 2 ^ 32 })
/-- The index of a packet over the queue's life (R332). -/
def lifeIndex (s : State) (r : QueueRef) (i : Nat) : Nat :=
  let n := (s.vq r).laps
  2 ^ 32 * (if i ≤ (s.part r.part).rptr r.queue then n else n - 1) + i
/-- The packet, its emitted packets and its members are accepted, and RPTR passes them as a release. -/
def commitPacket (s : State) (r : QueueRef) (i : Nat) (k : ReadPacket) (emits members : List ReadPacket) (past : Nat) (dropped : Bool) : State :=
  let ref : PacketRef := ⟨r.part, r.queue, i, 0⟩
  let s := emits.zipIdx.foldl (fun s q => addPacket s { ref with sub := emitSub 0 q.2 } q.1.words q.1.ctx .waiting 0) s
  let s := addPacket s ref k.words k.ctx (if dropped then .complete else .waiting) 0
  let s := s.modPacket ref (fun k => { k with dropped := dropped })
  let s := members.zipIdx.foldl (fun s q => addPacket s { ref with sub := 1 + q.2 } q.1.words q.1.ctx .waiting 0) s
  let s := queueIdle ((advance s r i past).modVq r VcpQueue.settled) r
  if !dropped && actsAtOnce k.words then s.post (.packet ref) else s
/-- A BUNDLE is accepted with its members, as far as WPTR tells of them (R342). Until they are there it is kept as its steeps have left it. -/
def acceptBundle (s : State) (r : QueueRef) (i : Nat) (b : HeldBundle) : State :=
  let n := hdrLinks (pq b.pkt.words 0)
  if packetsAhead s r < n + 1 then
    s.modVq r (fun v => { v with limit := wd i, held := some b, running := false, firstRead := none, firstMember := none })
  else if b.dropped then commitPacket s r i b.pkt b.emits [] n true
  else
    match readMembers s r (i + 1) n with
    | (s, .ok l) => commitPacket s r i b.pkt b.emits (l.map (fun ws => ⟨ws, launchQuads s r.part⟩)) n false
    | (s, .fault c q) => queueFault s r c q
    | (s, .early q) => noteMember (s.modVq r (fun v => { v with held := some b })) r q
/-- The check of a packet as its steeps have left it: of a type given to queue programs, only the header's (R351 step 3). -/
def acceptCheck (s : State) (r : QueueRef) (ws : List DWord) (dropped : Bool) : Nat :=
  if dropped || customType (pktType ws) then (if hdrBad ws then 2 else 0) else pktCheck s r.part r.queue ws
/-- Accepts a packet as its steeps left it, or faults the queue. -/
def acceptPacket (s : State) (r : QueueRef) (i : Nat) (k : ReadPacket) (emits : List ReadPacket) (dropped : Bool) : State :=
  let c := acceptCheck s r k.words dropped
  if c != 0 then queueFault s r c i
  else if pktType k.words = 2 then acceptBundle s r i ⟨k, emits, dropped⟩
  else if pktType k.words = 6 && !dropped then
    (match readGraph s r.part r.queue k.words with
     | (s, .nesting) => queueFault s r 8 i
     | (s, _) => commitPacket s r i k emits [] 0 false)
  else commitPacket s r i k emits [] 0 dropped

/-! ### Steep runs begin (R351, R352) -/

/-- A run at its start. -/
def startRun (s : State) (ref : PacketRef) (st : Steep) (second : Bool) (k : ReadPacket) (count : Nat) (emits : List ReadPacket) : State :=
  let f := s.fresh
  { f.2 with runs := f.2.runs ++
      [{ id := f.1, ref := ref, steep := st, second := second,
         q := [0, dw ref.queue, dw (lifeIndex s ⟨ref.part, ref.queue⟩ ref.idx), s.clock] ++ List.replicate 12 0, pc := 0, count := count,
         loops := [], pkt := k.words, emits := emits, waitv := none, ctx := k.ctx }] }
/-- After HOOK's program: the program of a custom type, or acceptance. -/
def afterHook (s : State) (r : QueueRef) (i : Nat) (k : ReadPacket) (count : Nat) (emits : List ReadPacket) : State :=
  if !customType (pktType k.words) then acceptPacket s r i k emits false
  else
    match (boundSlot s r.part (pktType k.words)).bind (steepIn s r.part) with
    | none => queueFault s r 1 i
    | some st => (startRun s ⟨r.part, r.queue, i, 0⟩ st true k count emits).modVq r (fun v => { v with running := true })
/-- A packet whose header and body are read: its steeps, then acceptance. -/
def takePacket (s : State) (r : QueueRef) (i : Nat) (ws : List DWord) : State :=
  let k : ReadPacket := ⟨ws, launchQuads s r.part⟩
  let s := s.modVq r VcpQueue.settled
  if hdrHook (pq ws 0) = 0 then afterHook s r i k 0 []
  else
    match steepIn s r.part (hdrHook (pq ws 0)) with
    | none => queueFault s r 7 i
    | some st => (startRun s ⟨r.part, r.queue, i, 0⟩ st false k 0 []).modVq r (fun v => { v with running := true })

/-! ### Reading (R335) -/

/-- The queue has a packet to read: EN, no fault, not saved, nothing held by a steep. -/
def mayRead (s : State) (r : QueueRef) : Bool :=
  let p := s.part r.part
  let v := s.vq r
  vcpRuns s r.part && r.queue < p.qcount && v.ctl.getLsbD 6 && p.qState r.queue < 2 && !v.running && v.limit.toNat != p.rptr r.queue
/-- Reads the header of the packet at RPTR, and goes on by what it finds; of a bundle kept, the members. -/
def tryRead (s : State) (r : QueueRef) : State :=
  let i := (s.part r.part).rptr r.queue
  let v := s.vq r
  match v.held with
  | some b => acceptBundle s r i b
  | none =>
  match vcpLoad s r.part (ringAddr v i) 8 with
  | (s, none) => queueFault s r 5 i
  | (s, some h) =>
    if hdrPhase h != lapPhase v i then noteEarly s r
    else if hdrSeq h != i % 2 ^ 32 then queueFault s r 3 i
    else
      match vcpQuads s r.part (ringAddr v i + 8) 7 with
      | (s, none) => queueFault s r 5 i
      | (s, some b) => takePacket s r i (dw h :: b)
def execVcpPacketRead (q : QueueRef) (s : State) : Host.Outcome State Fault Refusal :=
  .next (if mayRead s q && (s.vq q).firstRead.isNone then tryRead s q else s)
def execPhaseReread (q : QueueRef) (s : State) : Host.Outcome State Fault Refusal :=
  .next (if mayRead s q && (s.vq q).firstRead.isSome then tryRead s q else s)
/-- 100 µs after the first read with the wrong PHASE, a last read of that header decides; one that comes after it has its own 100 µs. -/
def staleDue (s : State) (q : QueueRef) : Bool :=
  match (s.vq q).firstRead with
  | some t => t.toNat + 100 * usCycles ≤ s.clock.toNat
  | none => false
def execStalePacket (q : QueueRef) (s : State) : Host.Outcome State Fault Refusal :=
  .next (
    if mayRead s q && staleDue s q then
      let t := tryRead s q
      if (t.vq q).firstRead.isSome && (t.vq q).firstRead == (s.vq q).firstRead then queueFault t q 4 ((t.part q.part).rptr q.queue) else t
    else s)
/-- What SKIP finds at RPTR: the header when it is the packet's own, and how many members it takes along. -/
def skipHeader (s : State) (r : QueueRef) (i : Nat) : State × DWord × Nat :=
  let v := s.vq r
  match vcpLoad s r.part (ringAddr v i) 8 with
  | (s, some h) =>
    if hdrPhase h == lapPhase v i && hdrSeq h == i % 2 ^ 32 && (hdrType h != 2 || (1 ≤ hdrLinks h && hdrLinks h ≤ 16)) then
      (s, dw h, if hdrType h = 2 then hdrLinks h else 0)
    else (s, 0, 0)
  | (s, none) => (s, 0, 0)
def skipNow (s : State) (q : QueueRef) : State :=
  if (s.part q.part).qState q.queue != 2 then s
  else
    let i := (s.part q.part).rptr q.queue
    let h := skipHeader s q i
    let s := addPacket h.1 ⟨q.part, q.queue, i, 0⟩ (h.2.1 :: List.replicate 7 0) (launchQuads s q.part) .complete 11
    resumeQueue (advance s q i h.2.2) q
def execSkip (q : QueueRef) (s : State) : Host.Outcome State Fault Refusal :=
  .next (
    if (s.part q.part).qcount ≤ q.queue then s
    else if !vcpRuns s q.part then recordOp s q 2
    else skipNow s q)

/-! ### Completion (R340, R341) -/

/-- LASTERR: ESEQ, ERRCNT, ECODE. -/
def noteError (s : State) (r : QueueRef) (seq code : Nat) : State :=
  if code = 0 then s
  else
    let old := (s.part r.part).qReg r.queue 6
    s.modPart r.part (fun p => p.setQReg r.queue 6 (dw (seq % 2 ^ 32 * 2 ^ 32 + (fld old 16 16 + 1) % 2 ^ 16 * 2 ^ 16 + code)))
/-- The SEQ under which an error of this packet is recorded: a member's own, otherwise its packet's. -/
def errorSeq (s : State) (r : PacketRef) : Nat := if isMember s r && (ownerOf s r).sub = 0 then r.idx + r.sub else r.idx
/-- Remote writes of groups that have retired are not all acknowledged: a release waits (R341). -/
def writesOut (s : State) : Bool := s.remotes.any (fun o => o.packet.isNone && o.run.isNone && o.engine.isNone && !o.finished && (s.group? o.group).isNone)
/-- A BUNDLE or GRAPH whose last part has completed is complete. -/
def ownerCheck (s : State) (o : PacketRef) : State :=
  match s.packet? o with
  | some k => if (k.type = 2 || k.type = 6) && k.state == .started && (partsOf s o).isEmpty then completePacket s o k.code.toNat else s
  | none => s
/-- A part of a packet completes: its error is recorded, and its owner may be complete. -/
def completePart (s : State) (k : Packet) : State :=
  if !(emitsOf s k.ref).isEmpty then s
  else
    let s1 := noteError s ⟨k.ref.part, k.ref.queue⟩ (errorSeq s k.ref) k.code.toNat
    ownerCheck { s1 with packets := s1.packets.filter (fun x => x.ref != k.ref) } (ownerOf s k.ref)
/-- A packet and all that belongs to it have completed: an error is noted, once (R332, R340, R357). -/
def noteComplete (s : State) (k : Packet) : State :=
  if k.noted then s
  else (noteError s ⟨k.ref.part, k.ref.queue⟩ k.ref.idx k.code.toNat).modPacket k.ref (fun x => { x with noted := true })
/-- The packet at CPTR completes: CPTR passes it, and the members of a BUNDLE, as a release when ROC is set. -/
def passHead (s : State) (k : Packet) : State :=
  let r : QueueRef := ⟨k.ref.part, k.ref.queue⟩
  let h := pq k.words 0
  if (s.part r.part).cptr r.queue != k.ref.idx || (hdrRoc h && writesOut s) then s
  else
    let past := if k.type = 2 then hdrLinks h else 0
    let s := setQ s r 4 ((k.ref.idx + 1 + past) % 2 ^ 32) (if hdrRoc h then some (completionSig s r.part) else none)
    queueIdle { s with packets := s.packets.filter (fun x => x.ref != k.ref) } r
def completeHead (s : State) (k : Packet) : State :=
  if s.packets.any (fun x => samePacket x.ref k.ref && x.ref != k.ref) then s else passHead (noteComplete s k) k
def execPacketCompletion (p : PacketRef) (s : State) : Host.Outcome State Fault Refusal :=
  .next (match s.packet? p with
    | some k =>
      if !vcpRuns s p.part || k.state != .complete || (s.part p.part).qState p.queue = 3 then s
      else if p.sub = 0 then completeHead s k else completePart s k
    | none => s)

end Sys2Proof.Machine
end

