-- ==== Sys2Proof/Machine/Steeps.lean ====
section
/-! DEFINITION. Queue programs as they run (R350 to R358): windows, the instructions of R355, the end of a run and its faults. -/

namespace Sys2Proof.Machine

/-! ### The run (R352) -/

/-- Q[n]: Q0 reads zero and discards writes. -/
def SteepRun.reg (x : SteepRun) (n : BitVec 4) : DWord := if n.toNat = 0 then 0 else x.q.getD n.toNat 0
def SteepRun.setReg (x : SteepRun) (n : BitVec 4) (v : DWord) : SteepRun := if n.toNat = 0 then x else { x with q := setAt 0 x.q n.toNat v }
/-- Q[a] + sext(imm16), modulo 2^64. -/
def SteepRun.opB (x : SteepRun) (f : SteepF) : DWord := x.reg f.a + f.imm.signExtend 64
def SteepRun.queueRef (x : SteepRun) : QueueRef := ⟨x.ref.part, x.ref.queue⟩
/-- The end of a loop body has been reached when control comes to the word after it. -/
def steepLoopEnd : List SteepLoopEntry → Nat → List SteepLoopEntry × Nat
  | [], pc => ([], pc)
  | e :: es, pc =>
    if pc = e.stop then (if 1 < e.left then ({ e with left := e.left - 1 } :: es, e.start) else steepLoopEnd es pc) else (e :: es, pc)
/-- The run goes on at a word, the instruction counted. -/
def SteepRun.go (x : SteepRun) (pc : Nat) : SteepRun :=
  let q := steepLoopEnd x.loops pc
  { x with pc := q.2, loops := q.1, count := x.count + 1, waitv := none, got := none, away := false }
def SteepRun.next (x : SteepRun) : SteepRun := x.go (x.pc + 1)
def State.setRun (s : State) (x : SteepRun) : State := s.modRun x.id (fun _ => x)
def dropRun (s : State) (x : SteepRun) : State := { s with runs := s.runs.filter (fun y => y.id != x.id) }
/-- The run goes on with its next word. -/
def steepNext (s : State) (x : SteepRun) : State := s.setRun x.next

/-! ### Faults (R356) -/

/-- HOOKFAULT: the queue faults, and the edits and the emit list are gone. A node of a replay completes FAULT. -/
def hookFault (s : State) (x : SteepRun) : State :=
  let s := queueFault (dropRun s x) x.queueRef 7 x.ref.idx
  if x.ref.sub = 0 then s else completePacket s x.ref 1

/-! ### Windows (R350, R354, R355) -/

def windowOf (x : SteepRun) (f : SteepF) : Option SteepWindow := (x.steep.windows.getD (f.imm.toNat / 2 ^ 14) none)
/-- The displacement in the window: Q[a] + off. -/
def windowAt (x : SteepRun) (f : SteepF) : Nat := (x.reg f.a + dw (8 * (f.imm.toNat % 2 ^ 14))).toNat
/-- The window and the address of an access of `n` bytes, when it lies inside and is aligned to `align`. -/
def windowPlace (x : SteepRun) (f : SteepF) (n align : Nat) (write : Bool) : Option (SteepWindow × DWord) :=
  match windowOf x f with
  | none => none
  | some w =>
    let d := windowAt x f
    if d % align != 0 || w.size < d + n || (write && !w.wr) then none else some (w, w.base + dw d)
def SteepRun.who (x : SteepRun) : VcpWho := { part := x.ref.part, run := some x.id }
/-- A request has gone out for the word: the run waits for its answer. -/
def steepAway (s : State) (x : SteepRun) : State := s.setRun { x with away := true }
/-- A load of 8 bytes: what a remote access has brought, or an acquire. -/
def steepRead (s : State) (x : SteepRun) (f : SteepF) : VcpEnd :=
  match windowPlace x f 8 8 false with
  | none => .fault s
  | some (w, a) =>
    match x.got with
    | some bs => .done s (leNat bs)
    | none => vcpRead s x.who a 8 w.scope.toNat
/-- A store (0) or an add (1) of 8 bytes as a release. -/
def steepWrite (s : State) (x : SteepRun) (f : SteepF) (op : Nat) (v : DWord) : VcpEnd :=
  match windowPlace x f 8 8 true with
  | none => .fault s
  | some (w, a) =>
    match x.got with
    | some _ => .done s 0
    | none => vcpWrite s x.who op a v.toNat (some (releaseLines s (vcpCore x.ref.part))) w.scope.toNat
/-- The bytes of an EMIT from byte `bs.length` on: those here quadword by quadword, those of another device in one request up to the end of
their page; the run keeps what it has got. -/
def emitRead (s : State) (x : SteepRun) (w : SteepWindow) (a : DWord) : Nat → List Byte → VcpEnd × SteepRun
  | 0, bs => (.done s (leNat bs), x)
  | n + 1, bs =>
    if 64 ≤ bs.length then (.done s (leNat bs), x)
    else
      let b := a + dw bs.length
      match globalCheck s (launchCtx s x.ref.part (vcpCore x.ref.part)) needR b 8 with
      | (s, .ok (.remote pa e)) =>
        (vcpRequest s x.who b pa e (.read (min (64 - bs.length) (65536 - b.toNat % 65536))) 2 w.scope.toNat, { x with got := some bs })
      | (s, _) =>
        match vcpRead s x.who b 8 w.scope.toNat with
        | .done s v => emitRead s x w a n (bs ++ leBytes 8 v)
        | e => (e, x)
/-- The 64 bytes of an EMIT. -/
def steepRead64 (s : State) (x : SteepRun) (f : SteepF) : VcpEnd × SteepRun :=
  match windowPlace x f 64 64 false with
  | none => (.fault s, x)
  | some (w, a) => emitRead s x w a 8 (x.got.getD [])
/-- Ends a window access: the run faults, waits, or goes on. -/
def onWindow (x : SteepRun) (e : VcpEnd) (k : State → Nat → State) : State :=
  match e with
  | .fault s => hookFault s x
  | .away s => steepAway s x
  | .done s v => k s v

/-! ### The end of a run (R351, R357) -/

/-- A node of a replay whose run has ended: its emitted packets come before it, then it starts as it was edited. -/
def endNodeRun (s : State) (x : SteepRun) (dropped : Bool) : State :=
  let s := x.emits.zipIdx.foldl (fun s q => addPacket s { x.ref with sub := emitSub x.ref.sub q.2 } q.1.words q.1.ctx .waiting 0) (dropRun s x)
  if dropped || customType (pktType x.pkt) then completePacket s x.ref 0
  else if [2, 6, 7, 11, 12].contains (pktType x.pkt) || pktCheck s x.ref.part x.ref.queue x.pkt != 0 then completePacket s x.ref 2
  else s.modPacket x.ref (fun k => { k with words := x.pkt, state := .waiting })
/-- END (`dropped` false) and DROP. -/
def endRun (s : State) (x : SteepRun) (dropped : Bool) : State :=
  if !x.emits.all (fun e => emitOk s x.ref.part x.ref.queue e.words) then hookFault s x
  else if x.ref.sub != 0 then endNodeRun s x dropped
  else if !x.second && !dropped then afterHook (dropRun s x) x.queueRef x.ref.idx ⟨x.pkt, x.ctx⟩ (x.count + 1) x.emits
  else acceptPacket (dropRun s x) x.queueRef x.ref.idx ⟨x.pkt, x.ctx⟩ x.emits dropped

/-! ### Issue (R351, R356, R358) -/

/-- The run the state names. -/
def State.currentRun? (s : State) : Option SteepRun :=
  match s.actor with
  | .steep id => s.run? id
  | _ => none
/-- Runs a steep word: a word beyond the budget is not executed, nor is an illegal one. -/
def asSteep (i : Instr) (body : State → SteepRun → State) (s : State) : Host.Outcome State Fault Refusal :=
  match s.currentRun? with
  | none => .fault .noAgent
  | some x => .next (if !i.wellFormed || x.steep.budget ≤ x.count then hookFault s x else body s x)
/-- One step of a run up to its word. It goes on while its partition is pre-empted. -/
def issueSteep (s : State) (id : Nat) : State × Option Instr :=
  match s.run? id with
  | none => (s, none)
  | some x =>
    if s.boot != .running || x.waitv.isSome || x.away then (s, none)
    else
      match x.steep.code[x.pc]? with
      | none => (hookFault s x, none)
      | some w =>
        match decodeSteep w with
        | .ok i => ({ s with actor := .steep id }, some i)
        | .error _ => (hookFault s x, none)

/-! ### The instructions (R355) -/

/-- Q[d] becomes a function of itself and b. -/
def steepAlu (i : Instr) (f : SteepF) (op : DWord → DWord → DWord) (s : State) : Host.Outcome State Fault Refusal :=
  asSteep i (fun s x => steepNext s (x.setReg f.d (op (x.reg f.d) (x.opB f)))) s
def execSteepLdi (f : SteepF) (s : State) : Host.Outcome State Fault Refusal :=
  asSteep (.steepLdi f) (fun s x =>
    steepNext s (x.setReg f.d (if f.a.toNat = 0 then f.imm.signExtend 64
      else dw (setBits (x.reg f.d).toNat (16 * f.a.toNat) 16 f.imm.toNat)))) s
def execSteepMov (f : SteepF) (s : State) : Host.Outcome State Fault Refusal := steepAlu (.steepMov f) f (fun _ b => b) s
def execSteepAdd (f : SteepF) (s : State) : Host.Outcome State Fault Refusal := steepAlu (.steepAdd f) f (fun q b => q + b) s
def execSteepSub (f : SteepF) (s : State) : Host.Outcome State Fault Refusal := steepAlu (.steepSub f) f (fun q b => q - b) s
def execSteepAnd (f : SteepF) (s : State) : Host.Outcome State Fault Refusal := steepAlu (.steepAnd f) f (fun q b => q &&& b) s
def execSteepOr (f : SteepF) (s : State) : Host.Outcome State Fault Refusal := steepAlu (.steepOr f) f (fun q b => q ||| b) s
/-- Shifts of 64 or more give 0. -/
def execSteepShl (f : SteepF) (s : State) : Host.Outcome State Fault Refusal :=
  steepAlu (.steepShl f) f (fun q b => if 64 ≤ b.toNat then 0 else q <<< b.toNat) s
def execSteepShr (f : SteepF) (s : State) : Host.Outcome State Fault Refusal :=
  steepAlu (.steepShr f) f (fun q b => if 64 ≤ b.toNat then 0 else q >>> b.toNat) s
def execSteepLdpf (f : SteepF) (s : State) : Host.Outcome State Fault Refusal :=
  asSteep (.steepLdpf f) (fun s x => steepNext s (x.setReg f.d (x.pkt.getD f.imm.toNat 0))) s
/-- The header keeps SEQ, HOOK, LINKS and PHASE. -/
def headerKeep : DWord := 0xFFFFFFFFFFFF0100#64
def execSteepStpf (f : SteepF) (s : State) : Host.Outcome State Fault Refusal :=
  asSteep (.steepStpf f) (fun s x =>
    let v := x.reg f.d
    let old := x.pkt.getD f.imm.toNat 0
    steepNext s { x with pkt := setAt 0 x.pkt f.imm.toNat (if f.imm.toNat = 0 then maskedWrite v old headerKeep else v) }) s
def execSteepLdw (f : SteepF) (s : State) : Host.Outcome State Fault Refusal :=
  asSteep (.steepLdw f) (fun s x => onWindow x (steepRead s x f) (fun s v => steepNext s (x.setReg f.d (dw v)))) s
def execSteepStw (f : SteepF) (s : State) : Host.Outcome State Fault Refusal :=
  asSteep (.steepStw f) (fun s x => onWindow x (steepWrite s x f 0 (x.reg f.d)) (fun s _ => steepNext s x)) s
def execSteepSignal (f : SteepF) (s : State) : Host.Outcome State Fault Refusal :=
  asSteep (.steepSignal f) (fun s x => onWindow x (steepWrite s x f 1 (x.reg f.d)) (fun s _ => steepNext s x)) s
/-- The word a branch goes to. -/
def steepTarget (x : SteepRun) (f : SteepF) : Nat := x.pc + 1 + f.imm.toNat
def execSteepBz (f : SteepF) (s : State) : Host.Outcome State Fault Refusal :=
  asSteep (.steepBz f) (fun s x => s.setRun (if x.reg f.a == 0 then x.go (steepTarget x f) else x.next)) s
def execSteepBnz (f : SteepF) (s : State) : Host.Outcome State Fault Refusal :=
  asSteep (.steepBnz f) (fun s x => s.setRun (if x.reg f.a == 0 then x.next else x.go (steepTarget x f))) s
def execSteepLoop (f : SteepF) (s : State) : Host.Outcome State Fault Refusal :=
  asSteep (.steepLoop f) (fun s x =>
    s.setRun { x with pc := x.pc + 1, count := x.count + 1,
                      loops := { start := x.pc + 1, stop := x.pc + 1 + f.imm.toNat / 256, left := f.imm.toNat % 256 } :: x.loops }) s
/-- The quadwords of 64 bytes. -/
def quadsOf (v : Nat) : List DWord := (upTo 8).map (fun i => dw (v / 2 ^ (64 * i)))
/-- A ninth EMIT in one packet faults. -/
def execSteepEmit (f : SteepF) (s : State) : Host.Outcome State Fault Refusal :=
  asSteep (.steepEmit f) (fun s x =>
    if 8 ≤ x.emits.length then hookFault s x
    else
      let q := steepRead64 s x f
      onWindow q.2 q.1 (fun s v => steepNext s { x with emits := x.emits ++ [⟨quadsOf v, launchQuads s x.ref.part⟩] })) s
/-- Looks at the word of a WAITV: the run goes on when it is Q[d], else it stays parked. -/
def waitvLook (s : State) (x : SteepRun) (f : SteepF) : State :=
  let since := some (x.waitv.getD s.clock)
  match steepRead s x f with
  | .fault s => hookFault s x
  | .away s => s.setRun { x with away := true, waitv := since }
  | .done s v => if dw v == x.reg f.d then steepNext s x else s.setRun { x with waitv := since, got := none, away := false }
def execSteepWaitv (f : SteepF) (s : State) : Host.Outcome State Fault Refusal := asSteep (.steepWaitv f) (fun s x => waitvLook s x f) s
def execSteepDrop (f : SteepF) (s : State) : Host.Outcome State Fault Refusal := asSteep (.steepDrop f) (fun s x => endRun s x true) s
def execSteepFaultq (f : SteepF) (s : State) : Host.Outcome State Fault Refusal := asSteep (.steepFaultq f) (fun s x => hookFault s x) s
def execSteepEnd (f : SteepF) (s : State) : Host.Outcome State Fault Refusal := asSteep (.steepEnd f) (fun s x => endRun s x false) s

/-! ### A parked WAITV (R355, R358) -/

/-- A run parked in a WAITV of a running partition, with that instruction's fields. -/
def onWaitv (s : State) (run : Nat) (k : SteepRun → SteepF → State) : State :=
  match s.run? run with
  | some x =>
    if x.waitv.isSome && vcpRuns s x.ref.part then k x (steepOf (x.steep.code.getD x.pc 0)) else s
  | none => s
def execSteepWaitvReread (run : Nat) (s : State) : Host.Outcome State Fault Refusal :=
  .next (onWaitv s run (fun x f => if x.away then s else waitvLook s x f))
/-- 10 ms in WAITV. -/
def waitvDue (s : State) (x : SteepRun) : Bool :=
  match x.waitv with
  | some t => t.toNat + 10000 * usCycles ≤ s.clock.toNat
  | none => false
def execSteepWaitvTimeout (run : Nat) (s : State) : Host.Outcome State Fault Refusal :=
  .next (onWaitv s run (fun x _ =>
    if waitvDue s x then hookFault { s with remotes := s.remotes.filter (fun o => o.run != some x.id) } x else s))

/-! ### Loading (R348, R349, R350, R353) -/

/-- The program's words as the verifier numbers them. -/
def wordOp (w : Word) : Nat := (w.extractLsb' 0 8).toNat
/-- Rule 2: an assigned opcode with its reserved fields zero. -/
def rule2 (w : Word) : Bool :=
  let f := steepOf w
  let o := wordOp w
  1 ≤ o && o ≤ 0x15 &&
  (if o = 9 || o = 10 then f.a == 0 else if o = 13 || o = 14 || o = 16 then f.d == 0 else if o = 15 then f.d == 0 && f.a == 0
   else if 0x13 ≤ o then f.d == 0 && f.a == 0 && f.imm == 0 else true)
def isBranch (w : Word) : Bool := wordOp w == 13 || wordOp w == 14
def branchTo (i : Nat) (w : Word) : Nat := i + 1 + (steepOf w).imm.toNat
/-- Rule 3: branch targets lie in the program; they always lie after the branch. -/
def rule3 (code : List Word) (i : Nat) (w : Word) : Bool := !isBranch w || branchTo i w < code.length
def isLoop (w : Word) : Bool := wordOp w == 15
/-- The body of a LOOP at word `i`: its first word and the word after it. -/
def bodyOf (i : Nat) (w : Word) : Nat × Nat := (i + 1, i + 1 + (steepOf w).imm.toNat / 256)
/-- The bodies of a program by their LOOP word. -/
def bodies (code : List Word) : List (Nat × Nat × Nat) :=
  code.zipIdx.filterMap (fun q => if isLoop q.1 then some (q.2, (bodyOf q.2 q.1).1, (bodyOf q.2 q.1).2) else none)
/-- Bodies that hold word `i`. -/
def around (code : List Word) (i : Nat) : List (Nat × Nat × Nat) := (bodies code).filter (fun b => b.2.1 ≤ i && i < b.2.2)
/-- Rule 4 at one word. -/
def rule4 (code : List Word) (i : Nat) (w : Word) : Bool :=
  let n := (steepOf w).imm.toNat % 256
  let b := bodyOf i w
  (!isLoop w || (1 ≤ n && n ≤ 64 && b.1 < b.2 && b.2 ≤ code.length && (around code i).length ≤ 1 && (around code i).all (fun o => b.2 ≤ o.2.2))) &&
  (!isBranch w || (around code i).all (fun o => o.2.1 ≤ branchTo i w && branchTo i w ≤ o.2.2))
def windowOp (w : Word) : Bool := [11, 12, 16, 17, 18].contains (wordOp w)
/-- Rule 5: windows that exist, and may be written by STW and SIGNAL. -/
def rule5 (ws : List (Option SteepWindow)) (w : Word) : Bool :=
  !windowOp w || (match ws.getD ((steepOf w).imm.toNat / 2 ^ 14) none with
    | some x => x.wr || !(wordOp w == 12 || wordOp w == 18)
    | none => false)
/-- The words that can be reached, for rule 6: control only goes forward, but for loops, which end where they fall out. -/
def reachFrom : Nat → List Nat → List Word → List Nat
  | _, r, [] => r
  | i, r, w :: l =>
    if !r.contains i then reachFrom (i + 1) r l
    else if [0x13, 0x14, 0x15].contains (wordOp w) then reachFrom (i + 1) r l
    else reachFrom (i + 1) ((i + 1) :: (if isBranch w then [branchTo i w] else []) ++ r) l
def rule6 (code : List Word) : Bool := !(reachFrom 0 [0] code).contains code.length
/-- Rule 7. -/
def rule7 (w : Word) : Bool :=
  let f := steepOf w
  (wordOp w != 1 || f.a.toNat ≤ 3) && (!(wordOp w == 9 || wordOp w == 10) || f.imm.toNat ≤ 7)
/-- The first word that breaks a rule. -/
def firstBad (code : List Word) (ok : Nat → Word → Bool) : Option Nat := (code.zipIdx.find? (fun q => !ok q.2 q.1)).map (·.2)
/-- The rule that fails and the word, the lowest rule first; `none` when the program passes. -/
def verifySteep (code : List Word) (ws : List (Option SteepWindow)) : Option (Nat × Nat) :=
  if code.isEmpty || 1024 < code.length then some (1, 0)
  else
    match firstBad code (fun _ w => rule2 w), firstBad code (rule3 code), firstBad code (rule4 code), firstBad code (fun _ w => rule5 ws w) with
    | some i, _, _, _ => some (2, i)
    | none, some i, _, _ => some (3, i)
    | none, none, some i, _ => some (4, i)
    | none, none, none, some i => some (5, i)
    | none, none, none, none =>
      if !rule6 code then some (6, code.length - 1)
      else (firstBad code (fun _ w => rule7 w)).map (fun i => (7, i))

/-- A window entry: `none` when it breaks R350. -/
def windowEntry (base ctl : Nat) : Option (Option SteepWindow) :=
  if !bit ctl 39 then (if base = 0 && ctl = 0 then some none else none)
  else
    let size := bits ctl 0 34
    let sc := bits ctl 34 4
    if 2 ^ 40 ≤ ctl || base % 8 != 0 || size = 0 || size % 8 != 0 || 2 ^ 17 < size || sc < 8 || 11 < sc then none
    else some (some { base := dw base, wr := bit ctl 38, scope := BitVec.ofNat 4 sc, size := size })
/-- The word store of the device: 256 K words. -/
def storeWords (s : State) (part slot : Nat) : Nat :=
  (s.steeps.filter (fun x => !(x.part == part && x.slot == slot))).foldl (fun n x => n + x.code.length) 0
/-- `n` words from an address in the partition's launch context. -/
def readCode (s : State) (part : Nat) (addr : DWord) : Nat → State × Option (List Word)
  | 0 => (s, some [])
  | n + 1 =>
    match vcpLoad s part addr 4 with
    | (s, none) => (s, none)
    | (s, some v) =>
      match readCode s part (addr + 4) n with
      | (s, some l) => (s, some (wd v :: l))
      | (s, none) => (s, none)
/-- Removes a slot's program and its bindings. -/
def unloadSteep (s : State) (part slot : Nat) : State :=
  { s with steeps := s.steeps.filter (fun x => !(x.part == part && x.slot == slot)),
           bindings := s.bindings.filter (fun b => !(b.1 == part && b.2.2 == slot)) }
/-- Installs a program, binding its type. -/
def installSteep (s : State) (x : Steep) (type : Nat) : State :=
  let s := { s with steeps := s.steeps.filter (fun y => !(y.part == x.part && y.slot == x.slot)) ++ [x] }
  if type = 0 then s
  else { s with bindings := s.bindings.filter (fun b => !(b.1 == x.part && b.2.1 == type)) ++ [(x.part, type, x.slot)] }
/-- Performs a load request: the state and the STATUS word. -/
def loadSteep (s : State) (req : Nat) : State × Nat :=
  let rd (o : Nat) : Nat := homeRead s (req + o) 8
  let c := rd 8
  let n := bits c 0 11
  let slot := bits c 16 8
  let type := bits c 24 8
  let part := bits c 32 4
  let budget := bits c 36 12
  let ws := (upTo 4).map (fun w => windowEntry (rd (0x20 + 16 * w)) (rd (0x28 + 16 * w)))
  if bits c 11 5 != 0 || bits c 48 16 != 0 || rd 0x18 != 0 || (upTo 4).any (fun i => rd (0x60 + 8 * i) != 0) || rd 0 % 4 != 0 ||
    !(s.part part).en || slot = 0 || (type != 0 && type < 0xF0) || 1024 < budget || ws.any (·.isNone) then (s, 3)
  else if n = 0 then (unloadSteep s part slot, 0)
  else
    match readCode s part (dw (rd 0)) n with
    | (s, none) => (s, 2)
    | (s, some code) =>
      let wins := ws.map (fun w => w.getD none)
      match verifySteep code wins with
      | some (rule, i) => (s, 1 + rule * 256 + i * 65536)
      | none =>
        if 262144 < storeWords s part slot + n then (s, 4)
        else (installSteep s { part := part, slot := slot, code := code, budget := if budget = 0 then 256 else budget, windows := wins } type, 0)
/-- A write of a request address queues one load. -/
def execSteepreq (v : DWord) (s : State) : Host.Outcome State Fault Refusal :=
  .next (if s.boot == .running then { s with kiln := { s.kiln with steepreq := s.kiln.steepreq ++ [v &&& 0x003FFFFFFFFFFF80#64] } } else s)
/-- The interpreter handles the oldest request and writes its STATUS as a release. -/
def execSteepLoad (s : State) : Host.Outcome State Fault Refusal :=
  .next (match s.kiln.steepreq with
    | [] => s
    | a :: l =>
      if s.boot != .running then s
      else
        let s := { s with kiln := { s.kiln with steepreq := l } }
        if hbmEnd < a.toNat + 128 then s
        else
          let r := loadSteep s a.toNat
          kilnStore r.1 (a.toNat + 16) 8 r.2)

end Sys2Proof.Machine
end

