-- ==== Sys2Proof/Machine/Place.lean ====
section
/-! DEFINITION. What stands on a core, where teams go, and how groups and teams come about (R17, R20, R51, R52, R155, R322, R359 to R363,
R392, R397). -/

namespace Sys2Proof.Machine

/-! ### What stands on a core (R359) -/

def coresList (m : BitVec 192) : List Nat := (upTo 192).filter (fun c => m.getLsbD c)
def coreMask (l : List Nat) : BitVec 192 := l.foldl (fun m c => m ||| (1#192 <<< c)) 0
/-- A team's place is its own while it is on its cores. -/
def teamOnCores (s : State) (uid : Nat) : Bool := match s.team? uid with | some t => !t.saved | none => false
def coreGroups (s : State) (core : Nat) : List Group := s.groups.filter (fun g => g.core == core && teamOnCores s g.team)
def occupiedSlots (s : State) (core : Nat) : Nat := (coreGroups s core).foldl (fun n g => n + g.width) 0
def residentLanes (s : State) (core : Nat) : Nat := (coreGroups s core).foldl (fun n g => n + (lanesOf g.liveMask).length) 0
/-- Lane slots other grids hold back on a core (R20). -/
def heldSlots (s : State) (grid core : Nat) : Nat :=
  (s.grids.filter (fun r => r.uid != grid)).foldl (fun n r => n + (lookupNat core r.reserve).getD 0 * r.width) 0
/-- Scratchpad bytes of a team on one of its cores. -/
def teamScratch (t : Team) (core : Nat) : Nat :=
  if !t.paired then t.scratch else if core = t.core then min t.scratch 0x40000 else t.scratch - 0x40000
def teamHas (t : Team) (core : Nat) : Bool := t.core == core || (t.paired && t.core + 1 == core)
def coreTeams (s : State) (core : Nat) : List Team := s.teams.filter (fun t => !t.saved && teamHas t core)
def usedScratch (s : State) (core : Nat) : Nat := (coreTeams s core).foldl (fun n t => n + teamScratch t core) 0
def usedAcc (s : State) (core : Nat) : Nat := (coreTeams s core).foldl (fun n t => n + t.acc) 0
/-- Whether a core can take `n` groups of a grid with these bytes. -/
def coreTakes (s : State) (r : Grid) (core n scratch acc : Nat) : Bool :=
  (coreGroups s core).length + n ≤ 64 && occupiedSlots s core + heldSlots s r.uid core + n * r.width ≤ 4096 &&
  usedScratch s core + scratch ≤ 0x40000 && usedAcc s core + acc ≤ 0x80000
/-- Whether a team of `n` groups, and `m` on the odd core of a pair, fits at a core or at the pair that starts there. -/
def teamFits (s : State) (r : Grid) (n m core : Nat) : Bool :=
  if r.paired then
    coreTakes s r core n (min r.scratch 0x40000) r.acc && coreTakes s r (core + 1) m (r.scratch - 0x40000) r.acc
  else coreTakes s r core n r.scratch r.acc
/-- The groups of a new team of `n`: on its core or even core, and on its odd core (R17). -/
def newHalves (r : Grid) (n : Nat) : Nat × Nat := if r.paired then (n / 2, n - n / 2) else (n, 0)
/-- The groups a team has on its core or even core, and on its odd core (R17, R39). -/
def teamHalves (s : State) (t : Team) : Nat × Nat :=
  let l := s.groups.filter (fun g => g.team == t.uid)
  ((l.filter (fun g => g.core == t.core)).length, (l.filter (fun g => g.core != t.core)).length)
/-- A grid's placement set (R359, R369): the partition's cores in its clusters; without RSV, less the cores reserved now; with RSV, those reserved
now, until the grid has started, and from then on those it started on. -/
def placementSet (s : State) (r : Grid) : List Nat :=
  let p := s.part r.part
  (coresList r.cores).filter (fun c => if r.rsv then r.started || p.reserved.getLsbD c else !(p.reserved ||| p.releasing).getLsbD c)
/-- The cores a team may start at: every core, or the even core of a whole pair. -/
def startCores (s : State) (r : Grid) : List Nat :=
  let l := placementSet s r
  if r.paired then l.filter (fun c => c % 2 == 0 && l.contains (c + 1)) else l
def lanesAt (s : State) (r : Grid) (core : Nat) : Nat :=
  residentLanes s core + (if r.paired then residentLanes s (core + 1) else 0)
/-- The core with the fewest resident lanes, the lowest among equals. -/
def leastLoaded (s : State) (r : Grid) (l : List Nat) : Option Nat :=
  l.foldl (fun o c => match o with | none => some c | some b => if lanesAt s r c < lanesAt s r b then some c else o) none
/-- Where a team of this many groups goes (R360). -/
def pickCore (s : State) (r : Grid) (n : Nat × Nat) : Option Nat :=
  leastLoaded s r ((startCores s r).filter (fun c => teamFits s r n.1 n.2 c))
/-- The cluster that takes a unit of eight teams (R361). -/
def pickCluster (s : State) (r : Grid) (n : Nat) : Option Nat :=
  let l := placementSet s r
  (upTo 24).find? (fun k => (upTo 8).all (fun i => l.contains (8 * k + i) && teamFits s r n 0 (8 * k + i)))
/-- A core can take one more group of a population grid with a unit of its reservation (R20, R362). -/
def takesUnit (s : State) (r : Grid) (core : Nat) : Bool :=
  1 ≤ (lookupNat core r.reserve).getD 0 && (coreGroups s core).length + 1 ≤ 64
/-- Where a new team of RESAMP goes (R362): its core, or the even core of its pair, and the core of its first group. -/
def resampSpot (s : State) (r : Grid) : Option (Nat × Nat) :=
  let first (c : Nat) : Nat := if takesUnit s r c then c else c + 1
  let ok (c : Nat) : Bool := teamFits s r 0 0 c && (takesUnit s r c || (r.paired && takesUnit s r (c + 1)))
  (leastLoaded s r ((startCores s r).filter ok)).map (fun c => (c, first c))

/-! ### Image faults (R392) -/

/-- Units held back for groups of population grids, but one of them (R20). -/
def unitsHeld (s : State) (part grid : Nat) : Nat :=
  (s.grids.filter (fun r => r.part == part && r.uid != grid)).foldl (fun n r => n + r.images) 0
/-- Units for `n` more groups or teams of a grid. -/
def unitsLeft (s : State) (part grid n : Nat) : Bool := (s.part part).slotsUsed.length + unitsHeld s part grid + n ≤ imgUnits s part
/-- No unit is free: the partition stops as RUN := 0 stops it, and a record is written. -/
def imageFault (s : State) (part : Nat) : State :=
  (pfRecord s part (s.part part).slotsUsed.length false cImage 2 0 0).post (.event (.swapOut part))
/-- Takes `n` units, lowest first. -/
def takeUnits (s : State) (part : Nat) : Nat → State × List Nat
  | 0 => (s, [])
  | n + 1 =>
    match freeUnit s part with
    | some u => let r := takeUnits (takeUnit s part u) part n; (r.1, u :: r.2)
    | none => (s, [])
/-- Takes the units of `n` groups of a grid, out of its reservation if it has one. -/
def takeSlots (s : State) (r : Grid) (n : Nat) : State × List Nat :=
  let u := takeUnits s r.part n
  (u.1.modGrid r.uid (fun x => { x with images := x.images - n }), u.2)

/-! ### Lane-private slices (R51) -/

def privStride (n : Nat) : Nat := roundUp n 256
/-- The launch index of a lane, in (TEAMID, TID) order. Lanes and groups that a task grid never starts are counted as if they had been: DESIGN
CHOICE, the spec gives the order only (R110; log entry 102). -/
def launchIndex (r : Grid) (teamid groupid lane : Nat) : Nat := (teamid * r.tg + groupid) * r.width + lane
/-- The cores whose L1 holds a line. -/
def l1Holders (s : State) (line : Nat) : List Nat := (s.caches.filter (fun c => c.kind == .l1 && c.line == line)).map (·.core)
/-- Every L1 copy of a line goes home, so that the device finds and leaves its newest bytes there. -/
def recallLine (s : State) (line : Nat) : State := (l1Holders s line).foldl (fun s c => flushLine s c line) s
/-- The address space of a grid at supervisor level (R331). -/
def gridCtx (r : Grid) : Ctx :=
  { core := vcpCore r.part, part := r.part, asid := r.asid &&& 0xFFFF#64, ptroot := r.ptroot, sup := true, wkey := r.wkey, grid := none, team := none }
/-- The plain home bytes of one part of a slice, in the grid's address space, no L1 copy left. A unit that does not translate to a plain page
is left as it is, no trap or record telling of it: DESIGN CHOICE, the spec says nothing of it (log entry 103). -/
def slicePlace (s : State) (r : Grid) (addr : DWord) (write : Bool) : State × Option Nat :=
  match globalCheck s (gridCtx r) (if write then needW else needR) addr 1 with
  | (s, .ok (.plain pa _)) => (recallLine s (pa / 128), some pa)
  | (s, _) => (s, none)
/-- `n` bytes of a slice, inside one 64-byte unit; `bad` poisons the unit, a whole unit that is sound clears its poison (R419). -/
def sliceWrite (s : State) (r : Grid) (addr : DWord) (n v : Nat) (bad : Bool) : State :=
  match slicePlace s r addr true with
  | (s, some pa) =>
    let s := coverPoison (softWrite s pa n v) (.hbm pa) n
    if bad then setPoison s (.hbm pa) else s
  | (s, none) => s
/-- The same bytes read, and whether their unit is poisoned. -/
def sliceRead (s : State) (r : Grid) (addr : DWord) (n : Nat) : State × Nat × Bool :=
  match slicePlace s r addr false with
  | (s, some pa) => (s, homeRead s pa n, poisoned s (.hbm pa))
  | (s, none) => (s, 0, false)
/-- The 64-byte units of a slice of `n` bytes: offset and length of each. -/
def sliceParts (n : Nat) : List (Nat × Nat) := (upTo (roundUp n 64 / 64)).map (fun i => (64 * i, min 64 (n - 64 * i)))
/-- A slice starts as zeros. -/
def sliceClear (s : State) (r : Grid) (addr : DWord) : State :=
  (sliceParts r.priv).foldl (fun s i => sliceWrite s r (addr + dw i.1) i.2 0 false) s
/-- The slices that exist at grid start: those of every lane that it launches; a task grid's lanes get theirs as they start. -/
def gridSlices (r : Grid) : List Nat := if r.kind == .task || r.priv = 0 then [] else upTo (r.nt * r.tg * r.width)
/-- Grid start: every slice is zero. -/
def clearSlices (s : State) (r : Grid) : State :=
  (gridSlices r).foldl (fun s i => sliceClear s r (r.privNext + dw (i * privStride r.priv))) s

/-! ### Gangs (R415, R416) -/

def gangFailed (s : State) (part g : Nat) : Bool := fld (gangQuad s part g 6) 62 2 == 1
/-- A member launched while its gang is failed takes GANGFAIL at its first issue; the subcode tells how the gang failed. -/
def gangCause (s : State) (r : Grid) : Option (BitVec 8) :=
  match gangOf s r.part r.packet.queue with
  | some g => if gangFailed s r.part g then some (if (s.part r.part).gangBy.contains g then 1 else 0) else none
  | none => none

/-! ### Groups and teams -/

/-- A thread at its start (R20, R155). -/
def freshLane (r : Grid) (index : Nat) (v : List Word) : Lane :=
  { live := true, v := (v ++ List.replicate (r.vregs - v.length) 0).take r.vregs, popidx := wd index, parent := wd index, root := wd index,
    privbase := if r.priv = 0 then 0 else r.privNext + dw (index * privStride r.priv) }
def freshSplit (slot age : Nat) (pc : DWord) (mask : Mask) (now : DWord) : Split :=
  { slot := slot, age := age, pc := pc.extractLsb' 0 54, farPc := pc.extractLsb' 54 10, mask := mask, readySince := now }
/-- The lowest free group entry of a core. -/
def freeEntry (s : State) (core : Nat) : Nat := ((upTo 64).find? (fun e => !(coreGroups s core).any (fun g => g.entry == e))).getD 0
/-- A group at its start (R155, R322, R363). -/
def freshGroup (s : State) (r : Grid) (team groupid core slot : Nat) (pc : DWord) (lanes : List Lane) : Group :=
  let mask := maskOf ((upTo r.width).filter (fun l => (lanes.getD l {}).live))
  { uid := s.uid, grid := r.uid, team := team, groupid := groupid, core := core, entry := freeEntry s core, width := r.width, vregs := r.vregs,
    lanes := lanes, kernarg := r.kernarg, stvec := pcField r.stvec, ptroot := r.ptroot, asid := r.asid &&& 0xFFFF#64, partid := dw r.part,
    lxrbase := r.lxrbase &&& 0x003FFFFFFFFF0000#64, wkey := r.wkey, sstatus := dw (r.pri.toNat * 256), slot := slot,
    splits := [{ freshSplit 0 0 pc mask s.clock with gangFail := gangCause s r, sup := r.sup }] }
def addGroup (s : State) (g : Group) : State := storeHeader (noteImage { s with groups := s.groups ++ [g], uid := s.uid + 1 } g.uid) g 1
/-- The plan of a group: its PC, its lanes, and the acquires of its tasks: scope and lines (R368). -/
structure GroupPlan where
  pc : DWord
  lanes : List Lane
  acq : List (BitVec 4 × List (Nat × Nat)) := []
/-- A task lane acquires at its QPUT's scope (R238, R368). -/
def taskAcquire (s : State) (core : Nat) (paired : Bool) (a : BitVec 4 × List (Nat × Nat)) : State :=
  if wideScope a.1.toNat paired then applySig s core a.2 else narrowAcquire s core
/-- A team is created on a core or pair, its memories zero (R17, R52, R64). The units of its groups have been taken. -/
def startTeam (s : State) (r : Grid) (teamid core : Nat) (units : List Nat) (plans : List GroupPlan) : State :=
  let q := s.fresh
  let t : Team := { uid := q.1, grid := r.uid, teamid := teamid, core := core, paired := r.paired, scratch := r.scratch, acc := r.acc,
                    groups := plans.length }
  let s := { q.2 with teams := q.2.teams ++ [t] }
  plans.zipIdx.foldl (fun s p =>
    let c := if r.paired && plans.length / 2 ≤ p.2 then core + 1 else core
    let s := p.1.acq.foldl (fun s a => taskAcquire s c r.paired a) s
    let s := if r.kind == .task then p.1.lanes.foldl (fun s l => if l.live then sliceClear s r l.privbase else s) s else s
    addGroup s (freshGroup s r t.uid p.2 c (units.getD p.2 0) p.1.pc p.1.lanes)) s
/-- The groups of an ordinary or population team at launch. -/
def launchPlans (r : Grid) (teamid : Nat) : List GroupPlan :=
  (upTo r.tg).map (fun g => { pc := pcWord r.pc, lanes := (upTo r.width).map (fun l => freshLane r (launchIndex r teamid g l) []) })
/-- The lanes a task group starts with (R19, R368). -/
def taskPlan (r : Grid) (teamid g : Nat) (ts : List Task) : GroupPlan :=
  { pc := match ts with | t :: _ => t.pc | [] => 0
    lanes := (upTo r.width).map (fun l =>
      match ts[l]? with
      | some t => freshLane r (launchIndex r teamid g l) [t.lo, t.hi]
      | none => {})
    acq := ts.map (fun t => (t.scope, t.sig)) }

/-! ### Restoring a saved team (R393, R396, R397) -/

/-- Retires a group whose image was tampered with, with a record. -/
def imageTampered (s : State) (g : Group) : State :=
  retireGroup (pfRecord s (groupPart g) g.slot false cImage 1 (pcWord (stoppedPc g)) 0) g.uid
/-- The lines a save of the team published: those of every core it stood on (R396). -/
def savedLines (s : State) (t : Team) : List (Nat × Nat) := (teamCores s t.uid).foldl (fun l c => unionPairs l (releaseLines s c)) []
/-- A group of it is on its new core, RESIDENT again unless it is stopped. -/
def restoreGroup (s : State) (g : Group) (core : Nat) : State :=
  let others := { s with groups := s.groups.filter (fun y => y.uid != g.uid) }
  let s := s.modGroup g.uid (fun x => { x with core := core, entry := freeEntry others core, regTags := 0x1F,
                                               gstate := if x.gstate == .saved then .resident else x.gstate })
  match s.group? g.uid with
  | some g => if g.gstate == .resident then storeHeader s g 1 else s
  | none => s
/-- A saved team runs on from its saved state, at a core or pair; `move` tells where each of its groups goes. The L1 of another core than before
keeps no line that may be older than what the lanes have read (R317). -/
def restoreTeam (s : State) (t : Team) (core : Nat) (move : Nat → Nat) : State :=
  let lines := savedLines s t
  let gs := s.groups.filter (fun g => g.team == t.uid)
  let bad := gs.filter (fun g => g.gstate == .saved && !imageIntact s g)
  let s := s.modTeam t.uid (fun x => { x with core := core, saved := false, ahead := false })
  let s := gs.foldl (fun s g =>
    let c := move g.core
    restoreGroup (if c = g.core then s else flushCore (applySig s c lines) c) g c) s
  bad.foldl imageTampered s

/-! ### Die allocations (R54) -/

/-- Bytes of die scratchpad taken by casks on a die. -/
def caskBytes (s : State) (die : Nat) : Nat := 65536 * (s.casks.filter (fun c => c.num / 256 == die)).length
def gridDies (s : State) (r : Grid) : List Nat :=
  ((if r.rsv then placementSet s r else coresList r.cores).map dieOf).eraseDups
def dieUsed (s : State) (die : Nat) : Nat :=
  (s.grids.filter (fun r => r.admitted && (gridDies s r).contains die)).foldl (fun n r => n + r.dieAlloc) 0
/-- Whether a grid's allocation fits beside those of resident grids. -/
def dieFits (s : State) (r : Grid) : Bool := (gridDies s r).all (fun d => caskBytes s d + dieUsed s d + r.dieAlloc ≤ 0x2000000)

/-! ### Placing the next team of a grid (R360, R361, R367) -/

/-- Teams of a grid on their cores. -/
def residentTeams (s : State) (r : Grid) : Nat := (s.teams.filter (fun t => t.grid == r.uid && !t.saved)).length
/-- Teams off their cores that wait for a place. -/
def savedTeams (s : State) (r : Grid) : List Team := s.teams.filter (fun t => t.grid == r.uid && t.saved && !t.heldBySave)
/-- The saved team of a list that goes first: the lowest TEAMID (R360). -/
def firstTeam (l : List Team) : Option Team :=
  l.foldl (fun o x => match o with | none => some x | some y => if x.teamid < y.teamid then some x else o) none
/-- The same offset from the new core as from the old one. -/
def moveBy (old new : Nat) (c : Nat) : Nat := new + (c - old)
/-- A saved team returns, under cluster placement with its unit of eight to the ranks it had (R361, R397). -/
def placeSaved (s : State) (r : Grid) (t : Team) : Option State :=
  if r.clus then
    let unit := (savedTeams s r).filter (fun x => !x.ahead && x.teamid / 8 == t.teamid / 8 && x.core / 8 == t.core / 8)
    let l := placementSet s r
    let at_ (k : Nat) (x : Team) : Nat := 8 * k + x.core % 8
    ((upTo 24).find? (fun k => unit.all (fun x => l.contains (at_ k x) && teamFits s r (teamHalves s x).1 0 (at_ k x)))).map
      (fun k => unit.foldl (fun s x => restoreTeam s x (at_ k x) (moveBy x.core (at_ k x))) s)
  else (pickCore s r (teamHalves s t)).map (fun c => restoreTeam s t c (moveBy t.core c))
/-- Uses a unit of the reservation on a core. -/
def useUnit (s : State) (r : Grid) (core : Nat) : State :=
  s.modGrid r.uid (fun x => { x with reserve := x.reserve.filter (fun q => q.1 != core) ++ [(core, (lookupNat core x.reserve).getD 0 - 1)] })
/-- A team that RESAMP created without a place gets one (R362). -/
def placeAhead (s : State) (r : Grid) (t : Team) : Option State :=
  (resampSpot s r).map (fun c => restoreTeam (useUnit s r c.2) t c.1 (fun _ => c.2))
/-- Places a new team of an ordinary or population grid, or a unit of eight. -/
def placeFresh (s : State) (r : Grid) : Option State :=
  let count := if r.clus then min 8 (r.nt - r.nextTeam) else 1
  let spot := if r.clus then (pickCluster s r r.tg).map (8 * ·) else pickCore s r (newHalves r r.tg)
  spot.map (fun c =>
    if !unitsLeft s r.part r.uid (count * r.tg) then imageFault s r.part
    else
      let s := s.modGrid r.uid (fun x => { x with nextTeam := x.nextTeam + count })
      (upTo count).foldl (fun s i =>
        let u := takeSlots s r r.tg
        startTeam u.1 r (r.nextTeam + i) (c + i) u.2 (launchPlans r (r.nextTeam + i))) s)
/-- Teams of a grid that are on cores or wait to return to them. -/
def liveTeams (s : State) (r : Grid) : Nat := (s.teams.filter (fun t => t.grid == r.uid)).length
/-- Starts a forming team of a task grid as team `id` at a core or pair. -/
def startTask (s : State) (r : Grid) (f : FormingTeam) (id core : Nat) : State :=
  let u := takeSlots (s.modGrid r.uid (fun x => { x with formingTeams := x.formingTeams.erase f })) r f.groups.length
  startTeam u.1 r id core u.2 (f.groups.zipIdx.map (fun q => taskPlan r id q.2 q.1))
/-- The forming teams of a task grid that go next, ready and not more than may be resident: one, or under cluster placement a unit of up to eight
(R361; which teams form a unit is open: log entry 120). -/
def readyTasks (s : State) (r : Grid) : List FormingTeam :=
  (r.formingTeams.filter (·.ready)).take (min (if r.clus then 8 else 1) (r.nt - liveTeams s r))
/-- The TEAMID of the first: under cluster placement a unit begins at a multiple of 8. -/
def nextTask (r : Grid) : Nat := if r.clus then roundUp r.nextTeam 8 else r.nextTeam
/-- Places the forming teams that go next, team 8j + r at the core of rank r under cluster placement (R361, R367). -/
def placeTask (s : State) (r : Grid) : Option State :=
  let fs := readyTasks s r
  let most := fs.foldl (fun n f => max n f.groups.length) 0
  if fs.isEmpty then none
  else
    (if r.clus then (pickCluster s r most).map (8 * ·) else pickCore s r (newHalves r most)).map (fun c =>
      if !unitsLeft s r.part r.uid (fs.foldl (fun n f => n + f.groups.length) 0) then imageFault s r.part
      else
        let s := s.modGrid r.uid (fun x => { x with nextTeam := nextTask r + fs.length })
        fs.zipIdx.foldl (fun s q => startTask s r q.1 (nextTask r + q.2) (c + q.2)) s)
/-- Places every team of an RSV grid, or none (R369). -/
def placeAll : Nat → State → Grid → Option State
  | 0, s, _ => some s
  | n + 1, s, r =>
    if r.nt ≤ r.nextTeam then some s
    else
      match placeFresh s r with
      | none => none
      | some t => match t.grid? r.uid with | some x => placeAll n t x | none => some t
/-- A team of TG groups without lanes stands at a core or pair. -/
def standAt (r : Grid) (s : State) (c : Nat) : State :=
  let q := s.fresh
  let t : Team := { uid := q.1, grid := r.uid, core := c, paired := r.paired, scratch := r.scratch, acc := r.acc }
  let group (i : Nat) : Group :=
    { uid := q.1, grid := r.uid, team := q.1, groupid := i, core := if r.paired && r.tg / 2 ≤ i then c + 1 else c, width := r.width }
  { q.2 with teams := q.2.teams ++ [t], groups := q.2.groups ++ (upTo r.tg).map group }
/-- A state in which one more team of TG groups, or a unit of `k` under cluster placement, stands where the next would go; `none` when it fits
nowhere. -/
def standIn (s : State) (r : Grid) (k : Nat) : Option State :=
  if r.clus then (pickCluster s r r.tg).map (fun c => (upTo k).foldl (fun s i => standAt r s (8 * c + i)) s)
  else (pickCore s r (newHalves r r.tg)).map (standAt r s)
/-- `n` teams of a grid can all be resident at once. -/
def roomFor : Nat → State → Grid → Bool
  | 0, _, _ => true
  | n + 1, s, r =>
    if r.clus && n % 8 != 0 then roomFor n s r
    else match standIn s r (if r.clus then min 8 (r.nt - n) else 1) with | some t => roomFor n t r | none => false
/-- An RSV grid has started: its placement set is fixed. -/
def markRsv (s : State) (r : Grid) : State := s.modGrid r.uid (fun x => { x with started := true, cores := coreMask (placementSet s r) })
/-- An RSV launch starts: every team of it is placed, or, of a task grid, could be (R369). -/
def startRsv (s : State) (r : Grid) : Option State :=
  if r.kind == .task then (if roomFor r.nt s r then some (markRsv s r) else none)
  else if unitsLeft s r.part r.uid (r.nt * r.tg) then (placeAll r.nt s r).map (fun s => markRsv s r)
  else some (imageFault s r.part)
/-- The state after the next team of an admitted grid is placed; `none` when nothing waits or the team that comes next fits nowhere: the saved
ones first, in ascending TEAMID (R360). -/
def placeAdmitted (s : State) (r : Grid) : Option State :=
  match firstTeam ((savedTeams s r).filter (!·.ahead)) with
  | some t => placeSaved s r t
  | none =>
    if r.rsv && !r.started then startRsv s r
    else if r.kind == .task then placeTask s r
    else if r.nt ≤ r.nextTeam then none
    else placeFresh s r
/-- The next placement of a grid; its die allocation is made first, when it fits (R54). -/
def placeNext (s : State) (r : Grid) : Option State :=
  if s.boot != .running || !(s.part r.part).running || (s.part r.part).qState r.packet.queue = 3 then none
  else if r.admitted then placeAdmitted s r
  else if dieFits s r then
    (match s.grid? r.uid with
     | some _ => some ((placeAdmitted (s.modGrid r.uid (fun x => { x with admitted := true })) { r with admitted := true }).getD
         (s.modGrid r.uid (fun x => { x with admitted := true })))
     | none => none)
  else none
/-- The order in which grids were accepted: the place of the packet among those in flight. -/
def acceptOrder (s : State) (r : Grid) : Nat := ((s.packets.map (·.ref)).idxOf? r.packet).getD s.packets.length
/-- An earlier-accepted grid of the partition has a team that can be placed (R360). -/
def earlierFirst (s : State) (r : Grid) : Bool :=
  s.grids.any (fun e => e.uid != r.uid && e.part == r.part && acceptOrder s e < acceptOrder s r && (placeNext s e).isSome)
/-- The teams of a partition that RESAMP created without a place, and their grids: they go ahead of every waiting team (R362). -/
def aheadTeams (s : State) (part : Nat) : List (Grid × Team) :=
  s.grids.flatMap (fun r => if r.part == part then ((savedTeams s r).filter (·.ahead)).map (fun t => (r, t)) else [])
/-- Places the next team of a grid, unless one that goes before it can be placed (R360, R362). -/
def placeStep (s : State) (r : Grid) : State :=
  if s.boot != .running || !(s.part r.part).running then s
  else
    match (aheadTeams s r.part).findSome? (fun q => placeAhead s q.1 q.2) with
    | some t => t
    | none => if earlierFirst s r then s else (placeNext s r).getD s

end Sys2Proof.Machine
end

