-- ==== Sys2Proof/Machine/Work.lean ====
section
/-! DEFINITION. Packets that start or make work: LAUNCH (R20, R54, R299, R338, R366, R369), BUNDLE (R342), LXRUN, WAITMEM, SIGNAL, GRAPH, PATCH,
TIMESTAMP, RESERVE, TUNOP and custom packets (R337, R341, R345, R351). -/

namespace Sys2Proof.Machine

/-! ### The kernel descriptor (R299) -/

structure KernelDesc where
  entry : DWord
  width : Nat
  vregs : Nat
  pop : Bool
  paired : Bool
  scratch : Nat
  priv : Nat
  acc : Nat
deriving DecidableEq, Repr

/-- The descriptor in eight quadwords; `none` for a format error. -/
def kernelDesc (q : List DWord) : Option KernelDesc :=
  let c := pq q 1
  let k : KernelDesc :=
    { entry := q.getD 0 0, width := 16 * 2 ^ bits c 0 2, vregs := 8 * bits c 32 8, pop := bit c 3, paired := bit c 2,
      scratch := bits (pq q 2) 0 32, priv := bits (pq q 2) 32 32, acc := bits (pq q 3) 0 32 }
  if 2 ^ 54 ≤ k.entry.toNat || k.entry.toNat % 4 != 0 || bits c 0 2 == 3 || bits c 4 28 != 0 || 2 ^ 40 ≤ c || k.vregs == 0 || 256 < k.vregs ||
    k.scratch % 1024 != 0 || (if k.paired then 0x80000 else 0x40000) < k.scratch || 4096 < k.priv || k.acc % 4096 != 0 || 0x80000 < k.acc ||
    bits (pq q 3) 32 32 != 0 || !restZero q 4 then none
  else some k

/-! ### Contexts of packets (R331) -/

/-- The context of work on a core that a packet starts, at user level. -/
def packetCtx (k : Packet) (core : Nat) : Ctx :=
  { core := core, part := k.ref.part, asid := dw (fld (k.ctx.getD 2 0) 0 16), ptroot := k.ctx.getD 1 0, sup := false, wkey := k.ctx.getD 4 0,
    grid := none, team := none }
/-- Quadwords read by the VCP in the context of the packet. -/
def packetQuads (s : State) (k : Packet) (addr : DWord) : Nat → State × Option (List DWord)
  | 0 => (s, some [])
  | n + 1 =>
    match globalCheck s { packetCtx k (vcpCore k.ref.part) with sup := true } needR addr 8 with
    | (s, .ok (.plain pa _)) =>
      if poisoned s (.hbm pa) then (s, none)
      else
        let s := applySig s (vcpCore k.ref.part) (sigAt s (.hbm pa) 8)
        match packetQuads s k (addr + 8) n with
        | (s, some l) => (s, some (dw (homeRead s pa 8) :: l))
        | (s, none) => (s, none)
    | (s, _) => (s, none)

/-! ### LAUNCH: resources (R20, R54, R338, R359, R369) -/

/-- The cores of a cluster mask; no bit set stands for every cluster. -/
def clusterCores (mask : Nat) : BitVec 192 := coreMask ((upTo 192).filter (fun c => mask = 0 || bit mask (clusterOf c)))
/-- Lane slots of a core that are occupied or held for any grid. -/
def takenSlots (s : State) (core : Nat) : Nat := occupiedSlots s core + heldSlots s 0 core
/-- The core that takes the next unit of a reservation: the emptiest, the lowest among equals. -/
def unitCore (taken : List (Nat × Nat)) (width : Nat) : Option Nat :=
  ((taken.filter (fun q => q.2 + width ≤ 4096)).foldl (fun (o : Option (Nat × Nat)) q =>
    match o with | none => some q | some b => if q.2 < b.2 then some q else o) none).map (·.1)
/-- Places `n` units: the slots taken afterwards by core. -/
def placeUnits (width : Nat) : Nat → List (Nat × Nat) → Option (List (Nat × Nat))
  | 0, taken => some taken
  | n + 1, taken =>
    match unitCore taken width with
    | none => none
    | some c => placeUnits width n (taken.map (fun q => if q.1 = c then (q.1, q.2 + width) else q))
/-- The reservation for POPCAP threads: units by core; `none` when it cannot be made. -/
def popReserve (s : State) (r : Grid) (cores : List Nat) : Option (List (Nat × Nat)) :=
  let launched := r.nt * r.tg * r.width
  if r.popcap.toNat < launched || 786432 < r.popcap.toNat || !unitsLeft s r.part r.uid r.images then none
  else
    let t0 := cores.map (fun c => (c, takenSlots s c))
    (placeUnits r.width (ceilDiv (r.popcap.toNat - launched) r.width) t0).map (fun t =>
      (t.zip t0).map (fun q => (q.1.1, (q.1.2 - q.2.2) / r.width)))
/-- How many teams an empty core, or an empty pair, takes. -/
def emptyTakes (r : Grid) : Nat :=
  let n := if r.paired then r.tg / 2 else r.tg
  let sc := if r.paired then min r.scratch 0x40000 else r.scratch
  let l := [64 / n, 4096 / (n * r.width)] ++ (if sc = 0 then [] else [0x40000 / sc]) ++ (if r.acc = 0 then [] else [0x80000 / r.acc])
  l.foldl min 64
/-- How many teams fit on these cores while they are empty. -/
def emptyFits (r : Grid) (cores : List Nat) : Nat :=
  if r.clus then 8 * emptyTakes r * ((upTo 24).filter (fun k => (upTo 8).all (fun i => cores.contains (8 * k + i)))).length
  else if r.paired then emptyTakes r * (cores.filter (fun c => c % 2 == 0 && cores.contains (c + 1))).length
  else emptyTakes r * cores.length

/-- How a launch ends: refused with a status, or a grid. -/
inductive LaunchEnd where
  | refused (code : Nat)
  | grid (r : Grid)

/-- The grid a LAUNCH describes, before its resources are looked at. -/
def gridOf (s : State) (k : Packet) (d : KernelDesc) (within : BitVec 192) : Grid :=
  let ws := k.words
  let a := pq ws 3
  let kind : GridKind := if bits a 28 2 = 1 then .population else if bits a 28 2 = 2 then .task else .ordinary
  let p := s.part k.ref.part
  let base := clusterCores (pq ws 4) &&& p.cores &&& within
  let launched := bits a 0 16 * bits a 16 12 * d.width
  { uid := s.uid, gridid := s.nextGrid, part := k.ref.part, packet := k.ref, kind := kind, kernarg := ws.getD 2 0,
    pc := d.entry.extractLsb' 0 54, width := d.width, vregs := d.vregs, scratch := d.scratch, acc := d.acc, priv := d.priv, paired := d.paired,
    clus := bit a 30, rsv := bit a 31, tg := bits a 16 12, nt := bits a 0 16,
    cores := base,
    images := if kind == .population then ceilDiv (pq ws 6) d.width else 0,
    dieAlloc := pq ws 5, admitted := pq ws 5 = 0, pri := BitVec.ofNat 2 (fld (s.vq ⟨k.ref.part, k.ref.queue⟩).ctl 8 2),
    popcap := if kind == .population then wd (pq ws 6) else 0, popseed := if kind == .population then ws.getD 7 0 else 0,
    popsize := if kind == .population then wd launched else 0,
    stvec := k.ctx.getD 0 0, ptroot := k.ctx.getD 1 0, asid := k.ctx.getD 2 0, lxrbase := k.ctx.getD 3 0, wkey := k.ctx.getD 4 0,
    casks := if kind == .task then (upTo (bits (pq ws 6) 10 6 + 1)).map (fun i => bits (pq ws 6) 0 10 + i) else [],
    fillDelay := if kind == .task then bits (pq ws 6) 16 16 else 0 }
/-- The refusals of R338 that follow the descriptor's, in the order of its list. -/
def launchChecks (s : State) (r : Grid) : LaunchEnd :=
  let set := placementSet s r
  if (if r.paired then 2048 else 1024) < r.tg * r.width || (r.paired && r.tg % 2 == 1) then .refused 3
  else if (r.clus && r.paired) || set.isEmpty || (r.rsv && emptyFits r set < r.nt) then .refused 4
  else if (set.map dieOf).any (fun d => 0x2000000 < r.dieAlloc + caskBytes s d) then .refused 5
  else
    match if r.kind == .population then popReserve s r set else some [] with
    | none => .refused 5
    | some l =>
      if r.casks.any (fun c => !(s.part r.part).hasCask c || (match s.cask? c with | some x => x.part != r.part || x.bound.isSome | none => true)) then
        .refused 6
      else .grid { r with reserve := l }
/-- Reads the kernel descriptor and checks a LAUNCH. -/
def launchTry (s : State) (k : Packet) (within : BitVec 192) : State × LaunchEnd :=
  match packetQuads s k (k.words.getD 1 0) 8 with
  | (s, none) => (s, .refused 1)
  | (s, some q) =>
    match kernelDesc q with
    | none => (s, .refused 2)
    | some d =>
      let r := gridOf s k d within
      if r.kind == .population && !d.pop then (s, .refused 2) else (s, launchChecks s r)
/-- Hands a grid to the scheduler: its casks are bound and its private slices are zero; where they lie is open (R51), and so is whether its
groups start at supervisor level (R321; log entry 100). -/
def startGrid (s : State) (r : Grid) : State :=
  let l := s.takeFree
  let q := if r.priv = 0 then (l.2, 0#64) else (l.2.takeFree.2, l.2.takeFree.1 &&& 0x000FFFFFFFFFFF00#64)
  let r := { r with privNext := q.2, sup := l.1.getLsbD 0 }
  let s := clearSlices { q.1 with grids := q.1.grids ++ [r], uid := q.1.uid + 1, nextGrid := q.1.nextGrid + 1 } r
  r.casks.foldl (fun s c => s.modCask c (fun x => { x with bound := some r.uid })) s
def markStarted (s : State) (r : PacketRef) : State := s.modPacket r (fun x => { x with state := .started, since := s.clock })
def execLaunch (p : PacketRef) (s : State) : Host.Outcome State Fault Refusal :=
  .next (onStart s p 1 (fun k =>
    match launchTry s k (BitVec.allOnes 192) with
    | (s, .refused c) => completePacket s p c
    | (s, .grid r) => startGrid (markStarted s p) r))

/-! ### LXRUN (R337, R342) -/

/-- How a start ends: it must wait, is refused with a status, or has happened. -/
inductive StartEnd where
  | wait
  | refused (code : Nat)
  | started (s : State)
  /-- No image unit is free: the partition stops (R392). -/
  | halt (s : State)

/-- Group 0 of team 0 of a grid. -/
def firstGroup (s : State) (grid : Nat) : Option Group :=
  (s.teams.find? (fun t => t.grid == grid && t.teamid == 0)).bind (fun t => s.groups.find? (fun g => g.team == t.uid && g.groupid == 0))
/-- Starts the program of an LXRUN; with ATTACH, as if group `g` had. -/
def lxrunStart (s : State) (k : Packet) (g : Option Group) : StartEnd :=
  let c := pq k.words 2
  let core := bits c 0 8
  let r := chooseEngine s core (bit c 9) (b2n (bit c 8))
  let addr := k.words.getD 1 0
  if engineFull s r then .wait
  else if 2 ^ 54 ≤ addr.toNat then .refused 1
  else
    let args := (upTo 4).map (fun i => k.words.getD (3 + i) 0)
    let q := s.fresh
    let serial := (s.engine r).accepted
    let s := markStarted q.2 k.ref
    match g with
    | none =>
      .started (acceptProgram s r (newProgram serial (packetCtx k core) 0 0 false (k.ctx.getD 3 0 &&& 0x003FFFFFFFFF0000#64) (some k.ref)
        (addr.extractLsb' 0 54) args [s.devid.toNat, k.ref.part]))
    | some g =>
      let ctx : Ctx := { splitCtx g ((g.splits.head?).getD {}) with core := core }
      let p := newProgram serial ctx g.uid q.1 false g.lxrbase (some k.ref) (addr.extractLsb' 0 54) args (redtSource s g)
      .started (acceptProgram (s.modGroup g.uid (fun g => g.addFlight 3 q.1 false)) r p)
/-- Ends the start of one packet. -/
def settleStart (s : State) (r : PacketRef) (e : StartEnd) : State :=
  match e with
  | .wait => s
  | .refused c => completePacket s r c
  | .started t => t
  | .halt t => t
def execLxrun (p : PacketRef) (s : State) : Host.Outcome State Fault Refusal :=
  .next (onStart s p 3 (fun k => settleStart s p (lxrunStart s k none)))

/-! ### BUNDLE (R342) -/

/-- The clusters a member can use, and those that all members can. -/
def memberClusters (s : State) (k : Packet) : List Nat :=
  if k.type = 1 then ((coresList (clusterCores (pq k.words 4) &&& (s.part k.ref.part).cores)).map clusterOf).eraseDups
  else [clusterOf (bits (pq k.words 2) 0 8)]
def sharedClusters (s : State) (ms : List Packet) : List Nat := (upTo 24).filter (fun c => ms.all (fun m => (memberClusters s m).contains c))
/-- Starts the LAUNCH members one after another; with `place` their first teams are placed at once, so that each holds its resources. Those of
`others`, the grids of the partition that were there before the bundle, go first (R360), and so does a team of RESAMP that waits (R362). -/
def startLaunches (others : List Grid) (within : BitVec 192) (place : Bool) : List Packet → State → StartEnd
  | [], s => .started s
  | k :: ks, s =>
    match launchTry s k within with
    | (_, .refused c) => .refused c
    | (s, .grid r) =>
      let s := startGrid (markStarted s k.ref) r
      if r.kind == .task || !place then startLaunches others within place ks s
      else if !unitsLeft s r.part r.uid r.tg then .halt s
      else
        match if (aheadTeams s r.part).any (fun q => (placeAhead s q.1 q.2).isSome) || others.any (fun e => acceptOrder s e < acceptOrder s r && (placeNext s e).isSome) then none else placeNext s r with
        | some s => if (s.teams.any (fun t => t.grid == r.uid)) then startLaunches others within place ks s else .wait
        | none => .wait
/-- Starts the LXRUN members. -/
def startRuns (first : Option Group) : List Packet → State → StartEnd
  | [], s => .started s
  | k :: ks, s =>
    match lxrunStart s k (if bit (pq k.words 2) 10 then first else none) with
    | .started s => startRuns first ks s
    | e => e
/-- The group that attached programs belong to: group 0 of team 0 of the first LAUNCH. -/
def attachGroup (s : State) (ms : List Packet) : Option Group :=
  (ms.find? (fun m => m.type == 1)).bind (fun m => (s.grids.find? (fun r => r.packet == m.ref)).bind (fun r => firstGroup s r.uid))
/-- Starts the members on these cores. -/
def bundleOn (s : State) (k : Packet) (ms : List Packet) (within : BitVec 192) : StartEnd :=
  let launches := ms.filter (fun m => m.type == 1)
  match startLaunches [] within false launches s with
  | .refused c => .refused c
  | _ =>
    match startLaunches (s.grids.filter (fun r => r.part == k.ref.part)) within true launches s with
    | .started s => (match startRuns (attachGroup s ms) (ms.filter (fun m => m.type == 3)) s with
        | .started s => .started (markStarted s k.ref)
        | e => e)
    | .halt _ => .halt (imageFault s k.ref.part)
    | e => e
/-- The first of these that has started or stops the partition, else one that waits, else the last. -/
def bestStart (a b : StartEnd) : StartEnd :=
  match a, b with
  | .started s, _ => .started s
  | .halt s, _ => .halt s
  | .wait, .started s => .started s
  | .wait, .halt s => .halt s
  | .wait, _ => .wait
  | .refused _, b => b
/-- With COLOC every member goes to the same cluster, the lowest that takes them all at once: DESIGN CHOICE, the spec does not say how the
clusters are chosen (R337; log entry 106). -/
def bundleStart (s : State) (k : Packet) : StartEnd :=
  let ms := membersOf s k
  if bit (pq k.words 1) 0 then
    match sharedClusters s ms with
    | [] => .refused 4
    | c :: cs => cs.foldl (fun e c => bestStart e (bundleOn s k ms (clusterCores (2 ^ c)))) (bundleOn s k ms (clusterCores (2 ^ c)))
  else bundleOn s k ms (BitVec.allOnes 192)
/-- A refused bundle starts none of its members: they are dropped with it. -/
def refuseBundle (s : State) (k : Packet) (code : Nat) : State :=
  let ms := (membersOf s k).map (·.ref)
  completePacket { s with packets := s.packets.filter (fun x => !ms.contains x.ref) } k.ref code
def execBundle (p : PacketRef) (s : State) : Host.Outcome State Fault Refusal :=
  .next (onStart s p 2 (fun k =>
    match bundleStart s k with
    | .wait => s
    | .refused c => refuseBundle s k c
    | .started t => t
    | .halt t => t))

/-! ### WAITMEM (R337) -/

/-- The condition of a WAITMEM on a word. -/
def waitMet (ws : List DWord) (w : Nat) : Bool :=
  let m := (dw w &&& ws.getD 3 0).toNat
  let v := pq ws 2
  match bits (pq ws 4) 0 3 with
  | 0 => m == v
  | 1 => m != v
  | 2 => m < v
  | 3 => v ≤ m
  | 4 => (dw m &&& dw v).toNat != 0
  | _ => (dw m &&& dw v).toNat == 0
/-- Looks at the word as an acquire at the packet's scope. -/
def waitLook (s : State) (k : Packet) : State :=
  match vcpRead s { part := k.ref.part, packet := some k.ref } (k.words.getD 1 0) 8 (bits (pq k.words 4) 4 4) with
  | .done s w => if waitMet k.words w then completePacket s k.ref 0 else s
  | .fault s => completePacket s k.ref 1
  | .away s => s
def execWaitmem (p : PacketRef) (s : State) : Host.Outcome State Fault Refusal :=
  .next (onStart s p 4 (fun k => waitLook (markStarted s p) k))
/-- A WAITMEM that waits, with no request of it on its way. -/
def onWaiting (s : State) (p : PacketRef) (f : Packet → State) : State :=
  match s.packet? p with
  | some k => if k.type = 4 && k.state == .started && vcpRuns s p.part && (s.part p.part).qState p.queue != 3 then f k else s
  | none => s
def requestOut (s : State) (p : PacketRef) : Bool := s.remotes.any (fun o => o.packet == some p)
def execWaitmemReread (p : PacketRef) (s : State) : Host.Outcome State Fault Refusal :=
  .next (onWaiting s p (fun k => if requestOut s p then s else waitLook s k))
/-- The timeout in µs has passed; 0 stands for never. -/
def waitmemDue (s : State) (k : Packet) : Bool := pq k.words 5 != 0 && k.since.toNat + pq k.words 5 * usCycles ≤ s.clock.toNat
def execWaitmemTimeout (p : PacketRef) (s : State) : Host.Outcome State Fault Refusal :=
  .next (onWaiting s p (fun k =>
    if waitmemDue s k then completePacket { s with remotes := s.remotes.filter (fun o => o.packet != some p) } p 7 else s))

/-! ### SIGNAL, TIMESTAMP, PATCH (R337, R341, R345) -/

def execSignal (p : PacketRef) (s : State) : Host.Outcome State Fault Refusal :=
  .next (onStart s p 5 (fun k =>
    if writesOut s then s
    else packetAccess p (vcpWrite s { part := p.part, packet := some p } (pq k.words 3) (k.words.getD 1 0) (pq k.words 2)
      (some (completionSig s p.part)) (releaseScope s ⟨p.part, p.queue⟩ (pq k.words 0)))))
def execTimestamp (p : PacketRef) (s : State) : Host.Outcome State Fault Refusal :=
  .next (onStart s p 8 (fun k =>
    packetAccess p (vcpWrite s { part := p.part, packet := some p } 0 (k.words.getD 1 0) s.clock.toNat none 8)))
/-- A PATCH is performed when it is accepted: later submissions of the object see it. -/
def execPatch (p : PacketRef) (s : State) : Host.Outcome State Fault Refusal :=
  .next (match s.packet? p with
    | some k =>
      if k.type = 7 && k.state == .waiting && vcpRuns s p.part then
        let x : GraphPatch := { obj := k.words.getD 1 0, node := pq k.words 2, quad := pq k.words 3, value := k.words.getD 4 0,
                                bytes := BitVec.ofNat 8 (pq k.words 5) }
        completePacket (s.modPart p.part (fun q => { q with patches := q.patches ++ [x] })) p 0
      else s
    | none => s)

/-! ### GRAPH (R344, R345) -/

/-- A GRAPH packet submits its replay: the object's current version and the parameters are copied. -/
def execGraph (p : PacketRef) (s : State) : Host.Outcome State Fault Refusal :=
  .next (match s.packet? p with
    | some k =>
      if k.type = 6 && k.state == .waiting && !k.submitted && vcpRuns s p.part then
        (match readGraph s p.part p.queue k.words with
         | (s, .nodes l reent) => s.modPacket p (fun x => { x with nodes := l, reent := reent, submitted := true, ctx := launchQuads s p.part })
         | (s, .status c) => completePacket s p c
         | (s, .nesting) => completePacket s p 2)
      else s
    | none => s)
/-- A replay of the same object that was submitted earlier has not completed. -/
def replayBefore (s : State) (k : Packet) : Bool :=
  (s.packets.takeWhile (fun x => x.ref != k.ref)).any (fun x =>
    x.ref.part == k.ref.part && x.type == 6 && x.state != .complete && x.words.getD 1 0 == k.words.getD 1 0)
def execGraphReplayStart (p : PacketRef) (s : State) : Host.Outcome State Fault Refusal :=
  .next (onStart s p 6 (fun k =>
    if !k.submitted || (!k.reent && replayBefore s k) then s
    else
      let s := k.nodes.zipIdx.foldl (fun s q => addPacket s { p with sub := 1 + q.2 } q.1 k.ctx .waiting 0) (markStarted s p)
      s.modPacket p (fun x => { x with nodes := [] })))

/-! ### RESERVE (R369) -/

/-- No group of a grid without RSV is left on the cores. -/
def coresClear (s : State) (m : BitVec 192) : Bool :=
  s.groups.all (fun g => !m.getLsbD g.core || !teamOnCores s g.team || (match s.grid? g.grid with | some r => r.rsv | none => true))
/-- Reserves the cores, and completes once the last group of another grid has left them. -/
def execReserve (p : PacketRef) (s : State) : Host.Outcome State Fault Refusal :=
  .next (match s.packet? p with
    | some k =>
      if k.type != 9 || pq k.words 4 != 0 then s
      else
        let m := reserveCores k.words
        let s := if startable s k then (markStarted s p).modPart p.part (fun q => { q with reserved := q.reserved ||| m, releasing := q.releasing &&& ~~~m })
          else s
        match s.packet? p with
        | some k => if k.state == .started && vcpRuns s p.part && coresClear s m then completePacket s p 0 else s
        | none => s
    | none => s)
/-- Cores that groups of RSV grids stand on. -/
def rsvCores (s : State) : BitVec 192 :=
  coreMask ((s.groups.filter (fun g => match s.grid? g.grid with | some r => r.rsv | none => false)).map (·.core))
/-- Returns the cores; those on which an RSV grid still runs become ordinary once it retires. -/
def execReserveRelease (p : PacketRef) (s : State) : Host.Outcome State Fault Refusal :=
  .next (onStart s p 9 (fun k =>
    if pq k.words 4 = 0 then s
    else
      let m := reserveCores k.words
      let s := s.modPart p.part (fun q =>
        { q with reserved := q.reserved &&& ~~~m, releasing := q.releasing ||| (q.reserved &&& m &&& rsvCores s) })
      completePacket s p 0))

/-! ### TUNOP (R337) -/

def tunopAgent (s : State) (k : Packet) : Agent :=
  { ctx := packetCtx k (pq k.words 3), paired := false, writer := .here k.ref.part (k.ctx.getD 4 0), group := 0,
    na := fld ((s.part k.ref.part).reg 0x28) 0 16 == 0 }
def execTunopInstall (p : PacketRef) (s : State) : Host.Outcome State Fault Refusal :=
  .next (onStart s p 10 (fun k =>
    if pq k.words 1 != 0 then s
    else if 2 ^ 54 ≤ pq k.words 2 || pq k.words 2 % 128 != 0 then completePacket s p 1
    else installStart (markStarted s p) { agent := tunopAgent s k, group := 0, flight := 0, packet := some p } (k.words.getD 2 0)))
def execTunopFree (p : PacketRef) (s : State) : Host.Outcome State Fault Refusal :=
  .next (onStart s p 10 (fun k =>
    if pq k.words 1 = 0 then s
    else if 4096 ≤ pq k.words 2 then completePacket s p 1
    else
      let s := match s.tun? (pq k.words 2) with
        | some t => if t.part = p.part then freeTun s t else s
        | none => s
      tunopEnd (markStarted s p) (some p) (BitVec.ofNat 12 (pq k.words 2)) 0))

/-! ### Custom packets (R351) -/

/-- A custom packet completes OK with no effect; as a node of a replay it runs its bound program first. -/
def execCustomPacket (p : PacketRef) (s : State) : Host.Outcome State Fault Refusal :=
  .next (match s.packet? p with
    | some k =>
      if !customType k.type || !startable s k then s
      else if p.sub = 0 then completePacket s p 0
      else
        match (boundSlot s p.part k.type).bind (steepIn s p.part) with
        | some st => startRun (markStarted s p) p st true ⟨k.words, k.ctx⟩ 0 []
        | none => completePacket s p 2
    | none => s)

end Sys2Proof.Machine
end

