-- ==== Sys2Proof/Machine/SaveRestore.lean ====
section
/-! DEFINITION. Saving and restoring (R394 to R400): teams, SAVEQ and RESTQ (R347), partition swap. -/

namespace Sys2Proof.Machine

/-! ### Teams (R395, R396) -/

/-- Units that hold a team's scratchpad, accumulator and barrier state (R392; log entry 21). -/
def teamUnits (t : Team) : Nat := ceilDiv (t.scratch + (if t.paired then 2 else 1) * t.acc + 128) 131072
/-- Saves a group: it stops at an instruction boundary, and its image is written; that of an ESCALATED group is complete already, with what
the hypervisor has written there since (R391, R393). -/
def saveGroup (s0 : State) (g : Group) : State :=
  if g.gstate != .resident then s0
  else
    let s := checkImage s0 g.uid
    match s.group? g.uid with
    | some g => let g := { awaitGroup g with gstate := .saved, regTags := 0 }; storeImage (s.setGroup g) g
    | none => s0
/-- The team's scratchpad, accumulators and barrier state go to its units: in no architected layout (R395; log entry 21). -/
def storeUnits (s : State) (part : Nat) (units : List Nat) : State :=
  units.foldl (fun s u => openArea s (imgBase s part + 131072 * u) 131072) s
/-- Saves a team that is on its cores. The units are taken when it is first saved; a record tells when none is free. -/
def saveTeam (s : State) (t : Team) : State :=
  if t.saved then s
  else
    let part := match s.grid? t.grid with | some r => r.part | none => 0
    let s :=
      if !t.units.isEmpty then s
      else if unitsLeft s part t.grid (teamUnits t) then (fun (u : State × List Nat) => u.1.modTeam t.uid (fun x => { x with units := u.2 })) (takeUnits s part (teamUnits t))
      else pfRecord s part (s.part part).slotsUsed.length false cImage 2 0 0
    let s := (teamGroups s t.uid).foldl saveGroup s
    let s := storeUnits s part (match s.team? t.uid with | some x => x.units | none => [])
    s.modTeam t.uid (fun x => { x with saved := true })
/-- Whether every team of a list can be saved: units for those not saved before. -/
def unitsForSave (s : State) (part : Nat) (ts : List Team) : Bool :=
  unitsLeft s part s.uid ((ts.filter (fun t => !t.saved && t.units.isEmpty)).foldl (fun n t => n + teamUnits t) 0)

/-! ### Programs -/

/-- Programs of a partition that meet a condition, with the engines they stand on. -/
def programsOf (s : State) (part : Nat) (f : Program → Bool) : List (EngRef × Program) :=
  s.engines.flatMap (fun e => (e.progs.filter (fun p => p.ctx.part == part && f p)).map (fun p => (⟨e.core, e.eng⟩, p)))
/-- Takes them off their engines. -/
def takePrograms (s : State) (part : Nat) (f : Program → Bool) : State :=
  { s with engines := s.engines.map (fun e => { e with progs := e.progs.filter (fun p => !(p.ctx.part == part && f p)) }) }
/-- Such a program goes on in its turn: at its instruction, a move at unit DELIV (R291, R400). -/
def Program.requeue (p : Program) : Program :=
  { p with state := match p.state with | .faulted f => .faulted f | .ending a b => .ending a b | .remote n => .remote n | _ => .queued }
def putProgram (s : State) (q : EngRef × Program) : State :=
  let e := s.engine q.1
  s.setEngine { e with progs := e.progs ++ [q.2.requeue] }
/-- A remote access of a program is on its way. -/
def programAway (s : State) (q : EngRef × Program) : Bool := s.remotes.any (fun o => ownRemote q.1 q.2 o && !o.finished)

/-! ### SAVEQ and RESTQ (R347) -/

def startedBy (part : Nat) (qs : List Nat) (r : PacketRef) : Bool := r.part == part && qs.contains r.queue
def gridsBy (s : State) (part : Nat) (qs : List Nat) : List Grid := s.grids.filter (fun r => startedBy part qs r.packet)
def teamsBy (s : State) (part : Nat) (qs : List Nat) : List Team :=
  s.teams.filter (fun t => (gridsBy s part qs).any (fun r => r.uid == t.grid))
def programBy (part : Nat) (qs : List Nat) (p : Program) : Bool := match p.packet with | some r => startedBy part qs r | none => false
/-- Runs of the queues that are executing go to their end first; parked ones are abandoned (R358). -/
def runsBusy (s : State) (part : Nat) (qs : List Nat) : Bool := s.runs.any (fun x => startedBy part qs x.ref && x.waitv.isNone)
/-- Parked runs are abandoned: a packet that is not accepted is read again, a node of a replay starts again (R358). -/
def abandonRuns (s : State) (f : SteepRun → Bool) : State :=
  let l := s.runs.filter (fun x => f x && x.waitv.isSome)
  let s := { s with runs := s.runs.filter (fun x => !(l.any (fun y => y.id == x.id))),
                    remotes := s.remotes.filter (fun o => !(l.any (fun y => o.run == some y.id))) }
  l.foldl (fun s x =>
    if x.ref.sub = 0 then s.modVq x.queueRef VcpQueue.settled else s.modPacket x.ref (fun k => { k with state := .waiting })) s
/-- The quadwords of a queue's block. -/
def qBlock (s : State) (part q : Nat) : List DWord := (upTo 8).map (fun i => (s.part part).qReg q i)
/-- Marks a queue SAVED with EN = 0; it reads nothing until it is restored. -/
def markSaved (s : State) (r : QueueRef) : State :=
  let s := s.modPart r.part (fun p => (p.setQField r.queue 1 6 1 0).setQField r.queue 5 0 2 3)
  s.modVq r VcpQueue.settled
/-- The frames of an area of `n` bytes, a 64 KB page each; `none` when one cannot be written. -/
def areaFrames (s : State) (part : Nat) (area : DWord) : Nat → State × Option (List Nat)
  | 0 => (s, some [])
  | n + 1 =>
    match globalCheck s (launchCtx s part (vcpCore part)) needW (area + dw (65536 * n)) 8 with
    | (s, .ok (.plain pa _)) =>
      (match areaFrames s part area n with
       | (s, some l) => (s, some (l ++ [pa]))
       | (s, none) => (s, none))
    | (s, _) => (s, none)
/-- Blocks and context go to the area in no architected layout (R347; log entry 73). -/
def storeSave (s : State) (frames : List Nat) (n : Nat) : State :=
  frames.zipIdx.foldl (fun s q => openArea s q.1 (min 65536 (n - 65536 * q.2))) s
def execSaveq (p : PacketRef) (s : State) : Host.Outcome State Fault Refusal :=
  .next (onStart s p 11 (fun k =>
    let qs := saveQueues k.words
    let area := k.words.getD 1 0
    let ts := teamsBy s p.part qs
    let progs := programsOf s p.part (programBy p.part qs)
    let size := (Config.saveAreaSize qs.length ts.length).toNat
    if pq k.words 2 < size then completePacket s p 9
    else
      match areaFrames s p.part area (max 1 (ceilDiv size 65536)) with
      | (s, none) => completePacket s p 1
      | (s, some frames) =>
        if runsBusy s p.part qs || progs.any (programAway s) then s
        else if !unitsForSave s p.part ts then imageFault s p.part
        else
          let s := abandonRuns s (fun x => startedBy p.part qs x.ref)
          let s := ts.foldl saveTeam s
          let s := ts.foldl (fun s t => s.modTeam t.uid (fun x => { x with heldBySave := true })) s
          let s := takePrograms s p.part (programBy p.part qs)
          let saved : SaveArea := { part := p.part, area := area, queues := qs.map (fun q => (q, qBlock s p.part q)), progs := progs }
          let s := { storeSave s frames size with saves := s.saves.filter (fun x => !(x.part == p.part && x.area == area)) ++ [saved] }
          completePacket (qs.foldl (fun s q => markSaved s ⟨p.part, q⟩) s) p 0))
/-- A queue resumes as its block was saved, ACTIVE with EN = 1, and reads its WPTR afresh. -/
def restoreQueue (s : State) (part : Nat) (q : Nat × List DWord) : State :=
  let r : QueueRef := ⟨part, q.1⟩
  let s := [0, 1, 3, 4, 5, 6].foldl (fun s i => s.modPart part (fun p => p.setQReg q.1 i (q.2.getD i 0))) s
  resumeQueue (s.modPart part (fun p => p.setQField q.1 1 6 1 1)) r
def saveAt (s : State) (part : Nat) (area : DWord) : Option SaveArea := s.saves.find? (fun x => x.part == part && x.area == area)
/-- Each engine has places for the programs that go back to it. -/
def enginesTake (s : State) (l : List (EngRef × Program)) : Bool :=
  l.all (fun q => (s.engine q.1).progs.length + (l.filter (fun x => x.1 == q.1)).length ≤ 8)
def execRestq (p : PacketRef) (s : State) : Host.Outcome State Fault Refusal :=
  .next (onStart s p 12 (fun k =>
    match saveAt s p.part (k.words.getD 1 0) with
    | none => completePacket s p 10
    | some a =>
      if a.queues.any (fun q => (s.part p.part).qState q.1 != 3) then completePacket s p 10
      else if !enginesTake s a.progs then s
      else
        let qs := a.queues.map (·.1)
        let s := { s with saves := s.saves.filter (fun x => !(x.part == a.part && x.area == a.area)) }
        let s := (teamsBy s p.part qs).foldl (fun s t => s.modTeam t.uid (fun x => { x with heldBySave := false })) s
        let s := a.progs.foldl putProgram s
        completePacket (a.queues.foldl (fun s q => restoreQueue s p.part q) s) p 0))

/-! ### Partition swap (R398 to R400) -/

def State.setPState (s : State) (p n : Nat) : State := s.modPart p (fun x => x.setReg 0x70 (dw n))
/-- RUN of PCTL. -/
def State.setRunBit (s : State) (p : Nat) (b : Bool) : State := s.modPart p (fun x => x.setReg 0x00 (dw (setBits (x.reg 0x00).toNat 1 1 (b2n b))))
/-- Another enabled partition holds a core (R386, R398). -/
def coreHeld (s : State) (p : Nat) : Bool :=
  (upTo 16).any (fun q => q != p && (s.part q).en && (s.part q).pstate != 0 && (s.part q).pstate != 3 &&
    ((s.part q).cores &&& (s.part p).cores) != 0#192)
/-- A side memory, and the state with it replaced. -/
def sideMem (s : State) (m : SideMem) : Memory := match m with | .scratch => s.scratch | .acc => s.acc | .die => s.dieScratch
def setSide (s : State) (m : SideMem) (x : Memory) : State :=
  match m with
  | .scratch => { s with scratch := x }
  | .acc => { s with acc := x }
  | .die => { s with dieScratch := x }
/-- Pieces one after another from an address: each (memory, base, size) that is not empty. -/
def packPieces (pa : Nat) : List (SideMem × Nat × Nat) → List SwapPiece
  | [] => []
  | q :: l => if q.2.2 = 0 then packPieces pa l else { mem := q.1, base := q.2.1, pa := pa, size := q.2.2 } :: packPieces (pa + q.2.2) l
def swapBase (s : State) (p : Nat) : Nat := ((s.part p).reg 0x68).toNat
/-- The teams of a partition that stand on a core, and the half of theirs that lies there. -/
def teamsAt (s : State) (p core : Nat) : List (Team × Nat) :=
  ((coreTeams s core).filter (fun t => match s.grid? t.grid with | some r => r.part == p | none => false)).map (fun t => (t, core - t.core))
/-- What the area of the `k`-th core holds: accumulators at 0x10_0000, scratchpads at 0x18_0000, team after team (DESIGN CHOICE: where a team's
allocations lie on its core is not given; log entry 74). -/
def corePieces (s : State) (p : Nat) (q : Nat × Nat) : List SwapPiece :=
  let a := swapBase s p + 0x1C0000 * q.2
  let ts := teamsAt s p q.1
  packPieces (a + 0x100000) (ts.map (fun t => (.acc, (2 * t.1.uid + t.2) * 2 ^ 19, t.1.acc))) ++
  packPieces (a + 0x180000) (ts.map (fun t => (.scratch, t.1.uid * 2 ^ 19 + t.2 * 2 ^ 18, teamScratch t.1 q.1)))
/-- The area of a die: its casks' storage comes first, 64 KB each, then the die allocations (the same mark). -/
def dieBase (s : State) (p d : Nat) : Nat := swapBase s p + 0x1C0000 * (coresList (s.part p).cores).length + 0x2000000 * d
def diePieces (s : State) (p d : Nat) : List SwapPiece :=
  packPieces (dieBase s p d + caskBytes s d)
    ((s.grids.filter (fun r => r.part == p && r.admitted && (gridDies s r).contains d)).map (fun r => (.die, (r.uid * 4 + d) * 2 ^ 25, r.dieAlloc)))
def swapPieces (s : State) (p : Nat) : List SwapPiece :=
  (coresList (s.part p).cores).zipIdx.flatMap (corePieces s p) ++ (upTo 4).flatMap (diePieces s p)
def swapSize (s : State) (p : Nat) : Nat := 0x1C0000 * (coresList (s.part p).cores).length + 0x8000000
/-- The 16 bytes of a cask entry (R236). -/
def entryBytes (e : CaskEntry) : Nat := e.w0.toNat + 2 ^ 64 * e.lo.toNat + 2 ^ 96 * e.hi.toNat
/-- The on-chip entries of the partition's casks on a die. -/
def storeCasks (s : State) (p d : Nat) : State :=
  (s.casks.filter (fun c => c.num / 256 == d)).zipIdx.foldl (fun s q =>
    if q.1.part != p then s
    else q.1.chip.zipIdx.foldl (fun s e =>
      { s with hbm := memWriteNat s.hbm (dieBase s p d + 65536 * q.2 + 16 * e.2) 16 (entryBytes e.1) }) s) s
/-- The operator memory of the `k`-th core, in no architected layout where it holds a tun (R65). -/
def storeOperators (s : State) (p : Nat) (q : Nat × Nat) : State :=
  if s.tuns.any (fun t => t.cores.contains q.1) then openArea s (swapBase s p + 0x1C0000 * q.2) 0x100000 else s
/-- The swap area lies in the partition's HBM range, as the hypervisor must see to (R398). -/
def swapFits (s : State) (p : Nat) : Bool :=
  ((s.part p).reg 0x30).toNat ≤ swapBase s p && swapBase s p + swapSize s p ≤ ((s.part p).reg 0x38).toNat
/-- Writes the swap area: zero where nothing of the partition lies. -/
def storeSwap (s : State) (p : Nat) : State :=
  if !swapFits s p then s
  else
    let l := swapPieces s p
    let s := { s with hbm := memClear s.hbm (swapBase s p) (swapSize s p) }
    let s := (coresList (s.part p).cores).zipIdx.foldl (fun s q => storeOperators s p q) s
    let s := (upTo 4).foldl (fun s d => storeCasks s p d) s
    let s := l.foldl (fun s x => { s with hbm := memMove s.hbm x.pa (sideMem s x.mem) x.base x.size }) s
    s.modPart p (fun x => { x with swap := l })
/-- Reads it back (R399). -/
def loadSwap (s : State) (p : Nat) : State :=
  ((s.part p).swap.foldl (fun s x => setSide s x.mem (memMove (sideMem s x.mem) x.base s.hbm x.pa x.size)) s).modPart p (fun x => { x with swap := [] })
/-- Runs of the partition that are executing go to their end first; those in WAITV are abandoned (R358). -/
def runsGoOn (s : State) (p : Nat) : Bool := s.runs.any (fun x => x.ref.part == p && x.waitv.isNone)
/-- RUN := 0 on a running partition: STOPPING. The VCP reads nothing more; what it had read and not accepted, then or by a run that ends while the
partition is STOPPING, is read again (R346). -/
def swapBegin (s : State) (p : Nat) : State :=
  ((s.setRunBit p false).setPState p 2).modPart p (fun x => { x with stoppedAt := s.clock, vcp := x.vcp.map (fun v => { v with held := none }) })
/-- The rest of a swap-out, once no run executes: every team is saved, engines stop, the swap area is written, every L1 is written back. -/
def swapEnd (s : State) (p : Nat) : State :=
  let s := storeSwap s p
  let ts := s.teams.filter (fun t => match s.grid? t.grid with | some r => r.part == p | none => false)
  let s := ts.foldl saveTeam s
  let progs := programsOf s p (fun _ => true)
  let s := takePrograms s p (fun _ => true)
  let s := (coresList (s.part p).cores).foldl cleanCore s
  (s.modPart p (fun x => { x with progs := progs, vcp := x.vcp.map (fun v => { v with held := none }) })).setPState p 3
/-- A swap-out begins, or goes on while the partition is STOPPING. -/
def swapOut (s : State) (p : Nat) : State :=
  if (s.part p).running then swapBegin s p
  else if (s.part p).pstate != 2 then s
  else
    let s := abandonRuns s (fun x => x.ref.part == p)
    if runsGoOn s p then s else swapEnd s p
/-- Timers that did not run while the partition was stopped: fills, stale headers, parked node runs (R133, R346). -/
def shiftTimers (s : State) (p : Nat) : State :=
  let d := s.clock - (s.part p).stoppedAt
  let slot (x : TunSlot) : TunSlot :=
    { x with since := if x.since.toNat ≤ (s.part p).stoppedAt.toNat then x.since + d else s.clock }
  let tun (t : Tun) : Tun := if t.part = p then { t with slots := t.slots.map slot } else t
  let run (x : SteepRun) : SteepRun := if x.ref.part = p then { x with waitv := x.waitv.map (· + d) } else x
  let queue (v : VcpQueue) : VcpQueue := { v with firstRead := v.firstRead.map (· + d), firstMember := v.firstMember.map (fun q => (q.1, q.2 + d)) }
  ({ s with tuns := s.tuns.map tun, runs := s.runs.map run }).modPart p (fun x => { x with vcp := x.vcp.map queue })
/-- Kicks, restarts and skips recorded while the partition was stopped (R346). -/
def recordedOps (s : State) (r : QueueRef) : State :=
  (s.vq r).ops.foldl (fun s o => if o = 1 then restartNow s r else skipNow s r) (s.modVq r (fun v => { v with ops := [] }))
def recordedKicks (s : State) (p : Nat) : State :=
  let s := ((s.part p).vcp.map (·.queue)).foldl (fun s q => recordedOps s ⟨p, q⟩) s
  ((s.part p).vcp.filter (·.kicked)).foldl (fun s v => kickNow s ⟨p, v.queue⟩) s
def execSwapOut (part : Nat) (s : State) : Host.Outcome State Fault Refusal := .next (swapOut s part)
/-- RUN := 1 on a swapped partition: STARTING; refused while another partition holds one of its cores. -/
def swapInBegin (s : State) (part : Nat) : State :=
  if !(s.part part).en || coreHeld s part || !enginesTake s (s.part part).progs then s
  else (s.setRunBit part true).setPState part 4
/-- The rest of a swap-in: its memories and programs are back, its timers go on, and it runs. -/
def swapInEnd (s : State) (part : Nat) : State :=
  let s := (s.part part).progs.foldl putProgram (shiftTimers (loadSwap s part) part)
  let s := s.modPart part (fun x => { x with progs := [] })
  recordedKicks (s.setPState part 1) part
def execSwapIn (part : Nat) (s : State) : Host.Outcome State Fault Refusal :=
  .next (
    if s.boot != .running then s
    else if (s.part part).pstate = 3 then swapInBegin s part
    else if (s.part part).pstate = 4 then swapInEnd s part
    else s)
/-- RUN := 1 on a stopped partition starts it with nothing saved. -/
def execPartitionStart (part : Nat) (s : State) : Host.Outcome State Fault Refusal :=
  .next (
    if s.boot != .running || !(s.part part).en || (s.part part).pstate != 0 || coreHeld s part then s
    else recordedKicks ((s.setRunBit part true).setPState part 1) part)

end Sys2Proof.Machine
end

