-- ==== Sys2Proof/Machine/Hypervisor.lean ====
section
/-! DEFINITION. The hypervisor's controls (R383 to R387, R391, R392, R398, R405, R420): creating and destroying partitions, WAYMASK, GCTL,
writes of registers and of second-stage tables. -/

namespace Sys2Proof.Machine

/-! ### Casks of a partition (R237, R385) -/

def caskRange (p : Partition) : List Nat := (upTo 1024).filter p.hasCask
/-- Casks newly assigned are empty, with cellars of a size the supervisor supplies; casks no longer assigned are gone. A cask that another enabled
partition holds stays with its holder, entries and all: DESIGN CHOICE, R385 and R386 give no outcome for such a write (log entry 121). -/
def assignCasks (s : State) (part : Nat) : State :=
  let p := s.part part
  let s := { s with casks := s.casks.filter (fun c => c.part != part || p.hasCask c.num) }
  (caskRange p).foldl (fun s n =>
    if (s.cask? n).isSome then s
    else { s.takeFree.2 with casks := s.casks ++ [{ num := n, part := part, cap := s.takeFree.1.toNat % (2 ^ 24 + 1) }] }) s

/-! ### Enabling (R386, R392, R405) -/

def qRange (p : Partition) : Nat × Nat := (fld (p.reg 0x40) 0 8, p.qcount)
def tunRange (p : Partition) : Nat × Nat := (fld (p.reg 0x48) 0 12, fld (p.reg 0x48) 12 12)
def caskSpan (p : Partition) : Nat × Nat := (fld (p.reg 0x50) 0 16, fld (p.reg 0x50) 16 16)
/-- Two ranges share a number; an empty one shares none. -/
def spansMeet (a b : Nat × Nat) : Bool := a.2 != 0 && b.2 != 0 && a.1 < b.1 + b.2 && b.1 < a.1 + a.2
/-- Queues, tun numbers, casks or a valid job key that another enabled partition holds, whether or not this one's own key is valid (R405). -/
def claimsMeet (p q : Partition) : Bool :=
  spansMeet (qRange p) (qRange q) || spansMeet (tunRange p) (tunRange q) || spansMeet (caskSpan p) (caskSpan q) ||
  ((q.reg 0x78).getLsbD 32 && fld (p.reg 0x78) 0 32 == fld (q.reg 0x78) 0 32)
/-- The Kiln refuses to set EN. -/
def enableRefused (s : State) (part : Nat) : Bool :=
  let p := s.part part
  let lo := fld (p.reg 0x30) 0 48
  let hi := fld (p.reg 0x38) 0 48
  coreHeld s part || (upTo 16).any (fun q => q != part && (s.part q).en && claimsMeet p (s.part q)) || hi ≤ lo || hbmEnd < hi ||
  fld (p.reg 0x58) 0 48 < lo || hi < fld (p.reg 0x60) 0 48
/-- The device-register page of a new partition. -/
def freshPage (p : Partition) : Memory := memWriteNat (memWriteNat [] 0x10 8 (fld (p.reg 0x28) 0 16)) 0x18 8 p.qcount
/-- A partition at its start: the hypervisor's block, everything else at reset, STOPPED. -/
def freshPartition (p : Partition) : Partition :=
  ({ block := p.block, dev := freshPage p : Partition }.setReg 0x00 1).setReg 0x70 0
def execPartitionEnable (part : Nat) (s : State) : Host.Outcome State Fault Refusal :=
  .next (
    if s.boot != .running || 16 ≤ part || (s.part part).en || enableRefused s part then s
    else assignCasks (s.modPart part freshPartition) part)

/-! ### Destroying (R387) -/

/-- The partition's grids with their teams and groups, programs, packets and steeps are discarded. -/
def discardWork (s : State) (part : Nat) : State :=
  let grids := (s.grids.filter (fun r => r.part == part)).map (·.uid)
  let teams := (s.teams.filter (fun t => grids.contains t.grid)).map (·.uid)
  let groups := (s.groups.filter (fun g => groupPart g == part)).map (·.uid)
  let s := takePrograms s part (fun _ => true)
  { s with
    groups := s.groups.filter (fun g => !groups.contains g.uid)
    teams := s.teams.filter (fun t => !teams.contains t.uid)
    grids := s.grids.filter (fun r => !grids.contains r.uid)
    scratch := teams.foldl (fun m t => memClear m (t * 2 ^ 19) (2 ^ 19)) s.scratch
    acc := teams.foldl (fun m t => memClear m (t * 2 ^ 20) (2 ^ 20)) s.acc
    dieScratch := grids.foldl (fun m r => memClear m (r * 2 ^ 27) (2 ^ 27)) s.dieScratch
    draws := s.draws.filter (fun d => !groups.contains d.group)
    engines := s.engines.map (fun e => { e with finished := e.finished.filter (fun x => x.part != part) })
    remotes := s.remotes.filter (fun o => !groups.contains o.group && (match o.packet with | some r => r.part != part | none => true) &&
      (match o.run with | some i => (match s.run? i with | some x => x.ref.part != part | none => false) | none => true))
    packets := s.packets.filter (fun k => k.ref.part != part)
    runs := s.runs.filter (fun x => x.ref.part != part)
    steeps := s.steeps.filter (fun x => x.part != part)
    bindings := s.bindings.filter (fun b => b.1 != part)
    saves := s.saves.filter (fun x => x.part != part)
    redt := s.redt.filter (fun w => !(w.src[0]? == some s.devid.toNat && w.src[1]? == some part)) }
/-- The partition's cores keep nothing of it: their caches are written back and emptied. -/
def clearCores (s : State) (part : Nat) : State :=
  let p := s.part part
  let s := (coresList p.cores).foldl flushCore s
  { s with caches := s.caches.filter (fun c => !p.hasCore c.core) }
def execPartitionDestroy (part : Nat) (s : State) : Host.Outcome State Fault Refusal :=
  .next (
    let p := s.part part
    if s.boot != .running || !p.en || (p.reg 0x00).getLsbD 1 then s
    else
      let s := discardWork s part
      let s := (s.tuns.filter (fun t => t.part == part)).foldl freeTun s
      let s := { s with casks := s.casks.filter (fun c => c.part != part), tlb := s.tlb.filter (fun e => e.part != part) }
      let s := clearCores s part
      s.modPart part (fun p => ({ block := p.block : Partition }.setReg 0x00 0).setReg 0x70 0))

/-! ### WAYMASK (R386) -/

/-- Lines allocated later go to these ways of the L2, which holds no data of its own in this model; the page shows the mask. -/
def execWaymaskWrite (part : Nat) (mask : DWord) (s : State) : Host.Outcome State Fault Refusal :=
  .next (
    if s.boot != .running || 16 ≤ part then s
    else
      let m := mask &&& 0xFFFF#64
      s.modPart part (fun p => (if p.en then p.setDevReg 0x10 m else p).setReg 0x28 m))

/-! ### GCTL (R391, R393) -/

/-- The group of a slot that is stopped for the hypervisor. -/
def stoppedGroup (s : State) (part slot : Nat) : Option Group :=
  s.groups.find? (fun g => groupPart g == part && g.slot == slot && g.gstate == .escalated)
/-- The group goes on with S and V as its image holds them. -/
def resumeGroup (s : State) (g : Group) : State :=
  if !imageIntact s g then imageTampered s g
  else
    let away := !teamOnCores s g.team
    let g := { loadRegs s g with gstate := if away then .saved else .resident, escalatedSplit := none }
    storeHeader (noteImage (s.setGroup g) g.uid) g (gstateCode g.gstate)
def execGctlResume (part slot : Nat) (s : State) : Host.Outcome State Fault Refusal :=
  .next (match stoppedGroup s part slot with | some g => resumeGroup s g | none => s)
def execGctlRetire (part slot : Nat) (s : State) : Host.Outcome State Fault Refusal :=
  .next (match stoppedGroup s part slot with | some g => retireGroup s g.uid | none => s)
/-- A lauter program stopped for the hypervisor executes its instruction again. -/
def execGctlEngineResume (part slot : Nat) (s : State) : Host.Outcome State Fault Refusal :=
  .next (
    let r : EngRef := ⟨slot / 2, slot % 2⟩
    match s.prog? r with
    | some p =>
      (match p.state with
       | .faulted f => if f.hyp && p.ctx.part == part then resumeProgram s r p else s
       | _ => s)
    | none => s)

/-! ### Register writes (R6, R328, R331, R385, R391, R392, R398, R405, R420) -/

/-- The RW bits of a partition block's quadword, for fields without a row of their own. -/
def blockMask (off : Nat) : DWord :=
  match off / 8 with
  | 1 | 2 | 3 | 4 => -1#64
  | 6 | 7 | 11 | 12 | 13 | 16 | 17 | 18 => 0xFFFFFFFFFFFF#64
  | 8 => 0xFF00FF#64
  | 9 => 0x1FFFFFF#64
  | 10 => 0xFFFFFFFF#64
  | 15 => 0x1FFFFFFFF#64
  | _ => 0
/-- A write of a partition block while RUN = 0; CORES stays while the partition is swapped out. -/
def blockWrite (s : State) (part off : Nat) (v : DWord) : State :=
  let p := s.part part
  let q := off / 8 * 8
  if 16 ≤ part || 0x98 ≤ off || (p.reg 0x00).getLsbD 1 || (p.pstate == 3 && 0x10 ≤ q && q ≤ 0x20) then s
  else
    let s := s.modPart part (fun p => p.setReg q (maskedWrite (p.reg q) v (blockMask q)))
    let s := if p.en && (q = 0x40 || q = 0x48) then s.modPart part (fun p => p.setDevReg 0x18 (dw p.qcount)) else s
    if p.en && q = 0x50 then assignCasks s part else s
def kilnWrite (s : State) (off : Nat) (v : DWord) : State :=
  match off / 8 * 8 with
  | 0x100 => { s with kiln := { s.kiln with pfbase := v &&& 0xFFFFFFFF0000#64 } }
  | 0x200 => { s with kiln := { s.kiln with rasbase := v &&& 0xFFFFFFFF8000#64 } }
  | 0x210 => { s with kiln := { s.kiln with nodedup := s.kiln.nodedup &&& ~~~v } }
  | 0x218 => { s with kiln := { s.kiln with porterr := s.kiln.porterr &&& ~~~v } }
  | _ => s
def execRegisterWrite (r : RegRef) (v : DWord) (s : State) : Host.Outcome State Fault Refusal :=
  .next (
    if s.boot != .running then s
    else match r with
      | .kiln off => kilnWrite s off v
      | .block part off => blockWrite s part off v
      | .mailbox part port off => if 16 ≤ part || 8 ≤ port || 65536 ≤ off then s else mailboxWrite s part port off 8 v.toNat
      | .devreg part off => if 16 ≤ part || 65536 ≤ off then s else devPageWrite s part (off / 8 * 8) 8 v.toNat)

/-! ### Second-stage tables (R383) -/

/-- The Kiln writes an entry; every copy of it is dropped before the write completes. -/
def s2Write (s : State) (q : Nat × DWord) : State := shootdown (kilnStore s q.1 8 q.2.toNat) q.1 8
/-- The write waits while an access that translated through the old entry is on its way to another device, and behind earlier writes. -/
def execSecondStageTableWrite (addr : Nat) (v : DWord) (s : State) : Host.Outcome State Fault Refusal :=
  .next (
    let a := addr / 8 * 8
    if s.boot != .running || hbmEnd < a + 8 then s
    else if !s.kiln.s2writes.isEmpty || remapBusy s [(a, 8)] then { s with kiln := { s.kiln with s2writes := s.kiln.s2writes ++ [(a, v)] } }
    else s2Write s (a, v))
/-- Writes that need not wait any longer, in order. -/
def s2Again : List (Nat × DWord) → State → State
  | [], s => { s with kiln := { s.kiln with s2writes := [] } }
  | q :: qs, s => if remapBusy s [(q.1, 8)] then { s with kiln := { s.kiln with s2writes := q :: qs } } else s2Again qs (s2Write s q)

end Sys2Proof.Machine
end

