-- ==== Sys2Proof/Machine/Scheduler.lean ====
section
/-! DEFINITION. The scheduler's rows (R237, R360, R366 to R369): taking task entries, fill delays, placing teams, retiring grids. -/

namespace Sys2Proof.Machine

/-! ### Casks (R237) -/

def execCellarMove (cask : Nat) (s : State) : Host.Outcome State Fault Refusal :=
  .next (if s.boot == .running then s.modCask cask Cask.refill else s)

/-! ### Task entries (R366, R367) -/

/-- The grid may be worked on: its partition runs and its queue is not saved. -/
def gridRuns (s : State) (r : Grid) : Bool := vcpRuns s r.part && (s.part r.part).qState r.packet.queue != 3
/-- The PC of an entry index, read from the entry table in the grid's context; one that cannot be read is open. -/
def entryPc (s : State) (r : Grid) (e : Nat) : State × DWord :=
  let c : Ctx := { core := vcpCore r.part, part := r.part, asid := r.asid &&& 0xFFFF#64, ptroot := r.ptroot, sup := true, wkey := r.wkey,
                   grid := none, team := none }
  match globalCheck s c needR (r.kernarg + dw (8 * e)) 8 with
  | (s, .ok (.plain pa _)) => (s, dw (homeRead s pa 8))
  | (s, _) => (s.takeFree.2, s.takeFree.1)
/-- A complete group joins the forming team of its entry index, which is ready with TG groups. -/
def joinTeam (r : Grid) (now : DWord) (e : Nat) (ts : List Task) : Grid :=
  match r.formingTeams.find? (fun f => f.entry == e && !f.ready) with
  | some f =>
    let f' := { f with groups := f.groups ++ [ts], ready := r.tg ≤ f.groups.length + 1 }
    { r with formingTeams := r.formingTeams.map (fun x => if x == f then f' else x) }
  | none => { r with formingTeams := r.formingTeams ++ [{ entry := e, groups := [ts], since := now, ready := r.tg ≤ 1 }] }
/-- A task joins the forming group of its entry index; at GWIDTH lanes the group is complete. -/
def joinGroup (r : Grid) (now : DWord) (e : Nat) (t : Task) : Grid :=
  let f := (r.forming.find? (fun f => f.entry == e)).getD { entry := e, tasks := [], since := now }
  let ts := f.tasks ++ [t]
  let rest := r.forming.filter (fun x => x.entry != e)
  if r.width ≤ ts.length then joinTeam { r with forming := rest } now e ts
  else { r with forming := rest ++ [{ f with tasks := ts }] }
/-- No entry is taken while NT teams are resident and a complete group waits for every index that has a forming one. -/
def takingStops (s : State) (r : Grid) : Bool :=
  r.nt ≤ residentTeams s r && !r.formingTeams.isEmpty && r.forming.all (fun f => r.formingTeams.any (fun t => t.entry == f.entry))
def takeEntry (s : State) (r : Grid) (c : Cask) : State :=
  match c.chip with
  | [] => s
  | e :: es =>
    let i := bits e.w0.toNat 0 16
    let q := entryPc (s.modCask c.num (fun x => { x with chip := es })) r i
    q.1.modGrid r.uid (fun x => joinGroup x s.clock i { pc := q.2, lo := e.lo, hi := e.hi, scope := e.scope, sig := e.sig })
def execTaskEntryTake (grid : Nat) (cask : Nat) (s : State) : Host.Outcome State Fault Refusal :=
  .next (match s.grid? grid, s.cask? cask with
    | some r, some c =>
      if r.kind == .task && r.admitted && gridRuns s r && r.casks.contains cask && !takingStops s r then takeEntry s r c else s
    | _, _ => s)

/-- A fill delay that began at a CLOCK is over. -/
def delayOver (s : State) (r : Grid) (since : DWord) : Bool := since.toNat + r.fillDelay * usCycles ≤ s.clock.toNat
/-- An entry of this index stands at the head of a bound cask. -/
def atHead (s : State) (r : Grid) (e : Nat) : Bool :=
  r.casks.any (fun n => match s.cask? n with
    | some c => (match c.chip with | x :: _ => bits x.w0.toNat 0 16 == e | [] => false)
    | none => false)
/-- The forming group of an index is complete as it is; its forming team is ready as it is. -/
def groupDue (s : State) (r : Grid) (f : Forming) : Bool := if r.fillDelay = 0 then !atHead s r f.entry else delayOver s r f.since
def expire (s : State) (r : Grid) (e : Nat) : Grid :=
  let r := match r.forming.find? (fun f => f.entry == e && groupDue s r f) with
    | some f => joinTeam { r with forming := r.forming.filter (fun x => x.entry != e) } s.clock e f.tasks
    | none => r
  { r with formingTeams := r.formingTeams.map (fun f => if f.entry == e && delayOver s r f.since then { f with ready := true } else f) }
def execFillDelayExpiry (grid : Nat) (entry : Nat) (s : State) : Host.Outcome State Fault Refusal :=
  .next (match s.grid? grid with
    | some r => if r.kind == .task && gridRuns s r then s.modGrid grid (fun _ => expire s r entry) else s
    | none => s)

/-! ### Teams and grids (R360, R368, R369) -/

def execTeamPlacement (grid : Nat) (s : State) : Host.Outcome State Fault Refusal :=
  .next (match s.grid? grid with | some r => placeStep s r | none => s)
/-- Nothing of the grid is left to run. -/
def gridOver (s : State) (r : Grid) : Bool :=
  r.admitted && !s.teams.any (fun t => t.grid == r.uid) &&
  (if r.kind == .task then
    r.forming.isEmpty && r.formingTeams.isEmpty &&
      r.casks.all (fun n => match s.cask? n with | some c => c.chip.isEmpty && c.cellar.isEmpty | none => true)
   else r.nt ≤ r.nextTeam)
/-- The grid leaves: its casks are unbound, its die allocation and its REDT windows end, returned cores become ordinary. Windows of
sources on other devices end by `Action.sourceOver` (log entry 110). -/
def removeGrid (s : State) (r : Grid) : State :=
  let s := r.casks.foldl (fun s n => s.modCask n (fun c => { c with bound := none })) s
  let s := { s with grids := s.grids.filter (fun x => x.uid != r.uid), dieScratch := memClear s.dieScratch (r.uid * 2 ^ 27) (2 ^ 27),
                    redt := s.redt.filter (fun w => !(w.src.take 3 == [s.devid.toNat, r.part, r.gridid.toNat])) }
  if r.rsv then s.modPart r.part (fun p => { p with releasing := p.releasing &&& rsvCores s }) else s
def execGridRetirement (grid : Nat) (s : State) : Host.Outcome State Fault Refusal :=
  .next (match s.grid? grid with
    | some r => if gridOver s r && gridRuns s r then completePacket (removeGrid s r) r.packet 0 else s
    | none => s)

end Sys2Proof.Machine
end

