-- ==== Sys2Proof/Machine/FabricHome.lean ====
section
/-! DEFINITION. What arrives over the fabric (R403 to R411): host requests through mailbox windows (R328, R411), requests of other Akzans
(R407, R136, R226), packets for unreliable delivery (R403). -/

namespace Sys2Proof.Machine

/-! ### Agents outside the device -/

/-- The numbers that stand for a fabric port's hosts and for another device in signatures and translations; no core has them. -/
def portCore (port : Nat) : Nat := 1200 + port
def deviceCore (src : BitVec 32) : Nat := 4096 + src.toNat
/-- The enabled partition that takes part in the fabric under a job key. -/
def jobPart (s : State) (key : BitVec 32) : Option Nat :=
  (upTo 16).find? (fun p => (s.part p).en && jobValid s p && jobKey s p == key)

/-! ### Host requests (R89, R328, R411) -/

def say (s : State) (m : FabricMsg) : State := { s with egress := s.egress ++ [m] }
/-- The partition a host request goes to: the window of its port accepts requests. -/
def hostPart (s : State) (h : HostRef) : Option Nat :=
  match jobPart s h.key with
  | some p => if s.boot == .running && (s.mailbox p h.port).en then some p else none
  | none => none
/-- Host requests translate in the window's address space, and U is not checked. -/
def hostCtx (s : State) (part port : Nat) : Ctx :=
  { core := portCore port, part := part, asid := (s.mailbox part port).asid.zeroExtend 64, ptroot := (s.part part).devReg 0x48, sup := true,
    wkey := (s.mailbox part port).wkey, grid := none, team := none }
def hostAgent (s : State) (part port : Nat) : Agent :=
  { ctx := hostCtx s part port, paired := false, writer := .here part (s.mailbox part port).wkey, group := 0 }
/-- A request that faults sets its bit of ERR and is answered with a NAK. -/
def hostFault (s : State) (part port bit : Nat) : State :=
  say (s.modMailbox part port (fun m => { m with err := m.err ||| (1#3 <<< bit) })) (.hostNak port 1)
/-- The bit of ERR for a refused check: 0 translation, 1 permission and page type. -/
def hostErr (c : Cause) : Nat := if c.code == cPage then 0 else 1
/-- What each byte of a request reaches; the first refusal ends it. -/
def hostTargets (s : State) (c : Ctx) (need : Need) (addr : DWord) (n : Nat) : State × Except Cause (List Target) :=
  (upTo n).foldl (fun q i =>
    match q with
    | (s, .error e) => (s, .error e)
    | (s, .ok ts) =>
      match globalCheck s c need (addr + dw i) 1 with
      | (s, .ok t) => (s, .ok (ts ++ [t]))
      | (s, .error e) => (s, .error e)) (s, .ok [])
/-- A byte of ordinary memory. -/
def Target.memory (t : Target) : Bool := match t with | .plain _ _ | .decoded _ _ _ => true | _ => false
/-- Stores the bytes in address order, each a device-scope release of the port's earlier writes; units written whole are no longer
poisoned. -/
def hostStore (a : Agent) (addr : Nat) : List (Target × Byte) → State → State
  | [], s => s
  | q :: qs, s => hostStore a (addr + 1) qs (storePlace s a { order := 3, scope := 8, cp := 1 } none addr 1 q.2.toNat (.glob q.1)).1
def hostCover (addr : Nat) (ts : List Target) (s : State) : State :=
  (upTo ts.length).foldl (fun s i =>
    match ts.getD i (.device 0) with
    | .plain pa _ => if pa % 64 = 0 && i + 64 ≤ ts.length && (addr + i) % 64 = 0 then clearPoison s (.hbm pa) else s
    | _ => s) s
/-- A host store to a mailbox or device-register page: of 4 or 8 bytes. -/
def hostPageStore (s : State) (a : Agent) (port : Nat) (addr : DWord) (n v : Nat) (t : Target) : State :=
  match storePlace s a { order := 3, scope := 8, cp := 1 } none addr.toNat n v (.glob t) with
  | (s, none) => say (markPage s a.ctx addr.toNat) (.hostAck port)
  | (s, some _) => hostFault s a.ctx.part port 1
/-- A host write that its window accepts. -/
def hostWriteNow (s : State) (part port : Nat) (addr : DWord) (bytes : List Byte) : State :=
  let a := hostAgent s part port
  let n := bytes.length
  match hostTargets s a.ctx needW addr n with
  | (s, .error c) => hostFault s part port (hostErr c)
  | (s, .ok ts) =>
    match ts with
    | .feed e :: _ =>
      (match feedStore s e.tunid.toNat a.writer addr.toNat n (leNat bytes) (releaseLines s (portCore port)) with
       | (s, none) => say (markPage s a.ctx addr.toNat) (.hostAck port)
       | (s, some _) => hostFault s part port 2)
    | .mailbox q off :: _ =>
      if q = port && off / 8 = 3 then say (s.modMailbox part port (fun m => { m with door := m.door + 1 })) (.hostAck port)
      else hostPageStore s a port addr n (leNat bytes) (.mailbox q off)
    | .device off :: _ => hostPageStore s a port addr n (leNat bytes) (.device off)
    | ts =>
      if ts.all Target.memory then say (hostCover addr.toNat ts (hostStore a addr.toNat (ts.zip bytes) s)) (.hostAck port)
      else hostFault s part port 1
def execHostWrite (h : HostRef) (addr : DWord) (bytes : List Byte) (s : State) : Host.Outcome State Fault Refusal :=
  .next (match hostPart s h with
    | some p => hostWriteNow s p h.port addr bytes
    | none => say s (.hostNak h.port 1))
/-- Loads the bytes one after another as acquires at system scope. -/
def hostLoad (a : Agent) (addr : Nat) : List Target → State → State × Except Cause (List Byte)
  | [], s => (s, .ok [])
  | t :: ts, s =>
    let r := loadPlace s a { order := 2, scope := 11, cp := 1 } addr 1 (.glob t)
    match r.v with
    | .error c => (r.s, .error c)
    | .ok v =>
      match hostLoad a (addr + 1) ts r.s with
      | (s, .ok bs) => (s, .ok (BitVec.ofNat 8 v :: bs))
      | x => x
def hostReadNow (s : State) (part port : Nat) (addr : DWord) (size : Nat) : State :=
  let a := hostAgent s part port
  match hostTargets s a.ctx needR addr size with
  | (s, .error c) => hostFault s part port (hostErr c)
  | (s, .ok ts) =>
    let whole := match ts with | .mailbox _ _ :: _ | .device _ :: _ => true | _ => false
    if ts.any (fun t => match t with | .remote _ _ => true | _ => false) then hostFault s part port 1
    else if whole then
      let r := loadPlace s a { order := 2, scope := 11, cp := 1 } addr.toNat size (.glob (ts.getD 0 (.device 0)))
      match r.v with
      | .ok v => say r.s (.hostData port (leBytes size v))
      | .error _ => hostFault r.s part port 1
    else
      match hostLoad a addr.toNat ts s with
      | (s, .ok bs) => say s (.hostData port bs)
      | (s, .error c) => hostFault s part port (hostErr c)
def execHostRead (h : HostRef) (addr : DWord) (size : Nat) (s : State) : Host.Outcome State Fault Refusal :=
  .next (match hostPart s h with
    | some p => hostReadNow s p h.port addr size
    | none => say s (.hostNak h.port 1))
/-- A host write to offset 0x18 of the window counts in DOOR and stores nothing. -/
def execDoorbell (h : HostRef) (s : State) : Host.Outcome State Fault Refusal :=
  .next (match hostPart s h with
    | some p => say (s.modMailbox p h.port (fun m => { m with door := m.door + 1 })) (.hostAck h.port)
    | none => say s (.hostNak h.port 1))

/-! ### The home of a request of another Akzan (R407) -/

/-- How the home answers. -/
inductive HomeEnd where
  | nak (s : State) (sub : BitVec 8)
  | ok (s : State) (data : List Byte)

/-- PERM and LATE. -/
def nakPerm : BitVec 8 := 1
def nakLate : BitVec 8 := 2
/-- What lies at a physical address of the home: a window of a tun that is bound (R131), or what the partition's tables say of the frame (log
entry 78): a decoded page, or one of a type that refuses every request (a feed or draw page of an unbound tun, a mailbox or device-register
page). -/
inductive HomePage where
  | plain
  | packed
  | refused
  | feed (num va : Nat)
  | draw (num va : Nat)
def frameIndex (l : List Nat) (pa : Nat) : Option Nat := l.idxOf? (pa / 65536 * 65536)
def homePage (s : State) (part off pa : Nat) : HomePage :=
  match s.tuns.findSome? (fun t => (frameIndex t.feedPages pa).map (fun i => HomePage.feed t.num (t.feedVa + 65536 * i + pa % 65536))) with
  | some x => x
  | none =>
    match s.tuns.findSome? (fun t => (frameIndex t.drawPages pa).map (fun i => HomePage.draw t.num (t.drawVa + 65536 * i + pa % 65536))) with
    | some x => x
    | none =>
      match frameKind s part off with
      | 0 => .plain
      | 5 => .packed
      | _ => .refused
/-- Step 2: the partition's second stage for an offset, with its A bit (R381); `none` for PERM. -/
def homeCheck (s : State) (part off : Nat) (need : Need) : State × Option Nat :=
  match walk2 s part off with
  | .error _ => (s, none)
  | .ok x =>
    (if x.accessed then s else setEntryBit s 6 [x.leaf],
     if (need.r && !x.r) || (need.w && !x.w) || apertureBase ≤ x.pa then none else some x.pa)
/-- The agent of a request. -/
def homeAgent (part : Nat) (r : RemoteReq) : Agent :=
  { ctx := { core := deviceCore r.src, part := part, asid := 0, ptroot := 0, sup := true, wkey := 0, grid := none, team := none },
    paired := false, writer := .remote r.key r.src, group := 0 }
/-- An accepted request is performed at fabric scope; a weak store is written through (R407, R409). -/
def homeOrd (r : RemoteReq) : Ord := { order := r.order.toNat, scope := if r.order.toNat = 0 then 0 else 10, cp := 1 }
/-- RMWs are at least relaxed (R68). -/
def homeRmwOrd (r : RemoteReq) : Ord := { order := max 1 r.order.toNat, scope := 10, cp := 0 }
/-- A strong read triggers the drains of R84 before its reply is sent (R88). -/
def homeDrain (s : State) (r : RemoteReq) (sig : List (Nat × Nat)) : State :=
  if r.order.toNat = 0 then s else applySig s (deviceCore r.src) sig
/-- A write of `n` bytes; one of all their bits may clear the poison of the unit, as an ST does (R419). -/
def homeStore (s : State) (a : Agent) (o : Ord) (pa n v : Nat) (whole : Bool) : State :=
  let s := lineStore s a o 0 pa n v false
  let s := if whole then coverHalf (coverPoison s (.hbm pa) n) (.hbm pa) n else s
  if o.strong then entrySide (writeSide s a o none (.hbm pa) n false) o (.hbm pa) n else s
/-- A read. -/
def homeLoad (s : State) (part : Nat) (r : RemoteReq) (n : Nat) : HomeEnd :=
  match homeCheck s part r.off needR with
  | (s, none) => .nak s nakPerm
  | (s, some pa) =>
    match homePage s part r.off pa with
    | .feed _ _ | .refused => .nak s nakPerm
    | .draw num va =>
      if (drawCheck s num va n).isSome || poisoned s (.hbm pa) then .nak s nakPerm
      else .ok (homeDrain s r (match s.tun? num with | some t => t.sig | none => [])) (leBytes n (homeRead s pa n))
    | .plain | .packed =>
      if poisonedRange s pa n then .nak s nakPerm
      else
        let s := homeDrain s r (sigAt s (.hbm pa) n)
        .ok s (leBytes n (homeRead s pa n))
/-- The read of a barrier word: pages that R426 refuses give PERM. -/
def homeWord (s : State) (part : Nat) (r : RemoteReq) : HomeEnd :=
  match homeCheck s part r.off needR with
  | (s, none) => .nak s nakPerm
  | (s, some pa) =>
    match homePage s part r.off pa with
    | .plain =>
      if poisoned s (.hbm pa) then .nak s nakPerm
      else .ok (homeDrain s r (sigAt s (.hbm pa) 8)) (leBytes 8 (homeRead s pa 8))
    | _ => .nak s nakPerm
/-- The bytes a write stores over the old ones: all, or the bits that a mask names. -/
def masked (old : Nat) (bs mask : List Byte) : Nat :=
  if mask.isEmpty then leNat bs
  else leNat ((bs.zip mask).zipIdx.map (fun q => (q.1.1 &&& q.1.2) ||| (BitVec.ofNat 8 (bits old (8 * q.2) 8) &&& ~~~q.1.2)))
/-- Step 2 of R407 for a write: the leaf's D is set once the write goes on (R381). -/
def homeDirty (s : State) (part off : Nat) : State :=
  match walk2 s part off with
  | .ok x => setEntryBit s 7 [x.leaf]
  | .error _ => s
/-- A write of bytes at an offset: its checks; whether it is accepted, with the state after it. -/
def homeWriteBytes (s : State) (part : Nat) (r : RemoteReq) (off : Nat) (bs mask : List Byte) : State × Bool :=
  let a := homeAgent part r
  let n := bs.length
  match homeCheck s part off needW with
  | (s, none) => (s, false)
  | (s, some pa) =>
    match homePage s part off pa with
    | .draw _ _ | .refused => (s, false)
    | .feed num va =>
      (match feedStore s num a.writer va n (masked 0 bs mask) (if (homeOrd r).releases then releaseLines s a.ctx.core else []) with
       | (s, none) => (homeDirty s part off, true)
       | (s, some _) => (s, false))
    | .plain | .packed =>
      let s := homeDirty s part off
      (homeStore s a (homeOrd r) pa n (masked (homeRead s pa n) bs mask) (mask.all (fun b => b == 255#8)), true)
/-- A read-modify-write of `n` bytes: the old value is the answer. -/
def homeRmw (s : State) (part : Nat) (r : RemoteReq) (n : Nat) (f : Nat → Nat) : HomeEnd :=
  match homeCheck s part r.off needRW with
  | (s, none) => .nak s nakPerm
  | (s, some pa) =>
    match homePage s part r.off pa with
    | .plain =>
      if poisoned s (.hbm pa) then .nak s nakPerm
      else
        let s := applySig (homeDirty s part r.off) (deviceCore r.src) (sigAt s (.hbm pa) n)
        let q := rmwAt s (homeAgent part r) (homeRmwOrd r) none (.hbm pa) n f
        .ok q.1 (leBytes n q.2.1)
    | _ => .nak s nakPerm
/-- The source a tag window keeps a request under (R228). -/
def reqSource (r : RemoteReq) : List Nat := [r.src.toNat, r.srcId]
def redtAnswer (q : State × RedtEnd) : HomeEnd :=
  match q.2 with
  | .ok | .dup => .ok q.1 []
  | .late => .nak q.1 nakLate
  | .perm => .nak q.1 nakPerm
/-- A tagged reduction of one element (R413). -/
def homeRedt (s : State) (part : Nat) (r : RemoteReq) (op : Nat) (ty : BitVec 5) (tag : BitVec 32) (v : DWord) : HomeEnd :=
  let n := (tyBits ty + 7) / 8
  match homeCheck s part r.off needRW with
  | (s, none) => .nak s nakPerm
  | (s, some pa) =>
    match homePage s part r.off pa with
    | .plain =>
      if poisoned s (.hbm pa) then .nak s nakPerm
      else redtAnswer (taggedReduce (homeDirty s part r.off) part [(pa, n)] (reqSource r) tag.toNat
        (fun s => (rmwAt s (homeAgent part r) (homeRmwOrd r) none (.hbm pa) n (rmwValue op ty v.toNat)).1))
    | _ => .nak s nakPerm
/-- Where one lane of a TDRAW points: a tun and an offset in its draw window; `none` for a refusal. -/
def homeDrawLane (s : State) (part off n : Nat) : State × Option (Tun × Nat) :=
  match homeCheck s part off needR with
  | (s, none) => (s, none)
  | (s, some pa) =>
    match homePage s part off pa with
    | .draw num va =>
      (match s.tun? num with
       | some t => if va < t.drawVa || t.drawVa + t.nslots * t.drawStride < va + n then (s, none) else (s, some (t, va - t.drawVa))
       | none => (s, none))
    | _ => (s, none)
def homeDrawLanes (part n : Nat) (offs : List Nat) (s : State) : State × List (Option (Tun × Nat)) :=
  offs.foldl (fun q off => let r := homeDrawLane q.1 part off n; (r.1, q.2 ++ [r.2])) (s, [])
/-- The first byte of a lane's part when its tun is still being installed: the lane waits on, whatever its timeout (R125). -/
def drawPending : BitVec 8 := 0xFF
/-- A lane reads poisoned bytes, of the status word or its own (R419). -/
def drawBlind (s : State) (t : Tun) (o : Nat) : Bool := slotPoisoned s t (o / t.drawStride) 0 || slotPoisoned s t (o / t.drawStride) (o % t.drawStride)
/-- A lane's part of the answer: a NAK subcode or 0, the slot's status word, the bytes. -/
def drawChunk (s : State) (n : Nat) (x : Option (Tun × Nat)) : List Byte :=
  let none_ (b : BitVec 8) : List Byte := b :: List.replicate (8 + n) 0
  match x with
  | none => none_ nakPerm
  | some (t, o) =>
    if t.installing then none_ drawPending
    else if drawBlind s t o then none_ nakPerm
    else 0 :: (leBytes 8 (t.status s (o / t.drawStride)) ++ leBytes n (drawRead s t o n))
/-- A READY result that is newer is consumed, and its slot left EMPTY. -/
def drawTaken (seq : BitVec 32) (s : State) (x : Option (Tun × Nat)) : State :=
  match x with
  | none => s
  | some (t, o) =>
    let w := t.status s (o / t.drawStride)
    if !t.installing && !drawBlind s t o && slotState w == 1 && newerSeq (slotSeq w) seq.toNat then
      putSlot s t (o / t.drawStride) (statusWord 0 0 (slotSeq w)) 0
    else s
/-- The lanes of a TDRAW, as one step: every slot as it stands, the same for all that name it; a newer READY result is consumed when asked. -/
def homeDraw (s : State) (part : Nat) (r : RemoteReq) (n : Nat) (seq : BitVec 32) (consume : Bool) (offs : List Nat) : HomeEnd :=
  let q := homeDrawLanes part n offs s
  if q.2.all (·.isNone) then .nak s nakPerm
  else
    let data := q.2.flatMap (drawChunk q.1 n)
    let s := if consume then q.2.foldl (drawTaken seq) q.1 else q.1
    .ok (q.2.foldl (fun s x => match x with | some (t, _) => homeDrain s r t.sig | none => s) s) data
/-- All the parts of a unit, one after another, or none of them. -/
def homeUnit (part : Nat) (r : RemoteReq) : List WritePart → State → State × Bool
  | [], s => (s, true)
  | x :: xs, s =>
    match homeWriteBytes s part r x.off x.data x.mask with
    | (s, false) => (s, false)
    | (s, true) => homeUnit part r xs s
/-- A refused unit has no effect, but feed stores that no entry permits are counted (R143). -/
def unitRefused (s t : State) : State :=
  { s with tuns := s.tuns.map (fun x => match t.tun? x.num with | some y => { x with refused := y.refused } | none => x) }
/-- The places of an LRED unit's elements; `none` for a refusal. -/
def unitPlaces (part : Nat) : List (Nat × Nat) → State → State × Option (List (Nat × Nat))
  | [], s => (s, some [])
  | x :: xs, s =>
    match homeCheck s part x.1 needRW with
    | (s, none) => (s, none)
    | (s, some pa) =>
      match homePage s part x.1 pa, unitPlaces part xs s with
      | .plain, (s, some l) => if poisoned s (.hbm pa) then (s, none) else (s, some ((pa, x.2) :: l))
      | _, (s, _) => (s, none)
/-- The elements by home slice. -/
def bySlice (l : List (Nat × Nat)) : List (Nat × List (Nat × Nat)) :=
  l.foldl (fun (ls : List (Nat × List (Nat × Nat))) x =>
    let k := homeSliceOf x.1
    if ls.any (fun q => q.1 == k) then ls.map (fun q => if q.1 == k then (k, q.2 ++ [x]) else q) else ls ++ [(k, [x])]) []
/-- The parts of an LRED unit, each at its slice; the first refusal ends it. -/
def homeReduce (part : Nat) (r : RemoteReq) (op : Nat) (ty : BitVec 5) (tag : BitVec 32) : List (Nat × List (Nat × Nat)) → State → HomeEnd
  | [], s => .ok s []
  | x :: xs, s =>
    let n := (storeBits ty + 7) / 8
    match redtAnswer (taggedReduce s part (x.2.map (fun q => (q.1, n))) (reqSource r) tag.toNat (fun s =>
        x.2.foldl (fun s q => (rmwAt s (homeAgent part r) (homeRmwOrd r) none (.hbm q.1) n (rmwValue op ty q.2)).1) s)) with
    | .ok s _ => homeReduce part r op ty tag xs s
    | e => e
/-- Steps 2 to 4 for a request to a partition. -/
def homeServe (s : State) (part : Nat) (r : RemoteReq) : HomeEnd :=
  match r.op with
  | .read n => homeLoad s part r n
  | .word => homeWord s part r
  | .write bs => (match homeWriteBytes s part r r.off bs [] with | (s, true) => .ok s [] | (s, false) => .nak s nakPerm)
  | .writeBits bs mask => (match homeWriteBytes s part r r.off bs mask with | (s, true) => .ok s [] | (s, false) => .nak s nakPerm)
  | .rmw op ty v => homeRmw s part r ((tyBits ty + 7) / 8) (rmwValue op ty v.toNat)
  | .acas ty cmp v => homeRmw s part r ((tyBits ty + 7) / 8) (casValue cmp.toNat v.toNat)
  | .redt op ty tag v => homeRedt s part r op ty tag v
  | .arrive n => homeRmw s part r 8 (fun w => if bit w 62 then w else arriveValue n.toNat w)
  | .draw n seq consume offs => homeDraw s part r n seq consume offs
  | .writeUnit ps => (match homeUnit part r ps s with | (s, true) => .ok s [] | (t, false) => .nak (unitRefused s t) nakPerm)
  | .redtUnit op ty tag es =>
    (match unitPlaces part es s with
     | (s, some l) => homeReduce part r op ty tag (bySlice l) (es.foldl (fun s x => homeDirty s part x.1) s)
     | (s, none) => .nak s nakPerm)
/-- A request is refused, or accepted and performed: both answers go out. -/
def execRemoteRequest (r : RemoteReq) (s : State) : Host.Outcome State Fault Refusal :=
  .next (
    if s.boot != .running then s
    else
      match jobPart s r.key with
      | none => say s (.nak r.src nakPerm)
      | some p =>
        match homeServe s p r with
        | .nak s sub => say s (.nak r.src sub)
        | .ok s data => say (say s (.accept r.src)) (.complete r.src data))

/-! ### Unreliable delivery (R403, R420) -/

/-- Such a packet is dropped and counted. -/
def execUnreliablePacket (_port : Nat) (s : State) : Host.Outcome State Fault Refusal :=
  .next (if s.boot == .running then { s with kiln := { s.kiln with porterr := s.kiln.porterr + 1 } } else s)

end Sys2Proof.Machine
end

