-- ==== Sys2Proof/Machine/FabricAnswers.lean ====
section
/-! DEFINITION. Answers to this device's own remote requests (R407, R408): register results, the end of a split's, a program's, a packet's or
a steep run's wait, and requests without an answer. -/

namespace Sys2Proof.Machine

/-! ### The operation an answer belongs to -/

def State.remote? (s : State) (id : Nat) : Option RemoteOut := s.remotes.find? (fun o => o.id == id)
def State.setRemote (s : State) (o : RemoteOut) : State := { s with remotes := s.remotes.map (fun x => if x.id == o.id then o else x) }
def dropRemote (s : State) (id : Nat) : State := { s with remotes := s.remotes.filter (fun x => x.id != id) }
/-- An operation whose requests have all ended, and for which nothing waits, is over. -/
def sweepRemote (s : State) (id : Nat) : State :=
  match s.remote? id with
  | some o => if o.released && o.finished then dropRemote s id else s
  | none => s
def RemoteOut.setLane (o : RemoteOut) (k : Nat) (r : RemoteLane) : RemoteOut := { o with lanes := o.lanes.set k r }
/-- A request is sent once more, its time starting anew. -/
def askAgain (s : State) (o : RemoteOut) (k : Nat) (r : RemoteLane) (part : Nat) : State :=
  sendAll (s.setRemote (o.setLane k { r with state := .waiting, since := s.clock })) part o.order o.scope [r]
/-- A request whose word or slot was not ready waits to be asked for again. -/
def askLater (s : State) (o : RemoteOut) (k : Nat) (r : RemoteLane) : State := s.setRemote (o.setLane k { r with state := .idle })

/-! ### Splits (R408) -/

/-- The access type of a lane's request (R390). -/
def laneKind (r : RemoteLane) : Nat := match r.op with | .read _ | .word => 1 | .write _ | .writeBits _ _ | .writeUnit _ => 2 | .draw _ _ _ _ => 6 | _ => 3
def laneFaults (o : RemoteOut) : List (Nat × Cause) :=
  o.lanes.flatMap (fun r => (remoteCauses r).map (fun q => (q.1, q.2.withAccess (laneKind r))))
/-- No lane is awaited any more: the split goes on past its instruction, or traps. -/
def releaseSplit (s : State) (o : RemoteOut) : State :=
  let s := s.setRemote { o with released := true }
  match s.split? ⟨o.group, o.split⟩ with
  | none => s
  | some (g, sp) =>
    if sp.status != .parked (.statuses o.op) then s
    else
      let sp := { sp with status := .ready, readySince := s.clock, aging := 0 }
      let fs := sortFaults (o.faults ++ laneFaults o)
      let s := if o.uniform then
          (match fs with
           | (_, c) :: _ => raise s g sp c o.insn
           | [] => finish s g sp 4)
        else settleFaults s g sp fs 12 o.insn
      landSaved s o.group
/-- Every request has ended: the register results may land, and the operation counts as complete (R31). -/
def completeSplit (s : State) (o : RemoteOut) : State :=
  landSaved ((s.modSplit o.group o.split (fun x => x.release o.op)).flightDone o.group o.op) o.group
/-- After an answer to a split's operation. A WAITPH's split is released when its words are ready. -/
def splitAnswered (s : State) (id : Nat) : State :=
  match s.remote? id with
  | none => s
  | some o =>
    let s := if o.finished then completeSplit s o else s
    let s := if !o.released && !stillAwaited o then releaseSplit s o else s
    sweepRemote s id
/-- The result of a lane whose request is complete. -/
def remoteResult (s : State) (o : RemoteOut) (r : RemoteLane) (data : List Byte) : State :=
  if !o.reg then s
  else addWrites s o.group o.split o.op
    (if o.uniform then [.s o.dst (dw (r.value data))] else vWrites r.lane o.dst (tyRegs o.ty) (loadImage o.ty (r.value data)))
/-- Partition, order and scope of a split's requests. -/
def groupPartOf (s : State) (uid : Nat) : Nat := match s.group? uid with | some g => groupPart g | none => 0
/-- A strong access that reads has been answered: its core drops what it may hold of lines written before the release it read, here or by way
of other devices (R76, R84, R88). A relaxed one is taken for an acquire at once (log entry 95). -/
def remoteAcquire (s : State) (core : Nat) (o : RemoteOut) (r : RemoteLane) : State :=
  if o.order.toNat = 0 || writesOnly r then s
  else if core < 192 then dropScales (flushCore (applySig s core (remoteSig s)) core) core
  else applySig s core (remoteSig s)
/-- What the lanes of a TDRAW request have got: register writes, refusals, and lanes whose slots are not ready. -/
structure DrawGot where
  writes : List RegWrite
  faults : List (Nat × Cause)
  left : List (Nat × DWord × Nat)
/-- A lane's part of the answer. -/
def drawPart (d : Draw) (size : Nat) (last : Word) (expired : Bool) (data : List Byte) (m : DrawGot) (x : (Nat × DWord × Nat) × Nat) :
    DrawGot :=
  let bs := data.drop ((9 + size) * x.2)
  let nak := (bs.headD 0).toNat
  if bs.headD 0 == drawPending then { m with left := m.left ++ [x.1] }
  else if nak != 0 then { m with faults := m.faults ++ [(x.1.1, (causeAt cRemref nak x.1.2.1.toNat).withAccess 6)] }
  else if imageReady (leNat ((bs.drop 1).take 8)) last || expired then
    { m with writes := m.writes ++ vWrites x.1.1 d.dst (size / 4) (leNat ((bs.drop 9).take size)) }
  else { m with left := m.left ++ [x.1] }
/-- COMPLETE of a lane. An ARRIVE learns whether the word was poisoned, a WAITPH whether its word is ready, a TDRAW whether its slot is. -/
def splitComplete (s0 : State) (o : RemoteOut) (k : Nat) (r : RemoteLane) (data : List Byte) : State :=
  let s := match s0.group? o.group with | some g => remoteAcquire s0 g.core o r | none => s0
  match r.op with
  | .arrive n => splitAnswered (s.setRemote (o.setLane k { r with state := if arrivePoisons n.toNat (leNat data) then .poisoned else .complete })) o.id
  | .draw size last _ _ =>
    match s.draw? o.op with
    | none => sweepRemote (s.setRemote { o.setLane k { r with state := .complete } with released := true }) o.id
    | some d =>
      let m := ((r.lane, r.addr, r.off) :: r.also).zipIdx.foldl
        (drawPart d size last (drawExpired s.clock d.timeout d.since) data) { writes := [], faults := [], left := [] }
      let s := (addWrites s o.group o.split o.op m.writes).modDraw o.op (fun d => { d with faults := d.faults ++ m.faults })
      match m.left with
      | [] => drawSettle (s.setRemote (o.setLane k { r with state := .complete })) o.op
      | x :: xs =>
        askLater s o k { r with lane := x.1, addr := x.2.1, off := x.2.2, also := xs
                                op := match r.op with | .draw n q c _ => .draw n q c (m.left.map (fun y => y.2.2)) | q => q }
  | _ =>
    match o.phase with
    | some ph =>
      let w := leNat data
      if bit w 62 then splitAnswered (s.setRemote (o.setLane k { r with state := .poisoned })) o.id
      else if phaseReady ph w then splitAnswered (s.setRemote (o.setLane k { r with state := .complete })) o.id
      else
        (match s.split? ⟨o.group, o.split⟩ with
         | some (_, sp) =>
           if sp.status == .parked (.statuses o.op) then askLater s o k r
           else sweepRemote (s.setRemote { o.setLane k { r with state := .complete } with released := true }) o.id
         | none => sweepRemote (s.setRemote { o.setLane k { r with state := .complete } with released := true }) o.id)
    | none => splitAnswered ((remoteResult s o r data).setRemote (o.setLane k { r with state := .complete })) o.id
/-- ACCEPT, NAK or a timeout of a lane. -/
def splitTold (s : State) (o : RemoteOut) : State :=
  if o.drawTmo.isSome then drawSettle (s.setRemote o) o.op else splitAnswered (s.setRemote o) o.id

/-! ### Asking again (R125, R233, R259, R383) -/

/-- A write of page-table entries is held for accesses that translated through them: none of these is asked for again before it (R383). -/
def entriesHeld (s : State) (src : List Nat) : Bool :=
  s.groups.any (fun g => g.splits.any (fun x => match x.fenceWait with
    | some w => w.pc == x.pc && src.any (fun a => w.remap.any (fun q => q.1 < a + 8 && a < q.1 + q.2))
    | none => false)) ||
  s.kiln.s2writes.any (fun q => src.any (fun a => q.1 < a + 8 && a < q.1 + 8))
/-- The word of a WAITPH is translated anew: it is asked for, its lane traps, or, when it now lies here, the instruction is issued again. -/
def reaskWord (s : State) (g : Group) (sp : Split) (o : RemoteOut) (k : Nat) (r : RemoteLane) : State :=
  match place s (splitCtx g sp) .global needR r.addr 8 with
  | (s, .error c) =>
    splitAnswered (s.setRemote { o.setLane k { r with state := .complete } with faults := o.faults ++ [(r.lane, c.withAccess 1)] }) o.id
  | (s, .ok (.glob (.remote pa e))) =>
    (match remotePage s (groupPart g) r.lane r.addr pa e .word with
     | .ok x => if blockHeld s g.uid x then s else askAgain s o k x (groupPart g)
     | .error c =>
       splitAnswered (s.setRemote { o.setLane k { r with state := .complete } with faults := o.faults ++ [(r.lane, c.withAccess 1)] }) o.id)
  | (s, .ok _) =>
    (dropRemote (s.flightDone g.uid o.op) o.id).modSplit g.uid sp.slot (fun x => { x with status := .ready, readySince := s.clock, aging := 0 })
/-- The slots of a TDRAW's request are translated anew; lanes that now read elsewhere go on there. -/
def reaskDraw (s : State) (g : Group) (sp : Split) (o : RemoteOut) (k : Nat) (r : RemoteLane) (d : Draw) : State :=
  let m := drawLanes s (splitCtx g sp) d.size d.last d.cons (((r.lane, r.addr, r.off) :: r.also).map (fun x => (x.1, x.2.1)))
  if m.away.any (blockHeld m.s g.uid) then s
  else
    match m.here, m.faults, m.away with
    | [], [], [x] => askAgain m.s o k x (groupPart g)
    | _, _, _ => drawSettle (drawMoved (m.s.setRemote (o.setLane k { r with state := .complete })) g sp o.op m (fun _ => false)) o.op
/-- A word or slot of a split's operation that was not ready is asked for again, while its group is on its core. -/
def reask (s : State) (id k : Nat) : State :=
  match s.remote? id with
  | none => s
  | some o =>
    match o.lanes[k]?, s.split? ⟨o.group, o.split⟩ with
    | some r, some (g, sp) =>
      if r.state != .idle || g.gstate != .resident || entriesHeld s r.src then s
      else
        (match s.draw? o.op with
         | some d => reaskDraw s g sp o k r d
         | none => if o.phase.isSome then reaskWord s g sp o k r else s)
    | _, _ => s
/-- Every such request. -/
def reaskAll (s : State) : State :=
  s.remotes.foldl (fun s o => (upTo o.lanes.length).foldl (fun s k => reask s o.id k) s) s

/-! ### Lauter programs (R279, R290) -/

/-- Changes a program, on its engine or where it is kept while its partition or its queue is stopped. -/
def modProgram (s : State) (r : EngRef) (serial : Nat) (f : Program → Program) : State :=
  let g (q : EngRef × Program) : EngRef × Program := if q.1 == r && q.2.serial.toNat == serial then (q.1, f q.2) else q
  let e := s.engine r
  let s := if e.progs.any (fun p => p.serial.toNat == serial) then
      s.setEngine { e with progs := e.progs.map (fun p => if p.serial.toNat == serial then f p else p) }
    else s
  { s with parts := s.parts.map (fun (p : Partition) => { p with progs := p.progs.map g })
           saves := s.saves.map (fun (x : SaveArea) => { x with progs := x.progs.map g }) }
/-- The program stands on its engine and may run. -/
def headProgram (s : State) (r : EngRef) (serial : Nat) : Option Program :=
  match s.prog? r with
  | some p => if p.serial.toNat == serial then some p else none
  | none => none
/-- The fields of the instruction an operation was sent for. -/
def outFields (o : RemoteOut) : LauterF := lauterOf ((o.insn.getD 1 0) ++ (o.insn.getD 0 0))
/-- No request is awaited any more: the program goes on at its instruction with what the answers brought, or faults. -/
def releaseProgram (s : State) (r : EngRef) (o : RemoteOut) : State :=
  let s := s.setRemote { o with released := true }
  match headProgram s r o.op with
  | some p =>
    if p.state != .remote o.id then s
    else
      (match o.lanes.findSome? remoteCause with
       | some c => faultProgram s r p (outFields o) c
       | none => s.setHead r { p with state := .running })
  | none => modProgram s r o.op (fun p => if p.state == .remote o.id then { p with state := .queued } else p)
def programAnswered (s : State) (r : EngRef) (id : Nat) : State :=
  match s.remote? id with
  | none => s
  | some o =>
    let s := if !o.released && !stillAwaited o then releaseProgram s r o else s
    endingAgain (sweepRemote s id) r
def gotWrite (s : State) (e : EngRef) (o : RemoteOut) (r : RemoteLane) : State :=
  if writesOnly r && r.state == .waiting then
    modProgram s e o.op (fun p => { p with got := p.got ++ [(true, r.dest, r.spot, [])] }) else s
def programComplete (s0 : State) (e : EngRef) (o : RemoteOut) (k : Nat) (r : RemoteLane) (data : List Byte) : State :=
  let s := remoteAcquire s0 e.core o r
  match r.op with
  | .arrive n =>
    if arrivePoisons n.toNat (leNat data) then programAnswered (s.setRemote (o.setLane k { r with state := .poisoned })) e o.id
    else
      let s := modProgram s e o.op (fun p => { p with got := p.got ++ [(false, r.dest, r.spot, data)] })
      programAnswered (s.setRemote (o.setLane k { r with state := .complete })) e o.id
  | _ =>
    let s := if writesOnly r then gotWrite s e o r
      else modProgram s e o.op (fun p => { p with got := p.got ++ [(false, r.dest, r.spot, data)] })
    programAnswered (s.setRemote (o.setLane k { r with state := .complete })) e o.id

/-! ### Packets and steep runs (R337, R340, R355, R356) -/

/-- The access of a packet is performed. -/
def packetComplete (s : State) (o : RemoteOut) (r : RemoteLane) (p : PacketRef) (data : List Byte) : State :=
  let s := dropRemote (remoteAcquire s (vcpCore p.part) o r) o.id
  match s.packet? p with
  | none => s
  | some k => if k.type = 4 then (if waitMet k.words (leNat data) then completePacket s p 0 else s) else completePacket s p 0
def runComplete (s : State) (o : RemoteOut) (r : RemoteLane) (id : Nat) (data : List Byte) : State :=
  let s := match s.run? id with | some x => remoteAcquire s (vcpCore x.ref.part) o r | none => s
  (dropRemote s o.id).modRun id (fun x => { x with got := some (x.got.getD [] ++ data), away := false })
/-- A refused or unanswered access: status FAULT, or HOOKFAULT. -/
def vcpRefused (s : State) (o : RemoteOut) : State :=
  let s := dropRemote s o.id
  match o.packet, o.run with
  | some p, _ => completePacket s p 1
  | none, some id => (match s.run? id with | some x => hookFault s x | none => s)
  | none, none => s

/-! ### The rows -/

/-- The request has got an ACCEPT. -/
def acceptAt (s : State) (o : RemoteOut) (k : Nat) (r : RemoteLane) : State :=
  if r.state != .waiting then s
  else
    match o.engine with
    | some e => programAnswered ((gotWrite s e o r).setRemote (o.setLane k { r with state := .accepted })) e o.id
    | none =>
      if o.packet.isSome || o.run.isSome || o.group = 0 then s.setRemote (o.setLane k { r with state := .accepted })
      else splitTold s (o.setLane k { r with state := .accepted })
/-- The request has got a NAK, or no answer in time. -/
def refuseAt (s : State) (o : RemoteOut) (k : Nat) (r : RemoteLane) (st : RemoteState) : State :=
  if r.state != .waiting then s
  else
    match o.engine with
    | some e => programAnswered (s.setRemote (o.setLane k { r with state := st })) e o.id
    | none =>
      if o.packet.isSome || o.run.isSome || o.group = 0 then vcpRefused s o else splitTold s (o.setLane k { r with state := st })
/-- The request has got its COMPLETE. -/
def completeAt (s : State) (o : RemoteOut) (k : Nat) (r : RemoteLane) (data : List Byte) : State :=
  if r.state != .waiting && r.state != .accepted then s
  else
    match o.engine, o.packet, o.run with
    | some e, _, _ => programComplete s e o k r data
    | none, some p, _ => packetComplete s o r p data
    | none, none, some id => runComplete s o r id data
    | none, none, none => if o.group = 0 then dropRemote s o.id else splitComplete s o k r data
/-- Applies a change to the request at a place of an operation. -/
def atRequest (s : State) (req k : Nat) (f : RemoteOut → RemoteLane → State) : State :=
  match s.remote? req with
  | some o => (match o.lanes[k]? with | some r => f o r | none => s)
  | none => s
def execRemoteAnswer (req : Nat) (a : RemoteAns) (s : State) : Host.Outcome State Fault Refusal :=
  .next (match a with
    | .accept k => atRequest s req k (fun o r => acceptAt s o k r)
    | .nak k sub => atRequest s req k (fun o r => refuseAt s o k r (.nak sub))
    | .complete k data => atRequest s req k (fun o r => completeAt s o k r data))
/-- REMTMO has passed since the request was sent. -/
def remoteDue (s : State) (r : RemoteLane) : Bool := r.since.toNat + s.remtmo ≤ s.clock.toNat
def timeoutAt (s : State) (req k : Nat) : State :=
  atRequest s req k (fun o r => if remoteDue s r then refuseAt s o k r .timeout else s)
def execRemtimeout (req : Nat) (s : State) : Host.Outcome State Fault Refusal :=
  .next (match s.remote? req with
    | some o => (upTo o.lanes.length).foldl (fun s k => timeoutAt s req k) s
    | none => s)

end Sys2Proof.Machine
end

