-- ==== Sys2Proof/Machine/Gangs.lean ====
section
/-! DEFINITION. Deadline flushes (R414) and gangs: a member that fails, what its device does, and what a notice does (R415, R416). -/

namespace Sys2Proof.Machine

/-! ### Stores of the device for a partition, here or behind an aperture -/

/-- The state after an access that nothing waits for. -/
def VcpEnd.state (e : VcpEnd) : State := match e with | .done s _ => s | .fault s => s | .away s => s
/-- Writes 64 bytes in a context; `release` deposits the lines the partition's VCP knows of. A place that refuses it keeps its bytes. -/
def putUnit (s : State) (part : Nat) (c : Ctx) (addr : DWord) (v : Nat) (bad release : Bool) : State :=
  match globalCheck s c needW addr 64 with
  | (s, .ok (.plain pa _)) =>
    let s := coverPoison (touch (softWrite s pa 64 v) (vcpCore part) (pa / 128)) (.hbm pa) 64
    let s := if bad then setPoison s (.hbm pa) else s
    if release then deposit s (.hbm pa) 8 (releaseLines s (vcpCore part)) false else endSequence s (.hbm pa) 64
  | (s, .ok (.remote pa e)) => (vcpRequest s { part := part } addr pa e (.write (leBytes 64 v)) (if release then 3 else 0) 10).state
  | (s, _) => s

/-! ### Deadline entries (R414) -/

/-- An open entry whose time has come, or that is complete and flushes early. -/
def flushDue (s : State) (part k : Nat) : Bool :=
  s.boot == .running && (s.part part).en && dltBase s part != 0 && k < 64 && dltState s part k == 1 &&
  ((dltQuad s part k 2).toNat ≤ s.clock.toNat || (dltEarly s part k && dltQuad s part k 4 == dltQuad s part k 3))
def dltFwd (s : State) (part k : Nat) : DWord := dltQuad s part k 5 &&& 0x003FFFFFFFFFFFFF#64
/-- Copies unit `i` of TARGET behind the header; a poisoned unit arrives poisoned. -/
def copyUnit (part k : Nat) (s : State) (i : Nat) : State :=
  let c := dltCtx s part k
  match globalCheck s c needR (dw (dltTarget s part k + 64 * i)) 64 with
  | (s, .ok (.plain pa _)) => putUnit s part c (dltFwd s part k + dw (64 + 64 * i)) (homeRead s pa 64) (poisoned s (.hbm pa)) false
  | (s, _) => s
/-- Requests of this device for nobody in particular that are still to be performed. -/
def asked (s : State) (reqs : List Nat) : Bool := s.remotes.any (fun o => reqs.contains o.id)
/-- The requests that stand in `t` and did not in `s`. -/
def newRequests (s t : State) : List Nat := (t.remotes.filter (fun o => !s.remotes.any (fun x => x.id == o.id))).map (·.id)
/-- The header: ROUND, GOT, EXPECT, the CLOCK of the step, LEN, then zeros. -/
def flushHeader (s : State) (part k : Nat) : Nat :=
  [fld (dltQuad s part k 7) 0 32, (dltQuad s part k 4).toNat, (dltQuad s part k 3).toNat, s.clock.toNat, dltLen s part k].foldr
    (fun q n => q + 2 ^ 64 * n) 0
/-- Step 5: STATE := 2. -/
def flushOver (s : State) (part k : Nat) : State :=
  let s := { s with flushes := s.flushes.filter (fun x => !(x.part == part && x.entry == k)) }
  homeWrite s (dltBase s part + 64 * k + 48) 8 (setBits (dltQuad s part k 6).toNat 0 2 2)
/-- Steps 3 to 5 once the copies are performed: the header, released at fabric scope, and STATE once the header is performed. -/
def flushRest (s : State) (part k h : Nat) : State :=
  let t := putUnit s part (dltCtx s part k) (dltFwd s part k) h false true
  let reqs := newRequests s t
  if reqs.isEmpty then flushOver t part k
  else { t with flushes := t.flushes.filter (fun x => !(x.part == part && x.entry == k)) ++ [{ part := part, entry := k, header := h, reqs := reqs, sent := true }] }
/-- The flush: the step of the entry's order is this one; copies that go to another device are performed before the header goes there (R88). -/
def flushEntry (s : State) (part k : Nat) : State :=
  let h := flushHeader s part k
  let t := (upTo (dltLen s part k / 64)).foldl (copyUnit part k) s
  let reqs := newRequests s t
  if reqs.isEmpty then flushRest t part k h
  else { t with flushes := t.flushes ++ [{ part := part, entry := k, header := h, reqs := reqs, sent := false }] }
/-- A flush under way goes on when what it waits for is performed. -/
def flushAgain (s : State) (x : Flush) : State :=
  if asked s x.reqs then s else if x.sent then flushOver s x.part x.entry else flushRest s x.part x.entry x.header
def execDeadlineFlush (part : Nat) (entry : Nat) (s : State) : Host.Outcome State Fault Refusal :=
  .next (match s.flushes.find? (fun x => x.part == part && x.entry == entry) with
    | some x => flushAgain s x
    | none => if flushDue s part entry then flushEntry s part entry else s)

/-! ### Killing a grid (R416) -/

/-- Every program of the grid ends KILLED. -/
def killProgram (s : State) (r : EngRef) (p : Program) : State :=
  match p.state with
  | .queued => finishProgram s r p 5 0
  | .faulted _ => endProgram (dropFault s r p) r p 5 0
  | .ending _ _ => s
  | _ => endProgram s r p 5 0
def killPrograms (s : State) (grid : Nat) : State :=
  (s.engines.flatMap (fun e => (e.progs.filter (fun p => p.ctx.grid == some grid)).map (fun p => ((⟨e.core, e.eng⟩ : EngRef), p)))).foldl
    (fun s q => killProgram s q.1 q.2) s
/-- The grid's programs are killed, its groups retire as EXIT does, its LAUNCH completes with status FAULT. -/
def killGrid (s : State) (r : Grid) : State :=
  let s := killPrograms s r.uid
  let s := ((s.groups.filter (fun g => g.grid == r.uid)).map (·.uid)).foldl retireGroup s
  let s := { s with teams := s.teams.filter (fun t => t.grid != r.uid) }
  completePacket (removeGrid s r) r.packet 1

/-! ### GANGFAIL (R388, R416) -/

/-- What a split waits for is given up: its draw, its requests, the results they would have brought. -/
def giveUp (s : State) (uid slot : Nat) : State :=
  let ops := (s.draws.filter (fun d => d.group == uid && d.split == slot)).map (·.op) ++
    (s.remotes.filter (fun o => o.engine.isNone && o.group == uid && o.split == slot && !o.released)).map (·.op)
  let s := { s with draws := s.draws.filter (fun d => !(d.group == uid && d.split == slot))
                    remotes := s.remotes.filter (fun o => !(o.engine.isNone && o.group == uid && o.split == slot && !o.released)) }
  let s := s.modSplit uid slot (fun x => { x with pend := x.pend.filter (fun p => !ops.contains p.op) })
  ops.foldl (fun s o => s.flightDone uid o) s
/-- The split holds issue for the ACCEPTs of a remote access (R408): that is no park of R363. -/
def awaitsAccept (s : State) (uid op : Nat) : Bool :=
  s.remotes.any (fun o => o.engine.isNone && o.group == uid && o.op == op && o.phase.isNone && o.drawTmo.isNone && !o.released)
/-- GANGFAIL becomes pending for a split, and wakes it if it is parked (R363), but for one that waits for an occupied handler. A sleeping split
goes on after its SLEEP (R184). -/
def strikeSplit (s : State) (uid : Nat) (sub : BitVec 8) (x : Split) : State :=
  match x.status with
  | .parked (.handler _) | .parked (.page _) => s.modSplit uid x.slot (fun y => { y with gangFail := some sub })
  | .parked (.sleep _) =>
    s.modSplit uid x.slot (fun y => { y.next 4 with gangFail := some sub, status := .ready, readySince := s.clock, aging := 0 })
  | .parked p =>
    if (match p with | .statuses op => awaitsAccept s uid op | _ => false) then s.modSplit uid x.slot (fun y => { y with gangFail := some sub }) else
    (giveUp s uid x.slot).modSplit uid x.slot (fun y => { y with gangFail := some sub, status := .ready, readySince := s.clock, aging := 0 })
  | _ => s.modSplit uid x.slot (fun y => { y with gangFail := some sub })
def strikeGroup (sub : BitVec 8) (s : State) (uid : Nat) : State :=
  match s.group? uid with
  | some g => g.splits.foldl (fun s x => strikeSplit s uid sub x) s
  | none => s
/-- The member grids of a gang entry (R415). -/
def memberGrids (s : State) (part g : Nat) : List Grid := s.grids.filter (fun r => r.part == part && gangOf s part r.packet.queue == some g)

/-! ### A gang fails (R416) -/

def gangField (s : State) (part g i lo n : Nat) : Nat := fld (gangQuad s part g i) lo n
/-- Step 3: POISON is set in each PLIST word at gang scope. -/
def poisonPlist (part g : Nat) (s : State) (j : Nat) : State :=
  match vcpLoad s part (dw (gangField s part g 7 0 54 + 8 * j)) 8 with
  | (s, some a) => (vcpWrite s { part := part } 2 (dw a) (2 ^ 62) (some []) 9).state
  | (s, none) => s
/-- Step 4: a notice to each device of DEVLIST, under the partition's job key (R415). -/
def sendNotice (part g : Nat) (s : State) (j : Nat) : State :=
  match vcpLoad s part (dw (gangField s part g 5 0 54 + 4 * j)) 4 with
  | (s, some d) => if jobValid s part then say s (.gangNotice (wd d) ⟨jobKey s part, wd (gangField s part g 0 0 32)⟩) else s
  | (s, none) => s
/-- Steps 2 to 5, then GANGFAIL for every group of the members that are left; a notice is not forwarded. -/
def failGang (s : State) (part g : Nat) (notice : Bool) : State :=
  let s := kilnStore s (gangBase s part + 64 * g + 48) 8 (setBits (gangQuad s part g 6).toNat 62 2 1)
  let s := s.modPart part (fun p => { p with gangBy := (if notice then [g] else []) ++ p.gangBy.filter (fun x => x != g) })
  let s := (upTo (min 64 (gangField s part g 6 8 8))).foldl (poisonPlist part g) s
  let s := if notice then s else (upTo (min 64 (gangField s part g 6 0 8))).foldl (sendNotice part g) s
  let s := postEvent s part 4 0 0 0
  let gs := (memberGrids s part g).map (·.uid)
  ((s.groups.filter (fun x => gs.contains x.grid)).map (·.uid)).foldl (strikeGroup (if notice then 1 else 0)) s
/-- A lasting error has struck a core that runs groups of a member grid. -/
def failMember (s : State) (r : Grid) : State :=
  match gangOf s r.part r.packet.queue with
  | some g => failGang (killGrid s r) r.part g false
  | none => s
/-- The entries of a partition that a notice names, by its job key and GKEY (R415). -/
def matchingGangs (s : State) (part : Nat) (key : BitVec 32) (gkey : Word) : List Nat :=
  if gangBase s part = 0 || !(s.part part).en || !jobValid s part || jobKey s part != key then []
  else (upTo 16).filter (fun g => (gangQuad s part g 0).getLsbD 63 && gangField s part g 0 0 32 == gkey.toNat)
def execGangNotice (name : GangName) (s : State) : Host.Outcome State Fault Refusal :=
  .next (if s.boot == .running then
      (upTo 16).foldl (fun s p => (matchingGangs s p name.key name.gkey).foldl (fun s g => failGang s p g true) s) s
    else s)

end Sys2Proof.Machine
end

