-- ==== Sys2Proof/Machine/Shake.lean ====
section
/-! DEFINITION. SHAKE256 (FIPS 202), which boot and attestation digest with (R423, R424). -/

namespace Sys2Proof.Machine

/-- Lane (x, y) of the 5 × 5 lanes of the permutation is entry x + 5y. -/
abbrev Lanes25 := List DWord
/-- The rotations of ρ. -/
def rhoBy : List Nat := [0, 1, 62, 28, 27, 36, 44, 6, 55, 20, 3, 10, 43, 25, 39, 41, 45, 15, 21, 8, 18, 2, 61, 56, 14]
/-- The round constants of ι. -/
def iotaBy : List DWord :=
  [0x0000000000000001#64, 0x0000000000008082#64, 0x800000000000808A#64, 0x8000000080008000#64, 0x000000000000808B#64, 0x0000000080000001#64,
   0x8000000080008081#64, 0x8000000000008009#64, 0x000000000000008A#64, 0x0000000000000088#64, 0x0000000080008009#64, 0x000000008000000A#64,
   0x000000008000808B#64, 0x800000000000008B#64, 0x8000000000008089#64, 0x8000000000008003#64, 0x8000000000008002#64, 0x8000000000000080#64,
   0x000000000000800A#64, 0x800000008000000A#64, 0x8000000080008081#64, 0x8000000000008080#64, 0x0000000080000001#64, 0x8000000080008008#64]
/-- θ: every lane takes the parity of two columns. -/
def keccakTheta (a : Lanes25) : Lanes25 :=
  let c := (upTo 5).map (fun x => (upTo 5).foldl (fun q y => q ^^^ a.getD (x + 5 * y) 0) 0#64)
  (upTo 25).map (fun i => a.getD i 0 ^^^ c.getD ((i + 4) % 5) 0 ^^^ (c.getD ((i + 1) % 5) 0).rotateLeft 1)
/-- ρ and π: lane (x, y) comes from lane (x + 3y, x), rotated. -/
def keccakRhoPi (a : Lanes25) : Lanes25 :=
  (upTo 25).map (fun i =>
    let j := (i % 5 + 3 * (i / 5)) % 5 + 5 * (i % 5)
    (a.getD j 0).rotateLeft (rhoBy.getD j 0))
/-- χ: every lane takes the next two of its row. -/
def keccakChi (a : Lanes25) : Lanes25 :=
  (upTo 25).map (fun i => a.getD i 0 ^^^ (~~~(a.getD ((i + 1) % 5 + i / 5 * 5) 0) &&& a.getD ((i + 2) % 5 + i / 5 * 5) 0))
/-- One round. -/
def keccakRound (a : Lanes25) (c : DWord) : Lanes25 :=
  match keccakChi (keccakRhoPi (keccakTheta a)) with
  | x :: t => (x ^^^ c) :: t
  | [] => []
/-- KECCAK-f[1600]. -/
def keccakF (a : Lanes25) : Lanes25 := iotaBy.foldl keccakRound a
/-- Rate of SHAKE256 in bytes. -/
def shakeRate : Nat := 136
/-- The message with the suffix 1111 and its padding, in whole blocks. -/
def shakePad (m : List Byte) : List Byte :=
  let k := shakeRate - m.length % shakeRate
  m ++ (if k = 1 then [0x9F#8] else [0x1F#8] ++ List.replicate (k - 2) 0#8 ++ [0x80#8])
/-- Absorbs a block. -/
def absorbBlock (a : Lanes25) (b : List Byte) : Lanes25 :=
  keccakF ((upTo 25).map (fun i => a.getD i 0 ^^^ dw ((upTo 8).foldl (fun v j => v + 256 ^ j * (b.getD (8 * i + j) 0).toNat) 0)))
/-- The first 64 bytes of the SHAKE256 of a message. -/
def shake256 (m : List Byte) : List Byte :=
  let p := shakePad m
  let a := (upTo (p.length / shakeRate)).foldl (fun a i => absorbBlock a ((p.drop (shakeRate * i)).take shakeRate)) (List.replicate 25 0)
  (upTo 64).map (fun i => BitVec.ofNat 8 (bits (a.getD (i / 8) 0).toNat (8 * (i % 8)) 8))

end Sys2Proof.Machine
end

