-- ==== Sys2Proof/Machine/Bringup.lean ====
section
/-! DEFINITION. Power, boot and firmware (R422, R423, R425), monitors (R421), telemetry (R422), attestation (R424), and detected errors with
their log and consequences (R417 to R420). -/

namespace Sys2Proof.Machine

/-! ### Power and boot (R422, R423, R425) -/

def railUp (s : State) (r : Rail) : Option DWord := (s.rails.find? (fun x => x.1 == r)).map Prod.snd
/-- 10 ms of CLOCK. -/
def tenMs : Nat := 10000 * usCycles
/-- The rail before this one is up, for at most 10 ms. -/
def railInTurn (s : State) (r : Rail) : Bool :=
  match r with
  | .io => true
  | .memory => (match railUp s .io with | some t => s.clock.toNat ≤ t.toNat + tenMs | none => false)
  | .core => (match railUp s .memory with | some t => s.clock.toNat ≤ t.toNat + tenMs | none => false)
/-- A rail comes up in its turn. -/
def execPowerUp (rail : Rail) (s : State) : Host.Outcome State Fault Refusal :=
  .next (if (railUp s rail).isNone && railInTurn s rail then { s with rails := s.rails ++ [(rail, s.clock)] } else s)
def allRails (s : State) : Bool := (railUp s .io).isSome && (railUp s .memory).isSome && (railUp s .core).isSome
/-- The checks of the boot ROM (R423 step 2). -/
def imageOk (s : State) (m : FirmwareImage) : Bool := m.whole && m.signed && s.fusedMin ≤ m.version
/-- What outlives a reset: CLOCK, the rails, the fuses, the stored image, the device address and HBM; and the model's own numbers
and schedule (log entry 83). -/
def keepOver (s : State) (hbm : Memory) : State :=
  { State.reset with clock := s.clock, agenda := s.agenda, free := s.free, uid := s.uid, rails := s.rails, firmware := s.firmware,
                     booted := s.booted, fusedMin := s.fusedMin, devid := s.devid, hbm := hbm }
/-- The device address that firmware sets, never the wildcard (R404). -/
def firmwareDevid (s : State) : Word :=
  if Config.deviceAddress s.firmware.content = 0xFFFFFFFF#32 then 0 else Config.deviceAddress s.firmware.content
/-- Firmware starts: the device address set, every SRAM zero, every partition block clear, the cluster budgets set (R423 step 4, R404, R371). -/
def startFirmware (s : State) : State :=
  { s with boot := .running, booted := s.firmware, devid := firmwareDevid s, budgetBase := Config.clusterBudget, overAllowed := Config.budgetOverrun,
           budgets := List.replicate 24 { limit := Config.clusterBudget, left := Config.clusterBudget.getD 0 } }
def execResetRelease (s : State) : Host.Outcome State Fault Refusal :=
  .next (
    if !allRails s then s
    else
      let s := keepOver s s.hbm
      if imageOk s s.firmware then startFirmware s else { s with boot := .recovery })
/-- A provisioning image over port 0, in recovery or while every partition is STOPPED: it takes effect at the next reset. -/
def execProvisioningImage (img : FirmwareImage) (fromPort : Nat) (s : State) : Host.Outcome State Fault Refusal :=
  .next (
    let idle := s.boot == .recovery || (s.boot == .running && s.parts.all (fun p => p.pstate == 0))
    if fromPort = 0 && idle && imageOk s img then { s with firmware := img } else s)
/-- Power is lost: what is volatile is gone. An image that was being written is left partly written. -/
def execPowerLoss (partWritten : Bool) (s : State) : Host.Outcome State Fault Refusal :=
  .next (
    let k := keepOver s []
    { k with rails := [], firmware := if partWritten then { s.firmware with whole := false } else s.firmware })

/-! ### Telemetry (R422) -/

/-- What the I3C target answers. Temperatures, voltages, currents and power are what the monitors measure: open. -/
def execI3cRead (what : Telemetry) (s : State) : Host.Outcome State Fault Refusal :=
  .next (match what with
    | .rasCount => { s with i3c := s.kiln.rascount.toNat }
    | .portErr => { s with i3c := s.kiln.porterr.toNat }
    | _ => { s.takeFree.2 with i3c := s.takeFree.1.toNat })
/-- A standard common command code changes nothing the spec names. -/
def execI3cCcc (_code : Byte) (s : State) : Host.Outcome State Fault Refusal := .next s

/-! ### The error log (R420) -/

/-- An error's place for its record: source, die or port, core, physical address or 0, and what tells its unit from others. -/
structure ErrorPlace where
  source : Nat
  die : Nat
  core : Nat
  addr : Nat
  unit : List Nat
def dieOfAddr (a : Nat) : Nat := a / (144 * 2 ^ 30)
/-- The core of an operator memory that an error strikes: the first stripe's. -/
def tunCore (s : State) (n : Nat) : Nat := match s.tun? n with | some t => (t.cores.head?).getD 0 | none => 0
def groupCore (s : State) (uid : Nat) : Nat := match s.group? uid with | some g => g.core | none => 0
/-- The core of a team's memories, or of the odd half of a paired team's (R52). -/
def teamCore (s : State) (uid half : Nat) : Nat := match s.team? uid with | some t => t.core + half | none => 0
/-- An error in an SRAM of a core. -/
def coreError (core addr : Nat) (unit : List Nat) : ErrorPlace := ⟨3, dieOf core, core, addr, core :: unit⟩
def errorPlace (s : State) (e : ErrorSite) : ErrorPlace :=
  match e with
  | .hbm a => ⟨0, dieOfAddr a, 0, a / 64 * 64, [a / 64]⟩
  | .l2 a => ⟨1, dieOfAddr a, 0, a / 64 * 64, [a / 64]⟩
  | .dieScratch d g o => ⟨2, d, 0, 0, [d, g, o / 64]⟩
  | .l1Line c l => coreError c (128 * l) [0, l]
  | .instrLine c l => coreError c (128 * l) [1, l]
  | .scaleLine c l => coreError c (128 * l) [2, l]
  | .scratch t o => coreError (teamCore s t (o / 2 ^ 18)) 0 [3, t, o / 64]
  | .acc t h o => coreError (teamCore s t h) 0 [4, t, h, o / 64]
  | .tunMemory n => coreError (tunCore s n) 0 [5, n]
  | .group u => coreError (groupCore s u) 0 [6, u]
  | .link d a => ⟨4, d, 0, a / 64 * 64, [0, d, a / 64]⟩
  | .linkScratch d t g o => ⟨4, d, 0, 0, [1, d, t, g, o / 64]⟩
  | .port p => ⟨5, p, 0, 0, [p]⟩
  | .kiln => ⟨6, 0, 0, 0, []⟩
def rasBase (s : State) : Nat := (s.kiln.rasbase &&& 0xFFFFFFFF8000#64).toNat
/-- Writes a new record; with RASBASE 0 it is counted as lost. -/
def rasWrite (s : State) (p : ErrorPlace) (lasting : Bool) : State :=
  let w := s.kiln.rascount
  let n := fld w 0 32
  if rasBase s = 0 then { s with kiln := { s.kiln with rascount := dw ((fld w 32 32 + 1) % 2 ^ 32 * 2 ^ 32 + n) } }
  else
    let a := rasBase s + 32 * (n % 1024)
    let s := kilnStore s a 8 s.clock.toNat
    let s := kilnStore s (a + 8) 8 (p.source + b2n lasting * 2 ^ 8 + p.die % 256 * 2 ^ 16 + p.core % 256 * 2 ^ 24)
    let s := kilnStore s (a + 16) 8 p.addr
    let s := kilnStore s (a + 24) 8 0
    { s with kiln := { s.kiln with rascount := dw (fld w 32 32 * 2 ^ 32 + (n + 1) % 2 ^ 32) }
             ras := { unit := p.unit, lasting := lasting, base := rasBase s, source := p.source, number := n, clock := s.clock, merged := 0 } :: s.ras }
/-- A record of this unit and kind that is not older than 1 ms, and that still stands in the ring. -/
def rasRecent (s : State) (p : ErrorPlace) (lasting : Bool) : Option RasRecent :=
  s.ras.find? (fun x => x.unit == p.unit && x.source == p.source && x.lasting == lasting && s.clock.toNat ≤ x.clock.toNat + 1000 * usCycles &&
    x.base == rasBase s && (fld s.kiln.rascount 0 32 + 2 ^ 32 - x.number) % 2 ^ 32 ≤ 1024)
/-- A detection is recorded, or merged into the record of its unit; transient and lasting ones have records of their own (log entry 117). -/
def rasLog (s : State) (p : ErrorPlace) (lasting : Bool) : State :=
  match rasRecent s p lasting with
  | some x =>
    let s := { s with ras := s.ras.map (fun y => if y == x then { y with merged := y.merged + 1 } else y) }
    kilnStore s (x.base + 32 * (x.number % 1024) + 24) 8 (x.merged + 1)
  | none => rasWrite s p lasting

/-! ### Errors (R417, R418) -/

/-- A dirty L1 line is written back, and the units of its dirty bytes are poisoned at the home; a clean one is filled again when it is
needed. -/
def lostLine (s : State) (core line : Nat) : State :=
  match cacheLine? s .l1 core line with
  | none => s
  | some c =>
    let s := flushLine s core line
    let s := if (c.dirty.extractLsb' 0 64).toNat = 0 then s else setPoison s (.hbm (128 * line))
    if (c.dirty.extractLsb' 64 64).toNat = 0 then s else setPoison s (.hbm (128 * line + 64))
/-- The unit of accumulator memory that a lasting error strikes holds free values: the spec gives no consequence (log entry 118). -/
def lostAcc (s : State) (team half off : Nat) : State :=
  { s with acc := memWriteBytes s.acc ((2 * team + half) * 2 ^ 19 + off / 64 * 64) ((upTo 64).map (Config.freeByte s.free)), free := s.free + 1 }
/-- The consequence of a lasting error. A unit of core scratchpad is poisoned like one of die scratchpad, and a clean line of a core is dropped and
fetched again (log entry 118). -/
def errorEffect (s : State) (e : ErrorSite) : State :=
  match e with
  | .hbm a | .l2 a | .link _ a => if a < hbmEnd then setPoison s (.hbm a) else s
  | .dieScratch d g o | .linkScratch _ d g o => if (s.grid? g).isSome && d < 4 then setPoison s (.die (g * 4 + d) o) else s
  | .l1Line c l => lostLine s c l
  | .instrLine c l => dropLine s .instr c l
  | .scaleLine c l => dropLine s .scale c l
  | .scratch t o => (match s.team? t with | some x => if o < x.scratch then setPoison s (.scratch t o) else s | none => s)
  | .acc t h o => (match s.team? t with | some x => if o < x.acc && h < 2 then lostAcc s t h o else s | none => s)
  | .tunMemory n => s.modTun n (fun t => { t with bad := true })
  | .group u => if (s.group? u).isSome then retireGroup s u else s
  | .port _ | .kiln => s
/-- The cores an error strikes (R416). -/
def struckCores (s : State) (e : ErrorSite) : List Nat :=
  match e with
  | .l1Line c _ | .instrLine c _ | .scaleLine c _ => [c]
  | .scratch t o => if (s.team? t).isSome then [teamCore s t (o / 2 ^ 18)] else []
  | .acc t h _ => if (s.team? t).isSome then [teamCore s t h] else []
  | .tunMemory n => (match s.tun? n with | some t => t.cores | none => [])
  | .group u => if (s.group? u).isSome then [groupCore s u] else []
  | _ => []
/-- The grids that run groups on those cores. -/
def struckGrids (s : State) (e : ErrorSite) : List Nat :=
  ((s.groups.filter (fun g => (struckCores s e).contains g.core && teamOnCores s g.team)).map (·.grid)).eraseDups
/-- A detected error has been retried: it is logged; a lasting one has its consequence, and fails the gangs it strikes. -/
def execErrorRetry (e : ErrorSite) (lasting : Bool) (s : State) : Host.Outcome State Fault Refusal :=
  .next (
    if s.boot != .running then s
    else
      let gs := struckGrids s e
      let s := rasLog s (errorPlace s e) lasting
      if !lasting then s
      else gs.foldl (fun s u => match s.grid? u with | some r => failMember s r | none => s) (errorEffect s e))

/-! ### Monitors (R421) -/

/-- A cluster of the die has spent its budget for longer than firmware allows (R372). -/
def overBudget (s : State) (die : Nat) : Bool :=
  match s.overAllowed with
  | none => false
  | some n => s.budgets.zipIdx.any (fun q => q.2 / 6 == die && n < q.1.spent)
/-- The core clock of a die after one reading: lowered while it is too hot, draws too much, or has a cluster over its budget; nominal
otherwise (log entry 82). -/
def clockAfter (q : Thresholds) (mhz : Nat) (r : MonitorReading) (spent : Bool) : Nat :=
  if r.temps.any (fun t => q.hot ≤ t) || q.power < r.power || spent then max 875 (mhz - 125) else 1750
/-- Whether the budgets are halved after a reading. -/
def halvedAfter (q : Thresholds) (old : Bool) (r : MonitorReading) : Bool :=
  if q.current < r.current then true else if r.current < q.currentClear then false else old
/-- The rail domains of a die that read outside their limits: six of the core rail at 450 mV, memory at 1 100, I/O at 750 (R422). -/
def railsOut (q : Thresholds) (r : MonitorReading) : List Nat :=
  let out (nominal v : Nat) : Bool := nominal * q.rail < 100 * (max nominal v - min nominal v)
  (upTo 6).filter (fun i => out 450 (r.volts.getD i 450)) ++ (if out 1100 r.memoryMv then [6] else []) ++ (if out 750 r.ioMv then [7] else [])
/-- Since when each rail of a die has been outside, after a reading. -/
def railAfter (s : State) (die : Nat) (r : MonitorReading) : List (Nat × DWord) :=
  s.railOut.filter (fun x => x.1 / 8 != die) ++
    (railsOut s.limits r).map (fun i => (8 * die + i, (lookupNat (8 * die + i) s.railOut).getD s.clock))
/-- A rail has been outside its limits for long enough. -/
def railBad (s : State) (die : Nat) (r : MonitorReading) : Bool :=
  (railAfter s die r).any (fun x => x.1 / 8 == die && x.2.toNat + s.limits.railUs * usCycles ≤ s.clock.toNat)
/-- Too hot, or a rail outside its limits: clocks stop, a record is written, and power removal is requested. No state is kept but the log: its ring
and the registers that tell of it (log entry 119). -/
def monitorStop (s : State) (die : Nat) : State :=
  let t := rasWrite s ⟨6, die, 0, 0, []⟩ true
  let b := rasBase t
  { keepOver t (if b = 0 then [] else memMove [] b t.hbm b 32768) with
      kiln := { rasbase := t.kiln.rasbase, rascount := t.kiln.rascount, porterr := t.kiln.porterr }, boot := .shutdown, powerOff := true }
/-- What firmware sets with a poll: REMTMO from 1 ms to 1 s (R408), and thresholds (R421). -/
def firmwareSets (s : State) (r : MonitorReading) : State :=
  { s with remtmo := match r.setRemtmo with | some n => if 1000 * usCycles ≤ n && n ≤ 1000000 * usCycles then n else s.remtmo | none => s.remtmo
           limits := r.setLimits.getD s.limits }
def execMonitorPoll (die : Nat) (r : MonitorReading) (s : State) : Host.Outcome State Fault Refusal :=
  .next (
    if s.boot != .running || 4 ≤ die then s
    else
      let s := firmwareSets { s with monitors := s.monitors.set die r } r
      if r.temps.any (fun t => s.limits.stop ≤ t) || railBad s die r then monitorStop s die
      else
        let base := match r.setBudget with | some b => some b | none => s.budgetBase
        let h := halvedAfter s.limits s.halved r
        let limit := base.map (fun b => if h then b / 2 else b)
        { s with railOut := railAfter s die r, dieClock := s.dieClock.set die (clockAfter s.limits (s.dieClock.getD die 1750) r (overBudget s die)),
                 budgetBase := base, halved := h,
                 budgets := s.budgets.map (fun (b : Budget) => { b with limit := limit, left := match limit with | some l => min b.left l | none => b.left }) })

/-! ### Attestation (R424) -/

/-- Bytes of a quadword list. -/
def quadBytes (l : List DWord) : List Byte := l.flatMap (fun q => leBytes 8 q.toNat)
/-- The 16 partition blocks, 256 bytes each. -/
def blockBytes (s : State) : List Byte := (upTo 16).flatMap (fun p => quadBytes (((s.part p).block ++ List.replicate 32 0).take 32))
/-- The report up to its signature. -/
def reportBody (s : State) (nonce : List Byte) : List Byte :=
  let d := shake256 s.booted.content
  nonce ++ leBytes 4 s.devid.toNat ++ leBytes 4 s.booted.version ++ d ++ shake256 (blockBytes s) ++ (upTo 1952).map (Config.identityKey d)
def report (s : State) (nonce : List Byte) : List Byte :=
  reportBody s nonce ++ (upTo 3309).map (Config.signReport (shake256 s.booted.content) (reportBody s nonce))
/-- The firmware writes the report to the next 8 KB-aligned page after the nonce. -/
def execAttreq (v : DWord) (s : State) : Host.Outcome State Fault Refusal :=
  .next (
    let a := roundUp (v.toNat + 64) 8192
    if s.boot != .running || hbmEnd < a + 8192 then s
    else
      let b := report s (leBytes 64 (homeRead s v.toNat 64))
      kilnStore s a b.length (leNat b))

end Sys2Proof.Machine
end

