-- ==== Sys2Proof/Machine/Issue.lean ====
section
/-! DEFINITION. What happens before an instruction of a split executes: pending causes in their order (R36, R326, R388), held lanes
that rejoin (R37), instruction fetch (R154) and decoding (R152). -/

namespace Sys2Proof.Machine

/-! ### Whether a group may issue -/

/-- The device runs, the group's partition runs, its team is on its cores, and it is not stopped by an escalation (R391, R395,
R399, R423). -/
def canRun (s : State) (g : Group) : Bool :=
  s.boot == .running && (s.part (fld g.partid 0 4)).running && g.gstate == .resident &&
  (match s.team? g.team with | some t => !t.saved && !t.heldBySave | none => false)
/-- A ready split, or a stalled one, which tries again (R363). -/
def Split.mayIssue (sp : Split) : Bool :=
  match sp.status with
  | .ready => true
  | .stalled _ => true
  | .parked _ => false

/-! ### Pending causes (R388) -/

/-- The first pending cause that does not wait for the handler's ERET, with the group and split once it is taken. Lanes that run on take
none (R37). -/
def pendingCause (s : State) (g : Group) (sp : Split) : Option (Cause × Group × Split) :=
  let free := pendingBits s g sp &&& ~~~owedNow sp
  if sp.runOn.isSome then none
  else if free.getLsbD 0 then some ({ code := cGangfail, sub := sp.gangFail.getD 0 }, g, { sp with gangFail := none })
  else if free.getLsbD 1 then
    match g.lxfaults with
    | f :: fs => some ({ code := cLxfault, addr := f.record, lxf := true }, { g with lxfaults := fs, lxHand := some f }, sp)
    | [] => none
  else if free.getLsbD 2 then some ({ code := cTimer }, g, { sp with timerTaken := true })
  else none
/-- A cause kept at this instruction for a handler of the level the split is at. -/
def HeldCause.here (w : HeldCause) (sp : Split) : Bool := w.inUser == sp.inUser && w.inSup == sp.inSup
/-- The cause to raise again (R325). -/
def waitingCause (sp : Split) : Option HeldCause := sp.waiting.find? (fun w => w.here sp && w.pc == sp.pc)
/-- A cause to take before the next instruction: the group and split once it is taken, where it returns to, and the instruction's words. -/
structure Early where
  cause : Cause
  group : Group
  split : Split
  epc : CodeAddr
  insn : List Word
/-- Takes it. One that must wait for an occupied handler stays as it was (R325). -/
def takePending (s : State) (g : Group) (sp : Split) (c : Early) : State :=
  match routeOf g sp c.cause with
  | .wait sup => parkHandler s g sp sp.mask sup
  | _ => deliver s (c.group.setSplit c.split) c.split c.cause c.epc sp.mask c.insn

/-! ### Held lanes (R37) -/

/-- Lanes held at the PC the split has reached rejoin it. -/
def mergeHeld : Nat → Split → Split
  | 0, sp => sp
  | n + 1, sp =>
    match sp.stack with
    | .held pc m :: st => if pc == sp.pc then mergeHeld n { sp with mask := sp.mask ||| m, stack := st } else sp
    | _ => sp

/-! ### Fetch and decode -/

/-- The words of the instruction at the split's PC: one, or three when bit 0 of the first is set (R145, R154). A fault comes with
the words that were read. A PC with a bit of 63:54 set has no page (R366). -/
def fetchInstr (s : State) (g : Group) (sp : Split) : State × Except (Cause × List Word) (List Word) :=
  let c := splitCtx g sp
  let at_ (k : Nat) := (sp.pc + BitVec.ofNat 54 k).toNat
  if sp.farPc != 0 then (s, .error ((causeAt cPage 0 (sp.farPc ++ sp.pc).toNat).withAccess 4, [])) else
  match fetchWord s c sp.prefetch (at_ 0) with
  | (s, .error f) => (s, .error (f, []))
  | (s, .ok w0) =>
    if !isLong w0 then (s, .ok [w0])
    else
      match fetchWord s c sp.prefetch (at_ 4) with
      | (s, .error f) => (s, .error (f, [w0]))
      | (s, .ok w1) =>
        match fetchWord s c sp.prefetch (at_ 8) with
        | (s, .error f) => (s, .error (f, [w0, w1]))
        | (s, .ok w2) => (s, .ok [w0, w1, w2])
/-- The bytes of words in memory order (R5). -/
def wordBytes (ws : List Word) : List Byte := ws.flatMap (fun w => leBytes 4 w.toNat)
/-- The words of a trap frame when some could not be read: what stands there is open (R390). -/
def openWords (s : State) (ws : List Word) : State × List Word :=
  (upTo (3 - ws.length)).foldl (fun r _ => (r.1.takeFree.2, r.2 ++ [r.1.takeFree.1.extractLsb' 0 32])) (s, ws)
/-- An illegal word: running-on lanes stop before W = 1, W parks, then ILLOP (R28, R37, R146, R152). -/
def illegalIssue (s : State) (g : Group) (sp : Split) (ws : List Word) : State :=
  let w := match ws with | w0 :: _ => w0.getLsbD 1 | [] => false
  match sp.runOn with
  | some r => if w then finishRunOn s g sp r else raise s g sp { code := cIllop } ws
  | none => if w && !sp.pend.isEmpty then parkAt s g sp .results else raise s g sp { code := cIllop } ws

/-- Causes kept for an instruction the split has left are dropped; page faults are no longer in hand once nothing waits for them. -/
def Split.settled (sp : Split) : Split :=
  let w := sp.waiting.filter (fun w => !w.here sp || w.pc == sp.pc)
  { sp with waiting := w, pages := if !sp.inSup && sp.runOn.isNone && w.isEmpty then [] else sp.pages }
/-- The split at an issue: held lanes rejoin, unless a cause of the split's own lanes is to be raised again; its waiting age starts anew
(R37, R325, R364). -/
def Split.issuing (sp : Split) (now : DWord) : Split :=
  let x := if (waitingCause sp).isSome then sp else mergeHeld sp.stack.length sp
  { x.settled with status := .ready, aging := 0, readySince := now }
/-- The words of the instruction about to issue, for a frame. -/
def wordsAt (s : State) (g : Group) (sp : Split) : State × List Word :=
  match fetchInstr s g sp with
  | (s, .ok ws) => (s, ws)
  | (s, .error (_, ws)) => openWords s ws
/-- What a split takes before its next instruction: a pending cause (R388), a lasting error met by its matrix operation (R252), a cause that
met an occupied handler (R325). Lanes that run on take none of them (R37). -/
def causeAtIssue (s : State) (g : Group) (sp : Split) : State × Option Early :=
  match pendingCause s g sp with
  | some c => (s, some { cause := c.1, group := c.2.1, split := c.2.2, epc := sp.pc, insn := [] })
  | none =>
    if sp.runOn.isSome then (s, none) else
    match (if (owedNow sp).getLsbD 3 then none else sp.poisonAt) with
    | some a =>
      let w := wordsAt s g sp
      (w.1, some { cause := { code := cPoison, addr := a, access := 8 }, group := g, split := { sp with poisonAt := none }, epc := sp.pc, insn := w.2 })
    | none =>
      match waitingCause sp with
      | some w => (s, some { cause := w.cause, group := g, split := { sp with waiting := sp.waiting.filter (fun x => x != w) }, epc := w.epc, insn := w.insn })
      | none => (s, none)
/-- One issue of a split, up to its instruction: the state, and the instruction to execute as that split. -/
def issueSplit (s : State) (r : SplitRef) : State × Option Instr :=
  match s.split? r with
  | none => (s, none)
  | some (g, sp0) =>
    if !canRun s g || !sp0.mayIssue then (s, none)
    else
      let sp := sp0.issuing s.clock
      let g := g.setSplit sp
      let s := s.setGroup g
      match causeAtIssue s g sp with
      | (s, some c) => (takePending s g sp c, none)
      | (s, none) =>
        match fetchInstr s g sp with
        | (s, .error (f, ws)) =>
          let o := openWords s ws
          (raise o.1 g sp f o.2, none)
        | (s, .ok ws) =>
          match decodeKloam (wordBytes ws) with
          | .error _ => (illegalIssue s g sp ws, none)
          | .ok (i, _) => ({ s with actor := .split r }, some i)

end Sys2Proof.Machine
end

