-- ==== Sys2Proof/Machine/Events.lean ====
section
/-! DEFINITION. The rows of splits and groups that are no instruction: results that land (R28), completions (R31), traps taken at an issue
(R34, R324), timers (R36, R184), wakes (R363, R331), aging (R364), and the matrix budget (R371). -/

namespace Sys2Proof.Machine

/-! ### Results and completions (R28, R31) -/

/-- Results of an outstanding operation land in the lanes named. -/
def execVariableLatencyResult (sp : SplitRef) (op : Nat) (lanes : Mask) (s : State) : Host.Outcome State Fault Refusal :=
  .next (match s.split? sp with
    | some (g, x) => if g.gstate == .resident then s.setGroup (landPend g x op lanes) else s
    | none => s)
/-- All that is outstanding of an operation lands. -/
def landOp (g : Group) (op : Nat) : Group :=
  g.splits.foldl (fun g x => match g.split? x.slot with | some y => landPend g y op (fullMask 64) | none => g) g
/-- The oldest operation on a path is counted, if it is complete; its results have been written. -/
def countOldest (g : Group) (path : Nat) : Group :=
  match g.flights.find? (fun f => f.path == path) with
  | some f => if f.done then (fun (g : Group) => { g with flights := g.flights.erase f }) (landOp g f.op) else g
  | none => g
def execOperationCompletion (group : Nat) (path : BitVec 3) (s : State) : Host.Outcome State Fault Refusal :=
  .next (match s.group? group with
    | some g => if g.gstate == .resident then s.setGroup (countOldest g path.toNat) else s
    | none => s)

/-! ### Causes taken at an issue (R34, R36, R324, R326, R388) -/

/-- Takes the cause of the next issue when its route is one of those meant. -/
def entryAt (r : SplitRef) (meant : Route → Bool) (s : State) : State :=
  match s.split? r with
  | none => s
  | some (g, sp) =>
    if !canRun s g || !sp.mayIssue then s
    else
      let x := sp.issuing s.clock
      match causeAtIssue s (g.setSplit x) x with
      | (_, none) => s
      | (t, some c) => if meant (routeOf (g.setSplit x) x c.cause) then takePending (t.setGroup (g.setSplit x)) (g.setSplit x) x c else s
def execUserTrapEntry (sp : SplitRef) (s : State) : Host.Outcome State Fault Refusal := .next (entryAt sp (fun r => r == .user) s)
def execSupervisorTrapEntry (sp : SplitRef) (s : State) : Host.Outcome State Fault Refusal := .next (entryAt sp (fun r => r == .sup) s)
def execEscalation (sp : SplitRef) (s : State) : Host.Outcome State Fault Refusal := .next (entryAt sp (fun r => r == .hyp) s)

/-! ### Waking (R184, R331, R363) -/

/-- The split becomes ready; its waiting age counts from now. -/
def Split.wake (sp : Split) (now : DWord) : Split := { sp with status := .ready, readySince := now, aging := 0 }
def isSleeping (sp : Split) : Bool := match sp.status with | .parked (.sleep _) => true | _ => false
/-- A sleeping split goes on after its SLEEP. -/
def wakeSleeper (now : DWord) (sp : Split) : Split := if isSleeping sp then (sp.next 4).wake now else sp
/-- A TIMER that is due ends the SLEEP of each split of the group that has not taken it, even where it waits for the ERET of the handler the
split sleeps in: DESIGN CHOICE, R184 speaks only of one that falls due (log entry 113). -/
def execTimerDue (group : Nat) (s : State) : Host.Outcome State Fault Refusal :=
  .next (s.modGroup group (fun g =>
    { g with splits := g.splits.map (fun sp => if timerPending s g sp then wakeSleeper s.clock sp else sp) }))
def execSleepWake (sp : SplitRef) (s : State) : Host.Outcome State Fault Refusal :=
  .next (match s.split? sp with
    | some (g, x) =>
      (match x.status with
       | .parked (.sleep t) => if canRun s g && t.toNat ≤ s.clock.toNat then s.setSplit g.uid (wakeSleeper s.clock x) else s
       | _ => s)
    | none => s)
/-- A supervisor wake: GRID, TEAM and GROUP name the group. -/
def wokenBy (s : State) (part : Nat) (v : DWord) (g : Group) : Bool :=
  groupPart g == part && g.groupid == fld v 48 6 &&
  (match s.grid? g.grid with | some r => r.gridid.toNat == fld v 0 32 | none => false) &&
  (match s.team? g.team with | some t => t.teamid % 2 ^ 16 == fld v 32 16 | none => false)
def execWake (part : Nat) (v : DWord) (s : State) : Host.Outcome State Fault Refusal :=
  .next { s with groups := s.groups.map (fun g =>
    if wokenBy s part v g then { g with splits := g.splits.map (wakeSleeper s.clock) } else g) }
/-- The requests of a split's operation are over, and its results written. -/
def statusesDone (s : State) (g : Group) (sp : Split) (op : Nat) : Bool :=
  s.remotes.all (fun o => !(o.engine.isNone && o.group == g.uid && o.op == op) || o.released) && !sp.pend.any (fun p => p.op == op)
/-- A charge this split's matrix operation waits with (R371). -/
def waitOf (sp : Split) : BudgetWait := (budgetWait sp).getD ⟨0, 0, sp.age, false⟩
/-- The cause of a stall has cleared (R363). -/
def stallOver (s : State) (g : Group) (sp : Split) : Stall → Bool
  | .results => sp.pend.length < 16
  | .counter p => g.counter p < 63
  | .budget _ => budgetFree s g (waitOf sp)
  | .fence strong =>
    !(match sp.fenceWait with | some w => w.busy s g || remapBusy s w.remap | none => false) && !(strong && strongAway s g sp)
  | .block l => l.all (fun p => !blockAsked s g.uid p.1 p.2)
  | .engine rs => rs.any (fun r => !engineFull s r)
/-- Looks at what a parked or stalled split waits for. Collectives, watched words, draws and sleeps have rows of their own. -/
def wakeSplit (s : State) (g : Group) (sp : Split) : State :=
  match sp.status with
  | .stalled x => if stallOver s g sp x then s.setSplit g.uid (sp.wake s.clock) else s
  | .parked .results => if sp.pend.isEmpty then s.setSplit g.uid (sp.wake s.clock) else s
  | .parked .join => joinCheck s g.uid sp.pc
  | .parked (.bar id) => barCheck s g.team id
  | .parked (.waitc path n) => if g.counter path ≤ n.toNat then waitcDone s g (sp.wake s.clock) path else s
  | .parked (.statuses op) => if statusesDone s g sp op then s.setSplit g.uid (sp.wake s.clock) else s
  | .parked (.handler sup) =>
    if handlerBusy g sp.slot sup then s else s.setSplit g.uid (sp.wake s.clock)
  | .parked (.page p) => if pageInHand g sp p then s else s.setSplit g.uid (sp.wake s.clock)
  | _ => s
def execSplitWake (sp : SplitRef) (s : State) : Host.Outcome State Fault Refusal :=
  .next (match s.split? sp with
    | some (g, x) => if canRun s g then wakeSplit s g x else s
    | none => s)

/-! ### Watched words (R233, R234) -/

def execWaitphReread (sp : SplitRef) (s : State) : Host.Outcome State Fault Refusal :=
  .next (match s.split? sp with
    | some (g, x) =>
      (match x.status with
       | .parked (.waitph ph o sc ws fs insn again) =>
         if canRun s g then waitphAgain s g x ph { order := o.toNat, scope := sc.toNat, cp := 0 } ws fs insn again else s
       | _ => s)
    | none => s)
def execRawaitClaim (sp : SplitRef) (s : State) : Host.Outcome State Fault Refusal :=
  .next (match s.split? sp with
    | some (g, x) =>
      (match x.status with
       | .parked (.rawait dst o sc ls fs insn) =>
         if canRun s g then rawaitGo s g (x.wake s.clock) { order := o.toNat, scope := sc.toNat, cp := 0 } dst ls fs insn else s
       | _ => s)
    | none => s)

/-! ### Aging (R364) -/

/-- The effective priority of a split. -/
def effPri (g : Group) (sp : Split) : Nat := min 3 (fld g.sstatus 8 2 + sp.aging)
def agingDue (s : State) (g : Group) (sp : Split) : Bool :=
  sp.status == .ready && effPri g sp < 3 && sp.readySince.toNat + 2048 * (sp.aging + 1) ≤ s.clock.toNat
def execPriorityAging (sp : SplitRef) (s : State) : Host.Outcome State Fault Refusal :=
  .next (match s.split? sp with
    | some (g, x) => if canRun s g && agingDue s g x then s.setSplit g.uid { x with aging := x.aging + 1 } else s
    | none => s)

/-! ### Matrix budget (R371) -/

/-- A new microsecond's budget; whether the last one was spent is counted (R372). -/
def Budget.renew (b : Budget) : Budget :=
  match b.limit with
  | some l => { b with left := l, spent := if b.left = 0 then b.spent + 1 else 0 }
  | none => { b with left := 0, spent := 0 }
/-- A new microsecond's budget. -/
def execBudgetPeriod (cluster : Nat) (s : State) : Host.Outcome State Fault Refusal :=
  .next (if s.boot == .running then
      { s with budgets := s.budgets.zipIdx.map (fun q => if q.2 = cluster then q.1.renew else q.1) }
    else s)
/-- A split whose matrix operation has waited 20 µs. -/
def waitedLong (s : State) (sp : Split) : Bool :=
  match sp.budgetSince with
  | some t => t.toNat + 20 * usCycles ≤ s.clock.toNat
  | none => false
/-- The splits of a core whose matrix operations have waited 20 µs: group, slot, since. -/
def longWaiters (s : State) (core : Nat) : List (Nat × Nat × Nat) :=
  (coreGroups s core).flatMap (fun g => (g.splits.filter (waitedLong s)).map (fun x => (g.uid, x.slot, (x.budgetSince.getD 0).toNat)))
def longest : List (Nat × Nat × Nat) → Option (Nat × Nat × Nat)
  | [] => none
  | x :: xs => match longest xs with | some y => if y.2.2 < x.2.2 then some y else some x | none => some x
/-- The operation that has waited longest goes next. -/
def execMatrixWaitLimit (core : Nat) (s : State) : Host.Outcome State Fault Refusal :=
  .next (match longest (longWaiters s core) with
    | some x => s.modSplit x.1 x.2.1 (fun sp => { sp with budgetGranted := true })
    | none => s)

end Sys2Proof.Machine
end

