-- ==== Sys2Proof/Machine/Lauter.lean ====
section
/-! DEFINITION. Lauter instructions but the moves: registers, branches and loops (R271 to R274), single accesses (R272), descriptors (R275 to
R278), rings and barrier words (R284 to R287), FENCE, END and ABORT (R288, R289). -/

namespace Sys2Proof.Machine

/-! ### Registers (R271) -/

/-- An instruction that writes X[d] and goes on. -/
def lauterWrite (i : Instr) (f : LauterF) (v : Program → DWord) (s : State) : Host.Outcome State Fault Refusal :=
  asProgram i f (fun s r p => progNext s r (p.setX f.d (v p))) s
/-- X[a] op X[b], by opcode. -/
def lauterAlu (op : Nat) (a b : DWord) : DWord :=
  match op with
  | 0x04 => a + b
  | 0x05 => a - b
  | 0x06 => a * b
  | 0x07 => a &&& b
  | 0x08 => a ||| b
  | 0x09 => a ^^^ b
  | 0x0A => if 64 ≤ b.toNat then 0 else a <<< b.toNat
  | _ => if 64 ≤ b.toNat then 0 else a >>> b.toNat
def execLauterLi (f : LauterF) (s : State) : Host.Outcome State Fault Refusal := lauterWrite (.lauterLi f) f (fun _ => sx32 f.imm32) s
def execLauterLih (f : LauterF) (s : State) : Host.Outcome State Fault Refusal :=
  lauterWrite (.lauterLih f) f (fun p => f.imm32 ++ (p.xReg f.d).extractLsb' 0 32) s
def execLauterMov (f : LauterF) (s : State) : Host.Outcome State Fault Refusal := lauterWrite (.lauterMov f) f (fun p => p.xReg f.a) s
def execLauterAdd (f : LauterF) (s : State) : Host.Outcome State Fault Refusal := lauterWrite (.lauterAdd f) f (fun p => lauterAlu 0x04 (p.xReg f.a) (p.xReg f.b)) s
def execLauterSub (f : LauterF) (s : State) : Host.Outcome State Fault Refusal := lauterWrite (.lauterSub f) f (fun p => lauterAlu 0x05 (p.xReg f.a) (p.xReg f.b)) s
def execLauterMul (f : LauterF) (s : State) : Host.Outcome State Fault Refusal := lauterWrite (.lauterMul f) f (fun p => lauterAlu 0x06 (p.xReg f.a) (p.xReg f.b)) s
def execLauterAnd (f : LauterF) (s : State) : Host.Outcome State Fault Refusal := lauterWrite (.lauterAnd f) f (fun p => lauterAlu 0x07 (p.xReg f.a) (p.xReg f.b)) s
def execLauterOr (f : LauterF) (s : State) : Host.Outcome State Fault Refusal := lauterWrite (.lauterOr f) f (fun p => lauterAlu 0x08 (p.xReg f.a) (p.xReg f.b)) s
def execLauterXor (f : LauterF) (s : State) : Host.Outcome State Fault Refusal := lauterWrite (.lauterXor f) f (fun p => lauterAlu 0x09 (p.xReg f.a) (p.xReg f.b)) s
def execLauterShl (f : LauterF) (s : State) : Host.Outcome State Fault Refusal := lauterWrite (.lauterShl f) f (fun p => lauterAlu 0x0A (p.xReg f.a) (p.xReg f.b)) s
def execLauterShr (f : LauterF) (s : State) : Host.Outcome State Fault Refusal := lauterWrite (.lauterShr f) f (fun p => lauterAlu 0x0B (p.xReg f.a) (p.xReg f.b)) s
def execLauterAddi (f : LauterF) (s : State) : Host.Outcome State Fault Refusal :=
  lauterWrite (.lauterAddi f) f (fun p => p.xReg f.a + sx32 f.imm32) s

/-! ### Branches and loops (R273, R274) -/

def lauterBranch (i : Instr) (f : LauterF) (c : DWord → DWord → Bool) (s : State) : Host.Outcome State Fault Refusal :=
  asProgram i f (fun s r p =>
    if c (p.xReg f.a) (p.xReg f.b) then s.setHead r (p.branch (p.ahead f.imm32)) else progNext s r p) s
def execLauterBeq (f : LauterF) (s : State) : Host.Outcome State Fault Refusal := lauterBranch (.lauterBeq f) f (fun a b => a == b) s
def execLauterBne (f : LauterF) (s : State) : Host.Outcome State Fault Refusal := lauterBranch (.lauterBne f) f (fun a b => a != b) s
def execLauterBlt (f : LauterF) (s : State) : Host.Outcome State Fault Refusal := lauterBranch (.lauterBlt f) f (fun a b => a.toInt < b.toInt) s
def execLauterBge (f : LauterF) (s : State) : Host.Outcome State Fault Refusal := lauterBranch (.lauterBge f) f (fun a b => b.toInt ≤ a.toInt) s
def execLauterJmp (f : LauterF) (s : State) : Host.Outcome State Fault Refusal :=
  asProgram (.lauterJmp f) f (fun s r p => s.setHead r (p.branch (p.ahead f.imm32))) s
/-- The count of a LOOP. -/
def loopCount (p : Program) (f : LauterF) : DWord := if f.a.toNat = 0 then f.imm12.zeroExtend 64 else p.xReg f.a
/-- A fifth entry, or one whose end lies beyond the end of the entry below. -/
def loopRefused (p : Program) (stop : CodeAddr) : Bool :=
  4 ≤ p.loops.length || (match p.loops with | e :: _ => e.stop.toNat < stop.toNat | [] => false)
def execLauterLoop (f : LauterF) (s : State) : Host.Outcome State Fault Refusal :=
  asProgram (.lauterLoop f) f (fun s r p =>
    let c := loopCount p f
    let stop := p.ahead f.imm32
    if c == 0 then s.setHead r (p.flow stop)
    else if loopRefused p stop then faultProgram s r p f { code := cLstack }
    else s.setHead r { p with pc := p.pc + 8, loops := { start := p.pc + 8, stop := stop, remaining := c } :: p.loops }) s

/-! ### Accesses of a program (R267, R270) -/

def mSize (f : LauterF) : Nat := f.imm12.toNat % 4
def mSpace (f : LauterF) : Nat := f.imm12.toNat / 4 % 4
/-- Order and scope of imm12. -/
def mOrd (f : LauterF) : Ord := { order := f.imm12.toNat / 16 % 8, scope := f.imm12.toNat / 128 % 16, cp := 1 }
/-- The same, at the scope at which the gang of the program's grid performs it (R415). -/
def progOrd (s : State) (p : Program) (f : LauterF) : Ord := { mOrd f with scope := gangScope s p.ctx.grid (mOrd f).scope }
def mAddr (p : Program) (f : LauterF) : DWord := p.xReg f.a + sx32 f.imm32
/-- A load of an engine at a checked place: dirty bytes of the core's L1 are used, nothing is allocated. -/
def engLoad (s : State) (a : Agent) (o : Ord) (va n : Nat) (q : Place) : Read :=
  match q with
  | .glob (.plain pa _) =>
    if atHome a o then loadPlace s a o va n q
    else if poisoned s (.hbm pa) then ⟨s, .error (causeAt cPoison 0 va), []⟩
    else
      let r := readSide s a o (.hbm pa) n
      ⟨r.1, .ok (engineRead s a.ctx.core pa n), r.2⟩
  | .glob (.decoded frame e _) =>
    let w := elemRange frame e n
    if atHome a o then loadPlace s a o va n q
    else if poisonedRange s w.1 w.2 then ⟨s, .error (causeAt cPoison 0 va), []⟩
    else
      let r := readSide s a o (.hbm w.1) w.2
      ⟨r.1, .ok ((upTo n).foldl (fun v i =>
        v + 256 ^ i * bits (engineRead s a.ctx.core (elemByte frame (e + i)) (elemSpan (e + i))) (elemShift (e + i)) 6) 0), r.2⟩
  | _ => loadPlace s a o va n q
/-- What a program's read has come to. -/
inductive Got where
  | val (v : Nat) (sig : List (Nat × Nat))
  | fault (c : Cause)
  | need (r : RemoteLane)
/-- What an answer has already brought: the data of a read, or that a write was accepted. -/
def Program.answer (p : Program) (write : Bool) (r : RemoteLane) : Option (List Byte) :=
  (p.got.find? (fun g => g.1 == write && g.2.1 == r.dest && g.2.2.1 == r.spot)).map (fun g => g.2.2.2)
/-- A read that goes to another device: from its answer, or still to be asked for. -/
def remoteGot (p : Program) (q : Except Cause RemoteLane) : Got :=
  match q with
  | .error c => .fault c
  | .ok r =>
    match p.answer false r with
    | some b => .val (r.value b) []
    | none => .need r
def progLoad (s : State) (p : Program) (o : Ord) (space : Nat) (addr : DWord) (n : Nat) : State × Got :=
  match place s p.ctx (spaceOf space) needR addr n with
  | (s, .error c) => (s, .fault c)
  | (s, .ok (.glob (.remote pa e))) => (s, remoteGot p (remotePage s p.ctx.part 0 addr pa e (.read n)))
  | (s, .ok q) =>
    let r := engLoad s (progAgent s p) o addr.toNat n q
    (r.s, match r.v with | .ok v => .val v r.sig | .error c => .fault c)
/-- Sends a program's requests; it waits for their ACCEPTs, or, when `whole`, for their COMPLETEs. One that must be held behind an
earlier request to the same block is tried again. -/
def progSend (s : State) (r : EngRef) (p : Program) (ls : List RemoteLane) (o : Ord) (whole : Bool) (insn : List Word) : State :=
  if ls.any (fun x => blockHeld s p.group x) then s
  else
    let f := s.fresh
    let out : RemoteOut :=
      { id := f.1, group := p.group, split := 0, engine := some r, dst := 0, ty := 0, reg := false, op := p.serial.toNat,
        pc := p.pc, insn := insn, lanes := ls, atComplete := whole, order := BitVec.ofNat 3 o.order, scope := BitVec.ofNat 4 o.scope,
        begun := p.begun }
    (sendFrom f.2 r.core p.ctx.part (sentOrder o p.relFence) o.scope (releasesWide (progAgent s p) o p.relFence) out).setHead r
      { p with state := .remote f.1 }
/-- An earlier strong STX of the program to another device is not performed yet (R73). -/
def progStrongAway (s : State) (r : EngRef) (p : Program) : Bool :=
  s.remotes.any (fun o => ownRemote r p o && o.order.toNat != 0 && !o.finished &&
    o.lanes.any (fun x => match x.op with | .redtUnit _ _ _ _ => false | _ => true))
/-- A strong access waits for the program's earlier strong ones (R73, R78); a release, or a strong access after a release fence, until its
earlier writes are performed (R87). -/
def progWaits (s : State) (r : EngRef) (p : Program) (o : Ord) : Bool :=
  (o.strong && progStrongAway s r p) || ((o.releases || (o.strong && p.relFence.isSome)) && !progDrained s r p)
def Program.learn (p : Program) (sig : List (Nat × Nat)) : Program := { p with acqSig := unionPairs p.acqSig sig }

def execLauterLdx (f : LauterF) (s : State) : Host.Outcome State Fault Refusal :=
  asProgram (.lauterLdx f) f (fun s r p =>
    if progWaits s r p (progOrd s p f) && p.got.isEmpty then s
    else
      match progLoad s p (progOrd s p f) (mSpace f) (mAddr p f) (2 ^ mSize f) with
      | (s, .fault c) => faultProgram s r p f c
      | (s, .need q) => progSend s r p [q] (progOrd s p f) true (encode (.lauterLdx f))
      | (s, .val v sig) => progNext s r ((p.learn sig).setX f.d (dw v))) s
def execLauterStx (f : LauterF) (s : State) : Host.Outcome State Fault Refusal :=
  asProgram (.lauterStx f) f (fun s r p =>
    let n := 2 ^ mSize f
    let addr := mAddr p f
    let v := (p.xReg f.d).toNat % 256 ^ n
    let o := progOrd s p f
    if (progWaits s r p o || remapBusy s (entryWaits s p.ctx o (spaceOf (mSpace f)) needW addr n).remap ||
        ((feedWaits s p.ctx o none (spaceOf (mSpace f)) addr n).strong && progStrongAway s r p)) && p.got.isEmpty then s
    else
      match place s p.ctx (spaceOf (mSpace f)) needW addr n with
      | (s, .error c) => faultProgram s r p f c
      | (s, .ok (.glob (.remote pa e))) =>
        (match remotePage s p.ctx.part 0 addr pa e (.write (leBytes n v)) with
         | .ok q =>
           if (p.answer true q).isSome then progNext s r p
           else progSend s r { p with begun := p.begun + 1 } [q] o false (encode (.lauterStx f))
         | .error c => faultProgram s r p f c)
      | (s, .ok q) =>
        match storePlace s (progAgent s p) o p.relFence addr.toNat n v q with
        | (s, some c) => faultProgram s r p f c
        | (s, none) => progNext s r p) s

/-! ### Descriptors (R275 to R278) -/

/-- A descriptor's eight quadwords, and its fields. -/
abbrev Desc := List DWord
def Desc.base (d : Desc) : DWord := d.getD 0 0
def Desc.ctrl (d : Desc) (lo n : Nat) : Nat := fld (d.getD 1 0) lo n
def Desc.space (d : Desc) : Nat := Desc.ctrl d 0 2
def Desc.fmt (d : Desc) : BitVec 5 := BitVec.ofNat 5 (Desc.ctrl d 2 5)
def Desc.dec (d : Desc) : Bool := Desc.ctrl d 7 1 == 1
def Desc.ndim (d : Desc) : Nat := Desc.ctrl d 8 3
def Desc.tdim (d : Desc) : Nat := Desc.ctrl d 11 3
def Desc.rop (d : Desc) : Nat := Desc.ctrl d 14 4
def Desc.remote (d : Desc) : Bool := Desc.ctrl d 18 1 == 1
def Desc.device (d : Desc) : Word := wd (Desc.ctrl d 32 32)
def Desc.stride (d : Desc) (i : Nat) : Int := signedOf 32 (fld (d.getD (2 + i) 0) 32 32)
def Desc.index (d : Desc) (i : Nat) : Nat := descIndex d i
def Desc.extent (d : Desc) (i : Nat) : Nat := fld (d.getD (2 + i) 0) 0 16
def Desc.rmask (d : Desc) : Nat := fld (d.getD 7 0) 0 16
/-- RSTRIDE is signed, as STRIDE is: DESIGN CHOICE, R277 calls only STRIDE so (log entry 122). -/
def Desc.rstride (d : Desc) : Int := signedOf 32 (fld (d.getD 7 0) 32 32)
def Desc.setIndex (d : Desc) (i v : Nat) : Desc := setAt 0 d (2 + i) (dw (setBits (d.getD (2 + i) 0).toNat 16 16 v))
/-- A format error. -/
def descBad (d : Desc) : Bool :=
  let nd := Desc.ndim d
  Desc.ctrl d 19 13 != 0 || nd = 0 || 5 < nd || nd < Desc.tdim d || 8 < Desc.rop d || Desc.ctrl d 2 5 = 0 || 23 < Desc.ctrl d 2 5 ||
  (Desc.remote d && Desc.space d != 0) || fld (d.getD 7 0) 16 16 != 0 ||
  (upTo 5).any (fun i => if i < nd then Desc.extent d i = 0 || Desc.extent d i ≤ Desc.index d i else d.getD (2 + i) 0 != 0)
def Program.desc (p : Program) (n : BitVec 4) : Desc := p.d.getD n.toNat []
def Program.setDesc (p : Program) (n : BitVec 4) (d : Desc) : Program := { p with d := setAt [] p.d n.toNat d }
/-- `k` odometer steps over the dimensions listed, lowest first; and how often the highest wrapped. -/
def odometer : List Nat → Nat → Desc → Desc × Nat
  | [], k, d => (d, k)
  | i :: is, k, d =>
    let v := Desc.index d i + k
    odometer is (v / Desc.extent d i) (Desc.setIndex d i (v % Desc.extent d i))
/-- The dimensions DSTEP advances. -/
def outerDims (d : Desc) : List Nat := (upTo (Desc.ndim d - Desc.tdim d)).map (fun i => Desc.tdim d + i)
def stepDesc (d : Desc) (k : Nat) : Desc × Nat := odometer (outerDims d) k d

def execLauterDset (f : LauterF) (s : State) : Host.Outcome State Fault Refusal :=
  asProgram (.lauterDset f) f (fun s r p =>
    match progLoad s p (mOrd f) (mSpace f) (mAddr p f) 64 with
    | (s, .fault c) => faultProgram s r p f c
    | (s, .need q) => progSend s r p [q] (mOrd f) true (encode (.lauterDset f))
    | (s, .val v _) =>
      let d : Desc := (upTo 8).map (fun i => dw (v / 2 ^ (64 * i)))
      if descBad d then faultProgram s r p f (causeAt cDescfmt 0 (mAddr p f).toNat) else progNext s r (p.setDesc f.d d)) s
def execLauterDidx (f : LauterF) (s : State) : Host.Outcome State Fault Refusal :=
  asProgram (.lauterDidx f) f (fun s r p =>
    let d := p.desc f.d
    let k := f.imm12.toNat
    if Desc.ndim d ≤ k then faultProgram s r p f { code := cIllop }
    else if Desc.extent d k ≤ (p.xReg f.a).toNat then faultProgram s r p f { code := cSpace }
    else progNext s r (p.setDesc f.d (Desc.setIndex d k (p.xReg f.a).toNat))) s
def execLauterDstep (f : LauterF) (s : State) : Host.Outcome State Fault Refusal :=
  asProgram (.lauterDstep f) f (fun s r p =>
    let d := p.desc f.d
    if Desc.ndim d = 0 then faultProgram s r p f { code := cDescfmt }
    else
      let q := stepDesc d 1
      progNext s r ((p.setDesc f.d q.1).setX f.a (if q.2 = 0 then 0 else 1))) s

/-! ### Rings and barrier words (R284 to R287, R289) -/

/-- The count of FILL, ARRV and WAITB `.ring`: register 0 means 1. -/
def mCount (p : Program) (f : LauterF) : Nat := if f.b.toNat = 0 then 1 else (p.xReg f.b).toNat % 2 ^ 32
/-- Adds a word to the bound-word list. Only an aligned address can be one. -/
def Program.bind (p : Program) (ring : Bool) (space : Nat) (addr : DWord) : Program :=
  if 2 ^ 54 ≤ addr.toNat || addr.toNat % (if ring then 32 else 8) != 0 then p
  else
    let sp := BitVec.ofNat 2 space
    let rest := p.bound.filter (fun b => !(b.2.1 == sp && b.2.2 == addr))
    { p with bound := ((ring, sp, addr) :: rest).take 4, boundMore := p.boundMore || 4 ≤ rest.length }
/-- The header of a ring in scratchpad or cluster memory, or the cause that stops the program before its step. -/
def ringAt (s : State) (p : Program) (space : Nat) (addr : DWord) : Except Cause (Loc × Nat) :=
  match placeOffset s p.ctx (spaceOf space) addr.toNat 32 with
  | .error c => .error c
  | .ok q =>
    match q.loc? with
    | none => .error (causeAt cSpace 0 addr.toNat)
    | some l =>
      let h := locRead s l 32
      if poisoned s l then .error (causeAt cPoison 0 addr.toNat)
      else if ringBad h then .error (causeAt cDescfmt 0 addr.toNat)
      else if rPoison h then .error (causeAt cBarpoison 0 addr.toNat)
      else .ok (l, h)
/-- FILL (R285). With n = 0 and a negative number of free slots the header is poisoned, as the pseudocode has it: DESIGN CHOICE, the sentence after
it says that n = 0 changes nothing (log entry 123). -/
def execLauterFill (f : LauterF) (s : State) : Host.Outcome State Fault Refusal :=
  asProgram (.lauterFill f) f (fun s r p0 =>
    let addr := mAddr p0 f
    let p := p0.bind true (mSpace f) addr
    let n := mCount p f
    let o := progOrd s p f
    if progWaits s r p o then s
    else
      match ringAt s p (mSpace f) addr with
      | .error c => faultProgram s r p f c
      | .ok (l, h) =>
        if ringFree h < (n : Int) then
          faultProgram (rmwAt s (progAgent s p) o p.relFence l 32 ringPoison).1 r p f (causeAt cRingfull 0 addr.toNat)
        else
          let q := rmwAt s (progAgent s p) o p.relFence l 32 (fun h => setBits h 64 32 ((rWptr h + n) % 2 ^ 32))
          progNext q.1 r (p.learn q.2.2)) s
def execLauterArrv (f : LauterF) (s : State) : Host.Outcome State Fault Refusal :=
  asProgram (.lauterArrv f) f (fun s r p0 =>
    let addr := mAddr p0 f
    let p := p0.bind false (mSpace f) addr
    let n := mCount p f
    let o := progOrd s p f
    if progWaits s r p o && p.got.isEmpty then s
    else
      match place s p.ctx (spaceOf (mSpace f)) needRW addr 8 with
      | (s, .error c) => faultProgram s r p f c
      | (s, .ok (.glob (.remote pa e))) =>
        (match remoteGot p (remotePage s p.ctx.part 0 addr pa e (.arrive (wd n))) with
         | .fault c => faultProgram s r p f c
         | .need q => progSend s r p [q] o true (encode (.lauterArrv f))
         | .val _ _ => progNext s r p)
      | (s, .ok q) =>
        let x := arrivePlace s (progAgent s p) o p.relFence addr.toNat n q
        match x.v with
        | .error c => faultProgram x.s r p f c
        | .ok _ => progNext x.s r (p.learn x.sig)) s
/-- WAITB on a barrier word whose value is known: it faults, goes on, or waits. -/
def waitbWord (s : State) (r : EngRef) (p : Program) (f : LauterF) (addr : DWord) (w : Nat) (ready : State → Program → State)
    (wait : State → State) : State :=
  if bit w 62 then faultProgram s r p f (causeAt cBarpoison 0 addr.toNat)
  else if bit w 63 != (p.xReg f.b).getLsbD 0 then ready s p
  else wait s
/-- A barrier word as an engine's strong load of this order and scope reads it (R58, R267). -/
def engineWord (s : State) (a : Agent) (o : Ord) (l : Loc) : State × Nat :=
  match l with
  | .hbm pa => if atHome a o then homeValue s a.ctx.core l 8 else (s, engineRead s a.ctx.core pa 8)
  | _ => (s, locRead s l 8)
/-- A look at the word or header that WAITB names (R287). -/
def waitbLook (i : Instr) (f : LauterF) (s : State) (r : EngRef) (p0 : Program) : State :=
  let addr := mAddr p0 f
  let ring := mSize f = 1
  let p := p0.bind ring (mSpace f) addr
  let a := progAgent s p
  let o := progOrd s p f
  let wait (s : State) : State := s.setHead r { p with state := .waiting f, got := [] }
  if progWaits s r p o && p.got.isEmpty then s
  else if ring then
    match ringAt s p (mSpace f) addr with
    | .error c => faultProgram s r p f c
    | .ok (l, h) =>
      let n := mCount p f
      if rNslot h < n then faultProgram s r p f (causeAt cRingfull 0 addr.toNat)
      else if ringFree h < (n : Int) then wait s
      else
        let q := readSide s a o l 32
        progNext q.1 r (p.learn q.2)
  else
    match place s p.ctx (spaceOf (mSpace f)) needR addr 8 with
    | (s, .error c) => faultProgram s r p f c
    | (s, .ok (.glob (.remote pa e))) =>
      (match remoteGot p (remotePage s p.ctx.part 0 addr pa e .word) with
       | .fault c => faultProgram s r p f c
       | .need q => progSend s r p [q] o true (encode i)
       | .val w _ => waitbWord s r p f addr w (fun s p => progNext s r p) wait)
    | (s, .ok q) =>
      match wordAt s addr.toNat q with
      | .error c => faultProgram s r p f c
      | .ok l =>
        let v := engineWord s a o l
        waitbWord v.1 r p f addr v.2 (fun s p => let q := readSide s a o l 8; progNext q.1 r (p.learn q.2)) wait
def execLauterWaitb (f : LauterF) (s : State) : Host.Outcome State Fault Refusal :=
  asProgram (.lauterWaitb f) f (fun s r p => waitbLook (.lauterWaitb f) f s r p) s
/-- The word or header has changed: the engine reads it again. -/
def execWaitbReread (eng : EngRef) (s : State) : Host.Outcome State Fault Refusal :=
  .next (match s.prog? eng with
    | some p =>
      (match p.state with
       | .waiting f => if engineRuns s p then waitbLook (.lauterWaitb f) f s eng p else s
       | _ => s)
    | none => s)

/-! ### FENCE, END, ABORT (R288, R289) -/

def execLauterFence (f : LauterF) (s : State) : Host.Outcome State Fault Refusal :=
  asProgram (.lauterFence f) f (fun s r p =>
    let o := progOrd s p f
    if !progDrained s r p then s
    else
      let p1 := if o.releases then { p with relFence := widerFence (progAgent s p).paired p.relFence (BitVec.ofNat 4 o.scope) } else p
      if o.acquires then
        if wideScope o.scope (progAgent s p).paired then progNext (applySig s r.core p.acqSig) r { p1 with acqSig := [] }
        else progNext (narrowAcquire s r.core) r p1
      else progNext s r p1) s
def execLauterAbort (f : LauterF) (s : State) : Host.Outcome State Fault Refusal :=
  asProgram (.lauterAbort f) f (fun s r p => endProgram s r p 4 (f.imm32.extractLsb' 0 8)) s
def execLauterEnd (f : LauterF) (s : State) : Host.Outcome State Fault Refusal :=
  asProgram (.lauterEnd f) f (fun s r p => endProgram s r p 3 0) s

end Sys2Proof.Machine
end

