-- ==== Sys2Proof/Machine/LauterMoves.lean ====
section
/-! DEFINITION. Lauter moves (R276 to R283): MOVT, GATH, SCAT, MCST, LRED. One execution accepts one 64-byte unit, the one numbered DELIV;
the last one ends the instruction. -/

namespace Sys2Proof.Machine

/-! ### Elements (R278) -/

/-- Where an element lies: its space, address, nibble, type, whether its page may name its format (R276 DEC), and the device of a REMOTE
descriptor. -/
structure Elem where
  space : Nat
  addr : DWord
  nib : Nat
  fmt : BitVec 5
  dec : Bool
  device : Option Word

/-- Elements of the sub-tensor. -/
def subCount (d : Desc) : Nat := (upTo (Desc.tdim d)).foldl (fun n i => n * Desc.extent d i) 1
/-- The position of element `k` of the sub-tensor in stream order; `fix` stands for the INDEX of dimension TDIM. -/
def elemPos (d : Desc) (fix : Option Nat) (k : Nat) : Int :=
  ((upTo (Desc.ndim d)).foldl (fun (q : Int × Nat) i =>
    let ix : Nat := if i < Desc.tdim d then q.2 % Desc.extent d i
      else match fix with
        | some v => if i = Desc.tdim d then v else Desc.index d i
        | none => Desc.index d i
    (q.1 + (ix : Int) * Desc.stride d i, if i < Desc.tdim d then q.2 / Desc.extent d i else q.2)) (0, k)).1
/-- Element `k` with `extra` bytes added to its address, on device DEVADDR + `rank`. -/
def elemAt (d : Desc) (extra : Int) (rank : Nat) (fix : Option Nat) (k : Nat) : Elem :=
  let p := elemPos d fix k
  let eb := storeBits (Desc.fmt d)
  { space := Desc.space d, addr := dw (wrapInt 64 ((Desc.base d).toNat + extra + p * (eb : Int) / 8)), nib := if eb = 4 then (p % 2).toNat else 0,
    fmt := Desc.fmt d, dec := Desc.dec d, device := if Desc.remote d then some (Desc.device d + wd rank) else none }
/-- Bytes an element of the type takes in an access. -/
def elemBytes (ty : BitVec 5) : Nat := if storeBits ty < 8 then 1 else storeBits ty / 8

/-! ### Checks of one element -/

/-- A checked element: here, or on another device, with the type it is read or written as. -/
inductive ElemPlace where
  | here (q : Place) (fmt : BitVec 5)
  /-- Behind an aperture, with its page; a REMOTE descriptor names no page. -/
  | away (r : RemoteLane) (fmt : BitVec 5) (page : Option Place)

/-- The element format of the page of a place; 0 when there is none. -/
def pageFormat (q : Place) : BitVec 5 :=
  match q with
  | .glob (.plain _ e) | .glob (.decoded _ _ e) | .glob (.remote _ e) => e.efmt
  | _ => 0
/-- A request to the device of a REMOTE descriptor (R276, R406). -/
def directLane (s : State) (part : Nat) (dest : Word) (addr : DWord) : Except Cause RemoteLane :=
  if 2 ^ 48 ≤ addr.toNat then .error (causeAt cPage 0 addr.toNat)
  else if !jobValid s part then .error (cNoRoute addr.toNat)
  else .ok { lane := 0, addr := addr, dest := dest, off := addr.toNat, op := .writeUnit [], state := .waiting }
/-- The request for an element of type `ty` behind an aperture, by the page's format (R60, R276). -/
def elemAway (s : State) (p : Program) (e : Elem) (ty : BitVec 5) (pa : Nat) (t : TlbEntry) : Except Cause RemoteLane :=
  if t.kind = 5 then
    let el := e.addr.toNat % 65536
    (remoteLane s p.ctx.part 0 e.addr (elemByte (pa / 65536 * 65536) el) (.writeUnit [])).map
      (fun r => { r with unpack := some (elemShift el, elemBytes ty), src := t.src.map (·.1) })
  else (remoteLane s p.ctx.part 0 e.addr pa (.writeUnit [])).map (fun r => { r with src := t.src.map (·.1) })
/-- A checked element: here, or the request it needs. -/
def elemTo (s : State) (p : Program) (e : Elem) (ty : BitVec 5) (q : Place) : Except Cause ElemPlace :=
  match q with
  | .glob (.remote pa t) => (elemAway s p e ty pa t).map (fun r => .away r ty (some q))
  | q => .ok (.here q ty)
/-- The checks of an element up to permissions, and its type. A host route refuses moves with PERM (R410). -/
def elemPlace (s : State) (p : Program) (need : Need) (e : Elem) : State × Except Cause ElemPlace :=
  match e.device with
  | some dev => (s, (directLane s p.ctx.part dev e.addr).map (fun r => .away r e.fmt none))
  | none =>
    match place s p.ctx (spaceOf e.space) need e.addr (elemBytes e.fmt) with
    | (s, .error c) => (s, .error c)
    | (s, .ok q) =>
      let ty := if e.dec && pageFormat q != 0 then pageFormat q else e.fmt
      if elemBytes ty = elemBytes e.fmt then (s, elemTo s p e ty q)
      else
        match place s p.ctx (spaceOf e.space) need e.addr (elemBytes ty) with
        | (s, .error c) => (s, .error c)
        | (s, .ok q) => (s, elemTo s p e ty q)
/-- Types that move only unchanged. -/
def rawType (ty : BitVec 5) : Bool := ty.toNat == 0 || 21 ≤ ty.toNat
/-- An element as the destination's type (R207, RM 0, no SAT). -/
def moveValue (src dst : BitVec 5) (v : Nat) : Except Cause Nat :=
  if src == dst then .ok (v % 2 ^ tyBits dst)
  else if rawType src || rawType dst then .error { code := cDescfmt }
  else .ok (convert src dst 0 0 false v)
/-- The code of an element in the bytes read for it. -/
def elemCode (ty : BitVec 5) (nib v : Nat) : Nat := if storeBits ty = 4 then bits v (4 * nib) 4 else bits v 0 (tyBits ty)

/-! ### One unit (R279) -/

/-- A list of row numbers (R281): space, address, elements of a row, and the EXTENT entries must stay below. -/
structure RowList where
  space : Nat
  addr : DWord
  row : Nat
  limit : Nat
/-- A move: how many elements, the destination's FMT, its elements by number and row entry, and for LRED the operation and first tag. -/
structure Move where
  total : Nat
  fmt : BitVec 5
  src : Nat → Nat → Elem
  dst : Nat → Nat → Elem
  rows : Option RowList
  red : Option (Nat × Nat)
/-- An element that is read and may be written: its address, nibble and value. -/
structure Piece where
  q : ElemPlace
  va : Nat
  nib : Nat
  fmt : BitVec 5
  v : Nat
/-- What a unit has come to. -/
structure UnitRun where
  s : State
  need : List RemoteLane := []
  fault : Option Cause := none
  out : List Piece := []

/-- A line of a page with BGEO 1 brings its scale lines, found through the SCBASE and SCSHIFT of the program's group, with their faults (R59).
When that group has retired there are none (DESIGN CHOICE, log entry 94). -/
def moveScales (s : State) (p : Program) (va : Nat) (q : Place) : State × Option Cause :=
  match s.group? p.group with
  | some g => geometryScales s g p.ctx va q
  | none => (s, none)
/-- The scale lines of the page at an address, if it may be read. -/
def listScales (s : State) (p : Program) (space : Nat) (addr : DWord) (n : Nat) : State × Option Cause :=
  match place s p.ctx (spaceOf space) needR addr n with
  | (s, .ok q) => moveScales s p addr.toNat q
  | (s, .error _) => (s, none)
/-- Element number's row entry. -/
def rowEntry (s : State) (p : Program) (m : Move) (k : Nat) : State × Got :=
  match m.rows with
  | none => (s, .val 0 [])
  | some l =>
    let a := l.addr + dw (4 * (k / l.row))
    match listScales s p l.space a 4 with
    | (s, some c) => (s, .fault c)
    | (s, none) =>
      match progLoad s p { order := 0, scope := 0, cp := 1 } l.space a 4 with
      | (s, .val v _) => (s, if l.limit ≤ v then .fault (causeAt cSpace 0 a.toNat) else .val v [])
      | x => x
/-- Reads a source element: its type and code. -/
def elemRead (s : State) (p : Program) (e : Elem) : State × Except Cause (Sum RemoteLane (BitVec 5 × Nat)) :=
  match elemPlace s p needR e with
  | (s, .error c) => (s, .error c)
  | (s, .ok (.away r ty page)) =>
    match (match page with | some q => moveScales s p e.addr.toNat q | none => (s, none)) with
    | (s, some c) => (s, .error c)
    | (s, none) =>
      match p.answer false r with
      | some b => (s, .ok (.inr (ty, elemCode ty e.nib (r.value b))))
      | none => (s, .ok (.inl (r.reading (elemBytes ty))))
  | (s, .ok (.here q ty)) =>
    match moveScales s p e.addr.toNat q with
    | (s, some c) => (s, .error c)
    | (s, none) =>
    let x := engLoad s (progAgent s p) { order := 0, scope := 0, cp := 1 } e.addr.toNat (elemBytes ty) q
    (x.s, match x.v with | .ok v => .ok (.inr (ty, elemCode ty e.nib v)) | .error c => .error c)
/-- One element of a unit: its row entry, its source, its destination. The first cause ends the unit. -/
def unitElem (p : Program) (m : Move) (u : UnitRun) (k : Nat) : UnitRun :=
  if u.fault.isSome then u
  else
    match rowEntry u.s p m k with
    | (s, .fault c) => { u with s := s, fault := some c }
    | (s, .need r) => { u with s := s, need := u.need ++ [r] }
    | (s, .val j _) =>
      match elemRead s p (m.src k j) with
      | (s, .error c) => { u with s := s, fault := some c }
      | (s, .ok (.inl r)) => { u with s := s, need := u.need ++ [r] }
      | (s, .ok (.inr (sty, v))) =>
        let e := m.dst k j
        match elemPlace s p (if m.red.isSome then needRW else needW) e with
        | (s, .error c) => { u with s := s, fault := some c }
        | (s, .ok q) =>
          let ty := match q with | .here _ ty => ty | .away _ ty _ => ty
          match moveValue sty ty v with
          | .error c => { u with s := s, fault := some c }
          | .ok w => { u with s := s, out := u.out ++ [{ q := q, va := e.addr.toNat, nib := e.nib, fmt := ty, v := w }] }
/-- Elements a unit holds. -/
def Move.per (m : Move) : Nat := max 1 (512 / storeBits m.fmt)
/-- Reads and checks unit `u`. -/
def unitRun (s : State) (p : Program) (m : Move) (u : Nat) : UnitRun :=
  ((upTo m.per).filter (fun i => u * m.per + i < m.total)).foldl (fun x i => unitElem p m x (u * m.per + i)) { s := s }

/-! ### Stores of a unit -/

/-- A run of bytes to store; `half` says which nibble of its one byte is written when the other is not. -/
structure Run where
  q : ElemPlace
  va : Nat
  n : Nat
  v : Nat
  half : Option Nat
/-- A place moved by `k` bytes is another place. -/
def placeFollows (a b : ElemPlace) (k : Nat) : Bool :=
  match a, b with
  | .here (.loc x) _, .here (.loc y) _ => x.plus k == y
  | .here (.glob (.plain x _)) _, .here (.glob (.plain y _)) _ => x + k == y
  | .here (.glob (.feed x)) _, .here (.glob (.feed y)) _ => x.tunid == y.tunid
  | .away x _ _, .away y _ _ => x.dest == y.dest && x.off + k == y.off && x.unpack.isNone && y.unpack.isNone
  | _, _ => false
/-- Puts elements together: two nibbles to a byte, bytes that follow each other, up to a 64-byte boundary. -/
def addRun (rs : List Run) (x : Run) : List Run :=
  match rs with
  | r :: t =>
    if r.half == some 0 && x.half == some 1 && r.va == x.va then { r with v := r.v + x.v, half := none } :: t
    else if r.half.isNone && x.half.isNone && r.va + r.n == x.va && x.va % 64 != 0 && placeFollows r.q x.q r.n then
      { r with n := r.n + x.n, v := r.v + 256 ^ r.n * x.v } :: t
    else x :: rs
  | [] => [x]
def pieceRun (x : Piece) : Run :=
  if storeBits x.fmt = 4 then { q := x.q, va := x.va, n := 1, v := x.v * 16 ^ x.nib, half := some x.nib }
  else { q := x.q, va := x.va, n := elemBytes x.fmt, v := x.v, half := none }
/-- Pairs of nibbles first, then runs, in stream order. -/
def runsOf (ps : List Piece) : List Run := (((ps.map pieceRun).foldl addRun []).reverse.foldl addRun []).reverse
/-- The byte a lone nibble is written into. -/
def halfFill (s : State) (p : Program) (x : Run) : Nat :=
  match x.half with
  | none => x.v
  | some h =>
    let old := match x.q with
      | .here (.glob (.feed _)) _ => 0
      | .here q _ => (match (engLoad s (progAgent s p) { order := 0, scope := 0, cp := 1 } x.va 1 q).v with | .ok v => v | .error _ => 0)
      | .away _ _ _ => 0
    setBits old (4 * h) 4 (x.v / 16 ^ h)
/-- Stores the runs that lie here; the first cause ends it. -/
def storeRuns (p : Program) : List Run → State → State × Option (Cause × Run)
  | [], s => (s, none)
  | x :: xs, s =>
    match x.q with
    | .away _ _ _ => storeRuns p xs s
    | .here q _ =>
      match storePlace s (progAgent s p) { order := 0, scope := 0, cp := 1 } p.relFence x.va x.n (halfFill s p x) q with
      | (s, some c) => (s, some (c, x))
      | (s, none) =>
        storeRuns p xs (match q with | .glob (.plain pa _) => coverPoison s (.hbm pa) x.n | _ => s)
/-- A refused unit has no effect, but a feed store that no writer entry permits is counted (R143). -/
def refusedUnit (s : State) (c : Cause) (x : Run) : State :=
  match x.q with
  | .here (.glob (.feed e)) _ => if c.code == cTunperm then s.modTun e.tunid.toNat (fun t => { t with refused := t.refused + 1 }) else s
  | _ => s
/-- Adds to the request for a device. -/
def addPart (ls : List RemoteLane) (r : RemoteLane) (add : RemoteOp → RemoteOp) : List RemoteLane :=
  if ls.any (fun x => x.dest == r.dest) then ls.map (fun x => if x.dest == r.dest then { x with op := add x.op } else x)
  else ls ++ [{ r with op := add r.op, lane := ls.length }]
/-- What a run writes on another device: whole bytes, packed elements of a decoded page, or one nibble of its byte, the rest of the byte being
kept there. -/
def writePart (r : RemoteLane) (x : Run) : WritePart :=
  match r.unpack, x.half with
  | some q, none => let d := packedData q.1 (leBytes x.n x.v); { off := r.off, data := d.1, mask := d.2 }
  | some q, some h =>
    let d := packedData q.1 (leBytes 1 x.v)
    { off := r.off, data := d.1, mask := leBytes d.1.length (15 * 16 ^ h % 64 * 2 ^ q.1) }
  | none, some h => { off := r.off, data := leBytes 1 x.v, mask := leBytes 1 (15 * 16 ^ h) }
  | none, none => { off := r.off, data := leBytes x.n x.v }
/-- The write requests of a unit, one for each device. Each home takes its part whole or not at all; where a unit has parts on two devices and one
refuses, the other part stays written (DESIGN CHOICE, log entry 116). -/
def writeLanes (rs : List Run) : List RemoteLane :=
  rs.foldl (fun ls x =>
    match x.q with
    | .away r _ _ => addPart ls r (fun op => match op with
        | .writeUnit ps => .writeUnit (ps ++ [writePart r x])
        | o => o)
    | _ => ls) []

/-! ### Reductions of a unit (R283) -/

/-- ROP as the operation of RED. -/
def lredOp (rop : Nat) : Nat :=
  match rop with
  | 0 => 0 | 1 => 2 | 2 => 3 | 3 => 4 | 4 => 5 | 5 => 6 | 6 => 10 | 7 => 11 | _ => 12
/-- The refusals of destinations here. -/
def reduceRefusal (s : State) (ps : List Piece) : Option Cause :=
  ps.findSome? (fun x =>
    match x.q with
    | .here q _ =>
      match rmwRefusal s x.va q, q.loc? with
      | some c, _ => some c
      | none, some l => if poisoned s l then some (causeAt cPoison 0 x.va) else none
      | none, none => none
    | .away r _ _ => if r.unpack.isSome then some (causeAt cSpace 0 x.va) else none)
/-- A piece here, by home slice: physical address, virtual address, value. -/
def slicePieces (ps : List Piece) : List (Nat × List (Nat × Nat × Nat)) :=
  ps.foldl (fun (ls : List (Nat × List (Nat × Nat × Nat))) x =>
    match x.q with
    | .here (.glob (.plain pa _)) _ =>
      let k := homeSliceOf pa
      if ls.any (fun q => q.1 == k) then ls.map (fun q => if q.1 == k then (k, q.2 ++ [(pa, x.va, x.v)]) else q) else ls ++ [(k, [(pa, x.va, x.v)])]
    | _ => ls) []
/-- Applies the parts of a unit, each at its slice; the first refusal ends it. -/
def reduceParts (p : Program) (op tag : Nat) (ty : BitVec 5) : List (Nat × List (Nat × Nat × Nat)) → State → State × Option Cause
  | [], s => (s, none)
  | x :: xs, s =>
    let n := elemBytes ty
    let a := progAgent s p
    let r := taggedReduce s p.ctx.part (x.2.map (fun q => (q.1, n))) p.src tag (fun s =>
      x.2.foldl (fun s q => (rmwAt s a { order := 1, scope := 8, cp := 0 } p.relFence (.hbm q.1) n (rmwValue op ty q.2.2)).1) s)
    match redtCause (match x.2 with | q :: _ => q.2.1 | [] => 0) r.2 with
    | some c => (r.1, some c)
    | none => reduceParts p op tag ty xs r.1
/-- The reduction requests of a unit, one for each device. -/
def reduceLanes (op tag : Nat) (ps : List Piece) : List RemoteLane :=
  ps.foldl (fun ls x =>
    match x.q with
    | .away r ty _ => addPart ls r (fun o => match o with
        | .redtUnit a b c es => .redtUnit a b c (es ++ [(r.off, x.v)])
        | _ => .redtUnit op ty (wd tag) [(r.off, x.v)])
    | _ => ls) []

/-! ### Running a move -/

/-- Requests that no answer has come for. -/
def unanswered (p : Program) (ls : List RemoteLane) : List RemoteLane := ls.filter (fun r => (p.answer true r).isNone)
/-- A run that feeds a tun, as a strong store (R68). -/
def Run.feeds (x : Run) : Bool := match x.q with | .here (.glob (.feed _)) _ => true | _ => false
/-- Unit DELIV has been accepted: the next one follows, or the move is over, leaving descriptors as `fin` says. -/
def unitDone (s : State) (r : EngRef) (p : Program) (m : Move) (fin : Program → Program) : State :=
  if m.total ≤ (p.deliv + 1) * m.per then progNext s r (fin p) else s.setHead r { p with deliv := p.deliv + 1, got := [], state := .running }
/-- Executes a move for one unit. -/
def runMove (i : Instr) (f : LauterF) (s : State) (r : EngRef) (p0 : Program) (m : Move) (fin : Program → Program) : State :=
  let p := if p0.inMove then p0 else { p0 with inMove := true, begun := p0.begun + 1 }
  let weak : Ord := { order := 0, scope := 0, cp := 1 }
  if m.total ≤ p.deliv * m.per then progNext s r (fin p)
  else
    let u := unitRun s p m p.deliv
    match u.fault with
    | some c => faultProgram u.s r p f c
    | none =>
      if !u.need.isEmpty then progSend u.s r p u.need weak true (encode i)
      else
        match m.red with
        | none =>
          let rs := runsOf u.out
          let ls := unanswered p (writeLanes rs)
          if rs.any Run.feeds && progStrongAway s r p then s else
          match storeRuns p rs u.s with
          | (_, some (c, x)) => faultProgram (refusedUnit u.s c x) r p f c
          | (s1, none) => if ls.isEmpty then unitDone s1 r p m fin else progSend u.s r p ls weak false (encode i)
        | some (op, tag0) =>
          let tag := (tag0 + p.deliv) % 2 ^ 32
          match reduceRefusal u.s u.out with
          | some c => faultProgram u.s r p f c
          | none =>
            let ls := unanswered p (reduceLanes op tag u.out)
            if !ls.isEmpty then progSend u.s r p ls { order := 1, scope := 10, cp := 0 } false (encode i)
            else
              match reduceParts p op tag m.fmt (slicePieces u.out) u.s with
              | (s1, some c) => faultProgram s1 r p f c
              | (s1, none) => unitDone s1 r p m fin
/-- A descriptor that a move may name (R278). -/
def descUsable (d : Desc) : Bool := Desc.ndim d != 0
/-- Formats that a move refuses whatever the pages say, and the rule for 4-bit destinations. -/
def moveBad (dd : Desc) (srcs : List Desc) : Bool :=
  !descUsable dd || srcs.any (fun d => !descUsable d) ||
  srcs.any (fun d => !Desc.dec d && !Desc.dec dd && Desc.fmt d != Desc.fmt dd && (rawType (Desc.fmt d) || rawType (Desc.fmt dd))) ||
  (storeBits (Desc.fmt dd) = 4 && (elemPos dd none 0 % 2 != 0 || Desc.stride dd 0 != 1 || Desc.extent dd 0 % 2 != 0))
/-- A move whose descriptors are checked first: DESCFMT, else its plan. -/
def asMove (i : Instr) (f : LauterF) (bad : Program → Bool) (plan : Program → Move) (fin : Program → Program) (s : State) :
    Host.Outcome State Fault Refusal :=
  asProgram i f (fun s r p => if bad p then faultProgram s r p f { code := cDescfmt } else runMove i f s r p (plan p) fin) s

def execLauterMovt (f : LauterF) (s : State) : Host.Outcome State Fault Refusal :=
  asMove (.lauterMovt f) f
    (fun p => moveBad (p.desc f.d) [p.desc f.a] || subCount (p.desc f.d) != subCount (p.desc f.a))
    (fun p => { total := subCount (p.desc f.d), fmt := Desc.fmt (p.desc f.d), src := fun k _ => elemAt (p.desc f.a) 0 0 none k,
                dst := fun k _ => elemAt (p.desc f.d) 0 0 none k, rows := none, red := none })
    (fun p => p) s

/-- The rows of GATH and SCAT: `x` is the indexed descriptor. -/
def gathRows (p : Program) (f : LauterF) (x : Desc) : RowList :=
  { space := mSpace f, addr := p.xReg f.b, row := subCount x, limit := Desc.extent x (Desc.tdim x) }
def gathBad (dd : Desc) (ds : Desc) (x : Desc) : Bool :=
  moveBad dd [ds] || Desc.ndim x ≤ Desc.tdim x || subCount dd != subCount ds
/-- Element `k` of the descriptor that steps once a row. -/
def steppedElem (d : Desc) (k : Nat) : Elem := elemAt (stepDesc d (k / subCount d)).1 0 0 none (k % subCount d)
/-- Element `k` of the indexed descriptor, whose row is list entry `j`. -/
def indexedElem (d : Desc) (k j : Nat) : Elem := elemAt d 0 0 (some j) (k % subCount d)
def execLauterGath (f : LauterF) (s : State) : Host.Outcome State Fault Refusal :=
  asMove (.lauterGath f) f
    (fun p => gathBad (p.desc f.d) (p.desc f.a) (p.desc f.a))
    (fun p => { total := f.imm32.toNat * subCount (p.desc f.d), fmt := Desc.fmt (p.desc f.d), src := fun k j => indexedElem (p.desc f.a) k j,
                dst := fun k _ => steppedElem (p.desc f.d) k, rows := some (gathRows p f (p.desc f.a)), red := none })
    (fun p => p.setDesc f.d (stepDesc (p.desc f.d) f.imm32.toNat).1) s
def execLauterScat (f : LauterF) (s : State) : Host.Outcome State Fault Refusal :=
  asMove (.lauterScat f) f
    (fun p => gathBad (p.desc f.d) (p.desc f.a) (p.desc f.d))
    (fun p => { total := f.imm32.toNat * subCount (p.desc f.d), fmt := Desc.fmt (p.desc f.d), src := fun k _ => steppedElem (p.desc f.a) k,
                dst := fun k j => indexedElem (p.desc f.d) k j, rows := some (gathRows p f (p.desc f.d)), red := none })
    (fun p => p.setDesc f.a (stepDesc (p.desc f.a) f.imm32.toNat).1) s

/-- Receivers of MCST: the set bits of RMASK (R282). -/
def receivers (d : Desc) : List Nat := (upTo 16).filter (fun i => bit (Desc.rmask d) i)
def mcstCommon (p : Program) (f : LauterF) : Nat := if f.imm12.getLsbD 1 then 0 else subCount (p.desc f.a)
def mcstOwn (p : Program) (f : LauterF) : Nat := if f.imm12.getLsbD 0 then 0 else subCount (p.desc f.b)
def mcstBad (p : Program) (f : LauterF) : Bool :=
  let dd := p.desc f.d
  moveBad dd ((if f.imm12.getLsbD 1 then [] else [p.desc f.a]) ++ (if f.imm12.getLsbD 0 then [] else [p.desc f.b])) ||
  Desc.space dd = 1 || Desc.space dd = 3 || Desc.rmask dd = 0 || (Desc.space dd = 2 && 256 ≤ Desc.rmask dd) ||
  (f.imm12.getLsbD 0 && f.imm12.getLsbD 1) || subCount dd != mcstCommon p f + mcstOwn p f
/-- Element `k` of the concatenated streams: its source and its destination at receiver number `k / count`. -/
def mcstSrc (p : Program) (f : LauterF) (k : Nat) : Elem :=
  let c := subCount (p.desc f.d)
  let e := k % c
  if e < mcstCommon p f then elemAt (p.desc f.a) 0 0 none e
  else elemAt (p.desc f.b) (((k / c : Nat) : Int) * Desc.rstride (p.desc f.b)) 0 none (e - mcstCommon p f)
def mcstDst (p : Program) (f : LauterF) (k : Nat) : Elem :=
  let dd := p.desc f.d
  let c := subCount dd
  let j := k / c
  let rank := (receivers dd).getD j 0
  let extra : Int := (j : Int) * Desc.rstride dd + (if Desc.space dd = 2 then ((rank * 2 ^ 18 : Nat) : Int) else 0)
  elemAt dd extra rank none (k % c)
def execLauterMcst (f : LauterF) (s : State) : Host.Outcome State Fault Refusal :=
  asMove (.lauterMcst f) f (fun p => mcstBad p f)
    (fun p => { total := (receivers (p.desc f.d)).length * subCount (p.desc f.d), fmt := Desc.fmt (p.desc f.d), src := fun k _ => mcstSrc p f k,
                dst := fun k _ => mcstDst p f k, rows := none, red := none })
    (fun p => p) s

/-- ROP and FMT that LRED allows. -/
def lredAllowed (d : Desc) : Bool :=
  if Desc.rop d < 6 then [5, 6, 7, 8].contains (Desc.fmt d).toNat else [9, 10, 11, 12].contains (Desc.fmt d).toNat
/-- LRED (R283). Destination elements have Dd's FMT, whatever DEC and the page's format say: DESIGN CHOICE, R276 would give them the page's format
and R283 Dd's (log entry 124). -/
def execLauterLred (f : LauterF) (s : State) : Host.Outcome State Fault Refusal :=
  asMove (.lauterLred f) f
    (fun p =>
      let dd := p.desc f.d
      moveBad dd [p.desc f.a] || !lredAllowed dd || Desc.space dd != 0 || subCount dd != subCount (p.desc f.a))
    (fun p => { total := subCount (p.desc f.d), fmt := Desc.fmt (p.desc f.d), src := fun k _ => elemAt (p.desc f.a) 0 0 none k,
                dst := fun k _ => { elemAt (p.desc f.d) 0 0 none k with dec := false }, rows := none, red := some (lredOp (Desc.rop (p.desc f.d)), (p.xReg f.b).toNat) })
    (fun p => p) s

end Sys2Proof.Machine
end

