-- ==== Sys2Proof/Machine/Population.lean ====
section
/-! DEFINITION. RACK and RESAMP (R38 to R47, R261, R262, R362): arrival, and their effects. -/

namespace Sys2Proof.Machine

/-! ### Shared pieces -/

def sortGroups (l : List Group) (key : Group → Nat) : List Group := l.foldr (fun g acc =>
  (acc.takeWhile (fun x => key x < key g)) ++ g :: (acc.dropWhile (fun x => key x < key g))) []
/-- Counters 0, 1, 2, 4, 5, 6 and 7 are zero, and no register result is outstanding. -/
def drained (g : Group) : Bool := g.flights.all (fun f => f.path == 3) && g.splits.all (fun x => x.pend.isEmpty)
/-- A stack entry other than OUTER. -/
def heldBack (x : Split) : Bool := x.stack.any (fun e => match e with | .outer _ _ => false | _ => true)
/-- The one split a group resumes as, after its collective at `pc`. -/
def mergedSplit (paired : Bool) (g : Group) (pc : CodeAddr) (mask : Mask) (now : DWord) : Split :=
  let first := (g.splits.head?).getD {}
  { freshSplit 0 g.nextAge (pcWord (pc + 12)) mask now with
    sup := first.sup, inSup := first.inSup, owedSup := first.owedSup
    timerTaken := !g.splits.isEmpty && g.splits.all (·.timerTaken)
    gangFail := (g.splits.find? (·.gangFail.isSome)).bind (·.gangFail)
    relFence := fenceOf paired g.splits, acqSig := readsOf g.splits }
def resume (paired : Bool) (g : Group) (pc : CodeAddr) (now : DWord) : Group :=
  { g with splits := [mergedSplit paired g pc g.liveMask now], nextAge := g.nextAge + 1 }
/-- A collective fails: ILLOP in every parked split. -/
def failSplits (s : State) (gs : List Group) (insn : Split → List Word) : State :=
  gs.foldl (fun s g => g.splits.foldl (fun s x =>
    match s.group? g.uid with
    | some g => raise s (g.setSplit { x with status := .ready }) { x with status := .ready } { code := cIllop } (insn x)
    | none => s) s) s

/-! ### RACK (R38, R39, R261) -/

def rackPark (x : Split) : Option (Nat × List Word) := match x.status with | .parked (.rack k w) => some (k, w) | _ => none
def execRack (h : Hdr) (f : LongF) (s : State) : Host.Outcome State Fault Refusal :=
  match s.current? with
  | none => .fault .noAgent
  | some (g, sp) =>
    .next (beforeEffect (.rack h f) h (h.g == 7 && !h.gn) false s g sp (parkAt s g sp (.rack f.a.toNat (encode (.rack h f)))))
/-- The team is ready for its RACK: every live split is parked at one, and everything is written. -/
def rackReady (s : State) (t : Team) : Bool :=
  let gs := teamGroups s t.uid
  !t.saved && !gs.isEmpty && gs.all (fun g => g.gstate == .resident && drained g && g.splits.all (fun x => (rackPark x).isSome))
/-- The RACK fails (R261). -/
def rackFails (gs : List Group) : Bool :=
  let all := gs.flatMap (·.splits)
  match all with
  | [] => false
  | x :: _ =>
    all.any (fun y => y.pc != x.pc || (rackPark y).map (·.1) != (rackPark x).map (·.1)) || all.any (fun y => y.inUser) || all.any heldBack
/-- Lanes that survive, in (old GROUPID, old LANEID) order. -/
def survivors (gs : List Group) (k : Nat) : List Lane :=
  gs.flatMap (fun g => (lanesOf g.liveMask).filterMap (fun l => if (g.lane l).pReg k then some (g.lane l) else none))
/-- The n-th new group takes over the n-th old one. -/
def rackGroup (paired : Bool) (now : DWord) (pc : CodeAddr) (lanes : List Lane) (n : Nat) (g : Group) : Group :=
  let mine := (lanes.drop (n * g.width)).take g.width
  resume paired { g with groupid := n, lanes := mine ++ List.replicate (g.width - mine.length) {} } pc now
def rackApply (s : State) (gs : List Group) (pc : CodeAddr) (k : Nat) : State :=
  let lanes := survivors gs k
  let s := gs.zipIdx.foldl (fun s q => s.setGroup (rackGroup (teamPaired s q.1) s.clock pc lanes q.2 q.1)) s
  let s := match gs with
    | g :: _ => s.modTeam g.team (fun t => { t with groups := ceilDiv lanes.length g.width })
    | [] => s
  gs.foldl (fun s g => groupCheck s g.uid) s
/-- Lanes of a paired team may change core: neither L1 keeps a line older than one the other core has filled (R317). -/
def rackCaches (s : State) (team : Nat) : State :=
  match teamCores s team with
  | [c, d] => flushCore (flushCore s c) d
  | _ => s
def rackDo (s : State) (t : Team) : State :=
  if !rackReady s t then s
  else
    let gs := sortGroups (teamGroups s t.uid) (·.groupid)
    if rackFails gs then failSplits s gs (fun x => ((rackPark x).map (·.2)).getD [])
    else
      match gs.flatMap (·.splits) with
      | x :: _ => rackApply (rackCaches (barrierFence s t.uid) t.uid) gs x.pc (((rackPark x).map (·.1)).getD 7)
      | [] => s
def execRackEffect (team : Nat) (s : State) : Host.Outcome State Fault Refusal :=
  .next (match s.team? team with | some t => rackDo s t | none => s)

/-! ### RESAMP: arrival (R41, R262) -/

structure ResampArgs where
  stat : Nat
  weight : Nat
  target : DWord
  u : Option DWord
  guard : Mask
  insn : List Word
def resampPark (x : Split) : Option ResampArgs :=
  match x.status with
  | .parked (.resamp a b c d e w) => some ⟨a, b, c, d, e, w⟩
  | _ => none
def isPopulation (s : State) (g : Group) : Bool := match s.grid? g.grid with | some r => r.kind == .population | none => false
def execResamp (h : Hdr) (f : LongF) (s : State) : Host.Outcome State Fault Refusal :=
  match s.current? with
  | none => .fault .noAgent
  | some (g, sp) =>
    .next (beforeEffect (.resamp h f) h (isPopulation s g) false s g sp
      (parkAt s g sp (.resamp f.d.toNat f.a.toNat (g.sReg f.b.toNat) (if f.mo.getLsbD 0 then some (g.sReg f.c.toNat) else none)
        (maskOf (activeLanes g sp h)) (encode (.resamp h f)))))

/-! ### RESAMP: counts (R41 to R43) -/

/-- A weight in steps of 2^−149, and whether it is bad. -/
def weightOf (x : Nat) : Nat × Bool :=
  match fdec 11 x with
  | .fin n m e => if n && m != 0 then (0, true) else (m * 2 ^ (e + 149).toNat, false)
  | _ => (0, true)
/-- The generated offset. -/
def popOffset (r : Grid) : DWord := mixer r.popseed (zx r.popgen)
/-- ⌊N·C/W + f⌋. -/
def cutAt (n w : Nat) (u : DWord) (c : Nat) : Nat := (n * c * 2 ^ 64 + u.toNat * w) / (w * 2 ^ 64)
/-- Counts by thread, from weights in POPIDX order. -/
def countsFrom (n w : Nat) (u : DWord) : Nat → List Nat → List Nat
  | _, [] => []
  | c, x :: xs => (cutAt n w u (c + x) - cutAt n w u c) :: countsFrom n w u (c + x) xs

/-! ### RESAMP: clones (R45, R46, R362) -/

/-- Where a thread is: group and lane. -/
structure Spot where
  group : Nat
  lane : Nat
/-- A thread of the population with its weight. -/
structure Thread where
  spot : Spot
  lane : Lane
  weight : Nat
  bad : Bool
def insertThread (t : Thread) : List Thread → List Thread
  | [] => [t]
  | x :: xs => if t.lane.popidx.toNat ≤ x.lane.popidx.toNat then t :: x :: xs else x :: insertThread t xs
/-- The live threads of a grid in ascending POPIDX order. -/
def threadsOf (gs : List Group) : List Thread :=
  (gs.flatMap (fun g => (lanesOf g.liveMask).map (fun l =>
    let a := (g.splits.find? (fun x => x.mask.getLsbD l)).bind resampPark
    let w := match a with
      | some a => if a.guard.getLsbD l then weightOf ((g.lane l).vReg a.weight).toNat else (0, false)
      | none => (0, false)
    ({ spot := ⟨g.uid, l⟩, lane := g.lane l, weight := w.1, bad := w.2 } : Thread)))).foldr insertThread []
def teamidOf (s : State) (g : Group) : Nat := match s.team? g.team with | some t => t.teamid | none => 0
/-- Groups of the grid in (TEAMID, GROUPID) order. -/
def gridGroups (s : State) (grid : Nat) : List Group :=
  sortGroups (s.groups.filter (fun g => g.grid == grid)) (fun g => teamidOf s g * 2 ^ 20 + g.groupid)
def freeLane (g : Group) : Option Nat := (upTo g.width).find? (fun l => !(g.lane l).live)
/-- The first group of a list with a free lane. -/
def firstFree (l : List Group) : Option Spot :=
  (l.find? (fun g => (freeLane g).isSome)).bind (fun g => (freeLane g).map (fun x => ⟨g.uid, x⟩))
/-- The first free slot for a clone, in the seven steps of R46. -/
def cloneSpot (s : State) (r : Grid) (p : Group) : Option Spot :=
  let all := gridGroups s r.uid
  let mine := all.filter (fun g => g.team == p.team)
  let others := all.filter (fun g => g.team != p.team)
  let near (f : Group → Bool) := firstFree (others.filter f)
  [firstFree (all.filter (fun g => g.uid == p.uid)), firstFree mine, near (fun g => g.core == p.core),
   near (fun g => g.core != p.core && pairOf g.core == pairOf p.core),
   near (fun g => pairOf g.core != pairOf p.core && clusterOf g.core == clusterOf p.core),
   near (fun g => clusterOf g.core != clusterOf p.core && dieOf g.core == dieOf p.core),
   near (fun g => dieOf g.core != dieOf p.core)].foldl (fun o x => match o with | some y => some y | none => x) none
/-- A group made by RESAMP: it copies S, K, TIMECMP and UTVEC from the group of its first lane's parent. -/
def cloneGroup (s : State) (r : Grid) (p : Group) (team groupid core slot : Nat) : Group :=
  { freshGroup s r team groupid core slot 0 (List.replicate r.width {}) with
    s := p.s, k := p.k, timecmp := p.timecmp, utvec := p.utvec, splits := p.splits.take 1, nextAge := p.nextAge }
/-- The core of a team that takes one more group, if the team has room (R46): the parent's first. -/
def roomCore (s : State) (r : Grid) (p : Group) (t : Team) : Option Nat :=
  if t.saved || (if t.paired then 2048 else 1024) < (t.groups + 1) * r.width then none
  else (if t.paired then [p.core, if p.core = t.core then t.core + 1 else t.core] else [p.core]).find? (takesUnit s r)
/-- A new group of the parent's team (R46). -/
def newGroup (s : State) (r : Grid) (p : Group) (t : Team) (core unit : Nat) : State × Spot :=
  let s := useUnit (s.modTeam t.uid (fun x => { x with groups := x.groups + 1 })) r core
  (addGroup s (cloneGroup s r p t.uid t.groups core unit), ⟨s.uid, 0⟩)
/-- A new team with its first group, in its saved state when it has no place (R362). -/
def newTeam (s : State) (r : Grid) (p : Group) (unit : Nat) : State × Spot :=
  let spot := resampSpot s r
  let core := (spot.getD (p.core, p.core)).2
  let q := s.fresh
  let s := q.2.modGrid r.uid (fun x => { x with nt := x.nt + 1, nextTeam := x.nextTeam + 1 })
  let s := if spot.isSome then useUnit s r core else s
  let t : Team := { uid := q.1, grid := r.uid, teamid := r.nt, core := (spot.getD (p.core, p.core)).1, paired := r.paired, scratch := r.scratch,
                    acc := r.acc, saved := spot.isNone, ahead := spot.isNone }
  let s := { s with teams := s.teams ++ [t] }
  let g := { cloneGroup s r p t.uid 0 core unit with gstate := if spot.isNone then .saved else .resident }
  (storeHeader (addGroup s g) g (gstateCode g.gstate), ⟨s.uid, 0⟩)
/-- A lane slot for a clone where none is free: a new group in the parent's team, or a new team. `none` when no image unit is free. -/
def newSpot (s : State) (r : Grid) (p : Group) : Option (State × Spot) :=
  match takeSlots s r 1, s.team? p.team with
  | (s, u :: _), some t => some (match roomCore s r p t with | some c => newGroup s r p t c u | none => newTeam s r p u)
  | _, _ => none
/-- Copies a slice, poison included. -/
def sliceCopy (s : State) (r : Grid) (src dst : DWord) : State :=
  (sliceParts r.priv).foldl (fun s i =>
    let q := sliceRead s r (src + dw i.1) i.2
    sliceWrite q.1 r (dst + dw i.1) i.2 q.2.1 q.2.2) s
/-- The address of a free slice for a clone: the first of the grid's slices, of which its launch reserved POPCAP, that no live thread holds (R20,
R45; log entry 53). -/
def freshSlice (s : State) (r : Grid) : DWord :=
  let held := (gridGroups s r.uid).flatMap (fun g => (lanesOf g.liveMask).map (fun l => (g.lane l).privbase))
  let at_ (i : Nat) : DWord := r.privNext + dw (i * privStride r.priv)
  at_ (((upTo (held.length + 1)).find? (fun i => !held.contains (at_ i))).getD 0)
/-- Places one clone (new rank `rank`, copy number `j`) of a thread. -/
def placeClone (o : Option State) (grid : Nat) (t : Thread) (rank j : Nat) : Option State :=
  o.bind (fun s =>
    match s.grid? grid, s.group? t.spot.group with
    | some r, some p =>
      (match cloneSpot s r p with | some x => some (s, x) | none => newSpot s r p).map (fun (q : State × Spot) =>
        let base := if r.priv = 0 then t.lane.privbase else freshSlice q.1 r
        let s := if r.priv = 0 then q.1 else sliceCopy q.1 r t.lane.privbase base
        let core := match s.group? q.2.group with | some g => g.core | none => p.core
        let s := if core = p.core then s else applySig s core (releaseLines s p.core)
        s.modGroup q.2.group (fun g => g.setLane q.2.lane
          { t.lane with popidx := wd rank, parent := t.lane.popidx, copy := wd j, privbase := base }))
    | _, _ => none)
/-- Every clone in ascending new rank. -/
def placeClones (s : State) (grid : Nat) (ts : List (Thread × Nat)) : Option State :=
  (ts.foldl (fun (q : Option State × Nat) t =>
    ((upTo (t.2 - 1)).foldl (fun o j => placeClone o grid t.1 (q.2 + j + 1) (j + 1)) q.1, q.2 + t.2)) (some s, 0)).1
/-- Retires threads without copies, renumbers the others (R45, R47). -/
def renumber (s : State) (ts : List (Thread × Nat)) : State :=
  (ts.foldl (fun (q : State × Nat) t =>
    (q.1.modGroup t.1.spot.group (fun g => g.modLane t.1.spot.lane (fun x =>
      if t.2 = 0 then { x with live := false } else { x with popidx := wd q.2, parent := x.popidx, copy := 0 })), q.2 + t.2)) (s, 0)).1

/-! ### RESAMP: effect (R42, R44, R47, R262) -/

/-- The grid is ready: every live split is parked at RESAMP, everything is written, every team has started. -/
def resampReady (s : State) (r : Grid) : Bool :=
  let gs := gridGroups s r.uid
  !gs.isEmpty && r.nextTeam ≥ r.nt && (s.part r.part).running && !s.teams.any (fun t => t.grid == r.uid && t.heldBySave) &&
  gs.all (fun g => g.gstate != .escalated && drained g && g.splits.all (fun x => (resampPark x).isSome))
/-- `fence.ar.device 0` by every lane. -/
def resampFence (s : State) (gs : List Group) : State :=
  gs.foldl (fun s g => g.splits.foldl (fun s x => applySig s g.core x.acqSig) s) s
/-- A group goes on after RESAMP, its status outstanding (R44). -/
def resampResume (s : State) (uid stat : Nat) (pc : CodeAddr) (status : Nat) : State :=
  match s.group? uid with
  | none => s
  | some g =>
    let f := s.fresh
    let paired := teamPaired s g
    let g := resume paired g pc s.clock
    let g := { g with splits := g.splits.map (fun x =>
      { x.addPend f.1 [.s stat (dw status)] with acqSig := [], relFence := widerFence paired x.relFence 8 }) }
    let s := f.2.setGroup g
    if g.gstate == .saved then storeImage (checkImage s g.uid) g else s
def resampFinish (s : State) (r : Grid) (stats : List (Nat × Nat × CodeAddr)) (status : Nat) : State :=
  let gs := gridGroups s r.uid
  let s := gs.foldl (fun s g =>
    let a := (stats.find? (fun q => q.1 == g.uid)).getD ((stats.head?).getD (0, 0, 0))
    if g.liveMask.toNat = 0 then s else resampResume s g.uid a.2.1 a.2.2 status) s
  gs.foldl (fun s g => groupCheck s g.uid) s
def resampDo (s : State) (r : Grid) : State :=
  if !resampReady s r then s
  else
    let gs := gridGroups s r.uid
    let all := gs.flatMap (·.splits)
    if all.any (fun x => x.inUser || heldBack x) then failSplits s gs (fun x => ((resampPark x).map (·.insn)).getD [])
    else
      let stats := gs.filterMap (fun g => (g.splits.head?).bind (fun x => (resampPark x).map (fun a => (g.uid, a.stat, x.pc))))
      match (all.head?).bind resampPark with
      | none => s
      | some a =>
        let s1 := resampFence s gs
        let ts := threadsOf gs
        let w := ts.foldl (fun n t => n + t.weight) 0
        let n := a.target.toNat
        let badw := b2n (ts.any (·.bad)) * 4
        if w = 0 || n > r.popcap.toNat then
          resampFinish s1 r stats (b2n (n > r.popcap.toNat) * 8 + badw + b2n (w = 0) * 2)
        else
          let u := match a.u with | some u => u | none => popOffset r
          let cs := ts.zip (countsFrom n w u 0 (ts.map (·.weight)))
          match placeClones (renumber s1 cs) r.uid cs with
          | none => imageFault s r.part
          | some s2 =>
            let s2 := s2.modGrid r.uid (fun x => { x with popgen := x.popgen + 1, popsize := wd n })
            resampFinish s2 r stats (1 + badw)
def execResampEffect (grid : Nat) (s : State) : Host.Outcome State Fault Refusal :=
  .next (match s.grid? grid with | some r => resampDo s r | none => s)

end Sys2Proof.Machine
end

