-- ==== Sys2Proof/Machine/Dispatch.lean ====
section
/-! DEFINITION. One arm per row of spec/opcode_table.json: the instruction's meaning. -/

namespace Sys2Proof.Machine

/-- Executes an instruction as the agent the state names. -/
def exec (i : Instr) (s : State) : Host.Outcome State Fault Refusal :=
  match i with
  | .nop h => Sys2Proof.Machine.execNop h s
  | .smov h f => Sys2Proof.Machine.execSmov h f s
  | .sli h f => Sys2Proof.Machine.execSli h f s
  | .sshi h f => Sys2Proof.Machine.execSshi h f s
  | .sadd h f => Sys2Proof.Machine.execSadd h f s
  | .ssub h f => Sys2Proof.Machine.execSsub h f s
  | .smul h f => Sys2Proof.Machine.execSmul h f s
  | .smulh h f => Sys2Proof.Machine.execSmulh h f s
  | .sand h f => Sys2Proof.Machine.execSand h f s
  | .sor h f => Sys2Proof.Machine.execSor h f s
  | .sxor h f => Sys2Proof.Machine.execSxor h f s
  | .sshl h f => Sys2Proof.Machine.execSshl h f s
  | .sshr h f => Sys2Proof.Machine.execSshr h f s
  | .ssra h f => Sys2Proof.Machine.execSsra h f s
  | .smin h f => Sys2Proof.Machine.execSmin h f s
  | .smax h f => Sys2Proof.Machine.execSmax h f s
  | .scmp h f => Sys2Proof.Machine.execScmp h f s
  | .klop h f => Sys2Proof.Machine.execKlop h f s
  | .spopc h f => Sys2Proof.Machine.execSpopc h f s
  | .sclz h f => Sys2Proof.Machine.execSclz h f s
  | .sld h f => Sys2Proof.Machine.execSld h f s
  | .sst h f => Sys2Proof.Machine.execSst h f s
  | .srd h f => Sys2Proof.Machine.execSrd h f s
  | .swr h f => Sys2Proof.Machine.execSwr h f s
  | .jmp h f => Sys2Proof.Machine.execJmp h f s
  | .call h f => Sys2Proof.Machine.execCall h f s
  | .jr h f => Sys2Proof.Machine.execJr h f s
  | .join h => Sys2Proof.Machine.execJoin h s
  | .exit h => Sys2Proof.Machine.execExit h s
  | .trap h f => Sys2Proof.Machine.execTrap h f s
  | .syscall h f => Sys2Proof.Machine.execSyscall h f s
  | .eret h => Sys2Proof.Machine.execEret h s
  | .waitc h f => Sys2Proof.Machine.execWaitc h f s
  | .bar h f => Sys2Proof.Machine.execBar h f s
  | .yield h => Sys2Proof.Machine.execYield h s
  | .sleep h f => Sys2Proof.Machine.execSleep h f s
  | .dwb h f => Sys2Proof.Machine.execDwb h f s
  | .dinv h f => Sys2Proof.Machine.execDinv h f s
  | .icinv h f => Sys2Proof.Machine.execIcinv h f s
  | .fetchb h => Sys2Proof.Machine.execFetchb h s
  | .mov h f => Sys2Proof.Machine.execMov h f s
  | .movi h f => Sys2Proof.Machine.execMovi h f s
  | .iadd h f => Sys2Proof.Machine.execIadd h f s
  | .isub h f => Sys2Proof.Machine.execIsub h f s
  | .imul h f => Sys2Proof.Machine.execImul h f s
  | .imulh h f => Sys2Proof.Machine.execImulh h f s
  | .imad h f => Sys2Proof.Machine.execImad h f s
  | .imin h f => Sys2Proof.Machine.execImin h f s
  | .imax h f => Sys2Proof.Machine.execImax h f s
  | .iabs h f => Sys2Proof.Machine.execIabs h f s
  | .ineg h f => Sys2Proof.Machine.execIneg h f s
  | .land h f => Sys2Proof.Machine.execLand h f s
  | .lor h f => Sys2Proof.Machine.execLor h f s
  | .lxor h f => Sys2Proof.Machine.execLxor h f s
  | .logt h f => Sys2Proof.Machine.execLogt h f s
  | .shl h f => Sys2Proof.Machine.execShl h f s
  | .shr h f => Sys2Proof.Machine.execShr h f s
  | .sra h f => Sys2Proof.Machine.execSra h f s
  | .bfe h f => Sys2Proof.Machine.execBfe h f s
  | .bfi h f => Sys2Proof.Machine.execBfi h f s
  | .popc h f => Sys2Proof.Machine.execPopc h f s
  | .clz h f => Sys2Proof.Machine.execClz h f s
  | .brev h f => Sys2Proof.Machine.execBrev h f s
  | .icmp h f => Sys2Proof.Machine.execIcmp h f s
  | .sel h f => Sys2Proof.Machine.execSel h f s
  | .idiv h f => Sys2Proof.Machine.execIdiv h f s
  | .irem h f => Sys2Proof.Machine.execIrem h f s
  | .idot4 h f => Sys2Proof.Machine.execIdot4 h f s
  | .bsel h f => Sys2Proof.Machine.execBsel h f s
  | .nlut h f => Sys2Proof.Machine.execNlut h f s
  | .plop h f => Sys2Proof.Machine.execPlop h f s
  | .ptov h f => Sys2Proof.Machine.execPtov h f s
  | .vtop h f => Sys2Proof.Machine.execVtop h f s
  | .fadd h f => Sys2Proof.Machine.execFadd h f s
  | .fsub h f => Sys2Proof.Machine.execFsub h f s
  | .fmul h f => Sys2Proof.Machine.execFmul h f s
  | .ffma h f => Sys2Proof.Machine.execFfma h f s
  | .fmin h f => Sys2Proof.Machine.execFmin h f s
  | .fmax h f => Sys2Proof.Machine.execFmax h f s
  | .fcmp h f => Sys2Proof.Machine.execFcmp h f s
  | .fdiv h f => Sys2Proof.Machine.execFdiv h f s
  | .fsqrt h f => Sys2Proof.Machine.execFsqrt h f s
  | .frcp h f => Sys2Proof.Machine.execFrcp h f s
  | .frsq h f => Sys2Proof.Machine.execFrsq h f s
  | .fex2 h f => Sys2Proof.Machine.execFex2 h f s
  | .flg2 h f => Sys2Proof.Machine.execFlg2 h f s
  | .fsin h f => Sys2Proof.Machine.execFsin h f s
  | .fcos h f => Sys2Proof.Machine.execFcos h f s
  | .ftanh h f => Sys2Proof.Machine.execFtanh h f s
  | .fclass h f => Sys2Proof.Machine.execFclass h f s
  | .fdot2 h f => Sys2Proof.Machine.execFdot2 h f s
  | .hadd2 h f => Sys2Proof.Machine.execHadd2 h f s
  | .hmul2 h f => Sys2Proof.Machine.execHmul2 h f s
  | .hfma2 h f => Sys2Proof.Machine.execHfma2 h f s
  | .frnd h f => Sys2Proof.Machine.execFrnd h f s
  | .fscale h f => Sys2Proof.Machine.execFscale h f s
  | .cvt h f => Sys2Proof.Machine.execCvt h f s
  | .cvpk h f => Sys2Proof.Machine.execCvpk h f s
  | .cvup h f => Sys2Proof.Machine.execCvup h f s
  | .qscl h f => Sys2Proof.Machine.execQscl h f s
  | .qcvt h f => Sys2Proof.Machine.execQcvt h f s
  | .vxch h f => Sys2Proof.Machine.execVxch h f s
  | .rdlane h f => Sys2Proof.Machine.execRdlane h f s
  | .wrlane h f => Sys2Proof.Machine.execWrlane h f s
  | .vote h f => Sys2Proof.Machine.execVote h f s
  | .fold h f => Sys2Proof.Machine.execFold h f s
  | .scan h f => Sys2Proof.Machine.execScan h f s
  | .samev h f => Sys2Proof.Machine.execSamev h f s
  | .vsrd h f => Sys2Proof.Machine.execVsrd h f s
  | .elect h f => Sys2Proof.Machine.execElect h f s
  | .brd h f => Sys2Proof.Machine.execBrd h f s
  | .lexit h f => Sys2Proof.Machine.execLexit h f s
  | .ld h f => Sys2Proof.Machine.execLd h f s
  | .st h f => Sys2Proof.Machine.execSt h f s
  | .atom h f => Sys2Proof.Machine.execAtom h f s
  | .acas h f => Sys2Proof.Machine.execAcas h f s
  | .red h f => Sys2Proof.Machine.execRed h f s
  | .redt h f => Sys2Proof.Machine.execRedt h f s
  | .fence h f => Sys2Proof.Machine.execFence h f s
  | .pref h f => Sys2Proof.Machine.execPref h f s
  | .arrive h f => Sys2Proof.Machine.execArrive h f s
  | .waitph h f => Sys2Proof.Machine.execWaitph h f s
  | .rawait h f => Sys2Proof.Machine.execRawait h f s
  | .rrel h f => Sys2Proof.Machine.execRrel h f s
  | .qput h f => Sys2Proof.Machine.execQput h f s
  | .qget h f => Sys2Proof.Machine.execQget h f s
  | .mma h f => Sys2Proof.Machine.execMma h f s
  | .mmas h f => Sys2Proof.Machine.execMmas h f s
  | .aclr h f => Sys2Proof.Machine.execAclr h f s
  | .ald h f => Sys2Proof.Machine.execAld h f s
  | .ast h f => Sys2Proof.Machine.execAst h f s
  | .asts h f => Sys2Proof.Machine.execAsts h f s
  | .xqt h f => Sys2Proof.Machine.execXqt h f s
  | .tinst h f => Sys2Proof.Machine.execTinst h f s
  | .tfree h f => Sys2Proof.Machine.execTfree h f s
  | .tdraw h f => Sys2Proof.Machine.execTdraw h f s
  | .tstat h f => Sys2Proof.Machine.execTstat h f s
  | .rack h f => Sys2Proof.Machine.execRack h f s
  | .resamp h f => Sys2Proof.Machine.execResamp h f s
  | .lxstart h f => Sys2Proof.Machine.execLxstart h f s
  | .lxstat h f => Sys2Proof.Machine.execLxstat h f s
  | .lxkill h f => Sys2Proof.Machine.execLxkill h f s
  | .lauterLi f => Sys2Proof.Machine.execLauterLi f s
  | .lauterLih f => Sys2Proof.Machine.execLauterLih f s
  | .lauterMov f => Sys2Proof.Machine.execLauterMov f s
  | .lauterAdd f => Sys2Proof.Machine.execLauterAdd f s
  | .lauterSub f => Sys2Proof.Machine.execLauterSub f s
  | .lauterMul f => Sys2Proof.Machine.execLauterMul f s
  | .lauterAnd f => Sys2Proof.Machine.execLauterAnd f s
  | .lauterOr f => Sys2Proof.Machine.execLauterOr f s
  | .lauterXor f => Sys2Proof.Machine.execLauterXor f s
  | .lauterShl f => Sys2Proof.Machine.execLauterShl f s
  | .lauterShr f => Sys2Proof.Machine.execLauterShr f s
  | .lauterAddi f => Sys2Proof.Machine.execLauterAddi f s
  | .lauterLdx f => Sys2Proof.Machine.execLauterLdx f s
  | .lauterStx f => Sys2Proof.Machine.execLauterStx f s
  | .lauterBeq f => Sys2Proof.Machine.execLauterBeq f s
  | .lauterBne f => Sys2Proof.Machine.execLauterBne f s
  | .lauterBlt f => Sys2Proof.Machine.execLauterBlt f s
  | .lauterBge f => Sys2Proof.Machine.execLauterBge f s
  | .lauterJmp f => Sys2Proof.Machine.execLauterJmp f s
  | .lauterLoop f => Sys2Proof.Machine.execLauterLoop f s
  | .lauterDset f => Sys2Proof.Machine.execLauterDset f s
  | .lauterDidx f => Sys2Proof.Machine.execLauterDidx f s
  | .lauterDstep f => Sys2Proof.Machine.execLauterDstep f s
  | .lauterMovt f => Sys2Proof.Machine.execLauterMovt f s
  | .lauterGath f => Sys2Proof.Machine.execLauterGath f s
  | .lauterScat f => Sys2Proof.Machine.execLauterScat f s
  | .lauterMcst f => Sys2Proof.Machine.execLauterMcst f s
  | .lauterLred f => Sys2Proof.Machine.execLauterLred f s
  | .lauterFill f => Sys2Proof.Machine.execLauterFill f s
  | .lauterArrv f => Sys2Proof.Machine.execLauterArrv f s
  | .lauterWaitb f => Sys2Proof.Machine.execLauterWaitb f s
  | .lauterFence f => Sys2Proof.Machine.execLauterFence f s
  | .lauterAbort f => Sys2Proof.Machine.execLauterAbort f s
  | .lauterEnd f => Sys2Proof.Machine.execLauterEnd f s
  | .steepLdi f => Sys2Proof.Machine.execSteepLdi f s
  | .steepMov f => Sys2Proof.Machine.execSteepMov f s
  | .steepAdd f => Sys2Proof.Machine.execSteepAdd f s
  | .steepSub f => Sys2Proof.Machine.execSteepSub f s
  | .steepAnd f => Sys2Proof.Machine.execSteepAnd f s
  | .steepOr f => Sys2Proof.Machine.execSteepOr f s
  | .steepShl f => Sys2Proof.Machine.execSteepShl f s
  | .steepShr f => Sys2Proof.Machine.execSteepShr f s
  | .steepLdpf f => Sys2Proof.Machine.execSteepLdpf f s
  | .steepStpf f => Sys2Proof.Machine.execSteepStpf f s
  | .steepLdw f => Sys2Proof.Machine.execSteepLdw f s
  | .steepStw f => Sys2Proof.Machine.execSteepStw f s
  | .steepBz f => Sys2Proof.Machine.execSteepBz f s
  | .steepBnz f => Sys2Proof.Machine.execSteepBnz f s
  | .steepLoop f => Sys2Proof.Machine.execSteepLoop f s
  | .steepEmit f => Sys2Proof.Machine.execSteepEmit f s
  | .steepWaitv f => Sys2Proof.Machine.execSteepWaitv f s
  | .steepSignal f => Sys2Proof.Machine.execSteepSignal f s
  | .steepDrop f => Sys2Proof.Machine.execSteepDrop f s
  | .steepFaultq f => Sys2Proof.Machine.execSteepFaultq f s
  | .steepEnd f => Sys2Proof.Machine.execSteepEnd f s
  | .variableLatencyResult sp op lanes => Sys2Proof.Machine.execVariableLatencyResult sp op lanes s
  | .operationCompletion group path => Sys2Proof.Machine.execOperationCompletion group path s
  | .userTrapEntry sp => Sys2Proof.Machine.execUserTrapEntry sp s
  | .supervisorTrapEntry sp => Sys2Proof.Machine.execSupervisorTrapEntry sp s
  | .escalation sp => Sys2Proof.Machine.execEscalation sp s
  | .timerDue group => Sys2Proof.Machine.execTimerDue group s
  | .rackEffect team => Sys2Proof.Machine.execRackEffect team s
  | .resampEffect grid => Sys2Proof.Machine.execResampEffect grid s
  | .splitWake sp => Sys2Proof.Machine.execSplitWake sp s
  | .priorityAging sp => Sys2Proof.Machine.execPriorityAging sp s
  | .waitphReread sp => Sys2Proof.Machine.execWaitphReread sp s
  | .rawaitClaim sp => Sys2Proof.Machine.execRawaitClaim sp s
  | .tdrawServe sp slot => Sys2Proof.Machine.execTdrawServe sp slot s
  | .tdrawTimeout sp => Sys2Proof.Machine.execTdrawTimeout sp s
  | .sleepWake sp => Sys2Proof.Machine.execSleepWake sp s
  | .tunFire tun slot => Sys2Proof.Machine.execTunFire tun slot s
  | .fillTimeout tun slot => Sys2Proof.Machine.execFillTimeout tun slot s
  | .installCompletion tun => Sys2Proof.Machine.execInstallCompletion tun s
  | .lauterProgramStart eng => Sys2Proof.Machine.execLauterProgramStart eng s
  | .waitbReread eng => Sys2Proof.Machine.execWaitbReread eng s
  | .faultResume eng => Sys2Proof.Machine.execFaultResume eng s
  | .faultAbort eng => Sys2Proof.Machine.execFaultAbort eng s
  | .faultAbortAndPoison eng => Sys2Proof.Machine.execFaultAbortAndPoison eng s
  | .cellarMove cask => Sys2Proof.Machine.execCellarMove cask s
  | .taskEntryTake grid cask => Sys2Proof.Machine.execTaskEntryTake grid cask s
  | .fillDelayExpiry grid entry => Sys2Proof.Machine.execFillDelayExpiry grid entry s
  | .teamPlacement grid => Sys2Proof.Machine.execTeamPlacement grid s
  | .gridRetirement grid => Sys2Proof.Machine.execGridRetirement grid s
  | .budgetPeriod cluster => Sys2Proof.Machine.execBudgetPeriod cluster s
  | .matrixWaitLimit core => Sys2Proof.Machine.execMatrixWaitLimit core s
  | .monitorPoll die r => Sys2Proof.Machine.execMonitorPoll die r s
  | .kick q => Sys2Proof.Machine.execKick q s
  | .restart q => Sys2Proof.Machine.execRestart q s
  | .skip q => Sys2Proof.Machine.execSkip q s
  | .wake part v => Sys2Proof.Machine.execWake part v s
  | .vcpPacketRead q => Sys2Proof.Machine.execVcpPacketRead q s
  | .phaseReread q => Sys2Proof.Machine.execPhaseReread q s
  | .stalePacket q => Sys2Proof.Machine.execStalePacket q s
  | .launch p => Sys2Proof.Machine.execLaunch p s
  | .bundle p => Sys2Proof.Machine.execBundle p s
  | .lxrun p => Sys2Proof.Machine.execLxrun p s
  | .waitmem p => Sys2Proof.Machine.execWaitmem p s
  | .waitmemReread p => Sys2Proof.Machine.execWaitmemReread p s
  | .waitmemTimeout p => Sys2Proof.Machine.execWaitmemTimeout p s
  | .signal p => Sys2Proof.Machine.execSignal p s
  | .graph p => Sys2Proof.Machine.execGraph p s
  | .graphReplayStart p => Sys2Proof.Machine.execGraphReplayStart p s
  | .patch p => Sys2Proof.Machine.execPatch p s
  | .timestamp p => Sys2Proof.Machine.execTimestamp p s
  | .reserve p => Sys2Proof.Machine.execReserve p s
  | .reserveRelease p => Sys2Proof.Machine.execReserveRelease p s
  | .tunopInstall p => Sys2Proof.Machine.execTunopInstall p s
  | .tunopFree p => Sys2Proof.Machine.execTunopFree p s
  | .saveq p => Sys2Proof.Machine.execSaveq p s
  | .restq p => Sys2Proof.Machine.execRestq p s
  | .packetCompletion p => Sys2Proof.Machine.execPacketCompletion p s
  | .customPacket p => Sys2Proof.Machine.execCustomPacket p s
  | .steepWaitvReread run => Sys2Proof.Machine.execSteepWaitvReread run s
  | .steepWaitvTimeout run => Sys2Proof.Machine.execSteepWaitvTimeout run s
  | .steepreq v => Sys2Proof.Machine.execSteepreq v s
  | .steepLoad => Sys2Proof.Machine.execSteepLoad s
  | .partitionEnable part => Sys2Proof.Machine.execPartitionEnable part s
  | .partitionDestroy part => Sys2Proof.Machine.execPartitionDestroy part s
  | .swapOut part => Sys2Proof.Machine.execSwapOut part s
  | .swapIn part => Sys2Proof.Machine.execSwapIn part s
  | .partitionStart part => Sys2Proof.Machine.execPartitionStart part s
  | .waymaskWrite part mask => Sys2Proof.Machine.execWaymaskWrite part mask s
  | .gctlResume part slot => Sys2Proof.Machine.execGctlResume part slot s
  | .gctlRetire part slot => Sys2Proof.Machine.execGctlRetire part slot s
  | .gctlEngineResume part slot => Sys2Proof.Machine.execGctlEngineResume part slot s
  | .attreq v => Sys2Proof.Machine.execAttreq v s
  | .registerWrite r v => Sys2Proof.Machine.execRegisterWrite r v s
  | .hostWrite h addr bytes => Sys2Proof.Machine.execHostWrite h addr bytes s
  | .hostRead h addr size => Sys2Proof.Machine.execHostRead h addr size s
  | .doorbell h => Sys2Proof.Machine.execDoorbell h s
  | .remoteRequest r => Sys2Proof.Machine.execRemoteRequest r s
  | .remoteAnswer req a => Sys2Proof.Machine.execRemoteAnswer req a s
  | .remtimeout req => Sys2Proof.Machine.execRemtimeout req s
  | .deadlineFlush part entry => Sys2Proof.Machine.execDeadlineFlush part entry s
  | .gangNotice name => Sys2Proof.Machine.execGangNotice name s
  | .unreliablePacket port => Sys2Proof.Machine.execUnreliablePacket port s
  | .errorRetry e lasting => Sys2Proof.Machine.execErrorRetry e lasting s
  | .powerUp rail => Sys2Proof.Machine.execPowerUp rail s
  | .resetRelease => Sys2Proof.Machine.execResetRelease s
  | .provisioningImage img fromPort => Sys2Proof.Machine.execProvisioningImage img fromPort s
  | .i3cRead what => Sys2Proof.Machine.execI3cRead what s
  | .i3cCcc code => Sys2Proof.Machine.execI3cCcc code s
  | .powerLoss partWritten => Sys2Proof.Machine.execPowerLoss partWritten s
  | .secondStageTableWrite addr v => Sys2Proof.Machine.execSecondStageTableWrite addr v s

end Sys2Proof.Machine
end

