-- ==== Sys2Proof/Machine/Schedule.lean ====
section
/-! DEFINITION. What a step does (R363, R364): the item of the schedule that is next; with an empty schedule, the next instruction of this cycle;
when there is none, a new cycle: every row that is due, then an instruction of each quadrant, engine and steep run that has one. -/

namespace Sys2Proof.Machine

/-- The state a row leaves. -/
def ran (o : Host.Outcome State Fault Refusal) (s : State) : State := match o with | .next t => t | _ => s

/-! ### Packets -/

/-- The rows of a packet, by its type. Each looks for itself whether it is due. -/
def packetRow (p : PacketRef) (s : State) : State :=
  match s.packet? p with
  | none => s
  | some k =>
    match k.type with
    | 1 => ran (execLaunch p s) s
    | 2 => ran (execBundle p s) s
    | 3 => ran (execLxrun p s) s
    | 4 => if k.state == .waiting then ran (execWaitmem p s) s
           else (fun s => ran (execWaitmemTimeout p s) s) (ran (execWaitmemReread p s) s)
    | 5 => ran (execSignal p s) s
    | 6 => (fun s => ran (execGraphReplayStart p s) s) (ran (execGraph p s) s)
    | 7 => ran (execPatch p s) s
    | 8 => ran (execTimestamp p s) s
    | 9 => if pq k.words 4 = 0 then ran (execReserve p s) s else ran (execReserveRelease p s) s
    | 10 => if pq k.words 1 = 0 then ran (execTunopInstall p s) s else ran (execTunopFree p s) s
    | 11 => ran (execSaveq p s) s
    | 12 => ran (execRestq p s) s
    | _ => ran (execCustomPacket p s) s

/-! ### One cycle: every row that is due -/

/-- Results land, complete operations are counted, timers fall due, parked splits are looked at, ready ones age. -/
def tickGroup (s : State) (uid : Nat) : State :=
  let s := s.modGroup uid (fun g => if g.gstate == .resident then (upTo 8).foldl countOldest (landGroup g) else g)
  let s := ran (execTimerDue uid s) s
  match s.group? uid with
  | none => s
  | some g =>
    (g.splits.map (·.slot)).foldl (fun s k =>
      let r : SplitRef := ⟨uid, k⟩
      let s := ran (execSplitWake r s) s
      let s := ran (execSleepWake r s) s
      let s := ran (execWaitphReread r s) s
      let s := ran (execRawaitClaim r s) s
      ran (execPriorityAging r s) s) s
def tickGroups (s : State) : State := (s.groups.map (·.uid)).foldl tickGroup s
def tickTeams (s : State) : State := (s.teams.map (·.uid)).foldl (fun s t => ran (execRackEffect t s) s) s
def tickTun (s : State) (n : Nat) : State :=
  let s := ran (execInstallCompletion n s) s
  match s.tun? n with
  | none => s
  | some t => (t.slots.map (·.slot)).foldl (fun s k => (fun s => ran (execFillTimeout n k s) s) (ran (execTunFire n k s) s)) s
def tickTuns (s : State) : State :=
  let s := (s.tuns.map (·.num)).foldl tickTun s
  (s.draws.map (·.op)).foldl drawTry s
def tickEngine (s : State) (r : EngRef) : State :=
  let s := ran (execLauterProgramStart r s) s
  let s := ran (execWaitbReread r s) s
  let s := ran (execFaultResume r s) s
  let s := ran (execFaultAbort r s) s
  let s := ran (execFaultAbortAndPoison r s) s
  endingAgain s r
def engineRefs (s : State) : List EngRef := s.engines.map (fun e => ⟨e.core, e.eng⟩)
def tickEngines (s : State) : State := (engineRefs s).foldl tickEngine s
def queueRefs (s : State) : List QueueRef := (upTo 16).flatMap (fun p => (s.part p).vcp.map (fun v => ⟨p, v.queue⟩))
def tickQueue (s : State) (q : QueueRef) : State :=
  let s := ran (execStalePacket q s) s
  let s := ran (execPhaseReread q s) s
  ran (execVcpPacketRead q s) s
/-- The command processors: queues, packets, steeps. -/
def tickVcps (s : State) : State :=
  let s := (queueRefs s).foldl tickQueue s
  let s := (s.packets.map (·.ref)).foldl (fun s p => packetRow p s) s
  let s := (s.packets.map (·.ref)).foldl (fun s p => ran (execPacketCompletion p s) s) s
  let s := (s.runs.map (·.id)).foldl (fun s r => (fun s => ran (execSteepWaitvTimeout r s) s) (ran (execSteepWaitvReread r s) s)) s
  ran (execSteepLoad s) s
/-- The scheduler: casks, tasks, teams, grids. -/
def tickGrid (s : State) (uid : Nat) : State :=
  match s.grid? uid with
  | none => s
  | some r =>
    let s := r.casks.foldl (fun s c => ran (execTaskEntryTake uid c s) s) s
    let s := (r.forming.map (·.entry) ++ r.formingTeams.map (·.entry)).foldl (fun s e => ran (execFillDelayExpiry uid e s) s) s
    let s := ran (execTeamPlacement uid s) s
    let s := ran (execResampEffect uid s) s
    ran (execGridRetirement uid s) s
def tickGrids (s : State) : State :=
  let s := (s.casks.map (·.num)).foldl (fun s c => ran (execCellarMove c s) s) s
  (s.grids.map (·.uid)).foldl tickGrid s
/-- Swaps that are under way go on (R398, R399). -/
def tickSwaps (s : State) : State :=
  (upTo 16).foldl (fun s p =>
    if (s.part p).pstate = 2 then ran (execSwapOut p s) s else if (s.part p).pstate = 4 then ran (execSwapIn p s) s else s) s
/-- Requests without an answer, deadline entries, and the matrix budgets. -/
def tickRest (s : State) : State :=
  let s := s2Again s.kiln.s2writes s
  let s := reaskAll ((s.remotes.map (·.id)).foldl (fun s r => ran (execRemtimeout r s) s) s)
  let s := (upTo 16).foldl (fun s p => if dltBase s p = 0 then s else (upTo 64).foldl (fun s k => ran (execDeadlineFlush p k s) s) s) s
  let s := if s.clock.toNat % usCycles = 0 then (upTo 24).foldl (fun s c => ran (execBudgetPeriod c s) s) s else s
  ((s.groups.map (·.core)).eraseDups).foldl (fun s c => ran (execMatrixWaitLimit c s) s) s
def tick (s : State) : State :=
  if s.boot == .running then tickRest (tickSwaps (tickGrids (tickVcps (tickEngines (tickTuns (tickTeams (tickGroups s))))))) else s

/-! ### Whose turn it is (R364) -/

/-- The quadrant of a group: entry mod 4 of its core. -/
def quadrant (g : Group) : Nat := 4 * g.core + g.entry % 4
/-- A split that is ready: its quadrant, itself, its effective priority, since when it waits, and whether its group has 64 lanes. -/
structure Contender where
  quad : Nat
  split : SplitRef
  pri : Nat
  since : Nat
  wide : Bool
/-- The splits that are ready; a stalled one is not (R363, R365). -/
def readySplits (s : State) : List Contender :=
  (s.groups.filter (canRun s)).flatMap (fun g =>
    (g.splits.filter (fun x => x.status == .ready)).map (fun x =>
      ⟨quadrant g, ⟨g.uid, x.slot⟩, effPri g x, x.readySince.toNat, g.width == 64⟩))
/-- Higher priority first, then the longest wait. -/
def Contender.sooner (a b : Contender) : Bool := b.pri < a.pri || (a.pri == b.pri && a.since < b.since)
/-- The split of a quadrant that issues next. -/
def arbiter (l : List Contender) (q : Nat) : Option Contender :=
  (l.filter (fun x => x.quad == q)).foldl (fun o x =>
    match o with | none => some x | some y => if x.sooner y then some x else some y) none
/-- One split of each quadrant that no 64-lane group still takes. -/
def issuing (s : State) : List Contender :=
  let l := readySplits s
  (((l.map (·.quad)).eraseDups).filter (fun q => !s.slow.contains q)).filterMap (arbiter l)
/-- The engines and steep runs that have an instruction to execute. -/
def otherAgents (s : State) : List Action :=
  ((engineRefs s).filter (fun r => match s.prog? r with | some p => p.state == .running && engineRuns s p | none => false)).map .engine ++
  ((s.runs.filter (fun x => x.waitv.isNone && !x.away)).map (fun x => .steep x.id))
/-- A new cycle: what may execute an instruction in it, in order, and the quadrants taken in the next. -/
def beginCycle (s : State) : State :=
  let l := issuing s
  { s with turns := l.map (fun x => .issue x.split) ++ otherAgents s, slow := (l.filter (·.wide)).map (·.quad) }

/-! ### What lanes see late (R72, R82, R306, R316) -/

/-- Instructions that order no access of one agent before one of another: those that touch no memory, a weak LD, a relaxed RED, a RAWAIT or WAITB that
does not release, moves, and a FILL that does not release. -/
def lingers (i : Instr) : Bool :=
  match i with
  | .nop _ | .smov _ _ | .sli _ _ | .sshi _ _ | .sadd _ _ | .ssub _ _ | .smul _ _ | .smulh _ _ | .sand _ _ | .sor _ _ | .sxor _ _ | .sshl _ _
  | .sshr _ _ | .ssra _ _ | .smin _ _ | .smax _ _ | .scmp _ _ | .klop _ _ | .spopc _ _ | .sclz _ _ | .jmp _ _ | .mov _ _ | .movi _ _ | .iadd _ _
  | .isub _ _ | .imul _ _ | .imad _ _ | .land _ _ | .lor _ _ | .lxor _ _ | .shl _ _ | .shr _ _ | .sra _ _ | .icmp _ _ | .sel _ _ | .rdlane _ _
  | .vote _ _ | .fold _ _ | .scan _ _ | .vsrd _ _ | .elect _ _ => true
  | .ld _ f => f.mo == 0
  | .red _ f => (ordRmw f).order == 1
  | .rawait _ f => !(ordOf f).releases
  | .lauterLi _ | .lauterLih _ | .lauterMov _ | .lauterAdd _ | .lauterSub _ | .lauterDstep _ | .lauterDidx _ | .lauterLoop _ | .lauterMovt _
  | .lauterGath _ | .lauterScat _ | .lauterMcst _ => true
  | .lauterFill f | .lauterWaitb f => !(mOrd f).releases
  | _ => false
/-- What a RED or RAWAIT of the lanes writes on the chip: the lane, the first byte and how many. -/
def laneWrites (s : State) (i : Instr) (g : Group) (sp : Split) : List (Nat × Loc × Nat) :=
  let at_ (h : Hdr) (f : LongF) (addr : Nat → DWord) (n : Nat) : List (Nat × Loc × Nat) :=
    (activeLanes g sp h).filterMap (fun l =>
      match placeOffset s (splitCtx g sp) (spaceOf f.c.toNat) (addr l).toNat n with
      | .ok (.loc p) => if spaceOf f.c.toNat == .global then none else some (l, p, n)
      | _ => none)
  match i with
  | .red h f => at_ h f (fun l => laneAddr0 g l f) (memBytes f.ty)
  | .rawait h f => at_ h f (fun l => laneAddr g l f) 32
  | _ => []
/-- A lane sees what it writes itself (R72); an instruction that may order accesses ends every veil. -/
def settleVeils (i : Instr) (s : State) : State :=
  if s.veils.isEmpty then s
  else if !lingers i then { s with veils := [] }
  else
    match s.current? with
    | none => s
    | some (g, sp) =>
      let ws := laneWrites s i g sp
      { s with veils := s.veils.filter (fun x => !(x.group == g.uid && ws.any (fun w => w.1 == x.lane && locMeets w.2.1 w.2.2 x.loc x.bytes.length))) }
/-- A lane sees bytes on the chip as they stand now. -/
def addVeil (s : State) (r : SplitRef) (lane : Nat) (l : Loc) (n : Nat) : State :=
  match s.split? r, l with
  | some (g, _), .scratch _ _ | some (g, _), .die _ _ =>
    { s with veils := { group := g.uid, lane := lane, loc := l, bytes := leBytes n (locRead s l n) } :: s.veils }
  | _, _ => s
/-- Actions besides an issue that leave the veils: those that touch no memory. -/
def Action.keepsVeils (a : Action) : Bool :=
  match a with
  | .issue _ | .engine _ | .prefetch _ _ | .dropTlb _ _ | .veil _ _ _ _ => true
  | _ => false

/-! ### One step -/

/-- A word ahead of a split's PC is fetched early, and stays as it was fetched until FETCHB (R241). -/
def prefetchWord (s : State) (r : SplitRef) (addr : Nat) : State :=
  match s.split? r with
  | none => s
  | some (g, sp) =>
    if !canRun s g || addr % 4 != 0 || addr < sp.pc.toNat || sp.pc.toNat + 4096 ≤ addr then s
    else
      match fetchWord s (splitCtx g sp) sp.prefetch addr with
      | (s, .ok w) => s.modSplit r.group r.slot (fun x => { x with prefetch := (addr, w) :: x.prefetch })
      | (_, .error _) => s
/-- Does one action up to an instruction or row that is still to be executed. -/
def perform (a : Action) (s : State) : State × Option Instr :=
  match a with
  | .issue r => issueSplit s r
  | .engine r => issueEngine s r
  | .steep id => issueSteep s id
  | .event i => ({ s with actor := .nobody }, some i)
  | .packet p => (packetRow p s, none)
  | .evict k core line => (if k == .l1 then flushLine s core line else dropLine s k core line, none)
  | .dropTlb owner vbase => ({ s with tlb := s.tlb.filter (fun e => !(e.owner == owner && e.vbase == vbase)) }, none)
  | .prefetch r addr => (prefetchWord s r addr, none)
  | .drawProper n off => (drawProper s n off, none)
  | .fillWritten n slot e off => (fillWritten s n slot e off, none)
  | .sourceOver dev i => (dropRemoteSource s dev i, none)
  | .remoteWaiter part on => (remoteWaiter s part on, none)
  | .veil r lane l n => (addVeil s r lane l n, none)
/-- The same, ending the veils that it, or the instruction it comes to, does not leave. -/
def performSeen (a : Action) (s : State) : State × Option Instr :=
  match perform a (if s.veils.isEmpty || a.keepsVeils then s else { s with veils := [] }) with
  | (t, some i) => (settleVeils i t, some i)
  | (t, none) => (t, none)
/-- The next item of the schedule, or of the cycle, or a new cycle. CLOCK stands still once the clocks have stopped (R421). -/
def prepare (s : State) : State × Option Instr :=
  match s.agenda with
  | x :: xs => performSeen x.act { s with agenda := xs, clock := if s.boot == .shutdown then s.clock else s.clock + dw x.dt, actor := .nobody }
  | [] =>
    match s.turns with
    | a :: l => performSeen a { s with turns := l, actor := .nobody }
    | [] =>
      let s := beginCycle (tick { s with clock := if s.boot == .shutdown then s.clock else s.clock + 1, actor := .nobody, veils := [] })
      match s.turns with
      | a :: l => performSeen a { s with turns := l }
      | [] => (s, none)

/-! ### Placing an instruction where the next step fetches it -/

/-- The address it is placed at. -/
def placeAt : Nat := 0x10000
/-- Core 0's instruction translation of the page at that address, for partition 0 and address space 0. -/
def placeTlb : TlbEntry :=
  { owner := 192, part := 0, asid := 0, ptroot := 0, vbase := placeAt, size := 65536, pbase := placeAt, r := true, w := true, x := true, u := true,
    cp := 0, bgeo := 0, efmt := 0, ptype := 0, tunid := 0, leaf1 := 0, leaf2 := 0, src := [], dirty := true }
/-- The device runs, and so does partition 0. -/
def placeDevice (s : State) : State :=
  { s with boot := .running, parts := s.parts.set 0 (((s.part 0).setReg 0x00 3).setReg 0x70 1) }
/-- The bytes of an instruction of at most 12 bytes at the address, no older copy of them in a cache, and the translation. -/
def placeBytes (s : State) (w : Nat) : State :=
  { s with hbm := memWriteNat s.hbm placeAt 12 w
           poison := s.poison.filter (fun u => u != .hbm placeAt)
           caches := s.caches.filter (fun c => c.line != placeAt / 128)
           tlb := placeTlb :: s.tlb }
def scheduleFirst (a : Action) (s : State) : State := { s with agenda := { dt := 0, act := a } :: s.agenda }
/-- A group of 16 lanes with 8 V registers, alone in its team and grid on core 0, about to issue at the address. -/
def placeGroup (s : State) : State :=
  let u := s.uid
  let r : Grid := { uid := u, width := 16, vregs := 8, cores := 1#192, nextTeam := 1 }
  let t : Team := { uid := u, grid := u }
  let g : Group :=
    { uid := u, grid := u, team := u, width := 16, vregs := 8,
      lanes := List.replicate 16 { live := true, v := List.replicate 8 0 },
      splits := [{ pc := BitVec.ofNat 54 placeAt, mask := 0xFFFF#64 }] }
  { s with uid := u + 1, grids := r :: s.grids, teams := t :: s.teams, groups := g :: s.groups }
/-- A Kloam instruction: the group's split issues it next. -/
def placeKloam (s : State) (w : Nat) : State :=
  scheduleFirst (.issue ⟨s.uid, 0⟩) (placeGroup (placeBytes (placeDevice s) w))
/-- A lauter program at the address, running alone on engine 0 of core 0. -/
def placeProgram : Program :=
  newProgram 0 { core := 0, part := 0, asid := 0, ptroot := 0, sup := true, wkey := 0, grid := none, team := none } 0 0 false 0 none
    (BitVec.ofNat 54 placeAt) [] []
def placeLauter (s : State) (w : Nat) : State :=
  let s1 := placeBytes (placeDevice s) w
  scheduleFirst (.engine ⟨0, 0⟩)
    (s1.setEngine { core := 0, eng := 0, accepted := 1, progs := [{ placeProgram with state := .running }], finished := [] })
/-- A run of a steep of this one word. -/
def placeSteep (s : State) (w : Nat) : State :=
  let x : SteepRun :=
    { id := s.uid, ref := ⟨0, 0, 0, 0⟩, steep := { part := 0, slot := 0, code := [wd w], budget := 4096, windows := List.replicate 4 none },
      second := true, q := List.replicate 16 0, pc := 0, count := 0, loops := [], pkt := List.replicate 8 0, emits := [], waitv := none }
  let s1 := placeDevice s
  scheduleFirst (.steep s.uid) { s1 with uid := s1.uid + 1, runs := x :: s1.runs }

end Sys2Proof.Machine
end

