-- ==== Sys2Proof/Machine/Step.lean ====
section
/-! DEFINITION. One step of the Akzan: what is next is prepared, and the instruction or row it comes to is executed. -/

namespace Sys2Proof.Machine

/-- One step. -/
def step (s : State) : Host.Outcome State Fault Refusal :=
  match prepare s with
  | (t, some i) => exec i t
  | (t, none) => .next t

/-- `s` with the instruction whose bits are `w` (an opcode-table row of `nbits` bits) placed so that the next step fetches and runs it: as the
instruction of a split (96 bits, or 32 bits that are no steep word), of a lauter program (64 bits) or of a steep run. It stands for
the load of a program from outside and for its launch (log entry 22). -/
def State.withFetchWord (s : State) (nbits w : Nat) : State :=
  if nbits = 64 then placeLauter s w
  else if nbits != 96 && isSteepWord w then placeSteep s w
  else placeKloam s w

end Sys2Proof.Machine
end

