-- ==== Sys2Proof/Safety.lean ====
section
/-! DEFINITION. The terms claims are stated in: runs of steps, invariants, memory in canonical form, what stays the same, an instruction
whose own effect comes. -/

namespace Sys2Proof.Machine

/-! ### Runs -/

/-- `t` follows from `s` by steps. -/
inductive Reaches : State → State → Prop where
  | refl (s : State) : Reaches s s
  | step (s t u : State) : Reaches s t → Sys2Proof.Machine.step t = .next u → Reaches s u

/-- Every step from a state with `P` that answers a next state leads to a state with `P`. -/
def Invariant (P : State → Prop) : Prop := ∀ s t : State, P s → Sys2Proof.Machine.step s = .next t → P t

/-- A run is safe for `P` when every state it reaches has `P`. -/
def SafeFrom (P : State → Prop) (s : State) : Prop := ∀ t : State, Reaches s t → P t

/-! ### Memory -/

/-- The four memories and every partition's device-register page are in canonical form. -/
def State.memoriesWf (s : State) : Bool :=
  Memory.wf s.hbm && Memory.wf s.scratch && Memory.wf s.dieScratch && Memory.wf s.acc && s.parts.all (fun p => Memory.wf p.dev)

/-- No byte of any memory differs. -/
def SameMemory (s t : State) : Prop := t.hbm = s.hbm ∧ t.scratch = s.scratch ∧ t.dieScratch = s.dieScratch ∧ t.acc = s.acc

/-! ### Instructions of a split -/

/-- Split `sp` of group `g` executes `i` now, and nothing comes before the instruction's own effect or its guard: the instruction is legal
as encoded (R152), running-on lanes need not stop first (R37), and W has no result to wait for (R28). -/
structure Ready (i : Instr) (h : Hdr) (s : State) (g : Group) (sp : Split) : Prop where
  current : s.current? = some (g, sp)
  wellFormed : i.wellFormed = true
  registers : vOk g i = true
  runsOn : sp.runOn.isSome = true → stopPoint i = false ∧ h.w = false
  results : h.w = true → sp.pend = []

/-- Of the whole device only group `g` has changed, into `g'` (and the model's own counters of numbers and of free values). -/
structure OnlyGroup (s t : State) (g g' : Group) : Prop where
  device : t = { s with groups := t.groups, uid := t.uid, free := t.free }
  group : t.group? g.uid = some g'
  others : ∀ u, u ≠ g.uid → t.group? u = s.group? u

/-- Of the splits of `g` only `sp` has changed, into `sp'`. -/
structure OnlySplit (g g' : Group) (sp sp' : Split) : Prop where
  split : g'.split? sp.slot = some sp'
  others : ∀ k, k ≠ sp.slot → g'.split? k = g.split? k

/-- The split stands at `pc`, and nothing else of it has changed but what RETRY remembers (R390); nothing that a FENCE or access waited for is kept. -/
def AtPc (sp sp' : Split) (pc : CodeAddr) : Prop := sp' = { sp with pc := pc, lastTrap := sp'.lastTrap, fenceWait := none }

/-- `i` answers a next state in which, of the whole device, group `g` has become `g'` and of its splits only `sp`, which stands at
`pc`. -/
def Completes (i : Instr) (s : State) (g : Group) (sp : Split) (pc : CodeAddr) (P : Group → Prop) : Prop :=
  ∃ (t : State) (g' : Group) (sp' : Split), Sys2Proof.Machine.exec i s = .next t ∧ OnlyGroup s t g g' ∧ OnlySplit g g' sp sp' ∧
    AtPc sp sp' pc ∧ P g'

/-- An instruction completes: S[`d`] holds `v`, every other S register and the rest of the group are unchanged; S0 discards the write (R155,
R161). -/
def WritesS (i : Instr) (s : State) (g : Group) (sp : Split) (pc : CodeAddr) (d : Nat) (v : DWord) : Prop :=
  Completes i s g sp pc (fun g' => g' = { g with s := g'.s, splits := g'.splits } ∧
    ∀ r, g'.sReg r = if r = d ∧ d ≠ 0 then v else g.sReg r)

/-- An instruction completes: K[`d`] holds `v`, every other K register and the rest of the group are unchanged; K7 discards the write. -/
def WritesK (i : Instr) (s : State) (g : Group) (sp : Split) (pc : CodeAddr) (d : Nat) (v : Bool) : Prop :=
  Completes i s g sp pc (fun g' => g' = { g with k := g'.k, splits := g'.splits } ∧
    ∀ r, g'.kReg r = if r = d ∧ d < 7 then v else g.kReg r)

/-- A lane-class instruction of fixed latency completes: each active lane (R146) has become `F l`, every other lane and the rest of the group
are unchanged. -/
def LanesBecome (i : Instr) (h : Hdr) (s : State) (g : Group) (sp : Split) (F : Nat → Lane) : Prop :=
  Completes i s g sp (sp.pc + 12) (fun g' => g' = { g with lanes := g'.lanes, splits := g'.splits } ∧
    ∀ l, g'.lane l = if sp.mask.getLsbD l && (xor ((g.lane l).pReg h.g.toNat) h.gn) then F l else g.lane l)

/-- In each active lane `n` registers from V[`d`] hold the number `v l`, the low word first; nothing else of the lane changes (R102, R187). -/
def WritesV (i : Instr) (h : Hdr) (s : State) (g : Group) (sp : Split) (d n : Nat) (v : Nat → Nat) : Prop :=
  LanesBecome i h s g sp (fun l => (g.lane l).setVNat d n (v l))

/-- In each active lane P[`d`] holds `v l`; nothing else of the lane changes. -/
def WritesP (i : Instr) (h : Hdr) (s : State) (g : Group) (sp : Split) (d : Nat) (v : Nat → Bool) : Prop :=
  LanesBecome i h s g sp (fun l => (g.lane l).setP d (v l))

/-- The same for an instruction that takes `k l` draws of each active lane's LANERND stream (R109, R110). -/
def WritesVDrawing (i : Instr) (h : Hdr) (s : State) (g : Group) (sp : Split) (d n : Nat) (k : Nat → Nat) (v : Nat → Nat) : Prop :=
  LanesBecome i h s g sp (fun l => (fun x : Lane => { x with draw := x.draw + dw (k l) }) ((g.lane l).setVNat d n (v l)))

/-- An instruction of variable latency completes (R27): it is one more outstanding operation of its split, which will write these registers; the split
is past it; of the lanes only draw counters have moved. -/
def LaterWrites (i : Instr) (h : Hdr) (s : State) (g : Group) (sp : Split) (k : Nat → Nat) (ws : List RegWrite) : Prop :=
  ∃ (t : State) (g' : Group) (sp' : Split), Sys2Proof.Machine.exec i s = .next t ∧ OnlyGroup s t g g' ∧ OnlySplit g g' sp sp' ∧
    g' = { g with lanes := g'.lanes, splits := g'.splits } ∧
    (∀ l, g'.lane l = if sp.mask.getLsbD l && (xor ((g.lane l).pReg h.g.toNat) h.gn) then
      { g.lane l with draw := (g.lane l).draw + dw (k l) } else g.lane l) ∧
    sp' = { sp with pc := sp.pc + 12, lastTrap := sp'.lastTrap, fenceWait := none, pend := sp.pend ++ [{ op := s.uid, writes := ws }] }

/-- Each active lane will have the number `v l` in `n` registers from V[`d`], the low word first. -/
def LaterV (i : Instr) (h : Hdr) (s : State) (g : Group) (sp : Split) (d n : Nat) (k : Nat → Nat) (v : Nat → Nat) : Prop :=
  LaterWrites i h s g sp k ((activeLanes g sp h).flatMap (fun l => vWrites l d n (v l)))

/-! ### Memory-class instructions -/

/-- The bytes a location names, read. -/
def bytesAt (s : State) (l : Loc) (n : Nat) : Nat :=
  match l with
  | .hbm a => memReadNat s.hbm a n
  | .scratch t o => memReadNat s.scratch (t * 2 ^ 19 + o) n
  | .die k o => memReadNat s.dieScratch (k * 2 ^ 25 + o) n
  | .page p o => devPageRead s p o n
  | .away _ _ => 0

/-- A translation is of a whole page or block at a multiple of its size, onto as large a piece at a multiple of it (R375, R377). -/
def TlbEntry.aligned (e : TlbEntry) : Prop := (e.size = 2 ^ 16 ∨ e.size = 2 ^ 29) ∧ e.vbase % e.size = 0 ∧ e.pbase % e.size = 0

/-- The core's TLB holds the translation of a global address, the access is aligned and permitted, and it reaches byte `pa` of a normal page of HBM (R49,
R374, R378, R379, R382); for a write, D is set already (R381). `pa` is aligned as the address is, pages and frames being aligned (R375; every step keeps
the entries so, `TlbEntry.aligned`). -/
structure Reaches54 (s : State) (c : Ctx) (need : Need) (addr : DWord) (n pa : Nat) : Prop where
  inSpace : addr.toNat < 2 ^ 54
  aligned : addr.toNat % n = 0
  hit : ∃ e : TlbEntry, tlbFind s c.core c addr.toNat = some e ∧ permSub c e need = none ∧ (need.w = true → e.dirty = true) ∧
    pa = e.pbase + (addr.toNat - e.vbase) ∧ pa % n = 0 ∧ pa < apertureBase ∧ e.ptype = 0 ∧ e.efmt ≠ 15 ∧ e.efmt ≠ 16

/-- What a weak load of a core finds at a physical address: its own L1 copy of the line, else the home (R57). -/
def coreBytes (s : State) (core pa n : Nat) : Nat :=
  match cacheLine? s .l1 core (pa / 128) with
  | some c => c.bytes (pa % 128) n
  | none => memReadNat s.hbm pa n

/-- The policy of a split's access to a global address: the instruction's, or, where that is 0, the page's; 3 in a partition without ways (R57, R378,
R386). -/
def policyAt (s : State) (g : Group) (sp : Split) (cp : Nat) (addr : DWord) : Nat :=
  if fld ((s.part (fld g.partid 0 4)).reg 0x28) 0 16 = 0 then 3
  else if cp ≠ 0 then cp
  else match tlbFind s g.core (splitCtx g sp) addr.toNat with | some e => e.cp.toNat | none => 0

/-- The L1 of a core holds the line, or has a place for it (R10). -/
def l1Fits (s : State) (core line : Nat) : Prop := (cacheLine? s .l1 core line).isSome = true ∨ (kindLines s .l1 core).length < 1024

/-- The signature table of a location has a place, so that a release there retires no older entry (R84 step 4). -/
def sigRoom (s : State) (l : Loc) : Prop := s.sigs.length < 256 ∨ ∀ x, sigTable s l = some x → (tableEntries s x.1).length < x.2

/-- One lane's access is performed at `l`: on chip after its checks, or at the home of a normal page of whose line the core holds no L1 copy; the
unit is not poisoned, a release there retires nothing, and no access on its way to another device has translated through these bytes (R48 to R54, R57,
R84, R383). -/
def ActsAt (s : State) (c : Ctx) (sp : Space) (need : Need) (addr : DWord) (n : Nat) (l : Loc) : Prop :=
  poisoned s l = false ∧ sigRoom s l ∧ (∀ pa, l = .hbm pa → remapBusy s [(pa, n)] = false) ∧ ((sp ≠ .global ∧ placeOffset s c sp addr.toNat n = .ok (.loc l)) ∨
    ∃ pa, sp = .global ∧ l = .hbm pa ∧ Reaches54 s c need addr n pa ∧ cacheLine? s .l1 c.core (pa / 128) = none)

/-- Bytes outside `n` bytes from `a` read as before. -/
def BytesKept (m m' : Memory) (a n : Nat) : Prop := ∀ x, ¬ (a ≤ x ∧ x < a + n) → memRead m' x = memRead m x

/-- `n` bytes at `l` hold the number `v`, and no other byte of any memory has changed. -/
def StoresAt (s t : State) (l : Loc) (n v : Nat) : Prop :=
  bytesAt t l n = v % 2 ^ (8 * n) ∧
  match l with
  | .hbm a => BytesKept s.hbm t.hbm a n ∧ t.scratch = s.scratch ∧ t.dieScratch = s.dieScratch ∧ t.acc = s.acc
  | .scratch m o => BytesKept s.scratch t.scratch (m * 2 ^ 19 + o) n ∧ t.hbm = s.hbm ∧ t.dieScratch = s.dieScratch ∧ t.acc = s.acc
  | .die k o => BytesKept s.dieScratch t.dieScratch (k * 2 ^ 25 + o) n ∧ t.hbm = s.hbm ∧ t.scratch = s.scratch ∧ t.acc = s.acc
  | .page _ _ | .away _ _ => SameMemory s t

/-- Every group but the one of this number is as it was. -/
def OtherGroupsKept (s t : State) (uid : Nat) : Prop := ∀ u, u ≠ uid → t.group? u = s.group? u

/-- A memory-class instruction ends here: the split is past it, one more operation is counted on `path`, and, for one that writes registers, `ws` is
outstanding; nothing else of the group has changed but what its strong accesses have read. -/
def MemoryEnds (t : State) (g g' : Group) (sp : Split) (len path op : Nat) (ws : Option (List RegWrite)) : Prop :=
  ∃ sp' : Split, t.group? g.uid = some g' ∧ OnlySplit g g' sp sp' ∧
    g' = { g with splits := g'.splits, flights := g.flights ++ [{ path := path, op := op, done := true }] } ∧
    sp' = { sp with pc := sp.pc + BitVec.ofNat 54 len, lastTrap := sp'.lastTrap, fenceWait := none, acqSig := sp'.acqSig,
                    pend := sp.pend ++ (match ws with | some w => [{ op := op, writes := w }] | none => []) }

/-! ### Lauter programs and steeps -/

/-- Engine `r` executes `i` of its program `p` now, and `i` is legal as encoded (R269). -/
structure Runs (i : Instr) (s : State) (r : EngRef) (p : Program) : Prop where
  current : s.currentProg? = some (r, p)
  wellFormed : i.wellFormed = true

/-- The program after its instruction, where no loop of it ends. -/
def Program.after (p : Program) : Program := { p with pc := p.pc + 8, state := .running, deliv := 0, got := [], inMove := false }

/-- No loop of the program ends after its current instruction. -/
def Program.straight (p : Program) : Prop := ∀ e ∈ p.loops, e.stop ≠ p.pc + 8

/-- Run `x` of a queue program executes `i` now: the word is legal (R353) and within the budget (R356). -/
structure Steeps (i : Instr) (s : State) (x : SteepRun) : Prop where
  current : s.currentRun? = some x
  wellFormed : i.wellFormed = true
  budget : x.count < x.steep.budget

/-- The run when control has come to word `pc`, the instruction counted, and no loop ends there. -/
def SteepRun.after (x : SteepRun) (pc : Nat) : SteepRun := { x with pc := pc, count := x.count + 1, waitv := none, got := none, away := false }

/-- No loop of the run ends before word `pc`. -/
def SteepRun.straight (x : SteepRun) (pc : Nat) : Prop := ∀ e ∈ x.loops, e.stop ≠ pc

/-- Of all runs only `x` has changed, into `y`. -/
def OnlyRun (s t : State) (x y : SteepRun) : Prop := t.run? x.id = some y ∧ ∀ k, k ≠ x.id → t.run? k = s.run? k

/-- `i` answers a next state in which, of the whole device, run `x` has become `y`. -/
def RunBecomes (i : Instr) (s : State) (x y : SteepRun) : Prop :=
  ∃ t, Sys2Proof.Machine.exec i s = .next t ∧ OnlyRun s t x y ∧ t = { s with runs := t.runs }

/-- The run goes on with Q[`d`] holding `v`; Q0 discards the write; no other register of it has changed (R352). -/
def WritesQ (i : Instr) (s : State) (x : SteepRun) (d : BitVec 4) (v : DWord) : Prop :=
  ∃ y, RunBecomes i s x y ∧ y = { x.after (x.pc + 1) with q := y.q } ∧ ∀ r, y.reg r = if r = d ∧ d ≠ 0 then v else x.reg r

/-- A window reference (R350, R354): window imm16<15:14>, displacement Q[a] + 8 × imm16<13:0>; the access lies in the window, is aligned, and reaches
byte `pa` of a normal page in the partition's launch context, whose unit is not poisoned; the VCP holds no L1 line, a release retires nothing, and
no answer is awaited. -/
structure WindowAt (s : State) (x : SteepRun) (f : SteepF) (need : Need) (n : Nat) (a : DWord) (pa : Nat) : Prop where
  window : ∃ w, x.steep.windows[f.imm.toNat / 2 ^ 14]? = some (some w) ∧ (need.w = true → w.wr = true) ∧
    let d := x.reg f.a + BitVec.ofNat 64 (8 * (f.imm.toNat % 2 ^ 14))
    d.toNat % n = 0 ∧ d.toNat + n ≤ w.size ∧ a = w.base + d
  reaches : ∀ k, k < n / 8 → Reaches54 s (launchCtx s x.ref.part (vcpCore x.ref.part)) need (a + BitVec.ofNat 64 (8 * k)) 8 (pa + 8 * k)
  clean : poisonedRange s pa n = false
  uncached : ∀ line, cacheLine? s .l1 (vcpCore x.ref.part) line = none
  room : sigRoom s (.hbm pa)
  fresh : x.got = none ∧ x.away = false

end Sys2Proof.Machine
end

