-- ==== Sys2Proof/Certificates/Slice0/Obligations.lean ====
section
/-! DEFINITION. The statements. -/

open Sys2Proof Sys2Proof.Machine

/-! ### Registers of the splits -/

/-- R155: each register file keeps what is written, register by register; S0 reads zero, K7 and P7 read true, and writes to them are
discarded. -/
def Obligations.RegisterFilesKeepTheirValues : Prop :=
  (∀ (g : Group) (n r : Nat) (v : DWord), (g.setS n v).sReg r = if r = n ∧ n ≠ 0 then v else g.sReg r) ∧
  (∀ g : Group, g.sReg 0 = 0) ∧
  (∀ (g : Group) (n r : Nat) (v : Bool), (g.setK n v).kReg r = if r = n ∧ n < 7 then v else g.kReg r) ∧
  (∀ g : Group, g.kReg 7 = true) ∧
  (∀ (x : Lane) (n r : Nat) (v : Bool), (x.setP n v).pReg r = if r = n ∧ n < 7 then v else x.pReg r) ∧
  (∀ x : Lane, x.pReg 7 = true) ∧
  (∀ (x : Lane) (n k v r : Nat), (x.setVNat n k v).vReg r = if n ≤ r ∧ r < n + k then wd (v / 2 ^ (32 * (r - n))) else x.vReg r) ∧
  (∀ (x : Lane) (n k v : Nat), (x.setVNat n k v).vNat n k = v % 2 ^ (32 * k)) ∧
  (∀ (x : Lane) (n k v : Nat), x.setVNat n k v = { x with v := (x.setVNat n k v).v })

/-- R165 to R169, R183: SMOV and the two-source operations with the value of R165's table, where the second source is S[B] or the immediate B; SLI,
SSHI, SPOPC, SCLZ and NOP; SCMP and KLOP, which write the K register of their D field; KLOP with I = 1 is an illegal form. -/
def Obligations.UniformInstructionsWriteTheirResults : Prop :=
  (
    ∀ (h : Hdr) (f : SRF) (s : State) (g : Group) (sp : Split) (i : Instr) (v : DWord),
      let a := g.sReg f.a.toNat
      let b := if f.i then f.b.zeroExtend 64 else g.sReg f.b.toNat
      (i, v) ∈ [(Instr.smov h f, b), (.sadd h f, a + b), (.ssub h f, a - b), (.smul h f, a * b),
          (.smulh h f, BitVec.ofNat 64 (a.toNat * b.toNat / 2 ^ 64)), (.sand h f, a &&& b), (.sor h f, a ||| b), (.sxor h f, a ^^^ b),
          (.sshl h f, if b.toNat < 64 then a <<< b.toNat else 0), (.sshr h f, if b.toNat < 64 then a >>> b.toNat else 0),
          (.ssra h f, if b.toNat < 64 then a.sshiftRight b.toNat else if a.getLsbD 63 then BitVec.allOnes 64 else 0),
          (.smin h f, if a.toInt < b.toInt then a else b), (.smax h f, if a.toInt > b.toInt then a else b)] →
      Ready i h s g sp → g.kGuard h = true → WritesS i s g sp (sp.pc + 4) f.d.toNat v) ∧ (
    ∀ (h : Hdr) (s : State) (g : Group) (sp : Split), g.kGuard h = true →
      (∀ f : SIF, Ready (.sli h f) h s g sp → WritesS (.sli h f) s g sp (sp.pc + 4) f.d.toNat (f.imm.signExtend 64)) ∧
      (∀ f : SIF, Ready (.sshi h f) h s g sp →
        WritesS (.sshi h f) s g sp (sp.pc + 4) f.d.toNat ((g.sReg f.d.toNat <<< (13 : Nat)) ||| f.imm.zeroExtend 64)) ∧
      (∀ f : SRF, Ready (.spopc h f) h s g sp →
        WritesS (.spopc h f) s g sp (sp.pc + 4) f.d.toNat (BitVec.ofNat 64 ((List.range 64).countP (fun n => (g.sReg f.a.toNat).getLsbD n)))) ∧
      (∀ f : SRF, Ready (.sclz h f) h s g sp → ∃ n : Nat, n ≤ 64 ∧ (∀ k, k < n → (g.sReg f.a.toNat).getLsbD (63 - k) = false) ∧
        (n < 64 → (g.sReg f.a.toNat).getLsbD (63 - n) = true) ∧ WritesS (.sclz h f) s g sp (sp.pc + 4) f.d.toNat (BitVec.ofNat 64 n)) ∧
      (Ready (.nop h) h s g sp → Completes (.nop h) s g sp (sp.pc + 4) (fun g' => g' = { g with splits := g'.splits }))) ∧ (
    ∀ (h : Hdr) (f : SRF) (s : State) (g : Group) (sp : Split), g.kGuard h = true →
      (∀ v : Bool,
        let a := g.sReg f.a.toNat
        let b := if f.i then f.b.zeroExtend 64 else g.sReg f.b.toNat
        (f.d.toNat / 8, v) ∈ [(0, decide (a = b)), (1, decide (a ≠ b)), (2, decide (a.toInt < b.toInt)), (3, decide (b.toInt ≤ a.toInt)),
          (4, decide (a.toNat < b.toNat)), (5, decide (b.toNat ≤ a.toNat)), (6, decide (a &&& b ≠ 0)), (7, decide (a &&& b = 0))] →
        Ready (.scmp h f) h s g sp → WritesK (.scmp h f) s g sp (sp.pc + 4) (f.d.toNat % 8) v) ∧
      (∀ v : Bool,
        let a := g.kReg (f.a.toNat % 8)
        let b := g.kReg (f.b.toNat % 8)
        (f.b.toNat / 8, v) ∈ [(0, a && b), (1, a || b), (2, xor a b), (3, a && !b), (4, a || !b), (5, !(a && b)), (6, !(a || b)),
          (7, !(xor a b))] →
        Ready (.klop h f) h s g sp → WritesK (.klop h f) s g sp (sp.pc + 4) (f.d.toNat % 8) v) ∧
      (f.i = true → (Instr.klop h f).wellFormed = false))

/-- R156, R322: what SRD reads, by number, for a split of a group whose grid and team exist; a number from 0x80 needs supervisor level. -/
def Obligations.SpecialRegistersRead : Prop :=
  ∀ (h : Hdr) (f : SIF) (s : State) (g : Group) (sp : Split) (r : Grid) (tm : Team) (v : DWord),
    s.grid? g.grid = some r → s.team? g.team = some tm → g.kGuard h = true → Ready (.srd h f) h s g sp →
    (f.imm.toNat < 0x80 ∨ sp.sup = true) →
    (f.imm.toNat, v) ∈ [(0x00, dw g.groupid), (0x01, dw tm.teamid), (0x02, zx r.gridid), (0x03, dw g.width), (0x04, sp.mask),
        (0x05, dw g.splits.length), (0x06, s.clock), (0x07, g.timecmp), (0x08, g.utvec), (0x09, g.utcause), (0x0A, g.utepc),
        (0x0B, g.faultmask), (0x0C, g.faultaddr), (0x0D, g.kernarg), (0x0E, dw r.nt),
        (0x0F, dw tm.groups),
        (0x10, if r.kind = .population then zx r.popsize else 0), (0x11, if r.kind = .population then zx r.popgen else 0),
        (0x12, if r.kind = .population then r.popseed else 0), (0x13, if r.kind = .population then zx r.popcap else 0),
        (0x14, g.scbase), (0x15, g.scshift), (0x16, dw g.core), (0x17, dw (g.core / 2)), (0x18, dw (g.core / 8)), (0x19, dw (g.core / 48)),
        (0x1A, zx s.devid), (0x1B, g.wkey), (0x1C, dw (g.counter 0)), (0x1D, dw (g.counter 1)), (0x1E, dw (g.counter 2)),
        (0x1F, dw (g.counter 3)), (0x20, dw (g.counter 4)), (0x21, dw (g.counter 5)), (0x22, dw (g.counter 6)), (0x23, dw (g.counter 7)),
        (0x24, dw tm.scratch), (0x25, dw ((r.priv + 15) / 16 * 16)), (0x80, g.stvec), (0x81, g.scause), (0x82, g.sepc), (0x83, g.sstatus),
        (0x84, g.ptroot), (0x85, g.asid), (0x86, g.partid), (0x87, g.sscratch), (0x88, g.lxrbase)] →
    WritesS (.srd h f) s g sp (sp.pc + 4) f.d.toNat v

/-- R6, R33, R36, R62, R156, R170, R322: SWR writes the fields of the register it names and nothing else of the group: reserved bits and read-only
fields are ignored, SCSHIFT holds 40 at most, SIH keeps its value. TIMECMP rearms TIMER for every split of the group. -/
def Obligations.SpecialRegistersWrite : Prop :=
  ∀ (h : Hdr) (f : SIF) (s : State) (g : Group) (sp : Split),
    let v := g.sReg f.d.toNat
    g.kGuard h = true → Ready (.swr h f) h s g sp →
    (∀ g2 : Group, ((f.imm.toNat < 0x80 ∧ f.imm.toNat ≠ 0x1B) ∨ sp.sup = true) →
      (f.imm.toNat, g2) ∈ [(0x08, { g with utvec := v &&& 0x003FFFFFFFFFFFFD#64 }), (0x0A, { g with utepc := v &&& 0x003FFFFFFFFFFFFC#64 }),
        (0x14, { g with scbase := v }), (0x15, { g with scshift := if (v &&& 63#64).toNat > 40 then 40 else v &&& 63#64 }),
        (0x1B, { g with wkey := v }), (0x80, { g with stvec := v &&& 0x003FFFFFFFFFFFFC#64 }), (0x82, { g with sepc := v &&& 0x003FFFFFFFFFFFFC#64 }),
        (0x83, { g with sstatus := (v &&& 0x306#64) ||| (g.sstatus &&& 1#64) }), (0x84, { g with ptroot := v }),
        (0x85, { g with asid := v &&& 0xFFFF#64 }), (0x87, { g with sscratch := v }), (0x88, { g with lxrbase := v &&& 0x003FFFFFFFFF0000#64 })] →
      Completes (.swr h f) s g sp (sp.pc + 4) (fun g' => g' = { g2 with splits := g'.splits })) ∧
    (f.imm.toNat = 0x07 → ∃ t g', exec (.swr h f) s = .next t ∧ OnlyGroup s t g g' ∧ g' = { g with timecmp := v, splits := g'.splits } ∧
      (∀ x, g'.split? sp.slot = some x → x = { sp with pc := sp.pc + 4, lastTrap := x.lastTrap, fenceWait := none, timerTaken := false,
                                                       owedUser := sp.owedUser &&& 11#4, owedSup := sp.owedSup &&& 11#4 }) ∧
      (∀ k, k ≠ sp.slot → g'.split? k =
        (g.split? k).map (fun x => { x with timerTaken := false, owedUser := x.owedUser &&& 11#4, owedSup := x.owedSup &&& 11#4 })))

/-- R146, R28, R152, R153: an instruction whose K guard fails, or that no lane of its split executes, takes the split past it and does nothing else. Before
a guard: with W = 1 and a result outstanding the split parks at the instruction; else an encoding with an illegal field, or a V register beyond the
kernel's count, raises ILLOP; else a privileged special register below supervisor level raises PRIV. That the wait comes before these checks is the model's
choice: log entry 27. -/
def Obligations.GuardsWaitsAndIllegalFormsComeFirst : Prop :=
  (
    ∀ (h : Hdr) (s : State) (g : Group) (sp : Split),
      (g.kGuard h = false → ∀ (sr : SRF) (si : SIF) (sb : SBF) (i : Instr),
        i ∈ [Instr.nop h, .smov h sr, .sli h si, .sshi h si, .sadd h sr, .ssub h sr, .smul h sr, .smulh h sr, .sand h sr, .sor h sr, .sxor h sr,
          .sshl h sr, .sshr h sr, .ssra h sr, .smin h sr, .smax h sr, .scmp h sr, .klop h sr, .spopc h sr, .sclz h sr, .jmp h sb, .call h sb,
          .jr h sr, .join h, .exit h, .trap h si, .syscall h si, .eret h, .waitc h sr, .bar h sr, .yield h, .sleep h sr] →
        Ready i h s g sp → Completes i s g sp (sp.pc + 4) (fun g' => g' = { g with splits := g'.splits })) ∧
      ((∀ l, l < 64 → sp.mask.getLsbD l = true → xor ((g.lane l).pReg h.g.toNat) h.gn = false) → ∀ (f : LongF) (i : Instr),
        i ∈ [Instr.mov h f, .iadd h f, .imul h f, .icmp h f, .idiv h f, .fadd h f, .fdiv h f, .fcmp h f, .cvt h f, .vote h f, .fold h f, .elect h f,
          .brd h f, .lexit h f, .ld h f, .st h f, .atom h f, .red h f, .arrive h f, .waitph h f, .rawait h f] →
        Ready i h s g sp → Completes i s g sp (sp.pc + 12) (fun g' => g' = { g with splits := g'.splits }))) ∧ (
    ∀ (h : Hdr) (s : State) (g : Group) (sp : Split), s.current? = some (g, sp) → sp.runOn = none →
      (∀ (sr : SRF) (f : LongF) (i : Instr), i ∈ [Instr.sadd h sr, .jr h sr, .iadd h f, .fadd h f, .ld h f, .st h f, .vote h f] →
        (h.w = true → sp.pend ≠ [] → exec i s = .next (s.setGroup (g.setSplit { sp with status := .parked .results }))) ∧
        ((h.w = true → sp.pend = []) → (i.wellFormed = false ∨ vOk g i = false) →
          exec i s = .next (deliver s g sp { code := 0x01 } sp.pc sp.mask (encode i)))) ∧
      (∀ f : SIF, (h.w = true → sp.pend = []) → g.kGuard h = true → sp.sup = false → 0x80 ≤ f.imm.toNat → f.imm.toNat ≤ 0x88 →
        (Instr.srd h f).wellFormed = true →
        exec (.srd h f) s = .next (deliver s g sp { code := 0x02 } sp.pc sp.mask (encode (.srd h f)))))

/-! ### Control flow -/

/-- R175: JMP, CALL and JR. CALL and JR write the address after themselves to the link register; a target of JR that is not a multiple of 4 raises
ALIGN, one with bits 63:54 set raises PAGE, and nothing is written then. That ALIGN comes before PAGE, and that addresses are computed modulo 2^54, is the
model's choice: log entries 52 and 26. -/
def Obligations.BranchesGoToTheirTargets : Prop :=
  ∀ (h : Hdr) (s : State) (g : Group) (sp : Split), g.kGuard h = true →
    (∀ f : SBF, Ready (.jmp h f) h s g sp →
      Completes (.jmp h f) s g sp (sp.pc + 4 + 4 * f.off.signExtend 54) (fun g' => g' = { g with splits := g'.splits })) ∧
    (∀ f : SBF, Ready (.call h f) h s g sp →
      WritesS (.call h f) s g sp (sp.pc + 4 + 4 * f.off.signExtend 54) 63 ((sp.pc + 4).zeroExtend 64)) ∧
    (∀ f : SRF, Ready (.jr h f) h s g sp →
      let t := g.sReg f.a.toNat
      (t.toNat % 4 = 0 → t.toNat < 2 ^ 54 →
        WritesS (.jr h f) s g sp (t.extractLsb' 0 54) f.d.toNat ((sp.pc + 4).zeroExtend 64)) ∧
      (sp.runOn = none → t.toNat % 4 ≠ 0 →
        exec (.jr h f) s = .next (deliver s g sp { code := 0x06, addr := t } sp.pc sp.mask (encode (.jr h f)))) ∧
      (sp.runOn = none → t.toNat % 4 = 0 → 2 ^ 54 ≤ t.toNat →
        exec (.jr h f) s = .next (deliver s g sp { code := 0x07, addr := t } sp.pc sp.mask (encode (.jr h f)))))

/-- R23, R176: BRD. Taken by every lane it is a jump; by none it falls through; else, with a split entry free, the lanes that take it become a new
split with the join address as tag, and the old split keeps the others with an OUTER entry; with four splits the others are deferred; a full stack
of 256 entries raises SPLITOVF; outstanding results make the split wait first. The split remembers its outer tag. That the new split is in no handler and has
its parent's level is the model's choice: log entry 47. -/
def Obligations.DivergentBranchesDivideTheSplit : Prop :=
  ∀ (h : Hdr) (f : LongF) (s : State) (g : Group) (sp : Split), Ready (.brd h f) h s g sp →
    let target : CodeAddr := sp.pc + f.x.signExtend 54
    let join : CodeAddr := sp.pc + (f.d ++ f.a).signExtend 54 * 4
    let taking : Mask := maskOf (activeLanes g sp h)
    let others : Mask := sp.mask &&& ~~~taking
    (activeLanes g sp h ≠ [] → taking = sp.mask → Completes (.brd h f) s g sp target (fun g' => g' = { g with splits := g'.splits })) ∧
    (activeLanes g sp h = [] → Completes (.brd h f) s g sp (sp.pc + 12) (fun g' => g' = { g with splits := g'.splits })) ∧
    (activeLanes g sp h ≠ [] → taking ≠ sp.mask → sp.pend ≠ [] →
      exec (.brd h f) s = .next (s.setGroup (g.setSplit { sp with status := .parked .results }))) ∧
    (activeLanes g sp h ≠ [] → taking ≠ sp.mask → sp.pend = [] → sp.stack.length < 256 → g.splits.length < 4 →
      ∃ (t : State) (g' : Group) (old new : Split), exec (.brd h f) s = .next t ∧ OnlyGroup s t g g' ∧
        g' = { g with splits := g'.splits, nextAge := g.nextAge + 1 } ∧
        g'.splits = g.splits.map (fun x => if x.slot == sp.slot then old else x) ++ [new] ∧
        old = { sp with pc := sp.pc + 12, mask := others, tag := some join, stack := .outer join sp.tag :: sp.stack, lastTrap := old.lastTrap, fenceWait := none } ∧
        new.pc = target ∧ new.mask = taking ∧ new.tag = some join ∧ new.stack = [] ∧ new.status = .ready ∧ new.sup = sp.sup ∧
        new.age = g.nextAge ∧ new.inUser = false ∧ new.inSup = false) ∧
    (activeLanes g sp h ≠ [] → taking ≠ sp.mask → sp.pend = [] → sp.stack.length < 256 → ¬ g.splits.length < 4 →
      ∃ (t : State) (g' : Group) (sp' : Split), exec (.brd h f) s = .next t ∧ OnlyGroup s t g g' ∧ g' = { g with splits := g'.splits } ∧
        OnlySplit g g' sp sp' ∧
        sp' = { sp with pc := target, mask := taking, stack := .defer join others (sp.pc + 12) :: sp.stack, lastTrap := sp'.lastTrap, fenceWait := none }) ∧
    (activeLanes g sp h ≠ [] → taking ≠ sp.mask → sp.pend = [] → 256 ≤ sp.stack.length → sp.runOn = none →
      exec (.brd h f) s = .next (deliver s g sp { code := 0x13 } sp.pc sp.mask (encode (.brd h f))))

/-- R24: JOIN. A DEFER entry of this address on top: the lanes here wait as ARRIVED, and the deferred lanes run. An ARRIVED entry of this address on
top: its lanes rejoin, and the JOIN goes on. Then, whatever else is on top, with another tag or none the split goes on; a split of this tag waits while another
of the tag has not arrived. When the last of two splits of a tag arrives, the older absorbs the other, pops its OUTER entry and takes its tag, or, with no such
entry on top, takes tag NONE; an absorbed split with a stack of its own raises ILLOP instead. -/
def Obligations.JoinFollowsItsCases : Prop :=
  ∀ (h : Hdr) (s : State) (g : Group) (sp : Split), Ready (.join h) h s g sp → g.kGuard h = true →
    let others : Prop := (∀ m pc st, sp.stack ≠ .defer sp.pc m pc :: st) ∧ ∀ m st, sp.stack ≠ .arrived sp.pc m :: st
    let absent (y : Split) : Prop := y ∈ g.splits ∧ y.slot ≠ sp.slot ∧ y.tag = some sp.pc ∧ (y.status ≠ .parked .join ∨ y.pc ≠ sp.pc)
    (∀ m pc st, sp.stack = .defer sp.pc m pc :: st → ∃ t g' sp', exec (.join h) s = .next t ∧ OnlyGroup s t g g' ∧ OnlySplit g g' sp sp' ∧
      g' = { g with splits := g'.splits } ∧
      sp' = { sp with pc := pc, mask := m, stack := .arrived sp.pc sp.mask :: st, lastTrap := sp'.lastTrap, fenceWait := none }) ∧
    (∀ m st, sp.stack = .arrived sp.pc m :: st → sp.tag ≠ some sp.pc → ∃ t g' sp', exec (.join h) s = .next t ∧ OnlyGroup s t g g' ∧
      OnlySplit g g' sp sp' ∧ g' = { g with splits := g'.splits } ∧
      sp' = { sp with pc := sp.pc + 4, mask := sp.mask ||| m, stack := st, lastTrap := sp'.lastTrap, fenceWait := none }) ∧
    (others → sp.tag ≠ some sp.pc → Completes (.join h) s g sp (sp.pc + 4) (fun g' => g' = { g with splits := g'.splits })) ∧
    (∀ y, absent y → sp.tag = some sp.pc →
      (others → exec (.join h) s = .next (s.setGroup (g.setSplit { sp with status := .parked .join }))) ∧
      (∀ m st, sp.stack = .arrived sp.pc m :: st →
        exec (.join h) s = .next (s.setGroup (g.setSplit { sp with mask := sp.mask ||| m, stack := st, status := .parked .join })))) ∧
    (∀ a b : Split, g.splits = [a, b] → a.slot ≠ b.slot → a.age < b.age → a.tag = some sp.pc → b.tag = some sp.pc → a.pc = sp.pc → b.pc = sp.pc →
      (sp = a ∨ sp = b) → (∀ x, x = a ∨ x = b → x ≠ sp → x.status = .parked .join) → others →
      let goesOn (g' : Group) (a' : Split) : Prop := g' = { g with splits := g'.splits } ∧ a' = { a with
          pc := sp.pc + 4, mask := a'.mask, status := .ready, readySince := s.clock, aging := 0,
          tag := (match a.stack with | .outer j t :: _ => if j = sp.pc then t else none | _ => none),
          stack := (match a.stack with | .outer j t :: st => if j = sp.pc then st else .outer j t :: st | st => st),
          pend := a'.pend, lastTrap := a'.lastTrap, fenceWait := none, relFence := a'.relFence, acqSig := a'.acqSig }
      (b.stack = [] → ∃ t g' a', exec (.join h) s = .next t ∧ OnlyGroup s t g g' ∧ goesOn g' a' ∧ g'.splits = [a'] ∧ a'.mask = a.mask ||| b.mask ∧
        a'.pend = a.pend ++ b.pend) ∧
      (b.stack ≠ [] → ∃ g' a' b', exec (.join h) s = .next (raise (s.setGroup g') g' b' { code := 0x01 } (encode (.join { gn := false, g := 7, w := false }))) ∧
        goesOn g' a' ∧ a'.mask = a.mask ∧ a'.pend = a.pend ∧ b' = { b with status := .ready } ∧ g'.splits = [a', { b with status := .parked .join }]))

/-- R18, R178, R179, R427: EXIT retires the lanes of the split and LEXIT its active lanes; no register of any lane changes. A split with lanes left goes
on after its LEXIT. One with none, by either instruction, and nothing deferred leaves the group, whose other splits go on; lanes that were deferred, held or
waiting run next; an OUTER entry goes to the bottom of the stack of the split of its tag, which merges if it waits at the JOIN; a group left without a live
lane leaves the device. -/
def Obligations.ExitRetiresLanes : Prop :=
  ∀ (h : Hdr) (s : State) (g : Group) (sp : Split), sp.runOn = none → sp.inUser = false → sp.inSup = false →
    let retired (m : Mask) (g' : Group) : Prop := ∀ l, g'.lane l = if m.getLsbD l then { g.lane l with live := false } else g.lane l
    let leaves (m : Mask) : Prop := ∃ l, (g.lane l).live = true ∧ m.getLsbD l = false
    let waits (x : Split) : Prop := x.status = .parked .join ∨ ∃ n, x.status = .parked (.bar n)
    (∀ (i : Instr) (len : BitVec 54),
      ((i, len) = (.exit h, 4) ∧ g.kGuard h = true) ∨ (∃ f, (i, len) = (.lexit h f, 12) ∧ activeLanes g sp h ≠ [] ∧ maskOf (activeLanes g sp h) = sp.mask) →
      Ready i h s g sp →
      (leaves sp.mask → sp.stack = [] → (∀ x ∈ g.splits, x.slot ≠ sp.slot → ¬ waits x) → (∃ x ∈ g.splits, x.slot ≠ sp.slot) →
        ∃ t g', exec i s = .next t ∧ OnlyGroup s t g g' ∧ retired sp.mask g' ∧
          g' = { g with lanes := g'.lanes, splits := g.splits.filter (fun x => x.slot != sp.slot) }) ∧
      (leaves sp.mask → ∀ (e : StackEntry) (m : Mask) (pc j : CodeAddr) (st : List StackEntry),
        sp.stack = e :: st → e ∈ [.defer j m pc, .held pc m, .arrived pc m] → (∀ x ∈ g.splits, x.slot ≠ sp.slot → ¬ waits x) →
        ∃ t g' sp', exec i s = .next t ∧ OnlyGroup s t g g' ∧ retired sp.mask g' ∧ OnlySplit g g' sp sp' ∧
          g' = { g with lanes := g'.lanes, splits := g'.splits } ∧
          sp' = { sp with pc := pc, mask := m, stack := st, status := .ready, lastTrap := sp'.lastTrap, fenceWait := none }) ∧
      (leaves sp.mask → ∀ (j : CodeAddr) (t0 : Option CodeAddr) (b : Split), sp.stack = [.outer j t0] → g.splits = [sp, b] → sp.slot ≠ b.slot → ¬ waits b →
        ∃ t g', exec i s = .next t ∧ OnlyGroup s t g g' ∧ retired sp.mask g' ∧
          g' = { g with lanes := g'.lanes, splits := [if b.tag = some j then { b with stack := b.stack ++ [.outer j t0] } else b] }) ∧
      (leaves sp.mask → ∀ (j : CodeAddr) (t0 : Option CodeAddr) (b : Split), sp.stack = [.outer j t0] → g.splits = [sp, b] → sp.slot ≠ b.slot →
        b.status = .parked .join → b.pc = j → b.tag = some j → b.stack = [] →
        ∃ t g' b', exec i s = .next t ∧ OnlyGroup s t g g' ∧ retired sp.mask g' ∧ g' = { g with lanes := g'.lanes, splits := [b'] } ∧
          b' = { b with pc := j + 4, tag := t0, status := .ready, readySince := s.clock, aging := 0, lastTrap := b'.lastTrap, fenceWait := none }) ∧
      (¬ leaves sp.mask → ∃ t, exec i s = .next t ∧ t.group? g.uid = none)) ∧
    (∀ f : LongF, Ready (.lexit h f) h s g sp → activeLanes g sp h ≠ [] → maskOf (activeLanes g sp h) ≠ sp.mask →
      leaves (maskOf (activeLanes g sp h)) →
      ∃ t g' sp', exec (.lexit h f) s = .next t ∧ OnlyGroup s t g g' ∧ retired (maskOf (activeLanes g sp h)) g' ∧ OnlySplit g g' sp sp' ∧
        g' = { g with lanes := g'.lanes, splits := g'.splits } ∧
        sp' = { sp with pc := sp.pc + 12, mask := sp.mask &&& ~~~maskOf (activeLanes g sp h), lastTrap := sp'.lastTrap, fenceWait := none })

/-! ### Exceptions -/

/-- R181: TRAP raises TRAPI with its code as subcode and SYSCALL raises SYSCALL with its number, for every lane of the split, to return after
itself. -/
def Obligations.TrapInstructionsRaiseTheirCauses : Prop :=
  ∀ (h : Hdr) (f : SIF) (s : State) (g : Group) (sp : Split), sp.runOn = none → g.kGuard h = true →
    (Ready (.trap h f) h s g sp →
      exec (.trap h f) s = .next (deliver s g sp { code := 0x03, sub := BitVec.ofNat 8 f.imm.toNat } (sp.pc + 4) sp.mask (encode (.trap h f)))) ∧
    (Ready (.syscall h f) h s g sp →
      exec (.syscall h f) s = .next (deliver s g sp { code := 0x04, sysCode := f.imm } (sp.pc + 4) sp.mask (encode (.syscall h f))))

/-- R34, R35, R390: entry at the user handler. UTCAUSE, UTEPC, FAULTMASK and FAULTADDR are written, the split runs from HANDLER with its mask reduced to
the faulting lanes, marked as in its handler, at the level it had; the frame in the group's image holds the same values, and no other byte of any memory
changes. -/
def Obligations.UserTrapEntrySavesTheState : Prop :=
  ∀ (s : State) (g : Group) (sp : Split) (c : Cause) (epc : CodeAddr) (lanes : Mask) (insn : List Word),
    s.group? g.uid = some g → g.split? sp.slot = some sp → Memory.wf s.hbm = true →
    c.code.toNat ∈ [0x03, 0x05, 0x06, 0x0A, 0x0B, 0x0C, 0x0D, 0x0E, 0x0F, 0x11, 0x12, 0x14] → c.lxf = false → c.stage2 = false →
    g.utvec.getLsbD 0 = true → sp.inSup = false → sp.inUser = false → sigRoom s (.hbm (slotAddr s g + 0x100)) →
    (∀ x ∈ g.splits, x.slot ≠ sp.slot → x.inUser = false ∧ (x.inSup = true → g.sstatus.getLsbD 2 = false)) →
    let t := deliver s g sp c epc lanes insn
    let a := slotAddr s g + 0x100
    let addr : DWord := if c.code ∈ [0x03, 0x05, 0x14] then 0 else c.addr
    (∃ g' sp', t.group? g.uid = some g' ∧ (∀ u, u ≠ g.uid → t.group? u = s.group? u) ∧ OnlySplit g g' sp sp' ∧
      g' = { g with utcause := dw (c.sub.toNat * 256 + c.code.toNat), utepc := epc.zeroExtend 64 &&& 0x003FFFFFFFFFFFFC#64, faultmask := lanes,
                    faultaddr := addr, uframe := g'.uframe, splits := g'.splits, image := g'.image, tampered := g'.tampered } ∧
      sp' = { sp with pc := g.utvec.extractLsb' 0 54 &&& ~~~3#54, mask := lanes, status := .ready, runOn := none, inUser := true,
                      lastTrap := sp'.lastTrap, fenceWait := none, owedUser := sp'.owedUser, budgetSince := none, budgetGranted := false, farPc := 0 }) ∧
    (∀ b, ¬ (a ≤ b ∧ b < a + 128) → memRead t.hbm b = memRead s.hbm b) ∧ t.scratch = s.scratch ∧ t.dieScratch = s.dieScratch ∧ t.acc = s.acc ∧
    (hasSlot s g = true → memReadNat t.hbm a 8 = epc.toNat ∧ memReadNat t.hbm (a + 8) 1 = c.code.toNat ∧
      memReadNat t.hbm (a + 9) 1 = c.sub.toNat ∧ memReadNat t.hbm (a + 16) 8 = lanes.toNat ∧ memReadNat t.hbm (a + 24) 8 = addr.toNat)

/-- R322, R324, R390: entry at the supervisor handler, of a cause the user handler does not take. SCAUSE, SEPC, FAULTMASK and FAULTADDR are written;
SSTATUS keeps PRI and holds the level and user mark the split had, and SIH; the split runs from STVEC at supervisor level, marked as in its supervisor
handler and no longer as in its user handler; no byte of any memory but the frame's changes. -/
def Obligations.SupervisorTrapEntrySavesTheState : Prop :=
  ∀ (s : State) (g : Group) (sp : Split) (c : Cause) (epc : CodeAddr) (lanes : Mask) (insn : List Word),
    s.group? g.uid = some g → g.split? sp.slot = some sp → Memory.wf s.hbm = true → c.stage2 = false →
    (c.code.toNat ∉ [0x03, 0x05, 0x06, 0x0A, 0x0B, 0x0C, 0x0D, 0x0E, 0x0F, 0x11, 0x12, 0x14] ∨ c.lxf = true ∨ g.utvec.getLsbD 0 = false ∨
      sp.inUser = true) →
    (g.stvec &&& 0x003FFFFFFFFFFFFC#64) ≠ 0 → sp.inSup = false → (∀ x ∈ g.splits, x.slot ≠ sp.slot → x.inSup = false) → pageHeld g sp c = none →
    sigRoom s (.hbm (slotAddr s g + 0x180)) →
    let t := deliver s g sp c epc lanes insn
    let a := slotAddr s g + 0x180
    (∃ g' sp', t.group? g.uid = some g' ∧ (∀ u, u ≠ g.uid → t.group? u = s.group? u) ∧ OnlySplit g g' sp sp' ∧
      g' = { g with scause := dw (c.sub.toNat * 2 ^ 8 + c.code.toNat + c.sysCode.toNat * 2 ^ 16 + (if c.lxf then 2 ^ 31 else 0)),
                    sepc := epc.zeroExtend 64 &&& 0x003FFFFFFFFFFFFC#64, faultmask := lanes,
                    faultaddr := (if c.code ∈ [0x03, 0x05, 0x14] then 0 else c.addr),
                    sstatus := (g.sstatus &&& 0x300#64) ||| ((if sp.inUser then 4#64 else 0) + (if sp.sup then 2#64 else 0) + 1#64),
                    sframe := g'.sframe, lxHand := (if c.lxf then g.lxHand else none), splits := g'.splits, image := g'.image, tampered := g'.tampered } ∧
      sp' = { sp with pc := g.stvec.extractLsb' 0 54 &&& ~~~3#54, mask := lanes, status := .ready, runOn := none, inUser := false, inSup := true,
                      sup := true, lastTrap := sp'.lastTrap, fenceWait := none, owedSup := sp'.owedSup, pages := sp'.pages, budgetSince := none,
                      budgetGranted := false, farPc := 0 }) ∧
    (∀ b, ¬ (a ≤ b ∧ b < a + 128) → memRead t.hbm b = memRead s.hbm b) ∧ t.scratch = s.scratch ∧ t.dieScratch = s.dieScratch ∧ t.acc = s.acc

/-- R324, R325, R384, R391: a cause with no supervisor handler, or of a split that is in its supervisor handler, stops the group for the hypervisor, its
other groups untouched; a cause whose handler another split of the group is in makes the split wait, before its instruction takes effect, with the cause
kept to be raised again; a page fault that another split of the group has in hand makes it wait and retry. -/
def Obligations.EscalationStopsAndOccupiedHandlersWait : Prop :=
  ∀ (s : State) (g : Group) (sp : Split) (c : Cause) (epc : CodeAddr) (lanes : Mask) (insn : List Word),
    s.group? g.uid = some g → g.split? sp.slot = some sp →
    let user : Prop := c.code.toNat ∈ [0x03, 0x05, 0x06, 0x0A, 0x0B, 0x0C, 0x0D, 0x0E, 0x0F, 0x11, 0x12, 0x14]
    let kept (sup : Bool) : Split := { sp with
      mask := lanes, status := .parked (.handler sup), runOn := none,
      waiting := { cause := c, pc := sp.pc, epc := epc, insn := insn, inUser := sp.inUser, inSup := sp.inSup } :: sp.waiting,
      pages := if c.code = 0x07 ∧ 2 * (c.addr.toNat / 65536) ∉ sp.pages then 2 * (c.addr.toNat / 65536) :: sp.pages else sp.pages }
    (user → c.lxf = false → c.stage2 = false → g.utvec.getLsbD 0 = true → sp.inSup = false → sp.inUser = false →
      (∃ x ∈ g.splits, x.slot ≠ sp.slot ∧ (x.inUser = true ∨ (x.inSup = true ∧ g.sstatus.getLsbD 2 = true))) →
      deliver s g sp c epc lanes insn = s.setGroup (g.setSplit (kept false))) ∧
    (¬ user ∨ c.lxf = true ∨ c.stage2 = true ∨ g.utvec.getLsbD 0 = false ∨ sp.inSup = true ∨ sp.inUser = true →
    (∀ p, pageHeld g sp c = some p →
      deliver s g sp c epc lanes insn = s.setGroup (g.setSplit { sp with mask := lanes, status := .parked (.page p), runOn := none })) ∧
    (pageHeld g sp c = none → (g.stvec &&& 0x003FFFFFFFFFFFFC#64) = 0 ∨ sp.inSup = true ∨ c.stage2 = true →
      ∃ g', (deliver s g sp c epc lanes insn).group? g.uid = some g' ∧ g'.gstate = .escalated ∧ g'.escalatedSplit = some sp.slot ∧
        (∀ u, u ≠ g.uid → (deliver s g sp c epc lanes insn).group? u = s.group? u)) ∧
    (pageHeld g sp c = none → c.stage2 = false → (g.stvec &&& 0x003FFFFFFFFFFFFC#64) ≠ 0 → sp.inSup = false →
      (∃ x ∈ g.splits, x.slot ≠ sp.slot ∧ x.inSup = true) →
      deliver s g sp c epc lanes insn = s.setGroup (g.setSplit (kept true))))

/-- R182, R324: ERET. From the user handler the same lanes resume at UTEPC and the mark is cleared; from the supervisor handler they resume at SEPC at
the level and with the user mark that SSTATUS saved, and SIH is cleared; splits that waited for that handler are ready again. Outside a handler it
raises ILLOP. -/
def Obligations.ReturnFromExceptionRestores : Prop :=
  ∀ (h : Hdr) (s : State) (g : Group) (sp : Split), Ready (.eret h) h s g sp → g.kGuard h = true →
    let woken (sup : Bool) (g' : Group) : Prop := ∀ k x, k ≠ sp.slot → g.split? k = some x →
      let waits : Prop := x.status = .parked (.handler sup) ∨
        (sup = true ∧ ∃ p, x.status = .parked (.page p) ∧ ∀ y ∈ g.splits, y.slot ≠ x.slot → y.slot ≠ sp.slot → p ∉ y.pages)
      (waits → g'.split? k = some { x with status := .ready, readySince := s.clock, aging := 0 }) ∧ (¬ waits → g'.split? k = some x)
    (sp.inSup = false → sp.inUser = true → sp.sup = false → sp.status = .ready →
      ∃ t g', exec (.eret h) s = .next t ∧ OnlyGroup s t g g' ∧ g' = { g with splits := g'.splits } ∧ woken false g' ∧
        ∃ x, g'.split? sp.slot = some x ∧ x = { sp with pc := g.utepc.extractLsb' 0 54 &&& ~~~3#54, inUser := false, owedUser := 0, lastTrap := x.lastTrap }) ∧
    (sp.inSup = true → g.lxHand = none → sp.status = .ready →
      ∃ t g', exec (.eret h) s = .next t ∧ OnlyGroup s t g g' ∧ g' = { g with sstatus := g.sstatus &&& 0x306#64, splits := g'.splits } ∧ woken true g' ∧
        ∃ x, g'.split? sp.slot = some x ∧ x = { sp with pc := g.sepc.extractLsb' 0 54 &&& ~~~3#54, inSup := false, owedSup := 0, pages := [],
                                                        sup := g.sstatus.getLsbD 1, inUser := g.sstatus.getLsbD 2, lastTrap := x.lastTrap }) ∧
    (sp.runOn = none → sp.inSup = false → (sp.inUser = false ∨ sp.sup = true) →
      exec (.eret h) s = .next (deliver s g sp { code := 0x01 } sp.pc sp.mask (encode (.eret h))))

/-! ### Arithmetic of the lanes -/

/-- R150, R187: the operands of the ALU class. A is S[A] or V[A], B is the immediate X, S[B] or V[B], C is V[C], each the low bits of the type; the
absolute value comes before the negation; integers are negated modulo their width. -/
def Obligations.OperandsFollowTheirForms : Prop :=
  ∀ (g : Group) (l : Nat) (f : LongF),
    let w := tyBits f.ty
    let sign (v : Nat) (neg abs : Bool) : Nat :=
      if tyFloat f.ty then
        (fun m => if neg then (if m < 2 ^ (w - 1) then m + 2 ^ (w - 1) else m - 2 ^ (w - 1)) else m) (if abs then v % 2 ^ (w - 1) else v)
      else if neg then ((2 ^ w - v % 2 ^ w) % 2 ^ w) else v
    let v (r : BitVec 8) : Nat := (g.lane l).vNat r.toNat (tyRegs f.ty) % 2 ^ w
    0 < w →
    srcA g l f = sign (if f.mo.getLsbD 0 then (g.sReg f.a.toNat).toNat % 2 ^ w else v f.a) (f.sc.getLsbD 0) (f.sc.getLsbD 3) ∧
    (f.mo.getLsbD 2 = false →
      srcB g l f = sign (if f.mo.getLsbD 1 then (g.sReg f.b.toNat).toNat % 2 ^ w else v f.b) (f.sc.getLsbD 1) false) ∧
    (f.mo.getLsbD 2 = true → f.sc.getLsbD 1 = false → f.ty.toNat ≤ 8 →
      srcB g l f = if f.ty.toNat = 8 then (f.x.signExtend 64).toNat else f.x.toNat % 2 ^ w) ∧
    srcC g l f = sign (v f.c) (f.sc.getLsbD 2) false

/-- R106, R115, R187 to R195: the integer instructions. Each active lane's destination holds the exact result, clamped to the type with SAT and else wrapped, or
the bits R190 to R196 give; MOVI writes what its immediate stands for (R150). Operands are those the lanes held before the instruction. That a negated
32-bit count is taken modulo 2^32 is the model's choice: log entry 12. -/
def Obligations.IntegerResultsOfTheLanes : Prop :=
  ∀ (h : Hdr) (f : LongF) (s : State) (g : Group) (sp : Split),
    let w := tyBits f.ty
    let a (l : Nat) : Int := intVal f.ty (srcA g l f)
    let b (l : Nat) : Int := intVal f.ty (srcB g l f)
    let c (l : Nat) : Int := intVal f.ty (srcC g l f)
    let wa (l : Nat) : Nat := if f.mo.getLsbD 0 then (g.sReg f.a.toNat).toNat % 2 ^ 32 else ((g.lane l).vReg f.a.toNat).toNat
    let wb (l : Nat) : Nat := if f.mo.getLsbD 2 then f.x.toNat else if f.mo.getLsbD 1 then (g.sReg f.b.toNat).toNat % 2 ^ 32 else ((g.lane l).vReg f.b.toNat).toNat
    let n (l : Nat) : Nat := if f.sc.getLsbD 1 then (2 ^ 32 - wb l) % 2 ^ 32 else wb l
    let byte (x k : Nat) : Nat := x / 256 ^ k % 256
    let table (l k : Nat) : Nat :=
      if f.mo.getLsbD 1 then byte (g.sReg (f.b.toNat + k / 8)).toNat (k % 8) else byte ((g.lane l).vReg (f.b.toNat + k / 4)).toNat (k % 4)
    let fit (x : Int) : Nat := regImage f.ty (wrapInt w (if f.sat then min (max x (intMin f.ty)) (intMax f.ty) else x))
    let reg (x : Nat) : Nat := regImage f.ty x
    (∀ (i : Instr) (v : Nat → Nat), (i, v) ∈ [(Instr.iadd h f, fun l => fit (a l + b l)), (.isub h f, fun l => fit (a l - b l)),
        (.imul h f, fun l => fit (a l * b l)), (.imulh h f, fun l => fit (a l * b l / (2 : Int) ^ w)), (.imad h f, fun l => fit (a l * b l + c l)),
        (.imin h f, fun l => fit (min (a l) (b l))), (.imax h f, fun l => fit (max (a l) (b l))), (.iabs h f, fun l => fit ((a l).natAbs : Int)),
        (.ineg h f, fun l => fit (-a l)), (.mov h f, fun l => reg (srcA g l f)), (.land h f, fun l => reg (srcA g l f &&& srcB g l f)),
        (.lor h f, fun l => reg (srcA g l f ||| srcB g l f)), (.lxor h f, fun l => reg (srcA g l f ^^^ srcB g l f)),
        (.shl h f, fun l => reg (if n l < w then srcA g l f * 2 ^ n l % 2 ^ w else 0)),
        (.shr h f, fun l => reg (if n l < w then srcA g l f / 2 ^ n l else 0)),
        (.sel h f, fun l => reg (if (g.lane l).pReg f.c.toNat then srcA g l f else srcB g l f)),
        (.brev h f, fun l => reg (reverseBits (srcA g l f) w)),
        (.sra h f, fun l => reg (if n l < w then wrapInt w (signedOf w (srcA g l f) / (2 : Int) ^ n l) else
          if bit (srcA g l f) (w - 1) then 2 ^ w - 1 else 0)),
        (.bfe h f, fun l => reg (fieldExtract f.ty (srcA g l f) (n l))),
        (.bfi h f, fun l => reg (setBits (srcC g l f) (n l % 256) (min (n l / 256 % 256) (w - n l % 256)) (srcA g l f) % 2 ^ w)),
        (.logt h f, fun l => reg (truthBits (f.x.toNat % 256) (srcA g l f) (srcB g l f) (srcC g l f) w))] →
      Ready i h s g sp → WritesV i h s g sp f.d.toNat (tyRegs f.ty) v) ∧
    (∀ (i : Instr) (v : Nat → Nat), (i, v) ∈ [(Instr.popc h f, fun l => popcount w (srcA g l f)), (.clz h f, fun l => w - bitLen (srcA g l f)),
        (.idot4 h f, fun l => fitInt (if tySignedInt f.ty then 6 else 5) f.sat
          (intVal (if tySignedInt f.ty then 6 else 5) ((g.lane l).vReg f.c.toNat).toNat +
            ((List.range 4).map (fun k => intVal f.ty (byte (wa l) k) * intVal f.ty (byte (wb l) k))).sum)),
        (.bsel h f, fun l => byteSelect (wa l) (wb l) f.x.toNat),
        (.ptov h f, fun l => 128 + (g.lane l).p.toNat % 128)] →
      Ready i h s g sp → WritesV i h s g sp f.d.toNat 1 v) ∧
    (Ready (.nlut h f) h s g sp → WritesV (.nlut h f) h s g sp f.d.toNat 2 (fun l =>
      ((List.range 8).map (fun i => 256 ^ i * table l (wa l / 16 ^ i % 16))).sum)) ∧
    (∀ v : Nat, (f.ty.toNat, v) ∈ [(0, f.x.toNat), (1, f.x.toNat % 2 ^ 8), (2, ((f.x.extractLsb' 0 8).signExtend 32).toNat), (3, f.x.toNat % 2 ^ 16),
        (4, ((f.x.extractLsb' 0 16).signExtend 32).toNat), (5, f.x.toNat), (6, f.x.toNat), (7, f.x.toNat), (8, (f.x.signExtend 64).toNat),
        (9, f.x.toNat % 2 ^ 16), (10, f.x.toNat % 2 ^ 16), (11, f.x.toNat), (13, f.x.toNat), (14, f.x.toNat), (17, f.x.toNat), (19, f.x.toNat), (20, f.x.toNat),
        (21, (f.x.signExtend 64).toNat)] →
      Ready (.movi h f) h s g sp → WritesV (.movi h f) h s g sp f.d.toNat (tyRegs f.ty) (fun _ => v)) ∧
    (f.ty = 12 → Ready (.movi h f) h s g sp → ∃ v, WritesV (.movi h f) h s g sp f.d.toNat 2 (fun _ => v) ∧
      ((fdec 11 f.x.toNat).isNan = false → v = froundV 12 0 0 (fdec 11 f.x.toNat)) ∧ ((fdec 11 f.x.toNat).isNan = true → (fdec 12 v).isNan = true))

/-- R191, R194, R195: what the bit-field, bit-count and byte functions of the lanes give, bit by bit and byte by byte. -/
def Obligations.BitFunctionsOfTheLanes : Prop :=
  (∀ (a w k : Nat), k < w → bit (reverseBits a w) k = bit a (w - 1 - k)) ∧
  (∀ (t a b c w k : Nat), k < w → bit (truthBits t a b c w) k = bit t ((if bit a k then 1 else 0) + (if bit b k then 2 else 0) + (if bit c k then 4 else 0))) ∧
  (∀ (c p n x k : Nat), bit (setBits c p n x) k = if p ≤ k ∧ k < p + n then bit x (k - p) else bit c k) ∧
  (∀ (n v : Nat), popcount n v = (List.range n).countP (fun k => bit v k)) ∧
  (∀ (ty : BitVec 5) (a ctl : Nat), ty ∈ [5#5, 7#5] → a < 2 ^ tyBits ty → ∀ k, bit (fieldExtract ty a ctl) k =
    (decide (k < min (ctl / 256 % 256) (tyBits ty)) && bit a (ctl % 256 + k))) ∧
  (∀ (a b sel j : Nat), a < 2 ^ 32 → b < 2 ^ 32 → j < 4 →
    let s := sel / 2 ^ (8 * j) % 256
    let v := (if s % 8 < 4 then a / 2 ^ (8 * (s % 8)) else b / 2 ^ (8 * (s % 8 - 4))) % 256
    byteSelect a b sel / 2 ^ (8 * j) % 256 = if s / 8 % 4 = 0 then v else if s / 8 % 4 = 1 then 0 else if s / 8 % 4 = 2 then
      (if 128 ≤ v then 255 else 0) else 255)

/-- R116, R193: IDIV and IREM. The quotient is truncated toward zero and the remainder has the dividend's sign; a divisor of 0 gives the corner values of
R116 and no trap. The results are outstanding, and land later (R27, R186). -/
def Obligations.DivisionIsTruncated : Prop :=
  ∀ (h : Hdr) (f : LongF) (s : State) (g : Group) (sp : Split), sp.pend.length < 16 → activeLanes g sp h ≠ [] →
    let w := tyBits f.ty
    let x (l : Nat) : Int := intVal f.ty (srcA g l f)
    let y (l : Nat) : Int := intVal f.ty (srcB g l f)
    (Ready (.idiv h f) h s g sp → LaterV (.idiv h f) h s g sp f.d.toNat (tyRegs f.ty) (fun _ => 0) (fun l => regImage f.ty (
      if y l = 0 then (if tySignedInt f.ty ∧ x l < 0 then 1 else 2 ^ w - 1) else wrapInt w (Int.tdiv (x l) (y l))))) ∧
    (Ready (.irem h f) h s g sp → LaterV (.irem h f) h s g sp f.d.toNat (tyRegs f.ty) (fun _ => 0) (fun l => regImage f.ty (
      if y l = 0 then srcA g l f else wrapInt w (Int.tmod (x l) (y l)))))

/-- R180, R192, R197, R200: ICMP, FCMP, PLOP and ELECT write one predicate of each active lane, VTOP those its mask names. Comparisons with a NaN hold
only for `.uno`; zeros of either sign are equal. ELECT writes true for the lowest active lane and false for the others. -/
def Obligations.PredicatesOfTheLanes : Prop :=
  ∀ (h : Hdr) (f : LongF) (s : State) (g : Group) (sp : Split),
    (∀ v : Nat → Bool,
      let a (l : Nat) : Int := intVal f.ty (rawA g l f.ty f)
      let b (l : Nat) : Int := intVal f.ty (rawB g l f.ty f)
      let both (l : Nat) : Nat := rawA g l f.ty f &&& rawB g l f.ty f
      (f.sc.toNat, v) ∈ [(0, fun l => decide (rawA g l f.ty f = rawB g l f.ty f)), (1, fun l => decide (rawA g l f.ty f ≠ rawB g l f.ty f)),
        (2, fun l => decide (a l < b l)), (3, fun l => decide (a l ≤ b l)), (4, fun l => decide (b l < a l)), (5, fun l => decide (b l ≤ a l)),
        (6, fun l => decide (both l ≠ 0)), (7, fun l => decide (both l = 0))] →
      Ready (.icmp h f) h s g sp → WritesP (.icmp h f) h s g sp f.d.toNat v) ∧
    (∀ v : Nat → Bool,
      let a (l : Nat) : FVal := fdec f.ty (rawA g l f.ty f)
      let b (l : Nat) : FVal := fdec f.ty (rawB g l f.ty f)
      let un (l : Nat) : Bool := (a l).isNan || (b l).isNan
      let c (l : Nat) : Int := fcompare (a l) (b l)
      (f.sc.toNat, v) ∈ [(0, fun l => !un l && decide (c l = 0)), (1, fun l => !un l && decide (c l ≠ 0)), (2, fun l => !un l && decide (c l < 0)),
        (3, fun l => !un l && decide (c l ≤ 0)), (4, fun l => !un l && decide (0 < c l)), (5, fun l => !un l && decide (0 ≤ c l)),
        (6, fun l => un l), (7, fun l => !un l)] →
      Ready (.fcmp h f) h s g sp → WritesP (.fcmp h f) h s g sp f.d.toNat v) ∧
    (Ready (.plop h f) h s g sp →
      WritesP (.plop h f) h s g sp f.d.toNat (fun l =>
        bit (f.x.toNat % 256) ((if (g.lane l).pReg f.a.toNat then 1 else 0) + (if (g.lane l).pReg f.b.toNat then 2 else 0) +
          (if (g.lane l).pReg f.c.toNat then 4 else 0)))) ∧
    (Ready (.elect h f) h s g sp →
      WritesP (.elect h f) h s g sp f.d.toNat (fun l => decide (∀ k, k < l → ¬ (sp.mask.getLsbD k = true ∧ xor ((g.lane k).pReg h.g.toNat) h.gn = true)))) ∧
    (Ready (.vtop h f) h s g sp → ∃ F : Nat → Lane, LanesBecome (.vtop h f) h s g sp F ∧ ∀ l n, n < 8 →
      (F l).pReg n = (if n < 7 ∧ f.x.getLsbD n = true then ((g.lane l).vReg f.a.toNat).getLsbD n else (g.lane l).pReg n) ∧
      F l = { g.lane l with p := (F l).p })

/-- R107 to R114, R198 to R206: the floating-point instructions of fixed latency. The exact result is rounded once into the type by the instruction's mode
and then saturated with SAT; under RM 5 each rounded result takes one draw of the lane's stream, in element order. FMIN, FMAX and FCLASS do not
round. -/
def Obligations.FloatResultsOfTheLanes : Prop :=
  ∀ (h : Hdr) (f : LongF) (s : State) (g : Group) (sp : Split),
    let rm := f.rm.toNat
    let ty := f.ty
    let a (l : Nat) : FVal := fdec ty (srcA g l f)
    let b (l : Nat) : FVal := fdec ty (srcB g l f)
    let c (l : Nat) : FVal := fdec ty (srcC g l f)
    let d (l k : Nat) : Nat := drawOf s g (g.lane l) k
    let round (l k : Nat) (v : FVal) : Nat := fresult ty rm (d l k) f.sat v
    let pa (l e : Nat) : FVal := fdec ty (pairA g l ty f e)
    let pb (l e : Nat) : FVal := fdec ty (pairB g l ty f e)
    let pc (l e : Nat) : FVal := fdec ty (pairC g l ty f e)
    let pair (l : Nat) (v : Nat → FVal) : Nat := round l 0 (v 0) + 2 ^ 16 * round l 1 (v 1)
    let draws (n : Nat) (_ : Nat) : Nat := if rm = 5 then n else 0
    (∀ (i : Instr) (v : Nat → Nat), (i, v) ∈ [(Instr.fadd h f, fun l => round l 0 (fsumV rm [a l, b l])),
        (.fsub h f, fun l => round l 0 (fsumV rm [a l, (b l).negate])), (.fmul h f, fun l => round l 0 (fmulV (a l) (b l))),
        (.ffma h f, fun l => round l 0 (fsumV rm [fmulV (a l) (b l), c l])),
        (.fscale h f, fun l => round l 0 ((a l).scale (signedOf 32 (srcB32 g l f)))),
        (.frnd h f, fun l => fresult ty 0 0 f.sat (fintegral rm (d l 0) (a l)))] →
      Ready i h s g sp → WritesVDrawing i h s g sp f.d.toNat (tyRegs ty) (draws 1) v) ∧
    (Ready (.fdot2 h f) h s g sp → WritesVDrawing (.fdot2 h f) h s g sp f.d.toNat 1 (draws 1) (fun l =>
      fresult 11 rm (d l 0) f.sat (fsumV rm [fmulV (pa l 0) (pb l 0), fmulV (pa l 1) (pb l 1), fdec 11 (srcCT 11 g l f)]))) ∧
    (∀ (i : Instr) (v : Nat → Nat), (i, v) ∈ [(Instr.hadd2 h f, fun l => pair l (fun e => fsumV rm [pa l e, pb l e])),
        (.hmul2 h f, fun l => pair l (fun e => fmulV (pa l e) (pb l e))),
        (.hfma2 h f, fun l => pair l (fun e => fsumV rm [fmulV (pa l e) (pb l e), pc l e]))] →
      Ready i h s g sp → WritesVDrawing i h s g sp f.d.toNat 1 (draws 2) v) ∧
    (∀ (i : Instr) (mx : Bool), (i, mx) ∈ [(Instr.fmin h f, false), (.fmax h f, true)] → Ready i h s g sp →
      WritesV i h s g sp f.d.toNat (tyRegs ty) (fun l =>
        (fun r => if f.sat then satF ty r else r) (fminmax ty mx (srcA g l f) (srcB g l f)))) ∧
    (Ready (.fclass h f) h s g sp → WritesV (.fclass h f) h s g sp f.d.toNat 1 (fun l => 2 ^ fclassBit ty (rawA g l ty f)))

/-- R27, R186, R201, R202: division, square root and the transcendentals complete with their results outstanding. Division and square root round the exact
result once; the transcendentals of `.f16` and `.bf16` are formed in `.f32`. What lies inside R202's bound is a free value of the model (log entry 13). -/
def Obligations.SlowFloatResultsOfTheLanes : Prop :=
  ∀ (h : Hdr) (f : LongF) (s : State) (g : Group) (sp : Split), sp.pend.length < 16 → activeLanes g sp h ≠ [] →
    let a (l : Nat) : FVal := fdec f.ty (srcA g l f)
    let b (l : Nat) : FVal := fdec f.ty (srcB g l f)
    let round (l : Nat) (v : FVal) : Nat := fresult f.ty f.rm.toNat (drawOf s g (g.lane l) 0) f.sat v
    let sat (x : Nat) : Nat := if f.sat then satF f.ty x else x
    let draws (n : Nat) (_ : Nat) : Nat := if f.rm.toNat = 5 then n else 0
    (∀ (i : Instr) (k : Nat) (v : Nat → Nat), (i, k, v) ∈ [(Instr.fdiv h f, 1, fun l => round l (fdivV (a l) (b l))),
        (.fsqrt h f, 1, fun l => round l (fsqrtV (a l))), (.frcp h f, 0, fun l => sat (transcend 0 f.ty (srcA g l f))),
        (.frsq h f, 0, fun l => sat (transcend 1 f.ty (srcA g l f))), (.fex2 h f, 0, fun l => sat (transcend 2 f.ty (srcA g l f))),
        (.flg2 h f, 0, fun l => sat (transcend 3 f.ty (srcA g l f))), (.fsin h f, 0, fun l => sat (transcend 4 f.ty (srcA g l f))),
        (.fcos h f, 0, fun l => sat (transcend 5 f.ty (srcA g l f))), (.ftanh h f, 0, fun l => sat (transcend 6 f.ty (srcA g l f)))] →
      Ready i h s g sp → LaterV i h s g sp f.d.toNat (tyRegs f.ty) (draws k) v)

/-- R105, R107, R111: rounding leaves alone what the format holds: decoding an encoding that is no NaN and rounding the value again, by any mode and any
draw, gives the same encoding. -/
def Obligations.RoundingKeepsRepresentableValues : Prop :=
  ∀ (ty : BitVec 5) (rm draw x : Nat), ty ∈ [9#5, 10#5, 11#5, 12#5, 13#5, 14#5, 15#5, 16#5, 17#5] → rm ≤ 5 → draw < 2 ^ 32 → x < 2 ^ tyBits ty →
    (fdec ty x).isNan = false → froundV ty rm draw (fdec ty x) = x

/-- R207 to R211: conversions and quantisation. CVT converts one value, CVPK two into the slots its J field names, CVUP two out of them; QSCL gives every
active lane of a block the block's shared scale; QCVT quantises under the scale of operand B, the scale 0xFF giving NaN or zero. That a conversion between
integers takes no draw under RM 5 is the model's choice: log entry 33. -/
def Obligations.ConversionsOfTheLanes : Prop :=
  ∀ (h : Hdr) (f : LongF) (s : State) (g : Group) (sp : Split),
    let src := srcTy f
    let d (l k : Nat) : Nat := drawOf s g (g.lane l) k
    let conv (l k x : Nat) : Nat := convert src f.ty f.rm.toNat (d l k) f.sat x
    let draws (n : Nat) (_ : Nat) : Nat := if f.rm.toNat = 5 ∧ (tyFloat f.ty = true ∨ tyFloat src = true) then n else 0
    let old (l : Nat) : Nat := ((g.lane l).vReg f.d.toNat).toNat
    let up (l e : Nat) : Nat := conv l e (modify src (f.sc.getLsbD 0) (f.sc.getLsbD 3) (elemOf src (wordA g l f) (2 * slotJ f + e)))
    (Ready (.cvt h f) h s g sp → WritesVDrawing (.cvt h f) h s g sp f.d.toNat (tyRegs f.ty) (draws 1) (fun l =>
      regImage f.ty (conv l 0 (srcAT src g l f)))) ∧
    (Ready (.cvpk h f) h s g sp → WritesVDrawing (.cvpk h f) h s g sp f.d.toNat 1 (draws 2) (fun l =>
      putElem f.ty (putElem f.ty (old l) (2 * slotJ f) (conv l 0 (cvtA g l f))) (2 * slotJ f + 1) (conv l 1 (cvtB g l f)))) ∧
    (Ready (.cvup h f) h s g sp → WritesVDrawing (.cvup h f) h s g sp f.d.toNat (if tyBits f.ty = 16 then 1 else 2) (draws 2) (fun l =>
      up l 0 + 2 ^ tyBits f.ty * up l 1)) ∧
    (Ready (.qscl h f) h s g sp → WritesV (.qscl h f) h s g sp f.d.toNat 1 (fun l =>
      let block := if src.toNat = 11 then 32 else 16
      chooseScale f.ty (f.x.getLsbD 5) (((activeLanes g sp h).filter (fun k => k / block == l / block)).flatMap (fun k => qsclElems g k f)))) ∧
    (Ready (.qcvt h f) h s g sp →
      WritesVDrawing (.qcvt h f) h s g sp f.d.toNat 1 (fun _ => if f.rm.toNat = 5 then (if src.toNat = 11 then 1 else 2) else 0) (fun l =>
      let q (e : Nat) : Nat := if qcvtScale g l f = 0xFF then canonNan f.ty
        else froundV f.ty f.rm.toNat (d l e) ((qcvtElem g l f e).scale (127 - (qcvtScale g l f : Int)))
      if src.toNat = 11 then putElem f.ty (old l) (slotJ f) (q 0)
      else putElem f.ty (putElem f.ty (old l) (2 * slotJ f) (q 0)) (2 * slotJ f + 1) (q 1)))

/-! ### Values between lanes -/

/-- R121, R122, R157, R212 to R218: the cross-lane instructions. Sources are active lanes, as they were at issue; a lane that is not active gives VXCH the receiver's
own value and RDLANE zero. FOLD and SCAN combine the active lanes' values over a fixed tree of lane positions: pairs of neighbouring positions, level by level.
VSRD reads a lane's special register by number. -/
def Obligations.CrossLaneResults : Prop :=
  ∀ (h : Hdr) (f : LongF) (s : State) (g : Group) (sp : Split), activeLanes g sp h ≠ [] →
    let ls := activeLanes g sp h
    let val (l : Nat) : Nat := (g.lane l).vNat f.a.toNat (tyRegs f.ty)
    let n : Nat := if f.mo.getLsbD 2 then f.x.toNat else (g.sReg f.b.toNat).toNat % 2 ^ tyBits f.ty
    let yes := ls.filter (fun l => (g.lane l).pReg f.a.toNat)
    let same (l : Nat) : List Nat := ls.filter (fun k => val k == val l)
    (sp.pend.length < 16 → vxchSeg g f ≤ g.width → Ready (.vxch h f) h s g sp →
      LaterV (.vxch h f) h s g sp f.d.toNat (tyRegs f.ty) (fun _ => 0) (fun l =>
        match vxchSource g f l with
        | some k => if k ∈ ls then val k else val l
        | none => val l)) ∧
    (sp.pend.length < 16 → Ready (.rdlane h f) h s g sp →
      LaterWrites (.rdlane h f) h s g sp (fun _ => 0) [.s f.d.toNat (if n ∈ ls then dw (val n) else 0)]) ∧
    (Ready (.wrlane h f) h s g sp → LanesBecome (.wrlane h f) h s g sp (fun l =>
      if l = n then (g.lane l).setVNat f.d.toNat (tyRegs f.ty) ((g.sReg f.a.toNat).toNat % 2 ^ tyBits f.ty) else g.lane l)) ∧
    (Ready (.vote h f) h s g sp →
      (f.sc.toNat = 0 → WritesK (.vote h f) s g sp (sp.pc + 12) f.d.toNat (!yes.isEmpty)) ∧
      (f.sc.toNat = 1 → WritesK (.vote h f) s g sp (sp.pc + 12) f.d.toNat (ls.all (fun l => (g.lane l).pReg f.a.toNat))) ∧
      (f.sc.toNat = 2 → WritesS (.vote h f) s g sp (sp.pc + 12) f.d.toNat (maskOf yes)) ∧
      (f.sc.toNat = 3 → WritesS (.vote h f) s g sp (sp.pc + 12) f.d.toNat (dw yes.length)) ∧
      (f.sc.toNat = 4 → WritesS (.vote h f) s g sp (sp.pc + 12) f.d.toNat (dw (yes.head?.getD g.width)))) ∧
    (sp.pend.length < 16 → Ready (.samev h f) h s g sp →
      LaterV (.samev h f) h s g sp f.d.toNat (if f.x.getLsbD 0 then 1 else 2) (fun _ => 0) (fun l =>
        if f.x.getLsbD 0 then (same l).headD l else (maskOf (same l)).toNat)) ∧
    (sp.pend.length < 16 → Ready (.fold h f) h s g sp →
      let low := ls.headD 0
      let r := foldOver g f ls (drawOf s g (g.lane low))
      LaterV (.fold h f) h s g sp f.d.toNat (tyRegs f.ty) (fun l => if l = low then r.1 else 0) (fun _ => r.2.getD 0)) ∧
    (sp.pend.length < 16 → Ready (.scan h f) h s g sp →
      let scanned (l : Nat) := foldOver g f (ls.filter (fun k => if f.x.getLsbD 3 then k < l else k ≤ l)) (drawOf s g (g.lane l))
      LaterV (.scan h f) h s g sp f.d.toNat (tyRegs f.ty) (fun l => (scanned l).1) (fun l => (scanned l).2.getD (foldIdentity f))) ∧
    (∀ v : Nat → Word, (f.x.toNat, v) ∈ [(0, fun l => wd l), (1, fun l => wd (g.groupid * g.width + l)), (2, fun l => (g.lane l).popidx),
        (3, fun l => (g.lane l).parent), (4, fun l => (g.lane l).root), (5, fun l => (g.lane l).copy), (6, fun l => wd ((g.lane l).privbase.toNat % 2 ^ 32)),
        (7, fun l => wd ((g.lane l).privbase.toNat / 2 ^ 32 % 2 ^ 22)), (8, fun l => wd ((g.lane l).draw.toNat % 2 ^ 32))] →
      Ready (.vsrd h f) h s g sp → WritesV (.vsrd h f) h s g sp f.d.toNat 1 (fun l => (v l).toNat)) ∧
    (g.width = 16 → tyFloat f.ty = false → tyBits f.ty = 32 → ∀ d : Nat → Nat,
      let x (l : Nat) : Nat := val l % 2 ^ 32
      let op := combine f (d 0)
      let four (l : Nat) : Nat := op (op (x l) (x (l + 1))) (op (x (l + 2)) (x (l + 3)))
      foldOver g f (List.range 16) d = (0, some (op (op (four 0) (four 4)) (op (four 8) (four 12)))))

/-! ### Waiting -/

/-- R31, R32, R183, R184, R363: YIELD goes on as the youngest of its level; SLEEP parks until CLOCK has counted its cycles, 0 being YIELD; WAITC goes on
when its counter is low enough, and else parks; BAR parks while some split of the team has not arrived, and with the last arrival every split of
the team goes on; it does not arrive while a strong access of the split to another device is not performed (R73). That the end of a SLEEP saturates at 2^64 - 1 is the model's choice: log entry 32. -/
def Obligations.WaitingInstructionsWaitAndGoOn : Prop :=
  ∀ (h : Hdr) (s : State) (g : Group) (sp : Split), g.kGuard h = true →
    let yields (i : Instr) : Prop := ∃ t g' sp', exec i s = .next t ∧ OnlyGroup s t g g' ∧ OnlySplit g g' sp sp' ∧ g' = { g with splits := g'.splits } ∧
      sp' = { sp with pc := sp.pc + 4, lastTrap := sp'.lastTrap, fenceWait := none, readySince := s.clock, aging := 0 }
    (Ready (.yield h) h s g sp → yields (.yield h)) ∧
    (∀ f : SRF, Ready (.sleep h f) h s g sp →
      (g.sReg f.a.toNat = 0 → yields (.sleep h f)) ∧
      (g.sReg f.a.toNat ≠ 0 →
        let until_ : SplitStatus := .parked (.sleep (dw (min (s.clock.toNat + (g.sReg f.a.toNat).toNat) (2 ^ 64 - 1))))
        exec (.sleep h f) s = .next (s.setGroup (g.setSplit { sp with status := until_ })))) ∧
    (∀ f : SRF, Ready (.waitc h f) h s g sp →
      (g.counter f.b.toNat ≤ (g.sReg f.a.toNat).toNat → f.b.toNat ≠ 3 →
        Completes (.waitc h f) s g sp (sp.pc + 4) (fun g' => g' = { g with splits := g'.splits })) ∧
      (g.counter f.b.toNat ≤ (g.sReg f.a.toNat).toNat → f.b.toNat = 3 →
        ∃ t g' sp', exec (.waitc h f) s = .next t ∧ t.group? g.uid = some g' ∧ OnlySplit g g' sp sp' ∧ AtPc sp sp' (sp.pc + 4) ∧
          g' = { g with splits := g'.splits, lauSig := [] } ∧ (∀ p ∈ g.lauSig, cacheLine? t .l1 g.core p.2 = none)) ∧
      ((g.sReg f.a.toNat).toNat < g.counter f.b.toNat →
        exec (.waitc h f) s = .next (s.setGroup (g.setSplit { sp with status := .parked (.waitc f.b.toNat (g.sReg f.a.toNat)) })))) ∧
    (∀ f : SRF, Ready (.bar h f) h s g sp → strongAway s g sp = true →
      exec (.bar h f) s = .next (s.setGroup (g.setSplit { sp with fenceWait := some { Split.fenced s g sp 0 with remap := [] }, status := .stalled (.fence true) }))) ∧
    (∀ f : SRF, Ready (.bar h f) h s g sp → strongAway s g sp = false →
      ((∃ x ∈ s.groups, x.team = g.team ∧ x.uid ≠ g.uid ∧ ∃ y ∈ x.splits, y.status = .ready) →
        exec (.bar h f) s = .next (s.setGroup (g.setSplit { sp with status := .parked (.bar f.b.toNat) }))) ∧
      ((∀ x ∈ s.groups, x.team = g.team → ∀ y ∈ x.splits, (x.uid = g.uid ∧ y.slot = sp.slot) ∨ y.status = .parked (.bar f.b.toNat)) →
        ∃ t, exec (.bar h f) s = .next t ∧ ∀ u x k y, s.group? u = some x → x.team = g.team → x.split? k = some y →
          ∃ x' y', t.group? u = some x' ∧ x'.split? k = some y' ∧ y'.pc = y.pc + 4 ∧ y'.status = .ready ∧ y'.mask = y.mask))

/-! ### Memory -/

/-- R48, R49, R52 to R54, R76, R220 to R222: LD and ST in the scratchpad, cluster and die spaces, all of whose lanes pass their checks. A weak LD will write the
bytes at each lane's place, as the type's register image, but for bytes that the lane still sees as they were (R82; when it does is the model's choice: log entry 4); a weak ST writes them there, the highest lane last (R50), and every other byte stays. The strong
forms of one lane do the same; one that acquires meets no release here. -/
def Obligations.OnChipLoadsAndStores : Prop :=
  ∀ (h : Hdr) (f : LongF) (s : State) (g : Group) (sp : Split) (place : Nat → Loc),
    let n := memBytes f.ty
    let ls := activeLanes g sp h
    ls ≠ [] → f.c.toNat % 4 ≠ 0 → g.counter 2 < 63 → mustWait s g sp (ordOf f) = false →
    (∀ l ∈ ls, placeOffset s (splitCtx g sp) (spaceOf f.c.toNat) (laneAddr g l f).toNat n = .ok (.loc (place l)) ∧ poisoned s (place l) = false) →
    (Ready (.ld h f) h s g sp → f.mo = 0 → sp.pend.length < 16 → ∃ (seen : Nat → Nat) (t : State) (g' : Group), exec (.ld h f) s = .next t ∧ OnlyGroup s t g g' ∧
      MemoryEnds t g g' sp 12 2 s.uid (some (ls.flatMap (fun l => vWrites l f.d.toNat (tyRegs f.ty) (loadImage f.ty (seen l))))) ∧
      ∀ l ∈ ls, let mine := s.veils.filter (fun v => v.group == g.uid && v.lane == l)
        ((∀ v ∈ mine, locMeets v.loc v.bytes.length (place l) n = false) → seen l = bytesAt s (place l) n) ∧
        (∀ v, mine = [v] → v.loc = place l → v.bytes.length = n → (∀ pa, v.loc ≠ .hbm pa) → seen l = leNat v.bytes)) ∧
    (Ready (.st h f) h s g sp → f.mo = 0 → Memory.wf s.scratch = true → Memory.wf s.dieScratch = true → ∃ t g', exec (.st h f) s = .next t ∧
      MemoryEnds t g g' sp 12 2 s.uid none ∧ t = { s with groups := t.groups, uid := t.uid, scratch := t.scratch, dieScratch := t.dieScratch, poison := t.poison } ∧
      (∀ l ∈ ls, (∀ k ∈ ls, l < k → place k ≠ place l) → bytesAt t (place l) n = storeData g l f) ∧
      (∀ x, (∀ l ∈ ls, ∀ m o, place l = .scratch m o → ¬ (m * 2 ^ 19 + o ≤ x ∧ x < m * 2 ^ 19 + o + n)) →
        memRead t.scratch x = memRead s.scratch x) ∧
      (∀ x, (∀ l ∈ ls, ∀ m o, place l = .die m o → ¬ (m * 2 ^ 25 + o ≤ x ∧ x < m * 2 ^ 25 + o + n)) →
        memRead t.dieScratch x = memRead s.dieScratch x)) ∧
    (∀ l, ls = [l] → f.mo ≠ 0 → s.memoriesWf = true → sigRoom s (place l) →
      (Ready (.ld h f) h s g sp → sp.pend.length < 16 → ((ordOf f).acquires = true → sigAt s (place l) n = []) → ∃ t g', exec (.ld h f) s = .next t ∧
        SameMemory s t ∧ OtherGroupsKept s t g.uid ∧
        MemoryEnds t g g' sp 12 2 s.uid (some (vWrites l f.d.toNat (tyRegs f.ty) (loadImage f.ty (bytesAt s (place l) n))))) ∧
      (Ready (.st h f) h s g sp → ∃ t g', exec (.st h f) s = .next t ∧ StoresAt s t (place l) n (storeData g l f) ∧ OtherGroupsKept s t g.uid ∧
        MemoryEnds t g g' sp 12 2 s.uid none))

/-- R10, R55, R57, R58, R76, R171 to R174, R220 to R222, R378: global loads and stores of a normal page, made by SLD, SST, or one lane of LD or ST, in their
weak and strong forms. A load that is performed in the L1 (weak, or strong at core scope or narrower) reads the core's own copy of the line, else the home;
one at a wider scope, or with policy 1, reads the home. A store in the L1 leaves the home as it is; at a wider scope, or with policy 1, it is at the home at
once, and no other byte of memory changes. An acquire here meets no release. -/
def Obligations.GlobalLoadsAndStores : Prop :=
  ∀ (h : Hdr) (s : State) (g : Group) (sp : Split) (pa : Nat), s.memoriesWf = true →
    let wide (o : Ord) : Prop := o.order ≠ 0 ∧ wideScope o.scope (laneAgent s g sp).paired = true
    let loads (i : Instr) (o : Ord) (addr : DWord) (n len : Nat) (regs : Nat → List RegWrite) : Prop :=
      Ready i h s g sp → Reaches54 s (splitCtx g sp) needR addr n pa → poisoned s (.hbm pa) = false → mustWait s g sp o = false → g.counter 0 < 63 →
      sp.pend.length < 16 →
      let gives (v : Nat) : Prop := ∃ t g', exec i s = .next t ∧ SameMemory s t ∧ OtherGroupsKept s t g.uid ∧ MemoryEnds t g g' sp len 0 s.uid (some (regs v))
      (¬ wide o → policyAt s g sp o.cp addr ≠ 1 → l1Fits s g.core (pa / 128) → gives (coreBytes s g.core pa n)) ∧
      (wide o ∨ policyAt s g sp o.cp addr = 1 → cacheLine? s .l1 g.core (pa / 128) = none → (o.acquires = true → sigAt s (.hbm pa) n = []) →
        gives (memReadNat s.hbm pa n))
    let stores (i : Instr) (o : Ord) (addr : DWord) (n len v : Nat) : Prop :=
      Ready i h s g sp → Reaches54 s (splitCtx g sp) needW addr n pa → mustWait s g sp o = false → g.counter 1 < 63 →
      (n = 32 → poisoned s (.hbm pa) = false) → remapBusy s [(pa, n)] = false →
      (¬ wide o → policyAt s g sp o.cp addr ≠ 1 → l1Fits s g.core (pa / 128) → ∃ t g', exec i s = .next t ∧ SameMemory s t ∧ OtherGroupsKept s t g.uid ∧
        MemoryEnds t g g' sp len 1 s.uid none ∧ (cacheLine? t .l1 g.core (pa / 128)).isSome = true ∧ coreBytes t g.core pa n = v) ∧
      (wide o ∨ policyAt s g sp o.cp addr = 1 → (wide o → cacheLine? s .l1 g.core (pa / 128) = none ∧ sigRoom s (.hbm pa)) → ∃ t g', exec i s = .next t ∧
        StoresAt s t (.hbm pa) n v ∧ OtherGroupsKept s t g.uid ∧ MemoryEnds t g g' sp len 1 s.uid none)
    (∀ (f : LongF) (l : Nat), activeLanes g sp h = [l] → f.c.toNat % 4 = 0 →
      loads (.ld h f) (ordOf f) (laneAddr g l f) (memBytes f.ty) 12 (fun v => vWrites l f.d.toNat (tyRegs f.ty) (loadImage f.ty v)) ∧
      stores (.st h f) (ordOf f) (laneAddr g l f) (memBytes f.ty) 12 (storeData g l f)) ∧
    (∀ f : SRF, g.kGuard h = true →
      let addr := if f.i then g.sReg f.a.toNat else g.sReg f.a.toNat + g.sReg f.b.toNat
      loads (.sld h f) (ordShort f false) addr 8 4 (fun v => [.s f.d.toNat (dw v)]) ∧
      stores (.sst h f) (ordShort f true) addr 8 4 (g.sReg f.d.toNat).toNat)

/-- R49, R53: the checks of an address, in their order: bits 63:54 (PAGE), then alignment (ALIGN); in the other spaces alignment first, then, for the cluster,
the placement of the grid, then the range, then whether a team is at the rank (SPACE). A cluster address names the byte of the team at its rank. Where the thread has
no team, or no grid, no offset is valid. An access that fails is not made. -/
def Obligations.AddressChecksInOrder : Prop :=
  ∀ (s : State) (c : Ctx) (need : Need) (addr : DWord) (n : Nat), 0 < n →
    (2 ^ 54 ≤ addr.toNat → place s c .global need addr n = (s, .error { code := 0x07, addr := addr })) ∧
    (addr.toNat < 2 ^ 54 → addr.toNat % n ≠ 0 → place s c .global need addr n = (s, .error { code := 0x06, addr := addr })) ∧
    (∀ sp : Space, sp ≠ .global → addr.toNat % n ≠ 0 → place s c sp need addr n = (s, .error { code := 0x06, addr := addr })) ∧
    (∀ (u : Nat) (t : Team), c.team = some u → s.team? u = some t → addr.toNat % n = 0 →
      place s c .scratch need addr n = (s, if addr.toNat + n ≤ t.scratch then .ok (.loc (.scratch t.uid addr.toNat)) else
        .error { code := 0x09, addr := addr })) ∧
    (∀ (u : Nat) (r : Grid), c.grid = some u → s.grid? u = some r → addr.toNat % n = 0 →
      place s c .die need addr n = (s, if addr.toNat + n ≤ r.dieAlloc then .ok (.loc (.die (r.uid * 4 + c.core / 48) addr.toNat)) else
        .error { code := 0x09, addr := addr })) ∧
    (∀ (u v : Nat) (r : Grid) (t : Team), c.grid = some u → s.grid? u = some r → c.team = some v → s.team? v = some t → r.clus = false →
      addr.toNat % n = 0 → place s c .cluster need addr n = (s, .error { code := 0x09, addr := addr })) ∧
    (∀ (u v : Nat) (r : Grid) (t : Team), c.grid = some u → s.grid? u = some r → c.team = some v → s.team? v = some t → r.clus = true → addr.toNat % n = 0 →
      let rank := addr.toNat / 2 ^ 18
      let off := addr.toNat % 2 ^ 18
      let there (x : Team) : Bool := x.grid == t.grid && !x.saved && x.core == 8 * (t.core / 8) + rank
      let space : Except Cause Place := .error { code := 0x09, addr := addr }
      let at_ (x : Team) : Except Cause Place := if off + n ≤ x.scratch then .ok (.loc (.scratch x.uid off)) else space
      (8 ≤ rank → place s c .cluster need addr n = (s, space)) ∧
      (rank = t.core % 8 → place s c .cluster need addr n = (s, at_ t)) ∧
      (rank < 8 → rank ≠ t.core % 8 →
        (s.teams.filter there = [] → place s c .cluster need addr n = (s, space)) ∧
        (∀ x, s.teams.filter there = [x] → place s c .cluster need addr n = (s, at_ x)))) ∧
    (addr.toNat % n = 0 →
      (c.team.bind s.team? = none → ∀ sp, sp ∈ [Space.scratch, .cluster] → place s c sp need addr n = (s, .error { code := 0x09, addr := addr })) ∧
      (c.grid.bind s.grid? = none → place s c .die need addr n = (s, .error { code := 0x09, addr := addr })))

/-- R37: a lane-class instruction some of whose lanes fault. The lanes without a fault go on past it; when there are none, the trap is taken at once for
the lanes with the first fault's cause, the others being held at the instruction. -/
def Obligations.FaultingLanesStopOthersRunOn : Prop :=
  ∀ (s : State) (g : Group) (sp : Split) (l : Nat) (c : Cause) (rest : List (Nat × Cause)) (len : Nat) (insn : List Word), sp.runOn = none →
    let faults := (l, c) :: rest
    let bad := maskOf (faults.map (·.1))
    let same := maskOf ((faults.filter (fun q => q.2.code == c.code && q.2.sub == c.sub)).map (·.1))
    let others := bad &&& ~~~same
    ((sp.mask &&& ~~~bad) ≠ 0 → s.group? g.uid = some g → g.split? sp.slot = some sp →
      let stopLater : RunOn := { pc := sp.pc, cause := c, faulting := same, others := others, heldLater := [], insn := insn }
      ∃ g' sp', OnlyGroup s (settleFaults s g sp faults len insn) g g' ∧ OnlySplit g g' sp sp' ∧ g' = { g with splits := g'.splits } ∧
        sp' = { sp with pc := sp.pc + BitVec.ofNat 54 len, lastTrap := sp'.lastTrap, fenceWait := none, mask := sp.mask &&& ~~~bad, runOn := some stopLater, pages := sp'.pages }) ∧
    ((sp.mask &&& ~~~bad) = 0 →
      let sp2 : Split := { sp with mask := 0, runOn := none, stack := (if others = 0 then [] else [.held sp.pc others]) ++ sp.stack }
      settleFaults s g sp faults len insn = deliver s (g.setSplit sp2) sp2 c sp.pc same insn)

/-- R79, R219, R223 to R227: ATOM, ACAS and RED of one lane. In one step the word at its place is read and replaced: ATOM and RED by the value of R223's table,
ACAS by the new value when the word is the compare value, bit for bit. ATOM and ACAS will write the old value. -/
def Obligations.AtomicsReplaceTheWordTheyRead : Prop :=
  ∀ (h : Hdr) (f : LongF) (s : State) (g : Group) (sp : Split) (l : Nat) (place : Loc),
    let n := memBytes f.ty
    let w := tyBits f.ty
    let old := bytesAt s place n
    let v := laneReg g l f.d f.ty
    let ends (i : Instr) (loads : Bool) (x : Nat) : Prop := ∃ t g', exec i s = .next t ∧ StoresAt s t place n x ∧ OtherGroupsKept s t g.uid ∧
      MemoryEnds t g g' sp 12 (if f.c.toNat % 4 ≠ 0 then 2 else if loads then 0 else 1) s.uid
        (if loads then some (vWrites l (xByte 1 f).toNat (tyRegs f.ty) old) else none)
    s.memoriesWf = true → activeLanes g sp h = [l] → ActsAt s (splitCtx g sp) (spaceOf f.c.toNat) needRW (laneAddr0 g l f) n place →
    (f.mo = 0 ∨ sigAt s place n = []) → mustWait s g sp (ordRmw f) = false → (∀ p, g.counter p < 63) → sp.pend.length < 16 →
    (∀ x, ((xByte 0 f).toNat, x) ∈ [(0, (old + v) % 2 ^ w), (1, (old + 2 ^ w - v) % 2 ^ w), (2, if intVal f.ty old ≤ intVal f.ty v then old else v),
        (3, if intVal f.ty old ≤ intVal f.ty v then v else old), (4, old &&& v), (5, old ||| v), (6, old ^^^ v), (7, v),
        (8, if v ≤ old then 0 else old + 1), (9, if old = 0 ∨ v < old then v else old - 1),
        (10, flushSub f.ty (froundV f.ty 0 0 (fsumV 0 [fdec f.ty (flushSub f.ty old), fdec f.ty (flushSub f.ty v)]))),
        (11, fminmax f.ty false (flushSub f.ty old) (flushSub f.ty v)), (12, fminmax f.ty true (flushSub f.ty old) (flushSub f.ty v))] →
      (Ready (.atom h f) h s g sp → ends (.atom h f) true x) ∧ (Ready (.red h f) h s g sp → ends (.red h f) false x)) ∧
    (Ready (.acas h f) h s g sp → ends (.acas h f) true (if old = laneReg g l (xByte 2 f) f.ty then v else old))

/-- R228: REDT of one lane, where no deadline list stands. A tag its source has not used at the home slice is applied and recorded; a tag recorded
before, or older than the window reaches, changes nothing; one inside the window and not recorded is applied and recorded. From a source that finds no window
left at the slice it is applied without a record, and NODEDUP counts it. Either way the instruction is done. -/
def Obligations.TaggedReductionsApplyOnce : Prop :=
  ∀ (h : Hdr) (f : LongF) (s : State) (g : Group) (sp : Split) (l pa : Nat),
    let n := memBytes f.ty
    let tag := (g.lane l).vReg f.d.toNat
    let window (t : State) : Option RedtWindow := t.redt.find? (fun w => w.slice == homeSliceOf pa && w.src == redtSource s g)
    let x := rmwValue (xByte 0 f).toNat f.ty (laneReg g l (xByte 1 f) f.ty) (memReadNat s.hbm pa n)
    s.memoriesWf = true → activeLanes g sp h = [l] → ActsAt s (splitCtx g sp) .global needRW (laneAddr0 g l f) n (.hbm pa) →
    (f.mo = 0 ∨ sigAt s (.hbm pa) n = []) → mustWait s g sp (ordRmw f) = false → g.counter 1 < 63 → dltBase s (fld g.partid 0 4) = 0 →
    Ready (.redt h f) h s g sp →
    ((window s = none ∧ (s.redt.filter (fun w => w.slice == homeSliceOf pa)).length < 1024) ∨
        (∃ w, window s = some w ∧ 1 ≤ (tag - w.high).toNat ∧ (tag - w.high).toNat < 2 ^ 31) →
      ∃ t g' w, exec (.redt h f) s = .next t ∧ StoresAt s t (.hbm pa) n x ∧ OtherGroupsKept s t g.uid ∧ MemoryEnds t g g' sp 12 1 s.uid none ∧
        window t = some w ∧ w.high = tag ∧ w.bits.getLsbD 0 = true) ∧
    (∀ w, window s = some w → ((w.high - tag).toNat < 4096 ∧ w.bits.getLsbD (w.high - tag).toNat = true) ∨
        (4096 ≤ (w.high - tag).toNat ∧ 2 ^ 31 ≤ (tag - w.high).toNat) →
      ∃ t g', exec (.redt h f) s = .next t ∧ SameMemory s t ∧ OtherGroupsKept s t g.uid ∧ MemoryEnds t g g' sp 12 1 s.uid none ∧ t.redt = s.redt) ∧
    (∀ w, window s = some w → (w.high - tag).toNat < 4096 → w.bits.getLsbD (w.high - tag).toNat = false →
      ∃ t g' w', exec (.redt h f) s = .next t ∧ StoresAt s t (.hbm pa) n x ∧ OtherGroupsKept s t g.uid ∧ MemoryEnds t g g' sp 12 1 s.uid none ∧
        window t = some w' ∧ w'.high = w.high ∧ ∀ k, k < 4096 → w'.bits.getLsbD k = (w.bits.getLsbD k || k == (w.high - tag).toNat)) ∧
    (window s = none → 1024 ≤ (s.redt.filter (fun w => w.slice == homeSliceOf pa)).length →
      ∃ t g', exec (.redt h f) s = .next t ∧ StoresAt s t (.hbm pa) n x ∧ OtherGroupsKept s t g.uid ∧ MemoryEnds t g g' sp 12 1 s.uid none ∧ t.redt = s.redt ∧
        t.kiln = { s.kiln with nodedup := s.kiln.nodedup + 1 })

/-- R55, R63, R73, R74, R76, R84, R229, R230, R240, R241: FENCE, PREF, DWB, DINV, ICINV and FETCHB. A FENCE waits for the engine operations its mask names, and, as
an acquire, for the split's strong accesses to other devices; it then is past. A release FENCE is remembered for the split's next strong store. An acquire FENCE
drops the scale cache; at a scope that leaves the L1 it brings home the dirty bytes of what was read before it and drops the core's copies. PREF of a readable byte
brings its line into the L1, and in the other spaces does nothing. DWB writes the dirty bytes of the lines in its range to their homes and keeps the lines,
DINV drops them too; no other byte changes; ICINV drops instruction lines, FETCHB the words fetched ahead. -/
def Obligations.FencesAndCacheMaintenance : Prop :=
  ∀ (h : Hdr) (s : State) (g : Group) (sp : Split), s.memoriesWf = true →
    (∀ f : LongF, Ready (.fence h f) h s g sp → activeLanes g sp h ≠ [] →
      let o := ordOf f
      let sc := gangScope s (some g.grid) f.sc.toNat
      let mask := f.x.toNat % 8
      let paired := (laneAgent s g sp).paired
      let wide := wideScope sc paired
      let reach (x : BitVec 4) : Nat := if x = 2#4 ∧ paired = true then 7 else 2 * x.toNat
      let waits : Prop := enginesBusy s g sp mask = true ∨ (o.acquires = true ∧ strongAway s g sp = true)
      (waits → exec (.fence h f) s = .next (s.setGroup (g.setSplit { sp with fenceWait := some { Split.fenced s g sp mask with remap := [] }, status := .stalled (.fence o.acquires) }))) ∧
      (¬ waits → ∃ t g' sp', exec (.fence h f) s = .next t ∧ t.group? g.uid = some g' ∧ OtherGroupsKept s t g.uid ∧ OnlySplit g g' sp sp' ∧
        g' = { g with splits := g'.splits } ∧ sp' = { sp with pc := sp.pc + 12, lastTrap := sp'.lastTrap, fenceWait := none, relFence := sp'.relFence, acqSig := sp'.acqSig } ∧
        (o.releases = true → ∃ x, sp'.relFence = some x ∧ (x = BitVec.ofNat 4 sc ∨ sp.relFence = some x) ∧ reach (BitVec.ofNat 4 sc) ≤ reach x ∧
          ∀ y, sp.relFence = some y → reach y ≤ reach x) ∧
        (o.releases = false → sp'.relFence = sp.relFence) ∧
        (o.acquires = false → sp'.acqSig = sp.acqSig ∧ OnlyGroup s t g g') ∧
        (o.acquires = true → (∀ n, cacheLine? t .scale g.core n = none) ∧ (wide = false → SameMemory s t ∧ sp'.acqSig = sp.acqSig) ∧
          (wide = true → sp'.acqSig = [] ∧ (∀ q ∈ sp.acqSig, cacheLine? t .l1 g.core q.2 = none) ∧
            ∀ k line, sp.acqSig = [(k, line)] → k = g.core ∨ cacheLine? s .l1 g.core line = none → ∀ c, cacheLine? s .l1 k line = some c → ∀ i, i < 128 →
              memRead t.hbm (128 * line + i) = if c.dirty.getLsbD i then BitVec.ofNat 8 (c.bytes i 1) else memRead s.hbm (128 * line + i))))) ∧
    (∀ f : LongF, Ready (.pref h f) h s g sp → activeLanes g sp h ≠ [] →
      (∃ t g' sp', exec (.pref h f) s = .next t ∧ t.group? g.uid = some g' ∧ OtherGroupsKept s t g.uid ∧ OnlySplit g g' sp sp' ∧ g' = { g with splits := g'.splits } ∧
        AtPc sp sp' (sp.pc + 12)) ∧
      (f.c.toNat % 4 ≠ 0 → Completes (.pref h f) s g sp (sp.pc + 12) (fun g' => g' = { g with splits := g'.splits })) ∧
      (∀ l pa, activeLanes g sp h = [l] → f.c.toNat % 4 = 0 → policyAt s g sp f.rm.toNat (laneAddr g l f) ≠ 1 →
        Reaches54 s (splitCtx g sp) needR (laneAddr g l f) 1 pa → poisoned s (.hbm pa) = false → l1Fits s g.core (pa / 128) →
        ∃ t, exec (.pref h f) s = .next t ∧ SameMemory s t ∧ (cacheLine? t .l1 g.core (pa / 128)).isSome = true)) ∧
    (∀ f : SRF, g.kGuard h = true → g.counter 1 < 63 →
      let meant (line : Nat) (c : CacheLine) : Prop := cacheLine? s .l1 g.core line = some c ∧ inRange g f c = true
      let written (t : State) : Prop :=
        (∀ line c, meant line c → ∀ i, i < 128 → c.dirty.getLsbD i = true → memRead t.hbm (128 * line + i) = BitVec.ofNat 8 (c.bytes i 1)) ∧
        (∀ x, (∀ c, meant (x / 128) c → c.dirty.getLsbD (x % 128) = false) → memRead t.hbm x = memRead s.hbm x) ∧
        t.scratch = s.scratch ∧ t.dieScratch = s.dieScratch ∧ t.acc = s.acc
      (∀ line c d, cacheLine? s .l1 g.core line = some c → d ∈ s.caches → d.is .l1 g.core line = true → d = c) →
      (Ready (.dwb h f) h s g sp → ∃ t g', exec (.dwb h f) s = .next t ∧ OtherGroupsKept s t g.uid ∧ MemoryEnds t g g' sp 4 1 s.uid none ∧ written t ∧
        ∀ line c, meant line c → ∃ c', cacheLine? t .l1 g.core line = some c' ∧ c'.dirty = 0 ∧ c'.data = c.data) ∧
      (Ready (.dinv h f) h s g sp → ∃ t g', exec (.dinv h f) s = .next t ∧ OtherGroupsKept s t g.uid ∧ MemoryEnds t g g' sp 4 1 s.uid none ∧ written t ∧
        ∀ line c, meant line c → cacheLine? t .l1 g.core line = none)) ∧
    (∀ f : SRF, g.kGuard h = true → Ready (.icinv h f) h s g sp → ∃ t g' sp', exec (.icinv h f) s = .next t ∧ SameMemory s t ∧ OtherGroupsKept s t g.uid ∧
      t.group? g.uid = some g' ∧ OnlySplit g g' sp sp' ∧ g' = { g with splits := g'.splits } ∧ AtPc sp sp' (sp.pc + 4) ∧
      ∀ line c, cacheLine? s .instr g.core line = some c → inRange g f c = true → cacheLine? t .instr g.core line = none) ∧
    (g.kGuard h = true → Ready (.fetchb h) h s g sp → ∃ t g' sp', exec (.fetchb h) s = .next t ∧ OnlyGroup s t g g' ∧ OnlySplit g g' sp sp' ∧
      g' = { g with splits := g'.splits } ∧ sp' = { sp with pc := sp.pc + 4, lastTrap := sp'.lastTrap, fenceWait := none, prefetch := [] })

/-- R231 to R233: ARRIVE and WAITPH of one lane. An arrival takes its count from the pending count; the one that brings it to 0 flips the phase and sets the count
anew; one that takes more poisons the word and raises BARPOISON, as does any on a poisoned word. WAITPH goes on once the word's phase is not the one it waits in, and
else parks. -/
def Obligations.BarrierWordsCountArrivals : Prop :=
  ∀ (h : Hdr) (f : LongF) (s : State) (g : Group) (sp : Split) (l : Nat) (place : Loc),
    let w := bytesAt s place 8
    let pending := w % 2 ^ 32
    let count := (g.sReg f.d.toNat).toNat % 2 ^ 32
    let again := w / 2 ^ 32 % 2 ^ 30
    let flip := if bit w 63 then 0 else 2 ^ 63
    let path := if f.c.toNat % 4 = 0 then 1 else 2
    s.memoriesWf = true → activeLanes g sp h = [l] → (f.mo = 0 ∨ sigAt s place 8 = []) →
    (Ready (.arrive h f) h s g sp → ActsAt s (splitCtx g sp) (spaceOf f.c.toNat) needRW (laneAddr g l f) 8 place → mustWait s g sp (ordRmw f) = false →
      g.counter path < 63 →
      (bit w 62 = false → count < pending ∨ count = 0 → ∃ t g', exec (.arrive h f) s = .next t ∧ StoresAt s t place 8 (w - count) ∧
        MemoryEnds t g g' sp 12 path s.uid none) ∧
      (bit w 62 = false → 0 < count → count = pending → ∃ t g', exec (.arrive h f) s = .next t ∧
        StoresAt s t place 8 (flip + again * 2 ^ 32 + again) ∧ MemoryEnds t g g' sp 12 path s.uid none) ∧
      (bit w 62 = false → pending < count → ∃ m, exec (.arrive h f) s = .next
        (settleFaults m g sp [(l, { code := 0x12, addr := laneAddr g l f, access := 3 })] 12 (encode (.arrive h f))) ∧
        StoresAt s m place 8 (flip + 2 ^ 62 + w % 2 ^ 62)) ∧
      (bit w 62 = true → ∃ m, exec (.arrive h f) s = .next
        (settleFaults m g sp [(l, { code := 0x12, addr := laneAddr g l f, access := 3 })] 12 (encode (.arrive h f))) ∧ SameMemory s m)) ∧
    (Ready (.waitph h f) h s g sp → ActsAt s (splitCtx g sp) (spaceOf f.c.toNat) needR (laneAddr g l f) 8 place → mustWait s g sp (ordOf f) = false →
      (∀ pa, place = .hbm pa → l1Fits s g.core (pa / 128)) → bit w 62 = false →
      (bit w 63 ≠ (g.sReg f.d.toNat).getLsbD 0 → ∃ t g' sp', exec (.waitph h f) s = .next t ∧ SameMemory s t ∧ t.group? g.uid = some g' ∧
        OnlySplit g g' sp sp' ∧ g' = { g with splits := g'.splits } ∧
        sp' = { sp with pc := sp.pc + 12, lastTrap := sp'.lastTrap, fenceWait := none, acqSig := sp'.acqSig }) ∧
      (bit w 63 = (g.sReg f.d.toNat).getLsbD 0 → ∃ t g' sp', exec (.waitph h f) s = .next t ∧ SameMemory s t ∧ t.group? g.uid = some g' ∧
        OnlySplit g g' sp sp' ∧ g' = { g with splits := g'.splits } ∧
        (∃ cp, sp'.status = .parked (.waitph ((g.sReg f.d.toNat).getLsbD 0) f.mo f.sc [⟨l, laneAddr g l f, place, cp⟩] [] (encode (.waitph h f)) false)) ∧
        sp' = { sp with status := sp'.status }))

/-- R234, R235: RAWAIT and RREL of one lane. RAWAIT claims the oldest filled slot: V[D] holds the claim's number and V[D+1] the slot's offset, and CPTR goes up;
with no filled slot it parks. RREL marks its claim released; the frontier passes the oldest claims that are released. A claim not made or released before
poisons the header. -/
def Obligations.RingsClaimAndRelease : Prop :=
  ∀ (h : Hdr) (f : LongF) (s : State) (g : Group) (sp : Split) (l : Nat) (place : Loc),
    let hd := bytesAt s place 32
    let base := hd % 2 ^ 32
    let slot := hd / 2 ^ 32 % 2 ^ 32
    let wptr := hd / 2 ^ 64 % 2 ^ 32
    let cptr := hd / 2 ^ 96 % 2 ^ 32
    let front := hd / 2 ^ 128 % 2 ^ 32
    let nslot := hd / 2 ^ 160 % 2 ^ 7
    let map := hd / 2 ^ 192 % 2 ^ 64
    let k := ((g.lane l).vReg f.d.toNat).toNat
    s.memoriesWf = true → activeLanes g sp h = [l] → (f.mo = 0 ∨ sigAt s place 32 = []) → mustWait s g sp (ordOf f) = false → g.counter 2 < 63 →
    spaceOf f.c.toNat ≠ .global → ActsAt s (splitCtx g sp) (spaceOf f.c.toNat) needRW (laneAddr g l f) 32 place → ringBad hd = false → bit hd 191 = false →
    (Ready (.rawait h f) h s g sp →
      (wptr ≠ cptr → ∃ t g', exec (.rawait h f) s = .next t ∧
        StoresAt s t place 32 (hd - cptr * 2 ^ 96 + (cptr + 1) % 2 ^ 32 * 2 ^ 96) ∧ t.group? g.uid = some g' ∧
        g' = { g with lanes := g'.lanes, splits := g'.splits, flights := g.flights ++ [{ path := 2, op := s.uid, done := true }] } ∧
        (∀ n, g'.lane n = if n = l then (g.lane l).setVNat f.d.toNat 2 (cptr + 2 ^ 32 * ((base + cptr % nslot * slot) % 2 ^ 32)) else g.lane n) ∧
        ∃ sp', g'.split? sp.slot = some sp' ∧ sp' = { sp with pc := sp.pc + 12, status := .ready, lastTrap := sp'.lastTrap, fenceWait := none, acqSig := sp'.acqSig }) ∧
      (wptr = cptr →
        let waits : SplitStatus := .parked (.rawait f.d.toNat f.mo f.sc [⟨l, laneAddr g l f, place, 0⟩] [] (encode (.rawait h f)))
        exec (.rawait h f) s = .next (s.setGroup (g.setSplit { sp with status := waits })))) ∧
    (Ready (.rrel h f) h s g sp →
      let misuse : Prop := (cptr + 2 ^ 32 - front) % 2 ^ 32 ≤ (k + 2 ^ 32 - front) % 2 ^ 32 ∨ bit map (k % nslot) = true
      (¬ misuse → k ≠ front → bit map (front % nslot) = false → k % nslot ≠ front % nslot → ∃ t g', exec (.rrel h f) s = .next t ∧ StoresAt s t place 32 (hd + 2 ^ (192 + k % nslot)) ∧
        MemoryEnds t g g' sp 12 2 s.uid none) ∧
      (¬ misuse → k = front → map = 0 → ∃ t g', exec (.rrel h f) s = .next t ∧
        StoresAt s t place 32 (hd - front * 2 ^ 128 + (front + 1) % 2 ^ 32 * 2 ^ 128) ∧ MemoryEnds t g g' sp 12 2 s.uid none) ∧
      (misuse → ∃ m, exec (.rrel h f) s = .next
        (settleFaults m g sp [(l, { code := 0x12, addr := laneAddr g l f, access := 3 })] 12 (encode (.rrel h f))) ∧
        StoresAt s m place 32 (hd + 2 ^ 191)))

/-- R236 to R238: QPUT and QGET of one lane. A push goes to the chip while it has room and the cellar is empty, to the cellar when the chip is full, and nowhere
when both are; a pop takes the oldest entry. Status 0 is on chip or popped, 1 cellar, 2 full or empty, 3 a cask the partition may not use so. Moving
entries from the cellar to the chip keeps their order. -/
def Obligations.CasksKeepTasksInOrder : Prop :=
  ∀ (h : Hdr) (f : LongF) (s : State) (g : Group) (sp : Split) (l : Nat),
    let n := (laneAddr0 g l f).toNat
    let v (k : Nat) : Word := (g.lane l).vReg (f.d.toNat + k)
    let status := (f.x.extractLsb' 0 8).toNat
    let ends (t : State) (park : Bool) (ws : List RegWrite) : Prop := ∃ g' sp', t.group? g.uid = some g' ∧ OnlySplit g g' sp sp' ∧
      g' = { g with splits := g'.splits, flights := g.flights ++ [{ path := 7, op := s.uid, done := true }] } ∧
      sp' = { sp with pc := sp.pc + 12, status := if park then .parked (.statuses s.uid) else sp.status, lastTrap := sp'.lastTrap, fenceWait := none,
                      acqSig := sp'.acqSig, pend := sp.pend ++ [{ op := s.uid, writes := ws }] }
    activeLanes g sp h = [l] → n < 1024 → mustWait s g sp (ordOf f) = false → sp.pend.length < 16 → g.counter 7 < 63 →
    (Ready (.qput h f) h s g sp →
      (∀ c, s.cask? n = some c → c.part = fld g.partid 0 4 →
        (c.cellar = [] → c.chip.length < 4096 → ∃ t e, exec (.qput h f) s = .next t ∧ t.cask? n = some { c with chip := c.chip ++ [e] } ∧
          e = { e with producer := g.uid, w0 := v 0, lo := v 2, hi := v 3 } ∧ ends t true [.v l status 0]) ∧
        (4096 ≤ c.chip.length → c.cellar.length < c.cap → ∃ t e, exec (.qput h f) s = .next t ∧
          t.cask? n = some { c with cellar := c.cellar ++ [e] } ∧ e = { e with producer := g.uid, w0 := v 0, lo := v 2, hi := v 3 } ∧
          ends t true [.v l status 1]) ∧
        (4096 ≤ c.chip.length → c.cap ≤ c.cellar.length → ∃ t, exec (.qput h f) s = .next t ∧ t.cask? n = some c ∧ ends t true [.v l status 2])) ∧
      (s.cask? n = none ∨ (∃ c, s.cask? n = some c ∧ c.part ≠ fld g.partid 0 4) → ∃ t, exec (.qput h f) s = .next t ∧ t.casks = s.casks ∧ ends t true [.v l status 3])) ∧
    (Ready (.qget h f) h s g sp →
      (∀ c, s.cask? n = some c → c.part = fld g.partid 0 4 → c.bound = none → c.cellar = [] →
        (∀ e es, c.chip = e :: es → ∃ t, exec (.qget h f) s = .next t ∧ t.cask? n = some { c with chip := es } ∧
          ends t false [.v l f.d.toNat e.w0, .v l (f.d.toNat + 1) 0, .v l (f.d.toNat + 2) e.lo, .v l (f.d.toNat + 3) e.hi, .v l status 0]) ∧
        (c.chip = [] → ∃ t, exec (.qget h f) s = .next t ∧ t.cask? n = some c ∧ ends t false [.v l status 2])) ∧
      (s.cask? n = none ∨ (∃ c, s.cask? n = some c ∧ (c.part ≠ fld g.partid 0 4 ∨ c.bound.isSome = true)) →
        ∃ t, exec (.qget h f) s = .next t ∧ t.casks = s.casks ∧
        ends t false [.v l status 3])) ∧
    (∀ c : Cask, c.refill.chip ++ c.refill.cellar = c.chip ++ c.cellar ∧ c.refill = { c with chip := c.refill.chip, cellar := c.refill.cellar } ∧
      (c.refill.chip.length < 4096 → c.refill.cellar = []))

/-! ### Matrix instructions and resident operators -/

/-- R117 to R119, R245, R247 to R252: MMA and MMAS with both operands in the scratchpad, all of whose checks pass. Each element (m, n) of the tile becomes its old
value plus the sum over k of A[m, k]·B[k, n], each product times its two scales when the control word scales, rounded once into the accumulator's type, or exact
and wrapped for integers; no other byte of any memory changes. That `.neg` negates each product, not their sum, is the model's choice: log entry 36. -/
def Obligations.MatrixMultipliesAccumulate : Prop :=
  ∀ (h : Hdr) (f : LongF) (s : State) (g : Group) (sp : Split) (tm : Team) (explicit : Bool) (sa sb : Nat → Nat → Nat),
    let c := g.sReg f.c.toNat
    let off := (g.sReg f.d.toNat).toNat
    let sz := tyBits (cwC c) / 8
    let i : Instr := if explicit then .mmas h f else .mma h f
    let code (o : Operand) (r k : Nat) : Nat :=
      let at_ := tm.uid * 2 ^ 19 + (o.base.toNat + r * o.stride + k * storeBits o.ty / 8)
      if storeBits o.ty = 4 then memReadNat s.scratch at_ 1 / 16 ^ (k % 2) % 16 else memReadNat s.scratch at_ (storeBits o.ty / 8) % 2 ^ tyBits o.ty
    let a (m k : Nat) : Nat := if f.mo.getLsbD 0 then code (opndA g f c) k m else code (opndA g f c) m k
    let b (k n : Nat) : Nat := if f.mo.getLsbD 1 then code (opndB g f c) k n else code (opndB g f c) n k
    let fits (o : Operand) : Prop := o.base.toNat % 16 = 0 ∧ o.base.toNat + o.rows * o.stride ≤ tm.scratch
    let product (m n k : Nat) : FVal :=
      let p := fmulV (fdec (cwA c) (a m k)) (fdec (cwB c) (b k n))
      let q := if cwScaled c then fmulV p (fmulV (fdec 18 (sa m (k / 32))) (fdec 18 (sb n (k / 32)))) else p
      if f.mo.getLsbD 2 then q.negate else q
    let total (m n : Nat) : Int := ((List.range (cwK c)).map (fun k => intVal (cwA c) (a m k) * intVal (cwB c) (b k n))).sum
    let new (m n old : Nat) : Nat :=
      if cwC c = 6 then fitInt 6 f.sat (intVal 6 old + (if f.mo.getLsbD 2 then -total m n else total m n))
      else (fun x => if f.sat then satMax (cwC c) x else x)
        (froundV (cwC c) f.rm.toNat 0 (fsumV f.rm.toNat (fdec (cwC c) old :: (List.range (cwK c)).map (product m n))))
    let element (m n : Nat) : Nat := accKey s g + off + (m * cwN c + n) * sz
    Ready i h s g sp → g.kGuard h = true → s.team? g.team = some tm → s.memoriesWf = true → f.sc = 5 → mmaLegal g f explicit c = true →
    off + cwM c * cwN c * sz ≤ tm.acc → off % 256 = 0 → tm.scratch ≤ 2 ^ 19 → fits (opndA g f c) → fits (opndB g f c) →
    (∀ u ∈ s.poison, ∀ t o, u ≠ .scratch t o) → (s.budgets.getD (g.core / 8) {}).limit = none → sp.budgetSince = none → sp.budgetGranted = false → sp.budgetCharge = 0 →
    g.counter 4 < 63 →
    (cwScaled c = true → (∀ n, cacheLine? s .scale g.core n = none) ∧
      (∀ m j, m < cwM c → j < cwK c / 32 → ∃ pa, Reaches54 s (splitCtx g sp) needR (scaleAAddr g f explicit c m j) 1 pa ∧ poisoned s (.hbm pa) = false ∧
        sa m j = memReadNat s.hbm pa 1) ∧
      (∀ n j, n < cwN c → j < cwK c / 32 → ∃ pa, Reaches54 s (splitCtx g sp) needR (scaleBAddr g f explicit c n j) 1 pa ∧ poisoned s (.hbm pa) = false ∧
        sb n j = memReadNat s.hbm pa 1)) →
    ∃ t g', exec i s = .next t ∧ MemoryEnds t g g' sp 12 4 s.uid none ∧ t.hbm = s.hbm ∧ t.scratch = s.scratch ∧ t.dieScratch = s.dieScratch ∧
      (∀ m n, m < cwM c → n < cwN c → memReadNat t.acc (element m n) sz = new m n (memReadNat s.acc (element m n) sz) % 2 ^ (8 * sz)) ∧
      BytesKept s.acc t.acc (accKey s g + off) (cwM c * cwN c * sz)

/-- R243 to R245, R253 to R255: ACLR, ALD and AST of one lane, ASTS into the scratchpad, XQT between two tiles of the scratchpad that do not meet. ACLR zeroes the tile,
ALD and AST move one element, ASTS stores each element converted; XQT leaves the exact values rounded to `.f32` in its work area and the transposed tile, quantised
under the new scales, at its destination. -/
def Obligations.AccumulatorsMoveTheirElements : Prop :=
  ∀ (h : Hdr) (f : LongF) (s : State) (g : Group) (sp : Split) (tm : Team),
    let c := g.sReg f.c.toNat
    let off := (g.sReg f.d.toNat).toNat
    let sz := tyBits (cwC c) / 8
    let n := tyBits f.ty / 8
    let others (t : State) : Prop := t.hbm = s.hbm ∧ t.dieScratch = s.dieScratch
    s.team? g.team = some tm → s.memoriesWf = true → g.counter 4 < 63 →
    (Ready (.aclr h f) h s g sp → g.kGuard h = true → mcOk c = true → ncOk c = true → accType (cwC c) = true →
      off + cwM c * cwN c * sz ≤ tm.acc → off % 256 = 0 →
      ∃ t g', exec (.aclr h f) s = .next t ∧ MemoryEnds t g g' sp 12 4 s.uid none ∧ others t ∧ t.scratch = s.scratch ∧
        (∀ x, accKey s g + off ≤ x → x < accKey s g + off + cwM c * cwN c * sz → memRead t.acc x = 0) ∧
        BytesKept s.acc t.acc (accKey s g + off) (cwM c * cwN c * sz)) ∧
    (∀ l, activeLanes g sp h = [l] → mustWait s g sp weakOrd = false → (accLane g l f).toNat + n ≤ tm.acc → (accLane g l f).toNat % n = 0 →
      let at_ := accKey s g + (accLane g l f).toNat
      (Ready (.ald h f) h s g sp → sp.pend.length < 16 → ∃ t g', exec (.ald h f) s = .next t ∧ SameMemory s t ∧ OnlyGroup s t g g' ∧
        MemoryEnds t g g' sp 12 4 s.uid (some (vWrites l f.d.toNat (tyRegs f.ty) (memReadNat s.acc at_ n)))) ∧
      (Ready (.ast h f) h s g sp → ∃ t g', exec (.ast h f) s = .next t ∧ MemoryEnds t g g' sp 12 4 s.uid none ∧ others t ∧ t.scratch = s.scratch ∧
        memReadNat t.acc at_ n = (g.lane l).vNat f.d.toNat (tyRegs f.ty) % 2 ^ (8 * n) ∧ BytesKept s.acc t.acc at_ n)) ∧
    (Ready (.asts h f) h s g sp → g.kGuard h = true → f.sc = 1 → mcOk c = true → ncOk c = true → astsPair (cwC c) f.ty = true →
      roundUp (cwN c * n) 16 ≤ cwAstr c → off + cwM c * cwN c * sz ≤ tm.acc → off % 256 = 0 →
      let base := (g.sReg f.a.toNat + f.x.signExtend 64).toNat
      base % n = 0 → base + cwM c * cwAstr c ≤ tm.scratch → tm.scratch ≤ 2 ^ 19 →
      let at_ (i j : Nat) : Nat := tm.uid * 2 ^ 19 + (base + i * cwAstr c + j * n)
      ∃ t g', exec (.asts h f) s = .next t ∧ MemoryEnds t g g' sp 12 4 s.uid none ∧ others t ∧ t.acc = s.acc ∧
        (∀ i j, i < cwM c → j < cwN c → memReadNat t.scratch (at_ i j) n =
          convert (cwC c) f.ty f.rm.toNat 0 f.sat (memReadNat s.acc (accKey s g + off + (i * cwN c + j) * sz) sz) % 2 ^ (8 * n)) ∧
        (∀ x, (∀ i j, i < cwM c → j < cwN c → ¬ (at_ i j ≤ x ∧ x < at_ i j + n)) → memRead t.scratch x = memRead s.scratch x)) ∧
    (∀ sc : Nat → Nat → Nat, Ready (.xqt h f) h s g sp → g.kGuard h = true → f.sc = 5 → xqtLegal g f c = true →
      off + cwM c * cwK c * 4 ≤ tm.acc → off % 256 = 0 →
      let src := xqtSrc g f c
      let dst := xqtDst g f c
      let fits (o : Operand) : Prop := o.base.toNat % 16 = 0 ∧ o.base.toNat + o.rows * o.stride ≤ tm.scratch
      let byteOf (m : Memory) (o : Operand) (r x : Nat) : Nat := (memRead m (tm.uid * 2 ^ 19 + (o.base.toNat + r * o.stride + x))).toNat
      let code (m k : Nat) : Nat := if tyBits f.ty = 4 then byteOf s.scratch src m (k / 2) / 16 ^ (k % 2) % 16 else byteOf s.scratch src m k % 2 ^ tyBits f.ty
      let v (m k : Nat) : FVal := fmulV (fdec f.ty (code m k)) (fdec 18 (sc m k))
      fits src → fits dst → tm.scratch ≤ 2 ^ 19 →
      (src.base.toNat + src.rows * src.stride ≤ dst.base.toNat ∨ dst.base.toNat + dst.rows * dst.stride ≤ src.base.toNat) →
      (∀ u ∈ s.poison, ∀ t o, u ≠ .scratch t o) → (s.budgets.getD (g.core / 8) {}).limit = none → sp.budgetSince = none → sp.budgetGranted = false → sp.budgetCharge = 0 →
      (∀ x, cacheLine? s .scale g.core x = none) →
      (∀ m k, m < cwM c → k < cwK c → ∃ pa, Reaches54 s (splitCtx g sp) needR (scaleAddr g (src.elemAt m k).toNat) 1 pa ∧
        poisoned s (.hbm pa) = false ∧ sc m k = memReadNat s.hbm pa 1) →
      (∀ k j, k < cwK c → j < cwM c / 32 → ∃ pa, Reaches54 s (splitCtx g sp) needW (scaleAddr g (dst.elemAt k (32 * j)).toNat) 1 pa) →
      ∃ t g', exec (.xqt h f) s = .next t ∧ MemoryEnds t g g' sp 12 4 s.uid none ∧
        (∀ m k, m < cwM c → k < cwK c → memReadNat t.acc (accKey s g + off + (k * cwM c + m) * 4) 4 = froundV 11 0 0 (v m k) % 2 ^ 32) ∧
        (∀ k x, k < cwK c → x < xqtRowBytes f.ty c → byteOf t.scratch dst k x = xqtByte f.ty f.rm.toNat (f.mo.getLsbD 0) v k x % 256))

/-- R125, R133, R139, R142, R256 to R260: TINST, TFREE, TDRAW, TSTAT. TINST is counted and either begins the install of the tun it names or ends with a status. TFREE
unbinds a tun of its partition and passes over any other. TDRAW of one lane waits for an image that is newer than its last sequence, then has its bytes, consuming
the image when asked. TSTAT waits for the word it writes. -/
def Obligations.TunsInstallDrawAndReport : Prop :=
  ∀ (h : Hdr) (f : LongF) (s : State) (g : Group) (sp : Split), g.counter 5 < 63 →
    (Ready (.tinst h f) h s g sp → g.kGuard h = true → (g.sReg f.a.toNat).toNat < 2 ^ 54 → (g.sReg f.a.toNat).toNat % 128 = 0 →
      ∃ t g' sp', exec (.tinst h f) s = .next t ∧ t.group? g.uid = some g' ∧ OnlySplit g g' sp sp' ∧ AtPc sp sp' (sp.pc + 12) ∧
        g' = { g with splits := g'.splits, flights := g'.flights, instOp := s.uid, instTun := g'.instTun, instStatus := g'.instStatus, instAddr := g'.instAddr } ∧
        g'.counter 5 = g.counter 5 + 1 ∧
        ((g'.instStatus = 0xFF ∧ ∃ tn, t.tuns = tn :: s.tuns ∧ tn.num = g'.instTun.toNat ∧ tn.installing = true ∧ tn.group = g.uid) ∨
          (g'.instStatus.toNat ∈ [1, 2, 3, 4, 5] ∧ t.tuns = s.tuns))) ∧
    (Ready (.tfree h f) h s g sp → g.kGuard h = true → s.draws = [] → (g.sReg f.a.toNat).toNat < 4096 →
      let num := (g.sReg f.a.toNat).toNat
      (∀ tn, s.tun? num = some tn → tn.part = fld g.partid 0 4 → tn.installing = false → (∀ x ∈ tn.slots, x.firing = false) →
        ∃ t g', exec (.tfree h f) s = .next t ∧ MemoryEnds t g g' sp 12 5 s.uid none ∧ t.tuns = s.tuns.filter (fun x => x.num != num) ∧ SameMemory s t) ∧
      ((s.tun? num = none ∨ ∃ tn, s.tun? num = some tn ∧ tn.part ≠ fld g.partid 0 4) →
        ∃ t g', exec (.tfree h f) s = .next t ∧ MemoryEnds t g g' sp 12 5 s.uid none ∧ OnlyGroup s t g g')) ∧
    (Ready (.tstat h f) h s g sp → g.kGuard h = true → sp.pend.length < 16 → ∀ (tn : Tun) (v : DWord),
      s.tun? ((g.sReg f.a.toNat).toNat % 4096) = some tn → tn.part = fld g.partid 0 4 →
      (f.x.toNat, v) ∈ [(0, dw (g.instTun.toNat * 256 + g.instStatus.toNat)), (1, if g.instStatus = 5 then g.instAddr else 0),
        (2, tn.refused ++ tn.fires), (3, tn.overrun ++ tn.abandoned), (4, tn.faulted.zeroExtend 64)] →
      ∃ t g' sp', exec (.tstat h f) s = .next t ∧ OnlyGroup s t g g' ∧ OnlySplit g g' sp sp' ∧ g' = { g with splits := g'.splits } ∧
        sp' = { sp with pc := sp.pc + 12, status := .parked (.statuses s.uid), lastTrap := sp'.lastTrap, fenceWait := none,
                        pend := sp.pend ++ [{ op := s.uid, writes := [.s f.d.toNat v] }] }) ∧
    (Ready (.tdraw h f) h s g sp → mustWait s g sp (ordOf f) = false → sp.pend = [] → g.gstate = .resident → s.draws = [] → s.remotes = [] → f.mo = 0 →
      ∀ (l pa : Nat) (e : TlbEntry) (tn : Tun),
      let n := tyBits f.ty / 8
      let last := (g.sReg f.c.toNat).extractLsb' 0 32
      let va := (drawAddr g l f).toNat
      let slot := (va - tn.drawVa) / tn.drawStride
      let place := (va - tn.drawVa) % tn.drawStride
      let w := tn.status s slot
      activeLanes g sp h = [l] → globalCheck s (splitCtx g sp) needR (drawAddr g l f) n = (s, .ok (.draw pa e)) → s.tun? e.tunid.toNat = some tn →
      tn.installing = false → tn.drawVa ≤ va → va + n ≤ tn.drawVa + tn.nslots * tn.drawStride →
      slotPoisoned s tn slot 0 = false → slotPoisoned s tn slot place = false →
      (imageReady w last = true → slot * tn.drawStride / 65536 = (slot * tn.drawStride + tn.drawStride - 1) / 65536 → Memory.wf s.hbm = true →
        ∃ t g' sp', exec (.tdraw h f) s = .next t ∧ t.group? g.uid = some g' ∧ OnlySplit g g' sp sp' ∧ g'.counter 5 = g.counter 5 + 1 ∧
          g' = { g with splits := g'.splits, flights := g'.flights } ∧
          sp' = { sp with pc := sp.pc + 12, status := .ready, readySince := s.clock, aging := 0, lastTrap := sp'.lastTrap, fenceWait := none, acqSig := sp'.acqSig,
                          pend := [{ op := s.uid, writes := vWrites l f.d.toNat (n / 4) (drawRead s tn (slot * tn.drawStride + place) n) }] } ∧
          tn.status t slot = if f.rm.getLsbD 0 = true ∧ slotState w = 1 then slotSeq w else w) ∧
      (imageReady w last = false → f.x ≠ 0 → ∃ t g' sp', exec (.tdraw h f) s = .next t ∧ SameMemory s t ∧ t.group? g.uid = some g' ∧
        OnlySplit g g' sp sp' ∧ sp'.status = .parked (.tdraw s.uid) ∧ sp'.pc = sp.pc ∧ (∃ d, t.draws = [d] ∧ d.lanes = [(l, drawAddr g l f, tn.num, slot, place)])))

/-! ### Collectives of teams and populations -/

/-- R38, R39, R41 to R47, R261, R262: RACK and RESAMP park their split; their effects happen when every split of the team, or of the grid, has come. RACK packs the lanes
whose predicate holds into the first groups, in order of old GROUPID and LANEID; groups left without lanes are gone. RESAMP's counts add up to the target, and the
threads are numbered anew, each with its own count of places: the original stays, and the clones take the free positions of its group in order; with a target
of 0 every group leaves; a population without weight or beyond POPCAP is left as it is. -/
def Obligations.CollectivesRepackAndResample : Prop :=
  (∀ (h : Hdr) (f : LongF) (s : State) (g : Group) (sp : Split),
    (Ready (.rack h f) h s g sp → h.g = 7 → h.gn = false →
      let waits : SplitStatus := .parked (.rack f.a.toNat (encode (.rack h f)))
      exec (.rack h f) s = .next (s.setGroup (g.setSplit { sp with status := waits }))) ∧
    (∀ r, Ready (.resamp h f) h s g sp → s.grid? g.grid = some r → r.kind = .population →
      let waits : SplitStatus := .parked (.resamp f.d.toNat f.a.toNat (g.sReg f.b.toNat) (if f.mo.getLsbD 0 then some (g.sReg f.c.toNat) else none)
        (maskOf (activeLanes g sp h)) (encode (.resamp h f)))
      exec (.resamp h f) s = .next (s.setGroup (g.setSplit { sp with status := waits })))) ∧
  (∀ (team : Nat) (s : State) (tm : Team) (k : Nat) (pc : CodeAddr) (w : Nat),
    let gs := sortGroups (teamGroups s tm.uid) (·.groupid)
    let lanes := survivors gs k
    s.team? team = some tm → rackReady s tm = true → rackFails gs = false → (gs.map (·.uid)).Nodup → (∀ gr ∈ gs, s.group? gr.uid = some gr) →
    (∀ gr ∈ gs, gr.width = w ∧ ∀ x ∈ gr.splits, x.pc = pc ∧ ∃ insn, x.status = .parked (.rack k insn)) →
    (∃ gr ∈ gs, gr.splits ≠ []) → lanes ≠ [] →
    ∃ t, exec (.rackEffect team) s = .next t ∧ ∀ n gr, gs[n]? = some gr →
      let mine := (lanes.drop (n * w)).take w
      (mine ≠ [] → ∃ g' x, t.group? gr.uid = some g' ∧ g'.groupid = n ∧ g'.lanes = mine ++ List.replicate (w - mine.length) {} ∧
        g'.splits = [x] ∧ x.pc = pc + 12 ∧ x.status = .ready) ∧
      (mine = [] → t.group? gr.uid = none)) ∧
  (∀ (ws : List Nat) (n w : Nat) (u : DWord), ws.sum = w → 0 < w →
    (countsFrom n w u 0 ws).sum = n ∧ (countsFrom n w u 0 ws).length = ws.length ∧
    ∀ i x : Nat, ws[i]? = some x → ∃ y : Nat, (countsFrom n w u 0 ws)[i]? = some y ∧ y ≤ n * x / w + 1 ∧ n * x / w ≤ y) ∧
  (∀ (s : State) (r : Grid),
    let gs := gridGroups s r.uid
    let ts := threadsOf gs
    let weight := (ts.map (·.weight)).sum
    s.grid? r.uid = some r → resampReady s r = true → (gs.map (·.uid)).Nodup → (∀ gr ∈ gs, s.group? gr.uid = some gr) →
    (∀ gr ∈ gs, ∀ x ∈ gr.splits, x.inUser = false ∧ heldBack x = false) → ∀ (gr0 : Group) (sp0 : Split) (a : ResampArgs), gs.head? = some gr0 →
    gr0.splits.head? = some sp0 → resampPark sp0 = some a →
    let n := a.target.toNat
    let counts := countsFrom n weight (match a.u with | some u => u | none => popOffset r) 0 (ts.map (·.weight))
    ((weight = 0 ∨ r.popcap.toNat < n) → (∃ gr ∈ gs, gr.liveMask ≠ 0) → ∃ t r', exec (.resampEffect r.uid) s = .next t ∧ t.grid? r.uid = some r' ∧ r'.popsize = r.popsize ∧
      r'.popgen = r.popgen ∧ ∀ gr ∈ gs, gr.liveMask ≠ 0 → ∃ g', t.group? gr.uid = some g' ∧ g'.lanes = gr.lanes) ∧
    (weight ≠ 0 → 0 < n → n ≤ r.popcap.toNat → (∀ y ∈ counts, y ≤ 1) → ∃ t r', exec (.resampEffect r.uid) s = .next t ∧ t.grid? r.uid = some r' ∧
      r'.popsize = wd n ∧ r'.popgen = r.popgen + 1 ∧
      ∀ (i : Nat) (th : Thread), ts[i]? = some th → counts[i]? = some 1 → ∃ g', t.group? th.spot.group = some g' ∧
        g'.lane th.spot.lane = { th.lane with popidx := wd (counts.take i).sum, parent := th.lane.popidx, copy := 0 }) ∧
    (weight ≠ 0 → 0 < n → n ≤ r.popcap.toNat → gs = [gr0] → n ≤ gr0.width → gr0.width ≤ 64 → ∃ t r' g', exec (.resampEffect r.uid) s = .next t ∧ t.grid? r.uid = some r' ∧
      r'.popsize = wd n ∧ r'.popgen = r.popgen + 1 ∧ t.group? gr0.uid = some g' ∧
      let stays (l : Nat) : Bool := (ts.zip counts).any (fun q => q.1.spot.lane == l && decide (0 < q.2))
      let free : List Nat := (List.range gr0.width).filter (fun l => !stays l)
      let clones : List (Nat × Nat) := (List.range counts.length).flatMap (fun i => (List.range (counts.getD i 0 - 1)).map (fun j => (i, j + 1)))
      (∀ (i c : Nat) (th : Thread), ts[i]? = some th → counts[i]? = some c → 0 < c →
        g'.lane th.spot.lane = { th.lane with popidx := wd (counts.take i).sum, parent := th.lane.popidx, copy := 0 }) ∧
      (∀ (m i j l : Nat) (th : Thread), clones[m]? = some (i, j) → free[m]? = some l → ts[i]? = some th →
        g'.lane l = { th.lane with popidx := wd ((counts.take i).sum + j), parent := th.lane.popidx, copy := wd j, privbase := (g'.lane l).privbase } ∧
        (r.priv = 0 → (g'.lane l).privbase = th.lane.privbase)) ∧
      (∀ l, l < gr0.width → (g'.lane l).live = (stays l || (free.take clones.length).contains l))) ∧
    (weight ≠ 0 → n = 0 → ∃ t r', exec (.resampEffect r.uid) s = .next t ∧ t.grid? r.uid = some r' ∧ r'.popsize = 0 ∧ r'.popgen = r.popgen + 1 ∧
      ∀ gr ∈ gs, t.group? gr.uid = none))

/-! ### Lauter programs -/

/-- R263 to R266: LXSTART, LXSTAT and LXKILL. A start with room appends a program to its engine, with its four arguments in X1 to X4, and will write the handle; LXSTAT
will write the state of the program its handle names; LXKILL ends a program its team has started, a running one once its writes are performed, a faulted one with
its fault discarded, and passes over any other. -/
def Obligations.LauterProgramsAreStartedWatchedAndStopped : Prop :=
  ∀ (h : Hdr) (f : LongF) (s : State) (g : Group) (sp : Split), g.kGuard h = true → g.counter 3 < 63 →
    (Ready (.lxstart h f) h s g sp → sp.pend.length < 16 → (g.sReg f.a.toNat).toNat < 2 ^ 54 → (g.sReg f.a.toNat).toNat % 8 = 0 → ∀ r : EngRef,
      (r = if f.x.getLsbD 1 then (if (s.engine ⟨g.core, 1⟩).progs.length < (s.engine ⟨g.core, 0⟩).progs.length then ⟨g.core, 1⟩ else ⟨g.core, 0⟩)
        else ⟨g.core, if f.x.getLsbD 0 then 1 else 0⟩) →
      ((s.engine r).progs.length < 8 → ∃ t g' sp' p, exec (.lxstart h f) s = .next t ∧ t.group? g.uid = some g' ∧ OnlySplit g g' sp sp' ∧ SameMemory s t ∧
        g' = { g with splits := g'.splits, flights := g.flights ++ [{ path := 3, op := s.uid, done := false }] } ∧
        sp' = { sp with pc := sp.pc + 12, lastTrap := sp'.lastTrap, fenceWait := none, pend := sp'.pend } ∧
        sp'.pend = sp.pend ++ [⟨s.uid, [.s f.d.toNat (dw (r.core * 2 ^ 40 + r.eng * 2 ^ 32 + (s.engine r).accepted.toNat))], false⟩] ∧
        (t.engine r).progs = (s.engine r).progs ++ [p] ∧ (t.engine r).accepted = (s.engine r).accepted + 1 ∧ p.serial = (s.engine r).accepted ∧
        p.state = .queued ∧ p.pc = (g.sReg f.a.toNat).extractLsb' 0 54 ∧ p.group = g.uid ∧ p.loops = [] ∧
        ∀ n : Nat, n < 16 → p.xReg (BitVec.ofNat 4 n) = if 1 ≤ n ∧ n ≤ 4 then g.sReg (f.b.toNat + (n - 1)) else 0) ∧
      (8 ≤ (s.engine r).progs.length → exec (.lxstart h f) s = .next (s.setGroup (g.setSplit { sp with status := .stalled (.engine (if f.x.getLsbD 1 then [⟨g.core, 0⟩, ⟨g.core, 1⟩] else [r])) })))) ∧
    (Ready (.lxstat h f) h s g sp → sp.pend.length < 16 → ∃ t g' sp', exec (.lxstat h f) s = .next t ∧ OnlyGroup s t g g' ∧ OnlySplit g g' sp sp' ∧
      g' = { g with splits := g'.splits } ∧ sp' = { sp with pc := sp.pc + 12, lastTrap := sp'.lastTrap, fenceWait := none, pend := sp'.pend } ∧
      sp'.pend = sp.pend ++ [⟨s.uid, [.s f.d.toNat (dw (lxStatus s (fld g.partid 0 4) (g.sReg f.a.toNat)))], false⟩]) ∧
    (∀ (r : EngRef) (p : Program) (part : Nat), r.core < 192 → r.eng < 2 → (s.engine r).progs.find? (fun x => x.serial == p.serial) = some p →
      p.ctx.part = part → lxStatus s part (dw (r.core * 2 ^ 40 + r.eng * 2 ^ 32 + p.serial.toNat)) =
        match p.state with
        | .queued => 0
        | .faulted x => x.code.toNat * 256 + 2
        | _ => 1) ∧
    (Ready (.lxkill h f) h s g sp → ∀ (r : EngRef) (p : Program), r.core < 192 → r.eng < 2 →
      g.sReg f.a.toNat = dw (r.core * 2 ^ 40 + r.eng * 2 ^ 32 + p.serial.toNat) → (s.engine r).progs.find? (fun x => x.serial == p.serial) = some p →
      p.ctx.team = some g.team →
      let stoppable : Prop := p.state ≠ .queued ∧ ∀ st code, p.state ≠ .ending st code
      let discarded (t : State) : Prop := ∀ g', (∃ x, p.state = .faulted x) → t.group? p.group = some g' →
        ∀ x ∈ g'.lxfaults, ¬ (x.core = r.core ∧ x.eng = r.eng ∧ x.serial = p.serial)
      (p.state = .queued ∨ (stoppable ∧ progDrained s r p = true) → p.packet = none →
        ∃ t, exec (.lxkill h f) s = .next t ∧ SameMemory s t ∧ (t.engine r).progs = (s.engine r).progs.filter (fun x => x.serial != p.serial) ∧
          (t.engine r).finished.getLast? = some { serial := p.serial, part := p.ctx.part, state := 5, code := 0 } ∧ discarded t ∧
          ∀ g', t.group? p.group = some g' → ∀ x ∈ g'.flights, x.op = p.flight → x.done = true) ∧
      (stoppable → progDrained s r p = false → s.prog? r = some p →
        ∃ t, exec (.lxkill h f) s = .next t ∧ SameMemory s t ∧ t.prog? r = some { p with state := .ending 5 0 } ∧ discarded t)) ∧
    (Ready (.lxkill h f) h s g sp → (∀ r serial, handleOf (g.sReg f.a.toNat) = some (r, serial) → ∀ p, (s.engine r).progs.find? (fun x => x.serial == serial) = some p →
        p.ctx.team ≠ some g.team) → Completes (.lxkill h f) s g sp (sp.pc + 12) (fun g' => g' = { g with splits := g'.splits }))

/-- R266, R269, R271 to R274: registers, branches and loops of a program. X0 reads zero. A taken branch goes to the address its offset gives and leaves the loops whose bodies
do not hold it; LOOP begins a body, passes over it with a count of 0, and faults LSTACK on a fifth entry or a body that is not inside the one below; at a body's end
control goes back while rounds remain. An illegal word faults ILLOP. -/
def Obligations.LauterRegistersBranchesAndLoops : Prop :=
  ∀ (f : LauterF) (s : State) (r : EngRef) (p : Program),
    let a := p.xReg f.a
    let b := p.xReg f.b
    let target : CodeAddr := p.pc + 8 + 8 * f.imm32.signExtend 54
    (∀ (i : Instr) (v : DWord), (i, v) ∈ [(Instr.lauterLi f, f.imm32.signExtend 64), (.lauterLih f, f.imm32 ++ (p.xReg f.d).extractLsb' 0 32),
        (.lauterMov f, a), (.lauterAdd f, a + b), (.lauterSub f, a - b), (.lauterMul f, a * b), (.lauterAnd f, a &&& b), (.lauterOr f, a ||| b),
        (.lauterXor f, a ^^^ b), (.lauterShl f, if b.toNat < 64 then a <<< b.toNat else 0), (.lauterShr f, if b.toNat < 64 then a >>> b.toNat else 0),
        (.lauterAddi f, a + f.imm32.signExtend 64)] →
      Runs i s r p → p.straight → exec i s = .next (s.setHead r (p.setX f.d v).after)) ∧
    (∀ (i : Instr) (c : Bool), (i, c) ∈ [(Instr.lauterBeq f, decide (a = b)), (.lauterBne f, decide (a ≠ b)), (.lauterBlt f, decide (a.toInt < b.toInt)),
        (.lauterBge f, decide (b.toInt ≤ a.toInt)), (.lauterJmp f, true)] →
      Runs i s r p → (c = false → p.straight → exec i s = .next (s.setHead r p.after)) ∧
      (c = true →
        let kept := p.loops.dropWhile (fun e => !(decide (e.start.toNat ≤ target.toNat) && decide (target.toNat < e.stop.toNat)))
        exec i s = .next (s.setHead r { p with pc := target, state := .running, deliv := 0, got := [], inMove := false, loops := kept }))) ∧
    (Runs (.lauterLoop f) s r p →
      let count : DWord := if f.a = 0 then f.imm12.zeroExtend 64 else a
      (count = 0 → (∀ e ∈ p.loops, e.stop ≠ target) →
        exec (.lauterLoop f) s = .next (s.setHead r { p with pc := target, state := .running, deliv := 0, got := [], inMove := false })) ∧
      (count ≠ 0 → p.loops.length < 4 → (∀ e, p.loops.head? = some e → target.toNat ≤ e.stop.toNat) →
        exec (.lauterLoop f) s = .next (s.setHead r { p with pc := p.pc + 8, loops := { start := p.pc + 8, stop := target, remaining := count } :: p.loops })) ∧
      (count ≠ 0 → (4 ≤ p.loops.length ∨ ∃ e, p.loops.head? = some e ∧ e.stop.toNat < target.toNat) →
        exec (.lauterLoop f) s = .next (faultProgram s r p f { code := 0x40 }))) ∧
    (∀ (e : LoopEntry) (es : List LoopEntry), p.loops = e :: es →
      (1 < e.remaining.toNat → p.flow e.stop = { p with pc := e.start, state := .running, deliv := 0, got := [], inMove := false, loops := { e with remaining := e.remaining - 1 } :: es }) ∧
      (e.remaining.toNat ≤ 1 → p.flow e.stop = { p with loops := es }.flow e.stop)) ∧
    (∀ (n m : BitVec 4) (v : DWord), (p.setX n v).xReg m = if m = n ∧ n ≠ 0 then v else p.xReg m) ∧ p.xReg 0 = 0 ∧
    (∀ i ∈ [Instr.lauterMov f, .lauterLdx f, .lauterMovt f, .lauterEnd f], s.currentProg? = some (r, p) → i.wellFormed = false →
      exec i s = .next (faultProgram s r p f { code := 0x01 }))

/-- R267, R272, R275 to R278: LDX and STX of every order, DSET, DIDX and DSTEP. A release waits for the program's writes. A load of global memory sees the dirty bytes of its core's L1 and allocates nothing; a store goes to the
home. DSET takes eight quadwords when their format is right and else faults DESCFMT; DIDX sets one INDEX below its extent; DSTEP counts the outer dimensions like an
odometer and tells when the highest wrapped. Element k of a sub-tensor of any rank lies at BASE plus, over the dimensions, coordinate times STRIDE, in elements.
Which address a fault of DSET, DIDX or DSTEP reports is the model's choice: log entry 60. -/
def Obligations.LauterAccessesAndDescriptors : Prop :=
  ∀ (f : LauterF) (s : State) (r : EngRef) (p : Program) (l : Loc),
    let n := 2 ^ (f.imm12.toNat % 4)
    let space := spaceOf (f.imm12.toNat / 4 % 4)
    let addr := p.xReg f.a + f.imm32.signExtend 64
    let sz := if f.imm12.toNat / 16 % 8 = 0 then true else false
    s.memoriesWf = true → p.straight → (s.engine r).progs ≠ [] →
    (Runs (.lauterLdx f) s r p → progWaits s r p (progOrd s p f) = false → ActsAt s p.ctx space needR addr n l →
      (∃ t q, exec (.lauterLdx f) s = .next t ∧ (sigAt s l n = [] → SameMemory s t) ∧ t.prog? r = some q ∧
        q = { (p.setX f.d (dw (bytesAt s l n))).after with acqSig := q.acqSig }) ∧
      (sz = true → exec (.lauterLdx f) s = .next (s.setHead r (p.setX f.d (dw (bytesAt s l n))).after))) ∧
    (∀ (pa : Nat) (c : CacheLine), Runs (.lauterLdx f) s r p → sz = true → space = .global → Reaches54 s p.ctx needR addr n pa →
      poisoned s (.hbm pa) = false → cacheLine? s .l1 p.ctx.core (pa / 128) = some c →
      ∃ v : Nat, exec (.lauterLdx f) s = .next (s.setHead r (p.setX f.d (dw v)).after) ∧ ∀ i, i < n → v / 256 ^ i % 256 =
        if c.dirty.getLsbD (pa % 128 + i) then c.bytes (pa % 128 + i) 1 else (memRead s.hbm (pa + i)).toNat) ∧
    (Runs (.lauterStx f) s r p → progWaits s r p (progOrd s p f) = false → ActsAt s p.ctx space needW addr n l → ∃ t, exec (.lauterStx f) s = .next t ∧
      StoresAt s t l n ((p.xReg f.d).toNat % 256 ^ n) ∧ t.prog? r = some p.after) ∧
    (∀ i, i ∈ [Instr.lauterLdx f, .lauterStx f] → Runs i s r p → progWaits s r p (progOrd s p f) = true → p.got = [] → exec i s = .next s) ∧
    (Runs (.lauterDset f) s r p → ActsAt s p.ctx space needR addr 64 l →
      let d : Desc := (List.range 8).map (fun i => dw (bytesAt s l 64 / 2 ^ (64 * i)))
      exec (.lauterDset f) s = .next (if descBad d then faultProgram s r p f { code := 0x42, addr := addr } else s.setHead r (p.setDesc f.d d).after)) ∧
    (Runs (.lauterDidx f) s r p →
      let d := p.desc f.d
      let k := f.imm12.toNat
      (Desc.ndim d ≤ k → exec (.lauterDidx f) s = .next (faultProgram s r p f { code := 0x01 })) ∧
      (k < Desc.ndim d → Desc.extent d k ≤ (p.xReg f.a).toNat → exec (.lauterDidx f) s = .next (faultProgram s r p f { code := 0x09 })) ∧
      (k < Desc.ndim d → (p.xReg f.a).toNat < Desc.extent d k → ∃ d', exec (.lauterDidx f) s = .next (s.setHead r (p.setDesc f.d d').after) ∧
        Desc.index d' k = (p.xReg f.a).toNat ∧ ∀ j, j ≠ k → Desc.index d' j = Desc.index d j)) ∧
    (Runs (.lauterDstep f) s r p →
      let d := p.desc f.d
      (Desc.ndim d = 0 → exec (.lauterDstep f) s = .next (faultProgram s r p f { code := 0x42 })) ∧
      (descBad d = false → ∃ d' w, exec (.lauterDstep f) s = .next (s.setHead r ((p.setDesc f.d d').setX f.a w).after) ∧ (w = 0 ∨ w = 1) ∧
        (Desc.ndim d = Desc.tdim d → w = 1) ∧ (Desc.tdim d < Desc.ndim d → Desc.index d (Desc.tdim d) + 1 < Desc.extent d (Desc.tdim d) → w = 0 ∧
          Desc.index d' (Desc.tdim d) = Desc.index d (Desc.tdim d) + 1 ∧ ∀ j, j ≠ Desc.tdim d → Desc.index d' j = Desc.index d j))) ∧
    (∀ (d : Desc) (c : Nat → Nat) (k : Nat), Desc.tdim d ≤ Desc.ndim d → (∀ i, i < Desc.tdim d → c i < Desc.extent d i) →
      (∀ i, Desc.tdim d ≤ i → c i = Desc.index d i) →
      k = ((List.range (Desc.tdim d)).map (fun i => c i * ((List.range i).map (Desc.extent d)).prod)).sum →
      elemPos d none k = ((List.range (Desc.ndim d)).map (fun i => (c i : Int) * Desc.stride d i)).sum ∧
      (∀ v : Nat, elemPos d (some v) k = ((List.range (Desc.ndim d)).map (fun i => ((if i = Desc.tdim d then v else c i : Nat) : Int) * Desc.stride d i)).sum) ∧
      (storeBits (Desc.fmt d) = 4 → ∀ n : Nat, elemPos d none k = (n : Int) → (Desc.base d).toNat + n / 2 < 2 ^ 64 →
        (elemAt d 0 0 none k).addr = Desc.base d + dw (n / 2) ∧ (elemAt d 0 0 none k).nib = n % 2) ∧
      (∀ b : Nat, storeBits (Desc.fmt d) = 8 * b → 0 < b → ∀ n : Nat, elemPos d none k = (n : Int) → (Desc.base d).toNat + n * b < 2 ^ 64 →
        (elemAt d 0 0 none k).addr = Desc.base d + dw (n * b)))

/-- R278 to R283: the moves, one 64-byte unit at a time. Where source and destination have one format of whole bytes, lie on chip, and no place is written twice, unit DELIV
of MOVT, MCST, GATH or SCAT copies its elements, source and destination numbered as R278 to R282 say, and nothing else; the unit after the last ends the instruction, and
GATH and SCAT then leave their stepped descriptor further on. LRED of one element applies its operation at the element's home with the tag in X[b]. -/
def Obligations.LauterMovesCopyTheirUnits : Prop :=
  ∀ (f : LauterF) (s : State) (r : EngRef) (p : Program) (tm : Team),
    let dd := p.desc f.d
    let ds := p.desc f.a
    let ty := Desc.fmt dd
    let n := tyBits ty / 8
    let per := 64 / n
    let begun := if p.inMove then p.begun else p.begun + 1
    let entry (k : Nat) : Nat := memReadNat s.scratch (tm.uid * 2 ^ 19 + ((p.xReg f.b).toNat + 4 * k)) 4
    let sound (e : Elem) (l : Loc) : Prop := e.space ∈ [1, 2, 3] ∧ e.device = none ∧ e.dec = false ∧ e.fmt = ty ∧
      placeOffset s p.ctx (spaceOf e.space) e.addr.toNat n = .ok (.loc l)
    p.ctx.team = some tm.uid → s.team? tm.uid = some tm → (∀ x ∈ s.teams, x.scratch ≤ 2 ^ 19) → (∀ x ∈ s.grids, x.dieAlloc ≤ 2 ^ 25) → s.memoriesWf = true →
    p.straight → tyBits ty ∈ [8, 16, 32, 64] → p.relFence = none → s.poison = [] →
    (∀ (i : Instr) (total : Nat) (src dst : Nat → Elem) (listed : Nat) (end_ : Program → Program) (from_ to_ : Nat → Loc),
      (i, total, src, dst, listed, end_) ∈ [
        (Instr.lauterMovt f, subCount dd, elemAt ds 0 0 none, elemAt dd 0 0 none, 0, fun q => q),
        (.lauterMcst f, (receivers dd).length * subCount dd, mcstSrc p f, mcstDst p f, 0, fun q => q),
        (.lauterGath f, f.imm32.toNat * subCount dd, fun k => indexedElem ds k (entry (k / subCount ds)), fun k => steppedElem dd k, subCount ds,
          fun q => q.setDesc f.d (stepDesc dd f.imm32.toNat).1),
        (.lauterScat f, f.imm32.toNat * subCount dd, fun k => steppedElem ds k, fun k => indexedElem dd k (entry (k / subCount dd)), subCount dd,
          fun q => q.setDesc f.a (stepDesc ds f.imm32.toNat).1)] →
      Runs i s r p →
      (i = .lauterMovt f → moveBad dd [ds] = false ∧ subCount dd = subCount ds) → (i = .lauterMcst f → mcstBad p f = false) →
      (i = .lauterGath f → gathBad dd ds ds = false) → (i = .lauterScat f → gathBad dd ds dd = false) →
      let unit (k : Nat) : Prop := p.deliv * per ≤ k ∧ k < p.deliv * per + per ∧ k < total
      (∀ k, unit k → sound (src k) (from_ k) ∧ sound (dst k) (to_ k)) → (∀ j k, unit j → unit k → j ≠ k → locMeets (to_ j) n (to_ k) n = false) →
      (listed ≠ 0 → f.imm12.toNat / 4 % 4 = 1 ∧ (p.xReg f.b).toNat % 4 = 0 ∧ ∀ k, unit k → (p.xReg f.b).toNat + 4 * (k / listed) + 4 ≤ tm.scratch ∧
        (i = .lauterGath f → entry (k / listed) < Desc.extent ds (Desc.tdim ds)) ∧ (i = .lauterScat f → entry (k / listed) < Desc.extent dd (Desc.tdim dd))) →
      p.deliv * per < total →
      ∃ t, exec i s = .next t ∧ t.hbm = s.hbm ∧ t.acc = s.acc ∧ (∀ k, unit k → bytesAt t (to_ k) n = bytesAt s (from_ k) n) ∧
        (∀ x, (∀ k m o, unit k → to_ k = .scratch m o → ¬ (m * 2 ^ 19 + o ≤ x ∧ x < m * 2 ^ 19 + o + n)) → memRead t.scratch x = memRead s.scratch x) ∧
        (∀ x, (∀ k m o, unit k → to_ k = .die m o → ¬ (m * 2 ^ 25 + o ≤ x ∧ x < m * 2 ^ 25 + o + n)) → memRead t.dieScratch x = memRead s.dieScratch x) ∧
        t.prog? r = some (if total ≤ (p.deliv + 1) * per then { (end_ p).after with begun := begun }
          else { p with deliv := p.deliv + 1, got := [], state := .running, inMove := true, begun := begun })) ∧
    (∀ (pa : Nat) (l : Loc), Runs (.lauterLred f) s r p → moveBad dd [ds] = false → lredAllowed dd = true → Desc.space dd = 0 → Desc.remote dd = false → subCount dd = 1 →
      subCount ds = 1 → p.deliv = 0 → sound (elemAt ds 0 0 none 0) l →
      let va := (elemAt dd 0 0 none 0).addr
      Reaches54 s p.ctx needRW va n pa → cacheLine? s .l1 p.ctx.core (pa / 128) = none → sigAt s (.hbm pa) n = [] → dltBase s p.ctx.part = 0 →
      s.redt.find? (fun w => w.slice == homeSliceOf pa && w.src == p.src) = none → (s.redt.filter (fun w => w.slice == homeSliceOf pa)).length < 1024 →
      let op := match Desc.rop dd with | 0 => 0 | 1 => 2 | 2 => 3 | 3 => 4 | 4 => 5 | 5 => 6 | 6 => 10 | 7 => 11 | _ => 12
      ∃ t, exec (.lauterLred f) s = .next t ∧ t.prog? r = some { p.after with begun := begun } ∧ StoresAt s t (.hbm pa) n (rmwValue op ty (bytesAt s l n) (memReadNat s.hbm pa n)) ∧
        ∃ w, t.redt.find? (fun w => w.slice == homeSliceOf pa && w.src == p.src) = some w ∧ w.high = (p.xReg f.b).extractLsb' 0 32)

/-- R74, R87, R284 to R289: FILL, ARRV, WAITB, FENCE, ABORT and END of a program all of whose own writes are performed. FILL moves WPTR on when slots are free and else poisons the
ring and faults RINGFULL. ARRV counts as ARRIVE does. WAITB goes on once its ring has the slots, or its word's phase has changed, and else waits. ABORT and END finish
the program, with its code or without. That RINGFULL reports the header's address is the model's choice: log entry 60. -/
def Obligations.LauterSynchronisation : Prop :=
  ∀ (f : LauterF) (s : State) (r : EngRef) (p : Program) (l : Loc),
    let space := spaceOf (f.imm12.toNat / 4 % 4)
    let addr := p.xReg f.a + f.imm32.signExtend 64
    let count : Nat := if f.b = 0 then 1 else (p.xReg f.b).toNat % 2 ^ 32
    let hd : Nat := bytesAt s l 32
    let wptr : Nat := hd / 2 ^ 64 % 2 ^ 32
    let used : Nat := (wptr + 2 ^ 32 - hd / 2 ^ 128 % 2 ^ 32) % 2 ^ 32
    let free : Int := ((hd / 2 ^ 160 % 2 ^ 7 : Nat) : Int) - (used : Int)
    let w : Nat := bytesAt s l 8
    let goesOn (t : State) : Prop := ∃ q, t.prog? r = some q ∧ q = { p.after with bound := q.bound, boundMore := q.boundMore, acqSig := q.acqSig }
    s.memoriesWf = true → p.straight → (s.engine r).progs ≠ [] → progDrained s r p = true → addr.toNat < 2 ^ 54 → p.relFence = none →
    (Runs (.lauterFill f) s r p → space ≠ .global → ActsAt s p.ctx space needRW addr 32 l → sigAt s l 32 = [] → ringBad hd = false → bit hd 191 = false →
      ((count : Int) ≤ free → ∃ t q, exec (.lauterFill f) s = .next t ∧ StoresAt s t l 32 (hd - wptr * 2 ^ 64 + (wptr + count) % 2 ^ 32 * 2 ^ 64) ∧ goesOn t ∧
        t.prog? r = some q ∧ q.bound.head? = some (true, BitVec.ofNat 2 (f.imm12.toNat / 4 % 4), addr)) ∧
      (free < (count : Int) → ∃ m q, exec (.lauterFill f) s = .next (faultProgram m r q f { code := 0x41, addr := addr }) ∧
        StoresAt s m l 32 (hd + 2 ^ 191) ∧ q = { p with bound := q.bound, boundMore := q.boundMore })) ∧
    (Runs (.lauterArrv f) s r p → ActsAt s p.ctx space needRW addr 8 l → sigAt s l 8 = [] → bit w 62 = false →
      (count < w % 2 ^ 32 → ∃ t, exec (.lauterArrv f) s = .next t ∧ StoresAt s t l 8 (w - count) ∧ goesOn t) ∧
      (count = w % 2 ^ 32 → 0 < count → ∃ t, exec (.lauterArrv f) s = .next t ∧ goesOn t ∧
        StoresAt s t l 8 ((if bit w 63 then 0 else 2 ^ 63) + w / 2 ^ 32 % 2 ^ 30 * 2 ^ 32 + w / 2 ^ 32 % 2 ^ 30))) ∧
    (Runs (.lauterWaitb f) s r p →
      (f.imm12.toNat % 4 = 1 → space ≠ .global → ActsAt s p.ctx space needRW addr 32 l → sigAt s l 32 = [] → ringBad hd = false → bit hd 191 = false → count ≤ hd / 2 ^ 160 % 2 ^ 7 →
        ((count : Int) ≤ free → ∃ t, exec (.lauterWaitb f) s = .next t ∧ SameMemory s t ∧ goesOn t) ∧
        (free < (count : Int) → ∃ t q, exec (.lauterWaitb f) s = .next t ∧ SameMemory s t ∧ t.prog? r = some q ∧
          q = { p with state := .waiting f, got := [], bound := q.bound, boundMore := q.boundMore })) ∧
      (f.imm12.toNat % 4 ≠ 1 → ActsAt s p.ctx space needR addr 8 l → sigAt s l 8 = [] → bit w 62 = false →
        (bit w 63 ≠ (p.xReg f.b).getLsbD 0 → ∃ t, exec (.lauterWaitb f) s = .next t ∧ SameMemory s t ∧ goesOn t) ∧
        (bit w 63 = (p.xReg f.b).getLsbD 0 → ∃ t q, exec (.lauterWaitb f) s = .next t ∧ SameMemory s t ∧ t.prog? r = some q ∧
          q = { p with state := .waiting f, got := [], bound := q.bound, boundMore := q.boundMore }))) ∧
    (Runs (.lauterFence f) s r p → p.acqSig = [] → ∃ t q, exec (.lauterFence f) s = .next t ∧ SameMemory s t ∧ t.prog? r = some q ∧
      q = { p.after with relFence := q.relFence } ∧ (f.imm12.toNat / 16 % 8 = 3 → q.relFence = some (BitVec.ofNat 4 (f.imm12.toNat / 128)))) ∧
    (Runs (.lauterAbort f) s r p → exec (.lauterAbort f) s = .next (finishProgram s r p 4 (f.imm32.extractLsb' 0 8))) ∧
    (Runs (.lauterEnd f) s r p → exec (.lauterEnd f) s = .next (finishProgram s r p 3 0)) ∧
    (∀ st code, p.packet = none → ∃ x, (finishProgram s r p st code).engine r = x ∧ x.progs = (s.engine r).progs.filter (fun q => q.serial != p.serial) ∧
      x.finished.getLast? = some { serial := p.serial, part := p.ctx.part, state := st, code := code } ∧
      ∀ g, s.group? p.group = some g → ∃ g', (finishProgram s r p st code).group? p.group = some g' ∧ ∀ x ∈ g'.flights, x.op = p.flight → x.done = true)

/-! ### Queue programs -/

/-- R352, R354 to R357: every instruction of a steep. The register forms write Q[d], LDPF reads and STPF writes the packet copy, of whose header SEQ, HOOK, LINKS and PHASE
keep their values; LDW, STW and SIGNAL load, store and add at the place their window names; BZ and BNZ branch forward; LOOP runs its body count times; EMIT reads a
packet; WAITV goes on when its word is Q[d], else parks; FAULTQ, a word beyond the budget and a ninth EMIT fault the queue; END and DROP end the run with the packet
accepted. -/
def Obligations.SteepRunsExecuteTheirWords : Prop :=
  ∀ (f : SteepF) (s : State) (x : SteepRun),
    let b := x.reg f.a + f.imm.signExtend 64
    let q := x.reg f.d
    let r : QueueRef := ⟨x.ref.part, x.ref.queue⟩
    s.memoriesWf = true → x.straight (x.pc + 1) →
    (∀ (i : Instr) (v : DWord), (i, v) ∈ [(Instr.steepMov f, b), (.steepAdd f, q + b), (.steepSub f, q - b), (.steepAnd f, q &&& b), (.steepOr f, q ||| b),
        (.steepShl f, if 64 ≤ b.toNat then 0 else q <<< b.toNat), (.steepShr f, if 64 ≤ b.toNat then 0 else q >>> b.toNat),
        (.steepLdpf f, x.pkt.getD f.imm.toNat 0)] → Steeps i s x → WritesQ i s x f.d v) ∧
    (Steeps (.steepLdi f) s x → ∃ v, WritesQ (.steepLdi f) s x f.d v ∧ (f.a = 0 → v = f.imm.signExtend 64) ∧
      (f.a ≠ 0 → ∀ k, k < 64 → v.getLsbD k =
        if 16 * f.a.toNat ≤ k ∧ k < 16 * f.a.toNat + 16 then f.imm.getLsbD (k - 16 * f.a.toNat) else q.getLsbD k)) ∧
    (Steeps (.steepStpf f) s x → ∃ y, RunBecomes (.steepStpf f) s x y ∧ y = { x.after (x.pc + 1) with pkt := y.pkt } ∧
      (∀ n, n ≠ f.imm.toNat → y.pkt.getD n 0 = x.pkt.getD n 0) ∧ ∀ k, k < 64 → (y.pkt.getD f.imm.toNat 0).getLsbD k =
        if f.imm = 0 ∧ (k = 8 ∨ 16 ≤ k) then (x.pkt.getD 0 0).getLsbD k else q.getLsbD k) ∧
    (∀ (a : DWord) (pa : Nat), sigAt s (.hbm pa) 8 = [] →
      (Steeps (.steepLdw f) s x → WindowAt s x f needR 8 a pa → ∃ t y, exec (.steepLdw f) s = .next t ∧ OnlyRun s t x y ∧ SameMemory s t ∧
        y = { x.after (x.pc + 1) with q := y.q } ∧ ∀ k, y.reg k = if k = f.d ∧ f.d ≠ 0 then BitVec.ofNat 64 (memReadNat s.hbm pa 8) else x.reg k) ∧
      (Steeps (.steepStw f) s x → WindowAt s x f needW 8 a pa → ∃ t, exec (.steepStw f) s = .next t ∧ OnlyRun s t x (x.after (x.pc + 1)) ∧
        StoresAt s t (.hbm pa) 8 q.toNat) ∧
      (Steeps (.steepSignal f) s x → WindowAt s x f needRW 8 a pa → poisoned s (.hbm pa) = false → ∃ t, exec (.steepSignal f) s = .next t ∧
        OnlyRun s t x (x.after (x.pc + 1)) ∧ StoresAt s t (.hbm pa) 8 (memReadNat s.hbm pa 8 + q.toNat)) ∧
      (Steeps (.steepWaitv f) s x → WindowAt s x f needR 8 a pa → ∃ t, exec (.steepWaitv f) s = .next t ∧ SameMemory s t ∧
        OnlyRun s t x (if memReadNat s.hbm pa 8 = q.toNat then x.after (x.pc + 1) else { x with waitv := some (x.waitv.getD s.clock) }))) ∧
    (∀ i, i ∈ [Instr.steepBz f, .steepBnz f] → Steeps i s x → x.straight (x.pc + 1 + f.imm.toNat) →
      RunBecomes i s x (x.after (if (x.reg f.a = 0) ↔ (i = .steepBz f) then x.pc + 1 + f.imm.toNat else x.pc + 1))) ∧
    (Steeps (.steepLoop f) s x → ∃ y, RunBecomes (.steepLoop f) s x y ∧ y.pc = x.pc + 1 ∧ y.count = x.count + 1 ∧ y.q = x.q ∧ y.pkt = x.pkt ∧
      y.loops = ⟨x.pc + 1, x.pc + 1 + f.imm.toNat / 256, f.imm.toNat % 256⟩ :: x.loops) ∧
    (∀ (e : SteepLoopEntry) (x' : SteepRun), x' = { x with loops := e :: x.loops } → e.stop = x.pc + 1 → f.d = 0 → Steeps (.steepMov f) s x' →
      RunBecomes (.steepMov f) s x' (if 1 < e.left then { x'.after e.start with loops := { e with left := e.left - 1 } :: x.loops } else x.after (x.pc + 1))) ∧
    (Steeps (.steepEmit f) s x →
      (x.emits.length < 8 → ∀ (a : DWord) (pa : Nat), WindowAt s x f needR 64 a pa → (∀ k, k < 8 → sigAt s (.hbm (pa + 8 * k)) 8 = []) →
        ∃ t, exec (.steepEmit f) s = .next t ∧ SameMemory s t ∧ OnlyRun s t x { x.after (x.pc + 1) with
          emits := x.emits ++ [⟨(List.range 8).map (fun k => BitVec.ofNat 64 (memReadNat s.hbm (pa + 8 * k) 8)),
            (List.range 5).map (fun j => (s.part r.part).devReg (0x40 + 8 * j))⟩] }) ∧
      (8 ≤ x.emits.length → exec (.steepEmit f) s = .next (hookFault s x))) ∧
    (Steeps (.steepFaultq f) s x → exec (.steepFaultq f) s = .next (hookFault s x)) ∧
    (∀ i, i ∈ [Instr.steepMov f, .steepLdw f, .steepSignal f, .steepBz f, .steepWaitv f, .steepEnd f] → s.currentRun? = some x → x.steep.budget ≤ x.count →
      exec i s = .next (hookFault s x)) ∧
    (x.ref.sub = 0 → (s.part r.part).devReg 0x20 = 0 → (hookFault s x).run? x.id = none ∧ SameMemory s (hookFault s x) ∧
      ((hookFault s x).part r.part).qReg r.queue 5 = BitVec.ofNat 64 (x.ref.idx % 2 ^ 32 * 2 ^ 32 + 7 * 2 ^ 16 + 2)) ∧
    (x.ref.sub = 0 → (∀ e ∈ x.emits, emitOk s r.part r.queue e.words = true) → pktCheck s r.part r.queue x.pkt = 0 → (pktType x.pkt) ∉ [2, 6] → pktType x.pkt < 0xF0 →
      ∀ (i : Instr) (st : PktState), (i, st) ∈ [(Instr.steepDrop f, PktState.complete), (.steepEnd f, .waiting)] → Steeps i s x →
      ∃ t k, exec i s = .next t ∧ k ∈ t.packets ∧ k.ref = ⟨r.part, r.queue, x.ref.idx, 0⟩ ∧ k.words = x.pkt ∧ k.ctx = x.ctx ∧ k.state = st ∧ k.code = 0 ∧
        k.dropped = decide (st = .complete) ∧ t.run? x.id = none ∧ (t.part r.part).rptr r.queue = (x.ref.idx + 1) % 2 ^ 32 ∧
        ∀ j : Nat, ∀ w, x.emits[j]? = some w → ∃ e ∈ t.packets, e.ref = ⟨r.part, r.queue, x.ref.idx, 0x10000 + j⟩ ∧ e.words = w.words ∧ e.ctx = w.ctx ∧
          e.state = .waiting)

/-! ### What happens without an instruction -/

/-- R28, R31, R34, R36, R184, R231 to R234, R331, R363, R364: the rows of a split. Results land in the lanes named; the oldest complete operation of a path is counted, its
results written; TIMER is taken at the handler its route names; sleepers wake by time, by TIMER and by a supervisor; parked splits go on once what they wait
for has come; a ready split ages; a parked WAITPH and RAWAIT look at their words again. -/
def Obligations.RowsOfSplitsLandCountAndWake : Prop :=
  ∀ (s : State) (g : Group) (sp : Split),
    let r : SplitRef := ⟨g.uid, sp.slot⟩
    let goesOn (sp' : Split) (len : Nat) : Prop :=
      sp' = { sp with pc := sp.pc + BitVec.ofNat 54 len, status := .ready, readySince := s.clock, aging := 0, lastTrap := sp'.lastTrap, acqSig := sp'.acqSig,
                      fenceWait := if len = 0 then sp.fenceWait else none }
    let one (i : Instr) (P : Group → Split → Prop) : Prop := ∃ t g' sp', exec i s = .next t ∧ OnlyGroup s t g g' ∧ OnlySplit g g' sp sp' ∧ P g' sp'
    let only (i : Instr) (P : Split → Prop) : Prop := one i (fun g' sp' => g' = { g with splits := g'.splits } ∧ P sp')
    s.split? r = some (g, sp) → canRun s g = true → s.memoriesWf = true →
    (∀ (op lane reg : Nat) (val : Word) (m : Mask), sp.pend = [⟨op, [.v lane reg val], false⟩] → m.getLsbD lane = true → (g.lane lane).live = true →
      one (.variableLatencyResult r op m) (fun g' sp' => g' = { g with lanes := g'.lanes, splits := g'.splits } ∧ sp' = { sp with pend := [] } ∧
        ∀ l, g'.lane l = if l = lane then (g.lane l).setV reg val else g.lane l)) ∧
    (∀ (path : BitVec 3) (f : Flight) (lane reg : Nat) (val : Word), g.flights.find? (fun x => x.path == path.toNat) = some f → f.done = true → g.splits = [sp] →
      sp.pend = [⟨f.op, [.v lane reg val], false⟩] → lane < 64 → (g.lane lane).live = true →
      one (.operationCompletion g.uid path) (fun g' sp' => g' = { g with lanes := g'.lanes, splits := g'.splits, flights := g'.flights } ∧
        sp' = { sp with pend := [] } ∧ (g'.lane lane).vReg reg = val ∧ g'.counter path.toNat + 1 = g.counter path.toNat)) ∧
    (sp.status = .ready → sp.stack = [] → sp.inSup = false → sp.owedUser = 0 → sp.runOn = none → sp.gangFail = none → g.lxfaults = [] → g.timecmp ≠ 0 →
      g.timecmp.toNat ≤ s.clock.toNat → sp.timerTaken = false →
      let user : Prop := g.utvec.getLsbD 0 = true ∧ sp.inUser = false
      let noSup : Prop := (g.stvec &&& 0x003FFFFFFFFFFFFC#64) = 0
      (user → (∀ x ∈ g.splits, x.slot ≠ sp.slot → x.inUser = false ∧ x.inSup = false) → ∃ t g' sp', exec (.userTrapEntry r) s = .next t ∧ t.group? g.uid = some g' ∧
        OtherGroupsKept s t g.uid ∧ OnlySplit g g' sp sp' ∧ g'.utcause = 5 ∧ g'.utepc = sp.pc.zeroExtend 64 &&& 0x003FFFFFFFFFFFFC#64 ∧ g'.faultmask = sp.mask ∧
        g'.faultaddr = 0 ∧ sp'.pc = g.utvec.extractLsb' 0 54 &&& ~~~3#54 ∧ sp'.inUser = true ∧ sp'.timerTaken = true) ∧
      (¬ user → ¬ noSup → (∀ x ∈ g.splits, x.slot ≠ sp.slot → x.inSup = false) → ∃ t g' sp', exec (.supervisorTrapEntry r) s = .next t ∧
        t.group? g.uid = some g' ∧ OtherGroupsKept s t g.uid ∧ OnlySplit g g' sp sp' ∧ g'.scause = 5 ∧ g'.sepc = sp.pc.zeroExtend 64 &&& 0x003FFFFFFFFFFFFC#64 ∧
        g'.faultmask = sp.mask ∧ sp'.pc = g.stvec.extractLsb' 0 54 &&& ~~~3#54 ∧ sp'.sup = true ∧ sp'.inSup = true ∧ sp'.timerTaken = true) ∧
      (¬ user → noSup → ∃ t g', exec (.escalation r) s = .next t ∧ t.group? g.uid = some g' ∧ OtherGroupsKept s t g.uid ∧ g'.gstate = .escalated ∧
        g'.escalatedSplit = some sp.slot)) ∧
    (∀ u, sp.status = .parked (.sleep u) →
      (u.toNat ≤ s.clock.toNat → only (.sleepWake r) (fun sp' => goesOn sp' 4)) ∧
      (g.splits = [sp] → g.timecmp ≠ 0 → g.timecmp.toNat ≤ s.clock.toNat → sp.timerTaken = false → only (.timerDue g.uid) (fun sp' => goesOn sp' 4)) ∧
      (∀ (x : Grid) (tm : Team) (v : DWord), s.groups = [g] → g.splits = [sp] → s.grid? g.grid = some x → s.team? g.team = some tm →
        bits v.toNat 0 32 = x.gridid.toNat → bits v.toNat 32 16 = tm.teamid % 2 ^ 16 → bits v.toNat 48 6 = g.groupid →
        only (.wake (groupPart g) v) (fun sp' => goesOn sp' 4))) ∧
    (sp.status = .parked .results → sp.pend = [] → only (.splitWake r) (fun sp' => goesOn sp' 0)) ∧
    (∀ (path : Nat) (n : DWord), sp.status = .parked (.waitc path n) → path ≠ 3 → g.counter path ≤ n.toNat → only (.splitWake r) (fun sp' => goesOn sp' 4)) ∧
    (∀ op, sp.status = .parked (.statuses op) → s.remotes = [] → sp.pend = [] → only (.splitWake r) (fun sp' => goesOn sp' 0)) ∧
    (∀ sup, sp.status = .parked (.handler sup) → (∀ x ∈ g.splits, x.slot ≠ sp.slot → x.inSup = false ∧ (sup = false → x.inUser = false)) →
      only (.splitWake r) (fun sp' => goesOn sp' 0)) ∧
    (∀ page, sp.status = .parked (.page page) → (∀ x ∈ g.splits, x.slot ≠ sp.slot → page ∉ x.pages) →
      only (.splitWake r) (fun sp' => goesOn sp' 0)) ∧
    (sp.status = .ready → bits g.sstatus.toNat 8 2 + sp.aging < 3 → sp.readySince.toNat + 2048 * (sp.aging + 1) ≤ s.clock.toNat →
      only (.priorityAging r) (fun sp' => sp' = { sp with aging := sp.aging + 1 })) ∧
    (∀ (ph : Bool) (o : BitVec 3) (sc : BitVec 4) (l : Nat) (addr : DWord) (m k : Nat) (insn : List Word),
      let place : Loc := .scratch m k
      let w := bytesAt s place 8
      sp.status = .parked (.waitph ph o sc [⟨l, addr, place, 0⟩] [] insn false) → sigAt s place 8 = [] → bit w 62 = false →
      (bit w 63 ≠ ph → ∃ t g' sp', exec (.waitphReread r) s = .next t ∧ SameMemory s t ∧ t.group? g.uid = some g' ∧ OtherGroupsKept s t g.uid ∧
        OnlySplit g g' sp sp' ∧ g' = { g with splits := g'.splits } ∧ goesOn sp' 12) ∧
      (bit w 63 = ph → exec (.waitphReread r) s = .next s)) ∧
    (∀ (dst : Nat) (o : BitVec 3) (sc : BitVec 4) (l : Nat) (addr : DWord) (m k : Nat) (insn : List Word),
      let place : Loc := .scratch m k
      let hd := bytesAt s place 32
      let cptr := hd / 2 ^ 96 % 2 ^ 32
      sp.status = .parked (.rawait dst o sc [⟨l, addr, place, 0⟩] [] insn) → sigAt s place 32 = [] → poisoned s place = false → ringBad hd = false →
      bit hd 191 = false → hd / 2 ^ 64 % 2 ^ 32 ≠ cptr →
      ∃ t g' sp', exec (.rawaitClaim r) s = .next t ∧ StoresAt s t place 32 (hd - cptr * 2 ^ 96 + (cptr + 1) % 2 ^ 32 * 2 ^ 96) ∧ t.group? g.uid = some g' ∧
        OtherGroupsKept s t g.uid ∧ OnlySplit g g' sp sp' ∧ goesOn sp' 12 ∧
        g' = { g with lanes := g'.lanes, splits := g'.splits, flights := g.flights ++ [{ path := 2, op := s.uid, done := true }] } ∧
        ∀ n, g'.lane n = if n = l then (g.lane l).setVNat dst 2
          (cptr + 2 ^ 32 * ((hd % 2 ^ 32 + cptr % (hd / 2 ^ 160 % 2 ^ 7) * (hd / 2 ^ 32 % 2 ^ 32)) % 2 ^ 32)) else g.lane n)

/-- R125, R132, R137 to R143, R259: the steps of a tun while its partition runs. An install ends with the tun bound and its draw slots EMPTY, or with a status and the number
unbound. The end of a fire writes READY, the next SEQ and the results, or FAULTED, and counts; a fill whose time is over is abandoned. A draw is served by a newer image,
which it takes when told so, or after its time by the image as it stands. -/
def Obligations.TunsInstallFireAbandonAndServe : Prop :=
  ∀ (s : State) (tn : Tun) (slot : Nat),
    let w := tn.status s slot
    let at_ := slot * tn.drawStride
    s.tun? tn.num = some tn → s.memoriesWf = true → s.boot = .running → (s.part tn.part).running = true → tn.formatOk = true →
    at_ / 65536 = (at_ + tn.drawStride - 1) / 65536 →
    (tn.installing = true → s.draws = [] → tn.packet = none → ∀ g, s.group? tn.group = some g → g.instOp = tn.flight →
      ∃ t g', exec (.installCompletion tn.num) s = .next t ∧ t.group? tn.group = some g' ∧ OtherGroupsKept s t tn.group ∧
        (∀ f ∈ g'.flights, f.op = tn.flight → f.done = true) ∧ g'.instTun.toNat = tn.num % 4096 ∧
        ((g'.instStatus = 0 ∧ ∃ tn', t.tun? tn.num = some tn' ∧ tn'.installing = false ∧ tn'.desc = tn.desc ∧ ∀ k, k < tn.nslots → tn'.status t k = 0) ∨
          (g'.instStatus = 5 ∧ t.tun? tn.num = none))) ∧
    (∀ x, tn.slot? slot = some x → s.draws = [] →
      let cleared := tn.slots.filter (fun y => y.slot != slot)
      (x.firing = true → x.held = [] → tn.bad = false → ∃ t tn', exec (.tunFire tn.num slot) s = .next t ∧ t.tun? tn.num = some tn' ∧
        tn' = { tn with slots := cleared, own := tn'.own, fires := tn.fires + 1, overrun := if tn.accum = false ∧ slotState w = 1 then tn.overrun + 1 else tn.overrun } ∧
        tn'.status t slot = x.writer.toNat * 2 ^ 40 + 2 ^ 32 + (slotSeq w + 1) % 2 ^ 32 ∧
        ∀ m, m < tn.m → drawRead t tn' (at_ + 8 + m * tn.resSize) tn.resSize = fireResult tn x.elems
          (if tn.accum = true ∧ slotState w = 1 then drawRead s tn (at_ + 8 + m * tn.resSize) tn.resSize else tn.bias.getD m 0) m) ∧
      (x.firing = true → x.held = [] → tn.bad = true → ∃ t tn', exec (.tunFire tn.num slot) s = .next t ∧ t.tun? tn.num = some tn' ∧
        tn' = { tn with slots := cleared, own := tn'.own, faulted := tn.faulted + 1 } ∧ tn'.status t slot = 3 * 2 ^ 32 + (slotSeq w + 1) % 2 ^ 32) ∧
      (x.firing = false → tn.fillTmo ≠ 0 → x.since.toNat + tn.fillTmo * 1750 ≤ s.clock.toNat → ∃ t tn', exec (.fillTimeout tn.num slot) s = .next t ∧
        t.tun? tn.num = some tn' ∧ tn' = { tn with slots := cleared, own := tn'.own, abandoned := tn.abandoned + 1 } ∧ tn'.status t slot = 2 * 2 ^ 32 + slotSeq w)) ∧
    (∀ (d : Draw) (g : Group) (sp : Split) (l place : Nat) (addr : DWord), s.draws = [d] → s.remotes = [] → d.group = g.uid → d.split = sp.slot →
      s.split? ⟨g.uid, sp.slot⟩ = some (g, sp) → g.gstate = .resident → sp.pend = [⟨d.op, [], true⟩] → d.lanes = [(l, addr, tn.num, slot, place)] → d.faults = [] →
      d.size ∈ [8, 16, 32] → d.order = 0 → tn.installing = false → (∃ pa e, globalCheck s (splitCtx g sp) needR addr d.size = (s, .ok (.draw pa e)) ∧
        e.tunid.toNat = tn.num) → addr.toNat = tn.drawVa + at_ + place → place + d.size ≤ tn.drawStride → slot < tn.nslots →
      slotPoisoned s tn slot 0 = false → slotPoisoned s tn slot place = false →
      let served (i : Instr) (status : Nat) : Prop := ∃ t g' sp', exec i s = .next t ∧ t.group? g.uid = some g' ∧ OtherGroupsKept s t g.uid ∧ OnlySplit g g' sp sp' ∧
        g' = { g with splits := g'.splits, flights := g'.flights } ∧ (∀ f ∈ g'.flights, f.op = d.op → f.done = true) ∧
        sp' = { sp with pc := sp.pc + 12, status := .ready, readySince := s.clock, aging := 0, lastTrap := sp'.lastTrap, fenceWait := none, acqSig := sp'.acqSig,
                        pend := [{ op := d.op, writes := vWrites l d.dst (d.size / 4) (drawRead s tn (at_ + place) d.size) }] } ∧
        t.draws = [] ∧ tn.status t slot = status
      (imageReady w d.last = true → served (.tdrawServe ⟨g.uid, sp.slot⟩ slot) (if d.cons = true ∧ slotState w = 1 then slotSeq w else w)) ∧
      (imageReady w d.last = false → d.timeout.toNat ≠ 2 ^ 32 - 1 → d.since.toNat + d.timeout.toNat * 1750 ≤ s.clock.toNat →
        served (.tdrawTimeout ⟨g.uid, sp.slot⟩) w))

/-- R263, R266, R287, R291, R401: the rows of an engine. A queued program starts; a program that waits for a word goes on once its phase has come; a faulted program is executed
again, aborted with code 0xFF, or aborted with its bound words poisoned, as its disposition word says. -/
def Obligations.EnginesStartResumeAndAbortPrograms : Prop :=
  ∀ (s : State) (r : EngRef) (p : Program), s.prog? r = some p → engineRuns s p = true → s.memoriesWf = true →
    let runs (i : Instr) : Prop := ∃ t, exec i s = .next t ∧ SameMemory s t ∧ t.prog? r = some { p with state := .running }
    let gone (t : State) : Prop := (t.engine r).progs = (s.engine r).progs.filter (fun q => q.serial != p.serial) ∧
      (t.engine r).finished.getLast? = some { serial := p.serial, part := p.ctx.part, state := 4, code := 0xFF }
    (p.state = .queued → runs (.lauterProgramStart r)) ∧
    (∀ (f : LauterF) (l : Loc),
      let space := spaceOf (f.imm12.toNat / 4 % 4)
      let addr := p.xReg f.a + f.imm32.signExtend 64
      let w : Nat := bytesAt s l 8
      p.state = .waiting f → (Instr.lauterWaitb f).wellFormed = true → f.imm12.toNat % 4 ≠ 1 → p.straight → progDrained s r p = true → p.relFence = none → p.got = [] →
      addr.toNat < 2 ^ 54 → space ≠ .global → ActsAt s p.ctx space needR addr 8 l → sigAt s l 8 = [] → bit w 62 = false →
      bit w 63 ≠ (p.xReg f.b).getLsbD 0 → ∃ t q, exec (.waitbReread r) s = .next t ∧ SameMemory s t ∧ t.prog? r = some q ∧
        q = { p.after with bound := q.bound, boundMore := q.boundMore, acqSig := q.acqSig }) ∧
    (∀ (f : LauterFault) (pa : Nat),
      let a : DWord := p.lxrbase + BitVec.ofNat 64 (0xC000 + 8 * (2 * r.core + r.eng))
      let w := memReadNat s.hbm pa 8
      p.state = .faulted f → f.hyp = false → Reaches54 s { p.ctx with sup := true } needR a 8 pa → cacheLine? s .l1 r.core (pa / 128) = none →
      sigAt s (.hbm pa) 8 = [] →
      (w ∈ [1, 5] → runs (.faultResume r)) ∧
      (w ∈ [2, 6] → progDrained s r p = true → p.packet = none → ∃ t, exec (.faultAbort r) s = .next t ∧ SameMemory s t ∧ gone t) ∧
      (∀ (b : BitVec 2) (a1 : DWord) (l : Loc), w ∈ [3, 7] → progDrained s r p = true → p.packet = none → p.bound = [(false, b, a1)] → spaceOf b.toNat ≠ .global →
        ActsAt s p.ctx (spaceOf b.toNat) needRW a1 8 l → ∃ t, exec (.faultAbortAndPoison r) s = .next t ∧ gone t ∧
          StoresAt s t l 8 (if bit (bytesAt s l 8) 62 then bytesAt s l 8 else bytesAt s l 8 + 2 ^ 62)))

/-- R17, R20, R237, R359, R360, R366 to R368, R371: the rows of the scheduler. Entries move from a cellar to the chip in order; a task taken from the head of a cask joins the
forming group of its entry index, which is complete at GWIDTH lanes or when its delay is over; the next team of a grid goes to the least loaded core it fits, its
groups fresh; a grid with nothing left leaves, its LAUNCH complete; a microsecond brings a cluster its new matrix budget, and an operation that has waited
20 µs goes next. -/
def Obligations.SchedulerRowsPlaceAndRetire : Prop :=
  ∀ s : State, s.boot = .running →
    (∀ c : Cask, s.cask? c.num = some c → ∃ t c', exec (.cellarMove c.num) s = .next t ∧ t.cask? c.num = some c' ∧ c'.chip ++ c'.cellar = c.chip ++ c.cellar ∧
      c'.chip.length = max c.chip.length (min 4096 (c.chip.length + c.cellar.length)) ∧ SameMemory s t) ∧
    (∀ (r : Grid) (c : Cask) (e : CaskEntry) (es : List CaskEntry) (pa : Nat),
      let i := e.w0.toNat % 2 ^ 16
      let ctx : Ctx := { core := 1024 + r.part, part := r.part, asid := r.asid &&& 0xFFFF#64, ptroot := r.ptroot, sup := true, wkey := r.wkey, grid := none, team := none }
      let task : Task := { pc := BitVec.ofNat 64 (memReadNat s.hbm pa 8), lo := e.lo, hi := e.hi, scope := e.scope, sig := e.sig }
      let takes (r' : Grid) : Prop := ∃ t, exec (.taskEntryTake r.uid c.num) s = .next t ∧ t.cask? c.num = some { c with chip := es } ∧ t.grid? r.uid = some r' ∧
        SameMemory s t
      s.grid? r.uid = some r → s.cask? c.num = some c → r.kind = .task → r.admitted = true → gridRuns s r = true → c.num ∈ r.casks → takingStops s r = false →
      c.chip = e :: es → Reaches54 s ctx needR (r.kernarg + BitVec.ofNat 64 (8 * i)) 8 pa →
      ((∀ f ∈ r.forming, f.entry ≠ i) → 1 < r.width → takes { r with forming := r.forming ++ [⟨i, [task], s.clock⟩] }) ∧
      (∀ f, r.forming = [f] → f.entry = i → f.tasks.length + 1 < r.width → takes { r with forming := [{ f with tasks := f.tasks ++ [task] }] }) ∧
      (∀ f, r.forming = [f] → f.entry = i → f.tasks.length + 1 = r.width → r.formingTeams = [] →
        takes { r with forming := [], formingTeams := [⟨i, [f.tasks ++ [task]], s.clock, decide (r.tg ≤ 1)⟩] })) ∧
    (∀ (r : Grid) (f : Forming), s.grid? r.uid = some r → r.kind = .task → gridRuns s r = true → r.forming = [f] → r.formingTeams = [] → r.fillDelay ≠ 0 →
      f.since.toNat + r.fillDelay * 1750 ≤ s.clock.toNat → ∃ t, exec (.fillDelayExpiry r.uid f.entry) s = .next t ∧
        t.grid? r.uid = some { r with forming := [], formingTeams := [⟨f.entry, [f.tasks], s.clock, decide (r.tg ≤ 1)⟩] }) ∧
    (∀ (r : Grid) (f : FormingTeam), s.grid? r.uid = some r → r.kind = .task → gridRuns s r = true → r.forming = [] → r.formingTeams = [f] →
      f.since.toNat + r.fillDelay * 1750 ≤ s.clock.toNat → ∃ t, exec (.fillDelayExpiry r.uid f.entry) s = .next t ∧
        t.grid? r.uid = some { r with formingTeams := [{ f with ready := true }] }) ∧
    (∀ (r : Grid) (c : Nat), s.grids = [r] → (s.part r.part).running = true → (s.part r.part).qState r.packet.queue ≠ 3 → r.admitted = true → r.kind = .ordinary →
      r.paired = false → r.clus = false → r.rsv = false → r.nextTeam < r.nt → (∀ tm ∈ s.teams, tm.saved = false) →
      (s.part r.part).slotsUsed.length + r.tg ≤ imgUnits s r.part → pickCore s r (r.tg, 0) = some c →
      c < 192 ∧ r.cores.getLsbD c = true ∧ teamFits s r r.tg 0 c = true ∧
      (∀ d, d < 192 → r.cores.getLsbD d = true → ((s.part r.part).reserved ||| (s.part r.part).releasing).getLsbD d = false → teamFits s r r.tg 0 d = true →
        residentLanes s c < residentLanes s d ∨ (residentLanes s c = residentLanes s d ∧ c ≤ d)) ∧
      ∃ t, exec (.teamPlacement r.uid) s = .next t ∧ (∃ r', t.grid? r.uid = some r' ∧ r'.nextTeam = r.nextTeam + 1) ∧
        ∃ tm ∈ t.teams, tm = { uid := s.uid, grid := r.uid, teamid := r.nextTeam, core := c, scratch := r.scratch, acc := r.acc, groups := r.tg } ∧
          ∀ k, k < r.tg → ∃ g ∈ t.groups, g.team = s.uid ∧ g.groupid = k ∧ g.core = c ∧ g.kernarg = r.kernarg ∧ (∀ n, g.sReg n = 0) ∧
            (∀ n, n < 7 → g.kReg n = false) ∧ g.utvec = 0 ∧ g.utcause = 0 ∧ g.utepc = 0 ∧ g.timecmp = 0 ∧
            (∀ l, l < r.width → (g.lane l).live = true ∧ (∀ n, (g.lane l).vReg n = 0) ∧ ∀ n, n < 7 → (g.lane l).pReg n = false) ∧
            ∃ sp, g.splits = [sp] ∧ sp.pc = r.pc ∧ sp.sup = r.sup ∧ sp.status = .ready ∧ ∀ l, l < 64 → sp.mask.getLsbD l = decide (l < r.width)) ∧
    (∀ (r : Grid) (k : Packet), s.grid? r.uid = some r → r.kind = .ordinary → r.admitted = true → gridRuns s r = true → (∀ tm ∈ s.teams, tm.grid ≠ r.uid) →
      r.nt ≤ r.nextTeam → s.packet? r.packet = some k → ∃ t, exec (.gridRetirement r.uid) s = .next t ∧ t.grid? r.uid = none ∧
        t.packet? r.packet = some { k with state := .complete, code := 0 } ∧ t.hbm = s.hbm) ∧
    (∀ c : Nat, ∃ t, exec (.budgetPeriod c) s = .next t ∧ t = { s with budgets := t.budgets } ∧ ∀ k : Nat, ∀ b, s.budgets[k]? = some b →
      t.budgets[k]? = some (if k = c then { b with left := b.limit.getD 0, spent := if b.limit ≠ none ∧ b.left = 0 then b.spent + 1 else 0 } else b)) ∧
    (∀ (g : Group) (sp : Split) (n : Nat) (since : DWord), s.groups = [g] → g.splits = [sp] → teamOnCores s g.team = true → sp.status = .stalled (.budget n) →
      sp.budgetSince = some since → since.toNat + 20 * 1750 ≤ s.clock.toNat → ∃ t, exec (.matrixWaitLimit g.core) s = .next t ∧
        t.groups = [{ g with splits := [{ sp with budgetGranted := true }] }] ∧ t = { s with groups := t.groups })

/-- R383, R385 to R387, R391, R393, R395, R398 to R400: the hypervisor's controls. EN := 1 gives a partition its page and casks, stopped; destroying leaves nothing of it; RUN := 0
saves its teams and programs, RUN := 1 lets it run again; WAYMASK shows in its page; GCTL lets a stopped group go on with S and V as its image holds them,
retires it, or lets a stopped program go on; registers keep their reserved bits; a write of a second-stage entry drops every copy of it, and waits while an access
that has used it is on its way to another device. -/
def Obligations.HypervisorControlsTakeEffect : Prop :=
  ∀ (s : State) (p : Nat), s.boot = .running → s.memoriesWf = true →
    let x := s.part p
    let others (t : State) : Prop := ∀ q, q ≠ p → t.part q = s.part q
    (p < 16 → x.en = false → enableRefused s p = false → s.casks = [] → ∃ t, exec (.partitionEnable p) s = .next t ∧ others t ∧ (t.part p).en = true ∧
      (t.part p).pstate = 0 ∧ (t.part p).devReg 0x10 = BitVec.ofNat 64 (bits (x.reg 0x28).toNat 0 16) ∧ (t.part p).devReg 0x18 = BitVec.ofNat 64 x.qcount ∧
      ∀ n, n < 1024 → x.hasCask n = true → ∃ c, t.cask? n = some c ∧ c.part = p ∧ c.chip = [] ∧ c.cellar = []) ∧
    (x.en = true → (x.reg 0x00).getLsbD 1 = false → (∀ tn ∈ s.tuns, tn.part ≠ p) → ∃ t, exec (.partitionDestroy p) s = .next t ∧ others t ∧ (t.part p).en = false ∧
      (t.part p).pstate = 0 ∧ (∀ g ∈ t.groups, groupPart g ≠ p) ∧ (∀ r ∈ t.grids, r.part ≠ p) ∧ (∀ k ∈ t.packets, k.ref.part ≠ p) ∧ (∀ c ∈ t.casks, c.part ≠ p) ∧
      (∀ e ∈ t.tlb, e.part ≠ p) ∧ ∀ e ∈ t.engines, ∀ q ∈ e.progs, q.ctx.part ≠ p) ∧
    (x.running = true → ∃ t, exec (.swapOut p) s = .next t ∧ others t ∧ SameMemory s t ∧ (t.part p).pstate = 2 ∧ ((t.part p).reg 0x00).getLsbD 1 = false) ∧
    (x.pstate = 2 → (∀ y ∈ s.runs, y.ref.part = p → y.waitv.isSome = true) → ∃ t, exec (.swapOut p) s = .next t ∧ others t ∧ (t.part p).pstate = 3 ∧
      (∀ y ∈ t.runs, y.ref.part ≠ p) ∧ (∀ tm ∈ t.teams, ∀ r, t.grid? tm.grid = some r → r.part = p → tm.saved = true) ∧
      (∀ e ∈ t.engines, ∀ q ∈ e.progs, q.ctx.part ≠ p)) ∧
    (x.en = true → x.pstate = 3 → coreHeld s p = false → enginesTake s x.progs = true → ∃ t, exec (.swapIn p) s = .next t ∧ others t ∧ SameMemory s t ∧
      (t.part p).pstate = 4 ∧ ((t.part p).reg 0x00).getLsbD 1 = true) ∧
    (x.pstate = 4 → (∀ v ∈ x.vcp, v.kicked = false ∧ v.ops = []) → ∀ y : SwapPiece, x.swap = [y] → y.mem = .scratch → ∃ t, exec (.swapIn p) s = .next t ∧ others t ∧
      (t.part p).pstate = 1 ∧ (t.part p).progs = [] ∧ t.hbm = s.hbm ∧ t.acc = s.acc ∧ t.dieScratch = s.dieScratch ∧
      ∀ k, memRead t.scratch k = if y.base ≤ k ∧ k < y.base + y.size then memRead s.hbm (y.pa + (k - y.base)) else memRead s.scratch k) ∧
    (x.en = true → x.pstate = 0 → coreHeld s p = false → (∀ v ∈ x.vcp, v.kicked = false ∧ v.ops = []) → ∃ t, exec (.partitionStart p) s = .next t ∧ others t ∧
      (t.part p).pstate = 1 ∧ ((t.part p).reg 0x00).getLsbD 1 = true ∧ SameMemory s t) ∧
    (∀ mask : DWord, p < 16 → ∃ t, exec (.waymaskWrite p mask) s = .next t ∧ others t ∧ (t.part p).reg 0x28 = mask &&& 0xFFFF#64 ∧
      (x.en = true → (t.part p).devReg 0x10 = mask &&& 0xFFFF#64)) ∧
    (∀ (slot : Nat) (g : Group), stoppedGroup s p slot = some g → s.group? g.uid = some g →
      (imageIntact s g = true → teamOnCores s g.team = true → ∃ t g', exec (.gctlResume p slot) s = .next t ∧ t.group? g.uid = some g' ∧ OtherGroupsKept s t g.uid ∧
        g' = { g with s := g'.s, lanes := g'.lanes, gstate := .resident, escalatedSplit := none, image := g'.image, tampered := g'.tampered } ∧ (hasSlot s g = true →
          (∀ n, 0 < n → n < 64 → (g'.sReg n).toNat = memReadNat s.hbm (slotAddr s g + 0x200 + 8 * n) 8) ∧
          (∀ l n, l < g.lanes.length → n < g.vregs → ((g'.lane l).vReg n).toNat = memReadNat s.hbm (slotAddr s g + 0x8000 + 256 * n + 4 * l) 4))) ∧
      (g.lanes.length ≤ 64 → ∃ t, exec (.gctlRetire p slot) s = .next t ∧ t.group? g.uid = none)) ∧
    (∀ (slot : Nat) (q : Program) (f : LauterFault), s.prog? ⟨slot / 2, slot % 2⟩ = some q → q.state = .faulted f → f.hyp = true → q.ctx.part = p →
      ∃ t, exec (.gctlEngineResume p slot) s = .next t ∧ t.prog? ⟨slot / 2, slot % 2⟩ = some { q with state := .running } ∧ SameMemory s t) ∧
    (∀ v : DWord, (∃ t, exec (.registerWrite (.kiln 0x100) v) s = .next t ∧ t = { s with kiln := { s.kiln with pfbase := v &&& 0xFFFFFFFF0000#64 } }) ∧
      ∀ off, p < 16 → off < 0x98 → off % 8 = 0 → (x.reg 0x00).getLsbD 1 = false → x.pstate ≠ 3 → x.en = false →
        ∃ t, exec (.registerWrite (.block p off) v) s = .next t ∧ others t ∧
          ∀ o, o % 8 = 0 → (t.part p).reg o = if o = off then (x.reg off &&& ~~~blockMask off) ||| (v &&& blockMask off) else x.reg o) ∧
    (∀ (a : Nat) (v : DWord), a % 8 = 0 → a + 8 ≤ 576 * 2 ^ 30 → sigRoom s (.hbm a) →
      (s.kiln.s2writes = [] → remapBusy s [(a, 8)] = false → ∃ t, exec (.secondStageTableWrite a v) s = .next t ∧ StoresAt s t (.hbm a) 8 v.toNat ∧
        ∀ e ∈ t.tlb, ∀ q ∈ e.src, ¬ (q.1 < a + 8 ∧ a < q.1 + 8)) ∧
      (remapBusy s [(a, 8)] = true → exec (.secondStageTableWrite a v) s = .next { s with kiln := { s.kiln with s2writes := s.kiln.s2writes ++ [(a, v)] } }))

/-- R332 to R336, R339, R340, R341, R349, R351, R355: the rows of a queue and of its steeps. A kick makes the VCP read the block; a packet at RPTR with its PHASE and SEQ is
accepted when its checks pass; one with the wrong PHASE is read again, and faults the queue after 100 µs; RESTART and SKIP go on from a fault; the packet at CPTR
completes; completes; a custom packet has no effect; a parked WAITV looks again and times out after 10 ms; a load request installs a program that passes its rules.
That a queue is IDLE just when CPTR, RPTR and WPTR agree is the model's choice: log entry 67. -/
def Obligations.QueueRowsReadAndCompletePackets : Prop :=
  ∀ (s : State) (q : QueueRef), s.memoriesWf = true → vcpRuns s q.part = true → s.sigs = [] → (s.part q.part).devReg 0x20 = 0 →
    let p := s.part q.part
    let v := s.vq q
    let reg (t : State) (i : Nat) : Nat := ((t.part q.part).qReg q.queue i).toNat
    let size : Nat := 2 ^ (reg s 1 % 2 ^ 5)
    let sizeOk (rptr : Nat) : Prop := 4 ≤ reg s 1 % 2 ^ 5 ∧ reg s 1 % 2 ^ 5 ≤ 16 ∧ (p.wptr q.queue + 2 ^ 32 - rptr) % 2 ^ 32 ≤ size
    let i := p.rptr q.queue
    let faulted (t : State) (code : Nat) : Prop := reg t 5 = i * 2 ^ 32 + code * 2 ^ 16 + 2
    let blockRead (t : State) : Prop := (t.vq q).limit.toNat = p.wptr q.queue ∧ (t.vq q).base = p.qBase q.queue ∧ (t.vq q).ctl = p.qReg q.queue 1
    (q.queue < p.qcount → p.qEn q.queue = true → p.qState q.queue < 2 →
      (sizeOk i → ∃ t, exec (.kick q) s = .next t ∧ SameMemory s t ∧ blockRead t ∧
        (t.part q.part).qState q.queue = if i = p.cptr q.queue ∧ p.wptr q.queue = i then 0 else 1) ∧
      (¬ sizeOk i → ∃ t, exec (.kick q) s = .next t ∧ SameMemory s t ∧ faulted t 6)) ∧
    (q.queue < p.qcount → p.qState q.queue = 2 →
      (sizeOk i → ∃ t, exec (.restart q) s = .next t ∧ SameMemory s t ∧ blockRead t ∧ (t.part q.part).qState q.queue = 1 ∧ (t.part q.part).rptr q.queue = i) ∧
      (∀ pa, sizeOk ((i + 1) % 2 ^ 32) → Reaches54 s (launchCtx s q.part (vcpCore q.part)) needR (ringAddr v i) 8 pa → poisonedRange s pa 8 = false →
        memReadNat s.hbm pa 8 % 256 ≠ 2 → ∃ t, exec (.skip q) s = .next t ∧ SameMemory s t ∧ (t.part q.part).qState q.queue = 1 ∧
          (t.part q.part).rptr q.queue = (i + 1) % 2 ^ 32 ∧ ∃ k ∈ t.packets, k.ref = ⟨q.part, q.queue, i, 0⟩ ∧ k.state = .complete ∧ k.code = 11)) ∧
    (∀ pa, mayRead s q = true → v.held = none → poisonedRange s pa 64 = false →
      (∀ k, k < 8 → Reaches54 s (launchCtx s q.part (vcpCore q.part)) needR (ringAddr v i + BitVec.ofNat 64 (8 * k)) 8 (pa + 8 * k)) →
      let ws : List DWord := (List.range 8).map (fun k => BitVec.ofNat 64 (memReadNat s.hbm (pa + 8 * k) 8))
      let hd := memReadNat s.hbm pa 8
      let inPhase : Prop := bit hd 8 = lapPhase v i
      let accepts (row : Instr) : Prop := inPhase → hd / 2 ^ 32 = i → hd / 2 ^ 24 % 2 ^ 8 = 0 → hd % 256 ∉ [2, 6] → hd % 256 < 0xF0 →
        pktCheck s q.part q.queue ws = 0 → ∃ t k, exec row s = .next t ∧ SameMemory s t ∧ (t.part q.part).rptr q.queue = (i + 1) % 2 ^ 32 ∧ k ∈ t.packets ∧
          k.ref = ⟨q.part, q.queue, i, 0⟩ ∧ k.words = ws ∧ k.state = .waiting ∧ k.ctx = (List.range 5).map (fun j => p.devReg (0x40 + 8 * j))
      (v.firstRead = none → accepts (.vcpPacketRead q) ∧
        (¬ inPhase → ∃ t, exec (.vcpPacketRead q) s = .next t ∧ SameMemory s t ∧ (t.vq q).firstRead = some s.clock ∧ t.packets = s.packets) ∧
        (inPhase → hd / 2 ^ 32 ≠ i → ∃ t, exec (.vcpPacketRead q) s = .next t ∧ SameMemory s t ∧ faulted t 3)) ∧
      (∀ since, v.firstRead = some since → accepts (.phaseReread q) ∧
        (¬ inPhase → since.toNat + 100 * 1750 ≤ s.clock.toNat → ∃ t, exec (.stalePacket q) s = .next t ∧ SameMemory s t ∧ faulted t 4))) ∧
    (∀ k : Packet, k.ref.part = q.part → k.ref.queue = q.queue → k.ref.sub = 0 → s.packet? k.ref = some k →
      (k.state = .complete → p.qState q.queue ≠ 3 → k.ref.idx = p.cptr q.queue → (∀ x ∈ s.packets, samePacket x.ref k.ref = true → x.ref = k.ref) →
        k.type ≠ 2 → writesOut s = false → ∃ t, exec (.packetCompletion k.ref) s = .next t ∧ SameMemory s t ∧ t.packet? k.ref = none ∧
          (t.part q.part).cptr q.queue = (k.ref.idx + 1) % 2 ^ 32 ∧
          reg t 6 = if k.code = 0 ∨ k.noted = true then reg s 6 else k.ref.idx % 2 ^ 32 * 2 ^ 32 + (reg s 6 / 2 ^ 16 + 1) % 2 ^ 16 * 2 ^ 16 + k.code.toNat) ∧
      (0xF0 ≤ k.type → startable s k = true → ∃ t, exec (.customPacket k.ref) s = .next t ∧ SameMemory s t ∧
        t.packet? k.ref = some { k with state := .complete, code := 0 })) ∧
    (∀ (x : SteepRun) (since : DWord), s.run? x.id = some x → x.waitv = some since → x.ref.part = q.part →
      let f := steepOf (x.steep.code.getD x.pc 0)
      (∀ (a : DWord) (pa : Nat), WindowAt s x f needR 8 a pa → x.straight (x.pc + 1) → ∃ t, exec (.steepWaitvReread x.id) s = .next t ∧ SameMemory s t ∧
        OnlyRun s t x (if memReadNat s.hbm pa 8 = (x.reg f.d).toNat then x.after (x.pc + 1) else x)) ∧
      (since.toNat + 10000 * 1750 ≤ s.clock.toNat → x.ref.queue = q.queue → x.ref.sub = 0 → ∃ t, exec (.steepWaitvTimeout x.id) s = .next t ∧ SameMemory s t ∧
        t.run? x.id = none ∧ reg t 5 = x.ref.idx % 2 ^ 32 * 2 ^ 32 + 7 * 2 ^ 16 + 2)) ∧
    (∀ a : DWord, ∃ t, exec (.steepreq a) s = .next t ∧ t = { s with kiln := { s.kiln with steepreq := s.kiln.steepreq ++ [a &&& 0x003FFFFFFFFFFF80#64] } }) ∧
    (∀ (a : DWord) (l : List DWord) (slot budget n : Nat), s.kiln.steepreq = a :: l → a.toNat + 128 ≤ 576 * 2 ^ 30 →
      let rd (o : Nat) : Nat := memReadNat s.hbm (a.toNat + o) 8
      let u : State := { s with kiln := { s.kiln with steepreq := l } }
      rd 0 % 4 = 0 → rd 8 = n + slot * 2 ^ 16 + q.part * 2 ^ 32 + budget * 2 ^ 36 → n < 2 ^ 11 → 0 < slot → slot < 256 → q.part < 16 → budget ≤ 1024 → p.en = true →
      (∀ k, k < 13 → rd (0x18 + 8 * k) = 0) →
      let ends (status : Nat) (P : State → Prop) : Prop := ∃ t, exec .steepLoad s = .next t ∧ t.kiln.steepreq = l ∧ memReadNat t.hbm (a.toNat + 16) 8 = status ∧ P t
      (n = 0 → ends 0 (fun t => ∀ y ∈ t.steeps, ¬ (y.part = q.part ∧ y.slot = slot))) ∧
      (∀ (u1 : State) (code : List Word), 0 < n → readCode u q.part (BitVec.ofNat 64 (rd 0)) n = (u1, some code) → SameMemory s u1 →
        (verifySteep code [none, none, none, none] = none → storeWords s q.part slot + n ≤ 262144 → ends 0 (fun t => ∃ y ∈ t.steeps,
          y = { part := q.part, slot := slot, code := code, budget := if budget = 0 then 256 else budget, windows := [none, none, none, none] })) ∧
        (∀ rule k, verifySteep code [none, none, none, none] = some (rule, k) → ends (1 + rule * 256 + k * 65536) (fun t => t.steeps = s.steeps))))

/-- R20, R299, R337, R338, R340, R342, R344, R345, R347, R369: the rows of packets that may start. A LAUNCH makes the grid its packet and kernel descriptor tell of; LXRUN
gives its program to an engine, alone or as a BUNDLE's member; WAITMEM waits for its condition; SIGNAL and TIMESTAMP write their word; PATCH and GRAPH record, and a
replay adds its nodes; RESERVE takes cores and gives them back; TUNOP installs and frees; SAVEQ and RESTQ mark queues and let them go on. That an LXRUN program
runs at user level, and that RESTQ finds what SAVEQ kept by the address of its area, are the model's choices: log entries 66 and 73. -/
def Obligations.PacketsDoTheirWork : Prop :=
  ∀ (s : State) (k : Packet), s.packet? k.ref = some k → s.memoriesWf = true →
    let p := k.ref
    let w (i : Nat) : DWord := k.words.getD i 0
    let part := s.part p.part
    let vcp := launchCtx s p.part (vcpCore p.part)
    let done (t : State) (code : BitVec 8) : Prop := t.packet? p = some { k with state := .complete, code := code }
    let home (pa : Nat) : Prop := cacheLine? s .l1 (vcpCore p.part) (pa / 128) = none ∧ sigRoom s (.hbm pa)
    let begun (t : State) (m : Packet) : Prop := t.packet? m.ref = some { m with state := .started, since := s.clock }
    let gives (t : State) (m : Packet) (e : Nat) : Prop := ∃ x, (t.engine ⟨(m.words.getD 2 0).toNat % 256, e⟩).progs =
        (s.engine ⟨(m.words.getD 2 0).toNat % 256, e⟩).progs ++ [x] ∧ x.packet = some m.ref ∧ x.state = .queued ∧ x.pc = (m.words.getD 1 0).extractLsb' 0 54 ∧
      (∀ n : Nat, n < 4 → x.x.getD (1 + n) 0 = m.words.getD (3 + n) 0) ∧ x.ctx.part = p.part ∧ x.ctx.sup = false
    let mayGive (m : Packet) (e : Nat) : Prop := (m.words.getD 2 0).toNat / 256 = e ∧ e < 2 ∧ (m.words.getD 1 0).toNat < 2 ^ 54 ∧
      (s.engine ⟨(m.words.getD 2 0).toNat % 256, e⟩).progs.length < 8
    (startable s k = true →
      (k.type = 1 → ∀ (s1 : State) (qs : Option (List DWord)), packetQuads s k (w 1) 8 = (s1, qs) →
        (qs = none → ∃ t, exec (.launch p) s = .next t ∧ done t 1) ∧
        (∀ l, qs = some l → kernelDesc l = none → ∃ t, exec (.launch p) s = .next t ∧ done t 2) ∧
        (∀ l d r, qs = some l → kernelDesc l = some d → launchChecks s1 (gridOf s1 k d (BitVec.allOnes 192)) = .grid r → bits (w 3).toNat 28 2 ≠ 1 →
          ∃ t, exec (.launch p) s = .next t ∧ begun t k ∧ t.nextGrid = s.nextGrid + 1 ∧ ∃ x ∈ t.grids, x.packet = p ∧ x.gridid = s.nextGrid ∧ x.kernarg = w 2 ∧
            x.pc = d.entry.extractLsb' 0 54 ∧ x.width = d.width ∧ x.vregs = d.vregs ∧ x.nt = (w 3).toNat % 2 ^ 16 ∧ x.tg = (w 3).toNat / 2 ^ 16 % 2 ^ 12 ∧
            x.nextTeam = 0 ∧ x.dieAlloc = (w 5).toNat ∧ x.wkey = k.ctx.getD 4 0 ∧ x.cores &&& ~~~part.cores = 0)) ∧
      (k.type = 3 → ∀ e, mayGive k e → ∃ t, exec (.lxrun p) s = .next t ∧ begun t k ∧ gives t k e) ∧
      (k.type = 2 → ∀ m e, membersOf s k = [m] → m.type = 3 → m.ref.part = p.part → (m.words.getD 2 0).toNat % 256 < 192 → mayGive m e →
        ∃ t, exec (.bundle p) s = .next t ∧ begun t k ∧ begun t m ∧ gives t m e) ∧
      (k.type = 4 → ∀ pa, Reaches54 s vcp needR (w 1) 8 pa → poisonedRange s pa 8 = false → sigAt s (.hbm pa) 8 = [] → home pa →
        let m := BitVec.ofNat 64 (memReadNat s.hbm pa 8) &&& w 3
        ∀ met : Bool, ((w 4).toNat % 8, met) ∈ [(0, decide (m = w 2)), (1, decide (m ≠ w 2)), (2, decide (m.toNat < (w 2).toNat)), (3, decide ((w 2).toNat ≤ m.toNat)),
            (4, decide (m &&& w 2 ≠ 0)), (5, decide (m &&& w 2 = 0))] →
          ∃ t, exec (.waitmem p) s = .next t ∧ SameMemory s t ∧ t.packet? p = some { k with state := if met then .complete else .started, since := s.clock, code := if met then 0 else k.code }) ∧
      (k.type = 5 → writesOut s = false → ∀ pa, Reaches54 s vcp (if w 3 = 0 then needW else needRW) (w 1) 8 pa → poisoned s (.hbm pa) = false → home pa →
        ∀ v, ((w 3).toNat, v) ∈ [(0, (w 2).toNat), (1, memReadNat s.hbm pa 8 + (w 2).toNat), (2, memReadNat s.hbm pa 8 ||| (w 2).toNat)] →
          ∃ t, exec (.signal p) s = .next t ∧ StoresAt s t (.hbm pa) 8 v ∧ done t 0) ∧
      (k.type = 8 → ∀ pa, Reaches54 s vcp needW (w 1) 8 pa → ∃ t, exec (.timestamp p) s = .next t ∧ StoresAt s t (.hbm pa) 8 s.clock.toNat ∧ done t 0) ∧
      (k.type = 6 → k.submitted = true → k.reent = true → p.sub = 0 → ∃ t, exec (.graphReplayStart p) s = .next t ∧ SameMemory s t ∧
        (∃ x ∈ t.packets, x.ref = p ∧ x.state = .started ∧ x.nodes = []) ∧
        ∀ i : Nat, ∀ ws, k.nodes[i]? = some ws → ∃ x ∈ t.packets, x.ref = ⟨p.part, p.queue, p.idx, 1 + i⟩ ∧ x.words = ws ∧ x.state = .waiting) ∧
      (k.type = 9 → w 4 = 0 → ∃ t, exec (.reserve p) s = .next t ∧ SameMemory s t ∧ (t.part p.part).reserved = part.reserved ||| reserveCores k.words ∧
        ∃ x, t.packet? p = some x ∧ ((∀ g ∈ s.groups, (reserveCores k.words).getLsbD g.core = false) → x.state = .complete ∧ x.code = 0) ∧ x.state ≠ .waiting) ∧
      (k.type = 9 → w 4 ≠ 0 → ∃ t, exec (.reserveRelease p) s = .next t ∧ SameMemory s t ∧ (t.part p.part).reserved = part.reserved &&& ~~~reserveCores k.words ∧ done t 0) ∧
      (k.type = 10 → w 1 = 0 → (w 2).toNat < 2 ^ 54 → (w 2).toNat % 128 = 0 → ∃ t x, exec (.tunopInstall p) s = .next t ∧ t.packet? p = some x ∧
        ((x.state = .started ∧ ∃ tn, t.tuns = tn :: s.tuns ∧ tn.packet = some p ∧ tn.installing = true) ∨ (t.tuns = s.tuns ∧ x.state ≠ .waiting))) ∧
      (k.type = 10 → w 1 ≠ 0 → (w 2).toNat < 4096 → s.draws = [] → ∀ (tn : Tun) (pa : Nat), s.tun? (w 2).toNat = some tn → tn.part = p.part → tn.installing = false →
        tn.slots = [] → Reaches54 s vcp needW (w 4) 8 pa → ∃ t, exec (.tunopFree p) s = .next t ∧ t.tuns = s.tuns.filter (fun y => y.num != (w 2).toNat) ∧
          StoresAt s t (.hbm pa) 8 ((w 2).toNat * 256) ∧ t.packet? p = some { k with state := .complete, code := 0, since := s.clock }) ∧
      (k.type = 11 → s.runs = [] → s.teams = [] → s.engines = [] → s.remotes = [] → part.slotsUsed.length + unitsHeld s p.part s.uid ≤ imgUnits s p.part →
        let size := (Config.saveAreaSize (saveQueues k.words).length 0).toNat
        let pages := max 1 ((size + 65535) / 65536)
        size ≤ (w 2).toNat → ∀ pa : Nat → Nat, (∀ j, j < pages → Reaches54 s vcp needW (w 1 + BitVec.ofNat 64 (65536 * j)) 8 (pa j)) → ∃ t, exec (.saveq p) s = .next t ∧
          (∀ x, (∀ j, j < pages → ¬ (pa j ≤ x ∧ x < pa j + 65536)) → memRead t.hbm x = memRead s.hbm x) ∧ t.scratch = s.scratch ∧ t.dieScratch = s.dieScratch ∧
          t.acc = s.acc ∧ done t 0 ∧ (∃ a, t.saves = s.saves.filter (fun y => !(y.part == p.part && y.area == w 1)) ++ [a] ∧ a.part = p.part ∧ a.area = w 1 ∧
            a.queues.map (·.1) = saveQueues k.words) ∧
          ∀ q ∈ saveQueues k.words, (t.part p.part).qState q = 3 ∧ (t.part p.part).qEn q = false) ∧
      (k.type = 12 → saveAt s p.part (w 1) = none → ∃ t, exec (.restq p) s = .next t ∧ done t 10) ∧
      (k.type = 12 → s.teams = [] → ∀ (a : SaveArea) (q : Nat) (c0 c1 c2 c3 c4 c5 c6 c7 : DWord), saveAt s p.part (w 1) = some a → a.queues = [(q, [c0, c1, c2, c3, c4, c5, c6, c7])] →
        a.progs = [] → part.qState q = 3 → 4 ≤ c1.toNat % 2 ^ 5 → c1.toNat % 2 ^ 5 ≤ 16 → (part.wptr q + 2 ^ 32 - c3.toNat % 2 ^ 32) % 2 ^ 32 ≤ 2 ^ (c1.toNat % 2 ^ 5) →
        ∃ t, exec (.restq p) s = .next t ∧ SameMemory s t ∧ done t 0 ∧ (t.part p.part).qState q = 1 ∧ (t.part p.part).qEn q = true ∧
          (t.part p.part).rptr q = c3.toNat % 2 ^ 32 ∧ (t.part p.part).cptr q = c4.toNat % 2 ^ 32 ∧ (t.part p.part).qReg q 0 = c0)) ∧
    (k.type = 4 → k.state = .started → vcpRuns s p.part = true → part.qState p.queue ≠ 3 →
      (∀ pa, s.remotes = [] → Reaches54 s vcp needR (w 1) 8 pa → poisonedRange s pa 8 = false → sigAt s (.hbm pa) 8 = [] → home pa →
        let m := BitVec.ofNat 64 (memReadNat s.hbm pa 8) &&& w 3
        (w 4).toNat % 8 = 0 → ∃ t, exec (.waitmemReread p) s = .next t ∧ SameMemory s t ∧
          t.packet? p = some (if m = w 2 then { k with state := .complete, code := 0 } else k)) ∧
      (w 5 ≠ 0 → k.since.toNat + (w 5).toNat * 1750 ≤ s.clock.toNat → ∃ t, exec (.waitmemTimeout p) s = .next t ∧ SameMemory s t ∧ done t 7)) ∧
    (k.type = 7 → k.state = .waiting → vcpRuns s p.part = true → ∃ t, exec (.patch p) s = .next t ∧ SameMemory s t ∧ done t 0 ∧
      (t.part p.part).patches = part.patches ++ [{ obj := w 1, node := (w 2).toNat, quad := (w 3).toNat, value := w 4, bytes := BitVec.ofNat 8 (w 5).toNat }]) ∧
    (k.type = 6 → k.state = .waiting → k.submitted = false → vcpRuns s p.part = true → ∀ s1 l reent, readGraph s p.part p.queue k.words = (s1, .nodes l reent) →
      ∃ t, exec (.graph p) s = .next t ∧ t.packet? p = some { k with nodes := l, reent := reent, submitted := true, ctx := (List.range 5).map (fun j => part.devReg (0x40 + 8 * j)) })

/-- R328, R403, R407, R408, R411, R414, R416, R420: the rows of the fabric. A host request that no enabled window of its key accepts is refused; an accepted byte lands
at its place, one read comes back, a doorbell counts. A request of another Akzan is refused without an enabled partition of its key or a place the second
stage permits, and else performed with both answers: a read, a write, a 64-bit add. An ACCEPT takes a split past its access, a COMPLETE brings the result; a packet's
access completes it, with FAULT after a NAK or REMTMO, which is the model's choice: log entry 66. A due deadline entry flushes its header; a gang notice fails the
matching entry and its members. -/
def Obligations.FabricRequestsAndAnswersTakeEffect : Prop :=
  ∀ s : State, s.memoriesWf = true → s.boot = .running →
    let sends (t : State) (l : List FabricMsg) : Prop := t.egress = s.egress ++ l
    (∀ port, exec (.unreliablePacket port) s = .next { s with kiln := { s.kiln with porterr := s.kiln.porterr + 1 } }) ∧
    (∀ (h : HostRef) (addr : DWord) (b : Byte) (i : Instr), i ∈ [Instr.hostWrite h addr [b], .hostRead h addr 1, .doorbell h] → hostPart s h = none →
      exec i s = .next { s with egress := s.egress ++ [.hostNak h.port 1] }) ∧
    (∀ (h : HostRef) (p : Nat), hostPart s h = some p →
      (h.port < (s.part p).mailboxes.length → ∃ t, exec (.doorbell h) s = .next t ∧ SameMemory s t ∧ sends t [.hostAck h.port] ∧
        t.mailbox p h.port = { s.mailbox p h.port with door := (s.mailbox p h.port).door + 1 } ∧ ∀ x, x ≠ h.port → t.mailbox p x = s.mailbox p x) ∧
      (∀ (addr : DWord) (b : Byte) (pa : Nat), cacheLine? s .l1 (portCore h.port) (pa / 128) = none →
        (Reaches54 s (hostCtx s p h.port) needW addr 1 pa → sigRoom s (.hbm pa) → ∃ t, exec (.hostWrite h addr [b]) s = .next t ∧ StoresAt s t (.hbm pa) 1 b.toNat ∧
          sends t [.hostAck h.port]) ∧
        (Reaches54 s (hostCtx s p h.port) needR addr 1 pa → poisoned s (.hbm pa) = false → sigAt s (.hbm pa) 1 = [] →
          ∃ t, exec (.hostRead h addr 1) s = .next t ∧ SameMemory s t ∧ sends t [.hostData h.port [memRead s.hbm pa]]))) ∧
    (∀ r : RemoteReq, jobPart s r.key = none → exec (.remoteRequest r) s = .next { s with egress := s.egress ++ [.nak r.src 1] }) ∧
    (∀ (r : RemoteReq) (p : Nat), jobPart s r.key = some p →
      (∀ n, r.op = .read n →
        (∀ u, homeCheck s p r.off needR = (u, none) → exec (.remoteRequest r) s = .next { u with egress := u.egress ++ [.nak r.src 1] }) ∧
        (∀ u pa, homeCheck s p r.off needR = (u, some pa) → homePage u p r.off pa = .plain → poisonedRange u pa n = false → r.order = 0 →
          exec (.remoteRequest r) s = .next { u with egress := s.egress ++ [.accept r.src, .complete r.src ((List.range n).map (fun k => memRead u.hbm (pa + k)))] })) ∧
      (∀ bs, r.op = .write bs →
        (∀ u, homeCheck s p r.off needW = (u, none) → exec (.remoteRequest r) s = .next { u with egress := u.egress ++ [.nak r.src 1] }) ∧
        (∀ u pa, homeCheck s p r.off needW = (u, some pa) → homePage u p r.off pa = .plain → r.order = 0 → ∃ t, exec (.remoteRequest r) s = .next t ∧
          StoresAt (homeDirty u p r.off) t (.hbm pa) bs.length (leNat bs) ∧ sends t [.accept r.src, .complete r.src []])) ∧
      (∀ v u pa, r.op = .rmw 0 7 v → homeCheck s p r.off needRW = (u, some pa) → homePage u p r.off pa = .plain → poisoned u (.hbm pa) = false → r.order = 0 →
        sigAt u (.hbm pa) 8 = [] → cacheLine? u .l1 (deviceCore r.src) (pa / 128) = none → ∃ t, exec (.remoteRequest r) s = .next t ∧
          let m := homeDirty u p r.off
          StoresAt m t (.hbm pa) 8 (memReadNat m.hbm pa 8 + v.toNat) ∧
          sends t [.accept r.src, .complete r.src ((List.range 8).map (fun k => memRead m.hbm (pa + k)))])) ∧
    (∀ (o : RemoteOut) (r : RemoteLane) (g : Group) (sp : Split) (n : Nat), s.remotes = [o] → o.lanes = [r] → r.op = .read n → o.engine = none → o.packet = none →
      o.run = none → o.phase = none → o.drawTmo = none → o.uniform = false → o.atComplete = false → o.reg = true → o.faults = [] → o.group = g.uid → o.split = sp.slot →
      g.uid ≠ 0 → s.split? ⟨g.uid, sp.slot⟩ = some (g, sp) → g.gstate = .resident →
      (r.state = .waiting → o.released = false → sp.status = .parked (.statuses o.op) → ∃ t g' sp', exec (.remoteAnswer o.id (.accept 0)) s = .next t ∧
        SameMemory s t ∧ t.group? g.uid = some g' ∧ OtherGroupsKept s t g.uid ∧ OnlySplit g g' sp sp' ∧ g' = { g with splits := g'.splits } ∧
        sp' = { sp with pc := sp.pc + 12, status := .ready, readySince := s.clock, aging := 0, lastTrap := sp'.lastTrap, fenceWait := none } ∧
        t.remotes = [{ o with lanes := [{ r with state := .accepted }], released := true }]) ∧
      (r.state = .accepted → o.released = true → sp.pend = [⟨o.op, [], true⟩] → 0 < tyRegs o.ty → o.order = 0 → r.unpack = none → ∀ data, ∃ t g' sp',
        exec (.remoteAnswer o.id (.complete 0 data)) s = .next t ∧ SameMemory s t ∧ t.group? g.uid = some g' ∧ OtherGroupsKept s t g.uid ∧ OnlySplit g g' sp sp' ∧
        sp' = { sp with pend := [⟨o.op, vWrites r.lane o.dst (tyRegs o.ty) (loadImage o.ty (leNat data)), false⟩] } ∧
        g' = { g with splits := g'.splits, flights := g'.flights } ∧ (∀ x ∈ g'.flights, x.op = o.op → x.done = true) ∧ t.remotes = [])) ∧
    (∀ (o : RemoteOut) (r : RemoteLane) (k : Packet), s.remotes = [o] → o.lanes = [r] → r.state = .waiting → o.engine = none → o.packet = some k.ref →
      s.packet? k.ref = some k → k.type ≠ 4 → (o.order = 0 ∨ writesOnly r = true) →
      let ends (i : Instr) (code : BitVec 8) : Prop := ∃ t, exec i s = .next t ∧ SameMemory s t ∧ t.remotes = [] ∧
        t.packet? k.ref = some { k with state := .complete, code := code }
      (∀ data, ends (.remoteAnswer o.id (.complete 0 data)) 0) ∧ (∀ sub, ends (.remoteAnswer o.id (.nak 0 sub)) 1) ∧
      (r.since.toNat + s.remtmo ≤ s.clock.toNat → ends (.remtimeout o.id) 1)) ∧
    (∀ p k pa : Nat, flushDue s p k = true → dltLen s p k = 0 → Reaches54 s (dltCtx s p k) needW (dltFwd s p k) 64 pa → sigRoom s (.hbm pa) →
      let e := dltBase s p + 64 * k
      (pa + 64 ≤ e ∨ e + 64 ≤ pa) → ∃ t, exec (.deadlineFlush p k) s = .next t ∧
        (∀ (j v : Nat), (j, v) ∈ [(0, memReadNat s.hbm (e + 56) 4), (1, memReadNat s.hbm (e + 32) 8), (2, memReadNat s.hbm (e + 24) 8), (3, s.clock.toNat), (4, 0), (5, 0),
          (6, 0), (7, 0)] → memReadNat t.hbm (pa + 8 * j) 8 = v) ∧
        memReadNat t.hbm (e + 48) 8 = memReadNat s.hbm (e + 48) 8 / 4 * 4 + 2 ∧
        (∀ x, ¬ (pa ≤ x ∧ x < pa + 64) → ¬ (e + 48 ≤ x ∧ x < e + 56) → memRead t.hbm x = memRead s.hbm x)) ∧
    (∀ (p k : Nat) (key : BitVec 32) (gkey : Word) (r : Grid) (g : Group) (sp : Split), p < 16 → (∀ q, q ≠ p → gangBase s q = 0) → matchingGangs s p key gkey = [k] →
      (s.part p).devReg 0x20 = 0 → sigRoom s (.hbm (gangBase s p + 64 * k + 48)) → gangField s p k 6 8 8 = 0 → s.grids = [r] → r.part = p → gangOf s p r.packet.queue = some k → g.grid = r.uid → s.groups = [g] →
      g.splits = [sp] → sp.status = .ready → ∃ t g', exec (.gangNotice ⟨key, gkey⟩) s = .next t ∧ BytesKept s.hbm t.hbm (gangBase s p + 64 * k + 48) 8 ∧
        memReadNat t.hbm (gangBase s p + 64 * k + 48) 8 = memReadNat s.hbm (gangBase s p + 64 * k + 48) 8 % 2 ^ 62 + 2 ^ 62 ∧ t.egress = s.egress ∧
        t.groups = [g'] ∧ g' = { g with splits := [{ sp with gangFail := some 1 }] })

/-- R371, R391, R417, R418, R420 to R425: the rows of bring-up, firmware and errors. Rails come up in their order; a reset starts a verified image, with every SRAM zero and every partition
block clear, else recovery; an image is stored when it is verified; power loss leaves nothing volatile; I3C reads answer; a poll of the monitors lowers the clock, halves the
budgets or shuts down; the attestation report stands behind its nonce; a detected error is recorded, and a lasting one in HBM poisons its unit. That the clock
returns to 1 750 MHz at once, and what outlives a reset and a loss of power, are the model's choices: log entries 82 and 83. -/
def Obligations.BringUpMonitorsAndErrorsTakeEffect : Prop :=
  ∀ s : State, s.memoriesWf = true →
    let verified (m : FirmwareImage) : Prop := m.whole = true ∧ m.signed = true ∧ s.fusedMin ≤ m.version
    (s.rails = [] → exec (.powerUp .io) s = .next { s with rails := [(.io, s.clock)] }) ∧
    (∀ a, s.rails = [(.io, a)] → s.clock.toNat ≤ a.toNat + 10000 * 1750 → exec (.powerUp .memory) s = .next { s with rails := [(.io, a), (.memory, s.clock)] }) ∧
    (∀ a b, s.rails = [(.io, a), (.memory, b)] → s.clock.toNat ≤ b.toNat + 10000 * 1750 →
      exec (.powerUp .core) s = .next { s with rails := [(.io, a), (.memory, b), (.core, s.clock)] }) ∧
    (∀ a b c, s.rails = [(.io, a), (.memory, b), (.core, c)] → ∃ t, exec .resetRelease s = .next t ∧ t.hbm = s.hbm ∧ t.scratch = [] ∧ t.dieScratch = [] ∧ t.acc = [] ∧ t.caches = [] ∧
      t.parts = List.replicate 16 {} ∧ t.groups = [] ∧ t.engines = [] ∧ t.tuns = [] ∧ t.packets = [] ∧ t.clock = s.clock ∧ t.firmware = s.firmware ∧
      (verified s.firmware → t.boot = .running ∧ t.booted = s.firmware ∧
        t.devid = if Config.deviceAddress s.firmware.content = 0xFFFFFFFF#32 then 0 else Config.deviceAddress s.firmware.content) ∧
      (¬ verified s.firmware → t.boot = .recovery ∧ t.devid = s.devid)) ∧
    (∀ img, (s.boot = .recovery ∨ (s.boot = .running ∧ ∀ p ∈ s.parts, p.pstate = 0)) →
      (verified img → exec (.provisioningImage img 0) s = .next { s with firmware := img }) ∧ (¬ verified img → exec (.provisioningImage img 0) s = .next s)) ∧
    (∀ w, ∃ t, exec (.powerLoss w) s = .next t ∧ t.rails = [] ∧ t.boot = .held ∧ t.hbm = [] ∧ t.scratch = [] ∧ t.dieScratch = [] ∧ t.acc = [] ∧ t.groups = [] ∧
      t.parts = List.replicate 16 {} ∧ t.firmware = if w then { s.firmware with whole := false } else s.firmware) ∧
    exec (.i3cRead .rasCount) s = .next { s with i3c := s.kiln.rascount.toNat } ∧ exec (.i3cRead .portErr) s = .next { s with i3c := s.kiln.porterr.toNat } ∧
    (∀ what, what ≠ .rasCount → what ≠ .portErr → ∃ v : DWord, exec (.i3cRead what) s = .next { s with i3c := v.toNat, free := s.free + 1 }) ∧
    (∀ code, exec (.i3cCcc code) s = .next s) ∧
    (∀ (die : Nat) (r : MonitorReading), s.boot = .running → die < 4 → s.dieClock.length = 4 → 
      let q : Thresholds := r.setLimits.getD s.limits
      let nominal (i : Nat) : Nat := if i < 6 then 450 else if i = 6 then 1100 else 750
      let volts (i : Nat) : Nat := if i < 6 then r.volts.getD i 450 else if i = 6 then r.memoryMv else r.ioMv
      let out (i : Nat) : Prop := nominal i * q.rail < 100 * (max (nominal i) (volts i) - min (nominal i) (volts i))
      let since (i : Nat) : DWord := (lookupNat (8 * die + i) s.railOut).getD s.clock
      let stops : Prop := (∃ x ∈ r.temps, q.stop ≤ x) ∨ ∃ i, i < 8 ∧ out i ∧ (since i).toNat + q.railUs * 1750 ≤ s.clock.toNat
      ∃ t, exec (.monitorPoll die r) s = .next t ∧
      (stops → t.boot = .shutdown ∧ t.powerOff = true ∧ t.scratch = [] ∧ t.dieScratch = [] ∧ t.acc = [] ∧ t.groups = []) ∧
      (¬ stops → SameMemory s t ∧ t.boot = .running ∧ t.limits = q ∧
        (∀ i, i < 8 → (out i → lookupNat (8 * die + i) t.railOut = some (since i)) ∧ (¬ out i → lookupNat (8 * die + i) t.railOut = none)) ∧
        (∀ n, r.setRemtmo = some n → 1750000 ≤ n → n ≤ 1750000000 → t.remtmo = n) ∧ (r.setRemtmo = none → t.remtmo = s.remtmo) ∧
        t.dieClock.getD die 0 = (if (∃ x ∈ r.temps, q.hot ≤ x) ∨ q.power < r.power ∨ overBudget s die = true then max 875 (s.dieClock.getD die 0 - 125) else 1750) ∧
        (∀ d, d ≠ die → t.dieClock.getD d 0 = s.dieClock.getD d 0) ∧ (q.current < r.current → t.halved = true) ∧
        (r.current ≤ q.current → r.current < q.currentClear → t.halved = false) ∧
        (q.currentClear ≤ r.current → r.current ≤ q.current → t.halved = s.halved) ∧ t.budgetBase = r.setBudget.or s.budgetBase ∧
        ∀ x ∈ t.budgets, x.limit = t.budgetBase.map (fun b => if t.halved then b / 2 else b))) ∧
    (∀ v : DWord, s.boot = .running →
      let a := (v.toNat + 64 + 8191) / 8192 * 8192
      a + 8192 ≤ 576 * 2 ^ 30 → sigRoom s (.hbm a) → ∃ t, exec (.attreq v) s = .next t ∧ BytesKept s.hbm t.hbm a 5461 ∧ t.scratch = s.scratch ∧ t.dieScratch = s.dieScratch ∧ t.acc = s.acc ∧
        memReadNat t.hbm a 64 = memReadNat s.hbm v.toNat 64 ∧ memReadNat t.hbm (a + 0x40) 4 = s.devid.toNat ∧
        memReadNat t.hbm (a + 0x44) 4 = s.booted.version % 2 ^ 32 ∧
        (∀ k, k < 64 → (shake256 s.booted.content)[k]? = some (memRead t.hbm (a + 0x48 + k)) ∧
          (shake256 ((List.range 16).flatMap (fun p => (List.range 32).flatMap (fun j => leBytes 8 ((s.part p).reg (8 * j)).toNat))))[k]? =
            some (memRead t.hbm (a + 0x88 + k)))) ∧
    (∀ (a : Nat) (lasting : Bool), s.boot = .running → a < 576 * 2 ^ 30 → s.ras = [] → s.sigs = [] →
      let w := s.kiln.rascount.toNat
      let base := (s.kiln.rasbase &&& 0xFFFFFFFF8000#64).toNat
      let at0 := base + 32 * (w % 2 ^ 32 % 1024)
      ∃ t, exec (.errorRetry (.hbm a) lasting) s = .next t ∧ t.scratch = s.scratch ∧ t.dieScratch = s.dieScratch ∧ t.acc = s.acc ∧ t.groups = s.groups ∧
        (if lasting then poisoned t (.hbm a) = true else t.poison = s.poison) ∧
        (base = 0 → t.hbm = s.hbm ∧ t.kiln.rascount.toNat = (w / 2 ^ 32 + 1) % 2 ^ 32 * 2 ^ 32 + w % 2 ^ 32) ∧
        (base ≠ 0 → t.kiln.rascount.toNat = w / 2 ^ 32 * 2 ^ 32 + (w % 2 ^ 32 + 1) % 2 ^ 32 ∧ BytesKept s.hbm t.hbm at0 32 ∧ memReadNat t.hbm at0 8 = s.clock.toNat ∧
          memReadNat t.hbm (at0 + 8) 8 = (if lasting then 256 else 0) + a / (144 * 2 ^ 30) * 65536 ∧ memReadNat t.hbm (at0 + 16) 8 = a / 64 * 64 ∧
          memReadNat t.hbm (at0 + 24) 8 = 0))

/-! ### Encodings -/

/-- R144, R145, R147, R148, R158, R159, R268, R269, R354: words of every format, written out from the encoding tables, decode to the instructions they stand for; words with a
reserved field set, an unassigned opcode or the guard !K7 are refused. -/
def Obligations.WordsOfTheSpecDecode : Prop :=
  let always : Hdr := { gn := false, g := 7, w := false }
  decodeShort 0x0610811C#32 = .ok (.sadd always { i := false, b := 3, a := 2, d := 4 }) ∧
  decodeShort 0xFFFF8804#32 = .ok (.jmp { gn := false, g := 1, w := false } { off := 0x7FFFC }) ∧
  decodeShort 0x4000A09C#32 = .ok (.sli always { imm := 0x800, d := 5 }) ∧
  decodeShort 0x0A35241C#32 = .ok (.scmp always { i := false, b := 5, a := 6, d := 0x29 }) ∧
  decodeShort 0x0090099C#32 = .ok (.syscall always { imm := 0x12, d := 0 }) ∧
  decodeLong 0x0204009F#32 0x00060003#32 0 =
    .ok (.iadd { gn := false, g := 7, w := true } { a := 2, d := 4, sc := 0, mo := 0, sat := false, rm := 0, ty := 6, c := 0, b := 3, x := 0 }) ∧
  decodeLong 0x0203A01D#32 0x00000100#32 0x40#32 =
    .ok (.ld always { a := 2, d := 3, sc := 0, mo := 0, sat := false, rm := 0, ty := 0, c := 1, b := 0, x := 0x40 }) ∧
  decodeLong 0x040AE01D#32 0x00000605#32 0 =
    .ok (.mma always { a := 4, d := 10, sc := 0, mo := 0, sat := false, rm := 0, ty := 0, c := 6, b := 5, x := 0 }) ∧
  decodeLauter 0x500003019#64 = .ok (.lauterLoop { imm32 := 5, imm12 := 0, b := 0, a := 3, d := 0 }) ∧
  decodeLauter 0x0123#64 = .ok (.lauterMovt { imm32 := 0, imm12 := 0, b := 0, a := 0, d := 1 }) ∧
  decodeLauter 0x1A502032#64 = .ok (.lauterWaitb { imm32 := 0, imm12 := 0x1A5, b := 0, a := 2, d := 0 }) ∧
  decodeSteep 0x0000040B#32 = .ok (.steepLdw { imm := 0, a := 0, d := 4 }) ∧
  decodeSteep 0x0008400E#32 = .ok (.steepBnz { imm := 8, a := 4, d := 0 }) ∧
  decodeShort 0x0000201C#32 = .error (.illegal 0x00) ∧ decodeShort 0x0610813C#32 = .error (.illegal 0x04) ∧ decodeShort 0x0000061C#32 = .error (.unassigned 0x18) ∧
  decodeLong 0x000007DD#32 0 0 = .error (.unassigned 0x01F) ∧ decodeLauter 0x0D#64 = .error (.unassigned 0x0D) ∧ decodeLauter 0x13F#64 = .error (.illegal 0x3F) ∧
  decodeSteep 0x16#32 = .error (.unassigned 0x16)

/-- R144, R147, R148, R268, R354: an instruction of any of the three sets that is well formed is encoded in words from which its decoder reads it back, every operand at every value, and leaves
the bytes after it; and what a decoder reads is well formed, of its set, and encoded in the bytes it was read from. -/
def Obligations.DecodingInvertsEncoding : Prop :=
  (∀ (k : Isa) (i : Instr) (rest : List Byte), i.isa = some k → i.wellFormed = true → decodeIn k (encodeBytes i ++ rest) = .ok (i, rest)) ∧
  (∀ (k : Isa) (i : Instr) (bs rest : List Byte), decodeIn k bs = .ok (i, rest) → i.isa = some k ∧ i.wellFormed = true ∧ bs = encodeBytes i ++ rest)

/-! ### The machine as a whole -/

/-- R145, R152, R154, R268, R351, R363: a step that the schedule gives to a split, an engine or a steep run executes the instruction which the bytes at its program counter decode to; bytes of a
short word that decode to none raise ILLOP. A row of the table that the schedule names happens; with nothing scheduled the due rows of one cycle happen, and in it each quadrant's
split of highest priority that has waited longest, each engine and each steep run executes one instruction (R364; the schedule is the model's: log entry 6). What
lanes still see as it was ends before an instruction that may order accesses (the model's: log entry 4). -/
def Obligations.StepRunsTheDecodedInstruction : Prop :=
  ∀ s : State,
    (∀ (dt : Nat) (xs : List AgendaItem),
      let u : State := { s with agenda := xs, clock := if s.boot = .shutdown then s.clock else s.clock + BitVec.ofNat 64 dt, actor := .nobody }
      let page (c : Ctx) (va n pa : Nat) : Prop := va % n = 0 ∧ pa % n = 0 ∧ poisoned u (.hbm pa) = false ∧ ∃ e, tlbFind u (192 + c.core) c va = some e ∧
        permSub c e needX = none ∧ pa = e.pbase + (va - e.vbase) ∧ pa < apertureBase ∧ e.ptype = 0 ∧ e.efmt ≠ 15 ∧ e.efmt ≠ 16
      (∀ i, s.agenda = ⟨dt, .event i⟩ :: xs → step s = exec i { u with veils := [] }) ∧
      (∀ (r : SplitRef) (g : Group) (sp0 : Split) (pa : Nat), s.agenda = ⟨dt, .issue r⟩ :: xs → u.split? r = some (g, sp0) → canRun u g = true → sp0.mayIssue = true →
        let sp := sp0.issuing u.clock
        let g1 := g.setSplit sp
        let v := u.setGroup g1
        let found (n : Nat) : Prop := sp.prefetch = [] ∧ ∀ k, k < n → page (splitCtx g1 sp) (sp.pc + BitVec.ofNat 54 (4 * k)).toNat 4 (pa + 4 * k) ∧
          cacheLine? u .instr g.core ((pa + 4 * k) / 128) = none
        let bytes (n : Nat) : List Byte := (List.range (4 * n)).map (fun k => memRead u.hbm (pa + k))
        pendingCause v g1 sp = none → sp.poisonAt = none → waitingCause sp = none → sp.farPc = 0 →
        (∀ n i, found n → decodeKloam (bytes n) = .ok (i, []) → ∃ t : State, t = { v with caches := t.caches } ∧ step s = exec i (settleVeils i { t with actor := .split r })) ∧
        (∀ e, found 1 → decodeKloam (bytes 1) = .error e → bit (memReadNat u.hbm pa 4) 0 = false → bit (memReadNat u.hbm pa 4) 1 = false → sp.runOn = none →
          ∃ t : State, t = { v with caches := t.caches } ∧ step s = .next (raise t g1 sp { code := 0x01 } [BitVec.ofNat 32 (memReadNat u.hbm pa 4)]))) ∧
      (∀ (r : EngRef) (p : Program) (pa : Nat) (i : Instr), s.agenda = ⟨dt, .engine r⟩ :: xs → u.prog? r = some p → engineRuns u p = true → p.state = .running →
        page p.ctx p.pc.toNat 8 pa → cacheLine? u .l1 r.core (pa / 128) = none → decodeLauter (BitVec.ofNat 64 (memReadNat u.hbm pa 8)) = .ok i →
        step s = exec i (settleVeils i { u with actor := .engine r })) ∧
      (∀ (id : Nat) (x : SteepRun) (w : Word) (i : Instr), s.agenda = ⟨dt, .steep id⟩ :: xs → u.run? id = some x → u.boot = .running → x.waitv = none → x.away = false →
        x.steep.code[x.pc]? = some w → decodeSteep w = .ok i → step s = exec i { u with veils := [], actor := .steep id }) ∧
      (∀ i, s.veils = [] ∨ lingers i = false → settleVeils i s = { s with veils := [] })) ∧
    (s.agenda = [] →
      let u := beginCycle (tick { s with clock := if s.boot = .shutdown then s.clock else s.clock + 1, actor := .nobody, veils := [] })
      let acts (a : Action) (v : State) : Host.Outcome State Fault Refusal := match performSeen a v with | (t, some i) => exec i t | (t, none) => .next t
      (∀ a l, s.turns = a :: l → step s = acts a { s with turns := l, actor := .nobody }) ∧
      (s.turns = [] → (u.turns = [] → step s = .next u) ∧ ∀ a l, u.turns = a :: l → step s = acts a { u with turns := l }) ∧
      (∀ (q : Nat) (x : Contender), (∀ y ∈ readySplits s, y.quad = q → y ≠ x → x.sooner y = true) → x ∈ readySplits s → x.quad = q → q ∉ s.slow →
        Action.issue x.split ∈ (beginCycle s).turns))

/-- R12, R33, R155, R328, R331, R385, R391, R408, R420, R423: at reset nothing runs, every partition block, device-register page and mailbox window reads zero, the Kiln's registers are zero, REMTMO is
20 ms, every die's clock 1.75 GHz, and every memory is in canonical form, listing nothing. That HBM reads as zero, and that WAYMASK and QCOUNT of a page are zero before EN, is the model's choice: log entries 2 and 3. -/
def Obligations.ResetLeavesTheStatedValues : Prop :=
  let s := State.reset
  s.memoriesWf = true ∧ s.boot = .held ∧ s.tlb = [] ∧ s.caches = [] ∧ s.groups = [] ∧ s.teams = [] ∧ s.grids = [] ∧ s.engines = [] ∧ s.tuns = [] ∧ s.packets = [] ∧ s.steeps = [] ∧ s.runs = [] ∧
  s.remtmo = 20 * 1000 * 1750 ∧ s.dieClock = [1750, 1750, 1750, 1750] ∧
  (s.kiln.pfbase = 0 ∧ s.kiln.pfcount = 0 ∧ s.kiln.rasbase = 0 ∧ s.kiln.rascount = 0 ∧ s.kiln.nodedup = 0 ∧ s.kiln.porterr = 0 ∧ s.kiln.steepreq = []) ∧
  (∀ p off : Nat, (s.part p).reg off = 0 ∧ (s.part p).devReg off = 0) ∧
  (∀ p port : Nat, s.mailbox p port = { en := false, asid := 0, wkey := 0, door := 0, err := 0 }) ∧
  (∀ a : Nat, memRead s.hbm a = 0 ∧ memRead s.scratch a = 0 ∧ memRead s.dieScratch a = 0 ∧ memRead s.acc a = 0)

/-- Every step keeps each translation a TLB holds that of a whole page or block, at a multiple of its size, onto as large a piece at a multiple of it (R375,
R377, R382), and no cache holding a line twice: what `Reaches54` and the statements on lines take for granted. -/
def Obligations.StepsKeepTranslationsAlignedAndLinesUnique : Prop :=
  Invariant (fun s => (∀ e ∈ s.tlb, e.aligned) ∧ s.caches.Pairwise (fun c d => ¬ (c.kind = d.kind ∧ c.core = d.core ∧ c.line = d.line)))

/-- Every step keeps the four memories and every partition's device-register page in canonical form: addresses rise, and no listed byte is what an unlisted one
reads as. -/
def Obligations.StepsKeepMemoriesCanonical : Prop := Invariant (fun s => s.memoriesWf = true)
end

