-- ==== Sys2Proof/Laws/Caches.lean ====
section
/-! SUPPORT. The shared operations of caches, signatures and poison: each lemma says what an operation does when there is nothing for it to do,
or which parts of the state it leaves alone. -/

namespace Sys2Proof.Machine

/-! ### Lines -/

theorem dropLine_none (s : State) (k : CacheKind) (core line : Nat) (h : cacheLine? s k core line = none) : dropLine s k core line = s := by
  unfold dropLine
  have : s.caches.filter (fun c => !c.is k core line) = s.caches := by
    refine List.filter_eq_self.2 fun c hc => ?_
    have := List.find?_eq_none.1 h c hc
    simp only [CacheLine.is, Bool.not_eq_true'] at *
    exact Bool.eq_false_iff.2 this
  rw [this]
/-- A core that holds no copy of a line has nothing to write back. -/
theorem writeBack_none (s : State) (core line : Nat) (h : cacheLine? s .l1 core line = none) : writeBack s core line = s := by
  simp [writeBack, h]
/-- A clean copy has nothing to write back. -/
theorem writeBack_clean (s : State) (core line : Nat) (c : CacheLine) (h : cacheLine? s .l1 core line = some c) (hd : c.dirty = 0) :
    writeBack s core line = s := by simp [writeBack, h, hd]
theorem flushLine_none (s : State) (core line : Nat) (h : cacheLine? s .l1 core line = none) : flushLine s core line = s := by
  simp [flushLine, writeBack_none s core line h, dropLine_none s .l1 core line h]
/-- A cache with room for one more line gives up none. -/
theorem makeRoom_room (s : State) (k : CacheKind) (core : Nat) (h : ∀ n, k.lines = some n → (kindLines s k core).length < n) :
    makeRoom s k core = s := by
  unfold makeRoom
  split
  · rfl
  · next n hn => simp [h n hn]
/-- A line that is held through this interval stays as it is. -/
theorem fillLine_held (s : State) (k : CacheKind) (core line : Nat) (va : Nat × Nat) (c : CacheLine) (h : cacheLine? s k core line = some c)
    (hv : va ∈ c.vas) : fillLine s k core line va = s := by simp [fillLine, h, hv]

/-! ### Records of writes -/

@[simp] theorem touch_hbm (s : State) (core line : Nat) : (touch s core line).hbm = s.hbm := by unfold touch; split <;> rfl
@[simp] theorem touch_caches (s : State) (core line : Nat) : (touch s core line).caches = s.caches := by unfold touch; split <;> rfl
@[simp] theorem touch_groups (s : State) (core line : Nat) : (touch s core line).groups = s.groups := by unfold touch; split <;> rfl
@[simp] theorem touch_sigs (s : State) (core line : Nat) : (touch s core line).sigs = s.sigs := by unfold touch; split <;> rfl
@[simp] theorem touch_poison (s : State) (core line : Nat) : (touch s core line).poison = s.poison := by unfold touch; split <;> rfl
/-- After it, the pair is recorded. -/
theorem mem_touch (s : State) (core line : Nat) : (core, line) ∈ (touch s core line).touched := by
  unfold touch
  split
  · next h => simpa using h
  · simp

/-! ### Signatures -/

@[simp] theorem endSequence_hbm (s : State) (l : Loc) (n : Nat) : (endSequence s l n).hbm = s.hbm := rfl
@[simp] theorem endSequence_caches (s : State) (l : Loc) (n : Nat) : (endSequence s l n).caches = s.caches := rfl
@[simp] theorem endSequence_groups (s : State) (l : Loc) (n : Nat) : (endSequence s l n).groups = s.groups := rfl
/-- After a plain write nothing is released there. -/
theorem sigAt_endSequence (s : State) (l : Loc) (n : Nat) : sigAt (endSequence s l n) l n = [] := by
  have : ((endSequence s l n).sigs.filter (fun g => locMeets g.loc g.size l n)) = [] := by
    simp only [endSequence, List.filter_filter, List.filter_eq_nil_iff]
    intro g _
    cases locMeets g.loc g.size l n <;> simp
  simp [sigAt, this]
/-- An acquire that reads no signature drops the scale cache and nothing else (R63). -/
theorem applySig_nil (s : State) (core : Nat) : applySig s core [] = dropScales s core := rfl
/-- With fewer than 256 entries no table is full. -/
theorem retireOldest_few (s : State) (l : Loc) (h : s.sigs.length < 256) : retireOldest s l = s := by simp [retireOldest, h]
/-- A release that covers no line, where none is stored, leaves no entry. -/
theorem deposit_nil (s : State) (l : Loc) (n : Nat) : deposit s l n [] false = endSequence s l n := by simp [deposit, unionPairs]

/-! ### Poison -/

/-- A write of bytes of a unit that is not poisoned clears nothing. -/
theorem coverHalf_sound (s : State) (l : Loc) (n : Nat) (h : poisoned s l = false) : coverHalf s l n = s := by simp [coverHalf, h]
/-- Nor does one of any other length than a half unit. -/
theorem coverHalf_other (s : State) (l : Loc) (n : Nat) (h : n ≠ 32) : coverHalf s l n = s := by simp [coverHalf, h]
theorem coverPoison_other (s : State) (l : Loc) (n : Nat) (h : n ≠ 64) : coverPoison s l n = s := by simp [coverPoison, h]
@[simp] theorem setPoison_hbm (s : State) (l : Loc) : (setPoison s l).hbm = s.hbm := rfl
@[simp] theorem clearPoison_hbm (s : State) (l : Loc) : (clearPoison s l).hbm = s.hbm := rfl
theorem poisoned_setPoison (s : State) (l : Loc) : poisoned (setPoison s l) l = true := by
  unfold poisoned setPoison
  simp only
  split
  · assumption
  · simp
theorem poisoned_clearPoison (s : State) (l : Loc) : poisoned (clearPoison s l) l = false := by
  simp [poisoned, clearPoison]

end Sys2Proof.Machine
end

