-- ==== Sys2Proof/Laws/Dispatch.lean ====
section
/-! SUPPORT. The meaning of each instruction, one lemma for each constructor of `Instr`. -/

namespace Sys2Proof.Machine

theorem exec_nop (h : Hdr) (s : State) : exec (.nop h) s = execNop h s := rfl
theorem exec_smov (h : Hdr) (f : SRF) (s : State) : exec (.smov h f) s = execSmov h f s := rfl
theorem exec_sli (h : Hdr) (f : SIF) (s : State) : exec (.sli h f) s = execSli h f s := rfl
theorem exec_sshi (h : Hdr) (f : SIF) (s : State) : exec (.sshi h f) s = execSshi h f s := rfl
theorem exec_sadd (h : Hdr) (f : SRF) (s : State) : exec (.sadd h f) s = execSadd h f s := rfl
theorem exec_ssub (h : Hdr) (f : SRF) (s : State) : exec (.ssub h f) s = execSsub h f s := rfl
theorem exec_smul (h : Hdr) (f : SRF) (s : State) : exec (.smul h f) s = execSmul h f s := rfl
theorem exec_smulh (h : Hdr) (f : SRF) (s : State) : exec (.smulh h f) s = execSmulh h f s := rfl
theorem exec_sand (h : Hdr) (f : SRF) (s : State) : exec (.sand h f) s = execSand h f s := rfl
theorem exec_sor (h : Hdr) (f : SRF) (s : State) : exec (.sor h f) s = execSor h f s := rfl
theorem exec_sxor (h : Hdr) (f : SRF) (s : State) : exec (.sxor h f) s = execSxor h f s := rfl
theorem exec_sshl (h : Hdr) (f : SRF) (s : State) : exec (.sshl h f) s = execSshl h f s := rfl
theorem exec_sshr (h : Hdr) (f : SRF) (s : State) : exec (.sshr h f) s = execSshr h f s := rfl
theorem exec_ssra (h : Hdr) (f : SRF) (s : State) : exec (.ssra h f) s = execSsra h f s := rfl
theorem exec_smin (h : Hdr) (f : SRF) (s : State) : exec (.smin h f) s = execSmin h f s := rfl
theorem exec_smax (h : Hdr) (f : SRF) (s : State) : exec (.smax h f) s = execSmax h f s := rfl
theorem exec_scmp (h : Hdr) (f : SRF) (s : State) : exec (.scmp h f) s = execScmp h f s := rfl
theorem exec_klop (h : Hdr) (f : SRF) (s : State) : exec (.klop h f) s = execKlop h f s := rfl
theorem exec_spopc (h : Hdr) (f : SRF) (s : State) : exec (.spopc h f) s = execSpopc h f s := rfl
theorem exec_sclz (h : Hdr) (f : SRF) (s : State) : exec (.sclz h f) s = execSclz h f s := rfl
theorem exec_sld (h : Hdr) (f : SRF) (s : State) : exec (.sld h f) s = execSld h f s := rfl
theorem exec_sst (h : Hdr) (f : SRF) (s : State) : exec (.sst h f) s = execSst h f s := rfl
theorem exec_srd (h : Hdr) (f : SIF) (s : State) : exec (.srd h f) s = execSrd h f s := rfl
theorem exec_swr (h : Hdr) (f : SIF) (s : State) : exec (.swr h f) s = execSwr h f s := rfl
theorem exec_jmp (h : Hdr) (f : SBF) (s : State) : exec (.jmp h f) s = execJmp h f s := rfl
theorem exec_call (h : Hdr) (f : SBF) (s : State) : exec (.call h f) s = execCall h f s := rfl
theorem exec_jr (h : Hdr) (f : SRF) (s : State) : exec (.jr h f) s = execJr h f s := rfl
theorem exec_join (h : Hdr) (s : State) : exec (.join h) s = execJoin h s := rfl
theorem exec_exit (h : Hdr) (s : State) : exec (.exit h) s = execExit h s := rfl
theorem exec_trap (h : Hdr) (f : SIF) (s : State) : exec (.trap h f) s = execTrap h f s := rfl
theorem exec_syscall (h : Hdr) (f : SIF) (s : State) : exec (.syscall h f) s = execSyscall h f s := rfl
theorem exec_eret (h : Hdr) (s : State) : exec (.eret h) s = execEret h s := rfl
theorem exec_waitc (h : Hdr) (f : SRF) (s : State) : exec (.waitc h f) s = execWaitc h f s := rfl
theorem exec_bar (h : Hdr) (f : SRF) (s : State) : exec (.bar h f) s = execBar h f s := rfl
theorem exec_yield (h : Hdr) (s : State) : exec (.yield h) s = execYield h s := rfl
theorem exec_sleep (h : Hdr) (f : SRF) (s : State) : exec (.sleep h f) s = execSleep h f s := rfl
theorem exec_dwb (h : Hdr) (f : SRF) (s : State) : exec (.dwb h f) s = execDwb h f s := rfl
theorem exec_dinv (h : Hdr) (f : SRF) (s : State) : exec (.dinv h f) s = execDinv h f s := rfl
theorem exec_icinv (h : Hdr) (f : SRF) (s : State) : exec (.icinv h f) s = execIcinv h f s := rfl
theorem exec_fetchb (h : Hdr) (s : State) : exec (.fetchb h) s = execFetchb h s := rfl
theorem exec_mov (h : Hdr) (f : LongF) (s : State) : exec (.mov h f) s = execMov h f s := rfl
theorem exec_movi (h : Hdr) (f : LongF) (s : State) : exec (.movi h f) s = execMovi h f s := rfl
theorem exec_iadd (h : Hdr) (f : LongF) (s : State) : exec (.iadd h f) s = execIadd h f s := rfl
theorem exec_isub (h : Hdr) (f : LongF) (s : State) : exec (.isub h f) s = execIsub h f s := rfl
theorem exec_imul (h : Hdr) (f : LongF) (s : State) : exec (.imul h f) s = execImul h f s := rfl
theorem exec_imulh (h : Hdr) (f : LongF) (s : State) : exec (.imulh h f) s = execImulh h f s := rfl
theorem exec_imad (h : Hdr) (f : LongF) (s : State) : exec (.imad h f) s = execImad h f s := rfl
theorem exec_imin (h : Hdr) (f : LongF) (s : State) : exec (.imin h f) s = execImin h f s := rfl
theorem exec_imax (h : Hdr) (f : LongF) (s : State) : exec (.imax h f) s = execImax h f s := rfl
theorem exec_iabs (h : Hdr) (f : LongF) (s : State) : exec (.iabs h f) s = execIabs h f s := rfl
theorem exec_ineg (h : Hdr) (f : LongF) (s : State) : exec (.ineg h f) s = execIneg h f s := rfl
theorem exec_land (h : Hdr) (f : LongF) (s : State) : exec (.land h f) s = execLand h f s := rfl
theorem exec_lor (h : Hdr) (f : LongF) (s : State) : exec (.lor h f) s = execLor h f s := rfl
theorem exec_lxor (h : Hdr) (f : LongF) (s : State) : exec (.lxor h f) s = execLxor h f s := rfl
theorem exec_logt (h : Hdr) (f : LongF) (s : State) : exec (.logt h f) s = execLogt h f s := rfl
theorem exec_shl (h : Hdr) (f : LongF) (s : State) : exec (.shl h f) s = execShl h f s := rfl
theorem exec_shr (h : Hdr) (f : LongF) (s : State) : exec (.shr h f) s = execShr h f s := rfl
theorem exec_sra (h : Hdr) (f : LongF) (s : State) : exec (.sra h f) s = execSra h f s := rfl
theorem exec_bfe (h : Hdr) (f : LongF) (s : State) : exec (.bfe h f) s = execBfe h f s := rfl
theorem exec_bfi (h : Hdr) (f : LongF) (s : State) : exec (.bfi h f) s = execBfi h f s := rfl
theorem exec_popc (h : Hdr) (f : LongF) (s : State) : exec (.popc h f) s = execPopc h f s := rfl
theorem exec_clz (h : Hdr) (f : LongF) (s : State) : exec (.clz h f) s = execClz h f s := rfl
theorem exec_brev (h : Hdr) (f : LongF) (s : State) : exec (.brev h f) s = execBrev h f s := rfl
theorem exec_icmp (h : Hdr) (f : LongF) (s : State) : exec (.icmp h f) s = execIcmp h f s := rfl
theorem exec_sel (h : Hdr) (f : LongF) (s : State) : exec (.sel h f) s = execSel h f s := rfl
theorem exec_idiv (h : Hdr) (f : LongF) (s : State) : exec (.idiv h f) s = execIdiv h f s := rfl
theorem exec_irem (h : Hdr) (f : LongF) (s : State) : exec (.irem h f) s = execIrem h f s := rfl
theorem exec_idot4 (h : Hdr) (f : LongF) (s : State) : exec (.idot4 h f) s = execIdot4 h f s := rfl
theorem exec_bsel (h : Hdr) (f : LongF) (s : State) : exec (.bsel h f) s = execBsel h f s := rfl
theorem exec_nlut (h : Hdr) (f : LongF) (s : State) : exec (.nlut h f) s = execNlut h f s := rfl
theorem exec_plop (h : Hdr) (f : LongF) (s : State) : exec (.plop h f) s = execPlop h f s := rfl
theorem exec_ptov (h : Hdr) (f : LongF) (s : State) : exec (.ptov h f) s = execPtov h f s := rfl
theorem exec_vtop (h : Hdr) (f : LongF) (s : State) : exec (.vtop h f) s = execVtop h f s := rfl
theorem exec_fadd (h : Hdr) (f : LongF) (s : State) : exec (.fadd h f) s = execFadd h f s := rfl
theorem exec_fsub (h : Hdr) (f : LongF) (s : State) : exec (.fsub h f) s = execFsub h f s := rfl
theorem exec_fmul (h : Hdr) (f : LongF) (s : State) : exec (.fmul h f) s = execFmul h f s := rfl
theorem exec_ffma (h : Hdr) (f : LongF) (s : State) : exec (.ffma h f) s = execFfma h f s := rfl
theorem exec_fmin (h : Hdr) (f : LongF) (s : State) : exec (.fmin h f) s = execFmin h f s := rfl
theorem exec_fmax (h : Hdr) (f : LongF) (s : State) : exec (.fmax h f) s = execFmax h f s := rfl
theorem exec_fcmp (h : Hdr) (f : LongF) (s : State) : exec (.fcmp h f) s = execFcmp h f s := rfl
theorem exec_fdiv (h : Hdr) (f : LongF) (s : State) : exec (.fdiv h f) s = execFdiv h f s := rfl
theorem exec_fsqrt (h : Hdr) (f : LongF) (s : State) : exec (.fsqrt h f) s = execFsqrt h f s := rfl
theorem exec_frcp (h : Hdr) (f : LongF) (s : State) : exec (.frcp h f) s = execFrcp h f s := rfl
theorem exec_frsq (h : Hdr) (f : LongF) (s : State) : exec (.frsq h f) s = execFrsq h f s := rfl
theorem exec_fex2 (h : Hdr) (f : LongF) (s : State) : exec (.fex2 h f) s = execFex2 h f s := rfl
theorem exec_flg2 (h : Hdr) (f : LongF) (s : State) : exec (.flg2 h f) s = execFlg2 h f s := rfl
theorem exec_fsin (h : Hdr) (f : LongF) (s : State) : exec (.fsin h f) s = execFsin h f s := rfl
theorem exec_fcos (h : Hdr) (f : LongF) (s : State) : exec (.fcos h f) s = execFcos h f s := rfl
theorem exec_ftanh (h : Hdr) (f : LongF) (s : State) : exec (.ftanh h f) s = execFtanh h f s := rfl
theorem exec_fclass (h : Hdr) (f : LongF) (s : State) : exec (.fclass h f) s = execFclass h f s := rfl
theorem exec_fdot2 (h : Hdr) (f : LongF) (s : State) : exec (.fdot2 h f) s = execFdot2 h f s := rfl
theorem exec_hadd2 (h : Hdr) (f : LongF) (s : State) : exec (.hadd2 h f) s = execHadd2 h f s := rfl
theorem exec_hmul2 (h : Hdr) (f : LongF) (s : State) : exec (.hmul2 h f) s = execHmul2 h f s := rfl
theorem exec_hfma2 (h : Hdr) (f : LongF) (s : State) : exec (.hfma2 h f) s = execHfma2 h f s := rfl
theorem exec_frnd (h : Hdr) (f : LongF) (s : State) : exec (.frnd h f) s = execFrnd h f s := rfl
theorem exec_fscale (h : Hdr) (f : LongF) (s : State) : exec (.fscale h f) s = execFscale h f s := rfl
theorem exec_cvt (h : Hdr) (f : LongF) (s : State) : exec (.cvt h f) s = execCvt h f s := rfl
theorem exec_cvpk (h : Hdr) (f : LongF) (s : State) : exec (.cvpk h f) s = execCvpk h f s := rfl
theorem exec_cvup (h : Hdr) (f : LongF) (s : State) : exec (.cvup h f) s = execCvup h f s := rfl
theorem exec_qscl (h : Hdr) (f : LongF) (s : State) : exec (.qscl h f) s = execQscl h f s := rfl
theorem exec_qcvt (h : Hdr) (f : LongF) (s : State) : exec (.qcvt h f) s = execQcvt h f s := rfl
theorem exec_vxch (h : Hdr) (f : LongF) (s : State) : exec (.vxch h f) s = execVxch h f s := rfl
theorem exec_rdlane (h : Hdr) (f : LongF) (s : State) : exec (.rdlane h f) s = execRdlane h f s := rfl
theorem exec_wrlane (h : Hdr) (f : LongF) (s : State) : exec (.wrlane h f) s = execWrlane h f s := rfl
theorem exec_vote (h : Hdr) (f : LongF) (s : State) : exec (.vote h f) s = execVote h f s := rfl
theorem exec_fold (h : Hdr) (f : LongF) (s : State) : exec (.fold h f) s = execFold h f s := rfl
theorem exec_scan (h : Hdr) (f : LongF) (s : State) : exec (.scan h f) s = execScan h f s := rfl
theorem exec_samev (h : Hdr) (f : LongF) (s : State) : exec (.samev h f) s = execSamev h f s := rfl
theorem exec_vsrd (h : Hdr) (f : LongF) (s : State) : exec (.vsrd h f) s = execVsrd h f s := rfl
theorem exec_elect (h : Hdr) (f : LongF) (s : State) : exec (.elect h f) s = execElect h f s := rfl
theorem exec_brd (h : Hdr) (f : LongF) (s : State) : exec (.brd h f) s = execBrd h f s := rfl
theorem exec_lexit (h : Hdr) (f : LongF) (s : State) : exec (.lexit h f) s = execLexit h f s := rfl
theorem exec_ld (h : Hdr) (f : LongF) (s : State) : exec (.ld h f) s = execLd h f s := rfl
theorem exec_st (h : Hdr) (f : LongF) (s : State) : exec (.st h f) s = execSt h f s := rfl
theorem exec_atom (h : Hdr) (f : LongF) (s : State) : exec (.atom h f) s = execAtom h f s := rfl
theorem exec_acas (h : Hdr) (f : LongF) (s : State) : exec (.acas h f) s = execAcas h f s := rfl
theorem exec_red (h : Hdr) (f : LongF) (s : State) : exec (.red h f) s = execRed h f s := rfl
theorem exec_redt (h : Hdr) (f : LongF) (s : State) : exec (.redt h f) s = execRedt h f s := rfl
theorem exec_fence (h : Hdr) (f : LongF) (s : State) : exec (.fence h f) s = execFence h f s := rfl
theorem exec_pref (h : Hdr) (f : LongF) (s : State) : exec (.pref h f) s = execPref h f s := rfl
theorem exec_arrive (h : Hdr) (f : LongF) (s : State) : exec (.arrive h f) s = execArrive h f s := rfl
theorem exec_waitph (h : Hdr) (f : LongF) (s : State) : exec (.waitph h f) s = execWaitph h f s := rfl
theorem exec_rawait (h : Hdr) (f : LongF) (s : State) : exec (.rawait h f) s = execRawait h f s := rfl
theorem exec_rrel (h : Hdr) (f : LongF) (s : State) : exec (.rrel h f) s = execRrel h f s := rfl
theorem exec_qput (h : Hdr) (f : LongF) (s : State) : exec (.qput h f) s = execQput h f s := rfl
theorem exec_qget (h : Hdr) (f : LongF) (s : State) : exec (.qget h f) s = execQget h f s := rfl
theorem exec_mma (h : Hdr) (f : LongF) (s : State) : exec (.mma h f) s = execMma h f s := rfl
theorem exec_mmas (h : Hdr) (f : LongF) (s : State) : exec (.mmas h f) s = execMmas h f s := rfl
theorem exec_aclr (h : Hdr) (f : LongF) (s : State) : exec (.aclr h f) s = execAclr h f s := rfl
theorem exec_ald (h : Hdr) (f : LongF) (s : State) : exec (.ald h f) s = execAld h f s := rfl
theorem exec_ast (h : Hdr) (f : LongF) (s : State) : exec (.ast h f) s = execAst h f s := rfl
theorem exec_asts (h : Hdr) (f : LongF) (s : State) : exec (.asts h f) s = execAsts h f s := rfl
theorem exec_xqt (h : Hdr) (f : LongF) (s : State) : exec (.xqt h f) s = execXqt h f s := rfl
theorem exec_tinst (h : Hdr) (f : LongF) (s : State) : exec (.tinst h f) s = execTinst h f s := rfl
theorem exec_tfree (h : Hdr) (f : LongF) (s : State) : exec (.tfree h f) s = execTfree h f s := rfl
theorem exec_tdraw (h : Hdr) (f : LongF) (s : State) : exec (.tdraw h f) s = execTdraw h f s := rfl
theorem exec_tstat (h : Hdr) (f : LongF) (s : State) : exec (.tstat h f) s = execTstat h f s := rfl
theorem exec_rack (h : Hdr) (f : LongF) (s : State) : exec (.rack h f) s = execRack h f s := rfl
theorem exec_resamp (h : Hdr) (f : LongF) (s : State) : exec (.resamp h f) s = execResamp h f s := rfl
theorem exec_lxstart (h : Hdr) (f : LongF) (s : State) : exec (.lxstart h f) s = execLxstart h f s := rfl
theorem exec_lxstat (h : Hdr) (f : LongF) (s : State) : exec (.lxstat h f) s = execLxstat h f s := rfl
theorem exec_lxkill (h : Hdr) (f : LongF) (s : State) : exec (.lxkill h f) s = execLxkill h f s := rfl
theorem exec_lauterLi (f : LauterF) (s : State) : exec (.lauterLi f) s = execLauterLi f s := rfl
theorem exec_lauterLih (f : LauterF) (s : State) : exec (.lauterLih f) s = execLauterLih f s := rfl
theorem exec_lauterMov (f : LauterF) (s : State) : exec (.lauterMov f) s = execLauterMov f s := rfl
theorem exec_lauterAdd (f : LauterF) (s : State) : exec (.lauterAdd f) s = execLauterAdd f s := rfl
theorem exec_lauterSub (f : LauterF) (s : State) : exec (.lauterSub f) s = execLauterSub f s := rfl
theorem exec_lauterMul (f : LauterF) (s : State) : exec (.lauterMul f) s = execLauterMul f s := rfl
theorem exec_lauterAnd (f : LauterF) (s : State) : exec (.lauterAnd f) s = execLauterAnd f s := rfl
theorem exec_lauterOr (f : LauterF) (s : State) : exec (.lauterOr f) s = execLauterOr f s := rfl
theorem exec_lauterXor (f : LauterF) (s : State) : exec (.lauterXor f) s = execLauterXor f s := rfl
theorem exec_lauterShl (f : LauterF) (s : State) : exec (.lauterShl f) s = execLauterShl f s := rfl
theorem exec_lauterShr (f : LauterF) (s : State) : exec (.lauterShr f) s = execLauterShr f s := rfl
theorem exec_lauterAddi (f : LauterF) (s : State) : exec (.lauterAddi f) s = execLauterAddi f s := rfl
theorem exec_lauterLdx (f : LauterF) (s : State) : exec (.lauterLdx f) s = execLauterLdx f s := rfl
theorem exec_lauterStx (f : LauterF) (s : State) : exec (.lauterStx f) s = execLauterStx f s := rfl
theorem exec_lauterBeq (f : LauterF) (s : State) : exec (.lauterBeq f) s = execLauterBeq f s := rfl
theorem exec_lauterBne (f : LauterF) (s : State) : exec (.lauterBne f) s = execLauterBne f s := rfl
theorem exec_lauterBlt (f : LauterF) (s : State) : exec (.lauterBlt f) s = execLauterBlt f s := rfl
theorem exec_lauterBge (f : LauterF) (s : State) : exec (.lauterBge f) s = execLauterBge f s := rfl
theorem exec_lauterJmp (f : LauterF) (s : State) : exec (.lauterJmp f) s = execLauterJmp f s := rfl
theorem exec_lauterLoop (f : LauterF) (s : State) : exec (.lauterLoop f) s = execLauterLoop f s := rfl
theorem exec_lauterDset (f : LauterF) (s : State) : exec (.lauterDset f) s = execLauterDset f s := rfl
theorem exec_lauterDidx (f : LauterF) (s : State) : exec (.lauterDidx f) s = execLauterDidx f s := rfl
theorem exec_lauterDstep (f : LauterF) (s : State) : exec (.lauterDstep f) s = execLauterDstep f s := rfl
theorem exec_lauterMovt (f : LauterF) (s : State) : exec (.lauterMovt f) s = execLauterMovt f s := rfl
theorem exec_lauterGath (f : LauterF) (s : State) : exec (.lauterGath f) s = execLauterGath f s := rfl
theorem exec_lauterScat (f : LauterF) (s : State) : exec (.lauterScat f) s = execLauterScat f s := rfl
theorem exec_lauterMcst (f : LauterF) (s : State) : exec (.lauterMcst f) s = execLauterMcst f s := rfl
theorem exec_lauterLred (f : LauterF) (s : State) : exec (.lauterLred f) s = execLauterLred f s := rfl
theorem exec_lauterFill (f : LauterF) (s : State) : exec (.lauterFill f) s = execLauterFill f s := rfl
theorem exec_lauterArrv (f : LauterF) (s : State) : exec (.lauterArrv f) s = execLauterArrv f s := rfl
theorem exec_lauterWaitb (f : LauterF) (s : State) : exec (.lauterWaitb f) s = execLauterWaitb f s := rfl
theorem exec_lauterFence (f : LauterF) (s : State) : exec (.lauterFence f) s = execLauterFence f s := rfl
theorem exec_lauterAbort (f : LauterF) (s : State) : exec (.lauterAbort f) s = execLauterAbort f s := rfl
theorem exec_lauterEnd (f : LauterF) (s : State) : exec (.lauterEnd f) s = execLauterEnd f s := rfl
theorem exec_steepLdi (f : SteepF) (s : State) : exec (.steepLdi f) s = execSteepLdi f s := rfl
theorem exec_steepMov (f : SteepF) (s : State) : exec (.steepMov f) s = execSteepMov f s := rfl
theorem exec_steepAdd (f : SteepF) (s : State) : exec (.steepAdd f) s = execSteepAdd f s := rfl
theorem exec_steepSub (f : SteepF) (s : State) : exec (.steepSub f) s = execSteepSub f s := rfl
theorem exec_steepAnd (f : SteepF) (s : State) : exec (.steepAnd f) s = execSteepAnd f s := rfl
theorem exec_steepOr (f : SteepF) (s : State) : exec (.steepOr f) s = execSteepOr f s := rfl
theorem exec_steepShl (f : SteepF) (s : State) : exec (.steepShl f) s = execSteepShl f s := rfl
theorem exec_steepShr (f : SteepF) (s : State) : exec (.steepShr f) s = execSteepShr f s := rfl
theorem exec_steepLdpf (f : SteepF) (s : State) : exec (.steepLdpf f) s = execSteepLdpf f s := rfl
theorem exec_steepStpf (f : SteepF) (s : State) : exec (.steepStpf f) s = execSteepStpf f s := rfl
theorem exec_steepLdw (f : SteepF) (s : State) : exec (.steepLdw f) s = execSteepLdw f s := rfl
theorem exec_steepStw (f : SteepF) (s : State) : exec (.steepStw f) s = execSteepStw f s := rfl
theorem exec_steepBz (f : SteepF) (s : State) : exec (.steepBz f) s = execSteepBz f s := rfl
theorem exec_steepBnz (f : SteepF) (s : State) : exec (.steepBnz f) s = execSteepBnz f s := rfl
theorem exec_steepLoop (f : SteepF) (s : State) : exec (.steepLoop f) s = execSteepLoop f s := rfl
theorem exec_steepEmit (f : SteepF) (s : State) : exec (.steepEmit f) s = execSteepEmit f s := rfl
theorem exec_steepWaitv (f : SteepF) (s : State) : exec (.steepWaitv f) s = execSteepWaitv f s := rfl
theorem exec_steepSignal (f : SteepF) (s : State) : exec (.steepSignal f) s = execSteepSignal f s := rfl
theorem exec_steepDrop (f : SteepF) (s : State) : exec (.steepDrop f) s = execSteepDrop f s := rfl
theorem exec_steepFaultq (f : SteepF) (s : State) : exec (.steepFaultq f) s = execSteepFaultq f s := rfl
theorem exec_steepEnd (f : SteepF) (s : State) : exec (.steepEnd f) s = execSteepEnd f s := rfl
theorem exec_variableLatencyResult (sp : SplitRef) (op : Nat) (lanes : Mask) (s : State) : exec (.variableLatencyResult sp op lanes) s = execVariableLatencyResult sp op lanes s := rfl
theorem exec_operationCompletion (group : Nat) (path : BitVec 3) (s : State) : exec (.operationCompletion group path) s = execOperationCompletion group path s := rfl
theorem exec_userTrapEntry (sp : SplitRef) (s : State) : exec (.userTrapEntry sp) s = execUserTrapEntry sp s := rfl
theorem exec_supervisorTrapEntry (sp : SplitRef) (s : State) : exec (.supervisorTrapEntry sp) s = execSupervisorTrapEntry sp s := rfl
theorem exec_escalation (sp : SplitRef) (s : State) : exec (.escalation sp) s = execEscalation sp s := rfl
theorem exec_timerDue (group : Nat) (s : State) : exec (.timerDue group) s = execTimerDue group s := rfl
theorem exec_rackEffect (team : Nat) (s : State) : exec (.rackEffect team) s = execRackEffect team s := rfl
theorem exec_resampEffect (grid : Nat) (s : State) : exec (.resampEffect grid) s = execResampEffect grid s := rfl
theorem exec_splitWake (sp : SplitRef) (s : State) : exec (.splitWake sp) s = execSplitWake sp s := rfl
theorem exec_priorityAging (sp : SplitRef) (s : State) : exec (.priorityAging sp) s = execPriorityAging sp s := rfl
theorem exec_waitphReread (sp : SplitRef) (s : State) : exec (.waitphReread sp) s = execWaitphReread sp s := rfl
theorem exec_rawaitClaim (sp : SplitRef) (s : State) : exec (.rawaitClaim sp) s = execRawaitClaim sp s := rfl
theorem exec_tdrawServe (sp : SplitRef) (slot : Nat) (s : State) : exec (.tdrawServe sp slot) s = execTdrawServe sp slot s := rfl
theorem exec_tdrawTimeout (sp : SplitRef) (s : State) : exec (.tdrawTimeout sp) s = execTdrawTimeout sp s := rfl
theorem exec_sleepWake (sp : SplitRef) (s : State) : exec (.sleepWake sp) s = execSleepWake sp s := rfl
theorem exec_tunFire (tun : Nat) (slot : Nat) (s : State) : exec (.tunFire tun slot) s = execTunFire tun slot s := rfl
theorem exec_fillTimeout (tun : Nat) (slot : Nat) (s : State) : exec (.fillTimeout tun slot) s = execFillTimeout tun slot s := rfl
theorem exec_installCompletion (tun : Nat) (s : State) : exec (.installCompletion tun) s = execInstallCompletion tun s := rfl
theorem exec_lauterProgramStart (eng : EngRef) (s : State) : exec (.lauterProgramStart eng) s = execLauterProgramStart eng s := rfl
theorem exec_waitbReread (eng : EngRef) (s : State) : exec (.waitbReread eng) s = execWaitbReread eng s := rfl
theorem exec_faultResume (eng : EngRef) (s : State) : exec (.faultResume eng) s = execFaultResume eng s := rfl
theorem exec_faultAbort (eng : EngRef) (s : State) : exec (.faultAbort eng) s = execFaultAbort eng s := rfl
theorem exec_faultAbortAndPoison (eng : EngRef) (s : State) : exec (.faultAbortAndPoison eng) s = execFaultAbortAndPoison eng s := rfl
theorem exec_cellarMove (cask : Nat) (s : State) : exec (.cellarMove cask) s = execCellarMove cask s := rfl
theorem exec_taskEntryTake (grid : Nat) (cask : Nat) (s : State) : exec (.taskEntryTake grid cask) s = execTaskEntryTake grid cask s := rfl
theorem exec_fillDelayExpiry (grid : Nat) (entry : Nat) (s : State) : exec (.fillDelayExpiry grid entry) s = execFillDelayExpiry grid entry s := rfl
theorem exec_teamPlacement (grid : Nat) (s : State) : exec (.teamPlacement grid) s = execTeamPlacement grid s := rfl
theorem exec_gridRetirement (grid : Nat) (s : State) : exec (.gridRetirement grid) s = execGridRetirement grid s := rfl
theorem exec_budgetPeriod (cluster : Nat) (s : State) : exec (.budgetPeriod cluster) s = execBudgetPeriod cluster s := rfl
theorem exec_matrixWaitLimit (core : Nat) (s : State) : exec (.matrixWaitLimit core) s = execMatrixWaitLimit core s := rfl
theorem exec_monitorPoll (die : Nat) (r : MonitorReading) (s : State) : exec (.monitorPoll die r) s = execMonitorPoll die r s := rfl
theorem exec_kick (q : QueueRef) (s : State) : exec (.kick q) s = execKick q s := rfl
theorem exec_restart (q : QueueRef) (s : State) : exec (.restart q) s = execRestart q s := rfl
theorem exec_skip (q : QueueRef) (s : State) : exec (.skip q) s = execSkip q s := rfl
theorem exec_wake (part : Nat) (v : DWord) (s : State) : exec (.wake part v) s = execWake part v s := rfl
theorem exec_vcpPacketRead (q : QueueRef) (s : State) : exec (.vcpPacketRead q) s = execVcpPacketRead q s := rfl
theorem exec_phaseReread (q : QueueRef) (s : State) : exec (.phaseReread q) s = execPhaseReread q s := rfl
theorem exec_stalePacket (q : QueueRef) (s : State) : exec (.stalePacket q) s = execStalePacket q s := rfl
theorem exec_launch (p : PacketRef) (s : State) : exec (.launch p) s = execLaunch p s := rfl
theorem exec_bundle (p : PacketRef) (s : State) : exec (.bundle p) s = execBundle p s := rfl
theorem exec_lxrun (p : PacketRef) (s : State) : exec (.lxrun p) s = execLxrun p s := rfl
theorem exec_waitmem (p : PacketRef) (s : State) : exec (.waitmem p) s = execWaitmem p s := rfl
theorem exec_waitmemReread (p : PacketRef) (s : State) : exec (.waitmemReread p) s = execWaitmemReread p s := rfl
theorem exec_waitmemTimeout (p : PacketRef) (s : State) : exec (.waitmemTimeout p) s = execWaitmemTimeout p s := rfl
theorem exec_signal (p : PacketRef) (s : State) : exec (.signal p) s = execSignal p s := rfl
theorem exec_graph (p : PacketRef) (s : State) : exec (.graph p) s = execGraph p s := rfl
theorem exec_graphReplayStart (p : PacketRef) (s : State) : exec (.graphReplayStart p) s = execGraphReplayStart p s := rfl
theorem exec_patch (p : PacketRef) (s : State) : exec (.patch p) s = execPatch p s := rfl
theorem exec_timestamp (p : PacketRef) (s : State) : exec (.timestamp p) s = execTimestamp p s := rfl
theorem exec_reserve (p : PacketRef) (s : State) : exec (.reserve p) s = execReserve p s := rfl
theorem exec_reserveRelease (p : PacketRef) (s : State) : exec (.reserveRelease p) s = execReserveRelease p s := rfl
theorem exec_tunopInstall (p : PacketRef) (s : State) : exec (.tunopInstall p) s = execTunopInstall p s := rfl
theorem exec_tunopFree (p : PacketRef) (s : State) : exec (.tunopFree p) s = execTunopFree p s := rfl
theorem exec_saveq (p : PacketRef) (s : State) : exec (.saveq p) s = execSaveq p s := rfl
theorem exec_restq (p : PacketRef) (s : State) : exec (.restq p) s = execRestq p s := rfl
theorem exec_packetCompletion (p : PacketRef) (s : State) : exec (.packetCompletion p) s = execPacketCompletion p s := rfl
theorem exec_customPacket (p : PacketRef) (s : State) : exec (.customPacket p) s = execCustomPacket p s := rfl
theorem exec_steepWaitvReread (run : Nat) (s : State) : exec (.steepWaitvReread run) s = execSteepWaitvReread run s := rfl
theorem exec_steepWaitvTimeout (run : Nat) (s : State) : exec (.steepWaitvTimeout run) s = execSteepWaitvTimeout run s := rfl
theorem exec_steepreq (v : DWord) (s : State) : exec (.steepreq v) s = execSteepreq v s := rfl
theorem exec_steepLoad (s : State) : exec (.steepLoad) s = execSteepLoad s := rfl
theorem exec_partitionEnable (part : Nat) (s : State) : exec (.partitionEnable part) s = execPartitionEnable part s := rfl
theorem exec_partitionDestroy (part : Nat) (s : State) : exec (.partitionDestroy part) s = execPartitionDestroy part s := rfl
theorem exec_swapOut (part : Nat) (s : State) : exec (.swapOut part) s = execSwapOut part s := rfl
theorem exec_swapIn (part : Nat) (s : State) : exec (.swapIn part) s = execSwapIn part s := rfl
theorem exec_partitionStart (part : Nat) (s : State) : exec (.partitionStart part) s = execPartitionStart part s := rfl
theorem exec_waymaskWrite (part : Nat) (mask : DWord) (s : State) : exec (.waymaskWrite part mask) s = execWaymaskWrite part mask s := rfl
theorem exec_gctlResume (part : Nat) (slot : Nat) (s : State) : exec (.gctlResume part slot) s = execGctlResume part slot s := rfl
theorem exec_gctlRetire (part : Nat) (slot : Nat) (s : State) : exec (.gctlRetire part slot) s = execGctlRetire part slot s := rfl
theorem exec_gctlEngineResume (part : Nat) (slot : Nat) (s : State) : exec (.gctlEngineResume part slot) s = execGctlEngineResume part slot s := rfl
theorem exec_attreq (v : DWord) (s : State) : exec (.attreq v) s = execAttreq v s := rfl
theorem exec_registerWrite (r : RegRef) (v : DWord) (s : State) : exec (.registerWrite r v) s = execRegisterWrite r v s := rfl
theorem exec_hostWrite (h : HostRef) (addr : DWord) (bytes : List Byte) (s : State) : exec (.hostWrite h addr bytes) s = execHostWrite h addr bytes s := rfl
theorem exec_hostRead (h : HostRef) (addr : DWord) (size : Nat) (s : State) : exec (.hostRead h addr size) s = execHostRead h addr size s := rfl
theorem exec_doorbell (h : HostRef) (s : State) : exec (.doorbell h) s = execDoorbell h s := rfl
theorem exec_remoteRequest (r : RemoteReq) (s : State) : exec (.remoteRequest r) s = execRemoteRequest r s := rfl
theorem exec_remoteAnswer (req : Nat) (a : RemoteAns) (s : State) : exec (.remoteAnswer req a) s = execRemoteAnswer req a s := rfl
theorem exec_remtimeout (req : Nat) (s : State) : exec (.remtimeout req) s = execRemtimeout req s := rfl
theorem exec_deadlineFlush (part : Nat) (entry : Nat) (s : State) : exec (.deadlineFlush part entry) s = execDeadlineFlush part entry s := rfl
theorem exec_gangNotice (name : GangName) (s : State) : exec (.gangNotice name) s = execGangNotice name s := rfl
theorem exec_unreliablePacket (port : Nat) (s : State) : exec (.unreliablePacket port) s = execUnreliablePacket port s := rfl
theorem exec_errorRetry (e : ErrorSite) (lasting : Bool) (s : State) : exec (.errorRetry e lasting) s = execErrorRetry e lasting s := rfl
theorem exec_powerUp (rail : Rail) (s : State) : exec (.powerUp rail) s = execPowerUp rail s := rfl
theorem exec_resetRelease (s : State) : exec (.resetRelease) s = execResetRelease s := rfl
theorem exec_provisioningImage (img : FirmwareImage) (fromPort : Nat) (s : State) : exec (.provisioningImage img fromPort) s = execProvisioningImage img fromPort s := rfl
theorem exec_i3cRead (what : Telemetry) (s : State) : exec (.i3cRead what) s = execI3cRead what s := rfl
theorem exec_i3cCcc (code : Byte) (s : State) : exec (.i3cCcc code) s = execI3cCcc code s := rfl
theorem exec_powerLoss (partWritten : Bool) (s : State) : exec (.powerLoss partWritten) s = execPowerLoss partWritten s := rfl
theorem exec_secondStageTableWrite (addr : Nat) (v : DWord) (s : State) : exec (.secondStageTableWrite addr v) s = execSecondStageTableWrite addr v s := rfl

end Sys2Proof.Machine
end

