-- ==== Sys2Proof/Laws/Encoding.lean ====
section
/-! SUPPORT. Encodings: what the decoders' fields read from packed words, and bytes as words. -/

namespace Sys2Proof

/-! ### Bits of packed words -/

theorem hdrBits_bit (h : Hdr) (long : Bool) (i : Nat) : (hdrBits h long).getLsbD i =
    if i = 0 then long else if i = 1 then h.w else if i < 5 then h.g.getLsbD (i - 2) else if i = 5 then h.gn else false := by
  have e : (hdrBits h long).getLsbD i = (BitVec.ofBool h.gn ++ h.g ++ BitVec.ofBool h.w ++ BitVec.ofBool long : BitVec (1 + 3 + 1 + 1)).getLsbD i := rfl
  rw [e, BitVec.getLsbD_append, BitVec.getLsbD_append, BitVec.getLsbD_append]
  rcases i with _ | _ | i
  · simp
  · simp
  · by_cases h1 : i < 3
    · have h2 : i + 1 + 1 < 5 := by omega
      simp [h1, h2]
    · by_cases h3 : i = 3
      · subst h3; simp
      · have h4 : ¬ (i + 1 + 1 < 5) := by omega
        have h5 : i + 1 + 1 ≠ 5 := by omega
        have h6 : i - 3 ≠ 0 := by omega
        simp [h1, h4, h3, h6]
theorem packShort_bit (op : BitVec 7) (h : Hdr) (top : BitVec 19) (i : Nat) : (packShort op h top).getLsbD i =
    if i < 6 then (hdrBits h false).getLsbD i else if i < 13 then op.getLsbD (i - 6) else top.getLsbD (i - 13) := by
  have e : (packShort op h top).getLsbD i = (top ++ op ++ hdrBits h false : BitVec (19 + 7 + 6)).getLsbD i := rfl
  rw [e, BitVec.getLsbD_append, BitVec.getLsbD_append]
  by_cases h1 : i < 6
  · simp [h1]
  · by_cases h2 : i < 13
    · have h3 : i - 6 < 7 := by omega
      simp [h1, h2, h3]
    · have h3 : ¬ (i - 6 < 7) := by omega
      have h4 : i - 6 - 7 = i - 13 := by omega
      simp [h1, h2, h3, h4]

theorem srTop_bit (f : SRF) (i : Nat) : (srTop f).getLsbD i =
    if i < 6 then f.d.getLsbD i else if i < 12 then f.a.getLsbD (i - 6) else if i < 18 then f.b.getLsbD (i - 12) else if i = 18 then f.i else false := by
  have e : (srTop f).getLsbD i = (BitVec.ofBool f.i ++ f.b ++ f.a ++ f.d : BitVec (1 + 6 + 6 + 6)).getLsbD i := rfl
  rw [e, BitVec.getLsbD_append, BitVec.getLsbD_append, BitVec.getLsbD_append]
  repeat' split
  all_goals first | rfl | omega | skip
  · rw [show i - 6 - 6 - 6 = 0 by omega]; simp
  · rw [show (BitVec.ofBool f.i).getLsbD (i - 6 - 6 - 6) = false from BitVec.getLsbD_of_ge _ _ (by omega)]
theorem siTop_bit (f : SIF) (i : Nat) : (siTop f).getLsbD i = if i < 6 then f.d.getLsbD i else f.imm.getLsbD (i - 6) := by
  have e : (siTop f).getLsbD i = (f.imm ++ f.d : BitVec (13 + 6)).getLsbD i := rfl
  rw [e, BitVec.getLsbD_append]
theorem packLong0_bit (op : BitVec 10) (h : Hdr) (f : LongF) (i : Nat) : (packLong0 op h f).getLsbD i =
    if i < 6 then (hdrBits h true).getLsbD i else if i < 16 then op.getLsbD (i - 6) else if i < 24 then f.d.getLsbD (i - 16) else f.a.getLsbD (i - 24) := by
  have e : (packLong0 op h f).getLsbD i = (f.a ++ f.d ++ op ++ hdrBits h true : BitVec (8 + 8 + 10 + 6)).getLsbD i := rfl
  rw [e, BitVec.getLsbD_append, BitVec.getLsbD_append, BitVec.getLsbD_append]
  repeat' split
  all_goals first | rfl | omega
theorem packLong1_bit (f : LongF) (i : Nat) : (packLong1 f).getLsbD i =
    if i < 8 then f.b.getLsbD i else if i < 16 then f.c.getLsbD (i - 8) else if i < 21 then f.ty.getLsbD (i - 16)
    else if i < 24 then f.rm.getLsbD (i - 21) else if i < 25 then f.sat else if i < 28 then f.mo.getLsbD (i - 25) else f.sc.getLsbD (i - 28) := by
  have e : (packLong1 f).getLsbD i = (f.sc ++ f.mo ++ BitVec.ofBool f.sat ++ f.rm ++ f.ty ++ f.c ++ f.b : BitVec (4 + 3 + 1 + 3 + 5 + 8 + 8)).getLsbD i := rfl
  rw [e, BitVec.getLsbD_append, BitVec.getLsbD_append, BitVec.getLsbD_append, BitVec.getLsbD_append, BitVec.getLsbD_append, BitVec.getLsbD_append]
  repeat' split
  all_goals first | rfl | omega | skip
  all_goals
    rw [show i - 8 - 8 - 5 - 3 = 0 by omega]; simp
theorem packLauter_bit (op : BitVec 8) (f : LauterF) (i : Nat) : (packLauter op f).getLsbD i =
    if i < 8 then op.getLsbD i else if i < 12 then f.d.getLsbD (i - 8) else if i < 16 then f.a.getLsbD (i - 12)
    else if i < 20 then f.b.getLsbD (i - 16) else if i < 32 then f.imm12.getLsbD (i - 20) else f.imm32.getLsbD (i - 32) := by
  have e : (packLauter op f).getLsbD i = (f.imm32 ++ f.imm12 ++ f.b ++ f.a ++ f.d ++ op : BitVec (32 + 12 + 4 + 4 + 4 + 8)).getLsbD i := rfl
  rw [e, BitVec.getLsbD_append, BitVec.getLsbD_append, BitVec.getLsbD_append, BitVec.getLsbD_append, BitVec.getLsbD_append]
  repeat' split
  all_goals first | rfl | omega
theorem packSteep_bit (op : BitVec 8) (f : SteepF) (i : Nat) : (packSteep op f).getLsbD i =
    if i < 8 then op.getLsbD i else if i < 12 then f.d.getLsbD (i - 8) else if i < 16 then f.a.getLsbD (i - 12) else f.imm.getLsbD (i - 16) := by
  have e : (packSteep op f).getLsbD i = (f.imm ++ f.a ++ f.d ++ op : BitVec (16 + 4 + 4 + 8)).getLsbD i := rfl
  rw [e, BitVec.getLsbD_append, BitVec.getLsbD_append, BitVec.getLsbD_append]
  repeat' split
  all_goals first | rfl | omega

/-! ### Fields of packed words -/

@[simp] theorem hdrOf_packShort (op : BitVec 7) (h : Hdr) (top : BitVec 19) : hdrOf (packShort op h top) = h := by
  cases h
  simp only [hdrOf, Hdr.mk.injEq, packShort_bit, hdrBits_bit]
  refine ⟨by simp, ?_, by simp⟩
  apply BitVec.eq_of_getLsbD_eq
  intro i hi
  rw [BitVec.getLsbD_extractLsb', packShort_bit, hdrBits_bit]
  interval_cases i <;> simp
@[simp] theorem isLong_packShort (op : BitVec 7) (h : Hdr) (top : BitVec 19) : isLong (packShort op h top) = false := by
  unfold isLong; rw [packShort_bit, hdrBits_bit]; simp
@[simp] theorem shortOpcode_packShort (op : BitVec 7) (h : Hdr) (top : BitVec 19) : shortOpcode (packShort op h top) = op.toNat := by
  unfold shortOpcode
  congr 1
  apply BitVec.eq_of_getLsbD_eq
  intro i hi
  rw [BitVec.getLsbD_extractLsb', packShort_bit]
  interval_cases i <;> simp
@[simp] theorem top_packShort (op : BitVec 7) (h : Hdr) (top : BitVec 19) : (packShort op h top).extractLsb' 13 19 = top := by
  apply BitVec.eq_of_getLsbD_eq
  intro i hi
  rw [BitVec.getLsbD_extractLsb', packShort_bit]
  have h1 : ¬ (13 + i < 6) := by omega
  simp [hi, h1]
@[simp] theorem srOf_packShort (op : BitVec 7) (h : Hdr) (f : SRF) : srOf (packShort op h (srTop f)) = f := by
  cases f
  simp only [srOf, SRF.mk.injEq]
  refine ⟨?_, ?_, ?_, ?_⟩
  · rw [packShort_bit, srTop_bit]; simp
  all_goals
    apply BitVec.eq_of_getLsbD_eq
    intro i hi
    rw [BitVec.getLsbD_extractLsb', packShort_bit]
    simp only [srTop_bit]
    interval_cases i <;> simp
@[simp] theorem siOf_packShort (op : BitVec 7) (h : Hdr) (f : SIF) : siOf (packShort op h (siTop f)) = f := by
  cases f
  simp only [siOf, SIF.mk.injEq]
  refine ⟨?_, ?_⟩
  all_goals
    apply BitVec.eq_of_getLsbD_eq
    intro i hi
    rw [BitVec.getLsbD_extractLsb', packShort_bit]
    simp only [siTop_bit]
    interval_cases i <;> simp
@[simp] theorem sbOf_packShort (op : BitVec 7) (h : Hdr) (f : SBF) : sbOf (packShort op h f.off) = f := by
  cases f; simp only [sbOf, top_packShort]

@[simp] theorem hdrOf_packLong0 (op : BitVec 10) (h : Hdr) (f : LongF) : hdrOf (packLong0 op h f) = h := by
  cases h
  simp only [hdrOf, Hdr.mk.injEq, packLong0_bit, hdrBits_bit]
  refine ⟨by simp, ?_, by simp⟩
  apply BitVec.eq_of_getLsbD_eq
  intro i hi
  rw [BitVec.getLsbD_extractLsb', packLong0_bit, hdrBits_bit]
  interval_cases i <;> simp
@[simp] theorem isLong_packLong0 (op : BitVec 10) (h : Hdr) (f : LongF) : isLong (packLong0 op h f) = true := by
  unfold isLong; rw [packLong0_bit, hdrBits_bit]; simp
@[simp] theorem longOpcode_packLong0 (op : BitVec 10) (h : Hdr) (f : LongF) : longOpcode (packLong0 op h f) = op.toNat := by
  unfold longOpcode
  congr 1
  apply BitVec.eq_of_getLsbD_eq
  intro i hi
  rw [BitVec.getLsbD_extractLsb', packLong0_bit]
  interval_cases i <;> simp
@[simp] theorem longOf_pack (op : BitVec 10) (h : Hdr) (f : LongF) : longOf (packLong0 op h f) (packLong1 f) f.x = f := by
  cases f
  simp only [longOf, LongF.mk.injEq, and_true]
  refine ⟨?_, ?_, ?_, ?_, ?_, ?_, ?_, ?_, ?_⟩
  case refine_5 => rw [packLong1_bit]; simp
  all_goals
    apply BitVec.eq_of_getLsbD_eq
    intro i hi
    rw [BitVec.getLsbD_extractLsb']
    first
    | rw [packLong0_bit]; interval_cases i <;> simp
    | rw [packLong1_bit]; interval_cases i <;> simp
@[simp] theorem lauterOp_packLauter (op : BitVec 8) (f : LauterF) : (packLauter op f).extractLsb' 0 8 = op := by
  apply BitVec.eq_of_getLsbD_eq
  intro i hi
  rw [BitVec.getLsbD_extractLsb', packLauter_bit]
  interval_cases i <;> simp
@[simp] theorem lauterOf_packLauter (op : BitVec 8) (f : LauterF) : lauterOf (packLauter op f) = f := by
  cases f
  simp only [lauterOf, LauterF.mk.injEq]
  refine ⟨?_, ?_, ?_, ?_, ?_⟩
  all_goals
    apply BitVec.eq_of_getLsbD_eq
    intro i hi
    rw [BitVec.getLsbD_extractLsb', packLauter_bit]
    interval_cases i <;> simp
@[simp] theorem steepOp_packSteep (op : BitVec 8) (f : SteepF) : (packSteep op f).extractLsb' 0 8 = op := by
  apply BitVec.eq_of_getLsbD_eq
  intro i hi
  rw [BitVec.getLsbD_extractLsb', packSteep_bit]
  interval_cases i <;> simp
@[simp] theorem steepOf_packSteep (op : BitVec 8) (f : SteepF) : steepOf (packSteep op f) = f := by
  cases f
  simp only [steepOf, SteepF.mk.injEq]
  refine ⟨?_, ?_, ?_⟩
  all_goals
    apply BitVec.eq_of_getLsbD_eq
    intro i hi
    rw [BitVec.getLsbD_extractLsb', packSteep_bit]
    interval_cases i <;> simp

/-! ### Bytes -/

@[simp] theorem leBytes_length (n v : Nat) : (leBytes n v).length = n := by
  induction n generalizing v with
  | zero => rfl
  | succ n ih => simp [leBytes, ih]
@[simp] theorem leNat_leBytes (n v : Nat) : leNat (leBytes n v) = v % 256 ^ n := by
  induction n generalizing v with
  | zero => simp [leBytes, leNat, Nat.mod_one]
  | succ n ih =>
    simp only [leBytes, leNat, ih, BitVec.toNat_ofNat]
    rw [show (2 : Nat) ^ 8 = 256 from rfl, show 256 ^ (n + 1) = 256 * 256 ^ n by ring, Nat.mod_mul]
/-- A word is read back from its bytes, whatever follows them. -/
@[simp] theorem word_leBytes (w : Word) (rest : List Byte) : BitVec.ofNat 32 (leNat ((leBytes 4 w.toNat ++ rest).take 4)) = w := by
  rw [List.take_left' (by simp), leNat_leBytes]
  apply BitVec.eq_of_toNat_eq
  have := w.isLt
  simp only [BitVec.toNat_ofNat]
  omega

/-- The bytes of a short word decode as that word. -/
theorem decodeKloam_short (w : Word) (rest : List Byte) (h : isLong w = false) :
    decodeKloam (leBytes 4 w.toNat ++ rest) = (decodeShort w).map (fun i => (i, rest)) := by
  unfold decodeKloam
  rw [if_neg (by simp)]
  simp only [word_leBytes, h, Bool.false_eq_true, if_false]
  rw [List.drop_left' (by simp)]
/-- The bytes of three words whose first is long decode as a long instruction. -/
theorem decodeKloam_long (w0 w1 w2 : Word) (rest : List Byte) (h : isLong w0 = true) :
    decodeKloam (leBytes 4 w0.toNat ++ (leBytes 4 w1.toNat ++ (leBytes 4 w2.toNat ++ rest))) = (decodeLong w0 w1 w2).map (fun i => (i, rest)) := by
  have d (w : Word) (r : List Byte) : (leBytes 4 w.toNat ++ r).drop 4 = r := List.drop_left' (by simp)
  have d8 (a b : Word) (r : List Byte) : (leBytes 4 a.toNat ++ (leBytes 4 b.toNat ++ r)).drop 8 = r := by
    rw [show 8 = 4 + 4 from rfl, ← List.drop_drop, d, d]
  have d12 (a b c : Word) (r : List Byte) : (leBytes 4 a.toNat ++ (leBytes 4 b.toNat ++ (leBytes 4 c.toNat ++ r))).drop 12 = r := by
    rw [show 12 = 8 + 4 from rfl, ← List.drop_drop, d8, d]
  unfold decodeKloam
  rw [if_neg (by simp)]
  simp only [word_leBytes, h, if_true]
  rw [if_neg (by simp; omega), d, d8, d12, word_leBytes, word_leBytes]
/-- The bytes of a lauter word's two halves decode as that word. -/
theorem decodeLauterBytes_words (w : DWord) (rest : List Byte) :
    decodeLauterBytes (leBytes 4 (w.extractLsb' 0 32).toNat ++ (leBytes 4 (w.extractLsb' 32 32).toNat ++ rest)) =
      (decodeLauter w).map (fun i => (i, rest)) := by
  have e : BitVec.ofNat 64 (leNat (leBytes 4 (w.extractLsb' 0 32).toNat ++ leBytes 4 (w.extractLsb' 32 32).toNat)) = w := by
    apply BitVec.eq_of_toNat_eq
    have := w.isLt
    simp [leBytes, leNat, BitVec.extractLsb'_toNat, Nat.shiftRight_eq_div_pow]
    omega
  unfold decodeLauterBytes
  rw [if_neg (by simp; omega), ← List.append_assoc, List.take_left' (by simp), List.drop_left' (by simp), e]
theorem decodeSteepBytes_word (w : Word) (rest : List Byte) :
    decodeSteepBytes (leBytes 4 w.toNat ++ rest) = (decodeSteep w).map (fun i => (i, rest)) := by
  unfold decodeSteepBytes
  rw [if_neg (by simp), word_leBytes, List.drop_left' (by simp)]

/-! ### Decoding what the encoder packs -/

theorem accept_some (op : Nat) (i : Instr) (h : i.wellFormed = true) : accept op (some i) = .ok i := by simp [accept, h]
/-- A short instruction with operand fields. -/
theorem decodeShort_pack (op : BitVec 7) (h : Hdr) (top : BitVec 19) (i : Instr) (hb : shortBare op.toNat = false ∨ top = 0)
    (ho : shortOp op.toNat h (srOf (packShort op h top)) (siOf (packShort op h top)) (sbOf (packShort op h top)) = some i)
    (hw : i.wellFormed = true) : decodeShort (packShort op h top) = .ok i := by
  unfold decodeShort
  rw [shortOpcode_packShort, top_packShort, hdrOf_packShort, ho, accept_some _ _ hw, if_neg]
  rcases hb with hb | hb <;> simp [hb]
theorem decodeLong_pack (op : BitVec 10) (h : Hdr) (f : LongF) (i : Instr) (ho : longOp op.toNat h f = some i) (hw : i.wellFormed = true) :
    decodeLong (packLong0 op h f) (packLong1 f) f.x = .ok i := by
  unfold decodeLong
  rw [longOpcode_packLong0, hdrOf_packLong0, longOf_pack, ho, accept_some _ _ hw]
theorem decodeLauter_pack (op : BitVec 8) (f : LauterF) (i : Instr) (ho : lauterOp op.toNat f = some i) (hw : i.wellFormed = true) :
    decodeLauter (packLauter op f) = .ok i := by
  unfold decodeLauter
  rw [lauterOp_packLauter, lauterOf_packLauter, ho, accept_some _ _ hw]
theorem decodeSteep_pack (op : BitVec 8) (f : SteepF) (i : Instr) (ho : steepOp op.toNat f = some i) (hw : i.wellFormed = true) :
    decodeSteep (packSteep op f) = .ok i := by
  unfold decodeSteep
  rw [steepOp_packSteep, steepOf_packSteep, ho, accept_some _ _ hw]

end Sys2Proof
end

