-- ==== Sys2Proof/Laws/State.lean ====
section
/-! SUPPORT. What the updates of the state leave alone: one lemma for each update and each field, true by unfolding, and what the updates
that are no plain record updates (registers, lanes, groups in a list) do. -/

namespace Sys2Proof.Machine

/-! ### setGroup -/

@[simp] theorem State.setGroup_clock (s : State) (g : Group) : (s.setGroup g).clock = s.clock := rfl
@[simp] theorem State.setGroup_agenda (s : State) (g : Group) : (s.setGroup g).agenda = s.agenda := rfl
@[simp] theorem State.setGroup_turns (s : State) (g : Group) : (s.setGroup g).turns = s.turns := rfl
@[simp] theorem State.setGroup_slow (s : State) (g : Group) : (s.setGroup g).slow = s.slow := rfl
@[simp] theorem State.setGroup_actor (s : State) (g : Group) : (s.setGroup g).actor = s.actor := rfl
@[simp] theorem State.setGroup_veils (s : State) (g : Group) : (s.setGroup g).veils = s.veils := rfl
@[simp] theorem State.setGroup_free (s : State) (g : Group) : (s.setGroup g).free = s.free := rfl
@[simp] theorem State.setGroup_uid (s : State) (g : Group) : (s.setGroup g).uid = s.uid := rfl
@[simp] theorem State.setGroup_boot (s : State) (g : Group) : (s.setGroup g).boot = s.boot := rfl
@[simp] theorem State.setGroup_rails (s : State) (g : Group) : (s.setGroup g).rails = s.rails := rfl
@[simp] theorem State.setGroup_firmware (s : State) (g : Group) : (s.setGroup g).firmware = s.firmware := rfl
@[simp] theorem State.setGroup_booted (s : State) (g : Group) : (s.setGroup g).booted = s.booted := rfl
@[simp] theorem State.setGroup_fusedMin (s : State) (g : Group) : (s.setGroup g).fusedMin = s.fusedMin := rfl
@[simp] theorem State.setGroup_devid (s : State) (g : Group) : (s.setGroup g).devid = s.devid := rfl
@[simp] theorem State.setGroup_remtmo (s : State) (g : Group) : (s.setGroup g).remtmo = s.remtmo := rfl
@[simp] theorem State.setGroup_hbm (s : State) (g : Group) : (s.setGroup g).hbm = s.hbm := rfl
@[simp] theorem State.setGroup_scratch (s : State) (g : Group) : (s.setGroup g).scratch = s.scratch := rfl
@[simp] theorem State.setGroup_dieScratch (s : State) (g : Group) : (s.setGroup g).dieScratch = s.dieScratch := rfl
@[simp] theorem State.setGroup_acc (s : State) (g : Group) : (s.setGroup g).acc = s.acc := rfl
@[simp] theorem State.setGroup_poison (s : State) (g : Group) : (s.setGroup g).poison = s.poison := rfl
@[simp] theorem State.setGroup_halves (s : State) (g : Group) : (s.setGroup g).halves = s.halves := rfl
@[simp] theorem State.setGroup_caches (s : State) (g : Group) : (s.setGroup g).caches = s.caches := rfl
@[simp] theorem State.setGroup_tlb (s : State) (g : Group) : (s.setGroup g).tlb = s.tlb := rfl
@[simp] theorem State.setGroup_sigs (s : State) (g : Group) : (s.setGroup g).sigs = s.sigs := rfl
@[simp] theorem State.setGroup_touched (s : State) (g : Group) : (s.setGroup g).touched = s.touched := rfl
@[simp] theorem State.setGroup_teams (s : State) (g : Group) : (s.setGroup g).teams = s.teams := rfl
@[simp] theorem State.setGroup_grids (s : State) (g : Group) : (s.setGroup g).grids = s.grids := rfl
@[simp] theorem State.setGroup_nextGrid (s : State) (g : Group) : (s.setGroup g).nextGrid = s.nextGrid := rfl
@[simp] theorem State.setGroup_draws (s : State) (g : Group) : (s.setGroup g).draws = s.draws := rfl
@[simp] theorem State.setGroup_tuns (s : State) (g : Group) : (s.setGroup g).tuns = s.tuns := rfl
@[simp] theorem State.setGroup_casks (s : State) (g : Group) : (s.setGroup g).casks = s.casks := rfl
@[simp] theorem State.setGroup_engines (s : State) (g : Group) : (s.setGroup g).engines = s.engines := rfl
@[simp] theorem State.setGroup_parts (s : State) (g : Group) : (s.setGroup g).parts = s.parts := rfl
@[simp] theorem State.setGroup_packets (s : State) (g : Group) : (s.setGroup g).packets = s.packets := rfl
@[simp] theorem State.setGroup_steeps (s : State) (g : Group) : (s.setGroup g).steeps = s.steeps := rfl
@[simp] theorem State.setGroup_bindings (s : State) (g : Group) : (s.setGroup g).bindings = s.bindings := rfl
@[simp] theorem State.setGroup_runs (s : State) (g : Group) : (s.setGroup g).runs = s.runs := rfl
@[simp] theorem State.setGroup_saves (s : State) (g : Group) : (s.setGroup g).saves = s.saves := rfl
@[simp] theorem State.setGroup_remotes (s : State) (g : Group) : (s.setGroup g).remotes = s.remotes := rfl
@[simp] theorem State.setGroup_egress (s : State) (g : Group) : (s.setGroup g).egress = s.egress := rfl
@[simp] theorem State.setGroup_redt (s : State) (g : Group) : (s.setGroup g).redt = s.redt := rfl
@[simp] theorem State.setGroup_flushes (s : State) (g : Group) : (s.setGroup g).flushes = s.flushes := rfl
@[simp] theorem State.setGroup_slotHits (s : State) (g : Group) : (s.setGroup g).slotHits = s.slotHits := rfl
@[simp] theorem State.setGroup_kiln (s : State) (g : Group) : (s.setGroup g).kiln = s.kiln := rfl
@[simp] theorem State.setGroup_ras (s : State) (g : Group) : (s.setGroup g).ras = s.ras := rfl
@[simp] theorem State.setGroup_budgets (s : State) (g : Group) : (s.setGroup g).budgets = s.budgets := rfl
@[simp] theorem State.setGroup_budgetBase (s : State) (g : Group) : (s.setGroup g).budgetBase = s.budgetBase := rfl
@[simp] theorem State.setGroup_overAllowed (s : State) (g : Group) : (s.setGroup g).overAllowed = s.overAllowed := rfl
@[simp] theorem State.setGroup_halved (s : State) (g : Group) : (s.setGroup g).halved = s.halved := rfl
@[simp] theorem State.setGroup_dieClock (s : State) (g : Group) : (s.setGroup g).dieClock = s.dieClock := rfl
@[simp] theorem State.setGroup_i3c (s : State) (g : Group) : (s.setGroup g).i3c = s.i3c := rfl
@[simp] theorem State.setGroup_powerOff (s : State) (g : Group) : (s.setGroup g).powerOff = s.powerOff := rfl
@[simp] theorem State.setGroup_monitors (s : State) (g : Group) : (s.setGroup g).monitors = s.monitors := rfl
@[simp] theorem State.setGroup_limits (s : State) (g : Group) : (s.setGroup g).limits = s.limits := rfl
@[simp] theorem State.setGroup_railOut (s : State) (g : Group) : (s.setGroup g).railOut = s.railOut := rfl

/-! ### modGroup -/

@[simp] theorem State.modGroup_clock (s : State) (u : Nat) (f : Group → Group) : (s.modGroup u f).clock = s.clock := rfl
@[simp] theorem State.modGroup_agenda (s : State) (u : Nat) (f : Group → Group) : (s.modGroup u f).agenda = s.agenda := rfl
@[simp] theorem State.modGroup_turns (s : State) (u : Nat) (f : Group → Group) : (s.modGroup u f).turns = s.turns := rfl
@[simp] theorem State.modGroup_slow (s : State) (u : Nat) (f : Group → Group) : (s.modGroup u f).slow = s.slow := rfl
@[simp] theorem State.modGroup_actor (s : State) (u : Nat) (f : Group → Group) : (s.modGroup u f).actor = s.actor := rfl
@[simp] theorem State.modGroup_veils (s : State) (u : Nat) (f : Group → Group) : (s.modGroup u f).veils = s.veils := rfl
@[simp] theorem State.modGroup_free (s : State) (u : Nat) (f : Group → Group) : (s.modGroup u f).free = s.free := rfl
@[simp] theorem State.modGroup_uid (s : State) (u : Nat) (f : Group → Group) : (s.modGroup u f).uid = s.uid := rfl
@[simp] theorem State.modGroup_boot (s : State) (u : Nat) (f : Group → Group) : (s.modGroup u f).boot = s.boot := rfl
@[simp] theorem State.modGroup_rails (s : State) (u : Nat) (f : Group → Group) : (s.modGroup u f).rails = s.rails := rfl
@[simp] theorem State.modGroup_firmware (s : State) (u : Nat) (f : Group → Group) : (s.modGroup u f).firmware = s.firmware := rfl
@[simp] theorem State.modGroup_booted (s : State) (u : Nat) (f : Group → Group) : (s.modGroup u f).booted = s.booted := rfl
@[simp] theorem State.modGroup_fusedMin (s : State) (u : Nat) (f : Group → Group) : (s.modGroup u f).fusedMin = s.fusedMin := rfl
@[simp] theorem State.modGroup_devid (s : State) (u : Nat) (f : Group → Group) : (s.modGroup u f).devid = s.devid := rfl
@[simp] theorem State.modGroup_remtmo (s : State) (u : Nat) (f : Group → Group) : (s.modGroup u f).remtmo = s.remtmo := rfl
@[simp] theorem State.modGroup_hbm (s : State) (u : Nat) (f : Group → Group) : (s.modGroup u f).hbm = s.hbm := rfl
@[simp] theorem State.modGroup_scratch (s : State) (u : Nat) (f : Group → Group) : (s.modGroup u f).scratch = s.scratch := rfl
@[simp] theorem State.modGroup_dieScratch (s : State) (u : Nat) (f : Group → Group) : (s.modGroup u f).dieScratch = s.dieScratch := rfl
@[simp] theorem State.modGroup_acc (s : State) (u : Nat) (f : Group → Group) : (s.modGroup u f).acc = s.acc := rfl
@[simp] theorem State.modGroup_poison (s : State) (u : Nat) (f : Group → Group) : (s.modGroup u f).poison = s.poison := rfl
@[simp] theorem State.modGroup_halves (s : State) (u : Nat) (f : Group → Group) : (s.modGroup u f).halves = s.halves := rfl
@[simp] theorem State.modGroup_caches (s : State) (u : Nat) (f : Group → Group) : (s.modGroup u f).caches = s.caches := rfl
@[simp] theorem State.modGroup_tlb (s : State) (u : Nat) (f : Group → Group) : (s.modGroup u f).tlb = s.tlb := rfl
@[simp] theorem State.modGroup_sigs (s : State) (u : Nat) (f : Group → Group) : (s.modGroup u f).sigs = s.sigs := rfl
@[simp] theorem State.modGroup_touched (s : State) (u : Nat) (f : Group → Group) : (s.modGroup u f).touched = s.touched := rfl
@[simp] theorem State.modGroup_teams (s : State) (u : Nat) (f : Group → Group) : (s.modGroup u f).teams = s.teams := rfl
@[simp] theorem State.modGroup_grids (s : State) (u : Nat) (f : Group → Group) : (s.modGroup u f).grids = s.grids := rfl
@[simp] theorem State.modGroup_nextGrid (s : State) (u : Nat) (f : Group → Group) : (s.modGroup u f).nextGrid = s.nextGrid := rfl
@[simp] theorem State.modGroup_draws (s : State) (u : Nat) (f : Group → Group) : (s.modGroup u f).draws = s.draws := rfl
@[simp] theorem State.modGroup_tuns (s : State) (u : Nat) (f : Group → Group) : (s.modGroup u f).tuns = s.tuns := rfl
@[simp] theorem State.modGroup_casks (s : State) (u : Nat) (f : Group → Group) : (s.modGroup u f).casks = s.casks := rfl
@[simp] theorem State.modGroup_engines (s : State) (u : Nat) (f : Group → Group) : (s.modGroup u f).engines = s.engines := rfl
@[simp] theorem State.modGroup_parts (s : State) (u : Nat) (f : Group → Group) : (s.modGroup u f).parts = s.parts := rfl
@[simp] theorem State.modGroup_packets (s : State) (u : Nat) (f : Group → Group) : (s.modGroup u f).packets = s.packets := rfl
@[simp] theorem State.modGroup_steeps (s : State) (u : Nat) (f : Group → Group) : (s.modGroup u f).steeps = s.steeps := rfl
@[simp] theorem State.modGroup_bindings (s : State) (u : Nat) (f : Group → Group) : (s.modGroup u f).bindings = s.bindings := rfl
@[simp] theorem State.modGroup_runs (s : State) (u : Nat) (f : Group → Group) : (s.modGroup u f).runs = s.runs := rfl
@[simp] theorem State.modGroup_saves (s : State) (u : Nat) (f : Group → Group) : (s.modGroup u f).saves = s.saves := rfl
@[simp] theorem State.modGroup_remotes (s : State) (u : Nat) (f : Group → Group) : (s.modGroup u f).remotes = s.remotes := rfl
@[simp] theorem State.modGroup_egress (s : State) (u : Nat) (f : Group → Group) : (s.modGroup u f).egress = s.egress := rfl
@[simp] theorem State.modGroup_redt (s : State) (u : Nat) (f : Group → Group) : (s.modGroup u f).redt = s.redt := rfl
@[simp] theorem State.modGroup_flushes (s : State) (u : Nat) (f : Group → Group) : (s.modGroup u f).flushes = s.flushes := rfl
@[simp] theorem State.modGroup_slotHits (s : State) (u : Nat) (f : Group → Group) : (s.modGroup u f).slotHits = s.slotHits := rfl
@[simp] theorem State.modGroup_kiln (s : State) (u : Nat) (f : Group → Group) : (s.modGroup u f).kiln = s.kiln := rfl
@[simp] theorem State.modGroup_ras (s : State) (u : Nat) (f : Group → Group) : (s.modGroup u f).ras = s.ras := rfl
@[simp] theorem State.modGroup_budgets (s : State) (u : Nat) (f : Group → Group) : (s.modGroup u f).budgets = s.budgets := rfl
@[simp] theorem State.modGroup_budgetBase (s : State) (u : Nat) (f : Group → Group) : (s.modGroup u f).budgetBase = s.budgetBase := rfl
@[simp] theorem State.modGroup_overAllowed (s : State) (u : Nat) (f : Group → Group) : (s.modGroup u f).overAllowed = s.overAllowed := rfl
@[simp] theorem State.modGroup_halved (s : State) (u : Nat) (f : Group → Group) : (s.modGroup u f).halved = s.halved := rfl
@[simp] theorem State.modGroup_dieClock (s : State) (u : Nat) (f : Group → Group) : (s.modGroup u f).dieClock = s.dieClock := rfl
@[simp] theorem State.modGroup_i3c (s : State) (u : Nat) (f : Group → Group) : (s.modGroup u f).i3c = s.i3c := rfl
@[simp] theorem State.modGroup_powerOff (s : State) (u : Nat) (f : Group → Group) : (s.modGroup u f).powerOff = s.powerOff := rfl
@[simp] theorem State.modGroup_monitors (s : State) (u : Nat) (f : Group → Group) : (s.modGroup u f).monitors = s.monitors := rfl
@[simp] theorem State.modGroup_limits (s : State) (u : Nat) (f : Group → Group) : (s.modGroup u f).limits = s.limits := rfl
@[simp] theorem State.modGroup_railOut (s : State) (u : Nat) (f : Group → Group) : (s.modGroup u f).railOut = s.railOut := rfl

/-! ### modTeam -/

@[simp] theorem State.modTeam_clock (s : State) (u : Nat) (f : Team → Team) : (s.modTeam u f).clock = s.clock := rfl
@[simp] theorem State.modTeam_agenda (s : State) (u : Nat) (f : Team → Team) : (s.modTeam u f).agenda = s.agenda := rfl
@[simp] theorem State.modTeam_turns (s : State) (u : Nat) (f : Team → Team) : (s.modTeam u f).turns = s.turns := rfl
@[simp] theorem State.modTeam_slow (s : State) (u : Nat) (f : Team → Team) : (s.modTeam u f).slow = s.slow := rfl
@[simp] theorem State.modTeam_actor (s : State) (u : Nat) (f : Team → Team) : (s.modTeam u f).actor = s.actor := rfl
@[simp] theorem State.modTeam_veils (s : State) (u : Nat) (f : Team → Team) : (s.modTeam u f).veils = s.veils := rfl
@[simp] theorem State.modTeam_free (s : State) (u : Nat) (f : Team → Team) : (s.modTeam u f).free = s.free := rfl
@[simp] theorem State.modTeam_uid (s : State) (u : Nat) (f : Team → Team) : (s.modTeam u f).uid = s.uid := rfl
@[simp] theorem State.modTeam_boot (s : State) (u : Nat) (f : Team → Team) : (s.modTeam u f).boot = s.boot := rfl
@[simp] theorem State.modTeam_rails (s : State) (u : Nat) (f : Team → Team) : (s.modTeam u f).rails = s.rails := rfl
@[simp] theorem State.modTeam_firmware (s : State) (u : Nat) (f : Team → Team) : (s.modTeam u f).firmware = s.firmware := rfl
@[simp] theorem State.modTeam_booted (s : State) (u : Nat) (f : Team → Team) : (s.modTeam u f).booted = s.booted := rfl
@[simp] theorem State.modTeam_fusedMin (s : State) (u : Nat) (f : Team → Team) : (s.modTeam u f).fusedMin = s.fusedMin := rfl
@[simp] theorem State.modTeam_devid (s : State) (u : Nat) (f : Team → Team) : (s.modTeam u f).devid = s.devid := rfl
@[simp] theorem State.modTeam_remtmo (s : State) (u : Nat) (f : Team → Team) : (s.modTeam u f).remtmo = s.remtmo := rfl
@[simp] theorem State.modTeam_hbm (s : State) (u : Nat) (f : Team → Team) : (s.modTeam u f).hbm = s.hbm := rfl
@[simp] theorem State.modTeam_scratch (s : State) (u : Nat) (f : Team → Team) : (s.modTeam u f).scratch = s.scratch := rfl
@[simp] theorem State.modTeam_dieScratch (s : State) (u : Nat) (f : Team → Team) : (s.modTeam u f).dieScratch = s.dieScratch := rfl
@[simp] theorem State.modTeam_acc (s : State) (u : Nat) (f : Team → Team) : (s.modTeam u f).acc = s.acc := rfl
@[simp] theorem State.modTeam_poison (s : State) (u : Nat) (f : Team → Team) : (s.modTeam u f).poison = s.poison := rfl
@[simp] theorem State.modTeam_halves (s : State) (u : Nat) (f : Team → Team) : (s.modTeam u f).halves = s.halves := rfl
@[simp] theorem State.modTeam_caches (s : State) (u : Nat) (f : Team → Team) : (s.modTeam u f).caches = s.caches := rfl
@[simp] theorem State.modTeam_tlb (s : State) (u : Nat) (f : Team → Team) : (s.modTeam u f).tlb = s.tlb := rfl
@[simp] theorem State.modTeam_sigs (s : State) (u : Nat) (f : Team → Team) : (s.modTeam u f).sigs = s.sigs := rfl
@[simp] theorem State.modTeam_touched (s : State) (u : Nat) (f : Team → Team) : (s.modTeam u f).touched = s.touched := rfl
@[simp] theorem State.modTeam_groups (s : State) (u : Nat) (f : Team → Team) : (s.modTeam u f).groups = s.groups := rfl
@[simp] theorem State.modTeam_grids (s : State) (u : Nat) (f : Team → Team) : (s.modTeam u f).grids = s.grids := rfl
@[simp] theorem State.modTeam_nextGrid (s : State) (u : Nat) (f : Team → Team) : (s.modTeam u f).nextGrid = s.nextGrid := rfl
@[simp] theorem State.modTeam_draws (s : State) (u : Nat) (f : Team → Team) : (s.modTeam u f).draws = s.draws := rfl
@[simp] theorem State.modTeam_tuns (s : State) (u : Nat) (f : Team → Team) : (s.modTeam u f).tuns = s.tuns := rfl
@[simp] theorem State.modTeam_casks (s : State) (u : Nat) (f : Team → Team) : (s.modTeam u f).casks = s.casks := rfl
@[simp] theorem State.modTeam_engines (s : State) (u : Nat) (f : Team → Team) : (s.modTeam u f).engines = s.engines := rfl
@[simp] theorem State.modTeam_parts (s : State) (u : Nat) (f : Team → Team) : (s.modTeam u f).parts = s.parts := rfl
@[simp] theorem State.modTeam_packets (s : State) (u : Nat) (f : Team → Team) : (s.modTeam u f).packets = s.packets := rfl
@[simp] theorem State.modTeam_steeps (s : State) (u : Nat) (f : Team → Team) : (s.modTeam u f).steeps = s.steeps := rfl
@[simp] theorem State.modTeam_bindings (s : State) (u : Nat) (f : Team → Team) : (s.modTeam u f).bindings = s.bindings := rfl
@[simp] theorem State.modTeam_runs (s : State) (u : Nat) (f : Team → Team) : (s.modTeam u f).runs = s.runs := rfl
@[simp] theorem State.modTeam_saves (s : State) (u : Nat) (f : Team → Team) : (s.modTeam u f).saves = s.saves := rfl
@[simp] theorem State.modTeam_remotes (s : State) (u : Nat) (f : Team → Team) : (s.modTeam u f).remotes = s.remotes := rfl
@[simp] theorem State.modTeam_egress (s : State) (u : Nat) (f : Team → Team) : (s.modTeam u f).egress = s.egress := rfl
@[simp] theorem State.modTeam_redt (s : State) (u : Nat) (f : Team → Team) : (s.modTeam u f).redt = s.redt := rfl
@[simp] theorem State.modTeam_flushes (s : State) (u : Nat) (f : Team → Team) : (s.modTeam u f).flushes = s.flushes := rfl
@[simp] theorem State.modTeam_slotHits (s : State) (u : Nat) (f : Team → Team) : (s.modTeam u f).slotHits = s.slotHits := rfl
@[simp] theorem State.modTeam_kiln (s : State) (u : Nat) (f : Team → Team) : (s.modTeam u f).kiln = s.kiln := rfl
@[simp] theorem State.modTeam_ras (s : State) (u : Nat) (f : Team → Team) : (s.modTeam u f).ras = s.ras := rfl
@[simp] theorem State.modTeam_budgets (s : State) (u : Nat) (f : Team → Team) : (s.modTeam u f).budgets = s.budgets := rfl
@[simp] theorem State.modTeam_budgetBase (s : State) (u : Nat) (f : Team → Team) : (s.modTeam u f).budgetBase = s.budgetBase := rfl
@[simp] theorem State.modTeam_overAllowed (s : State) (u : Nat) (f : Team → Team) : (s.modTeam u f).overAllowed = s.overAllowed := rfl
@[simp] theorem State.modTeam_halved (s : State) (u : Nat) (f : Team → Team) : (s.modTeam u f).halved = s.halved := rfl
@[simp] theorem State.modTeam_dieClock (s : State) (u : Nat) (f : Team → Team) : (s.modTeam u f).dieClock = s.dieClock := rfl
@[simp] theorem State.modTeam_i3c (s : State) (u : Nat) (f : Team → Team) : (s.modTeam u f).i3c = s.i3c := rfl
@[simp] theorem State.modTeam_powerOff (s : State) (u : Nat) (f : Team → Team) : (s.modTeam u f).powerOff = s.powerOff := rfl
@[simp] theorem State.modTeam_monitors (s : State) (u : Nat) (f : Team → Team) : (s.modTeam u f).monitors = s.monitors := rfl
@[simp] theorem State.modTeam_limits (s : State) (u : Nat) (f : Team → Team) : (s.modTeam u f).limits = s.limits := rfl
@[simp] theorem State.modTeam_railOut (s : State) (u : Nat) (f : Team → Team) : (s.modTeam u f).railOut = s.railOut := rfl

/-! ### modGrid -/

@[simp] theorem State.modGrid_clock (s : State) (u : Nat) (f : Grid → Grid) : (s.modGrid u f).clock = s.clock := rfl
@[simp] theorem State.modGrid_agenda (s : State) (u : Nat) (f : Grid → Grid) : (s.modGrid u f).agenda = s.agenda := rfl
@[simp] theorem State.modGrid_turns (s : State) (u : Nat) (f : Grid → Grid) : (s.modGrid u f).turns = s.turns := rfl
@[simp] theorem State.modGrid_slow (s : State) (u : Nat) (f : Grid → Grid) : (s.modGrid u f).slow = s.slow := rfl
@[simp] theorem State.modGrid_actor (s : State) (u : Nat) (f : Grid → Grid) : (s.modGrid u f).actor = s.actor := rfl
@[simp] theorem State.modGrid_veils (s : State) (u : Nat) (f : Grid → Grid) : (s.modGrid u f).veils = s.veils := rfl
@[simp] theorem State.modGrid_free (s : State) (u : Nat) (f : Grid → Grid) : (s.modGrid u f).free = s.free := rfl
@[simp] theorem State.modGrid_uid (s : State) (u : Nat) (f : Grid → Grid) : (s.modGrid u f).uid = s.uid := rfl
@[simp] theorem State.modGrid_boot (s : State) (u : Nat) (f : Grid → Grid) : (s.modGrid u f).boot = s.boot := rfl
@[simp] theorem State.modGrid_rails (s : State) (u : Nat) (f : Grid → Grid) : (s.modGrid u f).rails = s.rails := rfl
@[simp] theorem State.modGrid_firmware (s : State) (u : Nat) (f : Grid → Grid) : (s.modGrid u f).firmware = s.firmware := rfl
@[simp] theorem State.modGrid_booted (s : State) (u : Nat) (f : Grid → Grid) : (s.modGrid u f).booted = s.booted := rfl
@[simp] theorem State.modGrid_fusedMin (s : State) (u : Nat) (f : Grid → Grid) : (s.modGrid u f).fusedMin = s.fusedMin := rfl
@[simp] theorem State.modGrid_devid (s : State) (u : Nat) (f : Grid → Grid) : (s.modGrid u f).devid = s.devid := rfl
@[simp] theorem State.modGrid_remtmo (s : State) (u : Nat) (f : Grid → Grid) : (s.modGrid u f).remtmo = s.remtmo := rfl
@[simp] theorem State.modGrid_hbm (s : State) (u : Nat) (f : Grid → Grid) : (s.modGrid u f).hbm = s.hbm := rfl
@[simp] theorem State.modGrid_scratch (s : State) (u : Nat) (f : Grid → Grid) : (s.modGrid u f).scratch = s.scratch := rfl
@[simp] theorem State.modGrid_dieScratch (s : State) (u : Nat) (f : Grid → Grid) : (s.modGrid u f).dieScratch = s.dieScratch := rfl
@[simp] theorem State.modGrid_acc (s : State) (u : Nat) (f : Grid → Grid) : (s.modGrid u f).acc = s.acc := rfl
@[simp] theorem State.modGrid_poison (s : State) (u : Nat) (f : Grid → Grid) : (s.modGrid u f).poison = s.poison := rfl
@[simp] theorem State.modGrid_halves (s : State) (u : Nat) (f : Grid → Grid) : (s.modGrid u f).halves = s.halves := rfl
@[simp] theorem State.modGrid_caches (s : State) (u : Nat) (f : Grid → Grid) : (s.modGrid u f).caches = s.caches := rfl
@[simp] theorem State.modGrid_tlb (s : State) (u : Nat) (f : Grid → Grid) : (s.modGrid u f).tlb = s.tlb := rfl
@[simp] theorem State.modGrid_sigs (s : State) (u : Nat) (f : Grid → Grid) : (s.modGrid u f).sigs = s.sigs := rfl
@[simp] theorem State.modGrid_touched (s : State) (u : Nat) (f : Grid → Grid) : (s.modGrid u f).touched = s.touched := rfl
@[simp] theorem State.modGrid_groups (s : State) (u : Nat) (f : Grid → Grid) : (s.modGrid u f).groups = s.groups := rfl
@[simp] theorem State.modGrid_teams (s : State) (u : Nat) (f : Grid → Grid) : (s.modGrid u f).teams = s.teams := rfl
@[simp] theorem State.modGrid_nextGrid (s : State) (u : Nat) (f : Grid → Grid) : (s.modGrid u f).nextGrid = s.nextGrid := rfl
@[simp] theorem State.modGrid_draws (s : State) (u : Nat) (f : Grid → Grid) : (s.modGrid u f).draws = s.draws := rfl
@[simp] theorem State.modGrid_tuns (s : State) (u : Nat) (f : Grid → Grid) : (s.modGrid u f).tuns = s.tuns := rfl
@[simp] theorem State.modGrid_casks (s : State) (u : Nat) (f : Grid → Grid) : (s.modGrid u f).casks = s.casks := rfl
@[simp] theorem State.modGrid_engines (s : State) (u : Nat) (f : Grid → Grid) : (s.modGrid u f).engines = s.engines := rfl
@[simp] theorem State.modGrid_parts (s : State) (u : Nat) (f : Grid → Grid) : (s.modGrid u f).parts = s.parts := rfl
@[simp] theorem State.modGrid_packets (s : State) (u : Nat) (f : Grid → Grid) : (s.modGrid u f).packets = s.packets := rfl
@[simp] theorem State.modGrid_steeps (s : State) (u : Nat) (f : Grid → Grid) : (s.modGrid u f).steeps = s.steeps := rfl
@[simp] theorem State.modGrid_bindings (s : State) (u : Nat) (f : Grid → Grid) : (s.modGrid u f).bindings = s.bindings := rfl
@[simp] theorem State.modGrid_runs (s : State) (u : Nat) (f : Grid → Grid) : (s.modGrid u f).runs = s.runs := rfl
@[simp] theorem State.modGrid_saves (s : State) (u : Nat) (f : Grid → Grid) : (s.modGrid u f).saves = s.saves := rfl
@[simp] theorem State.modGrid_remotes (s : State) (u : Nat) (f : Grid → Grid) : (s.modGrid u f).remotes = s.remotes := rfl
@[simp] theorem State.modGrid_egress (s : State) (u : Nat) (f : Grid → Grid) : (s.modGrid u f).egress = s.egress := rfl
@[simp] theorem State.modGrid_redt (s : State) (u : Nat) (f : Grid → Grid) : (s.modGrid u f).redt = s.redt := rfl
@[simp] theorem State.modGrid_flushes (s : State) (u : Nat) (f : Grid → Grid) : (s.modGrid u f).flushes = s.flushes := rfl
@[simp] theorem State.modGrid_slotHits (s : State) (u : Nat) (f : Grid → Grid) : (s.modGrid u f).slotHits = s.slotHits := rfl
@[simp] theorem State.modGrid_kiln (s : State) (u : Nat) (f : Grid → Grid) : (s.modGrid u f).kiln = s.kiln := rfl
@[simp] theorem State.modGrid_ras (s : State) (u : Nat) (f : Grid → Grid) : (s.modGrid u f).ras = s.ras := rfl
@[simp] theorem State.modGrid_budgets (s : State) (u : Nat) (f : Grid → Grid) : (s.modGrid u f).budgets = s.budgets := rfl
@[simp] theorem State.modGrid_budgetBase (s : State) (u : Nat) (f : Grid → Grid) : (s.modGrid u f).budgetBase = s.budgetBase := rfl
@[simp] theorem State.modGrid_overAllowed (s : State) (u : Nat) (f : Grid → Grid) : (s.modGrid u f).overAllowed = s.overAllowed := rfl
@[simp] theorem State.modGrid_halved (s : State) (u : Nat) (f : Grid → Grid) : (s.modGrid u f).halved = s.halved := rfl
@[simp] theorem State.modGrid_dieClock (s : State) (u : Nat) (f : Grid → Grid) : (s.modGrid u f).dieClock = s.dieClock := rfl
@[simp] theorem State.modGrid_i3c (s : State) (u : Nat) (f : Grid → Grid) : (s.modGrid u f).i3c = s.i3c := rfl
@[simp] theorem State.modGrid_powerOff (s : State) (u : Nat) (f : Grid → Grid) : (s.modGrid u f).powerOff = s.powerOff := rfl
@[simp] theorem State.modGrid_monitors (s : State) (u : Nat) (f : Grid → Grid) : (s.modGrid u f).monitors = s.monitors := rfl
@[simp] theorem State.modGrid_limits (s : State) (u : Nat) (f : Grid → Grid) : (s.modGrid u f).limits = s.limits := rfl
@[simp] theorem State.modGrid_railOut (s : State) (u : Nat) (f : Grid → Grid) : (s.modGrid u f).railOut = s.railOut := rfl

/-! ### modTun -/

@[simp] theorem State.modTun_clock (s : State) (u : Nat) (f : Tun → Tun) : (s.modTun u f).clock = s.clock := rfl
@[simp] theorem State.modTun_agenda (s : State) (u : Nat) (f : Tun → Tun) : (s.modTun u f).agenda = s.agenda := rfl
@[simp] theorem State.modTun_turns (s : State) (u : Nat) (f : Tun → Tun) : (s.modTun u f).turns = s.turns := rfl
@[simp] theorem State.modTun_slow (s : State) (u : Nat) (f : Tun → Tun) : (s.modTun u f).slow = s.slow := rfl
@[simp] theorem State.modTun_actor (s : State) (u : Nat) (f : Tun → Tun) : (s.modTun u f).actor = s.actor := rfl
@[simp] theorem State.modTun_veils (s : State) (u : Nat) (f : Tun → Tun) : (s.modTun u f).veils = s.veils := rfl
@[simp] theorem State.modTun_free (s : State) (u : Nat) (f : Tun → Tun) : (s.modTun u f).free = s.free := rfl
@[simp] theorem State.modTun_uid (s : State) (u : Nat) (f : Tun → Tun) : (s.modTun u f).uid = s.uid := rfl
@[simp] theorem State.modTun_boot (s : State) (u : Nat) (f : Tun → Tun) : (s.modTun u f).boot = s.boot := rfl
@[simp] theorem State.modTun_rails (s : State) (u : Nat) (f : Tun → Tun) : (s.modTun u f).rails = s.rails := rfl
@[simp] theorem State.modTun_firmware (s : State) (u : Nat) (f : Tun → Tun) : (s.modTun u f).firmware = s.firmware := rfl
@[simp] theorem State.modTun_booted (s : State) (u : Nat) (f : Tun → Tun) : (s.modTun u f).booted = s.booted := rfl
@[simp] theorem State.modTun_fusedMin (s : State) (u : Nat) (f : Tun → Tun) : (s.modTun u f).fusedMin = s.fusedMin := rfl
@[simp] theorem State.modTun_devid (s : State) (u : Nat) (f : Tun → Tun) : (s.modTun u f).devid = s.devid := rfl
@[simp] theorem State.modTun_remtmo (s : State) (u : Nat) (f : Tun → Tun) : (s.modTun u f).remtmo = s.remtmo := rfl
@[simp] theorem State.modTun_hbm (s : State) (u : Nat) (f : Tun → Tun) : (s.modTun u f).hbm = s.hbm := rfl
@[simp] theorem State.modTun_scratch (s : State) (u : Nat) (f : Tun → Tun) : (s.modTun u f).scratch = s.scratch := rfl
@[simp] theorem State.modTun_dieScratch (s : State) (u : Nat) (f : Tun → Tun) : (s.modTun u f).dieScratch = s.dieScratch := rfl
@[simp] theorem State.modTun_acc (s : State) (u : Nat) (f : Tun → Tun) : (s.modTun u f).acc = s.acc := rfl
@[simp] theorem State.modTun_poison (s : State) (u : Nat) (f : Tun → Tun) : (s.modTun u f).poison = s.poison := rfl
@[simp] theorem State.modTun_halves (s : State) (u : Nat) (f : Tun → Tun) : (s.modTun u f).halves = s.halves := rfl
@[simp] theorem State.modTun_caches (s : State) (u : Nat) (f : Tun → Tun) : (s.modTun u f).caches = s.caches := rfl
@[simp] theorem State.modTun_tlb (s : State) (u : Nat) (f : Tun → Tun) : (s.modTun u f).tlb = s.tlb := rfl
@[simp] theorem State.modTun_sigs (s : State) (u : Nat) (f : Tun → Tun) : (s.modTun u f).sigs = s.sigs := rfl
@[simp] theorem State.modTun_touched (s : State) (u : Nat) (f : Tun → Tun) : (s.modTun u f).touched = s.touched := rfl
@[simp] theorem State.modTun_groups (s : State) (u : Nat) (f : Tun → Tun) : (s.modTun u f).groups = s.groups := rfl
@[simp] theorem State.modTun_teams (s : State) (u : Nat) (f : Tun → Tun) : (s.modTun u f).teams = s.teams := rfl
@[simp] theorem State.modTun_grids (s : State) (u : Nat) (f : Tun → Tun) : (s.modTun u f).grids = s.grids := rfl
@[simp] theorem State.modTun_nextGrid (s : State) (u : Nat) (f : Tun → Tun) : (s.modTun u f).nextGrid = s.nextGrid := rfl
@[simp] theorem State.modTun_draws (s : State) (u : Nat) (f : Tun → Tun) : (s.modTun u f).draws = s.draws := rfl
@[simp] theorem State.modTun_casks (s : State) (u : Nat) (f : Tun → Tun) : (s.modTun u f).casks = s.casks := rfl
@[simp] theorem State.modTun_engines (s : State) (u : Nat) (f : Tun → Tun) : (s.modTun u f).engines = s.engines := rfl
@[simp] theorem State.modTun_parts (s : State) (u : Nat) (f : Tun → Tun) : (s.modTun u f).parts = s.parts := rfl
@[simp] theorem State.modTun_packets (s : State) (u : Nat) (f : Tun → Tun) : (s.modTun u f).packets = s.packets := rfl
@[simp] theorem State.modTun_steeps (s : State) (u : Nat) (f : Tun → Tun) : (s.modTun u f).steeps = s.steeps := rfl
@[simp] theorem State.modTun_bindings (s : State) (u : Nat) (f : Tun → Tun) : (s.modTun u f).bindings = s.bindings := rfl
@[simp] theorem State.modTun_runs (s : State) (u : Nat) (f : Tun → Tun) : (s.modTun u f).runs = s.runs := rfl
@[simp] theorem State.modTun_saves (s : State) (u : Nat) (f : Tun → Tun) : (s.modTun u f).saves = s.saves := rfl
@[simp] theorem State.modTun_remotes (s : State) (u : Nat) (f : Tun → Tun) : (s.modTun u f).remotes = s.remotes := rfl
@[simp] theorem State.modTun_egress (s : State) (u : Nat) (f : Tun → Tun) : (s.modTun u f).egress = s.egress := rfl
@[simp] theorem State.modTun_redt (s : State) (u : Nat) (f : Tun → Tun) : (s.modTun u f).redt = s.redt := rfl
@[simp] theorem State.modTun_flushes (s : State) (u : Nat) (f : Tun → Tun) : (s.modTun u f).flushes = s.flushes := rfl
@[simp] theorem State.modTun_slotHits (s : State) (u : Nat) (f : Tun → Tun) : (s.modTun u f).slotHits = s.slotHits := rfl
@[simp] theorem State.modTun_kiln (s : State) (u : Nat) (f : Tun → Tun) : (s.modTun u f).kiln = s.kiln := rfl
@[simp] theorem State.modTun_ras (s : State) (u : Nat) (f : Tun → Tun) : (s.modTun u f).ras = s.ras := rfl
@[simp] theorem State.modTun_budgets (s : State) (u : Nat) (f : Tun → Tun) : (s.modTun u f).budgets = s.budgets := rfl
@[simp] theorem State.modTun_budgetBase (s : State) (u : Nat) (f : Tun → Tun) : (s.modTun u f).budgetBase = s.budgetBase := rfl
@[simp] theorem State.modTun_overAllowed (s : State) (u : Nat) (f : Tun → Tun) : (s.modTun u f).overAllowed = s.overAllowed := rfl
@[simp] theorem State.modTun_halved (s : State) (u : Nat) (f : Tun → Tun) : (s.modTun u f).halved = s.halved := rfl
@[simp] theorem State.modTun_dieClock (s : State) (u : Nat) (f : Tun → Tun) : (s.modTun u f).dieClock = s.dieClock := rfl
@[simp] theorem State.modTun_i3c (s : State) (u : Nat) (f : Tun → Tun) : (s.modTun u f).i3c = s.i3c := rfl
@[simp] theorem State.modTun_powerOff (s : State) (u : Nat) (f : Tun → Tun) : (s.modTun u f).powerOff = s.powerOff := rfl
@[simp] theorem State.modTun_monitors (s : State) (u : Nat) (f : Tun → Tun) : (s.modTun u f).monitors = s.monitors := rfl
@[simp] theorem State.modTun_limits (s : State) (u : Nat) (f : Tun → Tun) : (s.modTun u f).limits = s.limits := rfl
@[simp] theorem State.modTun_railOut (s : State) (u : Nat) (f : Tun → Tun) : (s.modTun u f).railOut = s.railOut := rfl

/-! ### modCask -/

@[simp] theorem State.modCask_clock (s : State) (u : Nat) (f : Cask → Cask) : (s.modCask u f).clock = s.clock := rfl
@[simp] theorem State.modCask_agenda (s : State) (u : Nat) (f : Cask → Cask) : (s.modCask u f).agenda = s.agenda := rfl
@[simp] theorem State.modCask_turns (s : State) (u : Nat) (f : Cask → Cask) : (s.modCask u f).turns = s.turns := rfl
@[simp] theorem State.modCask_slow (s : State) (u : Nat) (f : Cask → Cask) : (s.modCask u f).slow = s.slow := rfl
@[simp] theorem State.modCask_actor (s : State) (u : Nat) (f : Cask → Cask) : (s.modCask u f).actor = s.actor := rfl
@[simp] theorem State.modCask_veils (s : State) (u : Nat) (f : Cask → Cask) : (s.modCask u f).veils = s.veils := rfl
@[simp] theorem State.modCask_free (s : State) (u : Nat) (f : Cask → Cask) : (s.modCask u f).free = s.free := rfl
@[simp] theorem State.modCask_uid (s : State) (u : Nat) (f : Cask → Cask) : (s.modCask u f).uid = s.uid := rfl
@[simp] theorem State.modCask_boot (s : State) (u : Nat) (f : Cask → Cask) : (s.modCask u f).boot = s.boot := rfl
@[simp] theorem State.modCask_rails (s : State) (u : Nat) (f : Cask → Cask) : (s.modCask u f).rails = s.rails := rfl
@[simp] theorem State.modCask_firmware (s : State) (u : Nat) (f : Cask → Cask) : (s.modCask u f).firmware = s.firmware := rfl
@[simp] theorem State.modCask_booted (s : State) (u : Nat) (f : Cask → Cask) : (s.modCask u f).booted = s.booted := rfl
@[simp] theorem State.modCask_fusedMin (s : State) (u : Nat) (f : Cask → Cask) : (s.modCask u f).fusedMin = s.fusedMin := rfl
@[simp] theorem State.modCask_devid (s : State) (u : Nat) (f : Cask → Cask) : (s.modCask u f).devid = s.devid := rfl
@[simp] theorem State.modCask_remtmo (s : State) (u : Nat) (f : Cask → Cask) : (s.modCask u f).remtmo = s.remtmo := rfl
@[simp] theorem State.modCask_hbm (s : State) (u : Nat) (f : Cask → Cask) : (s.modCask u f).hbm = s.hbm := rfl
@[simp] theorem State.modCask_scratch (s : State) (u : Nat) (f : Cask → Cask) : (s.modCask u f).scratch = s.scratch := rfl
@[simp] theorem State.modCask_dieScratch (s : State) (u : Nat) (f : Cask → Cask) : (s.modCask u f).dieScratch = s.dieScratch := rfl
@[simp] theorem State.modCask_acc (s : State) (u : Nat) (f : Cask → Cask) : (s.modCask u f).acc = s.acc := rfl
@[simp] theorem State.modCask_poison (s : State) (u : Nat) (f : Cask → Cask) : (s.modCask u f).poison = s.poison := rfl
@[simp] theorem State.modCask_halves (s : State) (u : Nat) (f : Cask → Cask) : (s.modCask u f).halves = s.halves := rfl
@[simp] theorem State.modCask_caches (s : State) (u : Nat) (f : Cask → Cask) : (s.modCask u f).caches = s.caches := rfl
@[simp] theorem State.modCask_tlb (s : State) (u : Nat) (f : Cask → Cask) : (s.modCask u f).tlb = s.tlb := rfl
@[simp] theorem State.modCask_sigs (s : State) (u : Nat) (f : Cask → Cask) : (s.modCask u f).sigs = s.sigs := rfl
@[simp] theorem State.modCask_touched (s : State) (u : Nat) (f : Cask → Cask) : (s.modCask u f).touched = s.touched := rfl
@[simp] theorem State.modCask_groups (s : State) (u : Nat) (f : Cask → Cask) : (s.modCask u f).groups = s.groups := rfl
@[simp] theorem State.modCask_teams (s : State) (u : Nat) (f : Cask → Cask) : (s.modCask u f).teams = s.teams := rfl
@[simp] theorem State.modCask_grids (s : State) (u : Nat) (f : Cask → Cask) : (s.modCask u f).grids = s.grids := rfl
@[simp] theorem State.modCask_nextGrid (s : State) (u : Nat) (f : Cask → Cask) : (s.modCask u f).nextGrid = s.nextGrid := rfl
@[simp] theorem State.modCask_draws (s : State) (u : Nat) (f : Cask → Cask) : (s.modCask u f).draws = s.draws := rfl
@[simp] theorem State.modCask_tuns (s : State) (u : Nat) (f : Cask → Cask) : (s.modCask u f).tuns = s.tuns := rfl
@[simp] theorem State.modCask_engines (s : State) (u : Nat) (f : Cask → Cask) : (s.modCask u f).engines = s.engines := rfl
@[simp] theorem State.modCask_parts (s : State) (u : Nat) (f : Cask → Cask) : (s.modCask u f).parts = s.parts := rfl
@[simp] theorem State.modCask_packets (s : State) (u : Nat) (f : Cask → Cask) : (s.modCask u f).packets = s.packets := rfl
@[simp] theorem State.modCask_steeps (s : State) (u : Nat) (f : Cask → Cask) : (s.modCask u f).steeps = s.steeps := rfl
@[simp] theorem State.modCask_bindings (s : State) (u : Nat) (f : Cask → Cask) : (s.modCask u f).bindings = s.bindings := rfl
@[simp] theorem State.modCask_runs (s : State) (u : Nat) (f : Cask → Cask) : (s.modCask u f).runs = s.runs := rfl
@[simp] theorem State.modCask_saves (s : State) (u : Nat) (f : Cask → Cask) : (s.modCask u f).saves = s.saves := rfl
@[simp] theorem State.modCask_remotes (s : State) (u : Nat) (f : Cask → Cask) : (s.modCask u f).remotes = s.remotes := rfl
@[simp] theorem State.modCask_egress (s : State) (u : Nat) (f : Cask → Cask) : (s.modCask u f).egress = s.egress := rfl
@[simp] theorem State.modCask_redt (s : State) (u : Nat) (f : Cask → Cask) : (s.modCask u f).redt = s.redt := rfl
@[simp] theorem State.modCask_flushes (s : State) (u : Nat) (f : Cask → Cask) : (s.modCask u f).flushes = s.flushes := rfl
@[simp] theorem State.modCask_slotHits (s : State) (u : Nat) (f : Cask → Cask) : (s.modCask u f).slotHits = s.slotHits := rfl
@[simp] theorem State.modCask_kiln (s : State) (u : Nat) (f : Cask → Cask) : (s.modCask u f).kiln = s.kiln := rfl
@[simp] theorem State.modCask_ras (s : State) (u : Nat) (f : Cask → Cask) : (s.modCask u f).ras = s.ras := rfl
@[simp] theorem State.modCask_budgets (s : State) (u : Nat) (f : Cask → Cask) : (s.modCask u f).budgets = s.budgets := rfl
@[simp] theorem State.modCask_budgetBase (s : State) (u : Nat) (f : Cask → Cask) : (s.modCask u f).budgetBase = s.budgetBase := rfl
@[simp] theorem State.modCask_overAllowed (s : State) (u : Nat) (f : Cask → Cask) : (s.modCask u f).overAllowed = s.overAllowed := rfl
@[simp] theorem State.modCask_halved (s : State) (u : Nat) (f : Cask → Cask) : (s.modCask u f).halved = s.halved := rfl
@[simp] theorem State.modCask_dieClock (s : State) (u : Nat) (f : Cask → Cask) : (s.modCask u f).dieClock = s.dieClock := rfl
@[simp] theorem State.modCask_i3c (s : State) (u : Nat) (f : Cask → Cask) : (s.modCask u f).i3c = s.i3c := rfl
@[simp] theorem State.modCask_powerOff (s : State) (u : Nat) (f : Cask → Cask) : (s.modCask u f).powerOff = s.powerOff := rfl
@[simp] theorem State.modCask_monitors (s : State) (u : Nat) (f : Cask → Cask) : (s.modCask u f).monitors = s.monitors := rfl
@[simp] theorem State.modCask_limits (s : State) (u : Nat) (f : Cask → Cask) : (s.modCask u f).limits = s.limits := rfl
@[simp] theorem State.modCask_railOut (s : State) (u : Nat) (f : Cask → Cask) : (s.modCask u f).railOut = s.railOut := rfl

/-! ### modPacket -/

@[simp] theorem State.modPacket_clock (s : State) (r : PacketRef) (f : Packet → Packet) : (s.modPacket r f).clock = s.clock := rfl
@[simp] theorem State.modPacket_agenda (s : State) (r : PacketRef) (f : Packet → Packet) : (s.modPacket r f).agenda = s.agenda := rfl
@[simp] theorem State.modPacket_turns (s : State) (r : PacketRef) (f : Packet → Packet) : (s.modPacket r f).turns = s.turns := rfl
@[simp] theorem State.modPacket_slow (s : State) (r : PacketRef) (f : Packet → Packet) : (s.modPacket r f).slow = s.slow := rfl
@[simp] theorem State.modPacket_actor (s : State) (r : PacketRef) (f : Packet → Packet) : (s.modPacket r f).actor = s.actor := rfl
@[simp] theorem State.modPacket_veils (s : State) (r : PacketRef) (f : Packet → Packet) : (s.modPacket r f).veils = s.veils := rfl
@[simp] theorem State.modPacket_free (s : State) (r : PacketRef) (f : Packet → Packet) : (s.modPacket r f).free = s.free := rfl
@[simp] theorem State.modPacket_uid (s : State) (r : PacketRef) (f : Packet → Packet) : (s.modPacket r f).uid = s.uid := rfl
@[simp] theorem State.modPacket_boot (s : State) (r : PacketRef) (f : Packet → Packet) : (s.modPacket r f).boot = s.boot := rfl
@[simp] theorem State.modPacket_rails (s : State) (r : PacketRef) (f : Packet → Packet) : (s.modPacket r f).rails = s.rails := rfl
@[simp] theorem State.modPacket_firmware (s : State) (r : PacketRef) (f : Packet → Packet) : (s.modPacket r f).firmware = s.firmware := rfl
@[simp] theorem State.modPacket_booted (s : State) (r : PacketRef) (f : Packet → Packet) : (s.modPacket r f).booted = s.booted := rfl
@[simp] theorem State.modPacket_fusedMin (s : State) (r : PacketRef) (f : Packet → Packet) : (s.modPacket r f).fusedMin = s.fusedMin := rfl
@[simp] theorem State.modPacket_devid (s : State) (r : PacketRef) (f : Packet → Packet) : (s.modPacket r f).devid = s.devid := rfl
@[simp] theorem State.modPacket_remtmo (s : State) (r : PacketRef) (f : Packet → Packet) : (s.modPacket r f).remtmo = s.remtmo := rfl
@[simp] theorem State.modPacket_hbm (s : State) (r : PacketRef) (f : Packet → Packet) : (s.modPacket r f).hbm = s.hbm := rfl
@[simp] theorem State.modPacket_scratch (s : State) (r : PacketRef) (f : Packet → Packet) : (s.modPacket r f).scratch = s.scratch := rfl
@[simp] theorem State.modPacket_dieScratch (s : State) (r : PacketRef) (f : Packet → Packet) : (s.modPacket r f).dieScratch = s.dieScratch := rfl
@[simp] theorem State.modPacket_acc (s : State) (r : PacketRef) (f : Packet → Packet) : (s.modPacket r f).acc = s.acc := rfl
@[simp] theorem State.modPacket_poison (s : State) (r : PacketRef) (f : Packet → Packet) : (s.modPacket r f).poison = s.poison := rfl
@[simp] theorem State.modPacket_halves (s : State) (r : PacketRef) (f : Packet → Packet) : (s.modPacket r f).halves = s.halves := rfl
@[simp] theorem State.modPacket_caches (s : State) (r : PacketRef) (f : Packet → Packet) : (s.modPacket r f).caches = s.caches := rfl
@[simp] theorem State.modPacket_tlb (s : State) (r : PacketRef) (f : Packet → Packet) : (s.modPacket r f).tlb = s.tlb := rfl
@[simp] theorem State.modPacket_sigs (s : State) (r : PacketRef) (f : Packet → Packet) : (s.modPacket r f).sigs = s.sigs := rfl
@[simp] theorem State.modPacket_touched (s : State) (r : PacketRef) (f : Packet → Packet) : (s.modPacket r f).touched = s.touched := rfl
@[simp] theorem State.modPacket_groups (s : State) (r : PacketRef) (f : Packet → Packet) : (s.modPacket r f).groups = s.groups := rfl
@[simp] theorem State.modPacket_teams (s : State) (r : PacketRef) (f : Packet → Packet) : (s.modPacket r f).teams = s.teams := rfl
@[simp] theorem State.modPacket_grids (s : State) (r : PacketRef) (f : Packet → Packet) : (s.modPacket r f).grids = s.grids := rfl
@[simp] theorem State.modPacket_nextGrid (s : State) (r : PacketRef) (f : Packet → Packet) : (s.modPacket r f).nextGrid = s.nextGrid := rfl
@[simp] theorem State.modPacket_draws (s : State) (r : PacketRef) (f : Packet → Packet) : (s.modPacket r f).draws = s.draws := rfl
@[simp] theorem State.modPacket_tuns (s : State) (r : PacketRef) (f : Packet → Packet) : (s.modPacket r f).tuns = s.tuns := rfl
@[simp] theorem State.modPacket_casks (s : State) (r : PacketRef) (f : Packet → Packet) : (s.modPacket r f).casks = s.casks := rfl
@[simp] theorem State.modPacket_engines (s : State) (r : PacketRef) (f : Packet → Packet) : (s.modPacket r f).engines = s.engines := rfl
@[simp] theorem State.modPacket_parts (s : State) (r : PacketRef) (f : Packet → Packet) : (s.modPacket r f).parts = s.parts := rfl
@[simp] theorem State.modPacket_steeps (s : State) (r : PacketRef) (f : Packet → Packet) : (s.modPacket r f).steeps = s.steeps := rfl
@[simp] theorem State.modPacket_bindings (s : State) (r : PacketRef) (f : Packet → Packet) : (s.modPacket r f).bindings = s.bindings := rfl
@[simp] theorem State.modPacket_runs (s : State) (r : PacketRef) (f : Packet → Packet) : (s.modPacket r f).runs = s.runs := rfl
@[simp] theorem State.modPacket_saves (s : State) (r : PacketRef) (f : Packet → Packet) : (s.modPacket r f).saves = s.saves := rfl
@[simp] theorem State.modPacket_remotes (s : State) (r : PacketRef) (f : Packet → Packet) : (s.modPacket r f).remotes = s.remotes := rfl
@[simp] theorem State.modPacket_egress (s : State) (r : PacketRef) (f : Packet → Packet) : (s.modPacket r f).egress = s.egress := rfl
@[simp] theorem State.modPacket_redt (s : State) (r : PacketRef) (f : Packet → Packet) : (s.modPacket r f).redt = s.redt := rfl
@[simp] theorem State.modPacket_flushes (s : State) (r : PacketRef) (f : Packet → Packet) : (s.modPacket r f).flushes = s.flushes := rfl
@[simp] theorem State.modPacket_slotHits (s : State) (r : PacketRef) (f : Packet → Packet) : (s.modPacket r f).slotHits = s.slotHits := rfl
@[simp] theorem State.modPacket_kiln (s : State) (r : PacketRef) (f : Packet → Packet) : (s.modPacket r f).kiln = s.kiln := rfl
@[simp] theorem State.modPacket_ras (s : State) (r : PacketRef) (f : Packet → Packet) : (s.modPacket r f).ras = s.ras := rfl
@[simp] theorem State.modPacket_budgets (s : State) (r : PacketRef) (f : Packet → Packet) : (s.modPacket r f).budgets = s.budgets := rfl
@[simp] theorem State.modPacket_budgetBase (s : State) (r : PacketRef) (f : Packet → Packet) : (s.modPacket r f).budgetBase = s.budgetBase := rfl
@[simp] theorem State.modPacket_overAllowed (s : State) (r : PacketRef) (f : Packet → Packet) : (s.modPacket r f).overAllowed = s.overAllowed := rfl
@[simp] theorem State.modPacket_halved (s : State) (r : PacketRef) (f : Packet → Packet) : (s.modPacket r f).halved = s.halved := rfl
@[simp] theorem State.modPacket_dieClock (s : State) (r : PacketRef) (f : Packet → Packet) : (s.modPacket r f).dieClock = s.dieClock := rfl
@[simp] theorem State.modPacket_i3c (s : State) (r : PacketRef) (f : Packet → Packet) : (s.modPacket r f).i3c = s.i3c := rfl
@[simp] theorem State.modPacket_powerOff (s : State) (r : PacketRef) (f : Packet → Packet) : (s.modPacket r f).powerOff = s.powerOff := rfl
@[simp] theorem State.modPacket_monitors (s : State) (r : PacketRef) (f : Packet → Packet) : (s.modPacket r f).monitors = s.monitors := rfl
@[simp] theorem State.modPacket_limits (s : State) (r : PacketRef) (f : Packet → Packet) : (s.modPacket r f).limits = s.limits := rfl
@[simp] theorem State.modPacket_railOut (s : State) (r : PacketRef) (f : Packet → Packet) : (s.modPacket r f).railOut = s.railOut := rfl

/-! ### modRun -/

@[simp] theorem State.modRun_clock (s : State) (u : Nat) (f : SteepRun → SteepRun) : (s.modRun u f).clock = s.clock := rfl
@[simp] theorem State.modRun_agenda (s : State) (u : Nat) (f : SteepRun → SteepRun) : (s.modRun u f).agenda = s.agenda := rfl
@[simp] theorem State.modRun_turns (s : State) (u : Nat) (f : SteepRun → SteepRun) : (s.modRun u f).turns = s.turns := rfl
@[simp] theorem State.modRun_slow (s : State) (u : Nat) (f : SteepRun → SteepRun) : (s.modRun u f).slow = s.slow := rfl
@[simp] theorem State.modRun_actor (s : State) (u : Nat) (f : SteepRun → SteepRun) : (s.modRun u f).actor = s.actor := rfl
@[simp] theorem State.modRun_veils (s : State) (u : Nat) (f : SteepRun → SteepRun) : (s.modRun u f).veils = s.veils := rfl
@[simp] theorem State.modRun_free (s : State) (u : Nat) (f : SteepRun → SteepRun) : (s.modRun u f).free = s.free := rfl
@[simp] theorem State.modRun_uid (s : State) (u : Nat) (f : SteepRun → SteepRun) : (s.modRun u f).uid = s.uid := rfl
@[simp] theorem State.modRun_boot (s : State) (u : Nat) (f : SteepRun → SteepRun) : (s.modRun u f).boot = s.boot := rfl
@[simp] theorem State.modRun_rails (s : State) (u : Nat) (f : SteepRun → SteepRun) : (s.modRun u f).rails = s.rails := rfl
@[simp] theorem State.modRun_firmware (s : State) (u : Nat) (f : SteepRun → SteepRun) : (s.modRun u f).firmware = s.firmware := rfl
@[simp] theorem State.modRun_booted (s : State) (u : Nat) (f : SteepRun → SteepRun) : (s.modRun u f).booted = s.booted := rfl
@[simp] theorem State.modRun_fusedMin (s : State) (u : Nat) (f : SteepRun → SteepRun) : (s.modRun u f).fusedMin = s.fusedMin := rfl
@[simp] theorem State.modRun_devid (s : State) (u : Nat) (f : SteepRun → SteepRun) : (s.modRun u f).devid = s.devid := rfl
@[simp] theorem State.modRun_remtmo (s : State) (u : Nat) (f : SteepRun → SteepRun) : (s.modRun u f).remtmo = s.remtmo := rfl
@[simp] theorem State.modRun_hbm (s : State) (u : Nat) (f : SteepRun → SteepRun) : (s.modRun u f).hbm = s.hbm := rfl
@[simp] theorem State.modRun_scratch (s : State) (u : Nat) (f : SteepRun → SteepRun) : (s.modRun u f).scratch = s.scratch := rfl
@[simp] theorem State.modRun_dieScratch (s : State) (u : Nat) (f : SteepRun → SteepRun) : (s.modRun u f).dieScratch = s.dieScratch := rfl
@[simp] theorem State.modRun_acc (s : State) (u : Nat) (f : SteepRun → SteepRun) : (s.modRun u f).acc = s.acc := rfl
@[simp] theorem State.modRun_poison (s : State) (u : Nat) (f : SteepRun → SteepRun) : (s.modRun u f).poison = s.poison := rfl
@[simp] theorem State.modRun_halves (s : State) (u : Nat) (f : SteepRun → SteepRun) : (s.modRun u f).halves = s.halves := rfl
@[simp] theorem State.modRun_caches (s : State) (u : Nat) (f : SteepRun → SteepRun) : (s.modRun u f).caches = s.caches := rfl
@[simp] theorem State.modRun_tlb (s : State) (u : Nat) (f : SteepRun → SteepRun) : (s.modRun u f).tlb = s.tlb := rfl
@[simp] theorem State.modRun_sigs (s : State) (u : Nat) (f : SteepRun → SteepRun) : (s.modRun u f).sigs = s.sigs := rfl
@[simp] theorem State.modRun_touched (s : State) (u : Nat) (f : SteepRun → SteepRun) : (s.modRun u f).touched = s.touched := rfl
@[simp] theorem State.modRun_groups (s : State) (u : Nat) (f : SteepRun → SteepRun) : (s.modRun u f).groups = s.groups := rfl
@[simp] theorem State.modRun_teams (s : State) (u : Nat) (f : SteepRun → SteepRun) : (s.modRun u f).teams = s.teams := rfl
@[simp] theorem State.modRun_grids (s : State) (u : Nat) (f : SteepRun → SteepRun) : (s.modRun u f).grids = s.grids := rfl
@[simp] theorem State.modRun_nextGrid (s : State) (u : Nat) (f : SteepRun → SteepRun) : (s.modRun u f).nextGrid = s.nextGrid := rfl
@[simp] theorem State.modRun_draws (s : State) (u : Nat) (f : SteepRun → SteepRun) : (s.modRun u f).draws = s.draws := rfl
@[simp] theorem State.modRun_tuns (s : State) (u : Nat) (f : SteepRun → SteepRun) : (s.modRun u f).tuns = s.tuns := rfl
@[simp] theorem State.modRun_casks (s : State) (u : Nat) (f : SteepRun → SteepRun) : (s.modRun u f).casks = s.casks := rfl
@[simp] theorem State.modRun_engines (s : State) (u : Nat) (f : SteepRun → SteepRun) : (s.modRun u f).engines = s.engines := rfl
@[simp] theorem State.modRun_parts (s : State) (u : Nat) (f : SteepRun → SteepRun) : (s.modRun u f).parts = s.parts := rfl
@[simp] theorem State.modRun_packets (s : State) (u : Nat) (f : SteepRun → SteepRun) : (s.modRun u f).packets = s.packets := rfl
@[simp] theorem State.modRun_steeps (s : State) (u : Nat) (f : SteepRun → SteepRun) : (s.modRun u f).steeps = s.steeps := rfl
@[simp] theorem State.modRun_bindings (s : State) (u : Nat) (f : SteepRun → SteepRun) : (s.modRun u f).bindings = s.bindings := rfl
@[simp] theorem State.modRun_saves (s : State) (u : Nat) (f : SteepRun → SteepRun) : (s.modRun u f).saves = s.saves := rfl
@[simp] theorem State.modRun_remotes (s : State) (u : Nat) (f : SteepRun → SteepRun) : (s.modRun u f).remotes = s.remotes := rfl
@[simp] theorem State.modRun_egress (s : State) (u : Nat) (f : SteepRun → SteepRun) : (s.modRun u f).egress = s.egress := rfl
@[simp] theorem State.modRun_redt (s : State) (u : Nat) (f : SteepRun → SteepRun) : (s.modRun u f).redt = s.redt := rfl
@[simp] theorem State.modRun_flushes (s : State) (u : Nat) (f : SteepRun → SteepRun) : (s.modRun u f).flushes = s.flushes := rfl
@[simp] theorem State.modRun_slotHits (s : State) (u : Nat) (f : SteepRun → SteepRun) : (s.modRun u f).slotHits = s.slotHits := rfl
@[simp] theorem State.modRun_kiln (s : State) (u : Nat) (f : SteepRun → SteepRun) : (s.modRun u f).kiln = s.kiln := rfl
@[simp] theorem State.modRun_ras (s : State) (u : Nat) (f : SteepRun → SteepRun) : (s.modRun u f).ras = s.ras := rfl
@[simp] theorem State.modRun_budgets (s : State) (u : Nat) (f : SteepRun → SteepRun) : (s.modRun u f).budgets = s.budgets := rfl
@[simp] theorem State.modRun_budgetBase (s : State) (u : Nat) (f : SteepRun → SteepRun) : (s.modRun u f).budgetBase = s.budgetBase := rfl
@[simp] theorem State.modRun_overAllowed (s : State) (u : Nat) (f : SteepRun → SteepRun) : (s.modRun u f).overAllowed = s.overAllowed := rfl
@[simp] theorem State.modRun_halved (s : State) (u : Nat) (f : SteepRun → SteepRun) : (s.modRun u f).halved = s.halved := rfl
@[simp] theorem State.modRun_dieClock (s : State) (u : Nat) (f : SteepRun → SteepRun) : (s.modRun u f).dieClock = s.dieClock := rfl
@[simp] theorem State.modRun_i3c (s : State) (u : Nat) (f : SteepRun → SteepRun) : (s.modRun u f).i3c = s.i3c := rfl
@[simp] theorem State.modRun_powerOff (s : State) (u : Nat) (f : SteepRun → SteepRun) : (s.modRun u f).powerOff = s.powerOff := rfl
@[simp] theorem State.modRun_monitors (s : State) (u : Nat) (f : SteepRun → SteepRun) : (s.modRun u f).monitors = s.monitors := rfl
@[simp] theorem State.modRun_limits (s : State) (u : Nat) (f : SteepRun → SteepRun) : (s.modRun u f).limits = s.limits := rfl
@[simp] theorem State.modRun_railOut (s : State) (u : Nat) (f : SteepRun → SteepRun) : (s.modRun u f).railOut = s.railOut := rfl

/-! ### setEngine -/

@[simp] theorem State.setEngine_clock (s : State) (e : Engine) : (s.setEngine e).clock = s.clock := rfl
@[simp] theorem State.setEngine_agenda (s : State) (e : Engine) : (s.setEngine e).agenda = s.agenda := rfl
@[simp] theorem State.setEngine_turns (s : State) (e : Engine) : (s.setEngine e).turns = s.turns := rfl
@[simp] theorem State.setEngine_slow (s : State) (e : Engine) : (s.setEngine e).slow = s.slow := rfl
@[simp] theorem State.setEngine_actor (s : State) (e : Engine) : (s.setEngine e).actor = s.actor := rfl
@[simp] theorem State.setEngine_veils (s : State) (e : Engine) : (s.setEngine e).veils = s.veils := rfl
@[simp] theorem State.setEngine_free (s : State) (e : Engine) : (s.setEngine e).free = s.free := rfl
@[simp] theorem State.setEngine_uid (s : State) (e : Engine) : (s.setEngine e).uid = s.uid := rfl
@[simp] theorem State.setEngine_boot (s : State) (e : Engine) : (s.setEngine e).boot = s.boot := rfl
@[simp] theorem State.setEngine_rails (s : State) (e : Engine) : (s.setEngine e).rails = s.rails := rfl
@[simp] theorem State.setEngine_firmware (s : State) (e : Engine) : (s.setEngine e).firmware = s.firmware := rfl
@[simp] theorem State.setEngine_booted (s : State) (e : Engine) : (s.setEngine e).booted = s.booted := rfl
@[simp] theorem State.setEngine_fusedMin (s : State) (e : Engine) : (s.setEngine e).fusedMin = s.fusedMin := rfl
@[simp] theorem State.setEngine_devid (s : State) (e : Engine) : (s.setEngine e).devid = s.devid := rfl
@[simp] theorem State.setEngine_remtmo (s : State) (e : Engine) : (s.setEngine e).remtmo = s.remtmo := rfl
@[simp] theorem State.setEngine_hbm (s : State) (e : Engine) : (s.setEngine e).hbm = s.hbm := rfl
@[simp] theorem State.setEngine_scratch (s : State) (e : Engine) : (s.setEngine e).scratch = s.scratch := rfl
@[simp] theorem State.setEngine_dieScratch (s : State) (e : Engine) : (s.setEngine e).dieScratch = s.dieScratch := rfl
@[simp] theorem State.setEngine_acc (s : State) (e : Engine) : (s.setEngine e).acc = s.acc := rfl
@[simp] theorem State.setEngine_poison (s : State) (e : Engine) : (s.setEngine e).poison = s.poison := rfl
@[simp] theorem State.setEngine_halves (s : State) (e : Engine) : (s.setEngine e).halves = s.halves := rfl
@[simp] theorem State.setEngine_caches (s : State) (e : Engine) : (s.setEngine e).caches = s.caches := rfl
@[simp] theorem State.setEngine_tlb (s : State) (e : Engine) : (s.setEngine e).tlb = s.tlb := rfl
@[simp] theorem State.setEngine_sigs (s : State) (e : Engine) : (s.setEngine e).sigs = s.sigs := rfl
@[simp] theorem State.setEngine_touched (s : State) (e : Engine) : (s.setEngine e).touched = s.touched := rfl
@[simp] theorem State.setEngine_groups (s : State) (e : Engine) : (s.setEngine e).groups = s.groups := rfl
@[simp] theorem State.setEngine_teams (s : State) (e : Engine) : (s.setEngine e).teams = s.teams := rfl
@[simp] theorem State.setEngine_grids (s : State) (e : Engine) : (s.setEngine e).grids = s.grids := rfl
@[simp] theorem State.setEngine_nextGrid (s : State) (e : Engine) : (s.setEngine e).nextGrid = s.nextGrid := rfl
@[simp] theorem State.setEngine_draws (s : State) (e : Engine) : (s.setEngine e).draws = s.draws := rfl
@[simp] theorem State.setEngine_tuns (s : State) (e : Engine) : (s.setEngine e).tuns = s.tuns := rfl
@[simp] theorem State.setEngine_casks (s : State) (e : Engine) : (s.setEngine e).casks = s.casks := rfl
@[simp] theorem State.setEngine_parts (s : State) (e : Engine) : (s.setEngine e).parts = s.parts := rfl
@[simp] theorem State.setEngine_packets (s : State) (e : Engine) : (s.setEngine e).packets = s.packets := rfl
@[simp] theorem State.setEngine_steeps (s : State) (e : Engine) : (s.setEngine e).steeps = s.steeps := rfl
@[simp] theorem State.setEngine_bindings (s : State) (e : Engine) : (s.setEngine e).bindings = s.bindings := rfl
@[simp] theorem State.setEngine_runs (s : State) (e : Engine) : (s.setEngine e).runs = s.runs := rfl
@[simp] theorem State.setEngine_saves (s : State) (e : Engine) : (s.setEngine e).saves = s.saves := rfl
@[simp] theorem State.setEngine_remotes (s : State) (e : Engine) : (s.setEngine e).remotes = s.remotes := rfl
@[simp] theorem State.setEngine_egress (s : State) (e : Engine) : (s.setEngine e).egress = s.egress := rfl
@[simp] theorem State.setEngine_redt (s : State) (e : Engine) : (s.setEngine e).redt = s.redt := rfl
@[simp] theorem State.setEngine_flushes (s : State) (e : Engine) : (s.setEngine e).flushes = s.flushes := rfl
@[simp] theorem State.setEngine_slotHits (s : State) (e : Engine) : (s.setEngine e).slotHits = s.slotHits := rfl
@[simp] theorem State.setEngine_kiln (s : State) (e : Engine) : (s.setEngine e).kiln = s.kiln := rfl
@[simp] theorem State.setEngine_ras (s : State) (e : Engine) : (s.setEngine e).ras = s.ras := rfl
@[simp] theorem State.setEngine_budgets (s : State) (e : Engine) : (s.setEngine e).budgets = s.budgets := rfl
@[simp] theorem State.setEngine_budgetBase (s : State) (e : Engine) : (s.setEngine e).budgetBase = s.budgetBase := rfl
@[simp] theorem State.setEngine_overAllowed (s : State) (e : Engine) : (s.setEngine e).overAllowed = s.overAllowed := rfl
@[simp] theorem State.setEngine_halved (s : State) (e : Engine) : (s.setEngine e).halved = s.halved := rfl
@[simp] theorem State.setEngine_dieClock (s : State) (e : Engine) : (s.setEngine e).dieClock = s.dieClock := rfl
@[simp] theorem State.setEngine_i3c (s : State) (e : Engine) : (s.setEngine e).i3c = s.i3c := rfl
@[simp] theorem State.setEngine_powerOff (s : State) (e : Engine) : (s.setEngine e).powerOff = s.powerOff := rfl
@[simp] theorem State.setEngine_monitors (s : State) (e : Engine) : (s.setEngine e).monitors = s.monitors := rfl
@[simp] theorem State.setEngine_limits (s : State) (e : Engine) : (s.setEngine e).limits = s.limits := rfl
@[simp] theorem State.setEngine_railOut (s : State) (e : Engine) : (s.setEngine e).railOut = s.railOut := rfl

/-! ### setPart -/

@[simp] theorem State.setPart_clock (s : State) (p : Nat) (x : Partition) : (s.setPart p x).clock = s.clock := rfl
@[simp] theorem State.setPart_agenda (s : State) (p : Nat) (x : Partition) : (s.setPart p x).agenda = s.agenda := rfl
@[simp] theorem State.setPart_turns (s : State) (p : Nat) (x : Partition) : (s.setPart p x).turns = s.turns := rfl
@[simp] theorem State.setPart_slow (s : State) (p : Nat) (x : Partition) : (s.setPart p x).slow = s.slow := rfl
@[simp] theorem State.setPart_actor (s : State) (p : Nat) (x : Partition) : (s.setPart p x).actor = s.actor := rfl
@[simp] theorem State.setPart_veils (s : State) (p : Nat) (x : Partition) : (s.setPart p x).veils = s.veils := rfl
@[simp] theorem State.setPart_free (s : State) (p : Nat) (x : Partition) : (s.setPart p x).free = s.free := rfl
@[simp] theorem State.setPart_uid (s : State) (p : Nat) (x : Partition) : (s.setPart p x).uid = s.uid := rfl
@[simp] theorem State.setPart_boot (s : State) (p : Nat) (x : Partition) : (s.setPart p x).boot = s.boot := rfl
@[simp] theorem State.setPart_rails (s : State) (p : Nat) (x : Partition) : (s.setPart p x).rails = s.rails := rfl
@[simp] theorem State.setPart_firmware (s : State) (p : Nat) (x : Partition) : (s.setPart p x).firmware = s.firmware := rfl
@[simp] theorem State.setPart_booted (s : State) (p : Nat) (x : Partition) : (s.setPart p x).booted = s.booted := rfl
@[simp] theorem State.setPart_fusedMin (s : State) (p : Nat) (x : Partition) : (s.setPart p x).fusedMin = s.fusedMin := rfl
@[simp] theorem State.setPart_devid (s : State) (p : Nat) (x : Partition) : (s.setPart p x).devid = s.devid := rfl
@[simp] theorem State.setPart_remtmo (s : State) (p : Nat) (x : Partition) : (s.setPart p x).remtmo = s.remtmo := rfl
@[simp] theorem State.setPart_hbm (s : State) (p : Nat) (x : Partition) : (s.setPart p x).hbm = s.hbm := rfl
@[simp] theorem State.setPart_scratch (s : State) (p : Nat) (x : Partition) : (s.setPart p x).scratch = s.scratch := rfl
@[simp] theorem State.setPart_dieScratch (s : State) (p : Nat) (x : Partition) : (s.setPart p x).dieScratch = s.dieScratch := rfl
@[simp] theorem State.setPart_acc (s : State) (p : Nat) (x : Partition) : (s.setPart p x).acc = s.acc := rfl
@[simp] theorem State.setPart_poison (s : State) (p : Nat) (x : Partition) : (s.setPart p x).poison = s.poison := rfl
@[simp] theorem State.setPart_halves (s : State) (p : Nat) (x : Partition) : (s.setPart p x).halves = s.halves := rfl
@[simp] theorem State.setPart_caches (s : State) (p : Nat) (x : Partition) : (s.setPart p x).caches = s.caches := rfl
@[simp] theorem State.setPart_tlb (s : State) (p : Nat) (x : Partition) : (s.setPart p x).tlb = s.tlb := rfl
@[simp] theorem State.setPart_sigs (s : State) (p : Nat) (x : Partition) : (s.setPart p x).sigs = s.sigs := rfl
@[simp] theorem State.setPart_touched (s : State) (p : Nat) (x : Partition) : (s.setPart p x).touched = s.touched := rfl
@[simp] theorem State.setPart_groups (s : State) (p : Nat) (x : Partition) : (s.setPart p x).groups = s.groups := rfl
@[simp] theorem State.setPart_teams (s : State) (p : Nat) (x : Partition) : (s.setPart p x).teams = s.teams := rfl
@[simp] theorem State.setPart_grids (s : State) (p : Nat) (x : Partition) : (s.setPart p x).grids = s.grids := rfl
@[simp] theorem State.setPart_nextGrid (s : State) (p : Nat) (x : Partition) : (s.setPart p x).nextGrid = s.nextGrid := rfl
@[simp] theorem State.setPart_draws (s : State) (p : Nat) (x : Partition) : (s.setPart p x).draws = s.draws := rfl
@[simp] theorem State.setPart_tuns (s : State) (p : Nat) (x : Partition) : (s.setPart p x).tuns = s.tuns := rfl
@[simp] theorem State.setPart_casks (s : State) (p : Nat) (x : Partition) : (s.setPart p x).casks = s.casks := rfl
@[simp] theorem State.setPart_engines (s : State) (p : Nat) (x : Partition) : (s.setPart p x).engines = s.engines := rfl
@[simp] theorem State.setPart_packets (s : State) (p : Nat) (x : Partition) : (s.setPart p x).packets = s.packets := rfl
@[simp] theorem State.setPart_steeps (s : State) (p : Nat) (x : Partition) : (s.setPart p x).steeps = s.steeps := rfl
@[simp] theorem State.setPart_bindings (s : State) (p : Nat) (x : Partition) : (s.setPart p x).bindings = s.bindings := rfl
@[simp] theorem State.setPart_runs (s : State) (p : Nat) (x : Partition) : (s.setPart p x).runs = s.runs := rfl
@[simp] theorem State.setPart_saves (s : State) (p : Nat) (x : Partition) : (s.setPart p x).saves = s.saves := rfl
@[simp] theorem State.setPart_remotes (s : State) (p : Nat) (x : Partition) : (s.setPart p x).remotes = s.remotes := rfl
@[simp] theorem State.setPart_egress (s : State) (p : Nat) (x : Partition) : (s.setPart p x).egress = s.egress := rfl
@[simp] theorem State.setPart_redt (s : State) (p : Nat) (x : Partition) : (s.setPart p x).redt = s.redt := rfl
@[simp] theorem State.setPart_flushes (s : State) (p : Nat) (x : Partition) : (s.setPart p x).flushes = s.flushes := rfl
@[simp] theorem State.setPart_slotHits (s : State) (p : Nat) (x : Partition) : (s.setPart p x).slotHits = s.slotHits := rfl
@[simp] theorem State.setPart_kiln (s : State) (p : Nat) (x : Partition) : (s.setPart p x).kiln = s.kiln := rfl
@[simp] theorem State.setPart_ras (s : State) (p : Nat) (x : Partition) : (s.setPart p x).ras = s.ras := rfl
@[simp] theorem State.setPart_budgets (s : State) (p : Nat) (x : Partition) : (s.setPart p x).budgets = s.budgets := rfl
@[simp] theorem State.setPart_budgetBase (s : State) (p : Nat) (x : Partition) : (s.setPart p x).budgetBase = s.budgetBase := rfl
@[simp] theorem State.setPart_overAllowed (s : State) (p : Nat) (x : Partition) : (s.setPart p x).overAllowed = s.overAllowed := rfl
@[simp] theorem State.setPart_halved (s : State) (p : Nat) (x : Partition) : (s.setPart p x).halved = s.halved := rfl
@[simp] theorem State.setPart_dieClock (s : State) (p : Nat) (x : Partition) : (s.setPart p x).dieClock = s.dieClock := rfl
@[simp] theorem State.setPart_i3c (s : State) (p : Nat) (x : Partition) : (s.setPart p x).i3c = s.i3c := rfl
@[simp] theorem State.setPart_powerOff (s : State) (p : Nat) (x : Partition) : (s.setPart p x).powerOff = s.powerOff := rfl
@[simp] theorem State.setPart_monitors (s : State) (p : Nat) (x : Partition) : (s.setPart p x).monitors = s.monitors := rfl
@[simp] theorem State.setPart_limits (s : State) (p : Nat) (x : Partition) : (s.setPart p x).limits = s.limits := rfl
@[simp] theorem State.setPart_railOut (s : State) (p : Nat) (x : Partition) : (s.setPart p x).railOut = s.railOut := rfl

/-! ### fresh -/

@[simp] theorem State.fresh_clock (s : State) : s.fresh.2.clock = s.clock := rfl
@[simp] theorem State.fresh_agenda (s : State) : s.fresh.2.agenda = s.agenda := rfl
@[simp] theorem State.fresh_turns (s : State) : s.fresh.2.turns = s.turns := rfl
@[simp] theorem State.fresh_slow (s : State) : s.fresh.2.slow = s.slow := rfl
@[simp] theorem State.fresh_actor (s : State) : s.fresh.2.actor = s.actor := rfl
@[simp] theorem State.fresh_veils (s : State) : s.fresh.2.veils = s.veils := rfl
@[simp] theorem State.fresh_free (s : State) : s.fresh.2.free = s.free := rfl
@[simp] theorem State.fresh_boot (s : State) : s.fresh.2.boot = s.boot := rfl
@[simp] theorem State.fresh_rails (s : State) : s.fresh.2.rails = s.rails := rfl
@[simp] theorem State.fresh_firmware (s : State) : s.fresh.2.firmware = s.firmware := rfl
@[simp] theorem State.fresh_booted (s : State) : s.fresh.2.booted = s.booted := rfl
@[simp] theorem State.fresh_fusedMin (s : State) : s.fresh.2.fusedMin = s.fusedMin := rfl
@[simp] theorem State.fresh_devid (s : State) : s.fresh.2.devid = s.devid := rfl
@[simp] theorem State.fresh_remtmo (s : State) : s.fresh.2.remtmo = s.remtmo := rfl
@[simp] theorem State.fresh_hbm (s : State) : s.fresh.2.hbm = s.hbm := rfl
@[simp] theorem State.fresh_scratch (s : State) : s.fresh.2.scratch = s.scratch := rfl
@[simp] theorem State.fresh_dieScratch (s : State) : s.fresh.2.dieScratch = s.dieScratch := rfl
@[simp] theorem State.fresh_acc (s : State) : s.fresh.2.acc = s.acc := rfl
@[simp] theorem State.fresh_poison (s : State) : s.fresh.2.poison = s.poison := rfl
@[simp] theorem State.fresh_halves (s : State) : s.fresh.2.halves = s.halves := rfl
@[simp] theorem State.fresh_caches (s : State) : s.fresh.2.caches = s.caches := rfl
@[simp] theorem State.fresh_tlb (s : State) : s.fresh.2.tlb = s.tlb := rfl
@[simp] theorem State.fresh_sigs (s : State) : s.fresh.2.sigs = s.sigs := rfl
@[simp] theorem State.fresh_touched (s : State) : s.fresh.2.touched = s.touched := rfl
@[simp] theorem State.fresh_groups (s : State) : s.fresh.2.groups = s.groups := rfl
@[simp] theorem State.fresh_teams (s : State) : s.fresh.2.teams = s.teams := rfl
@[simp] theorem State.fresh_grids (s : State) : s.fresh.2.grids = s.grids := rfl
@[simp] theorem State.fresh_nextGrid (s : State) : s.fresh.2.nextGrid = s.nextGrid := rfl
@[simp] theorem State.fresh_draws (s : State) : s.fresh.2.draws = s.draws := rfl
@[simp] theorem State.fresh_tuns (s : State) : s.fresh.2.tuns = s.tuns := rfl
@[simp] theorem State.fresh_casks (s : State) : s.fresh.2.casks = s.casks := rfl
@[simp] theorem State.fresh_engines (s : State) : s.fresh.2.engines = s.engines := rfl
@[simp] theorem State.fresh_parts (s : State) : s.fresh.2.parts = s.parts := rfl
@[simp] theorem State.fresh_packets (s : State) : s.fresh.2.packets = s.packets := rfl
@[simp] theorem State.fresh_steeps (s : State) : s.fresh.2.steeps = s.steeps := rfl
@[simp] theorem State.fresh_bindings (s : State) : s.fresh.2.bindings = s.bindings := rfl
@[simp] theorem State.fresh_runs (s : State) : s.fresh.2.runs = s.runs := rfl
@[simp] theorem State.fresh_saves (s : State) : s.fresh.2.saves = s.saves := rfl
@[simp] theorem State.fresh_remotes (s : State) : s.fresh.2.remotes = s.remotes := rfl
@[simp] theorem State.fresh_egress (s : State) : s.fresh.2.egress = s.egress := rfl
@[simp] theorem State.fresh_redt (s : State) : s.fresh.2.redt = s.redt := rfl
@[simp] theorem State.fresh_flushes (s : State) : s.fresh.2.flushes = s.flushes := rfl
@[simp] theorem State.fresh_slotHits (s : State) : s.fresh.2.slotHits = s.slotHits := rfl
@[simp] theorem State.fresh_kiln (s : State) : s.fresh.2.kiln = s.kiln := rfl
@[simp] theorem State.fresh_ras (s : State) : s.fresh.2.ras = s.ras := rfl
@[simp] theorem State.fresh_budgets (s : State) : s.fresh.2.budgets = s.budgets := rfl
@[simp] theorem State.fresh_budgetBase (s : State) : s.fresh.2.budgetBase = s.budgetBase := rfl
@[simp] theorem State.fresh_overAllowed (s : State) : s.fresh.2.overAllowed = s.overAllowed := rfl
@[simp] theorem State.fresh_halved (s : State) : s.fresh.2.halved = s.halved := rfl
@[simp] theorem State.fresh_dieClock (s : State) : s.fresh.2.dieClock = s.dieClock := rfl
@[simp] theorem State.fresh_i3c (s : State) : s.fresh.2.i3c = s.i3c := rfl
@[simp] theorem State.fresh_powerOff (s : State) : s.fresh.2.powerOff = s.powerOff := rfl
@[simp] theorem State.fresh_monitors (s : State) : s.fresh.2.monitors = s.monitors := rfl
@[simp] theorem State.fresh_limits (s : State) : s.fresh.2.limits = s.limits := rfl
@[simp] theorem State.fresh_railOut (s : State) : s.fresh.2.railOut = s.railOut := rfl

/-! ### takeFree -/

@[simp] theorem State.takeFree_clock (s : State) : s.takeFree.2.clock = s.clock := rfl
@[simp] theorem State.takeFree_agenda (s : State) : s.takeFree.2.agenda = s.agenda := rfl
@[simp] theorem State.takeFree_turns (s : State) : s.takeFree.2.turns = s.turns := rfl
@[simp] theorem State.takeFree_slow (s : State) : s.takeFree.2.slow = s.slow := rfl
@[simp] theorem State.takeFree_actor (s : State) : s.takeFree.2.actor = s.actor := rfl
@[simp] theorem State.takeFree_veils (s : State) : s.takeFree.2.veils = s.veils := rfl
@[simp] theorem State.takeFree_uid (s : State) : s.takeFree.2.uid = s.uid := rfl
@[simp] theorem State.takeFree_boot (s : State) : s.takeFree.2.boot = s.boot := rfl
@[simp] theorem State.takeFree_rails (s : State) : s.takeFree.2.rails = s.rails := rfl
@[simp] theorem State.takeFree_firmware (s : State) : s.takeFree.2.firmware = s.firmware := rfl
@[simp] theorem State.takeFree_booted (s : State) : s.takeFree.2.booted = s.booted := rfl
@[simp] theorem State.takeFree_fusedMin (s : State) : s.takeFree.2.fusedMin = s.fusedMin := rfl
@[simp] theorem State.takeFree_devid (s : State) : s.takeFree.2.devid = s.devid := rfl
@[simp] theorem State.takeFree_remtmo (s : State) : s.takeFree.2.remtmo = s.remtmo := rfl
@[simp] theorem State.takeFree_hbm (s : State) : s.takeFree.2.hbm = s.hbm := rfl
@[simp] theorem State.takeFree_scratch (s : State) : s.takeFree.2.scratch = s.scratch := rfl
@[simp] theorem State.takeFree_dieScratch (s : State) : s.takeFree.2.dieScratch = s.dieScratch := rfl
@[simp] theorem State.takeFree_acc (s : State) : s.takeFree.2.acc = s.acc := rfl
@[simp] theorem State.takeFree_poison (s : State) : s.takeFree.2.poison = s.poison := rfl
@[simp] theorem State.takeFree_halves (s : State) : s.takeFree.2.halves = s.halves := rfl
@[simp] theorem State.takeFree_caches (s : State) : s.takeFree.2.caches = s.caches := rfl
@[simp] theorem State.takeFree_tlb (s : State) : s.takeFree.2.tlb = s.tlb := rfl
@[simp] theorem State.takeFree_sigs (s : State) : s.takeFree.2.sigs = s.sigs := rfl
@[simp] theorem State.takeFree_touched (s : State) : s.takeFree.2.touched = s.touched := rfl
@[simp] theorem State.takeFree_groups (s : State) : s.takeFree.2.groups = s.groups := rfl
@[simp] theorem State.takeFree_teams (s : State) : s.takeFree.2.teams = s.teams := rfl
@[simp] theorem State.takeFree_grids (s : State) : s.takeFree.2.grids = s.grids := rfl
@[simp] theorem State.takeFree_nextGrid (s : State) : s.takeFree.2.nextGrid = s.nextGrid := rfl
@[simp] theorem State.takeFree_draws (s : State) : s.takeFree.2.draws = s.draws := rfl
@[simp] theorem State.takeFree_tuns (s : State) : s.takeFree.2.tuns = s.tuns := rfl
@[simp] theorem State.takeFree_casks (s : State) : s.takeFree.2.casks = s.casks := rfl
@[simp] theorem State.takeFree_engines (s : State) : s.takeFree.2.engines = s.engines := rfl
@[simp] theorem State.takeFree_parts (s : State) : s.takeFree.2.parts = s.parts := rfl
@[simp] theorem State.takeFree_packets (s : State) : s.takeFree.2.packets = s.packets := rfl
@[simp] theorem State.takeFree_steeps (s : State) : s.takeFree.2.steeps = s.steeps := rfl
@[simp] theorem State.takeFree_bindings (s : State) : s.takeFree.2.bindings = s.bindings := rfl
@[simp] theorem State.takeFree_runs (s : State) : s.takeFree.2.runs = s.runs := rfl
@[simp] theorem State.takeFree_saves (s : State) : s.takeFree.2.saves = s.saves := rfl
@[simp] theorem State.takeFree_remotes (s : State) : s.takeFree.2.remotes = s.remotes := rfl
@[simp] theorem State.takeFree_egress (s : State) : s.takeFree.2.egress = s.egress := rfl
@[simp] theorem State.takeFree_redt (s : State) : s.takeFree.2.redt = s.redt := rfl
@[simp] theorem State.takeFree_flushes (s : State) : s.takeFree.2.flushes = s.flushes := rfl
@[simp] theorem State.takeFree_slotHits (s : State) : s.takeFree.2.slotHits = s.slotHits := rfl
@[simp] theorem State.takeFree_kiln (s : State) : s.takeFree.2.kiln = s.kiln := rfl
@[simp] theorem State.takeFree_ras (s : State) : s.takeFree.2.ras = s.ras := rfl
@[simp] theorem State.takeFree_budgets (s : State) : s.takeFree.2.budgets = s.budgets := rfl
@[simp] theorem State.takeFree_budgetBase (s : State) : s.takeFree.2.budgetBase = s.budgetBase := rfl
@[simp] theorem State.takeFree_overAllowed (s : State) : s.takeFree.2.overAllowed = s.overAllowed := rfl
@[simp] theorem State.takeFree_halved (s : State) : s.takeFree.2.halved = s.halved := rfl
@[simp] theorem State.takeFree_dieClock (s : State) : s.takeFree.2.dieClock = s.dieClock := rfl
@[simp] theorem State.takeFree_i3c (s : State) : s.takeFree.2.i3c = s.i3c := rfl
@[simp] theorem State.takeFree_powerOff (s : State) : s.takeFree.2.powerOff = s.powerOff := rfl
@[simp] theorem State.takeFree_monitors (s : State) : s.takeFree.2.monitors = s.monitors := rfl
@[simp] theorem State.takeFree_limits (s : State) : s.takeFree.2.limits = s.limits := rfl
@[simp] theorem State.takeFree_railOut (s : State) : s.takeFree.2.railOut = s.railOut := rfl

/-! ### homeWrite -/

@[simp] theorem homeWrite_clock (s : State) (a n v : Nat) : (homeWrite s a n v).clock = s.clock := rfl
@[simp] theorem homeWrite_agenda (s : State) (a n v : Nat) : (homeWrite s a n v).agenda = s.agenda := rfl
@[simp] theorem homeWrite_turns (s : State) (a n v : Nat) : (homeWrite s a n v).turns = s.turns := rfl
@[simp] theorem homeWrite_slow (s : State) (a n v : Nat) : (homeWrite s a n v).slow = s.slow := rfl
@[simp] theorem homeWrite_actor (s : State) (a n v : Nat) : (homeWrite s a n v).actor = s.actor := rfl
@[simp] theorem homeWrite_veils (s : State) (a n v : Nat) : (homeWrite s a n v).veils = s.veils := rfl
@[simp] theorem homeWrite_free (s : State) (a n v : Nat) : (homeWrite s a n v).free = s.free := rfl
@[simp] theorem homeWrite_uid (s : State) (a n v : Nat) : (homeWrite s a n v).uid = s.uid := rfl
@[simp] theorem homeWrite_boot (s : State) (a n v : Nat) : (homeWrite s a n v).boot = s.boot := rfl
@[simp] theorem homeWrite_rails (s : State) (a n v : Nat) : (homeWrite s a n v).rails = s.rails := rfl
@[simp] theorem homeWrite_firmware (s : State) (a n v : Nat) : (homeWrite s a n v).firmware = s.firmware := rfl
@[simp] theorem homeWrite_booted (s : State) (a n v : Nat) : (homeWrite s a n v).booted = s.booted := rfl
@[simp] theorem homeWrite_fusedMin (s : State) (a n v : Nat) : (homeWrite s a n v).fusedMin = s.fusedMin := rfl
@[simp] theorem homeWrite_devid (s : State) (a n v : Nat) : (homeWrite s a n v).devid = s.devid := rfl
@[simp] theorem homeWrite_remtmo (s : State) (a n v : Nat) : (homeWrite s a n v).remtmo = s.remtmo := rfl
@[simp] theorem homeWrite_scratch (s : State) (a n v : Nat) : (homeWrite s a n v).scratch = s.scratch := rfl
@[simp] theorem homeWrite_dieScratch (s : State) (a n v : Nat) : (homeWrite s a n v).dieScratch = s.dieScratch := rfl
@[simp] theorem homeWrite_acc (s : State) (a n v : Nat) : (homeWrite s a n v).acc = s.acc := rfl
@[simp] theorem homeWrite_poison (s : State) (a n v : Nat) : (homeWrite s a n v).poison = s.poison := rfl
@[simp] theorem homeWrite_halves (s : State) (a n v : Nat) : (homeWrite s a n v).halves = s.halves := rfl
@[simp] theorem homeWrite_caches (s : State) (a n v : Nat) : (homeWrite s a n v).caches = s.caches := rfl
@[simp] theorem homeWrite_tlb (s : State) (a n v : Nat) : (homeWrite s a n v).tlb = s.tlb := rfl
@[simp] theorem homeWrite_sigs (s : State) (a n v : Nat) : (homeWrite s a n v).sigs = s.sigs := rfl
@[simp] theorem homeWrite_touched (s : State) (a n v : Nat) : (homeWrite s a n v).touched = s.touched := rfl
@[simp] theorem homeWrite_groups (s : State) (a n v : Nat) : (homeWrite s a n v).groups = s.groups := rfl
@[simp] theorem homeWrite_teams (s : State) (a n v : Nat) : (homeWrite s a n v).teams = s.teams := rfl
@[simp] theorem homeWrite_grids (s : State) (a n v : Nat) : (homeWrite s a n v).grids = s.grids := rfl
@[simp] theorem homeWrite_nextGrid (s : State) (a n v : Nat) : (homeWrite s a n v).nextGrid = s.nextGrid := rfl
@[simp] theorem homeWrite_draws (s : State) (a n v : Nat) : (homeWrite s a n v).draws = s.draws := rfl
@[simp] theorem homeWrite_tuns (s : State) (a n v : Nat) : (homeWrite s a n v).tuns = s.tuns := rfl
@[simp] theorem homeWrite_casks (s : State) (a n v : Nat) : (homeWrite s a n v).casks = s.casks := rfl
@[simp] theorem homeWrite_engines (s : State) (a n v : Nat) : (homeWrite s a n v).engines = s.engines := rfl
@[simp] theorem homeWrite_parts (s : State) (a n v : Nat) : (homeWrite s a n v).parts = s.parts := rfl
@[simp] theorem homeWrite_packets (s : State) (a n v : Nat) : (homeWrite s a n v).packets = s.packets := rfl
@[simp] theorem homeWrite_steeps (s : State) (a n v : Nat) : (homeWrite s a n v).steeps = s.steeps := rfl
@[simp] theorem homeWrite_bindings (s : State) (a n v : Nat) : (homeWrite s a n v).bindings = s.bindings := rfl
@[simp] theorem homeWrite_runs (s : State) (a n v : Nat) : (homeWrite s a n v).runs = s.runs := rfl
@[simp] theorem homeWrite_saves (s : State) (a n v : Nat) : (homeWrite s a n v).saves = s.saves := rfl
@[simp] theorem homeWrite_remotes (s : State) (a n v : Nat) : (homeWrite s a n v).remotes = s.remotes := rfl
@[simp] theorem homeWrite_egress (s : State) (a n v : Nat) : (homeWrite s a n v).egress = s.egress := rfl
@[simp] theorem homeWrite_redt (s : State) (a n v : Nat) : (homeWrite s a n v).redt = s.redt := rfl
@[simp] theorem homeWrite_flushes (s : State) (a n v : Nat) : (homeWrite s a n v).flushes = s.flushes := rfl
@[simp] theorem homeWrite_slotHits (s : State) (a n v : Nat) : (homeWrite s a n v).slotHits = s.slotHits := rfl
@[simp] theorem homeWrite_kiln (s : State) (a n v : Nat) : (homeWrite s a n v).kiln = s.kiln := rfl
@[simp] theorem homeWrite_ras (s : State) (a n v : Nat) : (homeWrite s a n v).ras = s.ras := rfl
@[simp] theorem homeWrite_budgets (s : State) (a n v : Nat) : (homeWrite s a n v).budgets = s.budgets := rfl
@[simp] theorem homeWrite_budgetBase (s : State) (a n v : Nat) : (homeWrite s a n v).budgetBase = s.budgetBase := rfl
@[simp] theorem homeWrite_overAllowed (s : State) (a n v : Nat) : (homeWrite s a n v).overAllowed = s.overAllowed := rfl
@[simp] theorem homeWrite_halved (s : State) (a n v : Nat) : (homeWrite s a n v).halved = s.halved := rfl
@[simp] theorem homeWrite_dieClock (s : State) (a n v : Nat) : (homeWrite s a n v).dieClock = s.dieClock := rfl
@[simp] theorem homeWrite_i3c (s : State) (a n v : Nat) : (homeWrite s a n v).i3c = s.i3c := rfl
@[simp] theorem homeWrite_powerOff (s : State) (a n v : Nat) : (homeWrite s a n v).powerOff = s.powerOff := rfl
@[simp] theorem homeWrite_monitors (s : State) (a n v : Nat) : (homeWrite s a n v).monitors = s.monitors := rfl
@[simp] theorem homeWrite_limits (s : State) (a n v : Nat) : (homeWrite s a n v).limits = s.limits := rfl
@[simp] theorem homeWrite_railOut (s : State) (a n v : Nat) : (homeWrite s a n v).railOut = s.railOut := rfl

/-! ### Group.setSplit -/

@[simp] theorem Group.setSplit_uid (g : Group) (x : Split) : (g.setSplit x).uid = g.uid := rfl
@[simp] theorem Group.setSplit_grid (g : Group) (x : Split) : (g.setSplit x).grid = g.grid := rfl
@[simp] theorem Group.setSplit_team (g : Group) (x : Split) : (g.setSplit x).team = g.team := rfl
@[simp] theorem Group.setSplit_groupid (g : Group) (x : Split) : (g.setSplit x).groupid = g.groupid := rfl
@[simp] theorem Group.setSplit_core (g : Group) (x : Split) : (g.setSplit x).core = g.core := rfl
@[simp] theorem Group.setSplit_entry (g : Group) (x : Split) : (g.setSplit x).entry = g.entry := rfl
@[simp] theorem Group.setSplit_width (g : Group) (x : Split) : (g.setSplit x).width = g.width := rfl
@[simp] theorem Group.setSplit_vregs (g : Group) (x : Split) : (g.setSplit x).vregs = g.vregs := rfl
@[simp] theorem Group.setSplit_lanes (g : Group) (x : Split) : (g.setSplit x).lanes = g.lanes := rfl
@[simp] theorem Group.setSplit_s (g : Group) (x : Split) : (g.setSplit x).s = g.s := rfl
@[simp] theorem Group.setSplit_k (g : Group) (x : Split) : (g.setSplit x).k = g.k := rfl
@[simp] theorem Group.setSplit_timecmp (g : Group) (x : Split) : (g.setSplit x).timecmp = g.timecmp := rfl
@[simp] theorem Group.setSplit_utvec (g : Group) (x : Split) : (g.setSplit x).utvec = g.utvec := rfl
@[simp] theorem Group.setSplit_utcause (g : Group) (x : Split) : (g.setSplit x).utcause = g.utcause := rfl
@[simp] theorem Group.setSplit_utepc (g : Group) (x : Split) : (g.setSplit x).utepc = g.utepc := rfl
@[simp] theorem Group.setSplit_faultmask (g : Group) (x : Split) : (g.setSplit x).faultmask = g.faultmask := rfl
@[simp] theorem Group.setSplit_faultaddr (g : Group) (x : Split) : (g.setSplit x).faultaddr = g.faultaddr := rfl
@[simp] theorem Group.setSplit_kernarg (g : Group) (x : Split) : (g.setSplit x).kernarg = g.kernarg := rfl
@[simp] theorem Group.setSplit_scbase (g : Group) (x : Split) : (g.setSplit x).scbase = g.scbase := rfl
@[simp] theorem Group.setSplit_scshift (g : Group) (x : Split) : (g.setSplit x).scshift = g.scshift := rfl
@[simp] theorem Group.setSplit_wkey (g : Group) (x : Split) : (g.setSplit x).wkey = g.wkey := rfl
@[simp] theorem Group.setSplit_stvec (g : Group) (x : Split) : (g.setSplit x).stvec = g.stvec := rfl
@[simp] theorem Group.setSplit_scause (g : Group) (x : Split) : (g.setSplit x).scause = g.scause := rfl
@[simp] theorem Group.setSplit_sepc (g : Group) (x : Split) : (g.setSplit x).sepc = g.sepc := rfl
@[simp] theorem Group.setSplit_sstatus (g : Group) (x : Split) : (g.setSplit x).sstatus = g.sstatus := rfl
@[simp] theorem Group.setSplit_ptroot (g : Group) (x : Split) : (g.setSplit x).ptroot = g.ptroot := rfl
@[simp] theorem Group.setSplit_asid (g : Group) (x : Split) : (g.setSplit x).asid = g.asid := rfl
@[simp] theorem Group.setSplit_partid (g : Group) (x : Split) : (g.setSplit x).partid = g.partid := rfl
@[simp] theorem Group.setSplit_sscratch (g : Group) (x : Split) : (g.setSplit x).sscratch = g.sscratch := rfl
@[simp] theorem Group.setSplit_lxrbase (g : Group) (x : Split) : (g.setSplit x).lxrbase = g.lxrbase := rfl
@[simp] theorem Group.setSplit_nextAge (g : Group) (x : Split) : (g.setSplit x).nextAge = g.nextAge := rfl
@[simp] theorem Group.setSplit_flights (g : Group) (x : Split) : (g.setSplit x).flights = g.flights := rfl
@[simp] theorem Group.setSplit_gstate (g : Group) (x : Split) : (g.setSplit x).gstate = g.gstate := rfl
@[simp] theorem Group.setSplit_slot (g : Group) (x : Split) : (g.setSplit x).slot = g.slot := rfl
@[simp] theorem Group.setSplit_image (g : Group) (x : Split) : (g.setSplit x).image = g.image := rfl
@[simp] theorem Group.setSplit_tampered (g : Group) (x : Split) : (g.setSplit x).tampered = g.tampered := rfl
@[simp] theorem Group.setSplit_uframe (g : Group) (x : Split) : (g.setSplit x).uframe = g.uframe := rfl
@[simp] theorem Group.setSplit_sframe (g : Group) (x : Split) : (g.setSplit x).sframe = g.sframe := rfl
@[simp] theorem Group.setSplit_lxfaults (g : Group) (x : Split) : (g.setSplit x).lxfaults = g.lxfaults := rfl
@[simp] theorem Group.setSplit_lxHand (g : Group) (x : Split) : (g.setSplit x).lxHand = g.lxHand := rfl
@[simp] theorem Group.setSplit_escalatedSplit (g : Group) (x : Split) : (g.setSplit x).escalatedSplit = g.escalatedSplit := rfl
@[simp] theorem Group.setSplit_instOp (g : Group) (x : Split) : (g.setSplit x).instOp = g.instOp := rfl
@[simp] theorem Group.setSplit_instTun (g : Group) (x : Split) : (g.setSplit x).instTun = g.instTun := rfl
@[simp] theorem Group.setSplit_instStatus (g : Group) (x : Split) : (g.setSplit x).instStatus = g.instStatus := rfl
@[simp] theorem Group.setSplit_instAddr (g : Group) (x : Split) : (g.setSplit x).instAddr = g.instAddr := rfl
@[simp] theorem Group.setSplit_lauSig (g : Group) (x : Split) : (g.setSplit x).lauSig = g.lauSig := rfl
@[simp] theorem Group.setSplit_regTags (g : Group) (x : Split) : (g.setSplit x).regTags = g.regTags := rfl

/-! ### Group.setS -/

@[simp] theorem Group.setS_uid (g : Group) (n : Nat) (v : DWord) : (g.setS n v).uid = g.uid := by unfold Group.setS; split <;> rfl
@[simp] theorem Group.setS_grid (g : Group) (n : Nat) (v : DWord) : (g.setS n v).grid = g.grid := by unfold Group.setS; split <;> rfl
@[simp] theorem Group.setS_team (g : Group) (n : Nat) (v : DWord) : (g.setS n v).team = g.team := by unfold Group.setS; split <;> rfl
@[simp] theorem Group.setS_groupid (g : Group) (n : Nat) (v : DWord) : (g.setS n v).groupid = g.groupid := by unfold Group.setS; split <;> rfl
@[simp] theorem Group.setS_core (g : Group) (n : Nat) (v : DWord) : (g.setS n v).core = g.core := by unfold Group.setS; split <;> rfl
@[simp] theorem Group.setS_entry (g : Group) (n : Nat) (v : DWord) : (g.setS n v).entry = g.entry := by unfold Group.setS; split <;> rfl
@[simp] theorem Group.setS_width (g : Group) (n : Nat) (v : DWord) : (g.setS n v).width = g.width := by unfold Group.setS; split <;> rfl
@[simp] theorem Group.setS_vregs (g : Group) (n : Nat) (v : DWord) : (g.setS n v).vregs = g.vregs := by unfold Group.setS; split <;> rfl
@[simp] theorem Group.setS_lanes (g : Group) (n : Nat) (v : DWord) : (g.setS n v).lanes = g.lanes := by unfold Group.setS; split <;> rfl
@[simp] theorem Group.setS_k (g : Group) (n : Nat) (v : DWord) : (g.setS n v).k = g.k := by unfold Group.setS; split <;> rfl
@[simp] theorem Group.setS_timecmp (g : Group) (n : Nat) (v : DWord) : (g.setS n v).timecmp = g.timecmp := by unfold Group.setS; split <;> rfl
@[simp] theorem Group.setS_utvec (g : Group) (n : Nat) (v : DWord) : (g.setS n v).utvec = g.utvec := by unfold Group.setS; split <;> rfl
@[simp] theorem Group.setS_utcause (g : Group) (n : Nat) (v : DWord) : (g.setS n v).utcause = g.utcause := by unfold Group.setS; split <;> rfl
@[simp] theorem Group.setS_utepc (g : Group) (n : Nat) (v : DWord) : (g.setS n v).utepc = g.utepc := by unfold Group.setS; split <;> rfl
@[simp] theorem Group.setS_faultmask (g : Group) (n : Nat) (v : DWord) : (g.setS n v).faultmask = g.faultmask := by unfold Group.setS; split <;> rfl
@[simp] theorem Group.setS_faultaddr (g : Group) (n : Nat) (v : DWord) : (g.setS n v).faultaddr = g.faultaddr := by unfold Group.setS; split <;> rfl
@[simp] theorem Group.setS_kernarg (g : Group) (n : Nat) (v : DWord) : (g.setS n v).kernarg = g.kernarg := by unfold Group.setS; split <;> rfl
@[simp] theorem Group.setS_scbase (g : Group) (n : Nat) (v : DWord) : (g.setS n v).scbase = g.scbase := by unfold Group.setS; split <;> rfl
@[simp] theorem Group.setS_scshift (g : Group) (n : Nat) (v : DWord) : (g.setS n v).scshift = g.scshift := by unfold Group.setS; split <;> rfl
@[simp] theorem Group.setS_wkey (g : Group) (n : Nat) (v : DWord) : (g.setS n v).wkey = g.wkey := by unfold Group.setS; split <;> rfl
@[simp] theorem Group.setS_stvec (g : Group) (n : Nat) (v : DWord) : (g.setS n v).stvec = g.stvec := by unfold Group.setS; split <;> rfl
@[simp] theorem Group.setS_scause (g : Group) (n : Nat) (v : DWord) : (g.setS n v).scause = g.scause := by unfold Group.setS; split <;> rfl
@[simp] theorem Group.setS_sepc (g : Group) (n : Nat) (v : DWord) : (g.setS n v).sepc = g.sepc := by unfold Group.setS; split <;> rfl
@[simp] theorem Group.setS_sstatus (g : Group) (n : Nat) (v : DWord) : (g.setS n v).sstatus = g.sstatus := by unfold Group.setS; split <;> rfl
@[simp] theorem Group.setS_ptroot (g : Group) (n : Nat) (v : DWord) : (g.setS n v).ptroot = g.ptroot := by unfold Group.setS; split <;> rfl
@[simp] theorem Group.setS_asid (g : Group) (n : Nat) (v : DWord) : (g.setS n v).asid = g.asid := by unfold Group.setS; split <;> rfl
@[simp] theorem Group.setS_partid (g : Group) (n : Nat) (v : DWord) : (g.setS n v).partid = g.partid := by unfold Group.setS; split <;> rfl
@[simp] theorem Group.setS_sscratch (g : Group) (n : Nat) (v : DWord) : (g.setS n v).sscratch = g.sscratch := by unfold Group.setS; split <;> rfl
@[simp] theorem Group.setS_lxrbase (g : Group) (n : Nat) (v : DWord) : (g.setS n v).lxrbase = g.lxrbase := by unfold Group.setS; split <;> rfl
@[simp] theorem Group.setS_splits (g : Group) (n : Nat) (v : DWord) : (g.setS n v).splits = g.splits := by unfold Group.setS; split <;> rfl
@[simp] theorem Group.setS_nextAge (g : Group) (n : Nat) (v : DWord) : (g.setS n v).nextAge = g.nextAge := by unfold Group.setS; split <;> rfl
@[simp] theorem Group.setS_flights (g : Group) (n : Nat) (v : DWord) : (g.setS n v).flights = g.flights := by unfold Group.setS; split <;> rfl
@[simp] theorem Group.setS_gstate (g : Group) (n : Nat) (v : DWord) : (g.setS n v).gstate = g.gstate := by unfold Group.setS; split <;> rfl
@[simp] theorem Group.setS_slot (g : Group) (n : Nat) (v : DWord) : (g.setS n v).slot = g.slot := by unfold Group.setS; split <;> rfl
@[simp] theorem Group.setS_image (g : Group) (n : Nat) (v : DWord) : (g.setS n v).image = g.image := by unfold Group.setS; split <;> rfl
@[simp] theorem Group.setS_tampered (g : Group) (n : Nat) (v : DWord) : (g.setS n v).tampered = g.tampered := by unfold Group.setS; split <;> rfl
@[simp] theorem Group.setS_uframe (g : Group) (n : Nat) (v : DWord) : (g.setS n v).uframe = g.uframe := by unfold Group.setS; split <;> rfl
@[simp] theorem Group.setS_sframe (g : Group) (n : Nat) (v : DWord) : (g.setS n v).sframe = g.sframe := by unfold Group.setS; split <;> rfl
@[simp] theorem Group.setS_lxfaults (g : Group) (n : Nat) (v : DWord) : (g.setS n v).lxfaults = g.lxfaults := by unfold Group.setS; split <;> rfl
@[simp] theorem Group.setS_lxHand (g : Group) (n : Nat) (v : DWord) : (g.setS n v).lxHand = g.lxHand := by unfold Group.setS; split <;> rfl
@[simp] theorem Group.setS_escalatedSplit (g : Group) (n : Nat) (v : DWord) : (g.setS n v).escalatedSplit = g.escalatedSplit := by unfold Group.setS; split <;> rfl
@[simp] theorem Group.setS_instOp (g : Group) (n : Nat) (v : DWord) : (g.setS n v).instOp = g.instOp := by unfold Group.setS; split <;> rfl
@[simp] theorem Group.setS_instTun (g : Group) (n : Nat) (v : DWord) : (g.setS n v).instTun = g.instTun := by unfold Group.setS; split <;> rfl
@[simp] theorem Group.setS_instStatus (g : Group) (n : Nat) (v : DWord) : (g.setS n v).instStatus = g.instStatus := by unfold Group.setS; split <;> rfl
@[simp] theorem Group.setS_instAddr (g : Group) (n : Nat) (v : DWord) : (g.setS n v).instAddr = g.instAddr := by unfold Group.setS; split <;> rfl
@[simp] theorem Group.setS_lauSig (g : Group) (n : Nat) (v : DWord) : (g.setS n v).lauSig = g.lauSig := by unfold Group.setS; split <;> rfl
@[simp] theorem Group.setS_regTags (g : Group) (n : Nat) (v : DWord) : (g.setS n v).regTags = g.regTags := by unfold Group.setS; split <;> rfl

/-! ### Group.setK -/

@[simp] theorem Group.setK_uid (g : Group) (n : Nat) (v : Bool) : (g.setK n v).uid = g.uid := by unfold Group.setK; split <;> rfl
@[simp] theorem Group.setK_grid (g : Group) (n : Nat) (v : Bool) : (g.setK n v).grid = g.grid := by unfold Group.setK; split <;> rfl
@[simp] theorem Group.setK_team (g : Group) (n : Nat) (v : Bool) : (g.setK n v).team = g.team := by unfold Group.setK; split <;> rfl
@[simp] theorem Group.setK_groupid (g : Group) (n : Nat) (v : Bool) : (g.setK n v).groupid = g.groupid := by unfold Group.setK; split <;> rfl
@[simp] theorem Group.setK_core (g : Group) (n : Nat) (v : Bool) : (g.setK n v).core = g.core := by unfold Group.setK; split <;> rfl
@[simp] theorem Group.setK_entry (g : Group) (n : Nat) (v : Bool) : (g.setK n v).entry = g.entry := by unfold Group.setK; split <;> rfl
@[simp] theorem Group.setK_width (g : Group) (n : Nat) (v : Bool) : (g.setK n v).width = g.width := by unfold Group.setK; split <;> rfl
@[simp] theorem Group.setK_vregs (g : Group) (n : Nat) (v : Bool) : (g.setK n v).vregs = g.vregs := by unfold Group.setK; split <;> rfl
@[simp] theorem Group.setK_lanes (g : Group) (n : Nat) (v : Bool) : (g.setK n v).lanes = g.lanes := by unfold Group.setK; split <;> rfl
@[simp] theorem Group.setK_s (g : Group) (n : Nat) (v : Bool) : (g.setK n v).s = g.s := by unfold Group.setK; split <;> rfl
@[simp] theorem Group.setK_timecmp (g : Group) (n : Nat) (v : Bool) : (g.setK n v).timecmp = g.timecmp := by unfold Group.setK; split <;> rfl
@[simp] theorem Group.setK_utvec (g : Group) (n : Nat) (v : Bool) : (g.setK n v).utvec = g.utvec := by unfold Group.setK; split <;> rfl
@[simp] theorem Group.setK_utcause (g : Group) (n : Nat) (v : Bool) : (g.setK n v).utcause = g.utcause := by unfold Group.setK; split <;> rfl
@[simp] theorem Group.setK_utepc (g : Group) (n : Nat) (v : Bool) : (g.setK n v).utepc = g.utepc := by unfold Group.setK; split <;> rfl
@[simp] theorem Group.setK_faultmask (g : Group) (n : Nat) (v : Bool) : (g.setK n v).faultmask = g.faultmask := by unfold Group.setK; split <;> rfl
@[simp] theorem Group.setK_faultaddr (g : Group) (n : Nat) (v : Bool) : (g.setK n v).faultaddr = g.faultaddr := by unfold Group.setK; split <;> rfl
@[simp] theorem Group.setK_kernarg (g : Group) (n : Nat) (v : Bool) : (g.setK n v).kernarg = g.kernarg := by unfold Group.setK; split <;> rfl
@[simp] theorem Group.setK_scbase (g : Group) (n : Nat) (v : Bool) : (g.setK n v).scbase = g.scbase := by unfold Group.setK; split <;> rfl
@[simp] theorem Group.setK_scshift (g : Group) (n : Nat) (v : Bool) : (g.setK n v).scshift = g.scshift := by unfold Group.setK; split <;> rfl
@[simp] theorem Group.setK_wkey (g : Group) (n : Nat) (v : Bool) : (g.setK n v).wkey = g.wkey := by unfold Group.setK; split <;> rfl
@[simp] theorem Group.setK_stvec (g : Group) (n : Nat) (v : Bool) : (g.setK n v).stvec = g.stvec := by unfold Group.setK; split <;> rfl
@[simp] theorem Group.setK_scause (g : Group) (n : Nat) (v : Bool) : (g.setK n v).scause = g.scause := by unfold Group.setK; split <;> rfl
@[simp] theorem Group.setK_sepc (g : Group) (n : Nat) (v : Bool) : (g.setK n v).sepc = g.sepc := by unfold Group.setK; split <;> rfl
@[simp] theorem Group.setK_sstatus (g : Group) (n : Nat) (v : Bool) : (g.setK n v).sstatus = g.sstatus := by unfold Group.setK; split <;> rfl
@[simp] theorem Group.setK_ptroot (g : Group) (n : Nat) (v : Bool) : (g.setK n v).ptroot = g.ptroot := by unfold Group.setK; split <;> rfl
@[simp] theorem Group.setK_asid (g : Group) (n : Nat) (v : Bool) : (g.setK n v).asid = g.asid := by unfold Group.setK; split <;> rfl
@[simp] theorem Group.setK_partid (g : Group) (n : Nat) (v : Bool) : (g.setK n v).partid = g.partid := by unfold Group.setK; split <;> rfl
@[simp] theorem Group.setK_sscratch (g : Group) (n : Nat) (v : Bool) : (g.setK n v).sscratch = g.sscratch := by unfold Group.setK; split <;> rfl
@[simp] theorem Group.setK_lxrbase (g : Group) (n : Nat) (v : Bool) : (g.setK n v).lxrbase = g.lxrbase := by unfold Group.setK; split <;> rfl
@[simp] theorem Group.setK_splits (g : Group) (n : Nat) (v : Bool) : (g.setK n v).splits = g.splits := by unfold Group.setK; split <;> rfl
@[simp] theorem Group.setK_nextAge (g : Group) (n : Nat) (v : Bool) : (g.setK n v).nextAge = g.nextAge := by unfold Group.setK; split <;> rfl
@[simp] theorem Group.setK_flights (g : Group) (n : Nat) (v : Bool) : (g.setK n v).flights = g.flights := by unfold Group.setK; split <;> rfl
@[simp] theorem Group.setK_gstate (g : Group) (n : Nat) (v : Bool) : (g.setK n v).gstate = g.gstate := by unfold Group.setK; split <;> rfl
@[simp] theorem Group.setK_slot (g : Group) (n : Nat) (v : Bool) : (g.setK n v).slot = g.slot := by unfold Group.setK; split <;> rfl
@[simp] theorem Group.setK_image (g : Group) (n : Nat) (v : Bool) : (g.setK n v).image = g.image := by unfold Group.setK; split <;> rfl
@[simp] theorem Group.setK_tampered (g : Group) (n : Nat) (v : Bool) : (g.setK n v).tampered = g.tampered := by unfold Group.setK; split <;> rfl
@[simp] theorem Group.setK_uframe (g : Group) (n : Nat) (v : Bool) : (g.setK n v).uframe = g.uframe := by unfold Group.setK; split <;> rfl
@[simp] theorem Group.setK_sframe (g : Group) (n : Nat) (v : Bool) : (g.setK n v).sframe = g.sframe := by unfold Group.setK; split <;> rfl
@[simp] theorem Group.setK_lxfaults (g : Group) (n : Nat) (v : Bool) : (g.setK n v).lxfaults = g.lxfaults := by unfold Group.setK; split <;> rfl
@[simp] theorem Group.setK_lxHand (g : Group) (n : Nat) (v : Bool) : (g.setK n v).lxHand = g.lxHand := by unfold Group.setK; split <;> rfl
@[simp] theorem Group.setK_escalatedSplit (g : Group) (n : Nat) (v : Bool) : (g.setK n v).escalatedSplit = g.escalatedSplit := by unfold Group.setK; split <;> rfl
@[simp] theorem Group.setK_instOp (g : Group) (n : Nat) (v : Bool) : (g.setK n v).instOp = g.instOp := by unfold Group.setK; split <;> rfl
@[simp] theorem Group.setK_instTun (g : Group) (n : Nat) (v : Bool) : (g.setK n v).instTun = g.instTun := by unfold Group.setK; split <;> rfl
@[simp] theorem Group.setK_instStatus (g : Group) (n : Nat) (v : Bool) : (g.setK n v).instStatus = g.instStatus := by unfold Group.setK; split <;> rfl
@[simp] theorem Group.setK_instAddr (g : Group) (n : Nat) (v : Bool) : (g.setK n v).instAddr = g.instAddr := by unfold Group.setK; split <;> rfl
@[simp] theorem Group.setK_lauSig (g : Group) (n : Nat) (v : Bool) : (g.setK n v).lauSig = g.lauSig := by unfold Group.setK; split <;> rfl
@[simp] theorem Group.setK_regTags (g : Group) (n : Nat) (v : Bool) : (g.setK n v).regTags = g.regTags := by unfold Group.setK; split <;> rfl

/-! ### Group.setLane -/

@[simp] theorem Group.setLane_uid (g : Group) (n : Nat) (x : Lane) : (g.setLane n x).uid = g.uid := rfl
@[simp] theorem Group.setLane_grid (g : Group) (n : Nat) (x : Lane) : (g.setLane n x).grid = g.grid := rfl
@[simp] theorem Group.setLane_team (g : Group) (n : Nat) (x : Lane) : (g.setLane n x).team = g.team := rfl
@[simp] theorem Group.setLane_groupid (g : Group) (n : Nat) (x : Lane) : (g.setLane n x).groupid = g.groupid := rfl
@[simp] theorem Group.setLane_core (g : Group) (n : Nat) (x : Lane) : (g.setLane n x).core = g.core := rfl
@[simp] theorem Group.setLane_entry (g : Group) (n : Nat) (x : Lane) : (g.setLane n x).entry = g.entry := rfl
@[simp] theorem Group.setLane_width (g : Group) (n : Nat) (x : Lane) : (g.setLane n x).width = g.width := rfl
@[simp] theorem Group.setLane_vregs (g : Group) (n : Nat) (x : Lane) : (g.setLane n x).vregs = g.vregs := rfl
@[simp] theorem Group.setLane_s (g : Group) (n : Nat) (x : Lane) : (g.setLane n x).s = g.s := rfl
@[simp] theorem Group.setLane_k (g : Group) (n : Nat) (x : Lane) : (g.setLane n x).k = g.k := rfl
@[simp] theorem Group.setLane_timecmp (g : Group) (n : Nat) (x : Lane) : (g.setLane n x).timecmp = g.timecmp := rfl
@[simp] theorem Group.setLane_utvec (g : Group) (n : Nat) (x : Lane) : (g.setLane n x).utvec = g.utvec := rfl
@[simp] theorem Group.setLane_utcause (g : Group) (n : Nat) (x : Lane) : (g.setLane n x).utcause = g.utcause := rfl
@[simp] theorem Group.setLane_utepc (g : Group) (n : Nat) (x : Lane) : (g.setLane n x).utepc = g.utepc := rfl
@[simp] theorem Group.setLane_faultmask (g : Group) (n : Nat) (x : Lane) : (g.setLane n x).faultmask = g.faultmask := rfl
@[simp] theorem Group.setLane_faultaddr (g : Group) (n : Nat) (x : Lane) : (g.setLane n x).faultaddr = g.faultaddr := rfl
@[simp] theorem Group.setLane_kernarg (g : Group) (n : Nat) (x : Lane) : (g.setLane n x).kernarg = g.kernarg := rfl
@[simp] theorem Group.setLane_scbase (g : Group) (n : Nat) (x : Lane) : (g.setLane n x).scbase = g.scbase := rfl
@[simp] theorem Group.setLane_scshift (g : Group) (n : Nat) (x : Lane) : (g.setLane n x).scshift = g.scshift := rfl
@[simp] theorem Group.setLane_wkey (g : Group) (n : Nat) (x : Lane) : (g.setLane n x).wkey = g.wkey := rfl
@[simp] theorem Group.setLane_stvec (g : Group) (n : Nat) (x : Lane) : (g.setLane n x).stvec = g.stvec := rfl
@[simp] theorem Group.setLane_scause (g : Group) (n : Nat) (x : Lane) : (g.setLane n x).scause = g.scause := rfl
@[simp] theorem Group.setLane_sepc (g : Group) (n : Nat) (x : Lane) : (g.setLane n x).sepc = g.sepc := rfl
@[simp] theorem Group.setLane_sstatus (g : Group) (n : Nat) (x : Lane) : (g.setLane n x).sstatus = g.sstatus := rfl
@[simp] theorem Group.setLane_ptroot (g : Group) (n : Nat) (x : Lane) : (g.setLane n x).ptroot = g.ptroot := rfl
@[simp] theorem Group.setLane_asid (g : Group) (n : Nat) (x : Lane) : (g.setLane n x).asid = g.asid := rfl
@[simp] theorem Group.setLane_partid (g : Group) (n : Nat) (x : Lane) : (g.setLane n x).partid = g.partid := rfl
@[simp] theorem Group.setLane_sscratch (g : Group) (n : Nat) (x : Lane) : (g.setLane n x).sscratch = g.sscratch := rfl
@[simp] theorem Group.setLane_lxrbase (g : Group) (n : Nat) (x : Lane) : (g.setLane n x).lxrbase = g.lxrbase := rfl
@[simp] theorem Group.setLane_splits (g : Group) (n : Nat) (x : Lane) : (g.setLane n x).splits = g.splits := rfl
@[simp] theorem Group.setLane_nextAge (g : Group) (n : Nat) (x : Lane) : (g.setLane n x).nextAge = g.nextAge := rfl
@[simp] theorem Group.setLane_flights (g : Group) (n : Nat) (x : Lane) : (g.setLane n x).flights = g.flights := rfl
@[simp] theorem Group.setLane_gstate (g : Group) (n : Nat) (x : Lane) : (g.setLane n x).gstate = g.gstate := rfl
@[simp] theorem Group.setLane_slot (g : Group) (n : Nat) (x : Lane) : (g.setLane n x).slot = g.slot := rfl
@[simp] theorem Group.setLane_image (g : Group) (n : Nat) (x : Lane) : (g.setLane n x).image = g.image := rfl
@[simp] theorem Group.setLane_tampered (g : Group) (n : Nat) (x : Lane) : (g.setLane n x).tampered = g.tampered := rfl
@[simp] theorem Group.setLane_uframe (g : Group) (n : Nat) (x : Lane) : (g.setLane n x).uframe = g.uframe := rfl
@[simp] theorem Group.setLane_sframe (g : Group) (n : Nat) (x : Lane) : (g.setLane n x).sframe = g.sframe := rfl
@[simp] theorem Group.setLane_lxfaults (g : Group) (n : Nat) (x : Lane) : (g.setLane n x).lxfaults = g.lxfaults := rfl
@[simp] theorem Group.setLane_lxHand (g : Group) (n : Nat) (x : Lane) : (g.setLane n x).lxHand = g.lxHand := rfl
@[simp] theorem Group.setLane_escalatedSplit (g : Group) (n : Nat) (x : Lane) : (g.setLane n x).escalatedSplit = g.escalatedSplit := rfl
@[simp] theorem Group.setLane_instOp (g : Group) (n : Nat) (x : Lane) : (g.setLane n x).instOp = g.instOp := rfl
@[simp] theorem Group.setLane_instTun (g : Group) (n : Nat) (x : Lane) : (g.setLane n x).instTun = g.instTun := rfl
@[simp] theorem Group.setLane_instStatus (g : Group) (n : Nat) (x : Lane) : (g.setLane n x).instStatus = g.instStatus := rfl
@[simp] theorem Group.setLane_instAddr (g : Group) (n : Nat) (x : Lane) : (g.setLane n x).instAddr = g.instAddr := rfl
@[simp] theorem Group.setLane_lauSig (g : Group) (n : Nat) (x : Lane) : (g.setLane n x).lauSig = g.lauSig := rfl
@[simp] theorem Group.setLane_regTags (g : Group) (n : Nat) (x : Lane) : (g.setLane n x).regTags = g.regTags := rfl

/-! ### Group.modLane -/

@[simp] theorem Group.modLane_uid (g : Group) (n : Nat) (f : Lane → Lane) : (g.modLane n f).uid = g.uid := rfl
@[simp] theorem Group.modLane_grid (g : Group) (n : Nat) (f : Lane → Lane) : (g.modLane n f).grid = g.grid := rfl
@[simp] theorem Group.modLane_team (g : Group) (n : Nat) (f : Lane → Lane) : (g.modLane n f).team = g.team := rfl
@[simp] theorem Group.modLane_groupid (g : Group) (n : Nat) (f : Lane → Lane) : (g.modLane n f).groupid = g.groupid := rfl
@[simp] theorem Group.modLane_core (g : Group) (n : Nat) (f : Lane → Lane) : (g.modLane n f).core = g.core := rfl
@[simp] theorem Group.modLane_entry (g : Group) (n : Nat) (f : Lane → Lane) : (g.modLane n f).entry = g.entry := rfl
@[simp] theorem Group.modLane_width (g : Group) (n : Nat) (f : Lane → Lane) : (g.modLane n f).width = g.width := rfl
@[simp] theorem Group.modLane_vregs (g : Group) (n : Nat) (f : Lane → Lane) : (g.modLane n f).vregs = g.vregs := rfl
@[simp] theorem Group.modLane_s (g : Group) (n : Nat) (f : Lane → Lane) : (g.modLane n f).s = g.s := rfl
@[simp] theorem Group.modLane_k (g : Group) (n : Nat) (f : Lane → Lane) : (g.modLane n f).k = g.k := rfl
@[simp] theorem Group.modLane_timecmp (g : Group) (n : Nat) (f : Lane → Lane) : (g.modLane n f).timecmp = g.timecmp := rfl
@[simp] theorem Group.modLane_utvec (g : Group) (n : Nat) (f : Lane → Lane) : (g.modLane n f).utvec = g.utvec := rfl
@[simp] theorem Group.modLane_utcause (g : Group) (n : Nat) (f : Lane → Lane) : (g.modLane n f).utcause = g.utcause := rfl
@[simp] theorem Group.modLane_utepc (g : Group) (n : Nat) (f : Lane → Lane) : (g.modLane n f).utepc = g.utepc := rfl
@[simp] theorem Group.modLane_faultmask (g : Group) (n : Nat) (f : Lane → Lane) : (g.modLane n f).faultmask = g.faultmask := rfl
@[simp] theorem Group.modLane_faultaddr (g : Group) (n : Nat) (f : Lane → Lane) : (g.modLane n f).faultaddr = g.faultaddr := rfl
@[simp] theorem Group.modLane_kernarg (g : Group) (n : Nat) (f : Lane → Lane) : (g.modLane n f).kernarg = g.kernarg := rfl
@[simp] theorem Group.modLane_scbase (g : Group) (n : Nat) (f : Lane → Lane) : (g.modLane n f).scbase = g.scbase := rfl
@[simp] theorem Group.modLane_scshift (g : Group) (n : Nat) (f : Lane → Lane) : (g.modLane n f).scshift = g.scshift := rfl
@[simp] theorem Group.modLane_wkey (g : Group) (n : Nat) (f : Lane → Lane) : (g.modLane n f).wkey = g.wkey := rfl
@[simp] theorem Group.modLane_stvec (g : Group) (n : Nat) (f : Lane → Lane) : (g.modLane n f).stvec = g.stvec := rfl
@[simp] theorem Group.modLane_scause (g : Group) (n : Nat) (f : Lane → Lane) : (g.modLane n f).scause = g.scause := rfl
@[simp] theorem Group.modLane_sepc (g : Group) (n : Nat) (f : Lane → Lane) : (g.modLane n f).sepc = g.sepc := rfl
@[simp] theorem Group.modLane_sstatus (g : Group) (n : Nat) (f : Lane → Lane) : (g.modLane n f).sstatus = g.sstatus := rfl
@[simp] theorem Group.modLane_ptroot (g : Group) (n : Nat) (f : Lane → Lane) : (g.modLane n f).ptroot = g.ptroot := rfl
@[simp] theorem Group.modLane_asid (g : Group) (n : Nat) (f : Lane → Lane) : (g.modLane n f).asid = g.asid := rfl
@[simp] theorem Group.modLane_partid (g : Group) (n : Nat) (f : Lane → Lane) : (g.modLane n f).partid = g.partid := rfl
@[simp] theorem Group.modLane_sscratch (g : Group) (n : Nat) (f : Lane → Lane) : (g.modLane n f).sscratch = g.sscratch := rfl
@[simp] theorem Group.modLane_lxrbase (g : Group) (n : Nat) (f : Lane → Lane) : (g.modLane n f).lxrbase = g.lxrbase := rfl
@[simp] theorem Group.modLane_splits (g : Group) (n : Nat) (f : Lane → Lane) : (g.modLane n f).splits = g.splits := rfl
@[simp] theorem Group.modLane_nextAge (g : Group) (n : Nat) (f : Lane → Lane) : (g.modLane n f).nextAge = g.nextAge := rfl
@[simp] theorem Group.modLane_flights (g : Group) (n : Nat) (f : Lane → Lane) : (g.modLane n f).flights = g.flights := rfl
@[simp] theorem Group.modLane_gstate (g : Group) (n : Nat) (f : Lane → Lane) : (g.modLane n f).gstate = g.gstate := rfl
@[simp] theorem Group.modLane_slot (g : Group) (n : Nat) (f : Lane → Lane) : (g.modLane n f).slot = g.slot := rfl
@[simp] theorem Group.modLane_image (g : Group) (n : Nat) (f : Lane → Lane) : (g.modLane n f).image = g.image := rfl
@[simp] theorem Group.modLane_tampered (g : Group) (n : Nat) (f : Lane → Lane) : (g.modLane n f).tampered = g.tampered := rfl
@[simp] theorem Group.modLane_uframe (g : Group) (n : Nat) (f : Lane → Lane) : (g.modLane n f).uframe = g.uframe := rfl
@[simp] theorem Group.modLane_sframe (g : Group) (n : Nat) (f : Lane → Lane) : (g.modLane n f).sframe = g.sframe := rfl
@[simp] theorem Group.modLane_lxfaults (g : Group) (n : Nat) (f : Lane → Lane) : (g.modLane n f).lxfaults = g.lxfaults := rfl
@[simp] theorem Group.modLane_lxHand (g : Group) (n : Nat) (f : Lane → Lane) : (g.modLane n f).lxHand = g.lxHand := rfl
@[simp] theorem Group.modLane_escalatedSplit (g : Group) (n : Nat) (f : Lane → Lane) : (g.modLane n f).escalatedSplit = g.escalatedSplit := rfl
@[simp] theorem Group.modLane_instOp (g : Group) (n : Nat) (f : Lane → Lane) : (g.modLane n f).instOp = g.instOp := rfl
@[simp] theorem Group.modLane_instTun (g : Group) (n : Nat) (f : Lane → Lane) : (g.modLane n f).instTun = g.instTun := rfl
@[simp] theorem Group.modLane_instStatus (g : Group) (n : Nat) (f : Lane → Lane) : (g.modLane n f).instStatus = g.instStatus := rfl
@[simp] theorem Group.modLane_instAddr (g : Group) (n : Nat) (f : Lane → Lane) : (g.modLane n f).instAddr = g.instAddr := rfl
@[simp] theorem Group.modLane_lauSig (g : Group) (n : Nat) (f : Lane → Lane) : (g.modLane n f).lauSig = g.lauSig := rfl
@[simp] theorem Group.modLane_regTags (g : Group) (n : Nat) (f : Lane → Lane) : (g.modLane n f).regTags = g.regTags := rfl

/-! ### Group.modLanes -/

@[simp] theorem Group.modLanes_uid (g : Group) (ls : List Nat) (f : Nat → Lane → Lane) : (g.modLanes ls f).uid = g.uid := by induction ls generalizing g with | nil => rfl | cons l ls ih => exact (ih (g.modLane l (f l))).trans rfl
@[simp] theorem Group.modLanes_grid (g : Group) (ls : List Nat) (f : Nat → Lane → Lane) : (g.modLanes ls f).grid = g.grid := by induction ls generalizing g with | nil => rfl | cons l ls ih => exact (ih (g.modLane l (f l))).trans rfl
@[simp] theorem Group.modLanes_team (g : Group) (ls : List Nat) (f : Nat → Lane → Lane) : (g.modLanes ls f).team = g.team := by induction ls generalizing g with | nil => rfl | cons l ls ih => exact (ih (g.modLane l (f l))).trans rfl
@[simp] theorem Group.modLanes_groupid (g : Group) (ls : List Nat) (f : Nat → Lane → Lane) : (g.modLanes ls f).groupid = g.groupid := by induction ls generalizing g with | nil => rfl | cons l ls ih => exact (ih (g.modLane l (f l))).trans rfl
@[simp] theorem Group.modLanes_core (g : Group) (ls : List Nat) (f : Nat → Lane → Lane) : (g.modLanes ls f).core = g.core := by induction ls generalizing g with | nil => rfl | cons l ls ih => exact (ih (g.modLane l (f l))).trans rfl
@[simp] theorem Group.modLanes_entry (g : Group) (ls : List Nat) (f : Nat → Lane → Lane) : (g.modLanes ls f).entry = g.entry := by induction ls generalizing g with | nil => rfl | cons l ls ih => exact (ih (g.modLane l (f l))).trans rfl
@[simp] theorem Group.modLanes_width (g : Group) (ls : List Nat) (f : Nat → Lane → Lane) : (g.modLanes ls f).width = g.width := by induction ls generalizing g with | nil => rfl | cons l ls ih => exact (ih (g.modLane l (f l))).trans rfl
@[simp] theorem Group.modLanes_vregs (g : Group) (ls : List Nat) (f : Nat → Lane → Lane) : (g.modLanes ls f).vregs = g.vregs := by induction ls generalizing g with | nil => rfl | cons l ls ih => exact (ih (g.modLane l (f l))).trans rfl
@[simp] theorem Group.modLanes_s (g : Group) (ls : List Nat) (f : Nat → Lane → Lane) : (g.modLanes ls f).s = g.s := by induction ls generalizing g with | nil => rfl | cons l ls ih => exact (ih (g.modLane l (f l))).trans rfl
@[simp] theorem Group.modLanes_k (g : Group) (ls : List Nat) (f : Nat → Lane → Lane) : (g.modLanes ls f).k = g.k := by induction ls generalizing g with | nil => rfl | cons l ls ih => exact (ih (g.modLane l (f l))).trans rfl
@[simp] theorem Group.modLanes_timecmp (g : Group) (ls : List Nat) (f : Nat → Lane → Lane) : (g.modLanes ls f).timecmp = g.timecmp := by induction ls generalizing g with | nil => rfl | cons l ls ih => exact (ih (g.modLane l (f l))).trans rfl
@[simp] theorem Group.modLanes_utvec (g : Group) (ls : List Nat) (f : Nat → Lane → Lane) : (g.modLanes ls f).utvec = g.utvec := by induction ls generalizing g with | nil => rfl | cons l ls ih => exact (ih (g.modLane l (f l))).trans rfl
@[simp] theorem Group.modLanes_utcause (g : Group) (ls : List Nat) (f : Nat → Lane → Lane) : (g.modLanes ls f).utcause = g.utcause := by induction ls generalizing g with | nil => rfl | cons l ls ih => exact (ih (g.modLane l (f l))).trans rfl
@[simp] theorem Group.modLanes_utepc (g : Group) (ls : List Nat) (f : Nat → Lane → Lane) : (g.modLanes ls f).utepc = g.utepc := by induction ls generalizing g with | nil => rfl | cons l ls ih => exact (ih (g.modLane l (f l))).trans rfl
@[simp] theorem Group.modLanes_faultmask (g : Group) (ls : List Nat) (f : Nat → Lane → Lane) : (g.modLanes ls f).faultmask = g.faultmask := by induction ls generalizing g with | nil => rfl | cons l ls ih => exact (ih (g.modLane l (f l))).trans rfl
@[simp] theorem Group.modLanes_faultaddr (g : Group) (ls : List Nat) (f : Nat → Lane → Lane) : (g.modLanes ls f).faultaddr = g.faultaddr := by induction ls generalizing g with | nil => rfl | cons l ls ih => exact (ih (g.modLane l (f l))).trans rfl
@[simp] theorem Group.modLanes_kernarg (g : Group) (ls : List Nat) (f : Nat → Lane → Lane) : (g.modLanes ls f).kernarg = g.kernarg := by induction ls generalizing g with | nil => rfl | cons l ls ih => exact (ih (g.modLane l (f l))).trans rfl
@[simp] theorem Group.modLanes_scbase (g : Group) (ls : List Nat) (f : Nat → Lane → Lane) : (g.modLanes ls f).scbase = g.scbase := by induction ls generalizing g with | nil => rfl | cons l ls ih => exact (ih (g.modLane l (f l))).trans rfl
@[simp] theorem Group.modLanes_scshift (g : Group) (ls : List Nat) (f : Nat → Lane → Lane) : (g.modLanes ls f).scshift = g.scshift := by induction ls generalizing g with | nil => rfl | cons l ls ih => exact (ih (g.modLane l (f l))).trans rfl
@[simp] theorem Group.modLanes_wkey (g : Group) (ls : List Nat) (f : Nat → Lane → Lane) : (g.modLanes ls f).wkey = g.wkey := by induction ls generalizing g with | nil => rfl | cons l ls ih => exact (ih (g.modLane l (f l))).trans rfl
@[simp] theorem Group.modLanes_stvec (g : Group) (ls : List Nat) (f : Nat → Lane → Lane) : (g.modLanes ls f).stvec = g.stvec := by induction ls generalizing g with | nil => rfl | cons l ls ih => exact (ih (g.modLane l (f l))).trans rfl
@[simp] theorem Group.modLanes_scause (g : Group) (ls : List Nat) (f : Nat → Lane → Lane) : (g.modLanes ls f).scause = g.scause := by induction ls generalizing g with | nil => rfl | cons l ls ih => exact (ih (g.modLane l (f l))).trans rfl
@[simp] theorem Group.modLanes_sepc (g : Group) (ls : List Nat) (f : Nat → Lane → Lane) : (g.modLanes ls f).sepc = g.sepc := by induction ls generalizing g with | nil => rfl | cons l ls ih => exact (ih (g.modLane l (f l))).trans rfl
@[simp] theorem Group.modLanes_sstatus (g : Group) (ls : List Nat) (f : Nat → Lane → Lane) : (g.modLanes ls f).sstatus = g.sstatus := by induction ls generalizing g with | nil => rfl | cons l ls ih => exact (ih (g.modLane l (f l))).trans rfl
@[simp] theorem Group.modLanes_ptroot (g : Group) (ls : List Nat) (f : Nat → Lane → Lane) : (g.modLanes ls f).ptroot = g.ptroot := by induction ls generalizing g with | nil => rfl | cons l ls ih => exact (ih (g.modLane l (f l))).trans rfl
@[simp] theorem Group.modLanes_asid (g : Group) (ls : List Nat) (f : Nat → Lane → Lane) : (g.modLanes ls f).asid = g.asid := by induction ls generalizing g with | nil => rfl | cons l ls ih => exact (ih (g.modLane l (f l))).trans rfl
@[simp] theorem Group.modLanes_partid (g : Group) (ls : List Nat) (f : Nat → Lane → Lane) : (g.modLanes ls f).partid = g.partid := by induction ls generalizing g with | nil => rfl | cons l ls ih => exact (ih (g.modLane l (f l))).trans rfl
@[simp] theorem Group.modLanes_sscratch (g : Group) (ls : List Nat) (f : Nat → Lane → Lane) : (g.modLanes ls f).sscratch = g.sscratch := by induction ls generalizing g with | nil => rfl | cons l ls ih => exact (ih (g.modLane l (f l))).trans rfl
@[simp] theorem Group.modLanes_lxrbase (g : Group) (ls : List Nat) (f : Nat → Lane → Lane) : (g.modLanes ls f).lxrbase = g.lxrbase := by induction ls generalizing g with | nil => rfl | cons l ls ih => exact (ih (g.modLane l (f l))).trans rfl
@[simp] theorem Group.modLanes_splits (g : Group) (ls : List Nat) (f : Nat → Lane → Lane) : (g.modLanes ls f).splits = g.splits := by induction ls generalizing g with | nil => rfl | cons l ls ih => exact (ih (g.modLane l (f l))).trans rfl
@[simp] theorem Group.modLanes_nextAge (g : Group) (ls : List Nat) (f : Nat → Lane → Lane) : (g.modLanes ls f).nextAge = g.nextAge := by induction ls generalizing g with | nil => rfl | cons l ls ih => exact (ih (g.modLane l (f l))).trans rfl
@[simp] theorem Group.modLanes_flights (g : Group) (ls : List Nat) (f : Nat → Lane → Lane) : (g.modLanes ls f).flights = g.flights := by induction ls generalizing g with | nil => rfl | cons l ls ih => exact (ih (g.modLane l (f l))).trans rfl
@[simp] theorem Group.modLanes_gstate (g : Group) (ls : List Nat) (f : Nat → Lane → Lane) : (g.modLanes ls f).gstate = g.gstate := by induction ls generalizing g with | nil => rfl | cons l ls ih => exact (ih (g.modLane l (f l))).trans rfl
@[simp] theorem Group.modLanes_slot (g : Group) (ls : List Nat) (f : Nat → Lane → Lane) : (g.modLanes ls f).slot = g.slot := by induction ls generalizing g with | nil => rfl | cons l ls ih => exact (ih (g.modLane l (f l))).trans rfl
@[simp] theorem Group.modLanes_image (g : Group) (ls : List Nat) (f : Nat → Lane → Lane) : (g.modLanes ls f).image = g.image := by induction ls generalizing g with | nil => rfl | cons l ls ih => exact (ih (g.modLane l (f l))).trans rfl
@[simp] theorem Group.modLanes_tampered (g : Group) (ls : List Nat) (f : Nat → Lane → Lane) : (g.modLanes ls f).tampered = g.tampered := by induction ls generalizing g with | nil => rfl | cons l ls ih => exact (ih (g.modLane l (f l))).trans rfl
@[simp] theorem Group.modLanes_uframe (g : Group) (ls : List Nat) (f : Nat → Lane → Lane) : (g.modLanes ls f).uframe = g.uframe := by induction ls generalizing g with | nil => rfl | cons l ls ih => exact (ih (g.modLane l (f l))).trans rfl
@[simp] theorem Group.modLanes_sframe (g : Group) (ls : List Nat) (f : Nat → Lane → Lane) : (g.modLanes ls f).sframe = g.sframe := by induction ls generalizing g with | nil => rfl | cons l ls ih => exact (ih (g.modLane l (f l))).trans rfl
@[simp] theorem Group.modLanes_lxfaults (g : Group) (ls : List Nat) (f : Nat → Lane → Lane) : (g.modLanes ls f).lxfaults = g.lxfaults := by induction ls generalizing g with | nil => rfl | cons l ls ih => exact (ih (g.modLane l (f l))).trans rfl
@[simp] theorem Group.modLanes_lxHand (g : Group) (ls : List Nat) (f : Nat → Lane → Lane) : (g.modLanes ls f).lxHand = g.lxHand := by induction ls generalizing g with | nil => rfl | cons l ls ih => exact (ih (g.modLane l (f l))).trans rfl
@[simp] theorem Group.modLanes_escalatedSplit (g : Group) (ls : List Nat) (f : Nat → Lane → Lane) : (g.modLanes ls f).escalatedSplit = g.escalatedSplit := by induction ls generalizing g with | nil => rfl | cons l ls ih => exact (ih (g.modLane l (f l))).trans rfl
@[simp] theorem Group.modLanes_instOp (g : Group) (ls : List Nat) (f : Nat → Lane → Lane) : (g.modLanes ls f).instOp = g.instOp := by induction ls generalizing g with | nil => rfl | cons l ls ih => exact (ih (g.modLane l (f l))).trans rfl
@[simp] theorem Group.modLanes_instTun (g : Group) (ls : List Nat) (f : Nat → Lane → Lane) : (g.modLanes ls f).instTun = g.instTun := by induction ls generalizing g with | nil => rfl | cons l ls ih => exact (ih (g.modLane l (f l))).trans rfl
@[simp] theorem Group.modLanes_instStatus (g : Group) (ls : List Nat) (f : Nat → Lane → Lane) : (g.modLanes ls f).instStatus = g.instStatus := by induction ls generalizing g with | nil => rfl | cons l ls ih => exact (ih (g.modLane l (f l))).trans rfl
@[simp] theorem Group.modLanes_instAddr (g : Group) (ls : List Nat) (f : Nat → Lane → Lane) : (g.modLanes ls f).instAddr = g.instAddr := by induction ls generalizing g with | nil => rfl | cons l ls ih => exact (ih (g.modLane l (f l))).trans rfl
@[simp] theorem Group.modLanes_lauSig (g : Group) (ls : List Nat) (f : Nat → Lane → Lane) : (g.modLanes ls f).lauSig = g.lauSig := by induction ls generalizing g with | nil => rfl | cons l ls ih => exact (ih (g.modLane l (f l))).trans rfl
@[simp] theorem Group.modLanes_regTags (g : Group) (ls : List Nat) (f : Nat → Lane → Lane) : (g.modLanes ls f).regTags = g.regTags := by induction ls generalizing g with | nil => rfl | cons l ls ih => exact (ih (g.modLane l (f l))).trans rfl

end Sys2Proof.Machine
end

