-- ==== Sys2Proof/Laws/Registers.lean ====
section
/-! SUPPORT. Reading after writing: registers of every file, lanes, splits of a group, groups of the state. -/

namespace Sys2Proof.Machine

/-! ### Lists -/

theorem getD_setAt {α : Type} (d v : α) (l : List α) (n m : Nat) :
    (setAt d l n v).getD m d = if m = n then v else l.getD m d := by
  induction n generalizing l m with
  | zero => cases l <;> cases m <;> simp [setAt]
  | succ n ih =>
    cases l with
    | nil =>
      cases m with
      | zero => simp [setAt]
      | succ m => have := ih [] m; simp_all [setAt]
    | cons x t =>
      cases m with
      | zero => simp [setAt]
      | succ m => have := ih t m; simp_all [setAt]

theorem find?_map_replace {α : Type} (p q : α → Bool) (x : α) (l : List α) (hq : ∀ y, q y = true → p y = true)
    (hx : p x = true) (hpq : ∀ y, p y = true → q y = true) (h : (l.find? p).isSome) :
    (l.map (fun y => if q y then x else y)).find? p = some x := by
  induction l with
  | nil => simp at h
  | cons y t ih =>
    by_cases hy : p y = true
    · simp [hpq y hy, hx]
    · have hn : q y = false := by
        cases hh : q y with
        | false => rfl
        | true => exact absurd (hq y hh) hy
      simp only [List.find?_cons, hy] at h
      simp [hn, hy, ih (by simpa using h)]

/-! ### Register files (R155) -/

theorem Group.sReg_setS (g : Group) (n m : Nat) (v : DWord) :
    (g.setS n v).sReg m = if m = n ∧ n ≠ 0 then v else g.sReg m := by
  by_cases h0 : n = 0
  · simp [Group.setS, h0]
  · by_cases hm : m = 0
    · subst hm; simp [Group.sReg, h0, Ne.symm h0]
    · simp only [Group.setS, Group.sReg, h0, hm, if_false]
      rw [getD_setAt]; simp [h0]

theorem setBit8_getLsbD (b : BitVec 8) (n m : Nat) (v : Bool) (hn : n < 8) :
    (setBit8 b n v).getLsbD m = if m = n then v else b.getLsbD m := by
  unfold setBit8
  by_cases hm : m < 8
  · interval_cases n <;> interval_cases m <;> cases v <;> simp
  · have : m ≠ n := by omega
    have hb : b.getLsbD m = false := BitVec.getLsbD_of_ge b m (by omega)
    cases v <;> simp [this, hb, hm]

theorem Group.kReg_setK (g : Group) (n m : Nat) (v : Bool) :
    (g.setK n v).kReg m = if m = n ∧ n < 7 then v else g.kReg m := by
  by_cases h7 : n < 7
  · have hn : ¬ n ≥ 7 := by omega
    simp only [Group.setK, hn, if_false, Group.kReg, h7, and_true]
    rw [setBit8_getLsbD _ _ _ _ (by omega)]
    by_cases hm : m = n
    · subst hm; simp; intro h; omega
    · simp [hm]
  · simp [Group.setK, h7, show n ≥ 7 by omega]

theorem Lane.pReg_setP (x : Lane) (n m : Nat) (v : Bool) :
    (x.setP n v).pReg m = if m = n ∧ n < 7 then v else x.pReg m := by
  by_cases h7 : n < 7
  · have hn : ¬ n ≥ 7 := by omega
    simp only [Lane.setP, hn, if_false, Lane.pReg, h7, and_true]
    rw [setBit8_getLsbD _ _ _ _ (by omega)]
    by_cases hm : m = n
    · subst hm; simp; intro h; omega
    · simp [hm]
  · simp [Lane.setP, h7, show n ≥ 7 by omega]

theorem Lane.vReg_setV (x : Lane) (n m : Nat) (v : Word) : (x.setV n v).vReg m = if m = n then v else x.vReg m := getD_setAt _ _ _ _ _

/-- A write of `k` registers writes these registers, the low word first, and no other. -/
theorem Lane.vReg_setVNat (x : Lane) (n k v m : Nat) :
    (x.setVNat n k v).vReg m = if n ≤ m ∧ m < n + k then wd (v / 2 ^ (32 * (m - n))) else x.vReg m := by
  induction k generalizing x n v with
  | zero => rw [Lane.setVNat, if_neg (by omega)]
  | succ k ih =>
    rw [Lane.setVNat, ih, Lane.vReg_setV]
    by_cases h1 : m = n
    · subst h1; simp
    · by_cases h2 : n + 1 ≤ m ∧ m < n + 1 + k
      · have h3 : n ≤ m ∧ m < n + (k + 1) := by omega
        rw [if_pos h2, if_pos h3]
        have : 32 * (m - n) = 32 + 32 * (m - (n + 1)) := by omega
        rw [this, Nat.pow_add, Nat.div_div_eq_div_mul]
      · have h3 : ¬ (n ≤ m ∧ m < n + (k + 1)) := by omega
        rw [if_neg h2, if_neg h3, if_neg h1]

/-- Writing V registers leaves the rest of a lane alone. -/
theorem Lane.setVNat_rest (x : Lane) (n k v : Nat) : x.setVNat n k v = { x with v := (x.setVNat n k v).v } := by
  induction k generalizing x n v with
  | zero => rfl
  | succ k ih => rw [Lane.setVNat, ih]; rfl

/-- The number that `k` registers hold is read from these registers only. -/
theorem Lane.vNat_congr (x y : Lane) (n k : Nat) (h : ∀ m, n ≤ m → m < n + k → x.vReg m = y.vReg m) :
    x.vNat n k = y.vNat n k := by
  induction k generalizing n with
  | zero => rfl
  | succ k ih =>
    simp only [Lane.vNat]
    rw [h n (by omega) (by omega), ih (n + 1) (fun m h1 h2 => h m (by omega) (by omega))]

theorem Lane.vNat_lt (x : Lane) (n k : Nat) : x.vNat n k < 2 ^ (32 * k) := by
  induction k generalizing n with
  | zero => simp [Lane.vNat]
  | succ k ih =>
    have h1 := (x.vReg n).isLt
    have h2 := ih (n + 1)
    have h3 : 2 ^ (32 * (k + 1)) = 2 ^ 32 * 2 ^ (32 * k) := by rw [← Nat.pow_add]; congr 1; omega
    simp only [Lane.vNat]
    rw [h3]
    nlinarith

/-- Registers read back as written. -/
theorem Lane.vNat_setVNat (x : Lane) (n k v : Nat) : (x.setVNat n k v).vNat n k = v % 2 ^ (32 * k) := by
  induction k generalizing x n v with
  | zero => simp [Lane.vNat, Nat.mod_one]
  | succ k ih =>
    have h0 : ((x.setV n (wd v)).setVNat (n + 1) k (v / 2 ^ 32)).vReg n = wd v := by
      rw [Lane.vReg_setVNat, if_neg (by omega), Lane.vReg_setV, if_pos rfl]
    rw [Lane.setVNat, Lane.vNat, h0, ih]
    have h1 : (wd v).toNat = v % 2 ^ 32 := by simp [wd]
    have h2 : 2 ^ (32 * (k + 1)) = 2 ^ 32 * 2 ^ (32 * k) := by rw [← Nat.pow_add]; congr 1; omega
    rw [h1, h2, Nat.mod_mul]

/-! ### Lanes of a group -/

theorem Group.lane_setLane (g : Group) (l k : Nat) (x : Lane) : (g.setLane l x).lane k = if k = l then x else g.lane k := by
  simp only [Group.lane, Group.setLane]; exact getD_setAt _ _ _ _ _

theorem Group.lane_modLane (g : Group) (l k : Nat) (f : Lane → Lane) :
    (g.modLane l f).lane k = if k = l then f (g.lane l) else g.lane k := g.lane_setLane l k _

/-- Each lane listed is changed once, the others stay. -/
theorem Group.lane_modLanes (g : Group) (ls : List Nat) (f : Nat → Lane → Lane) (k : Nat) (h : ls.Nodup) :
    (g.modLanes ls f).lane k = if k ∈ ls then f k (g.lane k) else g.lane k := by
  induction ls generalizing g with
  | nil => simp [Group.modLanes]
  | cons l ls ih =>
    have hl := List.nodup_cons.mp h
    have : g.modLanes (l :: ls) f = (g.modLane l (f l)).modLanes ls f := rfl
    rw [this, ih _ hl.2, Group.lane_modLane]
    by_cases hk : k = l
    · subst hk; simp [hl.1]
    · simp [hk]

/-- Only the lanes of a group change. -/
theorem Group.modLanes_rest (g : Group) (ls : List Nat) (f : Nat → Lane → Lane) :
    g.modLanes ls f = { g with lanes := (g.modLanes ls f).lanes } := by
  induction ls generalizing g with
  | nil => rfl
  | cons l ls ih => exact (ih (g.modLane l (f l))).trans rfl

theorem mem_lanesOf (m : Mask) (l : Nat) : l ∈ lanesOf m ↔ m.getLsbD l = true := by
  simp only [lanesOf, upTo, List.mem_filter, List.mem_range]
  refine ⟨fun h => h.2, fun h => ⟨?_, h⟩⟩
  by_contra hc
  rw [BitVec.getLsbD_of_ge m l (by omega)] at h
  exact Bool.false_ne_true h

theorem lanesOf_nodup (m : Mask) : (lanesOf m).Nodup := List.nodup_range.filter _

theorem mem_activeLanes (g : Group) (sp : Split) (h : Hdr) (l : Nat) :
    l ∈ activeLanes g sp h ↔ sp.mask.getLsbD l = true ∧ xor ((g.lane l).pReg h.g.toNat) h.gn = true := by
  simp [activeLanes, mem_lanesOf]

theorem activeLanes_nodup (g : Group) (sp : Split) (h : Hdr) : (activeLanes g sp h).Nodup := (lanesOf_nodup _).filter _

/-! ### Splits of a group, groups of the state -/

theorem Group.split?_slot (g : Group) (k : Nat) (x : Split) (h : g.split? k = some x) : x.slot = k := by
  have := List.find?_some h; simpa using this

theorem Group.split?_setSplit_self (g : Group) (x : Split) (h : (g.split? x.slot).isSome) :
    (g.setSplit x).split? x.slot = some x := by
  simp only [Group.split?, Group.setSplit]
  exact find?_map_replace _ _ x _ (fun y h => by simpa using h) (by simp) (fun y h => by simpa using h) h

theorem find?_map_other {α : Type} (p : α → Bool) (f : α → α) (l : List α) (hp : ∀ y, p (f y) = p y) (hf : ∀ y, p y = true → f y = y) :
    (l.map f).find? p = l.find? p := by
  induction l with
  | nil => rfl
  | cons y t ih =>
    simp only [List.map_cons, List.find?_cons, hp, ih]
    cases hy : p y with
    | false => rfl
    | true => simp [hf y hy]

theorem Group.split?_setSplit_other (g : Group) (x : Split) (k : Nat) (h : k ≠ x.slot) :
    (g.setSplit x).split? k = g.split? k := by
  simp only [Group.split?, Group.setSplit]
  apply find?_map_other
  · intro y; by_cases hy : y.slot = x.slot <;> simp [hy]
  · intro y hy
    have hk : y.slot = k := by simpa using hy
    have hn : ¬ y.slot = x.slot := by omega
    simp [hn]

theorem State.group?_uid (s : State) (u : Nat) (g : Group) (h : s.group? u = some g) : g.uid = u := by
  have := List.find?_some h; simpa using this

theorem State.group?_setGroup_self (s : State) (g : Group) (h : (s.group? g.uid).isSome) :
    (s.setGroup g).group? g.uid = some g := by
  simp only [State.group?, State.setGroup]
  exact find?_map_replace _ _ g _ (fun y h => by simpa using h) (by simp) (fun y h => by simpa using h) h

theorem State.group?_setGroup_other (s : State) (g : Group) (u : Nat) (h : u ≠ g.uid) :
    (s.setGroup g).group? u = s.group? u := by
  simp only [State.group?, State.setGroup]
  apply find?_map_other
  · intro y; by_cases hy : y.uid = g.uid <;> simp [hy]
  · intro y hy
    have hk : y.uid = u := by simpa using hy
    have hn : ¬ y.uid = g.uid := by omega
    simp [hn]

theorem State.setGroup_rest (s : State) (g : Group) : s.setGroup g = { s with groups := (s.setGroup g).groups } := rfl

/-- What `current?` finds is there. -/
theorem State.current?_found (s : State) (g : Group) (sp : Split) (h : s.current? = some (g, sp)) :
    s.group? g.uid = some g ∧ g.split? sp.slot = some sp := by
  unfold State.current? at h
  split at h
  · rename_i r
    simp only [State.split?, Option.bind_eq_some_iff, Option.map_eq_some_iff] at h
    obtain ⟨a, ha, b, hb, hab⟩ := h
    cases hab
    exact ⟨by rw [s.group?_uid _ _ ha]; exact ha, by rw [g.split?_slot _ _ hb]; exact hb⟩
  · cases h

end Sys2Proof.Machine
end

