-- ==== Sys2Proof/Laws/Issue.lean ====
section
/-! SUPPORT. The shared operations of an issue: each lemma says once everything the operation can do. -/

namespace Sys2Proof.Machine

/-- With nothing before it, the instruction's own effect comes. -/
theorem beforeEffect_ready (i : Instr) (h : Hdr) (s : State) (g : Group) (sp : Split) (k : State) (hr : Ready i h s g sp) :
    beforeEffect i h true false s g sp k = k := by
  have h1 : (sp.runOn.isSome && (stopPoint i || h.w)) = false := by
    cases hx : sp.runOn.isSome with
    | false => rfl
    | true => have := hr.runsOn hx; simp [this.1, this.2]
  have h2 : (h.w && !sp.pend.isEmpty) = false := by
    cases hw : h.w with
    | false => rfl
    | true => simp [hr.results hw]
  simp [beforeEffect, h1, h2, hr.wellFormed, hr.registers]

/-- What `asUniform` answers for a ready split. -/
theorem asUniform_ready (i : Instr) (h : Hdr) (len : Nat) (legal priv : Group → Split → Bool) (body : State → Group → Split → State)
    (s : State) (g : Group) (sp : Split) (hr : Ready i h s g sp) (hl : legal g sp = true) (hp : (priv g sp && g.kGuard h) = false) :
    asUniform i h len legal priv body s = .next (if g.kGuard h then body s g sp else finish s g sp len) := by
  simp only [asUniform, hr.current, hl, hp]
  rw [beforeEffect_ready i h s g sp _ hr]

/-- What `asLanes` answers for a ready split. -/
theorem asLanes_ready (i : Instr) (h : Hdr) (legal : Group → Split → Bool) (body : State → Group → Split → List Nat → State)
    (s : State) (g : Group) (sp : Split) (hr : Ready i h s g sp) (hl : legal g sp = true) :
    asLanes i h legal body s =
      .next (if (activeLanes g sp h).isEmpty then finish s g sp 12 else body s g sp (activeLanes g sp h)) := by
  simp only [asLanes, hr.current, hl]
  rw [beforeEffect_ready i h s g sp _ hr]

/-- The same of an instruction whose meaning is such a run. -/
theorem exec_uniform {i : Instr} {h : Hdr} {len : Nat} {legal priv : Group → Split → Bool} {body : State → Group → Split → State}
    {s : State} {g : Group} {sp : Split} (he : exec i s = asUniform i h len legal priv body s) (hr : Ready i h s g sp)
    (hl : legal g sp = true) (hp : (priv g sp && g.kGuard h) = false) :
    exec i s = .next (if g.kGuard h then body s g sp else finish s g sp len) :=
  he.trans (asUniform_ready i h len legal priv body s g sp hr hl hp)
theorem exec_lanes {i : Instr} {h : Hdr} {legal : Group → Split → Bool} {body : State → Group → Split → List Nat → State}
    {s : State} {g : Group} {sp : Split} (he : exec i s = asLanes i h legal body s) (hr : Ready i h s g sp) (hl : legal g sp = true) :
    exec i s = .next (if (activeLanes g sp h).isEmpty then finish s g sp 12 else body s g sp (activeLanes g sp h)) :=
  he.trans (asLanes_ready i h legal body s g sp hr hl)

theorem Ready.group {i : Instr} {h : Hdr} {s : State} {g : Group} {sp : Split} (hr : Ready i h s g sp) : s.group? g.uid = some g :=
  (s.current?_found g sp hr.current).1
theorem Ready.split {i : Instr} {h : Hdr} {s : State} {g : Group} {sp : Split} (hr : Ready i h s g sp) : g.split? sp.slot = some sp :=
  (s.current?_found g sp hr.current).2

/-- Replacing a group changes that group. -/
theorem onlyGroup_setGroup (s : State) (g g' : Group) (hg : s.group? g.uid = some g) (hu : g'.uid = g.uid) :
    OnlyGroup s (s.setGroup g') g g' := by
  refine ⟨rfl, ?_, fun u h => ?_⟩
  · rw [← hu]; exact s.group?_setGroup_self g' (by rw [hu, hg]; rfl)
  · exact s.group?_setGroup_other g' u (by rw [hu]; exact h)

/-- Replacing a split changes that split, whatever else of the group an instruction has changed. -/
theorem onlySplit_setSplit (g g' : Group) (sp sp' : Split) (hs : g.split? sp.slot = some sp) (hg : g'.splits = g.splits)
    (hk : sp'.slot = sp.slot) : OnlySplit g (g'.setSplit sp') sp sp' := by
  have e : ∀ k, g'.split? k = g.split? k := fun k => by simp only [Group.split?, hg]
  refine ⟨?_, fun k h => ?_⟩
  · rw [← hk]; exact g'.split?_setSplit_self sp' (by rw [hk, e, hs]; rfl)
  · rw [g'.split?_setSplit_other sp' k (by rw [hk]; exact h), e]

/-- The end of an instruction: the group as the instruction left it, the split past it, nothing else. -/
theorem finish_spec (s : State) (g g' : Group) (sp : Split) (len : Nat) (hg : s.group? g.uid = some g) (hs : g.split? sp.slot = some sp)
    (hu : g'.uid = g.uid) (hsp : g'.splits = g.splits) :
    OnlyGroup s (finish s g' sp len) g (g'.setSplit (sp.next len)) ∧ OnlySplit g (g'.setSplit (sp.next len)) sp (sp.next len) ∧
      AtPc sp (sp.next len) (sp.pc + BitVec.ofNat 54 len) :=
  ⟨onlyGroup_setGroup s g _ hg hu, onlySplit_setSplit g g' sp _ hs hsp rfl, rfl⟩

/-- An instruction that ends with `finish` completes. -/
theorem completes_finish (i : Instr) (s : State) (g g' : Group) (sp : Split) (len : Nat) (P : Group → Prop)
    (he : exec i s = .next (finish s g' sp len)) (hg : s.group? g.uid = some g) (hs : g.split? sp.slot = some sp)
    (hu : g'.uid = g.uid) (hsp : g'.splits = g.splits) (hP : P (g'.setSplit (sp.next len))) : Completes i s g sp (sp.pc + BitVec.ofNat 54 len) P :=
  let r := finish_spec s g g' sp len hg hs hu hsp
  ⟨_, _, _, he, r.1, r.2.1, r.2.2, hP⟩

/-- What a short instruction that writes an S register does. -/
theorem writesS_finish (i : Instr) (s : State) (g : Group) (sp : Split) (len d : Nat) (v : DWord)
    (he : exec i s = .next (finish s (g.setS d v) sp len)) (hg : s.group? g.uid = some g) (hs : g.split? sp.slot = some sp) :
    WritesS i s g sp (sp.pc + BitVec.ofNat 54 len) d v := by
  refine completes_finish i s g _ sp len _ he hg hs (by simp) (by simp) ⟨?_, fun r => ?_⟩
  · unfold Group.setS Group.setSplit; split <;> rfl
  · exact Group.sReg_setS g d r v

/-- What an instruction that writes a K register does. -/
theorem writesK_finish (i : Instr) (s : State) (g : Group) (sp : Split) (len d : Nat) (v : Bool)
    (he : exec i s = .next (finish s (g.setK d v) sp len)) (hg : s.group? g.uid = some g) (hs : g.split? sp.slot = some sp) :
    WritesK i s g sp (sp.pc + BitVec.ofNat 54 len) d v := by
  refine completes_finish i s g _ sp len _ he hg hs (by simp) (by simp) ⟨?_, fun r => ?_⟩
  · unfold Group.setK Group.setSplit; split <;> rfl
  · exact Group.kReg_setK g d r v

/-- What a lane-class instruction of fixed latency does. -/
theorem lanesBecome_finish (i : Instr) (h : Hdr) (legal : Group → Split → Bool) (f : State → Group → Nat → Lane → Lane) (s : State) (g : Group) (sp : Split)
    (he : exec i s = asLanes i h legal (fun s g sp ls => finish s (g.modLanes ls (f s g)) sp 12) s) (hr : Ready i h s g sp)
    (hl : legal g sp = true) : LanesBecome i h s g sp (fun l => f s g l (g.lane l)) := by
  have hx : exec i s = .next (finish s (g.modLanes (activeLanes g sp h) (f s g)) sp 12) := by
    rw [he, asLanes_ready i h legal _ s g sp hr hl]
    split
    · rename_i h0
      rw [List.isEmpty_iff.mp h0]; rfl
    · rfl
  refine completes_finish i s g _ sp 12 _ hx hr.group hr.split (by simp) (by simp) ⟨?_, fun l => ?_⟩
  · rw [Group.modLanes_rest g]; rfl
  · have h1 := Group.lane_modLanes g (activeLanes g sp h) (f s g) l (activeLanes_nodup g sp h)
    have h2 : ((g.modLanes (activeLanes g sp h) (f s g)).setSplit (sp.next 12)).lane l = (g.modLanes (activeLanes g sp h) (f s g)).lane l := rfl
    rw [h2, h1]
    simp only [mem_activeLanes, Bool.and_eq_true]

/-- What a lane-class instruction of variable latency does that has room: `L` is the group with the draws taken. -/
theorem laterWrites_later (i : Instr) (h : Hdr) (legal : Group → Split → Bool) (L : State → Group → List Nat → Group)
    (ws : State → Group → List Nat → List RegWrite) (k : Nat → Nat) (s : State) (g : Group) (sp : Split)
    (he : exec i s = asLanes i h legal (fun s g sp ls => withRoom true none s g sp (finishLater s (L s g ls) sp (ws s g ls) 12)) s)
    (hL : L s g (activeLanes g sp h) = { g with lanes := (L s g (activeLanes g sp h)).lanes })
    (hk : ∀ l, (L s g (activeLanes g sp h)).lane l =
      if l ∈ activeLanes g sp h then { g.lane l with draw := (g.lane l).draw + dw (k l) } else g.lane l)
    (hr : Ready i h s g sp) (hl : legal g sp = true) (hp : sp.pend.length < 16) (ha : activeLanes g sp h ≠ []) :
    LaterWrites i h s g sp k (ws s g (activeLanes g sp h)) := by
  have hx := exec_lanes he hr hl
  have h1 : (activeLanes g sp h).isEmpty = false := by simpa using ha
  have h2 : ¬ (16 ≤ sp.pend.length) := by omega
  have h3 : withRoom true none s g sp (finishLater s (L s g (activeLanes g sp h)) sp (ws s g (activeLanes g sp h)) 12) =
      finishLater s (L s g (activeLanes g sp h)) sp (ws s g (activeLanes g sp h)) 12 := by simp [withRoom, h2]
  rw [h1] at hx
  simp only [Bool.false_eq_true, if_false] at hx
  rw [h3] at hx
  generalize hG : L s g (activeLanes g sp h) = G at hx hL hk
  have hu : G.uid = g.uid := by rw [hL]
  have hs : G.splits = g.splits := by rw [hL]
  have o := onlyGroup_setGroup { s with uid := s.uid + 1 } g (G.setSplit ((sp.addPend s.uid (ws s g (activeLanes g sp h))).next 12)) hr.group hu
  refine ⟨_, _, (sp.addPend s.uid (ws s g (activeLanes g sp h))).next 12, hx, ⟨rfl, o.group, o.others⟩,
    onlySplit_setSplit g G sp _ hr.split hs rfl, ?_, ?_, rfl⟩
  · rw [hL]; rfl
  · intro l
    refine (show _ = G.lane l from rfl).trans ((hk l).trans ?_)
    simp only [mem_activeLanes, Bool.and_eq_true]

end Sys2Proof.Machine
end

