-- ==== Sys2Proof/Laws/Memory.lean ====
section
/-! SUPPORT. Memory: reading after writing, and every operation on memory keeps the canonical form. -/

namespace Sys2Proof.Machine

/-! ### One byte -/

theorem memRead_below (m : Memory) (lo a : Nat) (h : memWfFrom lo m = true) (ha : a < lo) : memRead m a = blankByte := by
  induction m generalizing lo with
  | nil => rfl
  | cons c t ih =>
    obtain ⟨x, b⟩ := c
    simp only [memWfFrom, Bool.and_eq_true, decide_eq_true_eq, bne_iff_ne, ne_eq] at h
    rw [memRead, if_neg (by omega), ih (x + 1) h.2 (by omega)]

/-- A byte written is the byte read there; every other byte stays. -/
theorem memRead_memWrite (m : Memory) (lo a x : Nat) (b : Byte) (h : memWfFrom lo m = true) :
    memRead (memWrite m a b) x = if x = a then b else memRead m x := by
  induction m generalizing lo with
  | nil =>
    by_cases hb : b = blankByte
    · simp [memWrite, hb, memRead]
    · simp only [memWrite, hb, if_false, memRead]; split <;> split <;> first | rfl | omega
  | cons c t ih =>
    obtain ⟨y, d⟩ := c
    simp only [memWfFrom, Bool.and_eq_true, decide_eq_true_eq, bne_iff_ne, ne_eq] at h
    obtain ⟨⟨hlo, hd⟩, ht⟩ := h
    rw [memWrite]
    by_cases h1 : a < y
    · rw [if_pos h1]
      by_cases hb : b = blankByte
      · rw [if_pos hb]
        by_cases hx : x = a
        · subst hx
          rw [if_pos rfl, hb, memRead, if_neg (by omega), memRead_below t (y + 1) x ht (by omega)]
        · rw [if_neg hx]
      · rw [if_neg hb, memRead]
        by_cases hx : x = a
        · subst hx; simp
        · rw [if_neg (by omega), if_neg hx]
    · rw [if_neg h1]
      by_cases h2 : a = y
      · subst h2
        rw [if_pos rfl]
        by_cases hb : b = blankByte
        · rw [if_pos hb]
          by_cases hx : x = a
          · subst hx; rw [if_pos rfl, hb, memRead_below t (x + 1) x ht (by omega)]
          · rw [if_neg hx, memRead, if_neg (by omega)]
        · rw [if_neg hb, memRead, memRead]
          by_cases hx : x = a
          · subst hx; simp
          · rw [if_neg (by omega), if_neg hx, if_neg (by omega)]
      · rw [if_neg h2, memRead, memRead]
        by_cases hx : y = x
        · subst hx; rw [if_pos rfl, if_neg (by omega), if_pos rfl]
        · rw [if_neg hx, if_neg hx, ih (y + 1) ht]

theorem memWfFrom_weaken (m : Memory) (lo lo' : Nat) (h : memWfFrom lo m = true) (hl : lo' ≤ lo) : memWfFrom lo' m = true := by
  cases m with
  | nil => rfl
  | cons c t =>
    simp only [memWfFrom, Bool.and_eq_true, decide_eq_true_eq] at h ⊢
    exact ⟨⟨by omega, h.1.2⟩, h.2⟩

theorem memWrite_wfFrom (m : Memory) (lo a : Nat) (b : Byte) (h : memWfFrom lo m = true) (ha : lo ≤ a) :
    memWfFrom lo (memWrite m a b) = true := by
  induction m generalizing lo with
  | nil =>
    by_cases hb : b = blankByte
    · simp [memWrite, hb, memWfFrom]
    · simp [memWrite, hb, memWfFrom, ha]
  | cons c t ih =>
    obtain ⟨y, d⟩ := c
    have h0 := h
    simp only [memWfFrom, Bool.and_eq_true, decide_eq_true_eq, bne_iff_ne, ne_eq] at h
    obtain ⟨⟨hlo, hd⟩, ht⟩ := h
    rw [memWrite]
    by_cases h1 : a < y
    · rw [if_pos h1]
      by_cases hb : b = blankByte
      · rw [if_pos hb]; exact h0
      · rw [if_neg hb]
        simp only [memWfFrom, Bool.and_eq_true, decide_eq_true_eq, bne_iff_ne, ne_eq]
        exact ⟨⟨ha, hb⟩, ⟨by omega, hd⟩, ht⟩
    · rw [if_neg h1]
      by_cases h2 : a = y
      · rw [if_pos h2]
        by_cases hb : b = blankByte
        · rw [if_pos hb]; exact memWfFrom_weaken t _ _ ht (by omega)
        · rw [if_neg hb]
          simp only [memWfFrom, Bool.and_eq_true, decide_eq_true_eq, bne_iff_ne, ne_eq]
          exact ⟨⟨ha, hb⟩, by rw [h2]; exact ht⟩
      · rw [if_neg h2]
        simp only [memWfFrom, Bool.and_eq_true, decide_eq_true_eq, bne_iff_ne, ne_eq]
        exact ⟨⟨hlo, hd⟩, ih (y + 1) ht (by omega)⟩

theorem memWrite_wf (m : Memory) (a : Nat) (b : Byte) (h : Memory.wf m = true) : Memory.wf (memWrite m a b) = true :=
  memWrite_wfFrom m 0 a b h (Nat.zero_le a)

/-- Equal contents in canonical form are equal memories. -/
theorem memory_ext (m n : Memory) (lo : Nat) (hm : memWfFrom lo m = true) (hn : memWfFrom lo n = true)
    (h : ∀ a, memRead m a = memRead n a) : m = n := by
  induction m generalizing n lo with
  | nil =>
    cases n with
    | nil => rfl
    | cons c t =>
      obtain ⟨y, d⟩ := c
      simp only [memWfFrom, Bool.and_eq_true, decide_eq_true_eq, bne_iff_ne, ne_eq] at hn
      have := h y
      simp only [memRead, if_true] at this
      exact absurd this.symm hn.1.2
  | cons c t ih =>
    obtain ⟨x, b⟩ := c
    have hm' := hm
    simp only [memWfFrom, Bool.and_eq_true, decide_eq_true_eq, bne_iff_ne, ne_eq] at hm
    cases n with
    | nil =>
      have := h x
      simp only [memRead, if_true] at this
      exact absurd this hm.1.2
    | cons c' t' =>
      obtain ⟨y, d⟩ := c'
      have hn' := hn
      simp only [memWfFrom, Bool.and_eq_true, decide_eq_true_eq, bne_iff_ne, ne_eq] at hn
      have hxy : x = y := by
        rcases Nat.lt_trichotomy x y with hlt | heq | hgt
        · have h1 := h x
          rw [memRead, if_pos rfl, memRead, if_neg (by omega), memRead_below t' (y + 1) x hn.2 (by omega)] at h1
          exact absurd h1 hm.1.2
        · exact heq
        · have h1 := h y
          rw [memRead, if_neg (by omega), memRead_below t (x + 1) y hm.2 (by omega), memRead, if_pos rfl] at h1
          exact absurd h1.symm hn.1.2
      subst hxy
      have hbd : b = d := by
        have h1 := h x
        rwa [memRead, if_pos rfl, memRead, if_pos rfl] at h1
      subst hbd
      have ht : t = t' := ih t' (x + 1) hm.2 hn.2 (fun a => by
        have h1 := h a
        by_cases ha : x = a
        · subst ha
          rw [memRead_below t (x + 1) x hm.2 (by omega), memRead_below t' (x + 1) x hn.2 (by omega)]
        · rwa [memRead, if_neg ha, memRead, if_neg ha] at h1)
      rw [ht]

/-! ### Ranges -/

theorem memWriteNat_wf (m : Memory) (a n v : Nat) (h : Memory.wf m = true) : Memory.wf (memWriteNat m a n v) = true := by
  induction n generalizing m a v with
  | zero => exact h
  | succ n ih => exact ih _ _ _ (memWrite_wf _ _ _ h)

theorem memWriteBytes_wf (m : Memory) (a : Nat) (bs : List Byte) (h : Memory.wf m = true) : Memory.wf (memWriteBytes m a bs) = true := by
  induction bs generalizing m a with
  | nil => exact h
  | cons b bs ih => exact ih _ _ (memWrite_wf _ _ _ h)

theorem memWfFrom_filter (m : Memory) (lo : Nat) (p : Host.Cell → Bool) (h : memWfFrom lo m = true) : memWfFrom lo (m.filter p) = true := by
  induction m generalizing lo with
  | nil => rfl
  | cons c t ih =>
    obtain ⟨x, b⟩ := c
    simp only [memWfFrom, Bool.and_eq_true, decide_eq_true_eq, bne_iff_ne, ne_eq] at h
    by_cases hp : p (x, b) = true
    · rw [List.filter_cons_of_pos hp]
      simp only [memWfFrom, Bool.and_eq_true, decide_eq_true_eq, bne_iff_ne, ne_eq]
      exact ⟨h.1, ih _ h.2⟩
    · rw [List.filter_cons_of_neg hp]
      exact ih _ (memWfFrom_weaken t _ _ h.2 (by omega))

theorem memClear_wf (m : Memory) (a n : Nat) (h : Memory.wf m = true) : Memory.wf (memClear m a n) = true := memWfFrom_filter m 0 _ h

/-- A range cleared reads blank; every other byte stays. -/
theorem memRead_memClear (m : Memory) (a n x : Nat) :
    memRead (memClear m a n) x = if a ≤ x ∧ x < a + n then blankByte else memRead m x := by
  induction m with
  | nil => simp [memClear, memRead]
  | cons c t ih =>
    obtain ⟨y, b⟩ := c
    simp only [memClear] at ih
    by_cases hy : y < a ∨ a + n ≤ y
    · have : memClear ((y, b) :: t) a n = (y, b) :: memClear t a n := by
        unfold memClear; rw [List.filter_cons_of_pos]; simpa using hy
      rw [this, memRead, memRead]
      by_cases hx : y = x
      · subst hx; rw [if_pos rfl, if_pos rfl, if_neg (by omega)]
      · rw [if_neg hx, if_neg hx]; exact ih
    · have : memClear ((y, b) :: t) a n = memClear t a n := by
        unfold memClear; rw [List.filter_cons_of_neg]; simp; omega
      rw [this, memRead]
      by_cases hx : y = x
      · subst hx; rw [if_pos rfl, if_pos (by omega)]
        exact ih.trans (by rw [if_pos (by omega)])
      · rw [if_neg hx]; exact ih

/-- The bytes of a number written are the bytes read; every byte outside stays. -/
theorem memRead_memWriteNat (m : Memory) (a n v x : Nat) (h : Memory.wf m = true) :
    memRead (memWriteNat m a n v) x = if a ≤ x ∧ x < a + n then BitVec.ofNat 8 (v / 256 ^ (x - a)) else memRead m x := by
  induction n generalizing m a v with
  | zero => rw [memWriteNat, if_neg (by omega)]
  | succ n ih =>
    rw [memWriteNat, ih _ _ _ (memWrite_wf _ _ _ h), memRead_memWrite m 0 a x _ h]
    by_cases h1 : a + 1 ≤ x ∧ x < a + 1 + n
    · rw [if_pos h1, if_pos (by omega)]
      have : x - a = 1 + (x - (a + 1)) := by omega
      rw [this, Nat.pow_add, Nat.pow_one, Nat.div_div_eq_div_mul]
    · rw [if_neg h1]
      by_cases h2 : x = a
      · subst h2; simp
      · rw [if_neg h2, if_neg (by omega)]

theorem memReadNat_congr (m m' : Memory) (a n : Nat) (h : ∀ x, a ≤ x → x < a + n → memRead m x = memRead m' x) :
    memReadNat m a n = memReadNat m' a n := by
  induction n generalizing a with
  | zero => rfl
  | succ n ih =>
    simp only [memReadNat]
    rw [h a (by omega) (by omega), ih (a + 1) (fun x h1 h2 => h x (by omega) (by omega))]

/-- A number written reads back, as far as its bytes go. -/
theorem memReadNat_memWriteNat (m : Memory) (a n v : Nat) (h : Memory.wf m = true) :
    memReadNat (memWriteNat m a n v) a n = v % 256 ^ n := by
  induction n generalizing m a v with
  | zero => simp [memReadNat, Nat.mod_one]
  | succ n ih =>
    have hw := memWrite_wf m a (BitVec.ofNat 8 v) h
    have h1 : memRead (memWriteNat m a (n + 1) v) a = BitVec.ofNat 8 v := by
      rw [memRead_memWriteNat _ _ _ _ _ h, if_pos (by omega)]; simp
    rw [memReadNat, h1, memWriteNat, ih _ _ _ hw, Nat.pow_succ, Nat.mul_comm (256 ^ n), Nat.mod_mul]
    simp

/-- A number written leaves every number outside it. -/
theorem memReadNat_memWriteNat_other (m : Memory) (a n v b k : Nat) (h : Memory.wf m = true) (hd : b + k ≤ a ∨ a + n ≤ b) :
    memReadNat (memWriteNat m a n v) b k = memReadNat m b k :=
  memReadNat_congr _ _ _ _ (fun x h1 h2 => by rw [memRead_memWriteNat _ _ _ _ _ h, if_neg (by omega)])

/-- Bytes put into a cleared range, blank ones left out: each is read where it was put. -/
theorem memRead_fillFold (f : Nat → Byte) (a n x : Nat) (m : Memory) (h : Memory.wf m = true) (hb : ∀ i, i < n → memRead m (a + i) = blankByte) :
    let r := (List.range n).foldl (fun m i => if f i = blankByte then m else memWrite m (a + i) (f i)) m
    Memory.wf r = true ∧ memRead r x = if a ≤ x ∧ x < a + n then f (x - a) else memRead m x := by
  induction n with
  | zero => exact ⟨h, by rw [if_neg (by omega)]; rfl⟩
  | succ n ih =>
    obtain ⟨hw, hr⟩ := ih (fun i hi => hb i (by omega))
    simp only [List.range_succ, List.foldl_append, List.foldl_cons, List.foldl_nil]
    split
    · rename_i hf
      refine ⟨hw, hr.trans ?_⟩
      by_cases hx : x = a + n
      · subst hx; rw [if_neg (by omega), if_pos (by omega), hb n (by omega), Nat.add_sub_cancel_left, hf]
      · split <;> split <;> first | rfl | omega
    · refine ⟨memWrite_wf _ _ _ hw, ?_⟩
      rw [memRead_memWrite _ 0 _ _ _ hw, hr]
      by_cases hx : x = a + n
      · subst hx; rw [if_pos rfl, if_pos (by omega), Nat.add_sub_cancel_left]
      · rw [if_neg hx]; split <;> split <;> first | rfl | omega

theorem memFill_wf (m : Memory) (a n : Nat) (f : Nat → Byte) (h : Memory.wf m = true) : Memory.wf (memFill m a n f) = true :=
  (memRead_fillFold f a n 0 (memClear m a n) (memClear_wf m a n h) (fun i hi => by rw [memRead_memClear, if_pos (by omega)])).1

/-- A range filled holds the bytes given; every other byte stays. -/
theorem memRead_memFill (m : Memory) (a n x : Nat) (f : Nat → Byte) (h : Memory.wf m = true) :
    memRead (memFill m a n f) x = if a ≤ x ∧ x < a + n then f (x - a) else memRead m x := by
  refine (memRead_fillFold f a n x (memClear m a n) (memClear_wf m a n h) (fun i hi => by rw [memRead_memClear, if_pos (by omega)])).2.trans ?_
  split
  · rfl
  · rename_i hx; rw [memRead_memClear, if_neg hx]

/-- Listed bytes copied one after another: each listed byte is read at its new place. -/
theorem memRead_copyFold (l : Memory) (lo a b x : Nat) (m : Memory) (hl : memWfFrom lo l = true) (hlo : b ≤ lo) (h : Memory.wf m = true) :
    let r := l.foldl (fun m c => memWrite m (a + (c.1 - b)) c.2) m
    Memory.wf r = true ∧ memRead r x = if a ≤ x ∧ memRead l (b + (x - a)) ≠ blankByte then memRead l (b + (x - a)) else memRead m x := by
  induction l generalizing lo m with
  | nil => exact ⟨h, by simp [memRead]⟩
  | cons c t ih =>
    obtain ⟨y, d⟩ := c
    simp only [memWfFrom, Bool.and_eq_true, decide_eq_true_eq, bne_iff_ne, ne_eq] at hl
    obtain ⟨hw, hr⟩ := ih (y + 1) (memWrite m (a + (y - b)) d) hl.2 (by omega) (memWrite_wf _ _ _ h)
    refine ⟨hw, hr.trans ?_⟩
    rw [memRead_memWrite m 0 _ _ _ h]
    by_cases hx : a ≤ x ∧ y = b + (x - a)
    · have hz : memRead t (b + (x - a)) = blankByte := memRead_below t (y + 1) _ hl.2 (by omega)
      rw [memRead, if_pos hx.2, hz, if_neg (by simp), if_pos (by omega), if_pos ⟨hx.1, hl.1.2⟩]
    · by_cases ha : a ≤ x
      · rw [memRead, if_neg (fun e => hx ⟨ha, e⟩)]
        split
        · rfl
        · rw [if_neg (by omega)]
      · rw [if_neg (by omega), if_neg (by omega), if_neg (by omega)]

/-- The bytes of a range, and no others, are listed in the range of a memory. -/
theorem memRead_filterRange (m : Memory) (b n z : Nat) :
    memRead (m.filter (fun c => b ≤ c.1 && c.1 < b + n)) z = if b ≤ z ∧ z < b + n then memRead m z else blankByte := by
  induction m with
  | nil => simp [memRead]
  | cons c t ih =>
    obtain ⟨y, d⟩ := c
    by_cases hy : b ≤ y ∧ y < b + n
    · rw [List.filter_cons_of_pos (by simpa using hy), memRead, memRead, ih]
      by_cases hz : y = z
      · subst hz; rw [if_pos rfl, if_pos rfl, if_pos hy]
      · rw [if_neg hz, if_neg hz]
    · rw [List.filter_cons_of_neg (by simpa using hy), memRead, ih]
      by_cases hz : y = z
      · subst hz; rw [if_neg hy, if_neg hy]
      · rw [if_neg hz]

theorem memWfFrom_filterRange (m : Memory) (b n lo : Nat) (h : memWfFrom lo m = true) :
    memWfFrom b (m.filter (fun c => b ≤ c.1 && c.1 < b + n)) = true := by
  induction m generalizing lo with
  | nil => rfl
  | cons c t ih =>
    obtain ⟨y, d⟩ := c
    simp only [memWfFrom, Bool.and_eq_true, decide_eq_true_eq, bne_iff_ne, ne_eq] at h
    by_cases hy : b ≤ y ∧ y < b + n
    · rw [List.filter_cons_of_pos (by simpa using hy)]
      simp only [memWfFrom, Bool.and_eq_true, decide_eq_true_eq, bne_iff_ne, ne_eq]
      exact ⟨⟨hy.1, h.1.2⟩, memWfFrom_filter t _ _ h.2⟩
    · rw [List.filter_cons_of_neg (by simpa using hy)]
      exact ih _ h.2

theorem memMove_wf (dst src : Memory) (a b n : Nat) (hd : Memory.wf dst = true) (hs : Memory.wf src = true) :
    Memory.wf (memMove dst a src b n) = true :=
  (memRead_copyFold _ b a b 0 _ (memWfFrom_filterRange src b n 0 hs) (Nat.le_refl b) (memClear_wf dst a n hd)).1

/-- A range moved holds what the source range held; every other byte stays. -/
theorem memRead_memMove (dst src : Memory) (a b n x : Nat) (hd : Memory.wf dst = true) (hs : Memory.wf src = true) :
    memRead (memMove dst a src b n) x = if a ≤ x ∧ x < a + n then memRead src (b + (x - a)) else memRead dst x := by
  refine (memRead_copyFold _ b a b x _ (memWfFrom_filterRange src b n 0 hs) (Nat.le_refl b) (memClear_wf dst a n hd)).2.trans ?_
  rw [memRead_filterRange, memRead_memClear]
  by_cases hx : a ≤ x ∧ x < a + n
  · rw [if_pos hx, if_pos hx, if_pos (show b ≤ b + (x - a) ∧ b + (x - a) < b + n by omega)]
    by_cases hz : memRead src (b + (x - a)) = blankByte
    · rw [if_neg (by simp [hz]), hz]
    · rw [if_pos ⟨hx.1, hz⟩]
  · rw [if_neg hx, if_neg hx]
    by_cases ha : a ≤ x
    · rw [if_neg (show ¬ (b ≤ b + (x - a) ∧ b + (x - a) < b + n) by omega), if_neg (by simp)]
    · rw [if_neg (by omega)]

/-- Dirty bytes sent to the home keep the canonical form. -/
theorem writeDirty_wf (m : Memory) (c : CacheLine) (l : List Nat) (h : Memory.wf m = true) : Memory.wf (writeDirty m c l) = true := by
  induction l generalizing m with
  | nil => exact h
  | cons i l ih =>
    rw [writeDirty]
    split
    · exact ih _ (memWrite_wf _ _ _ h)
    · exact ih _ h

theorem reset_hbm_wf : Memory.wf State.reset.hbm = true := rfl

end Sys2Proof.Machine
end

