-- ==== Sys2Proof/Laws/PerInstr.lean ====
section
/-! SUPPORT. Per instruction: what its encoding looks like. -/

namespace Sys2Proof.Laws.EncodedWords

/-- One short word or three words with a long first one for Kloam, two halves for lauter, one word for steep, none for a row with no
encoding (R144, R148, R268, R354). -/
def Statement (i : Instr) : Prop :=
  match i.isa with
  | some .kloam => (∃ w, encode i = [w] ∧ isLong w = false) ∨ (∃ w0 w1 w2, encode i = [w0, w1, w2] ∧ isLong w0 = true)
  | some .lauter => ∃ w0 w1, encode i = [w0, w1]
  | some .steep => ∃ w, encode i = [w]
  | none => encode i = []

theorem nop (h : Hdr) : Statement (.nop h) := .inl ⟨_, rfl, isLong_packShort _ _ _⟩
theorem smov (h : Hdr) (f : SRF) : Statement (.smov h f) := .inl ⟨_, rfl, isLong_packShort _ _ _⟩
theorem sli (h : Hdr) (f : SIF) : Statement (.sli h f) := .inl ⟨_, rfl, isLong_packShort _ _ _⟩
theorem sshi (h : Hdr) (f : SIF) : Statement (.sshi h f) := .inl ⟨_, rfl, isLong_packShort _ _ _⟩
theorem sadd (h : Hdr) (f : SRF) : Statement (.sadd h f) := .inl ⟨_, rfl, isLong_packShort _ _ _⟩
theorem ssub (h : Hdr) (f : SRF) : Statement (.ssub h f) := .inl ⟨_, rfl, isLong_packShort _ _ _⟩
theorem smul (h : Hdr) (f : SRF) : Statement (.smul h f) := .inl ⟨_, rfl, isLong_packShort _ _ _⟩
theorem smulh (h : Hdr) (f : SRF) : Statement (.smulh h f) := .inl ⟨_, rfl, isLong_packShort _ _ _⟩
theorem sand (h : Hdr) (f : SRF) : Statement (.sand h f) := .inl ⟨_, rfl, isLong_packShort _ _ _⟩
theorem sor (h : Hdr) (f : SRF) : Statement (.sor h f) := .inl ⟨_, rfl, isLong_packShort _ _ _⟩
theorem sxor (h : Hdr) (f : SRF) : Statement (.sxor h f) := .inl ⟨_, rfl, isLong_packShort _ _ _⟩
theorem sshl (h : Hdr) (f : SRF) : Statement (.sshl h f) := .inl ⟨_, rfl, isLong_packShort _ _ _⟩
theorem sshr (h : Hdr) (f : SRF) : Statement (.sshr h f) := .inl ⟨_, rfl, isLong_packShort _ _ _⟩
theorem ssra (h : Hdr) (f : SRF) : Statement (.ssra h f) := .inl ⟨_, rfl, isLong_packShort _ _ _⟩
theorem smin (h : Hdr) (f : SRF) : Statement (.smin h f) := .inl ⟨_, rfl, isLong_packShort _ _ _⟩
theorem smax (h : Hdr) (f : SRF) : Statement (.smax h f) := .inl ⟨_, rfl, isLong_packShort _ _ _⟩
theorem scmp (h : Hdr) (f : SRF) : Statement (.scmp h f) := .inl ⟨_, rfl, isLong_packShort _ _ _⟩
theorem klop (h : Hdr) (f : SRF) : Statement (.klop h f) := .inl ⟨_, rfl, isLong_packShort _ _ _⟩
theorem spopc (h : Hdr) (f : SRF) : Statement (.spopc h f) := .inl ⟨_, rfl, isLong_packShort _ _ _⟩
theorem sclz (h : Hdr) (f : SRF) : Statement (.sclz h f) := .inl ⟨_, rfl, isLong_packShort _ _ _⟩
theorem sld (h : Hdr) (f : SRF) : Statement (.sld h f) := .inl ⟨_, rfl, isLong_packShort _ _ _⟩
theorem sst (h : Hdr) (f : SRF) : Statement (.sst h f) := .inl ⟨_, rfl, isLong_packShort _ _ _⟩
theorem srd (h : Hdr) (f : SIF) : Statement (.srd h f) := .inl ⟨_, rfl, isLong_packShort _ _ _⟩
theorem swr (h : Hdr) (f : SIF) : Statement (.swr h f) := .inl ⟨_, rfl, isLong_packShort _ _ _⟩
theorem jmp (h : Hdr) (f : SBF) : Statement (.jmp h f) := .inl ⟨_, rfl, isLong_packShort _ _ _⟩
theorem call (h : Hdr) (f : SBF) : Statement (.call h f) := .inl ⟨_, rfl, isLong_packShort _ _ _⟩
theorem jr (h : Hdr) (f : SRF) : Statement (.jr h f) := .inl ⟨_, rfl, isLong_packShort _ _ _⟩
theorem join (h : Hdr) : Statement (.join h) := .inl ⟨_, rfl, isLong_packShort _ _ _⟩
theorem exit (h : Hdr) : Statement (.exit h) := .inl ⟨_, rfl, isLong_packShort _ _ _⟩
theorem trap (h : Hdr) (f : SIF) : Statement (.trap h f) := .inl ⟨_, rfl, isLong_packShort _ _ _⟩
theorem syscall (h : Hdr) (f : SIF) : Statement (.syscall h f) := .inl ⟨_, rfl, isLong_packShort _ _ _⟩
theorem eret (h : Hdr) : Statement (.eret h) := .inl ⟨_, rfl, isLong_packShort _ _ _⟩
theorem waitc (h : Hdr) (f : SRF) : Statement (.waitc h f) := .inl ⟨_, rfl, isLong_packShort _ _ _⟩
theorem bar (h : Hdr) (f : SRF) : Statement (.bar h f) := .inl ⟨_, rfl, isLong_packShort _ _ _⟩
theorem yield (h : Hdr) : Statement (.yield h) := .inl ⟨_, rfl, isLong_packShort _ _ _⟩
theorem sleep (h : Hdr) (f : SRF) : Statement (.sleep h f) := .inl ⟨_, rfl, isLong_packShort _ _ _⟩
theorem dwb (h : Hdr) (f : SRF) : Statement (.dwb h f) := .inl ⟨_, rfl, isLong_packShort _ _ _⟩
theorem dinv (h : Hdr) (f : SRF) : Statement (.dinv h f) := .inl ⟨_, rfl, isLong_packShort _ _ _⟩
theorem icinv (h : Hdr) (f : SRF) : Statement (.icinv h f) := .inl ⟨_, rfl, isLong_packShort _ _ _⟩
theorem fetchb (h : Hdr) : Statement (.fetchb h) := .inl ⟨_, rfl, isLong_packShort _ _ _⟩
theorem mov (h : Hdr) (f : LongF) : Statement (.mov h f) := .inr ⟨_, _, _, rfl, isLong_packLong0 _ _ _⟩
theorem movi (h : Hdr) (f : LongF) : Statement (.movi h f) := .inr ⟨_, _, _, rfl, isLong_packLong0 _ _ _⟩
theorem iadd (h : Hdr) (f : LongF) : Statement (.iadd h f) := .inr ⟨_, _, _, rfl, isLong_packLong0 _ _ _⟩
theorem isub (h : Hdr) (f : LongF) : Statement (.isub h f) := .inr ⟨_, _, _, rfl, isLong_packLong0 _ _ _⟩
theorem imul (h : Hdr) (f : LongF) : Statement (.imul h f) := .inr ⟨_, _, _, rfl, isLong_packLong0 _ _ _⟩
theorem imulh (h : Hdr) (f : LongF) : Statement (.imulh h f) := .inr ⟨_, _, _, rfl, isLong_packLong0 _ _ _⟩
theorem imad (h : Hdr) (f : LongF) : Statement (.imad h f) := .inr ⟨_, _, _, rfl, isLong_packLong0 _ _ _⟩
theorem imin (h : Hdr) (f : LongF) : Statement (.imin h f) := .inr ⟨_, _, _, rfl, isLong_packLong0 _ _ _⟩
theorem imax (h : Hdr) (f : LongF) : Statement (.imax h f) := .inr ⟨_, _, _, rfl, isLong_packLong0 _ _ _⟩
theorem iabs (h : Hdr) (f : LongF) : Statement (.iabs h f) := .inr ⟨_, _, _, rfl, isLong_packLong0 _ _ _⟩
theorem ineg (h : Hdr) (f : LongF) : Statement (.ineg h f) := .inr ⟨_, _, _, rfl, isLong_packLong0 _ _ _⟩
theorem land (h : Hdr) (f : LongF) : Statement (.land h f) := .inr ⟨_, _, _, rfl, isLong_packLong0 _ _ _⟩
theorem lor (h : Hdr) (f : LongF) : Statement (.lor h f) := .inr ⟨_, _, _, rfl, isLong_packLong0 _ _ _⟩
theorem lxor (h : Hdr) (f : LongF) : Statement (.lxor h f) := .inr ⟨_, _, _, rfl, isLong_packLong0 _ _ _⟩
theorem logt (h : Hdr) (f : LongF) : Statement (.logt h f) := .inr ⟨_, _, _, rfl, isLong_packLong0 _ _ _⟩
theorem shl (h : Hdr) (f : LongF) : Statement (.shl h f) := .inr ⟨_, _, _, rfl, isLong_packLong0 _ _ _⟩
theorem shr (h : Hdr) (f : LongF) : Statement (.shr h f) := .inr ⟨_, _, _, rfl, isLong_packLong0 _ _ _⟩
theorem sra (h : Hdr) (f : LongF) : Statement (.sra h f) := .inr ⟨_, _, _, rfl, isLong_packLong0 _ _ _⟩
theorem bfe (h : Hdr) (f : LongF) : Statement (.bfe h f) := .inr ⟨_, _, _, rfl, isLong_packLong0 _ _ _⟩
theorem bfi (h : Hdr) (f : LongF) : Statement (.bfi h f) := .inr ⟨_, _, _, rfl, isLong_packLong0 _ _ _⟩
theorem popc (h : Hdr) (f : LongF) : Statement (.popc h f) := .inr ⟨_, _, _, rfl, isLong_packLong0 _ _ _⟩
theorem clz (h : Hdr) (f : LongF) : Statement (.clz h f) := .inr ⟨_, _, _, rfl, isLong_packLong0 _ _ _⟩
theorem brev (h : Hdr) (f : LongF) : Statement (.brev h f) := .inr ⟨_, _, _, rfl, isLong_packLong0 _ _ _⟩
theorem icmp (h : Hdr) (f : LongF) : Statement (.icmp h f) := .inr ⟨_, _, _, rfl, isLong_packLong0 _ _ _⟩
theorem sel (h : Hdr) (f : LongF) : Statement (.sel h f) := .inr ⟨_, _, _, rfl, isLong_packLong0 _ _ _⟩
theorem idiv (h : Hdr) (f : LongF) : Statement (.idiv h f) := .inr ⟨_, _, _, rfl, isLong_packLong0 _ _ _⟩
theorem irem (h : Hdr) (f : LongF) : Statement (.irem h f) := .inr ⟨_, _, _, rfl, isLong_packLong0 _ _ _⟩
theorem idot4 (h : Hdr) (f : LongF) : Statement (.idot4 h f) := .inr ⟨_, _, _, rfl, isLong_packLong0 _ _ _⟩
theorem bsel (h : Hdr) (f : LongF) : Statement (.bsel h f) := .inr ⟨_, _, _, rfl, isLong_packLong0 _ _ _⟩
theorem nlut (h : Hdr) (f : LongF) : Statement (.nlut h f) := .inr ⟨_, _, _, rfl, isLong_packLong0 _ _ _⟩
theorem plop (h : Hdr) (f : LongF) : Statement (.plop h f) := .inr ⟨_, _, _, rfl, isLong_packLong0 _ _ _⟩
theorem ptov (h : Hdr) (f : LongF) : Statement (.ptov h f) := .inr ⟨_, _, _, rfl, isLong_packLong0 _ _ _⟩
theorem vtop (h : Hdr) (f : LongF) : Statement (.vtop h f) := .inr ⟨_, _, _, rfl, isLong_packLong0 _ _ _⟩
theorem fadd (h : Hdr) (f : LongF) : Statement (.fadd h f) := .inr ⟨_, _, _, rfl, isLong_packLong0 _ _ _⟩
theorem fsub (h : Hdr) (f : LongF) : Statement (.fsub h f) := .inr ⟨_, _, _, rfl, isLong_packLong0 _ _ _⟩
theorem fmul (h : Hdr) (f : LongF) : Statement (.fmul h f) := .inr ⟨_, _, _, rfl, isLong_packLong0 _ _ _⟩
theorem ffma (h : Hdr) (f : LongF) : Statement (.ffma h f) := .inr ⟨_, _, _, rfl, isLong_packLong0 _ _ _⟩
theorem fmin (h : Hdr) (f : LongF) : Statement (.fmin h f) := .inr ⟨_, _, _, rfl, isLong_packLong0 _ _ _⟩
theorem fmax (h : Hdr) (f : LongF) : Statement (.fmax h f) := .inr ⟨_, _, _, rfl, isLong_packLong0 _ _ _⟩
theorem fcmp (h : Hdr) (f : LongF) : Statement (.fcmp h f) := .inr ⟨_, _, _, rfl, isLong_packLong0 _ _ _⟩
theorem fdiv (h : Hdr) (f : LongF) : Statement (.fdiv h f) := .inr ⟨_, _, _, rfl, isLong_packLong0 _ _ _⟩
theorem fsqrt (h : Hdr) (f : LongF) : Statement (.fsqrt h f) := .inr ⟨_, _, _, rfl, isLong_packLong0 _ _ _⟩
theorem frcp (h : Hdr) (f : LongF) : Statement (.frcp h f) := .inr ⟨_, _, _, rfl, isLong_packLong0 _ _ _⟩
theorem frsq (h : Hdr) (f : LongF) : Statement (.frsq h f) := .inr ⟨_, _, _, rfl, isLong_packLong0 _ _ _⟩
theorem fex2 (h : Hdr) (f : LongF) : Statement (.fex2 h f) := .inr ⟨_, _, _, rfl, isLong_packLong0 _ _ _⟩
theorem flg2 (h : Hdr) (f : LongF) : Statement (.flg2 h f) := .inr ⟨_, _, _, rfl, isLong_packLong0 _ _ _⟩
theorem fsin (h : Hdr) (f : LongF) : Statement (.fsin h f) := .inr ⟨_, _, _, rfl, isLong_packLong0 _ _ _⟩
theorem fcos (h : Hdr) (f : LongF) : Statement (.fcos h f) := .inr ⟨_, _, _, rfl, isLong_packLong0 _ _ _⟩
theorem ftanh (h : Hdr) (f : LongF) : Statement (.ftanh h f) := .inr ⟨_, _, _, rfl, isLong_packLong0 _ _ _⟩
theorem fclass (h : Hdr) (f : LongF) : Statement (.fclass h f) := .inr ⟨_, _, _, rfl, isLong_packLong0 _ _ _⟩
theorem fdot2 (h : Hdr) (f : LongF) : Statement (.fdot2 h f) := .inr ⟨_, _, _, rfl, isLong_packLong0 _ _ _⟩
theorem hadd2 (h : Hdr) (f : LongF) : Statement (.hadd2 h f) := .inr ⟨_, _, _, rfl, isLong_packLong0 _ _ _⟩
theorem hmul2 (h : Hdr) (f : LongF) : Statement (.hmul2 h f) := .inr ⟨_, _, _, rfl, isLong_packLong0 _ _ _⟩
theorem hfma2 (h : Hdr) (f : LongF) : Statement (.hfma2 h f) := .inr ⟨_, _, _, rfl, isLong_packLong0 _ _ _⟩
theorem frnd (h : Hdr) (f : LongF) : Statement (.frnd h f) := .inr ⟨_, _, _, rfl, isLong_packLong0 _ _ _⟩
theorem fscale (h : Hdr) (f : LongF) : Statement (.fscale h f) := .inr ⟨_, _, _, rfl, isLong_packLong0 _ _ _⟩
theorem cvt (h : Hdr) (f : LongF) : Statement (.cvt h f) := .inr ⟨_, _, _, rfl, isLong_packLong0 _ _ _⟩
theorem cvpk (h : Hdr) (f : LongF) : Statement (.cvpk h f) := .inr ⟨_, _, _, rfl, isLong_packLong0 _ _ _⟩
theorem cvup (h : Hdr) (f : LongF) : Statement (.cvup h f) := .inr ⟨_, _, _, rfl, isLong_packLong0 _ _ _⟩
theorem qscl (h : Hdr) (f : LongF) : Statement (.qscl h f) := .inr ⟨_, _, _, rfl, isLong_packLong0 _ _ _⟩
theorem qcvt (h : Hdr) (f : LongF) : Statement (.qcvt h f) := .inr ⟨_, _, _, rfl, isLong_packLong0 _ _ _⟩
theorem vxch (h : Hdr) (f : LongF) : Statement (.vxch h f) := .inr ⟨_, _, _, rfl, isLong_packLong0 _ _ _⟩
theorem rdlane (h : Hdr) (f : LongF) : Statement (.rdlane h f) := .inr ⟨_, _, _, rfl, isLong_packLong0 _ _ _⟩
theorem wrlane (h : Hdr) (f : LongF) : Statement (.wrlane h f) := .inr ⟨_, _, _, rfl, isLong_packLong0 _ _ _⟩
theorem vote (h : Hdr) (f : LongF) : Statement (.vote h f) := .inr ⟨_, _, _, rfl, isLong_packLong0 _ _ _⟩
theorem fold (h : Hdr) (f : LongF) : Statement (.fold h f) := .inr ⟨_, _, _, rfl, isLong_packLong0 _ _ _⟩
theorem scan (h : Hdr) (f : LongF) : Statement (.scan h f) := .inr ⟨_, _, _, rfl, isLong_packLong0 _ _ _⟩
theorem samev (h : Hdr) (f : LongF) : Statement (.samev h f) := .inr ⟨_, _, _, rfl, isLong_packLong0 _ _ _⟩
theorem vsrd (h : Hdr) (f : LongF) : Statement (.vsrd h f) := .inr ⟨_, _, _, rfl, isLong_packLong0 _ _ _⟩
theorem elect (h : Hdr) (f : LongF) : Statement (.elect h f) := .inr ⟨_, _, _, rfl, isLong_packLong0 _ _ _⟩
theorem brd (h : Hdr) (f : LongF) : Statement (.brd h f) := .inr ⟨_, _, _, rfl, isLong_packLong0 _ _ _⟩
theorem lexit (h : Hdr) (f : LongF) : Statement (.lexit h f) := .inr ⟨_, _, _, rfl, isLong_packLong0 _ _ _⟩
theorem ld (h : Hdr) (f : LongF) : Statement (.ld h f) := .inr ⟨_, _, _, rfl, isLong_packLong0 _ _ _⟩
theorem st (h : Hdr) (f : LongF) : Statement (.st h f) := .inr ⟨_, _, _, rfl, isLong_packLong0 _ _ _⟩
theorem atom (h : Hdr) (f : LongF) : Statement (.atom h f) := .inr ⟨_, _, _, rfl, isLong_packLong0 _ _ _⟩
theorem acas (h : Hdr) (f : LongF) : Statement (.acas h f) := .inr ⟨_, _, _, rfl, isLong_packLong0 _ _ _⟩
theorem red (h : Hdr) (f : LongF) : Statement (.red h f) := .inr ⟨_, _, _, rfl, isLong_packLong0 _ _ _⟩
theorem redt (h : Hdr) (f : LongF) : Statement (.redt h f) := .inr ⟨_, _, _, rfl, isLong_packLong0 _ _ _⟩
theorem fence (h : Hdr) (f : LongF) : Statement (.fence h f) := .inr ⟨_, _, _, rfl, isLong_packLong0 _ _ _⟩
theorem pref (h : Hdr) (f : LongF) : Statement (.pref h f) := .inr ⟨_, _, _, rfl, isLong_packLong0 _ _ _⟩
theorem arrive (h : Hdr) (f : LongF) : Statement (.arrive h f) := .inr ⟨_, _, _, rfl, isLong_packLong0 _ _ _⟩
theorem waitph (h : Hdr) (f : LongF) : Statement (.waitph h f) := .inr ⟨_, _, _, rfl, isLong_packLong0 _ _ _⟩
theorem rawait (h : Hdr) (f : LongF) : Statement (.rawait h f) := .inr ⟨_, _, _, rfl, isLong_packLong0 _ _ _⟩
theorem rrel (h : Hdr) (f : LongF) : Statement (.rrel h f) := .inr ⟨_, _, _, rfl, isLong_packLong0 _ _ _⟩
theorem qput (h : Hdr) (f : LongF) : Statement (.qput h f) := .inr ⟨_, _, _, rfl, isLong_packLong0 _ _ _⟩
theorem qget (h : Hdr) (f : LongF) : Statement (.qget h f) := .inr ⟨_, _, _, rfl, isLong_packLong0 _ _ _⟩
theorem mma (h : Hdr) (f : LongF) : Statement (.mma h f) := .inr ⟨_, _, _, rfl, isLong_packLong0 _ _ _⟩
theorem mmas (h : Hdr) (f : LongF) : Statement (.mmas h f) := .inr ⟨_, _, _, rfl, isLong_packLong0 _ _ _⟩
theorem aclr (h : Hdr) (f : LongF) : Statement (.aclr h f) := .inr ⟨_, _, _, rfl, isLong_packLong0 _ _ _⟩
theorem ald (h : Hdr) (f : LongF) : Statement (.ald h f) := .inr ⟨_, _, _, rfl, isLong_packLong0 _ _ _⟩
theorem ast (h : Hdr) (f : LongF) : Statement (.ast h f) := .inr ⟨_, _, _, rfl, isLong_packLong0 _ _ _⟩
theorem asts (h : Hdr) (f : LongF) : Statement (.asts h f) := .inr ⟨_, _, _, rfl, isLong_packLong0 _ _ _⟩
theorem xqt (h : Hdr) (f : LongF) : Statement (.xqt h f) := .inr ⟨_, _, _, rfl, isLong_packLong0 _ _ _⟩
theorem tinst (h : Hdr) (f : LongF) : Statement (.tinst h f) := .inr ⟨_, _, _, rfl, isLong_packLong0 _ _ _⟩
theorem tfree (h : Hdr) (f : LongF) : Statement (.tfree h f) := .inr ⟨_, _, _, rfl, isLong_packLong0 _ _ _⟩
theorem tdraw (h : Hdr) (f : LongF) : Statement (.tdraw h f) := .inr ⟨_, _, _, rfl, isLong_packLong0 _ _ _⟩
theorem tstat (h : Hdr) (f : LongF) : Statement (.tstat h f) := .inr ⟨_, _, _, rfl, isLong_packLong0 _ _ _⟩
theorem rack (h : Hdr) (f : LongF) : Statement (.rack h f) := .inr ⟨_, _, _, rfl, isLong_packLong0 _ _ _⟩
theorem resamp (h : Hdr) (f : LongF) : Statement (.resamp h f) := .inr ⟨_, _, _, rfl, isLong_packLong0 _ _ _⟩
theorem lxstart (h : Hdr) (f : LongF) : Statement (.lxstart h f) := .inr ⟨_, _, _, rfl, isLong_packLong0 _ _ _⟩
theorem lxstat (h : Hdr) (f : LongF) : Statement (.lxstat h f) := .inr ⟨_, _, _, rfl, isLong_packLong0 _ _ _⟩
theorem lxkill (h : Hdr) (f : LongF) : Statement (.lxkill h f) := .inr ⟨_, _, _, rfl, isLong_packLong0 _ _ _⟩
theorem lauterLi (f : LauterF) : Statement (.lauterLi f) := ⟨_, _, rfl⟩
theorem lauterLih (f : LauterF) : Statement (.lauterLih f) := ⟨_, _, rfl⟩
theorem lauterMov (f : LauterF) : Statement (.lauterMov f) := ⟨_, _, rfl⟩
theorem lauterAdd (f : LauterF) : Statement (.lauterAdd f) := ⟨_, _, rfl⟩
theorem lauterSub (f : LauterF) : Statement (.lauterSub f) := ⟨_, _, rfl⟩
theorem lauterMul (f : LauterF) : Statement (.lauterMul f) := ⟨_, _, rfl⟩
theorem lauterAnd (f : LauterF) : Statement (.lauterAnd f) := ⟨_, _, rfl⟩
theorem lauterOr (f : LauterF) : Statement (.lauterOr f) := ⟨_, _, rfl⟩
theorem lauterXor (f : LauterF) : Statement (.lauterXor f) := ⟨_, _, rfl⟩
theorem lauterShl (f : LauterF) : Statement (.lauterShl f) := ⟨_, _, rfl⟩
theorem lauterShr (f : LauterF) : Statement (.lauterShr f) := ⟨_, _, rfl⟩
theorem lauterAddi (f : LauterF) : Statement (.lauterAddi f) := ⟨_, _, rfl⟩
theorem lauterLdx (f : LauterF) : Statement (.lauterLdx f) := ⟨_, _, rfl⟩
theorem lauterStx (f : LauterF) : Statement (.lauterStx f) := ⟨_, _, rfl⟩
theorem lauterBeq (f : LauterF) : Statement (.lauterBeq f) := ⟨_, _, rfl⟩
theorem lauterBne (f : LauterF) : Statement (.lauterBne f) := ⟨_, _, rfl⟩
theorem lauterBlt (f : LauterF) : Statement (.lauterBlt f) := ⟨_, _, rfl⟩
theorem lauterBge (f : LauterF) : Statement (.lauterBge f) := ⟨_, _, rfl⟩
theorem lauterJmp (f : LauterF) : Statement (.lauterJmp f) := ⟨_, _, rfl⟩
theorem lauterLoop (f : LauterF) : Statement (.lauterLoop f) := ⟨_, _, rfl⟩
theorem lauterDset (f : LauterF) : Statement (.lauterDset f) := ⟨_, _, rfl⟩
theorem lauterDidx (f : LauterF) : Statement (.lauterDidx f) := ⟨_, _, rfl⟩
theorem lauterDstep (f : LauterF) : Statement (.lauterDstep f) := ⟨_, _, rfl⟩
theorem lauterMovt (f : LauterF) : Statement (.lauterMovt f) := ⟨_, _, rfl⟩
theorem lauterGath (f : LauterF) : Statement (.lauterGath f) := ⟨_, _, rfl⟩
theorem lauterScat (f : LauterF) : Statement (.lauterScat f) := ⟨_, _, rfl⟩
theorem lauterMcst (f : LauterF) : Statement (.lauterMcst f) := ⟨_, _, rfl⟩
theorem lauterLred (f : LauterF) : Statement (.lauterLred f) := ⟨_, _, rfl⟩
theorem lauterFill (f : LauterF) : Statement (.lauterFill f) := ⟨_, _, rfl⟩
theorem lauterArrv (f : LauterF) : Statement (.lauterArrv f) := ⟨_, _, rfl⟩
theorem lauterWaitb (f : LauterF) : Statement (.lauterWaitb f) := ⟨_, _, rfl⟩
theorem lauterFence (f : LauterF) : Statement (.lauterFence f) := ⟨_, _, rfl⟩
theorem lauterAbort (f : LauterF) : Statement (.lauterAbort f) := ⟨_, _, rfl⟩
theorem lauterEnd (f : LauterF) : Statement (.lauterEnd f) := ⟨_, _, rfl⟩
theorem steepLdi (f : SteepF) : Statement (.steepLdi f) := ⟨_, rfl⟩
theorem steepMov (f : SteepF) : Statement (.steepMov f) := ⟨_, rfl⟩
theorem steepAdd (f : SteepF) : Statement (.steepAdd f) := ⟨_, rfl⟩
theorem steepSub (f : SteepF) : Statement (.steepSub f) := ⟨_, rfl⟩
theorem steepAnd (f : SteepF) : Statement (.steepAnd f) := ⟨_, rfl⟩
theorem steepOr (f : SteepF) : Statement (.steepOr f) := ⟨_, rfl⟩
theorem steepShl (f : SteepF) : Statement (.steepShl f) := ⟨_, rfl⟩
theorem steepShr (f : SteepF) : Statement (.steepShr f) := ⟨_, rfl⟩
theorem steepLdpf (f : SteepF) : Statement (.steepLdpf f) := ⟨_, rfl⟩
theorem steepStpf (f : SteepF) : Statement (.steepStpf f) := ⟨_, rfl⟩
theorem steepLdw (f : SteepF) : Statement (.steepLdw f) := ⟨_, rfl⟩
theorem steepStw (f : SteepF) : Statement (.steepStw f) := ⟨_, rfl⟩
theorem steepBz (f : SteepF) : Statement (.steepBz f) := ⟨_, rfl⟩
theorem steepBnz (f : SteepF) : Statement (.steepBnz f) := ⟨_, rfl⟩
theorem steepLoop (f : SteepF) : Statement (.steepLoop f) := ⟨_, rfl⟩
theorem steepEmit (f : SteepF) : Statement (.steepEmit f) := ⟨_, rfl⟩
theorem steepWaitv (f : SteepF) : Statement (.steepWaitv f) := ⟨_, rfl⟩
theorem steepSignal (f : SteepF) : Statement (.steepSignal f) := ⟨_, rfl⟩
theorem steepDrop (f : SteepF) : Statement (.steepDrop f) := ⟨_, rfl⟩
theorem steepFaultq (f : SteepF) : Statement (.steepFaultq f) := ⟨_, rfl⟩
theorem steepEnd (f : SteepF) : Statement (.steepEnd f) := ⟨_, rfl⟩
theorem variableLatencyResult (sp : SplitRef) (op : Nat) (lanes : Mask) : Statement (.variableLatencyResult sp op lanes) := rfl
theorem operationCompletion (group : Nat) (path : BitVec 3) : Statement (.operationCompletion group path) := rfl
theorem userTrapEntry (sp : SplitRef) : Statement (.userTrapEntry sp) := rfl
theorem supervisorTrapEntry (sp : SplitRef) : Statement (.supervisorTrapEntry sp) := rfl
theorem escalation (sp : SplitRef) : Statement (.escalation sp) := rfl
theorem timerDue (group : Nat) : Statement (.timerDue group) := rfl
theorem rackEffect (team : Nat) : Statement (.rackEffect team) := rfl
theorem resampEffect (grid : Nat) : Statement (.resampEffect grid) := rfl
theorem splitWake (sp : SplitRef) : Statement (.splitWake sp) := rfl
theorem priorityAging (sp : SplitRef) : Statement (.priorityAging sp) := rfl
theorem waitphReread (sp : SplitRef) : Statement (.waitphReread sp) := rfl
theorem rawaitClaim (sp : SplitRef) : Statement (.rawaitClaim sp) := rfl
theorem tdrawServe (sp : SplitRef) (slot : Nat) : Statement (.tdrawServe sp slot) := rfl
theorem tdrawTimeout (sp : SplitRef) : Statement (.tdrawTimeout sp) := rfl
theorem sleepWake (sp : SplitRef) : Statement (.sleepWake sp) := rfl
theorem tunFire (tun : Nat) (slot : Nat) : Statement (.tunFire tun slot) := rfl
theorem fillTimeout (tun : Nat) (slot : Nat) : Statement (.fillTimeout tun slot) := rfl
theorem installCompletion (tun : Nat) : Statement (.installCompletion tun) := rfl
theorem lauterProgramStart (eng : EngRef) : Statement (.lauterProgramStart eng) := rfl
theorem waitbReread (eng : EngRef) : Statement (.waitbReread eng) := rfl
theorem faultResume (eng : EngRef) : Statement (.faultResume eng) := rfl
theorem faultAbort (eng : EngRef) : Statement (.faultAbort eng) := rfl
theorem faultAbortAndPoison (eng : EngRef) : Statement (.faultAbortAndPoison eng) := rfl
theorem cellarMove (cask : Nat) : Statement (.cellarMove cask) := rfl
theorem taskEntryTake (grid : Nat) (cask : Nat) : Statement (.taskEntryTake grid cask) := rfl
theorem fillDelayExpiry (grid : Nat) (entry : Nat) : Statement (.fillDelayExpiry grid entry) := rfl
theorem teamPlacement (grid : Nat) : Statement (.teamPlacement grid) := rfl
theorem gridRetirement (grid : Nat) : Statement (.gridRetirement grid) := rfl
theorem budgetPeriod (cluster : Nat) : Statement (.budgetPeriod cluster) := rfl
theorem matrixWaitLimit (core : Nat) : Statement (.matrixWaitLimit core) := rfl
theorem monitorPoll (die : Nat) (r : MonitorReading) : Statement (.monitorPoll die r) := rfl
theorem kick (q : QueueRef) : Statement (.kick q) := rfl
theorem restart (q : QueueRef) : Statement (.restart q) := rfl
theorem skip (q : QueueRef) : Statement (.skip q) := rfl
theorem wake (part : Nat) (v : DWord) : Statement (.wake part v) := rfl
theorem vcpPacketRead (q : QueueRef) : Statement (.vcpPacketRead q) := rfl
theorem phaseReread (q : QueueRef) : Statement (.phaseReread q) := rfl
theorem stalePacket (q : QueueRef) : Statement (.stalePacket q) := rfl
theorem launch (p : PacketRef) : Statement (.launch p) := rfl
theorem bundle (p : PacketRef) : Statement (.bundle p) := rfl
theorem lxrun (p : PacketRef) : Statement (.lxrun p) := rfl
theorem waitmem (p : PacketRef) : Statement (.waitmem p) := rfl
theorem waitmemReread (p : PacketRef) : Statement (.waitmemReread p) := rfl
theorem waitmemTimeout (p : PacketRef) : Statement (.waitmemTimeout p) := rfl
theorem signal (p : PacketRef) : Statement (.signal p) := rfl
theorem graph (p : PacketRef) : Statement (.graph p) := rfl
theorem graphReplayStart (p : PacketRef) : Statement (.graphReplayStart p) := rfl
theorem patch (p : PacketRef) : Statement (.patch p) := rfl
theorem timestamp (p : PacketRef) : Statement (.timestamp p) := rfl
theorem reserve (p : PacketRef) : Statement (.reserve p) := rfl
theorem reserveRelease (p : PacketRef) : Statement (.reserveRelease p) := rfl
theorem tunopInstall (p : PacketRef) : Statement (.tunopInstall p) := rfl
theorem tunopFree (p : PacketRef) : Statement (.tunopFree p) := rfl
theorem saveq (p : PacketRef) : Statement (.saveq p) := rfl
theorem restq (p : PacketRef) : Statement (.restq p) := rfl
theorem packetCompletion (p : PacketRef) : Statement (.packetCompletion p) := rfl
theorem customPacket (p : PacketRef) : Statement (.customPacket p) := rfl
theorem steepWaitvReread (run : Nat) : Statement (.steepWaitvReread run) := rfl
theorem steepWaitvTimeout (run : Nat) : Statement (.steepWaitvTimeout run) := rfl
theorem steepreq (v : DWord) : Statement (.steepreq v) := rfl
theorem steepLoad : Statement (.steepLoad) := rfl
theorem partitionEnable (part : Nat) : Statement (.partitionEnable part) := rfl
theorem partitionDestroy (part : Nat) : Statement (.partitionDestroy part) := rfl
theorem swapOut (part : Nat) : Statement (.swapOut part) := rfl
theorem swapIn (part : Nat) : Statement (.swapIn part) := rfl
theorem partitionStart (part : Nat) : Statement (.partitionStart part) := rfl
theorem waymaskWrite (part : Nat) (mask : DWord) : Statement (.waymaskWrite part mask) := rfl
theorem gctlResume (part : Nat) (slot : Nat) : Statement (.gctlResume part slot) := rfl
theorem gctlRetire (part : Nat) (slot : Nat) : Statement (.gctlRetire part slot) := rfl
theorem gctlEngineResume (part : Nat) (slot : Nat) : Statement (.gctlEngineResume part slot) := rfl
theorem attreq (v : DWord) : Statement (.attreq v) := rfl
theorem registerWrite (r : RegRef) (v : DWord) : Statement (.registerWrite r v) := rfl
theorem hostWrite (h : HostRef) (addr : DWord) (bytes : List Byte) : Statement (.hostWrite h addr bytes) := rfl
theorem hostRead (h : HostRef) (addr : DWord) (size : Nat) : Statement (.hostRead h addr size) := rfl
theorem doorbell (h : HostRef) : Statement (.doorbell h) := rfl
theorem remoteRequest (r : RemoteReq) : Statement (.remoteRequest r) := rfl
theorem remoteAnswer (req : Nat) (a : RemoteAns) : Statement (.remoteAnswer req a) := rfl
theorem remtimeout (req : Nat) : Statement (.remtimeout req) := rfl
theorem deadlineFlush (part : Nat) (entry : Nat) : Statement (.deadlineFlush part entry) := rfl
theorem gangNotice (name : GangName) : Statement (.gangNotice name) := rfl
theorem unreliablePacket (port : Nat) : Statement (.unreliablePacket port) := rfl
theorem errorRetry (e : ErrorSite) (lasting : Bool) : Statement (.errorRetry e lasting) := rfl
theorem powerUp (rail : Rail) : Statement (.powerUp rail) := rfl
theorem resetRelease : Statement (.resetRelease) := rfl
theorem provisioningImage (img : FirmwareImage) (fromPort : Nat) : Statement (.provisioningImage img fromPort) := rfl
theorem i3cRead (what : Telemetry) : Statement (.i3cRead what) := rfl
theorem i3cCcc (code : Byte) : Statement (.i3cCcc code) := rfl
theorem powerLoss (partWritten : Bool) : Statement (.powerLoss partWritten) := rfl
theorem secondStageTableWrite (addr : Nat) (v : DWord) : Statement (.secondStageTableWrite addr v) := rfl

end Sys2Proof.Laws.EncodedWords
end

