-- ==== Sys2Proof/Laws/Veils.lean ====
section
/-! SUPPORT. What the bytes a lane still sees as they were can change: nothing but themselves, and, without any, nothing at all. -/

namespace Sys2Proof.Machine

@[simp] theorem settleVeils_of_none (i : Instr) (s : State) (h : s.veils = []) : settleVeils i s = s := by simp [settleVeils, h]

/-- Only the veils change. -/
theorem settleVeils_frame (i : Instr) (s : State) : settleVeils i s = { s with veils := (settleVeils i s).veils } := by
  unfold settleVeils
  split
  · rfl
  · split
    · rfl
    · split <;> rfl

/-- An instruction that may order accesses ends them all. -/
theorem settleVeils_of_orders (i : Instr) (s : State) (h : lingers i = false) : (settleVeils i s).veils = [] := by
  unfold settleVeils
  split <;> simp_all

/-- No veil is added before an instruction. -/
theorem settleVeils_subset (i : Instr) (s : State) : ∀ v ∈ (settleVeils i s).veils, v ∈ s.veils := by
  unfold settleVeils
  split
  · exact fun _ h => h
  · split
    · simp
    · split
      · exact fun _ h => h
      · exact fun _ h => List.mem_of_mem_filter h

/-- Putting a veil on bytes changes no memory. -/
theorem addVeil_frame (s : State) (r : SplitRef) (lane : Nat) (l : Loc) (n : Nat) : addVeil s r lane l n = { s with veils := (addVeil s r lane l n).veils } := by
  unfold addVeil
  split <;> rfl

@[simp] theorem seenRead_of_none (s : State) (g l n : Nat) (o : Ord) (p : Place) (r : Read) (h : s.veils = []) : seenRead s g l n o p r = r := by
  unfold seenRead
  split <;> simp [h]

@[simp] theorem seenRead_strong (s : State) (g l n : Nat) (o : Ord) (p : Place) (r : Read) (h : o.strong = true) : seenRead s g l n o p r = r := by
  unfold seenRead
  split <;> simp [h]

/-- The state is the one a plain load leaves. -/
@[simp] theorem seenRead_state (s : State) (g l n : Nat) (o : Ord) (p : Place) (r : Read) : (seenRead s g l n o p r).s = r.s := by
  unfold seenRead
  split
  · split <;> rfl
  · rfl

end Sys2Proof.Machine
end

