-- ==== Sys2Proof/Tests/Slice0.lean ====
section
/-! SUPPORT. The tests: ill-formed terms that the check refuses, words written out from the spec's encodings, small steps with results
from the spec's examples and rules, and for every statement with hypotheses states and operands that meet them. -/

namespace Sys2Proof.Tests

set_option maxRecDepth 100000
set_option Elab.async false

open Sys2Proof Sys2Proof.Machine

/-! ### A small machine -/

/-- Guard K7 or P7, no wait. -/
def tH : Hdr := ⟨false, 7, false⟩
/-- Fields of a long word, all zero but the type. -/
def tL : LongF := { a := 0, d := 0, sc := 0, mo := 0, sat := false, rm := 0, ty := 6, c := 0, b := 0, x := 0 }
def tSR : SRF := { i := false, b := 3, a := 2, d := 4 }
/-- 64 S registers from a list of numbered values. -/
def regs64 (l : List (Nat × DWord)) : List DWord := (List.range 64).map (fun r => ((l.find? (fun q => q.1 == r)).map (·.2)).getD 0)
/-- A live lane: V[r] holds 16·lane + r, predicates as given. -/
def tLane (p : BitVec 8) (l : Nat) : Lane := { live := true, v := (List.range 16).map (fun r => BitVec.ofNat 32 (16 * l + r)), p := p, popidx := BitVec.ofNat 32 l }
def tSplit : Split := { pc := 0x10000#54, mask := 0xFFFF#64 }
/-- A group of sixteen lanes with one split. -/
def tGroup (regs : List (Nat × DWord)) : Group :=
  { uid := 3, grid := 1, team := 2, vregs := 16, lanes := (List.range 16).map (tLane 0), s := regs64 regs, k := 0x02#8, splits := [tSplit] }
def tPart : Partition := { block := (List.range 19).map (fun i => if i = 0 then 3#64 else if i = 5 then 0xFFFF#64 else if i = 14 then 1#64 else 0#64) }
/-- The first megabyte of HBM, mapped where it lies, for the TLB of one owner. -/
def tTlb (owner : Nat) : TlbEntry :=
  { owner := owner, part := 0, asid := 0, ptroot := 0, vbase := 0, size := 2 ^ 20, pbase := 0, r := true, w := true, x := true, u := true, cp := 0, bgeo := 0,
    efmt := 0, ptype := 0, tunid := 0, leaf1 := 0xFFF000, leaf2 := 0xFFF008, src := [], dirty := true }
def tTeam : Team := { uid := 2, grid := 1, scratch := 65536, acc := 65536 }
def tGrid : Grid := { uid := 1, vregs := 16, scratch := 65536, acc := 65536, nextTeam := 1, dieAlloc := 65536 }
/-- A running device on which one group of partition 0 is resident, its split 0 issuing. -/
def tS (g : Group) : State :=
  { boot := .running, parts := tPart :: List.replicate 15 {}, groups := [g], teams := [tTeam], grids := [tGrid], tlb := [tTlb 0, tTlb 192, tTlb 1024],
    actor := .split ⟨3, 0⟩, uid := 10, clock := 1000000 }
def tCtx : Ctx := { core := 0, part := 0, asid := 0, ptroot := 0, sup := false, wkey := 0, grid := some 1, team := some 2 }
def tProg : Program :=
  { serial := 7, ctx := tCtx, group := 3, flight := 5, notify := false, lxrbase := 0x40000, packet := none, x := List.replicate 16 0, pc := 0x8000, loops := [],
    d := List.replicate 4 (List.replicate 8 0), state := .running, src := [0, 0, 0, 0] }
/-- The same device, with a program on an engine of its core, executing. -/
def tE (p : Program) : State := { tS (tGroup []) with engines := [⟨0, 0, 8, [p], []⟩], actor := .engine ⟨0, 0⟩ }
def tSteep : Steep := { part := 0, slot := 1, code := [0x15], budget := 256, windows := [some ⟨0x3000, true, 8, 64⟩, none, none, none] }
def tRun : SteepRun :=
  { id := 4, ref := ⟨0, 2, 5, 0⟩, steep := tSteep, second := false, q := List.replicate 16 0, pc := 0, count := 0, loops := [], pkt := List.replicate 8 0, emits := [],
    waitv := none }
/-- The same device, with a steep run executing. -/
def tQ (x : SteepRun) : State := { tS (tGroup []) with runs := [x], actor := .steep 4 }
/-- The next state, where there is one. -/
def after (o : Host.Outcome State Fault Refusal) : State := match o with | .next t => t | _ => State.reset
/-- The group of the small machine after an instruction. -/
def ran (i : Instr) (g : Group) : Group := (((after (exec i (tS g))).group? 3).getD g)

/-! ### Conditions as checks -/

def readyB (i : Instr) (h : Hdr) (s : State) (g : Group) (sp : Split) : Bool :=
  decide (s.current? = some (g, sp)) && i.wellFormed && vOk g i && (!sp.runOn.isSome || (!stopPoint i && !h.w)) && (!h.w || decide (sp.pend = []))
theorem ready_of {i : Instr} {h : Hdr} {s : State} {g : Group} {sp : Split} (hc : readyB i h s g sp = true) : Ready i h s g sp := by
  simp only [readyB, Bool.and_eq_true, Bool.or_eq_true, Bool.not_eq_true', decide_eq_true_eq] at hc
  obtain ⟨⟨⟨⟨h1, h2⟩, h3⟩, h4⟩, h5⟩ := hc
  refine ⟨h1, h2, h3, fun hr => ?_, fun hw => ?_⟩
  · rcases h4 with h4 | h4
    · rw [h4] at hr; cases hr
    · exact h4
  · rcases h5 with h5 | h5
    · rw [h5] at hw; cases hw
    · exact h5
theorem readyAll {l : List Instr} {h : Hdr} {s : State} {g : Group} {sp : Split} (hc : l.all (fun i => readyB i h s g sp) = true) :
    ∀ i ∈ l, Ready i h s g sp := fun i hi => ready_of (List.all_eq_true.mp hc i hi)
def reachB (s : State) (c : Ctx) (need : Need) (addr : DWord) (n pa : Nat) (e : TlbEntry) : Bool :=
  decide (addr.toNat < 2 ^ 54 ∧ addr.toNat % n = 0 ∧ tlbFind s c.core c addr.toNat = some e ∧ permSub c e need = none ∧ (need.w = true → e.dirty = true) ∧
    pa = e.pbase + (addr.toNat - e.vbase) ∧ pa % n = 0 ∧ pa < apertureBase ∧ e.ptype = 0 ∧ e.efmt ≠ 15 ∧ e.efmt ≠ 16)
theorem reach_of {s : State} {c : Ctx} {need : Need} {addr : DWord} {n pa : Nat} (e : TlbEntry) (hc : reachB s c need addr n pa e = true) :
    Reaches54 s c need addr n pa := by
  obtain ⟨h1, h2, h3⟩ := of_decide_eq_true hc
  exact ⟨h1, h2, e, h3⟩
theorem runs_of {i : Instr} {s : State} {r : EngRef} {p : Program} (hc : (decide (s.currentProg? = some (r, p)) && i.wellFormed) = true) : Runs i s r p := by
  simp only [Bool.and_eq_true, decide_eq_true_eq] at hc
  exact ⟨hc.1, hc.2⟩
theorem steeps_of {i : Instr} {s : State} {x : SteepRun} (hc : (decide (s.currentRun? = some x) && i.wellFormed && decide (x.count < x.steep.budget)) = true) :
    Steeps i s x := by
  simp only [Bool.and_eq_true, decide_eq_true_eq] at hc
  exact ⟨hc.1.1, hc.1.2, hc.2⟩
theorem acts_chip {s : State} {c : Ctx} {sp : Space} {need : Need} {addr : DWord} {n : Nat} {l : Loc} (h1 : poisoned s l = false) (h2 : sp ≠ .global)
    (h3 : placeOffset s c sp addr.toNat n = .ok (.loc l)) (hr : s.sigs.length < 256 := by decide) (hm : s.remotes = [] := by rfl) : ActsAt s c sp need addr n l :=
  ⟨h1, .inl hr, fun _ _ => by simp [remapBusy, hm], .inl ⟨h2, h3⟩⟩
def locIs (x : Except Cause Place) (l : Loc) : Bool := match x with | .ok (.loc m) => decide (m = l) | _ => false
theorem loc_of {x : Except Cause Place} {l : Loc} (h : locIs x l = true) : x = .ok (.loc l) := by
  unfold locIs at h; split at h
  · rw [of_decide_eq_true h]
  · cases h
theorem acts_home {s : State} {c : Ctx} {need : Need} {addr : DWord} {n pa : Nat} (h1 : poisoned s (.hbm pa) = false)
    (h2 : Reaches54 s c need addr n pa) (h3 : cacheLine? s .l1 c.core (pa / 128) = none)
    (hr : s.sigs.length < 256 := by decide) (hm : s.remotes = [] := by rfl) : ActsAt s c .global need addr n (.hbm pa) :=
  ⟨h1, .inl hr, fun _ _ => by simp [remapBusy, hm], .inr ⟨pa, rfl, rfl, h2, h3⟩⟩

/-! ### Ill-formed terms, one or more for each check -/

/-- The guard !K7, a JOIN or RACK with a guard, and the fields of the short formats (R144, R163, R177). -/
theorem test_illformed_short : [Instr.nop ⟨true, 7, false⟩, .iadd ⟨true, 7, false⟩ tL, .join ⟨false, 0, false⟩, .rack ⟨false, 1, false⟩ { tL with ty := 0 },
    .smov tH { tSR with a := 1 }, .klop tH { tSR with i := true }, .klop tH { tSR with a := 8 }, .spopc tH tSR, .sclz tH { tSR with i := true, b := 0 },
    .sld tH { tSR with i := true, b := 3 }, .sst tH { tSR with i := true, b := 48 }, .srd tH { imm := 0x100, d := 1 }, .swr tH { imm := 0x100, d := 1 },
    .jr tH { tSR with i := false, b := 1 }, .trap tH { imm := 0x100, d := 0 }, .trap tH { imm := 1, d := 1 }, .syscall tH { imm := 1, d := 1 },
    .waitc tH { i := true, b := 8, a := 0, d := 0 }, .waitc tH { i := false, b := 0, a := 0, d := 0 }, .bar tH { i := true, b := 16, a := 0, d := 0 },
    .sleep tH { i := false, b := 0, a := 1, d := 1 }, .dwb tH { i := false, b := 0, a := 0, d := 2 }, .dinv tH { i := false, b := 1, a := 0, d := 1 }].all
    (fun i => !i.wellFormed) = true := by decide +kernel
/-- The operands, types and modifiers of the lanes' integer instructions (R150, R188 to R197). -/
theorem test_illformed_integer : [Instr.mov tH tL, .mov tH { tL with ty := 21, d := 1 }, .mov tH { tL with ty := 0, a := 64, mo := 1 }, .mov tH { tL with ty := 0, b := 1 },
    .movi tH { tL with ty := 22 }, .movi tH { tL with a := 1 }, .iadd tH { tL with ty := 0 }, .iadd tH { tL with ty := 8, a := 1 }, .iadd tH { tL with mo := 6 },
    .iadd tH { tL with x := 1 }, .iadd tH { tL with ty := 5, sc := 1 }, .iadd tH { tL with sc := 4 }, .iadd tH { tL with rm := 1 }, .imulh tH { tL with ty := 4 },
    .imulh tH { tL with sat := true }, .imad tH { tL with ty := 8, c := 1 }, .imin tH { tL with c := 1 }, .iabs tH { tL with ty := 5 }, .logt tH { tL with ty := 0, x := 256 },
    .shl tH { tL with ty := 6 }, .sra tH { tL with ty := 5 }, .bfe tH { tL with ty := 4 }, .bfi tH { tL with ty := 0, sat := true }, .popc tH { tL with ty := 6 },
    .brev tH { tL with ty := 21, d := 1 }, .icmp tH { tL with d := 8 }, .icmp tH { tL with ty := 0, sc := 2 }, .sel tH { tL with ty := 0, c := 8 },
    .idot4 tH { tL with ty := 6 }, .bsel tH { tL with ty := 0, x := 0x20 }, .nlut tH { tL with ty := 21, d := 1 }, .nlut tH { tL with ty := 21, b := 2 },
    .plop tH { tL with ty := 0, a := 8 }, .ptov tH { tL with ty := 0, a := 1 }, .vtop tH { tL with ty := 0, x := 128 }].all (fun i => !i.wellFormed) = true := by decide +kernel
/-- Floating point, conversion, and values between lanes (R198 to R218). -/
theorem test_illformed_float : [Instr.fadd tH tL, .fadd tH { tL with ty := 11, rm := 6 }, .fmin tH { tL with ty := 11, rm := 1 }, .ffma tH { tL with ty := 12, c := 1 },
    .fsqrt tH { tL with ty := 11, b := 1 }, .fsin tH { tL with ty := 12 }, .fcmp tH { tL with ty := 11, sc := 8 }, .fclass tH { tL with ty := 11, sc := 1 },
    .fscale tH { tL with ty := 11, sc := 2 }, .hadd2 tH { tL with ty := 11 }, .cvt tH { tL with ty := 0, x := 11 }, .cvt tH { tL with ty := 11, x := 33 },
    .cvt tH { tL with ty := 11, x := 6, sc := 1 }, .cvpk tH { tL with ty := 13, x := 0x4B }, .cvup tH { tL with ty := 11, d := 1, x := 13 },
    .qscl tH { tL with ty := 11, x := 11 }, .qcvt tH { tL with ty := 13, x := 11, sat := true }, .vxch tH { tL with ty := 0, c := 7 }, .rdlane tH { tL with ty := 0 },
    .wrlane tH { tL with ty := 0, mo := 4 }, .vote tH { tL with ty := 0, sc := 5 }, .fold tH { tL with x := 6 }, .scan tH { tL with ty := 11, x := 3 },
    .samev tH { tL with ty := 0, d := 1 }, .vsrd tH { tL with ty := 0, x := 9 }, .elect tH { tL with ty := 0, d := 7 }, .brd tH { tL with ty := 0, x := 2 },
    .lexit tH { tL with ty := 0, d := 1 }].all (fun i => !i.wellFormed) = true := by decide +kernel
/-- The memory class, matrix, tun and engine instructions (R151, R219 to R262). -/
theorem test_illformed_memory : [Instr.ld tH { tL with mo := 3 }, .ld tH { tL with mo := 1, sc := 12 }, .ld tH { tL with sc := 1 }, .ld tH { tL with b := 64 },
    .ld tH { tL with c := 12 }, .ld tH { tL with c := 1, rm := 1 }, .ld tH { tL with ty := 17 }, .ld tH { tL with ty := 23, d := 4 }, .st tH { tL with mo := 2 },
    .atom tH { tL with x := 13 }, .atom tH { tL with ty := 11 }, .acas tH { tL with x := 1 }, .red tH { tL with x := 7 }, .redt tH { tL with c := 1 },
    .fence tH { tL with ty := 0 }, .pref tH { tL with ty := 0, d := 1 }, .arrive tH { tL with ty := 0, mo := 0 }, .waitph tH { tL with ty := 0, mo := 1, c := 3 },
    .rawait tH { tL with ty := 0, mo := 1 }, .rrel tH { tL with ty := 0, mo := 2, c := 1 }, .qput tH { tL with ty := 0, d := 2 }, .qget tH { tL with ty := 0, x := 256 },
    .mma tH { tL with ty := 0, rm := 5 }, .mmas tH { tL with ty := 0, x := 0x40 }, .aclr tH { tL with ty := 0, a := 1 }, .ald tH tL, .ast tH { tL with ty := 21, d := 1 },
    .asts tH { tL with sc := 4 }, .xqt tH tL, .tinst tH { tL with ty := 0, d := 1 }, .tfree tH { tL with ty := 0, a := 64 }, .tdraw tH { tL with ty := 0 },
    .tstat tH { tL with ty := 0, x := 5 }, .rack tH { tL with ty := 0, a := 8 }, .resamp tH { tL with ty := 0, c := 1 }, .lxstart tH { tL with ty := 0, x := 3 },
    .lxstart tH { tL with ty := 0, b := 2 }, .lxstat tH { tL with ty := 0, a := 64 }, .lxkill tH { tL with ty := 0, d := 1 }].all (fun i => !i.wellFormed) = true := by
  decide +kernel
def tLau : LauterF := { imm32 := 0, imm12 := 0, b := 0, a := 0, d := 0 }
/-- Lauter programs, steeps, and rows that name a place the device does not have (R268 to R289, R353, R5). -/
theorem test_illformed_others : [Instr.lauterLi { tLau with a := 1 }, .lauterMov { tLau with b := 1 }, .lauterAdd { tLau with imm32 := 1 }, .lauterAddi { tLau with imm12 := 1 },
    .lauterLdx { tLau with imm12 := 0x30 }, .lauterStx { tLau with imm12 := 0x20 }, .lauterBeq { tLau with d := 1 }, .lauterJmp { tLau with a := 1 }, .lauterLoop tLau,
    .lauterDset { tLau with d := 4 }, .lauterDidx { tLau with imm12 := 8 }, .lauterDstep { tLau with d := 4 }, .lauterMovt { tLau with a := 4 },
    .lauterGath { tLau with imm12 := 1 }, .lauterMcst { tLau with imm12 := 4 }, .lauterLred { tLau with imm12 := 1 }, .lauterFill { tLau with imm12 := 0x10 },
    .lauterArrv { tLau with imm12 := 0x20 }, .lauterWaitb { tLau with imm12 := 0x11 }, .lauterFence tLau, .lauterAbort { tLau with imm32 := 256 },
    .lauterEnd { tLau with imm32 := 1 }, .steepLdi { imm := 0, a := 4, d := 0 }, .steepLdpf { imm := 8, a := 0, d := 0 }, .steepBz { imm := 0, a := 0, d := 1 },
    .steepLoop { imm := 0x101, a := 1, d := 0 }, .steepEmit { imm := 0, a := 0, d := 1 }, .steepEnd { imm := 1, a := 0, d := 0 }, .userTrapEntry ⟨3, 4⟩,
    .faultResume ⟨192, 0⟩, .lauterProgramStart ⟨0, 2⟩, .kick ⟨16, 0⟩, .launch ⟨0, 256, 0, 0⟩, .budgetPeriod 24, .matrixWaitLimit 192,
    .monitorPoll 4 { temps := List.replicate 8 0, volts := List.replicate 6 450, process := List.replicate 6 0 }, .monitorPoll 0 {}, .wake 16 0, .swapOut 16, .registerWrite (.block 16 0) 0, .registerWrite (.kiln 0x10000) 0].all (fun i => !i.wellFormed) = true := by
  decide +kernel

/-! ### Words written out from the opcode maps and the formats of the spec, one for each constructor with an encoding -/

def reads (x : Except Reject Instr) (i : Instr) : Bool := match x with | .ok j => decide (j = i) | .error _ => false
/-- R147, R158. -/
theorem test_words_short : ([(0x0000001C#32, .nop tH),
    (0x0600805C#32, .smov tH ⟨false, 3, 0, 4⟩),
    (0x4000A09C#32, .sli tH ⟨0x800, 5⟩),
    (0xFFF8A0DC#32, .sshi tH ⟨0x1FFF, 5⟩),
    (0xFE10811C#32, .sadd tH ⟨true, 63, 2, 4⟩),
    (0x0610815C#32, .ssub tH ⟨false, 3, 2, 4⟩),
    (0x0610819C#32, .smul tH ⟨false, 3, 2, 4⟩),
    (0x061081DC#32, .smulh tH ⟨false, 3, 2, 4⟩),
    (0x0610821C#32, .sand tH ⟨false, 3, 2, 4⟩),
    (0x0610825C#32, .sor tH ⟨false, 3, 2, 4⟩),
    (0x0610829C#32, .sxor tH ⟨false, 3, 2, 4⟩),
    (0x061082DC#32, .sshl tH ⟨false, 3, 2, 4⟩),
    (0x0610831C#32, .sshr tH ⟨false, 3, 2, 4⟩),
    (0x0610835C#32, .ssra tH ⟨false, 3, 2, 4⟩),
    (0x0610839C#32, .smin tH ⟨false, 3, 2, 4⟩),
    (0x061083DC#32, .smax tH ⟨false, 3, 2, 4⟩),
    (0x0A35241C#32, .scmp tH ⟨false, 5, 6, 41⟩),
    (0x5610845C#32, .klop tH ⟨false, 43, 2, 4⟩),
    (0x0010849C#32, .spopc tH ⟨false, 0, 2, 4⟩),
    (0x001084DC#32, .sclz tH ⟨false, 0, 2, 4⟩),
    (0xC210851C#32, .sld tH ⟨true, 33, 2, 4⟩),
    (0xC410855C#32, .sst tH ⟨true, 34, 2, 4⟩),
    (0x0440E59C#32, .srd tH ⟨0x88, 7⟩),
    (0x0400E5DC#32, .swr tH ⟨0x80, 7⟩),
    (0xFFFF881C#32, .jmp tH ⟨0x7FFFC⟩),
    (0xFFFF885C#32, .call tH ⟨0x7FFFC⟩),
    (0x01F8089C#32, .jr tH ⟨false, 0, 63, 0⟩),
    (0x000008DC#32, .join tH),
    (0x0000091C#32, .exit tH),
    (0x0090095C#32, .trap tH ⟨0x12, 0⟩),
    (0x8090099C#32, .syscall tH ⟨0x1012, 0⟩),
    (0x000009DC#32, .eret tH),
    (0x86080A1C#32, .waitc tH ⟨true, 3, 1, 0⟩),
    (0x8A000A5C#32, .bar tH ⟨true, 5, 0, 0⟩),
    (0x00000A9C#32, .yield tH),
    (0x00480ADC#32, .sleep tH ⟨false, 0, 9, 0⟩),
    (0x06100B1C#32, .dwb tH ⟨false, 3, 2, 0⟩),
    (0x06100B5C#32, .dinv tH ⟨false, 3, 2, 0⟩),
    (0x06100B9C#32, .icinv tH ⟨false, 3, 2, 0⟩),
    (0x00000BDC#32, .fetchb tH)] : List (Word × Instr)).all (fun r => reads (decodeShort r.1) r.2) = true := by decide +kernel
/-- R148, R159. -/
theorem test_words_long_1 : ([((0x0204001D#32, 0x00150000#32, 0x00000000#32), .mov tH ⟨2, 4, 0, 0, false, 0, 21, 0, 0, 0x0⟩),
    ((0x0004005D#32, 0x00060000#32, 0xDEADBEEF#32), .movi tH ⟨0, 4, 0, 0, false, 0, 6, 0, 0, 0xDEADBEEF⟩),
    ((0x0204009D#32, 0x33060008#32, 0x00000000#32), .iadd tH ⟨2, 4, 3, 1, true, 0, 6, 0, 8, 0x0⟩),
    ((0x020400DD#32, 0x08060000#32, 0xFFFFFFFE#32), .isub tH ⟨2, 4, 0, 4, false, 0, 6, 0, 0, 0xFFFFFFFE⟩),
    ((0x0204011D#32, 0x00080008#32, 0x00000000#32), .imul tH ⟨2, 4, 0, 0, false, 0, 8, 0, 8, 0x0⟩),
    ((0x0204015D#32, 0x00050008#32, 0x00000000#32), .imulh tH ⟨2, 4, 0, 0, false, 0, 5, 0, 8, 0x0⟩),
    ((0x0204019D#32, 0x40060A08#32, 0x00000000#32), .imad tH ⟨2, 4, 4, 0, false, 0, 6, 10, 8, 0x0⟩),
    ((0x020401DD#32, 0x00020008#32, 0x00000000#32), .imin tH ⟨2, 4, 0, 0, false, 0, 2, 0, 8, 0x0⟩),
    ((0x0204021D#32, 0x00030008#32, 0x00000000#32), .imax tH ⟨2, 4, 0, 0, false, 0, 3, 0, 8, 0x0⟩),
    ((0x0204025D#32, 0x01060000#32, 0x00000000#32), .iabs tH ⟨2, 4, 0, 0, true, 0, 6, 0, 0, 0x0⟩),
    ((0x0204029D#32, 0x00080000#32, 0x00000000#32), .ineg tH ⟨2, 4, 0, 0, false, 0, 8, 0, 0, 0x0⟩),
    ((0x020402DD#32, 0x00150008#32, 0x00000000#32), .land tH ⟨2, 4, 0, 0, false, 0, 21, 0, 8, 0x0⟩),
    ((0x0204031D#32, 0x00000008#32, 0x00000000#32), .lor tH ⟨2, 4, 0, 0, false, 0, 0, 0, 8, 0x0⟩),
    ((0x0204035D#32, 0x0400003F#32, 0x00000000#32), .lxor tH ⟨2, 4, 0, 2, false, 0, 0, 0, 63, 0x0⟩),
    ((0x0204039D#32, 0x00000908#32, 0x000000E8#32), .logt tH ⟨2, 4, 0, 0, false, 0, 0, 9, 8, 0xE8⟩),
    ((0x020403DD#32, 0x00070008#32, 0x00000000#32), .shl tH ⟨2, 4, 0, 0, false, 0, 7, 0, 8, 0x0⟩),
    ((0x0204041D#32, 0x00150008#32, 0x00000000#32), .shr tH ⟨2, 4, 0, 0, false, 0, 21, 0, 8, 0x0⟩),
    ((0x0204045D#32, 0x00080008#32, 0x00000000#32), .sra tH ⟨2, 4, 0, 0, false, 0, 8, 0, 8, 0x0⟩),
    ((0x0204049D#32, 0x00050008#32, 0x00000000#32), .bfe tH ⟨2, 4, 0, 0, false, 0, 5, 0, 8, 0x0⟩),
    ((0x020404DD#32, 0x00000908#32, 0x00000000#32), .bfi tH ⟨2, 4, 0, 0, false, 0, 0, 9, 8, 0x0⟩),
    ((0x0204051D#32, 0x00150000#32, 0x00000000#32), .popc tH ⟨2, 4, 0, 0, false, 0, 21, 0, 0, 0x0⟩),
    ((0x0204055D#32, 0x00000000#32, 0x00000000#32), .clz tH ⟨2, 4, 0, 0, false, 0, 0, 0, 0, 0x0⟩),
    ((0x0204059D#32, 0x00000000#32, 0x00000000#32), .brev tH ⟨2, 4, 0, 0, false, 0, 0, 0, 0, 0x0⟩),
    ((0x020305DD#32, 0x50060008#32, 0x00000000#32), .icmp tH ⟨2, 3, 5, 0, false, 0, 6, 0, 8, 0x0⟩),
    ((0x0204061D#32, 0x00000608#32, 0x00000000#32), .sel tH ⟨2, 4, 0, 0, false, 0, 0, 6, 8, 0x0⟩),
    ((0x0204065D#32, 0x00060008#32, 0x00000000#32), .idiv tH ⟨2, 4, 0, 0, false, 0, 6, 0, 8, 0x0⟩),
    ((0x0204069D#32, 0x00070008#32, 0x00000000#32), .irem tH ⟨2, 4, 0, 0, false, 0, 7, 0, 8, 0x0⟩),
    ((0x020406DD#32, 0x00020908#32, 0x00000000#32), .idot4 tH ⟨2, 4, 0, 0, false, 0, 2, 9, 8, 0x0⟩),
    ((0x0204071D#32, 0x00000008#32, 0x1F0A0300#32), .bsel tH ⟨2, 4, 0, 0, false, 0, 0, 0, 8, 0x1F0A0300⟩),
    ((0x0204075D#32, 0x0015000C#32, 0x00000000#32), .nlut tH ⟨2, 4, 0, 0, false, 0, 21, 0, 12, 0x0⟩),
    ((0x0104081D#32, 0x00000302#32, 0x000000CA#32), .plop tH ⟨1, 4, 0, 0, false, 0, 0, 3, 2, 0xCA⟩),
    ((0x0004085D#32, 0x00000000#32, 0x00000000#32), .ptov tH ⟨0, 4, 0, 0, false, 0, 0, 0, 0, 0x0⟩),
    ((0x0200089D#32, 0x00000000#32, 0x00000055#32), .vtop tH ⟨2, 0, 0, 0, false, 0, 0, 0, 0, 0x55⟩),
    ((0x0204401D#32, 0xB14B0008#32, 0x00000000#32), .fadd tH ⟨2, 4, 11, 0, true, 2, 11, 0, 8, 0x0⟩),
    ((0x0204405D#32, 0xB14B0008#32, 0x00000000#32), .fsub tH ⟨2, 4, 11, 0, true, 2, 11, 0, 8, 0x0⟩),
    ((0x0204409D#32, 0xB14B0008#32, 0x00000000#32), .fmul tH ⟨2, 4, 11, 0, true, 2, 11, 0, 8, 0x0⟩),
    ((0x020440DD#32, 0xC08C0A08#32, 0x00000000#32), .ffma tH ⟨2, 4, 12, 0, false, 4, 12, 10, 8, 0x0⟩),
    ((0x0204411D#32, 0x00090008#32, 0x00000000#32), .fmin tH ⟨2, 4, 0, 0, false, 0, 9, 0, 8, 0x0⟩),
    ((0x0204415D#32, 0x000A0008#32, 0x00000000#32), .fmax tH ⟨2, 4, 0, 0, false, 0, 10, 0, 8, 0x0⟩),
    ((0x0206419D#32, 0x700B0008#32, 0x00000000#32), .fcmp tH ⟨2, 6, 7, 0, false, 0, 11, 0, 8, 0x0⟩),
    ((0x020441DD#32, 0xB14B0008#32, 0x00000000#32), .fdiv tH ⟨2, 4, 11, 0, true, 2, 11, 0, 8, 0x0⟩),
    ((0x0204421D#32, 0x00AC0000#32, 0x00000000#32), .fsqrt tH ⟨2, 4, 0, 0, false, 5, 12, 0, 0, 0x0⟩),
    ((0x0204425D#32, 0x90090000#32, 0x00000000#32), .frcp tH ⟨2, 4, 9, 0, false, 0, 9, 0, 0, 0x0⟩),
    ((0x0204429D#32, 0x90090000#32, 0x00000000#32), .frsq tH ⟨2, 4, 9, 0, false, 0, 9, 0, 0, 0x0⟩),
    ((0x020442DD#32, 0x90090000#32, 0x00000000#32), .fex2 tH ⟨2, 4, 9, 0, false, 0, 9, 0, 0, 0x0⟩),
    ((0x0204431D#32, 0x90090000#32, 0x00000000#32), .flg2 tH ⟨2, 4, 9, 0, false, 0, 9, 0, 0, 0x0⟩),
    ((0x0204435D#32, 0x90090000#32, 0x00000000#32), .fsin tH ⟨2, 4, 9, 0, false, 0, 9, 0, 0, 0x0⟩),
    ((0x0204439D#32, 0x90090000#32, 0x00000000#32), .fcos tH ⟨2, 4, 9, 0, false, 0, 9, 0, 0, 0x0⟩),
    ((0x020443DD#32, 0x90090000#32, 0x00000000#32), .ftanh tH ⟨2, 4, 9, 0, false, 0, 9, 0, 0, 0x0⟩),
    ((0x0204441D#32, 0x000C0000#32, 0x00000000#32), .fclass tH ⟨2, 4, 0, 0, false, 0, 12, 0, 0, 0x0⟩),
    ((0x0204445D#32, 0x000A0708#32, 0x00000000#32), .fdot2 tH ⟨2, 4, 0, 0, false, 0, 10, 7, 8, 0x0⟩),
    ((0x0204449D#32, 0x00290008#32, 0x00000000#32), .hadd2 tH ⟨2, 4, 0, 0, false, 1, 9, 0, 8, 0x0⟩),
    ((0x020444DD#32, 0x00AA0008#32, 0x00000000#32), .hmul2 tH ⟨2, 4, 0, 0, false, 5, 10, 0, 8, 0x0⟩),
    ((0x0204451D#32, 0x40090308#32, 0x00000000#32), .hfma2 tH ⟨2, 4, 4, 0, false, 0, 9, 3, 8, 0x0⟩),
    ((0x0204455D#32, 0x006B0000#32, 0x00000000#32), .frnd tH ⟨2, 4, 0, 0, false, 3, 11, 0, 0, 0x0⟩),
    ((0x0204459D#32, 0x002C0008#32, 0x00000000#32), .fscale tH ⟨2, 4, 0, 0, false, 1, 12, 0, 8, 0x0⟩),
    ((0x0204801D#32, 0x010D0000#32, 0x0000000B#32), .cvt tH ⟨2, 4, 0, 0, true, 0, 13, 0, 0, 0xB⟩),
    ((0x0204805D#32, 0x000E0008#32, 0x00000029#32), .cvpk tH ⟨2, 4, 0, 0, false, 0, 14, 0, 8, 0x29⟩),
    ((0x0204809D#32, 0x000B0000#32, 0x0000002D#32), .cvup tH ⟨2, 4, 0, 0, false, 0, 11, 0, 0, 0x2D⟩),
    ((0x020480DD#32, 0x00110000#32, 0x0000002B#32), .qscl tH ⟨2, 4, 0, 0, false, 0, 17, 0, 0, 0x2B⟩)] : List ((Word × Word × Word) × Instr)).all (fun r => reads (decodeLong r.1.1 r.1.2.1 r.1.2.2) r.2) = true := by decide +kernel
/-- R148, R159. -/
theorem test_words_long_2 : ([((0x0204811D#32, 0x00B10008#32, 0x000000EB#32), .qcvt tH ⟨2, 4, 0, 0, false, 5, 17, 0, 8, 0xEB⟩),
    ((0x0204841D#32, 0x00150608#32, 0x00000000#32), .vxch tH ⟨2, 4, 0, 0, false, 0, 21, 6, 8, 0x0⟩),
    ((0x0204845D#32, 0x08150000#32, 0x00000005#32), .rdlane tH ⟨2, 4, 0, 4, false, 0, 21, 0, 0, 0x5⟩),
    ((0x0204849D#32, 0x06000008#32, 0x00000000#32), .wrlane tH ⟨2, 4, 0, 3, false, 0, 0, 0, 8, 0x0⟩),
    ((0x020484DD#32, 0x20000000#32, 0x00000000#32), .vote tH ⟨2, 4, 2, 0, false, 0, 0, 0, 0, 0x0⟩),
    ((0x0204851D#32, 0x000B0000#32, 0x00000002#32), .fold tH ⟨2, 4, 0, 0, false, 0, 11, 0, 0, 0x2⟩),
    ((0x0204855D#32, 0x00050000#32, 0x0000000D#32), .scan tH ⟨2, 4, 0, 0, false, 0, 5, 0, 0, 0xD⟩),
    ((0x0204859D#32, 0x00150000#32, 0x00000001#32), .samev tH ⟨2, 4, 0, 0, false, 0, 21, 0, 0, 0x1⟩),
    ((0x000485DD#32, 0x00000000#32, 0x00000008#32), .vsrd tH ⟨0, 4, 0, 0, false, 0, 0, 0, 0, 0x8⟩),
    ((0x0004861D#32, 0x00000000#32, 0x00000000#32), .elect tH ⟨0, 4, 0, 0, false, 0, 0, 0, 0, 0x0⟩),
    ((0x4504865D#32, 0x00000000#32, 0x00000040#32), .brd tH ⟨69, 4, 0, 0, false, 0, 0, 0, 0, 0x40⟩),
    ((0x0000869D#32, 0x00000000#32, 0x00000000#32), .lexit tH ⟨0, 0, 0, 0, false, 0, 0, 0, 0, 0x0⟩),
    ((0x0208A01D#32, 0x94770406#32, 0x00000040#32), .ld tH ⟨2, 8, 9, 2, false, 3, 23, 4, 6, 0x40⟩),
    ((0x0204A05D#32, 0x16120106#32, 0xFFFFFFF8#32), .st tH ⟨2, 4, 1, 3, false, 0, 18, 1, 6, 0xFFFFFFF8⟩),
    ((0x0001A09D#32, 0x85060006#32, 0x00000207#32), .atom tH ⟨0, 1, 8, 2, true, 0, 6, 0, 6, 0x207⟩),
    ((0x0204A0DD#32, 0x08150008#32, 0x00060800#32), .acas tH ⟨2, 4, 0, 4, false, 0, 21, 0, 8, 0x60800⟩),
    ((0x0204A11D#32, 0x000C0108#32, 0x0000000A#32), .red tH ⟨2, 4, 0, 0, false, 0, 12, 1, 8, 0xA⟩),
    ((0x0204A15D#32, 0x00050008#32, 0x00000600#32), .redt tH ⟨2, 4, 0, 0, false, 0, 5, 0, 8, 0x600⟩),
    ((0x0000A19D#32, 0x8A000000#32, 0x00000007#32), .fence tH ⟨0, 0, 8, 5, false, 0, 0, 0, 0, 0x7⟩),
    ((0x0200A1DD#32, 0x00400008#32, 0x00000080#32), .pref tH ⟨2, 0, 0, 0, false, 2, 0, 0, 8, 0x80⟩),
    ((0x0204A41D#32, 0x06000108#32, 0x00000008#32), .arrive tH ⟨2, 4, 0, 3, false, 0, 0, 1, 8, 0x8⟩),
    ((0x0204A45D#32, 0x04000208#32, 0x00000008#32), .waitph tH ⟨2, 4, 0, 2, false, 0, 0, 2, 8, 0x8⟩),
    ((0x0204A49D#32, 0x24000108#32, 0x00000000#32), .rawait tH ⟨2, 4, 2, 2, false, 0, 0, 1, 8, 0x0⟩),
    ((0x0204A4DD#32, 0x26000108#32, 0x00000000#32), .rrel tH ⟨2, 4, 2, 3, false, 0, 0, 1, 8, 0x0⟩),
    ((0x0204A61D#32, 0x06000008#32, 0x00000009#32), .qput tH ⟨2, 4, 0, 3, false, 0, 0, 0, 8, 0x9⟩),
    ((0x0204A65D#32, 0x04000008#32, 0x00000009#32), .qget tH ⟨2, 4, 0, 2, false, 0, 0, 0, 8, 0x9⟩),
    ((0x040AE01D#32, 0x00000605#32, 0x00000000#32), .mma tH ⟨4, 10, 0, 0, false, 0, 0, 6, 5, 0x0⟩),
    ((0x0204E05D#32, 0x0E800008#32, 0x00000807#32), .mmas tH ⟨2, 4, 0, 7, false, 4, 0, 0, 8, 0x807⟩),
    ((0x0004E09D#32, 0x00000600#32, 0x00000000#32), .aclr tH ⟨0, 4, 0, 0, false, 0, 0, 6, 0, 0x0⟩),
    ((0x0204E0DD#32, 0x00160008#32, 0x00000000#32), .ald tH ⟨2, 4, 0, 0, false, 0, 22, 0, 8, 0x0⟩),
    ((0x0208E11D#32, 0x00170008#32, 0x00000000#32), .ast tH ⟨2, 8, 0, 0, false, 0, 23, 0, 8, 0x0⟩),
    ((0x0204E15D#32, 0x30090600#32, 0x00000010#32), .asts tH ⟨2, 4, 3, 0, false, 0, 9, 6, 0, 0x10⟩),
    ((0x0204E19D#32, 0xF2510608#32, 0x00000000#32), .xqt tH ⟨2, 4, 15, 1, false, 2, 17, 6, 8, 0x0⟩),
    ((0x1400E21D#32, 0x00000000#32, 0x00000000#32), .tinst tH ⟨20, 0, 0, 0, false, 0, 0, 0, 0, 0x0⟩),
    ((0x0200E25D#32, 0x00000000#32, 0x00000000#32), .tfree tH ⟨2, 0, 0, 0, false, 0, 0, 0, 0, 0x0⟩),
    ((0x0008E29D#32, 0x84550D0C#32, 0x000000C8#32), .tdraw tH ⟨0, 8, 8, 2, false, 2, 21, 13, 12, 0xC8⟩),
    ((0x0204E2DD#32, 0x00000000#32, 0x00000004#32), .tstat tH ⟨2, 4, 0, 0, false, 0, 0, 0, 0, 0x4⟩),
    ((0x0300E41D#32, 0x00000000#32, 0x00000000#32), .rack tH ⟨3, 0, 0, 0, false, 0, 0, 0, 0, 0x0⟩),
    ((0x0608E45D#32, 0x02000A09#32, 0x00000000#32), .resamp tH ⟨6, 8, 0, 1, false, 0, 0, 10, 9, 0x0⟩),
    ((0x0204E49D#32, 0x00000008#32, 0x00000002#32), .lxstart tH ⟨2, 4, 0, 0, false, 0, 0, 0, 8, 0x2⟩),
    ((0x0204E4DD#32, 0x00000000#32, 0x00000000#32), .lxstat tH ⟨2, 4, 0, 0, false, 0, 0, 0, 0, 0x0⟩),
    ((0x0200E51D#32, 0x00000000#32, 0x00000000#32), .lxkill tH ⟨2, 0, 0, 0, false, 0, 0, 0, 0, 0x0⟩)] : List ((Word × Word × Word) × Instr)).all (fun r => reads (decodeLong r.1.1 r.1.2.1 r.1.2.2) r.2) = true := by decide +kernel
/-- R268, R269. -/
theorem test_words_lauter : ([(0x8000000100000301#64, .lauterLi ⟨0x80000001, 0x0, 0, 0, 3⟩),
    (0x0000000700000302#64, .lauterLih ⟨0x7, 0x0, 0, 0, 3⟩),
    (0x0000000000001303#64, .lauterMov ⟨0x0, 0x0, 0, 1, 3⟩),
    (0x0000000000021304#64, .lauterAdd ⟨0x0, 0x0, 2, 1, 3⟩),
    (0x0000000000021305#64, .lauterSub ⟨0x0, 0x0, 2, 1, 3⟩),
    (0x0000000000021306#64, .lauterMul ⟨0x0, 0x0, 2, 1, 3⟩),
    (0x0000000000021307#64, .lauterAnd ⟨0x0, 0x0, 2, 1, 3⟩),
    (0x0000000000021308#64, .lauterOr ⟨0x0, 0x0, 2, 1, 3⟩),
    (0x0000000000021309#64, .lauterXor ⟨0x0, 0x0, 2, 1, 3⟩),
    (0x000000000002130A#64, .lauterShl ⟨0x0, 0x0, 2, 1, 3⟩),
    (0x000000000002130B#64, .lauterShr ⟨0x0, 0x0, 2, 1, 3⟩),
    (0xFFFFFFFF0000130C#64, .lauterAddi ⟨0xFFFFFFFF, 0x0, 0, 1, 3⟩),
    (0x000000104A301310#64, .lauterLdx ⟨0x10, 0x4A3, 0, 1, 3⟩),
    (0x0000000043601311#64, .lauterStx ⟨0x0, 0x436, 0, 1, 3⟩),
    (0xFFFFFFFD00021014#64, .lauterBeq ⟨0xFFFFFFFD, 0x0, 2, 1, 0⟩),
    (0xFFFFFFFD00021015#64, .lauterBne ⟨0xFFFFFFFD, 0x0, 2, 1, 0⟩),
    (0xFFFFFFFD00021016#64, .lauterBlt ⟨0xFFFFFFFD, 0x0, 2, 1, 0⟩),
    (0xFFFFFFFD00021017#64, .lauterBge ⟨0xFFFFFFFD, 0x0, 2, 1, 0⟩),
    (0xFFFFFFFE00000018#64, .lauterJmp ⟨0xFFFFFFFE, 0x0, 0, 0, 0⟩),
    (0x0000000500003019#64, .lauterLoop ⟨0x5, 0x0, 0, 3, 0⟩),
    (0x0000004000401320#64, .lauterDset ⟨0x40, 0x4, 0, 1, 3⟩),
    (0x0000000000701321#64, .lauterDidx ⟨0x0, 0x7, 0, 1, 3⟩),
    (0x0000000000001322#64, .lauterDstep ⟨0x0, 0x0, 0, 1, 3⟩),
    (0x0000000000001323#64, .lauterMovt ⟨0x0, 0x0, 0, 1, 3⟩),
    (0x0000000900421324#64, .lauterGath ⟨0x9, 0x4, 2, 1, 3⟩),
    (0x0000000900821325#64, .lauterScat ⟨0x9, 0x8, 2, 1, 3⟩),
    (0x0000000000321326#64, .lauterMcst ⟨0x0, 0x3, 2, 1, 3⟩),
    (0x0000000000021327#64, .lauterLred ⟨0x0, 0x0, 2, 1, 3⟩),
    (0x000000001B421030#64, .lauterFill ⟨0x0, 0x1B4, 2, 1, 0⟩),
    (0x0000000001421031#64, .lauterArrv ⟨0x0, 0x14, 2, 1, 0⟩),
    (0x000000001A521032#64, .lauterWaitb ⟨0x0, 0x1A5, 2, 1, 0⟩),
    (0x0000000043000033#64, .lauterFence ⟨0x0, 0x430, 0, 0, 0⟩),
    (0x0000007F0000003E#64, .lauterAbort ⟨0x7F, 0x0, 0, 0, 0⟩),
    (0x000000000000003F#64, .lauterEnd ⟨0x0, 0x0, 0, 0, 0⟩)] : List (DWord × Instr)).all (fun r => reads (decodeLauter r.1) r.2) = true := by decide +kernel
/-- R354. -/
theorem test_words_steep : ([(0x12343501#32, .steepLdi ⟨0x1234, 3, 5⟩),
    (0xC00C2702#32, .steepMov ⟨0xC00C, 2, 7⟩),
    (0xC00C2703#32, .steepAdd ⟨0xC00C, 2, 7⟩),
    (0xC00C2704#32, .steepSub ⟨0xC00C, 2, 7⟩),
    (0xC00C2705#32, .steepAnd ⟨0xC00C, 2, 7⟩),
    (0xC00C2706#32, .steepOr ⟨0xC00C, 2, 7⟩),
    (0xC00C2707#32, .steepShl ⟨0xC00C, 2, 7⟩),
    (0xC00C2708#32, .steepShr ⟨0xC00C, 2, 7⟩),
    (0x00020609#32, .steepLdpf ⟨0x2, 0, 6⟩),
    (0x0007060A#32, .steepStpf ⟨0x7, 0, 6⟩),
    (0xC00C270B#32, .steepLdw ⟨0xC00C, 2, 7⟩),
    (0xC00C270C#32, .steepStw ⟨0xC00C, 2, 7⟩),
    (0x0008400D#32, .steepBz ⟨0x8, 4, 0⟩),
    (0x0008400E#32, .steepBnz ⟨0x8, 4, 0⟩),
    (0x0302000F#32, .steepLoop ⟨0x302, 0, 0⟩),
    (0x80032010#32, .steepEmit ⟨0x8003, 2, 0⟩),
    (0xC00C2711#32, .steepWaitv ⟨0xC00C, 2, 7⟩),
    (0xC00C2712#32, .steepSignal ⟨0xC00C, 2, 7⟩),
    (0x00000013#32, .steepDrop ⟨0x0, 0, 0⟩),
    (0x00000014#32, .steepFaultq ⟨0x0, 0, 0⟩),
    (0x00000015#32, .steepEnd ⟨0x0, 0, 0⟩)] : List (Word × Instr)).all (fun r => reads (decodeSteep r.1) r.2) = true := by decide +kernel

/-! ### One step on the small machine: results from the spec's examples, or worked out by hand from its rules -/

def lane0 (g : Group) (vs : List (Nat × Nat)) : Group :=
  { g with lanes := g.lanes.modifyHead (fun x => vs.foldl (fun y q => y.setV q.1 (BitVec.ofNat 32 q.2)) x) }
def g0 : Group := tGroup []
/-- The split after an instruction, and the results it still waits for. -/
def ranSplit (i : Instr) (g : Group) : Split := ((ran i g).split? 0).getD {}
def waits (i : Instr) (g : Group) : List RegWrite := ((ranSplit i g).pend.flatMap (·.writes)).take 2

/-- R166's example: SLI, then two SSHI. -/
theorem test_sli_sshi : (ran (.sli tH ⟨0x800, 5⟩) g0).sReg 5 = 0x800 ∧ (ran (.sshi tH ⟨0x8, 5⟩) (tGroup [(5, 0x800)])).sReg 5 = 0x1000008 ∧
    (ran (.sshi tH ⟨0x80, 5⟩) (tGroup [(5, 0x1000008)])).sReg 5 = 0x2000010080 ∧ (ran (.sli tH ⟨0x1FFF, 5⟩) g0).sReg 5 = 0xFFFFFFFFFFFFFFFF := by decide +kernel
/-- R165: the signed shift of 64 and more, wrapping, the high product, the signed minimum; S0 stays zero; the pc moves by 4. -/
theorem test_uniform_alu : (ran (.ssra tH tSR) (tGroup [(2, 0x8000000000000000), (3, 64)])).sReg 4 = 0xFFFFFFFFFFFFFFFF ∧
    (ran (.ssub tH tSR) (tGroup [(2, 0), (3, 1)])).sReg 4 = 0xFFFFFFFFFFFFFFFF ∧
    (ran (.smulh tH tSR) (tGroup [(2, 0xFFFFFFFFFFFFFFFF), (3, 2)])).sReg 4 = 1 ∧ (ran (.smin tH tSR) (tGroup [(2, 0xFFFFFFFFFFFFFFFF), (3, 1)])).sReg 4 = 0xFFFFFFFFFFFFFFFF ∧
    (ran (.sadd tH { tSR with d := 0 }) (tGroup [(2, 5), (3, 6)])).sReg 0 = 0 ∧ (ranSplit (.sadd tH tSR) g0).pc = 0x10004 := by decide +kernel
/-- R167, R168: unsigned and signed comparison differ; KLOP's operation. -/
theorem test_conditions : (ran (.scmp tH ⟨false, 3, 2, 4 * 8 + 2⟩) (tGroup [(2, 1), (3, 0xFFFFFFFFFFFFFFFF)])).kReg 2 = true ∧
    (ran (.scmp tH ⟨false, 3, 2, 2 * 8 + 2⟩) (tGroup [(2, 1), (3, 0xFFFFFFFFFFFFFFFF)])).kReg 2 = false ∧ (ran (.klop tH ⟨false, 3 * 8 + 2, 1, 3⟩) g0).kReg 3 = true := by
  decide +kernel
/-- R156, R170, R6: SRD and SWR; SCSHIFT holds 40 at most and ignores bits 63:6. -/
theorem test_special : (ran (.srd tH ⟨0x03, 4⟩) g0).sReg 4 = 16 ∧ (ran (.srd tH ⟨0x06, 4⟩) g0).sReg 4 = 1000000 ∧ (ran (.swr tH ⟨0x15, 4⟩) (tGroup [(4, 0xFF)])).scshift = 40 ∧
    (ran (.swr tH ⟨0x15, 4⟩) (tGroup [(4, 0x45)])).scshift = 5 := by decide +kernel
/-- R175, R176: branches count from the instruction after them; BRD's join and target count from the BRD itself. -/
theorem test_branches : (ranSplit (.jmp tH ⟨0x7FFFC⟩) g0).pc = 0xFFF4 ∧ (ran (.call tH ⟨2⟩) g0).sReg 63 = 0x10004 ∧ (ranSplit (.call tH ⟨2⟩) g0).pc = 0x1000C ∧
    (ranSplit (.jr tH ⟨false, 0, 63, 0⟩) (tGroup [(63, 0x2000)])).pc = 0x2000 ∧
    (let g := ran (.brd ⟨false, 1, false⟩ { tL with ty := 0, a := 0x45, x := 0x40 }) { g0 with lanes := (List.range 16).map (fun l => tLane (if l < 4 then 2 else 0) l) };
     g.splits.map (fun x => (x.pc.toNat, x.mask.toNat, x.tag)) = [(0x1000C, 0xFFF0, some 0x10114#54), (0x10040, 0xF, some 0x10114#54)]) := by decide +kernel
/-- R181, R322: SYSCALL 0x12 with a supervisor handler: SCAUSE, SEPC, SSTATUS, as in the spec's example. -/
theorem test_syscall : (let g := ran (.syscall tH ⟨0x12, 0⟩) { g0 with stvec := 0x4000 }; g.scause = 0x120004 ∧ g.sepc = 0x10004 ∧ g.sstatus = 1 ∧ g.faultmask = 0xFFFF) ∧
    (let x := ranSplit (.syscall tH ⟨0x12, 0⟩) { g0 with stvec := 0x4000 }; x.pc = 0x4000 ∧ x.sup = true ∧ x.inSup = true) ∧
    (ran (.trap tH ⟨0x34, 0⟩) { g0 with utvec := 0x8001 }).utcause = 0x3403 := by decide +kernel
/-- R182: ERET from the user handler. -/
theorem test_eret : (let g := ran (.eret tH) { g0 with utepc := 0x7000, splits := [{ tSplit with inUser := true }] };
    g.splits.map (fun x => (x.pc.toNat, x.inUser)) = [(0x7000, false)]) := by decide +kernel
/-- R184, R31: SLEEP and WAITC park. -/
theorem test_parks : (ranSplit (.sleep tH ⟨false, 0, 2, 0⟩) (tGroup [(2, 50)])).status = .parked (.sleep 1000050) ∧
    (ranSplit (.waitc tH ⟨true, 0, 2, 0⟩) { tGroup [(2, 0)] with flights := [⟨0, 5, false⟩] }).status = .parked (.waitc 0 0) := by decide +kernel

/-- R115's example: 100 + 100 in `.i8`, wrapped and clamped; 32-bit sums wrap. -/
theorem test_iadd : (let v := fun sat => ((ran (.iadd tH { tL with a := 2, b := 3, d := 4, ty := 2, sat := sat }) (lane0 g0 [(2, 100), (3, 100)])).lane 0).vReg 4
    v false = 0xFFFFFFC8 ∧ v true = 127) ∧ ((ran (.iadd tH { tL with a := 2, b := 3, d := 2 }) (lane0 g0 [(2, 0xFFFFFFFF), (3, 2)])).lane 0).vReg 2 = 1 := by decide +kernel
/-- R189: IMULH of −1 by −1 in `.i32` and of 2³² − 1 by itself in `.n32`; IMAD negates its third operand. -/
theorem test_imul : (let v := fun ty => ((ran (.imulh tH { tL with a := 2, b := 3, d := 4, ty := ty }) (lane0 g0 [(2, 0xFFFFFFFF), (3, 0xFFFFFFFF)])).lane 0).vReg 4
    v 6 = 0 ∧ v 5 = 0xFFFFFFFE) ∧ ((ran (.imad tH { tL with a := 2, b := 3, c := 5, d := 4, sc := 4 }) (lane0 g0 [(2, 6), (3, 7), (5, 40)])).lane 0).vReg 4 = 2 := by decide +kernel
/-- R190, R191: shifts by the width and a field at its place. -/
theorem test_shifts : ((ran (.sra tH { tL with a := 2, d := 4, mo := 4, x := 32 }) (lane0 g0 [(2, 0x80000000)])).lane 0).vReg 4 = 0xFFFFFFFF ∧
    ((ran (.shl tH { tL with a := 2, d := 4, mo := 4, ty := 0, x := 32 }) (lane0 g0 [(2, 1)])).lane 0).vReg 4 = 0 ∧
    ((ran (.bfe tH { tL with a := 2, d := 4, mo := 4, ty := 6, x := 0x0404 }) (lane0 g0 [(2, 0x80)])).lane 0).vReg 4 = 0xFFFFFFF8 ∧
    ((ran (.bfi tH { tL with a := 2, d := 4, c := 5, mo := 4, ty := 0, x := 0x0804 }) (lane0 g0 [(2, 0xAB), (5, 0xFFFFFFFF)])).lane 0).vReg 4 = 0xFFFFFABF := by decide +kernel
/-- R116: division by zero, the overflow, the remainder's sign; the results are outstanding. -/
theorem test_idiv : (waits (.idiv tH { tL with a := 2, b := 3, d := 4 }) (lane0 g0 [(2, 7), (3, 0)])).head? = some (.v 0 4 0xFFFFFFFF) ∧
    (waits (.idiv tH { tL with a := 2, b := 3, d := 4 }) (lane0 g0 [(2, 0x80000000), (3, 0xFFFFFFFF)])).head? = some (.v 0 4 0x80000000) ∧
    (waits (.irem tH { tL with a := 2, b := 3, d := 4 }) (lane0 g0 [(2, 0xFFFFFFF9), (3, 2)])).head? = some (.v 0 4 0xFFFFFFFF) := by decide +kernel
/-- R196's example, R195: NLUT and BSEL. -/
theorem test_tables : (let g := ran (.nlut tH { tL with a := 3, b := 12, d := 10, ty := 21 }) (lane0 g0 [(3, 0xF81), (12, 0x3C383000), (13, 0x4C484440), (14, 0xBCB8B080), (15, 0xCCC8C4C0)]);
    (g.lane 0).vReg 10 = 0x00CC8030 ∧ (g.lane 0).vReg 11 = 0) ∧
    ((ran (.bsel tH { tL with a := 2, b := 3, d := 4, ty := 0, x := 0x10080407 }) (lane0 g0 [(2, 0x80), (3, 0x44332211)])).lane 0).vReg 4 = 0xFF001144 := by decide +kernel

/-- R107, R112: 1 + 2⁻²⁴ ties to even, and rounds up toward +∞; the sum of opposite values; a NaN is canonical. -/
theorem test_fadd : (let v := fun rm a b => ((ran (.fadd tH { tL with a := 2, b := 3, d := 4, ty := 11, rm := rm }) (lane0 g0 [(2, a), (3, b)])).lane 0).vReg 4
    v 0 0x3F800000 0x33800000 = 0x3F800000 ∧ v 2 0x3F800000 0x33800000 = 0x3F800001 ∧ v 0 0x3F800000 0xBF800000 = 0 ∧ v 3 0x3F800000 0xBF800000 = 0x80000000 ∧
    v 0 0x7F800000 0xFF800000 = 0x7FC00000) := by decide +kernel
/-- R198, R201: FFMA rounds once: (1 + 2⁻¹²)² − 1 = 2⁻¹¹ + 2⁻²⁴; FSQRT of 4 is outstanding; FMIN orders the zeros. -/
theorem test_ffma : ((ran (.ffma tH { tL with a := 2, b := 2, c := 3, d := 4, ty := 11 }) (lane0 g0 [(2, 0x3F800800), (3, 0xBF800000)])).lane 0).vReg 4 = 0x3A000400 ∧
    (waits (.fsqrt tH { tL with a := 2, d := 4, ty := 11 }) (lane0 g0 [(2, 0x40800000)])).head? = some (.v 0 4 0x40000000) ∧
    ((ran (.fmin tH { tL with a := 2, b := 3, d := 4, ty := 11 }) (lane0 g0 [(2, 0), (3, 0x80000000)])).lane 0).vReg 4 = 0x80000000 := by decide +kernel
/-- R115, R207: conversions clamp or wrap: 300 to `.n8`, −1.5 to `.i32` by RM 1 and RM 3. -/
theorem test_cvt : ((ran (.cvt tH { tL with a := 2, d := 4, ty := 1, x := 6 }) (lane0 g0 [(2, 300)])).lane 0).vReg 4 = 44 ∧
    ((ran (.cvt tH { tL with a := 2, d := 4, ty := 1, x := 6, sat := true }) (lane0 g0 [(2, 300)])).lane 0).vReg 4 = 255 ∧
    ((ran (.cvt tH { tL with a := 2, d := 4, ty := 6, x := 11, rm := 1 }) (lane0 g0 [(2, 0xBFC00000)])).lane 0).vReg 4 = 0xFFFFFFFF ∧
    ((ran (.cvt tH { tL with a := 2, d := 4, ty := 6, x := 11, rm := 3 }) (lane0 g0 [(2, 0xBFC00000)])).lane 0).vReg 4 = 0xFFFFFFFE := by decide +kernel
def g32 : Group :=
  { g0 with width := 32, splits := [{ tSplit with mask := 0xFFFFFFFF }],
            lanes := (List.range 32).map (fun l => { tLane 0 l with v := (List.range 16).map (fun r => if r = 2 then [0x40400000, 0xBF400000, 0x42C80000, 0x44160000].getD l 0 else
              if r = 6 then 0x80 else 0) }) }
/-- R210, R211's example: the shared scale of one MX block and the elements under it. -/
theorem test_mx_block : (let g := ran (.qscl tH { tL with a := 2, d := 6, ty := 13, x := 11 }) g32; (List.range 32).all (fun l => (g.lane l).vReg 6 == 0x80)) = true ∧
    (let g := ran (.qcvt tH { tL with a := 2, b := 6, d := 7, ty := 13, x := 11 }) g32; (List.range 4).map (fun l => (g.lane l).vReg 7) = [0x3C, 0xAC, 0x64, 0x79]) := by decide +kernel
/-- R214, R215, R217, R218: cross-lane. -/
theorem test_cross_lane : waits (.rdlane tH { tL with a := 2, d := 4, ty := 0, mo := 4, x := 5 }) g0 = [.s 4 82] ∧
    (ran (.vote tH { tL with ty := 0, a := 7, d := 4, sc := 3 }) g0).sReg 4 = 16 ∧ ((ran (.vsrd tH { tL with ty := 0, d := 4 }) g0).lane 9).vReg 4 = 9 ∧
    waits (.vxch tH { tL with ty := 0, a := 2, d := 4, mo := 5, x := 1 }) g0 = [.v 0 4 242, .v 1 4 2] ∧
    waits (.fold tH { tL with a := 2, d := 4, ty := 5 }) g0 = [.v 0 4 1952, .v 1 4 1952] := by decide +kernel

/-- R48, R220 to R222: a scratchpad store is little-endian, a byte load extends by type; `[s0 + v2 + 0x40]` is the place. -/
theorem test_scratch : (let t := after (exec (.st tH { tL with a := 2, d := 3, c := 1, ty := 0, x := 0x40 }) (tS (lane0 g0 [(2, 0x100), (3, 0x11223344)])))
    memRead t.scratch (2 * 2 ^ 19 + 0x140) = 0x44 ∧ memRead t.scratch (2 * 2 ^ 19 + 0x143) = 0x11) ∧
    waits (.ld tH { tL with a := 2, d := 3, c := 1, ty := 2, x := 0x40 }) (lane0 g0 [(2, 0x100)]) = [.v 0 3 0, .v 1 3 0] := by decide +kernel
/-- R55, R58, R171: a weak global store stays in the L1; with policy 1 it reaches the home. SLD reads the core's own store. -/
theorem test_global : (let t := after (exec (.sst tH tSR) (tS (tGroup [(2, 0x2000), (3, 8), (4, 0xABCD)])))
    t.hbm = [] ∧ coreBytes t 0 0x2008 8 = 0xABCD) ∧
    (let t := after (exec (.st ⟨false, 0, false⟩ { tL with a := 0, d := 3, b := 2, rm := 1, sat := true, ty := 0 }) (tS { tGroup [(2, 0x2000)] with
      lanes := (List.range 16).map (fun l => tLane (if l = 4 then 1 else 0) l) }));
     memReadNat t.hbm 0x2000 4 = 67) := by decide +kernel
/-- R49, R35: a misaligned access traps with ALIGN and the address, an address of 2⁵⁴ with PAGE. -/
theorem test_address_faults : (let g := ran (.sld tH tSR) { tGroup [(2, 0x2001)] with stvec := 0x4000 }; g.scause = 6 ∧ g.faultaddr = 0x2001 ∧ g.sepc = 0x10000) ∧
    (let g := ran (.sld tH tSR) { tGroup [(2, 0x40000000000000)] with stvec := 0x4000 }; g.scause = 7) := by decide +kernel
/-- R223: unsigned wrap-around increment and decrement, and a float sum, one lane each. -/
theorem test_atom : (let run := fun op ty old (v : Nat) => memReadNat (after (exec (.red ⟨false, 0, false⟩ { tL with c := 1, sat := true, d := 3, ty := ty, x := op }) { tS { lane0 g0 [(3, v)] with
        lanes := ((lane0 g0 [(3, v)]).lanes.modifyHead (fun x => { x with p := 1 })) } with scratch := memWriteNat [] (2 ^ 20) 4 old })).scratch (2 ^ 20) 4;
    run 8 5 7 7 = 0 ∧ run 8 5 6 7 = 7 ∧ run 9 5 0 7 = 7 ∧ run 1 5 0 1 = 0xFFFFFFFF ∧ run 10 11 0x3F800000 0x40000000 = 0x40400000) := by decide +kernel
/-- R231: the last arrival flips the phase and sets the count anew; an arrival too many poisons. -/
theorem test_arrive : (let run := fun n old => memReadNat (after (exec (.arrive ⟨false, 0, false⟩ { tL with c := 1, mo := 1, sat := true, d := 3, ty := 0 }) { tS { tGroup [(3, n)] with
        lanes := (List.range 16).map (fun l => tLane (if l = 0 then 1 else 0) l) } with scratch := memWriteNat [] (2 ^ 20) 8 old })).scratch (2 ^ 20) 8;
    run 1 0x0000000400000002 = 0x0000000400000001 ∧ run 1 0x0000000400000001 = 0x8000000400000004 ∧ bit (run 3 0x0000000400000002) 62 = true) := by decide +kernel

/-- R271, R274: ADDI, a taken branch, and the end of a loop's body. -/
theorem test_lauter : (((after (exec (.lauterAddi ⟨0xFFFFFFFF, 0, 0, 1, 2⟩) (tE { tProg with x := [0, 5, 0] }))).prog? ⟨0, 0⟩).map (fun p => (p.xReg 2, p.pc.toNat))) = some (4, 0x8008) ∧
    (((after (exec (.lauterJmp ⟨0xFFFFFFFE, 0, 0, 0, 0⟩) (tE tProg))).prog? ⟨0, 0⟩).map (fun p => p.pc.toNat)) = some 0x7FF8 ∧
    (((after (exec (.lauterMov ⟨0, 0, 0, 0, 3⟩) (tE { tProg with loops := [⟨0x7FE0, 0x8008, 3⟩] }))).prog? ⟨0, 0⟩).map (fun p => (p.pc.toNat, p.loops))) =
      some (0x7FE0, [⟨0x7FE0, 0x8008, 2⟩]) := by decide +kernel
/-- R354, R355: `ldpf`, `mov`, `shl`, `add` of the spec's steep example, and BNZ. -/
theorem test_steep : (((after (exec (.steepLdpf ⟨2, 0, 6⟩) (tQ { tRun with pkt := [0, 0, 0x4000020000] }))).run? 4).map (fun x => (x.reg 6, x.pc, x.count))) = some (0x4000020000, 1, 1) ∧
    (((after (exec (.steepShl ⟨12, 0, 7⟩) (tQ { tRun with q := [0, 0, 0, 0, 0, 0, 0, 5] }))).run? 4).map (fun x => x.reg 7)) = some 0x5000 ∧
    (((after (exec (.steepBnz ⟨8, 4, 0⟩) (tQ { tRun with pc := 1, q := [0, 0, 0, 0, 1] }))).run? 4).map (fun x => x.pc)) = some 10 := by decide +kernel
/-- The spec's example of RESAMP's counts (R42): weights 1, 3, 0, 4, target 4, u = 2⁶². R62's example of a scale address. -/
theorem test_counts : countsFrom 4 8 0x4000000000000000 0 [1, 3, 0, 4] = [0, 2, 0, 2] ∧
    scaleAddr { g0 with scbase := 0x7E0000000000, scshift := 5 } (0x400000000000 + 0x1234) = 0x800000000091 := by decide +kernel

/-- R419, its table: an ST of 32 bytes leaves a poisoned unit poisoned, one to its other half after it clears it; the same half twice does not. -/
theorem test_half_stores : (let s := setPoison State.reset (.die 0 64)
    poisoned (coverHalf s (.die 0 64) 32) (.die 0 100) = true ∧ poisoned (coverHalf (coverHalf s (.die 0 64) 32) (.die 0 96) 32) (.die 0 64) = false ∧
    poisoned (coverHalf (coverHalf s (.die 0 96) 32) (.die 0 96) 32) (.die 0 64) = true) := by decide
/-- The tables of the spec's translation example (chapter on translation), the second stage of partition 3 laid out to match. -/
def tWalk (leaf2 : Nat) : State :=
  let p : Partition := { block := (List.range 19).map (fun i => [1#64, 0x1000000, 0, 0, 0, 0, 0x3000000000, 0x3100000000, 0, 0x20020].getD i 0) }
  let entries : List (Nat × Nat) := [(0x1000000, 0x0000000010100003), (0x1010400, 0x0000000010200003), (0x1020000, 0x300003000000004D),
    (0x1020008, 0x300003000010004D), (0x1020010, 0x300003000020004D), (0x1020018, leaf2), (0x3000000000, 0x0000010000100003),
    (0x3000010800, 0x0000010000200003), (0x3000020008, 0x02A0010000340065)]
  { tS g0 with parts := [{}, {}, {}, p], tlb := [], hbm := entries.foldl (fun m q => memWriteNat m q.1 8 q.2) [] }
def walked (leaf2 : Nat) : List Nat × Except Cause TlbEntry := (walk1 (tWalk leaf2) { tCtx with part := 3, ptroot := 0x1000000000 } 0x2000010080)
theorem test_translation : (match (walked 0x300003000030004D).2 with
      | .ok e => e.pbase + (0x2000010080 - e.vbase) == 0x3000030080 && e.ptype == 2 && e.tunid == 0x02A && e.r && !e.w && e.u
      | .error _ => false) = true ∧ (walked 0x300003000030004D).1 = [] ∧
    (match (walked 0x200003000030004D).2 with | .ok _ => false | .error c => c.code == 0x07 && c.sub == 0x82 && c.stage2) = true := by decide +kernel

/-! ### States and operands that meet the hypotheses of the statements -/

/-! #### Uniform instructions -/

def srI : SRF := ⟨true, 63, 0, 0⟩
def srR : SRF := ⟨false, 3, 0, 4⟩
def uniforms (f : SRF) : List Instr := [.smov tH f, .sadd tH f, .ssub tH f, .smul tH f, .smulh tH f, .sand tH f, .sor tH f, .sxor tH f, .sshl tH f, .sshr tH f,
  .ssra tH f, .smin tH f, .smax tH f]
theorem witness_UniformInstructionsWriteTheirResults : (∀ i ∈ uniforms srI, Ready i tH (tS g0) g0 tSplit) ∧ (∀ i ∈ uniforms srR, Ready i tH (tS g0) g0 tSplit) ∧
    (∀ i ∈ [Instr.sli tH ⟨0x1FFF, 0⟩, .sshi tH ⟨0x1FFF, 5⟩, .spopc tH ⟨false, 0, 2, 4⟩, .sclz tH ⟨false, 0, 2, 4⟩, .nop tH], Ready i tH (tS g0) g0 tSplit) ∧
    g0.kGuard tH = true := ⟨readyAll (by decide +kernel), readyAll (by decide +kernel), readyAll (by decide +kernel), by decide +kernel⟩
/-- The eight conditions and the eight operations, and KLOP with I = 1. -/
theorem witness_ConditionsWriteK : (∀ i ∈ (List.range 8).map (fun c => Instr.scmp tH ⟨true, 63, 2, BitVec.ofNat 6 (8 * c + 7)⟩), Ready i tH (tS g0) g0 tSplit) ∧
    (∀ i ∈ (List.range 8).map (fun c => Instr.klop tH ⟨false, BitVec.ofNat 6 (8 * c + 1), 7, 6⟩), Ready i tH (tS g0) g0 tSplit) ∧ g0.kGuard tH = true ∧ srI.i = true :=
  ⟨readyAll (by decide +kernel), readyAll (by decide +kernel), by decide +kernel⟩
def sSup : Split := { tSplit with sup := true }
def wS (g : Group) (sp : Split) : Group := { g with splits := [sp] }
theorem witness_SpecialRegistersRead : (∀ i ∈ (List.range 0x26).map (fun n => Instr.srd tH ⟨BitVec.ofNat 13 n, 4⟩), Ready i tH (tS g0) g0 tSplit) ∧
    (∀ i ∈ (List.range 9).map (fun n => Instr.srd tH ⟨BitVec.ofNat 13 (0x80 + n), 0⟩), Ready i tH (tS (wS g0 sSup)) (wS g0 sSup) sSup) ∧ sSup.sup = true ∧
    (tS g0).grid? g0.grid = some tGrid ∧ (tS g0).team? g0.team = some tTeam ∧ g0.kGuard tH = true :=
  ⟨readyAll (by decide +kernel), readyAll (by decide +kernel), by decide +kernel⟩
theorem witness_SpecialRegistersWrite : (∀ i ∈ [0x07, 0x08, 0x0A, 0x14, 0x15].map (fun n => Instr.swr tH ⟨n, 4⟩), Ready i tH (tS g0) g0 tSplit) ∧
    (∀ i ∈ [0x1B, 0x80, 0x82, 0x83, 0x84, 0x85, 0x87, 0x88].map (fun n => Instr.swr tH ⟨n, 4⟩), Ready i tH (tS (wS g0 sSup)) (wS g0 sSup) sSup) ∧
    sSup.sup = true ∧ g0.kGuard tH = true := ⟨readyAll (by decide +kernel), readyAll (by decide +kernel), by decide +kernel⟩

/-! #### What comes before an effect -/

/-- K1 is true in the small group, K0 false; P0 is false in every lane. -/
def hK0 : Hdr := ⟨false, 0, false⟩
def hW : Hdr := ⟨false, 7, true⟩
def sPend : Split := { tSplit with pend := [⟨5, [.s 4 7], false⟩] }
def shortForms (h : Hdr) : List Instr :=
  [.nop h, .smov h ⟨false, 3, 0, 4⟩, .sli h ⟨1, 4⟩, .sshi h ⟨1, 4⟩, .sadd h srR, .ssub h srR, .smul h srR, .smulh h srR, .sand h srR,
    .sor h srR, .sxor h srR, .sshl h srR, .sshr h srR, .ssra h srR, .smin h srR, .smax h srR, .scmp h srR, .klop h srR, .spopc h ⟨false, 0, 2, 4⟩, .sclz h ⟨false, 0, 2, 4⟩,
    .jmp h ⟨4⟩, .call h ⟨4⟩, .jr h ⟨false, 0, 2, 4⟩, .exit h, .trap h ⟨1, 0⟩, .syscall h ⟨1, 0⟩, .eret h, .waitc h ⟨true, 0, 2, 0⟩, .bar h ⟨true, 0, 0, 0⟩, .yield h,
    .sleep h ⟨false, 0, 2, 0⟩]
def bL : LongF := { tL with ty := 0 }
def longForms (h : Hdr) : List Instr :=
  [.mov h bL, .iadd h tL, .imul h tL, .icmp h tL, .idiv h tL, .fadd h { tL with ty := 11 }, .fdiv h { tL with ty := 11 }, .fcmp h { tL with ty := 11 },
    .cvt h { tL with ty := 11, x := 6 }, .vote h bL, .fold h tL, .elect h bL, .brd h bL, .lexit h bL, .ld h tL, .st h tL, .atom h tL, .red h tL, .arrive h { bL with mo := 1 },
    .waitph h { bL with mo := 1 }, .rawait h { bL with mo := 1, c := 1 }]
theorem witness_GuardsWaitsAndIllegalFormsComeFirst :
    (g0.kGuard hK0 = false ∧ (∀ i ∈ shortForms hK0, Ready i hK0 (tS g0) g0 tSplit)) ∧
    ((∀ l, l < 64 → tSplit.mask.getLsbD l = true → xor ((g0.lane l).pReg hK0.g.toNat) hK0.gn = false) ∧ ∀ i ∈ longForms hK0, Ready i hK0 (tS g0) g0 tSplit) ∧
    (hW.w = true ∧ sPend.pend ≠ [] ∧ (tS (wS g0 sPend)).current? = some (wS g0 sPend, sPend) ∧ sPend.runOn = none) ∧
    ((tS g0).current? = some (g0, tSplit) ∧ tSplit.runOn = none ∧ (hW.w = true → tSplit.pend = []) ∧ (Instr.jr hW ⟨true, 0, 2, 4⟩).wellFormed = false ∧
      vOk g0 (.iadd hW { tL with d := 16 }) = false ∧ vOk g0 (.fadd hW { tL with ty := 12, b := 16 }) = false) ∧
    ((Instr.srd tH ⟨0x80, 4⟩).wellFormed = true ∧ (Instr.srd tH ⟨0x88, 4⟩).wellFormed = true ∧ tSplit.sup = false ∧ g0.kGuard tH = true) :=
  ⟨⟨by decide +kernel, readyAll (by decide +kernel)⟩, ⟨by decide +kernel, readyAll (by decide +kernel)⟩, by decide +kernel⟩

/-! #### Control flow -/

def gJ (v : DWord) : Group := tGroup [(2, v)]
theorem witness_BranchesGoToTheirTargets : g0.kGuard tH = true ∧ (∀ i ∈ [Instr.jmp tH ⟨0x7FFFF⟩, .call tH ⟨0x40000⟩], Ready i tH (tS g0) g0 tSplit) ∧
    (Ready (.jr tH ⟨false, 0, 2, 63⟩) tH (tS (gJ 0x3FFFFFFFFFFFFC)) (gJ 0x3FFFFFFFFFFFFC) tSplit ∧ ((gJ 0x3FFFFFFFFFFFFC).sReg 2).toNat % 4 = 0 ∧
      ((gJ 0x3FFFFFFFFFFFFC).sReg 2).toNat < 2 ^ 54) ∧
    (Ready (.jr tH ⟨false, 0, 2, 63⟩) tH (tS (gJ 0x2001)) (gJ 0x2001) tSplit ∧ ((gJ 0x2001).sReg 2).toNat % 4 ≠ 0 ∧ tSplit.runOn = none) ∧
    (Ready (.jr tH ⟨false, 0, 2, 0⟩) tH (tS (gJ 0x40000000000000)) (gJ 0x40000000000000) tSplit ∧ ((gJ 0x40000000000000).sReg 2).toNat % 4 = 0 ∧
      2 ^ 54 ≤ ((gJ 0x40000000000000).sReg 2).toNat) :=
  ⟨by decide +kernel, readyAll (by decide +kernel), ⟨ready_of (by decide +kernel), by decide +kernel⟩, ⟨ready_of (by decide +kernel), by decide +kernel⟩,
    ready_of (by decide +kernel), by decide +kernel⟩
/-- Guard P0. -/
def hP : Hdr := ⟨false, 0, false⟩
def gP (p : Nat → BitVec 8) : Group := { g0 with lanes := (List.range 16).map (fun l => tLane (p l) l) }
/-- P0 holds in lanes 0 to 3. -/
def gHalf : Group := gP (fun l => if l < 4 then 1 else 0)
/-- P0 holds in lane 0 alone. -/
def gOne : Group := gP (fun l => if l = 0 then 1 else 0)
def brdF : LongF := { tL with ty := 0, a := 0x45, x := 0x40 }
def sStack (n : Nat) : Split := { tSplit with stack := List.replicate n (.defer 0x100 0 0x200) }
def g4 : Group := { gHalf with splits := [tSplit, { tSplit with slot := 1, mask := 0 }, { tSplit with slot := 2, mask := 0 }, { tSplit with slot := 3, mask := 0 }] }
/-- Taken by all, by none, in part: with results outstanding, with an entry free (the stack one short of full), with none, with the stack full. -/
theorem witness_DivergentBranchesDivideTheSplit : let acts (g : Group) (sp : Split) (h : Hdr) : Prop := activeLanes g sp h ≠ [] ∧ maskOf (activeLanes g sp h) ≠ sp.mask
    (Ready (.brd tH brdF) tH (tS g0) g0 tSplit ∧ activeLanes g0 tSplit tH ≠ [] ∧ maskOf (activeLanes g0 tSplit tH) = tSplit.mask) ∧
    (Ready (.brd hP brdF) hP (tS g0) g0 tSplit ∧ activeLanes g0 tSplit hP = []) ∧
    (Ready (.brd hP brdF) hP (tS (wS gHalf sPend)) (wS gHalf sPend) sPend ∧ acts (wS gHalf sPend) sPend hP ∧ sPend.pend ≠ []) ∧
    (Ready (.brd hP brdF) hP (tS (wS gHalf (sStack 255))) (wS gHalf (sStack 255)) (sStack 255) ∧ acts (wS gHalf (sStack 255)) (sStack 255) hP ∧
      (sStack 255).pend = [] ∧ (sStack 255).stack.length < 256 ∧ (wS gHalf (sStack 255)).splits.length < 4) ∧
    (Ready (.brd hP brdF) hP (tS g4) g4 tSplit ∧ acts g4 tSplit hP ∧ tSplit.pend = [] ∧ tSplit.stack.length < 256 ∧ ¬ g4.splits.length < 4) ∧
    (Ready (.brd hP brdF) hP (tS (wS gHalf (sStack 256))) (wS gHalf (sStack 256)) (sStack 256) ∧ acts (wS gHalf (sStack 256)) (sStack 256) hP ∧
      (sStack 256).pend = [] ∧ 256 ≤ (sStack 256).stack.length ∧ (sStack 256).runOn = none) :=
  ⟨⟨ready_of (by decide +kernel), by decide +kernel⟩, ⟨ready_of (by decide +kernel), by decide +kernel⟩, ⟨ready_of (by decide +kernel), by decide +kernel⟩,
    ⟨ready_of (by decide +kernel), by decide +kernel⟩, ⟨ready_of (by decide +kernel), by decide +kernel⟩, ready_of (by decide +kernel), by decide +kernel⟩
def j1 : Split := { tSplit with mask := 0xFF, stack := [.defer 0x10000 0xFF00 0x10020, .held 4 0] }
def j2 : Split := { tSplit with mask := 0xFF, stack := [.arrived 0x10000 0xFF00] }
def j3a : Split := { tSplit with mask := 0xFF, tag := some 0x10000#54, stack := [.outer 0x10000 none] }
def j3b : Split := { tSplit with slot := 1, mask := 0xFF00, tag := some 0x10000#54, age := 1, status := .parked .join }
def j4a : Split := { tSplit with mask := 0xFF, tag := some 0x10000#54 }
def j4b : Split := { tSplit with slot := 1, mask := 0xFF00, tag := some 0x10000#54, age := 1 }
def g2 (a b : Split) : Group := { g0 with splits := [a, b] }
theorem witness_JoinFollowsItsCases : g0.kGuard tH = true ∧
    (Ready (.join tH) tH (tS (wS g0 j1)) (wS g0 j1) j1 ∧ j1.stack = .defer j1.pc 0xFF00 0x10020 :: [.held 4 0]) ∧
    (Ready (.join tH) tH (tS (wS g0 j2)) (wS g0 j2) j2 ∧ j2.stack = .arrived j2.pc 0xFF00 :: [] ∧ j2.tag ≠ some j2.pc) ∧
    (Ready (.join tH) tH (tS g0) g0 tSplit ∧ tSplit.stack = [] ∧ tSplit.tag ≠ some tSplit.pc) ∧
    (Ready (.join tH) tH (tS (g2 j4a j4b)) (g2 j4a j4b) j4a ∧ j4b ∈ (g2 j4a j4b).splits ∧ j4b.slot ≠ j4a.slot ∧ j4b.tag = some j4a.pc ∧ j4b.status = .ready ∧
      j4a.stack = [] ∧ j4a.tag = some j4a.pc) ∧
    (Ready (.join tH) tH (tS (g2 j3a j3b)) (g2 j3a j3b) j3a ∧ (g2 j3a j3b).splits = [j3a, j3b] ∧ j3a.slot ≠ j3b.slot ∧ j3a.age < j3b.age ∧ j3a.tag = some j3a.pc ∧
      j3b.tag = some j3a.pc ∧ j3b.pc = j3a.pc ∧ j3b.status = .parked .join ∧ j3b.stack = [] ∧ j3a.stack = .outer j3a.pc none :: []) :=
  ⟨by decide +kernel, ⟨ready_of (by decide +kernel), by decide +kernel⟩, ⟨ready_of (by decide +kernel), by decide +kernel⟩, ⟨ready_of (by decide +kernel), by decide +kernel⟩,
    ⟨ready_of (by decide +kernel), by decide +kernel⟩, ready_of (by decide +kernel), by decide +kernel⟩
def e1 : Split := { tSplit with mask := 0xFF }
def e2 : Split := { tSplit with slot := 1, mask := 0xFF00 }
def e3 : Split := { e1 with stack := [.defer 0x20000 0xFF00 0x10020] }
theorem witness_ExitRetiresLanes :
    (Ready (.exit tH) tH (tS (g2 e1 e2)) (g2 e1 e2) e1 ∧ (g2 e1 e2).kGuard tH = true ∧ ((g2 e1 e2).lane 8).live = true ∧ e1.mask.getLsbD 8 = false ∧ e1.stack = [] ∧
      (∀ x ∈ (g2 e1 e2).splits, x.slot ≠ e1.slot → x.status = .ready) ∧ (∃ x ∈ (g2 e1 e2).splits, x.slot ≠ e1.slot) ∧ e1.runOn = none ∧ e1.inUser = false ∧ e1.inSup = false) ∧
    (Ready (.exit tH) tH (tS (wS g0 e3)) (wS g0 e3) e3 ∧ (wS g0 e3).kGuard tH = true ∧ ((wS g0 e3).lane 8).live = true ∧ e3.mask.getLsbD 8 = false ∧
      e3.stack = .defer 0x20000 0xFF00 0x10020 :: []) ∧
    (Ready (.exit tH) tH (tS g0) g0 tSplit ∧ (¬ ∃ l, (g0.lane l).live = true ∧ tSplit.mask.getLsbD l = false) ∧ tSplit.stack = [] ∧ ∀ x ∈ g0.splits, x.slot = tSplit.slot) ∧
    (Ready (.lexit hP bL) hP (tS gHalf) gHalf tSplit ∧ activeLanes gHalf tSplit hP ≠ [] ∧ maskOf (activeLanes gHalf tSplit hP) ≠ tSplit.mask ∧
      (gHalf.lane 15).live = true ∧ (maskOf (activeLanes gHalf tSplit hP)).getLsbD 15 = false) := by
  refine ⟨⟨ready_of (by decide +kernel), by decide +kernel⟩, ⟨ready_of (by decide +kernel), by decide +kernel⟩, ⟨ready_of (by decide +kernel), ?_, by decide +kernel⟩,
    ready_of (by decide +kernel), by decide +kernel⟩
  rintro ⟨l, hl, hm⟩
  have hlt : l < 16 := by
    false_or_by_contra
    have h : g0.lane l = {} := by simp only [Group.lane, List.getD, show g0.lanes[l]? = none from List.getElem?_eq_none (by simp [g0, tGroup]; omega), Option.getD_none]
    rw [h] at hl; exact absurd hl (by decide)
  have : ∀ k, k < 16 → tSplit.mask.getLsbD k = true := by decide +kernel
  rw [this l hlt] at hm; cases hm

/-! #### Exceptions -/

theorem witness_TrapInstructionsRaiseTheirCauses : tSplit.runOn = none ∧ g0.kGuard tH = true ∧
    ∀ i ∈ [Instr.trap tH ⟨0xFF, 0⟩, .syscall tH ⟨0x1FFF, 0⟩], Ready i tH (tS g0) g0 tSplit := ⟨rfl, by decide +kernel, readyAll (by decide +kernel)⟩

def gVec (u s : DWord) : Group := { g0 with utvec := u, stvec := s }
/-- The small machine with one 128 KB image slot. -/
def tImg (g : Group) : State := { tS g with parts := [{ tPart with block := (tPart.block.set 11 0x4000000).set 12 0x4020000 }] }
def userCauses : List (BitVec 8) := [0x03, 0x05, 0x06, 0x0A, 0x0B, 0x0C, 0x0D, 0x0E, 0x0F, 0x11, 0x12, 0x14]
theorem witness_UserTrapEntrySavesTheState : let g := gVec 0x8001 0x4000
    (tImg g).group? g.uid = some g ∧ g.split? tSplit.slot = some tSplit ∧ Memory.wf (tImg g).hbm = true ∧
    (∀ k ∈ userCauses, let c : Cause := { code := k, sub := 0x34, addr := 0x2001 }
      c.code.toNat ∈ [0x03, 0x05, 0x06, 0x0A, 0x0B, 0x0C, 0x0D, 0x0E, 0x0F, 0x11, 0x12, 0x14] ∧ c.lxf = false ∧ c.stage2 = false) ∧
    g.utvec.getLsbD 0 = true ∧ tSplit.sup = false ∧ tSplit.inUser = false ∧ (∀ x ∈ g.splits, x.slot ≠ tSplit.slot → x.inUser = false) ∧ hasSlot (tImg g) g = true := by
  decide +kernel
def sUser : Split := { tSplit with inUser := true }
/-- A cause no user handler takes; LXF; no user handler; a supervisor split; a split in its user handler. -/
theorem witness_SupervisorTrapEntrySavesTheState :
    (∀ q ∈ [(gVec 0x8001 0x4000, ({ code := 0x01 } : Cause), tSplit), (gVec 0x8001 4, { code := 0x11, lxf := true }, tSplit), (gVec 0x8000 0x4000, { code := 0x06 }, tSplit),
        (gVec 0x8001 0x4000, { code := 0x06 }, sSup), (gVec 0x8001 0x4000, { code := 0x06 }, sUser)],
      let g := wS q.1 q.2.2
      let c := q.2.1
      let sp := q.2.2
      (tImg g).group? g.uid = some g ∧ g.split? sp.slot = some sp ∧ Memory.wf (tImg g).hbm = true ∧ c.stage2 = false ∧
      (c.code.toNat ∉ [0x03, 0x05, 0x06, 0x0A, 0x0B, 0x0C, 0x0D, 0x0E, 0x0F, 0x11, 0x12, 0x14] ∨ c.lxf = true ∨ g.utvec.getLsbD 0 = false ∨ sp.sup = true ∨ sp.inUser = true) ∧
      (g.stvec &&& 0x003FFFFFFFFFFFFC#64) ≠ 0 ∧ sp.inSup = false ∧ (∀ x ∈ g.splits, x.slot ≠ sp.slot → x.inSup = false)) := by decide +kernel
def sInSup : Split := { sSup with inSup := true }
def sOther : Split := { tSplit with slot := 1, inSup := true, sup := true, age := 1 }
theorem witness_EscalationStopsAndOccupiedHandlersWait :
    (∀ q ∈ [(gVec 0 3, ({ code := 0x01 } : Cause), tSplit), (gVec 0 0x4000, { code := 0x01 }, sInSup), (gVec 0 0x4000, { code := 0x07, stage2 := true }, tSplit)],
      let g := wS q.1 q.2.2
      (tImg g).group? g.uid = some g ∧ g.split? q.2.2.slot = some q.2.2 ∧
      q.2.1.code.toNat ∉ [0x03, 0x05, 0x06, 0x0A, 0x0B, 0x0C, 0x0D, 0x0E, 0x0F, 0x11, 0x12, 0x14] ∧
      ((g.stvec &&& 0x003FFFFFFFFFFFFC#64) = 0 ∨ q.2.2.inSup = true ∨ q.2.1.stage2 = true)) ∧
    (let g : Group := { gVec 0 0x4000 with splits := [tSplit, sOther] }
     let c : Cause := { code := 0x01 }
     (tImg g).group? g.uid = some g ∧ g.split? tSplit.slot = some tSplit ∧ c.stage2 = false ∧ (g.stvec &&& 0x003FFFFFFFFFFFFC#64) ≠ 0 ∧ tSplit.inSup = false ∧
     (∃ x ∈ g.splits, x.slot ≠ tSplit.slot ∧ x.inSup = true)) := by decide +kernel
def gRet (sp : Split) : Group := { g0 with utepc := 0x7000, sepc := 0x9000, sstatus := 7, splits := [sp] }
theorem witness_ReturnFromExceptionRestores :
    (Ready (.eret tH) tH (tS (gRet sUser)) (gRet sUser) sUser ∧ (gRet sUser).kGuard tH = true ∧ sUser.inSup = false ∧ sUser.inUser = true ∧ sUser.sup = false ∧
      sUser.status = .ready) ∧
    (Ready (.eret tH) tH (tS (gRet sInSup)) (gRet sInSup) sInSup ∧ (gRet sInSup).kGuard tH = true ∧ sInSup.inSup = true ∧ (gRet sInSup).scause.getLsbD 31 = false ∧
      sInSup.status = .ready) ∧
    (Ready (.eret tH) tH (tS g0) g0 tSplit ∧ g0.kGuard tH = true ∧ tSplit.runOn = none ∧ tSplit.inSup = false ∧ tSplit.inUser = false) :=
  ⟨⟨ready_of (by decide +kernel), by decide +kernel⟩, ⟨ready_of (by decide +kernel), by decide +kernel⟩, ready_of (by decide +kernel), by decide +kernel⟩

/-! #### Arithmetic of the lanes -/

/-- Register, S and immediate operands, with and without modifiers, at the least and the greatest type. -/
theorem witness_OperandsFollowTheirForms : 0 < tyBits ({ tL with ty := 20 }).ty ∧ 0 < tyBits ({ tL with ty := 12, sc := 15, mo := 1 }).ty ∧
    (tL.mo.getLsbD 2 = false) ∧ (let f := { tL with ty := 8, mo := 4, x := 0xFFFFFFFF }; 0 < tyBits f.ty ∧ f.mo.getLsbD 2 = true ∧ f.sc.getLsbD 1 = false ∧ f.ty.toNat ≤ 8) := by
  decide +kernel
def ints (f : LongF) : List Instr := [.iadd tH f, .isub tH f, .imul tH f, .imad tH f, .imin tH f, .imax tH f]
def raws (f : LongF) : List Instr := [.land tH f, .lor tH f, .lxor tH f, .sel tH f, .shl tH f, .shr tH f, .bfi tH f, .logt tH f]
def n64 : LongF := { tL with ty := 8, a := 2, b := 4, d := 6 }
theorem witness_IntegerResultsOfTheLanes : (∀ i ∈ ints n64, Ready i tH (tS g0) g0 tSplit) ∧ (∀ i ∈ ints { n64 with ty := 1, a := 3 }, Ready i tH (tS g0) g0 tSplit) ∧
    (∀ i ∈ raws { n64 with ty := 21 }, Ready i tH (tS g0) g0 tSplit) ∧
    (∀ i ∈ [Instr.imulh tH { n64 with ty := 7 }, .bfe tH n64, .sra tH n64, .iabs tH { n64 with b := 0 }, .ineg tH { n64 with b := 0 }, .mov tH { n64 with ty := 21, b := 0 },
      .brev tH { n64 with ty := 21, b := 0 }, .popc tH { n64 with ty := 21, b := 0, d := 7 }, .clz tH { n64 with ty := 0, b := 0 }, .idot4 tH { tL with ty := 2 },
      .bsel tH { bL with x := 0x1F }, .ptov tH bL, .nlut tH { n64 with ty := 21 }, .movi tH { tL with ty := 8, x := 5 }], Ready i tH (tS g0) g0 tSplit) :=
  ⟨readyAll (by decide +kernel), readyAll (by decide +kernel), readyAll (by decide +kernel), readyAll (by decide +kernel)⟩
theorem witness_BitFunctionsOfTheLanes : (31 < 32 ∧ 0 < 1) ∧ ((5 : BitVec 5) ∈ [5#5, 7#5] ∧ 2 ^ 32 - 1 < 2 ^ tyBits 5) ∧ ((7 : BitVec 5) ∈ [5#5, 7#5] ∧ 2 ^ 64 - 1 < 2 ^ tyBits 7) ∧
    (0xFFFFFFFF < 2 ^ 32 ∧ 3 < 4) := by decide +kernel
theorem witness_DivisionIsTruncated : (∀ i ∈ [Instr.idiv tH tL, .irem tH tL, .idiv tH n64, .irem tH { n64 with ty := 7 }], Ready i tH (tS g0) g0 tSplit) ∧
    tSplit.pend.length < 16 ∧ activeLanes g0 tSplit tH ≠ [] := ⟨readyAll (by decide +kernel), by decide +kernel⟩
theorem witness_PredicatesOfTheLanes :
    (∀ i ∈ (List.range 8).map (fun c => Instr.icmp tH { tL with sc := BitVec.ofNat 4 c, d := 7 }), Ready i tH (tS g0) g0 tSplit) ∧
    (∀ i ∈ (List.range 8).map (fun c => Instr.fcmp tH { tL with ty := 12, sc := BitVec.ofNat 4 c }), Ready i tH (tS g0) g0 tSplit) ∧
    (∀ i ∈ [Instr.icmp tH { n64 with ty := 21, sc := 7, d := 0 }, .plop tH { bL with a := 7, b := 7, c := 7, x := 255 }, .elect tH { bL with d := 6 }, .vtop tH { bL with x := 127, a := 15 }],
      Ready i tH (tS g0) g0 tSplit) := ⟨readyAll (by decide +kernel), readyAll (by decide +kernel), readyAll (by decide +kernel)⟩
def floats (f : LongF) : List Instr := [.fadd tH f, .fsub tH f, .fmul tH f, .ffma tH f, .fscale tH f]
theorem witness_FloatResultsOfTheLanes :
    (∀ i ∈ floats { tL with ty := 9, rm := 5 } ++ floats { n64 with ty := 12 }, Ready i tH (tS g0) g0 tSplit) ∧
    (∀ i ∈ [Instr.frnd tH { tL with ty := 11, rm := 5 }, .fdot2 tH { tL with ty := 9, rm := 5 }, .hadd2 tH { tL with ty := 9, rm := 5 }, .hmul2 tH { tL with ty := 10 },
      .hfma2 tH { tL with ty := 10, sc := 15 }, .fmin tH { n64 with ty := 12 }, .fmax tH { tL with ty := 10, sat := true }, .fclass tH { n64 with ty := 12, b := 0 }],
      Ready i tH (tS g0) g0 tSplit) := ⟨readyAll (by decide +kernel), readyAll (by decide +kernel)⟩
theorem witness_SlowFloatResultsOfTheLanes : (∀ i ∈ [Instr.fdiv tH { tL with ty := 11, rm := 5 }, .fsqrt tH { n64 with ty := 12, b := 0 }, .frcp tH { tL with ty := 11 },
      .frsq tH { tL with ty := 9 }, .fex2 tH { tL with ty := 10 }, .flg2 tH { tL with ty := 11 }, .fsin tH { tL with ty := 11, sat := true }, .fcos tH { tL with ty := 11, sc := 9 },
      .ftanh tH { tL with ty := 11 }], Ready i tH (tS g0) g0 tSplit) ∧ tSplit.pend.length < 16 ∧ activeLanes g0 tSplit tH ≠ [] := ⟨readyAll (by decide +kernel), by decide +kernel⟩
/-- The greatest draw and mode, and encodings at both ends of the least and of the greatest format. -/
theorem witness_RoundingKeepsRepresentableValues : (∀ q ∈ [((17 : BitVec 5), 15), (17, 0), (12, 0x7FF0000000000000), (12, 0xFFF0000000000000), (13, 0x7E), (14, 0xFC)],
    q.1 ∈ [9#5, 10#5, 11#5, 12#5, 13#5, 14#5, 15#5, 16#5, 17#5] ∧ 5 ≤ 5 ∧ 2 ^ 32 - 1 < 2 ^ 32 ∧ q.2 < 2 ^ tyBits q.1 ∧ (fdec q.1 q.2).isNan = false) := by decide +kernel
theorem witness_ConversionsOfTheLanes : (∀ i ∈ [Instr.cvt tH { tL with ty := 13, x := 12, rm := 5 }, .cvt tH { tL with ty := 8, x := 20, d := 2 }, .cvpk tH { tL with ty := 13, x := 0x2B },
      .cvup tH { tL with ty := 11, x := 0x31 }, .cvup tH { tL with ty := 9, x := 0x2D, d := 3 }, .qscl tH { tL with ty := 17, x := 0x2B }, .qcvt tH { tL with ty := 17, x := 0xEB, rm := 5 },
      .qcvt tH { tL with ty := 13, x := 0x29, rm := 5 }], Ready i tH (tS g0) g0 tSplit) := readyAll (by decide +kernel)

/-! #### Between lanes, and waiting -/

theorem witness_CrossLaneResults :
    (∀ i ∈ [Instr.vxch tH { bL with ty := 21, a := 2, d := 4, mo := 7, x := 0xFFFFFFFF, c := 4 }, .rdlane tH { bL with mo := 4, x := 15 }, .wrlane tH { bL with mo := 5, x := 16 },
      .vote tH { bL with a := 7, sc := 1 }, .samev tH { bL with a := 2, d := 4, x := 1 }, .samev tH { bL with a := 2, d := 4 }, .fold tH tL, .fold tH { n64 with ty := 12, b := 0 },
      .scan tH { tL with ty := 5, x := 0xD }, .scan tH { tL with ty := 11, rm := 5 }], Ready i tH (tS g0) g0 tSplit) ∧
    (∀ i ∈ (List.range 5).map (fun c => Instr.vote tH { bL with a := 7, sc := BitVec.ofNat 4 c }), Ready i tH (tS g0) g0 tSplit) ∧
    (∀ i ∈ (List.range 9).map (fun n => Instr.vsrd tH { bL with x := BitVec.ofNat 32 n }), Ready i tH (tS g0) g0 tSplit) ∧
    vxchSeg g0 { bL with c := 4 } ≤ g0.width ∧ vxchSeg g0 { bL with c := 0 } ≤ g0.width ∧ tSplit.pend.length < 16 ∧ activeLanes g0 tSplit tH ≠ [] ∧
    g0.width = 16 ∧ tyFloat tL.ty = false ∧ tyBits tL.ty = 32 :=
  ⟨readyAll (by decide +kernel), readyAll (by decide +kernel), readyAll (by decide +kernel), by decide +kernel⟩
def gFl (n : Nat) : Group := { tGroup [(2, 1)] with flights := List.replicate n ⟨3, 5, true⟩, lauSig := [(0, 64)] }
def gBar (uid : Nat) (st : SplitStatus) : Group := { g0 with uid := uid, splits := [{ tSplit with status := st }] }
def tBar (st : SplitStatus) : State := { tS g0 with groups := [g0, gBar 4 st] }
theorem witness_WaitingInstructionsWaitAndGoOn : g0.kGuard tH = true ∧ (∀ i ∈ [Instr.yield tH, .sleep tH ⟨false, 0, 2, 0⟩], Ready i tH (tS g0) g0 tSplit) ∧ g0.sReg 2 = 0 ∧
    (Ready (.sleep tH ⟨false, 0, 2, 0⟩) tH (tS (tGroup [(2, 0xFFFFFFFFFFFFFFFF)])) (tGroup [(2, 0xFFFFFFFFFFFFFFFF)]) tSplit ∧ (tGroup [(2, 0xFFFFFFFFFFFFFFFF)]).sReg 2 ≠ 0) ∧
    (Ready (.waitc tH ⟨true, 7, 2, 0⟩) tH (tS g0) g0 tSplit ∧ g0.counter 7 ≤ (g0.sReg 2).toNat) ∧
    (Ready (.waitc tH ⟨true, 3, 2, 0⟩) tH (tS (gFl 1)) (gFl 1) tSplit ∧ (gFl 1).kGuard tH = true ∧ (gFl 1).counter 3 ≤ ((gFl 1).sReg 2).toNat) ∧
    (Ready (.waitc tH ⟨true, 3, 2, 0⟩) tH (tS (gFl 2)) (gFl 2) tSplit ∧ ((gFl 2).sReg 2).toNat < (gFl 2).counter 3) ∧
    (Ready (.bar tH ⟨true, 15, 0, 0⟩) tH (tBar .ready) g0 tSplit ∧ ∃ x ∈ (tBar .ready).groups, x.team = g0.team ∧ x.uid ≠ g0.uid ∧ ∃ y ∈ x.splits, y.status = .ready) ∧
    (Ready (.bar tH ⟨true, 15, 0, 0⟩) tH (tBar (.parked (.bar 15))) g0 tSplit ∧ ∀ x ∈ (tBar (.parked (.bar 15))).groups, x.team = g0.team → ∀ y ∈ x.splits,
      (x.uid = g0.uid ∧ y.slot = tSplit.slot) ∨ y.status = .parked (.bar 15)) :=
  ⟨by decide +kernel, readyAll (by decide +kernel), by decide +kernel, ⟨ready_of (by decide +kernel), by decide +kernel⟩, ⟨ready_of (by decide +kernel), by decide +kernel⟩,
    ⟨ready_of (by decide +kernel), by decide +kernel⟩, ⟨ready_of (by decide +kernel), by decide +kernel⟩, ⟨ready_of (by decide +kernel), by decide +kernel⟩,
    ready_of (by decide +kernel), by decide +kernel⟩

/-! #### Memory -/

/-- Lane 0 alone, its address in S2. -/
def gM (a : DWord) (regs : List (Nat × DWord)) : Group := { gOne with s := regs64 ((2, a) :: regs) }
/-- Base S2, no index, in the space `c`. -/
def mF (c : BitVec 8) (ty : BitVec 5) : LongF := { tL with sat := true, b := 2, c := c, ty := ty, d := 4 }
/-- The last aligned word of the scratchpad, of a die allocation; every lane its own word. -/
theorem witness_OnChipLoadsAndStores :
    (∀ q ∈ [((1 : BitVec 8), Loc.scratch 2 65532), (3, Loc.die 4 65532)],
      (∀ i ∈ [Instr.ld hP (mF q.1 6), .st hP (mF q.1 6)], Ready i hP (tS (gM 65532 [])) (gM 65532 []) tSplit) ∧ activeLanes (gM 65532 []) tSplit hP = [0] ∧
      (mF q.1 6).mo = 0 ∧ (mF q.1 6).c.toNat % 4 ≠ 0 ∧
      placeOffset (tS (gM 65532 [])) (splitCtx (gM 65532 []) tSplit) (spaceOf (mF q.1 6).c.toNat) (laneAddr (gM 65532 []) 0 (mF q.1 6)).toNat 4 = .ok (.loc q.2) ∧
      poisoned (tS (gM 65532 [])) q.2 = false) ∧
    (∀ i ∈ [Instr.ld tH { tL with c := 1, ty := 21, d := 4 }, .st tH { tL with c := 1, ty := 21, d := 4 }], Ready i tH (tS g0) g0 tSplit) ∧
    (∀ l ∈ activeLanes g0 tSplit tH, placeOffset (tS g0) (splitCtx g0 tSplit) .scratch (laneAddr g0 l { tL with c := 1, ty := 21, d := 4 }).toNat 8 =
      .ok (.loc (.scratch 2 (16 * l)))) ∧
    g0.counter 2 < 63 ∧ tSplit.pend.length < 16 ∧ Memory.wf (tS g0).scratch = true ∧ Memory.wf (tS g0).dieScratch = true := by
  refine ⟨?_, readyAll (by decide +kernel), ?_, by decide +kernel⟩
  · intro q hq
    rcases List.mem_cons.mp hq with rfl | hq
    · exact ⟨readyAll (by decide +kernel), by decide +kernel, by decide +kernel, by decide +kernel, rfl, by decide +kernel⟩
    · obtain rfl := List.mem_singleton.mp hq
      exact ⟨readyAll (by decide +kernel), by decide +kernel, by decide +kernel, by decide +kernel, rfl, by decide +kernel⟩
  · have h : ∀ l ∈ activeLanes g0 tSplit tH, locIs (placeOffset (tS g0) (splitCtx g0 tSplit) .scratch (laneAddr g0 l { tL with c := 1, ty := 21, d := 4 }).toNat 8)
        (.scratch 2 (16 * l)) = true := by decide +kernel
    exact fun l hl => loc_of (h l hl)
/-- The strong forms: an acquire and a release at an address on chip. -/
theorem witness_OnChipLoadsAndStores_strong : let f : LongF := { mF 1 6 with mo := 2, sc := 3 }
    let g := gM 0x40 []
    Ready (.ld hP f) hP (tS g) g tSplit ∧ Ready (.st hP { f with mo := 3 }) hP (tS g) g tSplit ∧ activeLanes g tSplit hP = [0] ∧ f.mo ≠ 0 ∧ f.c.toNat % 4 ≠ 0 ∧
    mustWait (tS g) g tSplit (ordOf f) = false ∧ mustWait (tS g) g tSplit (ordOf { f with mo := 3 }) = false ∧ (tS g).memoriesWf = true ∧ g.counter 2 < 63 ∧
    placeOffset (tS g) (splitCtx g tSplit) (spaceOf f.c.toNat) (laneAddr g 0 f).toNat 4 = .ok (.loc (.scratch 2 0x40)) ∧ poisoned (tS g) (.scratch 2 0x40) = false ∧
    sigRoom (tS g) (.scratch 2 0x40) ∧ sigAt (tS g) (.scratch 2 0x40) 4 = [] :=
  ⟨ready_of (by decide +kernel), ready_of (by decide +kernel), by decide +kernel, by decide, by decide, by decide +kernel, by decide +kernel, by decide +kernel, by decide,
    loc_of (by decide +kernel), rfl, .inl (by decide), rfl⟩
theorem witness_GlobalLoadsAndStores : let g := gM 0xFFFF8 []
    let c := splitCtx g tSplit
    Memory.wf (tS g).hbm = true ∧ activeLanes g tSplit hP = [0] ∧
    (∀ f ∈ [mF 0 21, { mF 0 21 with rm := 1 }, { mF 0 21 with mo := 1, sc := 8 }], Ready (.ld hP f) hP (tS g) g tSplit ∧ Ready (.st hP f) hP (tS g) g tSplit ∧ f.c.toNat % 4 = 0 ∧
      laneAddr g 0 f = 0xFFFF8 ∧ memBytes f.ty = 8) ∧
    Reaches54 (tS g) c needR 0xFFFF8 8 0xFFFF8 ∧ Reaches54 (tS g) c needW 0xFFFF8 8 0xFFFF8 ∧ poisoned (tS g) (.hbm 0xFFFF8) = false ∧
    cacheLine? (tS g) .l1 g.core (0xFFFF8 / 128) = none ∧ g.counter 0 < 63 ∧ g.counter 1 < 63 ∧ tSplit.pend.length < 16 ∧
    g.kGuard tH = true ∧ (∀ i ∈ [Instr.sld tH srR, .sst tH srR], Ready i tH (tS (tGroup [(3, 0x2008)])) (tGroup [(3, 0x2008)]) tSplit) ∧
    Reaches54 (tS (tGroup [(3, 0x2008)])) (splitCtx (tGroup [(3, 0x2008)]) tSplit) needR ((tGroup [(3, 0x2008)]).sReg 0 + (tGroup [(3, 0x2008)]).sReg 3) 8 0x2008 ∧
    Reaches54 (tS (tGroup [(3, 0x2008)])) (splitCtx (tGroup [(3, 0x2008)]) tSplit) needW ((tGroup [(3, 0x2008)]).sReg 0 + (tGroup [(3, 0x2008)]).sReg 3) 8 0x2008 := by
  refine ⟨by decide +kernel, by decide +kernel, ?_, reach_of (tTlb 0) (by decide +kernel), reach_of (tTlb 0) (by decide +kernel), by decide +kernel, by decide +kernel,
    by decide +kernel, by decide +kernel, by decide +kernel, by decide +kernel, readyAll (by decide +kernel), reach_of (tTlb 0) (by decide +kernel),
    reach_of (tTlb 0) (by decide +kernel)⟩
  intro f hf
  refine ⟨?_, ?_, ?_⟩
  · exact readyAll (l := [mF 0 21, { mF 0 21 with rm := 1 }, { mF 0 21 with mo := 1, sc := 8 }].map (fun f => Instr.ld hP f)) (by decide +kernel) _ (List.mem_map.mpr ⟨f, hf, rfl⟩)
  · exact readyAll (l := [mF 0 21, { mF 0 21 with rm := 1 }, { mF 0 21 with mo := 1, sc := 8 }].map (fun f => Instr.st hP f)) (by decide +kernel) _ (List.mem_map.mpr ⟨f, hf, rfl⟩)
  · revert f; decide +kernel
def tCp (g : Group) : State := { tS g with tlb := [{ tTlb 0 with cp := 1 }] }
/-- The policy of the instruction and of the page; a weak and a strong SLD and SST, in the L1 and at the home. -/
theorem witness_GlobalLoadsAndStores_policies : let g := tGroup [(2, 0x2008)]
    let weak : SRF := { i := true, b := 0, a := 2, d := 4 }
    let far : SRF := { i := true, b := 4 * 8 + 1, a := 2, d := 4 }
    let a0 : DWord := 0x2008
    policyAt (tS (gM 0xFFFF8 [])) (gM 0xFFFF8 []) tSplit 0 0xFFFF8 ≠ 1 ∧ policyAt (tS (gM 0xFFFF8 [])) (gM 0xFFFF8 []) tSplit 1 0xFFFF8 = 1 ∧
    l1Fits (tS g) 0 (0x2008 / 128) ∧ wideScope 8 false = true ∧ (ordShort far true).order ≠ 0 ∧ (laneAgent (tS g) g tSplit).paired = false ∧ g.sReg 2 = a0 ∧
    (∀ f ∈ [weak, far], Ready (.sld tH f) tH (tS g) g tSplit ∧ Ready (.sst tH f) tH (tS g) g tSplit ∧ mustWait (tS g) g tSplit (ordShort f false) = false ∧
      mustWait (tS g) g tSplit (ordShort f true) = false) ∧
    policyAt (tS g) g tSplit (ordShort weak false).cp a0 ≠ 1 ∧ Reaches54 (tS g) (splitCtx g tSplit) needR a0 8 0x2008 ∧ Reaches54 (tS g) (splitCtx g tSplit) needW a0 8 0x2008 ∧
    poisoned (tS g) (.hbm 0x2008) = false ∧ cacheLine? (tS g) .l1 g.core (0x2008 / 128) = none ∧ sigRoom (tS g) (.hbm 0x2008) ∧ sigAt (tS g) (.hbm 0x2008) 8 = [] ∧
    (Ready (.sld tH weak) tH (tCp g) g tSplit ∧ Ready (.sst tH weak) tH (tCp g) g tSplit ∧ policyAt (tCp g) g tSplit 0 a0 = 1 ∧
      Reaches54 (tCp g) (splitCtx g tSplit) needR a0 8 0x2008 ∧ Reaches54 (tCp g) (splitCtx g tSplit) needW a0 8 0x2008 ∧ poisoned (tCp g) (.hbm 0x2008) = false ∧
      cacheLine? (tCp g) .l1 g.core (0x2008 / 128) = none) := by
  intro g weak far a0
  have h : ∀ f ∈ [weak, far], readyB (.sld tH f) tH (tS g) g tSplit = true ∧ readyB (.sst tH f) tH (tS g) g tSplit = true ∧
    mustWait (tS g) g tSplit (ordShort f false) = false ∧ mustWait (tS g) g tSplit (ordShort f true) = false := by decide +kernel
  refine ⟨by decide +kernel, by decide +kernel, .inr (by decide), ?_, by decide, by decide +kernel, rfl, fun f hf => ⟨ready_of (h f hf).1, ready_of (h f hf).2.1, (h f hf).2.2⟩,
    by decide +kernel, reach_of (tTlb 0) (by decide +kernel), reach_of (tTlb 0) (by decide +kernel), rfl, rfl, .inl (by decide), rfl, ready_of (by decide +kernel),
    ready_of (by decide +kernel), by decide +kernel, reach_of { tTlb 0 with cp := 1 } (by decide +kernel), reach_of { tTlb 0 with cp := 1 } (by decide +kernel), rfl, rfl⟩
  decide
/-- 2⁵⁴, an odd address, and the scratchpad's last and first illegal offsets. -/
theorem witness_AddressChecksInOrder : (0 < 8 ∧ 2 ^ 54 ≤ (0x40000000000000#64).toNat) ∧ ((0x3FFFFFFFFFFFFF#64).toNat < 2 ^ 54 ∧ (0x3FFFFFFFFFFFFF#64).toNat % 2 ≠ 0) ∧
    (Space.die ≠ .global ∧ (1#64).toNat % 2 ≠ 0) ∧
    ((splitCtx g0 tSplit).team = some 2 ∧ (tS g0).team? 2 = some tTeam ∧ (65528#64).toNat % 8 = 0 ∧ (65528#64).toNat + 8 ≤ tTeam.scratch ∧ (65536#64).toNat % 8 = 0 ∧
      ¬ (65536#64).toNat + 8 ≤ tTeam.scratch) ∧
    ((splitCtx g0 tSplit).grid = some 1 ∧ (tS g0).grid? 1 = some tGrid ∧ (65528#64).toNat + 8 ≤ tGrid.dieAlloc ∧ tGrid.clus = false) := by decide +kernel
/-- One lane of sixteen, and all of them with two causes. -/
theorem witness_FaultingLanesStopOthersRunOn : tSplit.runOn = none ∧
    ((tSplit.mask &&& ~~~maskOf ([(3, ({ code := 6 } : Cause))].map (·.1))) ≠ 0 ∧ (tS g0).group? g0.uid = some g0 ∧ g0.split? tSplit.slot = some tSplit) ∧
    (tSplit.mask &&& ~~~maskOf (((0, ({ code := 6 } : Cause)) :: (List.range 15).map (fun k => (k + 1, { code := 7 }))).map (·.1))) = 0 := by decide +kernel
/-- The types of each operation of R223 at a place in the scratchpad, and one at a home. -/
theorem witness_AtomicsReplaceTheWordTheyRead :
    (∀ i ∈ [Instr.atom hP { mF 1 8 with x := 0x600 }, .red hP { mF 1 7 with x := 9 }, .atom hP { mF 1 12 with x := 0x60C }, .red hP { mF 1 9 with x := 10 },
      .acas hP { mF 1 21 with x := 0x060800 }], Ready i hP (tS (gM 0x100 [])) (gM 0x100 []) tSplit) ∧
    (tS (gM 0x100 [])).memoriesWf = true ∧ activeLanes (gM 0x100 []) tSplit hP = [0] ∧
    ActsAt (tS (gM 0x100 [])) (splitCtx (gM 0x100 []) tSplit) (spaceOf (mF 1 8).c.toNat) needRW (laneAddr0 (gM 0x100 []) 0 (mF 1 8)) 8 (.scratch 2 0x100) ∧
    ActsAt (tS (gM 0x100 [])) (splitCtx (gM 0x100 []) tSplit) (spaceOf (mF 0 8).c.toNat) needRW (laneAddr0 (gM 0x100 []) 0 (mF 0 8)) 8 (.hbm 0x100) ∧
    (mF 1 8).mo = 0 ∧ sigAt (tS (gM 0x100 [])) (.hbm 0x100) 8 = [] ∧ mustWait (tS (gM 0x100 [])) (gM 0x100 []) tSplit (ordRmw (mF 1 8)) = false ∧
    mustWait (tS (gM 0x100 [])) (gM 0x100 []) tSplit (ordRmw { mF 1 8 with mo := 5, sc := 11 }) = false ∧ (∀ p, (gM 0x100 []).counter p < 63) ∧ tSplit.pend.length < 16 :=
  ⟨readyAll (by decide +kernel), by decide +kernel, by decide +kernel, acts_chip (by decide +kernel) (by decide) rfl,
    acts_home (by decide +kernel) (reach_of (tTlb 0) (by decide +kernel)) (by decide +kernel), rfl, by decide +kernel, by decide +kernel, by decide +kernel,
    fun p => by show 0 < 63; decide, by decide⟩
def tRedt (h : Word) (bits : BitVec 4096) (g : Group) : State := { tS g with redt := [⟨homeSliceOf 0x100, redtSource (tS g) g, h, bits⟩] }
def redtF : LongF := { mF 0 5 with d := 1, x := 0x0600 }
/-- No window; a newer tag (the lane's tag is 1); the tag recorded; a tag too old by one. -/
theorem witness_TaggedReductionsApplyOnce : let g := gM 0x100 []
    (tS g).memoriesWf = true ∧ activeLanes g tSplit hP = [0] ∧ mustWait (tS g) g tSplit (ordRmw redtF) = false ∧ g.counter 1 < 63 ∧ dltBase (tS g) (fld g.partid 0 4) = 0 ∧
    ActsAt (tS g) (splitCtx g tSplit) .global needRW (laneAddr0 g 0 redtF) 4 (.hbm 0x100) ∧ redtF.mo = 0 ∧ Ready (.redt hP redtF) hP (tS g) g tSplit ∧
    (tS g).redt = [] ∧
    Ready (.redt hP redtF) hP (tRedt 0 1 g) g tSplit ∧ 1 ≤ (1 - 0 : Word).toNat ∧ (1 - 0 : Word).toNat < 2 ^ 31 ∧
    (∃ w, (tRedt 1 1 g).redt.find? (fun w => w.slice == homeSliceOf 0x100 && w.src == redtSource (tRedt 1 1 g) g) = some w ∧ (w.high - (g.lane 0).vReg 1).toNat < 4096 ∧
      w.bits.getLsbD (w.high - (g.lane 0).vReg 1).toNat = true) ∧
    (4096 ≤ (4097 - 1 : Word).toNat ∧ 2 ^ 31 ≤ (1 - 4097 : Word).toNat) ∧ Ready (.redt hP redtF) hP (tRedt 4097 1 g) g tSplit :=
  ⟨by decide +kernel, by decide +kernel, by decide +kernel, by decide +kernel, by decide +kernel,
    acts_home (by decide +kernel) (reach_of (tTlb 0) (by decide +kernel)) (by decide +kernel), rfl, ready_of (by decide +kernel), rfl, ready_of (by decide +kernel), by decide,
    by decide, ⟨⟨homeSliceOf 0x100, redtSource (tRedt 1 1 (gM 0x100 [])) (gM 0x100 []), 1, 1⟩, by
      have e : redtSource (tRedt 1 1 (gM 0x100 [])) (gM 0x100 []) = redtSource (tS (gM 0x100 [])) (gM 0x100 []) := by decide +kernel
      show List.find? _ [(⟨homeSliceOf 0x100, redtSource (tS (gM 0x100 [])) (gM 0x100 []), 1, 1⟩ : RedtWindow)] = _
      rw [e]
      simp [List.find?], by decide +kernel, by decide +kernel⟩,
    by decide, ready_of (by decide +kernel)⟩

def fenceF (mo : BitVec 3) (sc : BitVec 4) : LongF := { bL with mo := mo, sc := sc, x := 7 }
/-- A dirty line of a core's L1 reached through its own address. -/
def tLine (core : Nat) (kind : CacheKind) : CacheLine := { kind := kind, core := core, line := 64, data := 0xAB, dirty := if kind == .l1 then 1 else 0, vas := [(0x2000, 128)] }
def sAcq (core : Nat) : Split := { tSplit with acqSig := [(core, 64)] }
def gBusy : Group := { g0 with flights := [⟨5, 7, false⟩] }
def tC (g : Group) : State := { tS g with caches := [tLine 0 .l1, tLine 0 .instr] }
/-- The widest scope and the narrowest, the core's own line and another core's; a line in the range and all lines. -/
theorem witness_FencesAndCacheMaintenance : (tC g0).memoriesWf = true ∧
    (Ready (.fence tH (fenceF 1 0)) tH (tS gBusy) gBusy tSplit ∧ activeLanes gBusy tSplit tH ≠ [] ∧ enginesBusy (tS gBusy) gBusy tSplit ((fenceF 1 0).x.toNat % 8) = true) ∧
    (Ready (.fence tH (fenceF 3 11)) tH (tS g0) g0 tSplit ∧ activeLanes g0 tSplit tH ≠ [] ∧ enginesBusy (tS g0) g0 tSplit ((fenceF 3 11).x.toNat % 8) = false ∧ (fenceF 3 11).mo = 3) ∧
    (∀ k ∈ [0, 1], Ready (.fence tH (fenceF 2 4)) tH (tC (wS g0 (sAcq k))) (wS g0 (sAcq k)) (sAcq k) ∧ (fenceF 2 4).mo = 2 ∧
      wideScope (fenceF 2 4).sc.toNat (laneAgent (tC (wS g0 (sAcq k))) (wS g0 (sAcq k)) (sAcq k)).paired = true ∧ (sAcq k).acqSig = [(k, 64)]) ∧
    0 = (wS g0 (sAcq 0)).core ∧ cacheLine? { tS (wS g0 (sAcq 1)) with caches := [tLine 1 .l1] } .l1 (wS g0 (sAcq 1)).core 64 = none ∧
    Ready (.fence tH (fenceF 2 4)) tH { tS (wS g0 (sAcq 1)) with caches := [tLine 1 .l1] } (wS g0 (sAcq 1)) (sAcq 1) ∧
    (Ready (.fence tH (fenceF 2 0)) tH (tS g0) g0 tSplit ∧ wideScope (fenceF 2 0).sc.toNat (laneAgent (tS g0) g0 tSplit).paired = false) ∧
    (Ready (.pref hP { mF 0 0 with d := 0 }) hP (tS (gM 0x2000 [])) (gM 0x2000 []) tSplit ∧ activeLanes (gM 0x2000 []) tSplit hP = [0] ∧
      Reaches54 (tS (gM 0x2000 [])) (splitCtx (gM 0x2000 []) tSplit) needR (laneAddr (gM 0x2000 []) 0 { mF 0 0 with d := 0 }) 1 0x2000 ∧
      poisoned (tS (gM 0x2000 [])) (.hbm 0x2000) = false) ∧
    (∀ f ∈ [(⟨false, 3, 2, 0⟩ : SRF), ⟨false, 0, 0, 1⟩], (∀ i ∈ [Instr.dwb tH f, .dinv tH f, .icinv tH f], readyB i tH (tC (gM 0x2000 [(3, 1)])) (gM 0x2000 [(3, 1)]) tSplit = true) ∧
      inRange (gM 0x2000 [(3, 1)]) f (tLine 0 .l1) = true ∧ inRange (gM 0x2000 [(3, 1)]) f (tLine 0 .instr) = true) ∧
    cacheLine? (tC g0) .l1 0 64 = some (tLine 0 .l1) ∧ cacheLine? (tC g0) .instr 0 64 = some (tLine 0 .instr) ∧ g0.kGuard tH = true ∧ g0.counter 1 < 63 ∧
    Ready (.fetchb tH) tH (tS g0) g0 tSplit := by
  refine ⟨by decide +kernel, ⟨ready_of (by decide +kernel), by decide +kernel⟩, ⟨ready_of (by decide +kernel), by decide +kernel⟩, ?_, by decide +kernel, by decide +kernel,
    ready_of (by decide +kernel), ⟨ready_of (by decide +kernel), by decide +kernel⟩,
    ⟨ready_of (by decide +kernel), by decide +kernel, reach_of (tTlb 0) (by decide +kernel), by decide +kernel⟩, by decide +kernel, by decide +kernel, by decide +kernel,
    by decide +kernel, by decide +kernel, ready_of (by decide +kernel)⟩
  have h : ∀ k ∈ [0, 1], readyB (.fence tH (fenceF 2 4)) tH (tC (wS g0 (sAcq k))) (wS g0 (sAcq k)) (sAcq k) = true ∧ (fenceF 2 4).mo = 2 ∧
    wideScope (fenceF 2 4).sc.toNat (laneAgent (tC (wS g0 (sAcq k))) (wS g0 (sAcq k)) (sAcq k)).paired = true ∧ (sAcq k).acqSig = [(k, 64)] := by decide +kernel
  exact fun k hk => ⟨ready_of (h k hk).1, (h k hk).2⟩
/-- A strong access to another device not performed yet; a release fence at the widest and the narrowest scope; what PREF needs of the L1, and a PREF on chip; no line twice. -/
theorem witness_FencesAndCacheMaintenance_rest :
    let away : RemoteOut :=
      { id := 40, group := 3, split := 0, engine := none, dst := 4, ty := 6, reg := true, op := 9, pc := 0x10000, insn := [],
        lanes := [{ lane := 0, addr := 0x3000, dest := 1, off := 0x3000, op := .read 4, state := .accepted }], order := 2, scope := 10, mask := 1 }
    let s := { tS g0 with remotes := [away] }
    (Ready (.fence tH (fenceF 2 8)) tH s g0 tSplit ∧ (ordOf (fenceF 2 8)).acquires = true ∧ strongAway s g0 tSplit = true) ∧
    (∀ k ∈ [0, 10], (ordOf (fenceF 3 k)).releases = true ∧ (ordOf (fenceF 3 k)).acquires = false ∧ readyB (.fence tH (fenceF 3 k)) tH (tS g0) g0 tSplit = true ∧
      enginesBusy (tS g0) g0 tSplit 7 = false ∧ tSplit.relFence = none) ∧
    policyAt (tS (gM 0x2000 [])) (gM 0x2000 []) tSplit 0 0x2000 ≠ 1 ∧ l1Fits (tS (gM 0x2000 [])) 0 (0x2000 / 128) ∧
    (Ready (.pref hP { mF 1 0 with d := 0 }) hP (tS (gM 0x2000 [])) (gM 0x2000 []) tSplit ∧ ({ mF 1 0 with d := 0 } : LongF).c.toNat % 4 ≠ 0) ∧
    (∀ line c d, cacheLine? (tC g0) .l1 g0.core line = some c → d ∈ (tC g0).caches → d.is .l1 g0.core line = true → d = c) := by
  refine ⟨⟨ready_of (by decide +kernel), by decide +kernel⟩, by decide +kernel, by decide +kernel, .inr (by decide), ⟨ready_of (by decide +kernel), by decide⟩, ?_⟩
  intro line c d hc hd hi
  rcases List.mem_cons.mp hd with rfl | hd
  · obtain rfl : 64 = line := by simpa [CacheLine.is, tLine, show g0.core = 0 from rfl] using hi
    exact (Option.some.inj hc)
  · obtain rfl := List.mem_singleton.mp hd
    simp [CacheLine.is, tLine] at hi
/-- The word of a barrier at scratchpad offset 0x100; S3 is the count, or the phase. -/
def barF : LongF := { mF 1 0 with d := 3, mo := 1 }
def gB (n : DWord) : Group := gM 0x100 [(3, n)]
def tB (w : Nat) (g : Group) : State := { tS g with scratch := memWriteNat [] (2 * 2 ^ 19 + 0x100) 8 w }
theorem witness_BarrierWordsCountArrivals :
    let here (w : Nat) (n : DWord) : Prop := (tB w (gB n)).memoriesWf = true ∧ activeLanes (gB n) tSplit hP = [0] ∧ sigAt (tB w (gB n)) (.scratch 2 0x100) 8 = [] ∧
      Ready (.arrive hP barF) hP (tB w (gB n)) (gB n) tSplit ∧ Ready (.waitph hP barF) hP (tB w (gB n)) (gB n) tSplit ∧
      ActsAt (tB w (gB n)) (splitCtx (gB n) tSplit) (spaceOf barF.c.toNat) needRW (laneAddr (gB n) 0 barF) 8 (.scratch 2 0x100) ∧
      ActsAt (tB w (gB n)) (splitCtx (gB n) tSplit) (spaceOf barF.c.toNat) needR (laneAddr (gB n) 0 barF) 8 (.scratch 2 0x100) ∧
      mustWait (tB w (gB n)) (gB n) tSplit (ordRmw barF) = false ∧ mustWait (tB w (gB n)) (gB n) tSplit (ordOf barF) = false ∧ (gB n).counter 2 < 63 ∧
      bytesAt (tB w (gB n)) (.scratch 2 0x100) 8 = w
    (here 0x400000005 4 ∧ bit 0x400000005 62 = false ∧ 4 < 0x400000005 % 2 ^ 32) ∧ (here 0x400000000 0 ∧ (0 : DWord).toNat % 2 ^ 32 = 0) ∧
    (here 0x8000000400000005 5 ∧ 5 = 0x8000000400000005 % 2 ^ 32 ∧ bit 0x8000000400000005 62 = false ∧ bit 0x8000000400000005 63 = (5 : DWord).getLsbD 0) ∧
    (here 0x400000005 6 ∧ 0x400000005 % 2 ^ 32 < 6 ∧ bit 0x400000005 63 = (6 : DWord).getLsbD 0) ∧ (here 0x4000000400000005 1 ∧ bit 0x4000000400000005 62 = true) ∧
    (here 0x400000005 1 ∧ bit 0x400000005 63 ≠ (1 : DWord).getLsbD 0) := by
  refine ⟨⟨?_, by decide⟩, ⟨?_, by decide⟩, ⟨?_, by decide⟩, ⟨?_, by decide⟩, ⟨?_, by decide⟩, ?_, by decide⟩ <;>
    exact ⟨by decide +kernel, by decide +kernel, by decide +kernel, ready_of (by decide +kernel), ready_of (by decide +kernel),
      acts_chip (by decide +kernel) (by decide) (loc_of (by decide +kernel)), acts_chip (by decide +kernel) (by decide) (loc_of (by decide +kernel)), by decide +kernel⟩
def ringF (d : BitVec 8) (mo : BitVec 3) : LongF := { mF 1 0 with d := d, mo := mo }
/-- BASE 0x1000, slots of 64 bytes, WPTR as given, CPTR 3, frontier 1, eight slots, released claims as given. -/
def ringHd (wptr map : Nat) : Nat := 0x1000 + 64 * 2 ^ 32 + wptr * 2 ^ 64 + 3 * 2 ^ 96 + 2 ^ 128 + 8 * 2 ^ 160 + map * 2 ^ 192
def tR (w : Nat) (g : Group) : State := { tS g with scratch := memWriteNat [] (2 * 2 ^ 19 + 0x100) 32 w }
/-- A filled slot and none; claim 2 released behind the frontier, claim 1 at it, claim 3 not made, claim 2 released before. -/
theorem witness_RingsClaimAndRelease : let g := gM 0x100 []
    let here (w : Nat) (d : BitVec 8) : Prop := (tR w g).memoriesWf = true ∧ activeLanes g tSplit hP = [0] ∧ sigAt (tR w g) (.scratch 2 0x100) 32 = [] ∧
      mustWait (tR w g) g tSplit (ordOf (ringF d 1)) = false ∧ g.counter 2 < 63 ∧ spaceOf (ringF d 1).c.toNat ≠ .global ∧
      ActsAt (tR w g) (splitCtx g tSplit) (spaceOf (ringF d 1).c.toNat) needRW (laneAddr g 0 (ringF d 1)) 32 (.scratch 2 0x100) ∧ ringBad w = false ∧ bit w 191 = false ∧
      bytesAt (tR w g) (.scratch 2 0x100) 32 = w ∧ Ready (.rrel hP (ringF d 1)) hP (tR w g) g tSplit ∧ ((g.lane 0).vReg d.toNat).toNat = d.toNat
    (here (ringHd 5 0) 4 ∧ Ready (.rawait hP (ringF 4 1)) hP (tR (ringHd 5 0) g) g tSplit ∧ ringHd 5 0 / 2 ^ 64 % 2 ^ 32 ≠ ringHd 5 0 / 2 ^ 96 % 2 ^ 32) ∧
    (here (ringHd 3 0) 4 ∧ Ready (.rawait hP (ringF 4 1)) hP (tR (ringHd 3 0) g) g tSplit ∧ ringHd 3 0 / 2 ^ 64 % 2 ^ 32 = ringHd 3 0 / 2 ^ 96 % 2 ^ 32) ∧
    (here (ringHd 5 0) 2 ∧ ¬ (2 ≤ 2 - 1 ∨ bit 0 (2 % 8) = true) ∧ 2 ≠ 1 ∧ bit 0 (1 % 8) = false ∧ 2 % 8 ≠ 1 % 8) ∧ (here (ringHd 5 0) 1 ∧ ¬ (2 ≤ 1 - 1 ∨ bit 0 (1 % 8) = true)) ∧
    (here (ringHd 5 0) 3 ∧ 2 ≤ 3 - 1) ∧ (here (ringHd 5 4) 2 ∧ bit 4 (2 % 8) = true) := by
  refine ⟨⟨?_, ready_of (by decide +kernel), by decide⟩, ⟨?_, ready_of (by decide +kernel), by decide⟩, ⟨?_, by decide⟩, ⟨?_, by decide⟩, ⟨?_, by decide⟩, ?_, by decide⟩ <;>
    exact ⟨by decide +kernel, by decide +kernel, by decide +kernel, by decide +kernel, by decide +kernel, by decide,
      acts_chip (by decide +kernel) (by decide) (loc_of (by decide +kernel)), by decide +kernel, by decide +kernel, by decide +kernel, ready_of (by decide +kernel),
      by decide +kernel⟩
def caskF : LongF := { mF 0 0 with d := 4, x := 9 }
def tEntry : CaskEntry := { producer := 3, w0 := 1, lo := 2, hi := 3, scope := 0, sig := [] }
def tK (c : Cask) (g : Group) : State := { tS g with casks := [c] }
def cEmpty : Cask := { num := 1023, part := 0, cap := 1 }
def cFull (n : Nat) : Cask := { cEmpty with chip := List.replicate 4096 tEntry, cellar := List.replicate n tEntry }
theorem witness_CasksKeepTasksInOrder : let g := gM 1023 []
    activeLanes g tSplit hP = [0] ∧ (laneAddr0 g 0 caskF).toNat = 1023 ∧ 1023 < 1024 ∧ mustWait (tK cEmpty g) g tSplit (ordOf caskF) = false ∧ tSplit.pend.length < 16 ∧ g.counter 7 < 63 ∧
    (∀ i ∈ [Instr.qput hP caskF, .qget hP caskF], Ready i hP (tK cEmpty g) g tSplit) ∧
    ((tK cEmpty g).cask? 1023 = some cEmpty ∧ cEmpty.part = fld g.partid 0 4 ∧ cEmpty.cellar = [] ∧ cEmpty.chip.length < 4096 ∧ cEmpty.bound = none ∧ cEmpty.chip = []) ∧
    ((tK (cFull 0) g).cask? 1023 = some (cFull 0) ∧ 4096 ≤ (cFull 0).chip.length ∧ (cFull 0).cellar.length < (cFull 0).cap ∧ Ready (.qput hP caskF) hP (tK (cFull 0) g) g tSplit) ∧
    ((tK (cFull 1) g).cask? 1023 = some (cFull 1) ∧ 4096 ≤ (cFull 1).chip.length ∧ (cFull 1).cap ≤ (cFull 1).cellar.length ∧ Ready (.qput hP caskF) hP (tK (cFull 1) g) g tSplit) ∧
    ((tK { cEmpty with chip := [tEntry] } g).cask? 1023 = some { cEmpty with chip := [tEntry] } ∧ Ready (.qget hP caskF) hP (tK { cEmpty with chip := [tEntry] } g) g tSplit) ∧
    (tS g).cask? 1023 = none ∧ ((tK { cEmpty with part := 1 } g).cask? 1023 = some { cEmpty with part := 1 } ∧ 1 ≠ fld g.partid 0 4) ∧
    (Ready (.qget hP caskF) hP (tK { cEmpty with bound := some 1 } g) g tSplit ∧ (tK { cEmpty with bound := some 1 } g).cask? 1023 = some { cEmpty with bound := some 1 }) :=
  ⟨by decide +kernel, by decide +kernel, by decide, by decide +kernel, by decide, by decide +kernel, readyAll (by decide +kernel), by decide +kernel,
    ⟨rfl, by simp [cFull], by simp [cFull, cEmpty], ready_of (by decide +kernel)⟩, ⟨rfl, by simp [cFull], by simp [cFull, cEmpty], ready_of (by decide +kernel)⟩,
    ⟨by decide +kernel, ready_of (by decide +kernel)⟩, rfl, by decide +kernel, ready_of (by decide +kernel), rfl⟩

/-! #### Matrix instructions and tuns -/

/-- Every byte of the first megabyte is reached where the owner's TLB maps it. -/
theorem reach_low {s : State} {c : Ctx} {need : Need} {a : DWord} (o : Nat) (ht : s.tlb = [tTlb 0, tTlb 192, tTlb 1024]) (ho : o ∈ [0, 192, 1024])
    (hc : c.core = o ∧ c.part = 0 ∧ c.asid = 0 ∧ c.ptroot = 0) (h : a.toNat < 2 ^ 20) : Reaches54 s c need a 1 a.toNat := by
  obtain ⟨h1, h2, h3, h4⟩ := hc
  have e : tlbFind s c.core c a.toNat = some (tTlb o) := by
    simp only [List.mem_cons, List.not_mem_nil, or_false] at ho
    rcases ho with rfl | rfl | rfl <;> simp [tlbFind, ht, List.find?, TlbEntry.hits, tTlb, h1, h2, h3, h4, show a.toNat < 1048576 from h]
  refine ⟨by omega, Nat.mod_one _, tTlb o, e, ?_, fun _ => rfl, ?_, Nat.mod_one _, ?_, rfl, ?_, ?_⟩ <;> simp [permSub, tTlb, apertureBase]; omega
/-- A control word: tile 16 × 16 × 32, types, scaled or not, both strides 32 bytes. -/
def cw (a b c : Nat) (sc : Bool) : DWord := dw (a * 2 ^ 9 + b * 2 ^ 14 + c * 2 ^ 19 + (if sc then 2 ^ 24 else 0) + 2 * 2 ^ 32 + 2 * 2 ^ 48)
/-- A at 0x1000, B at 0x2000 of the scratchpad, the control word in S4, the tile at 0x100, scales at 0x3000 and 0x3100. -/
def gX (c : DWord) : Group := { g0 with s := regs64 [(2, 0x1000), (3, 0x2000), (4, c), (5, 0x100), (6, 0x3000), (7, 0x3100)], scbase := 0x3000, scshift := 5 }
def xF : LongF := { tL with a := 2, b := 3, c := 4, d := 5, sc := 5, ty := 0 }
def xG : LongF := { xF with x := 0x0706 }
def tX (c : DWord) : State := tS (gX c)
/-- Integers unscaled; 8-bit floats with MMA's scales; 8-bit floats with MMAS's. -/
theorem witness_MatrixMultipliesAccumulate : ∀ q ∈ [(cw 2 2 6 false, xF, false), (cw 13 13 11 true, xF, false), (cw 14 13 10 true, xG, true)],
    let c := q.1
    let f := q.2.1
    (Ready (if q.2.2 then .mmas tH f else .mma tH f) tH (tX c) (gX c) tSplit) ∧
    ((gX c).kGuard tH = true ∧ (tX c).team? (gX c).team = some tTeam ∧ (tX c).memoriesWf = true ∧ f.sc = 5 ∧ (gX c).sReg f.c.toNat = c ∧ mmaLegal (gX c) f q.2.2 c = true ∧
      0x100 + cwM c * cwN c * (tyBits (cwC c) / 8) ≤ tTeam.acc ∧ (opndA (gX c) f c).base.toNat + (opndA (gX c) f c).rows * (opndA (gX c) f c).stride ≤ tTeam.scratch ∧
      (opndB (gX c) f c).base.toNat + (opndB (gX c) f c).rows * (opndB (gX c) f c).stride ≤ tTeam.scratch ∧ (opndB (gX c) f c).base.toNat % 16 = 0 ∧
      (tX c).poison = [] ∧ ((tX c).budgets.getD ((gX c).core / 8) {}).limit = none ∧ (gX c).counter 4 < 63 ∧ (tX c).caches = []) ∧
    ∀ m ∈ List.range 16, (∃ pa, Reaches54 (tX c) (splitCtx (gX c) tSplit) needR (scaleAAddr (gX c) f q.2.2 c m 0) 1 pa ∧ poisoned (tX c) (.hbm pa) = false) ∧
      ∃ pa, Reaches54 (tX c) (splitCtx (gX c) tSplit) needR (scaleBAddr (gX c) f q.2.2 c m 0) 1 pa ∧ poisoned (tX c) (.hbm pa) = false := by
  intro q hq
  refine ⟨?_, ?_, fun m hm => ⟨⟨_, reach_low 0 rfl (by decide) ⟨rfl, (by decide : fld g0.partid 0 4 = 0), rfl, rfl⟩ ?_, rfl⟩, ⟨_, reach_low 0 rfl (by decide) ⟨rfl, (by decide : fld g0.partid 0 4 = 0), rfl, rfl⟩ ?_, rfl⟩⟩⟩
  · refine ready_of ?_
    revert q; decide +kernel
  · revert q; decide +kernel
  · revert m; revert q; decide +kernel
  · revert m; revert q; decide +kernel
/-- The type codes in words of 32 × 16 × 32 and 16 × 16 × 32 tiles. -/
def cwT (m c sa : Nat) : DWord := dw (m + c * 2 ^ 19 + sa * 2 ^ 32 + 2 * 2 ^ 48)
def gY (c : DWord) : Group := { gX c with lanes := gOne.lanes }
def accF : LongF := { tL with d := 5, c := 4, ty := 0 }
def aldF (ty : BitVec 5) : LongF := { tL with d := 4, b := 5, sat := true, ty := ty, x := 0xFEF8 }
def astsF (ty : BitVec 5) : LongF := { accF with a := 2, sc := 1, ty := ty }
def xqtF (ty : BitVec 5) : LongF := { xF with ty := ty }
/-- Accumulator types of two and of four bytes; a lane's element at the end of the allocation; narrowing stores; 8-bit and 4-bit tiles. -/
theorem witness_AccumulatorsMoveTheirElements :
    (∀ q ∈ [(10, 2, (14 : BitVec 5), (17 : BitVec 5)), (11, 4, 11, 13)],
      let c := cwT 1 q.1 q.2.1
      let g := gY c
      (∀ i ∈ [Instr.aclr tH accF, .asts tH (astsF q.2.2.1), .xqt tH (xqtF q.2.2.2)], Ready i tH (tX c) (gX c) tSplit) ∧
      (∀ i ∈ [Instr.ald hP (aldF 21), .ast hP (aldF 21)], Ready i hP (tS g) g tSplit) ∧ activeLanes g tSplit hP = [0] ∧ (accLane g 0 (aldF 21)).toNat + 8 = tTeam.acc ∧
      ((tX c).memoriesWf = true ∧ (tX c).team? (gX c).team = some tTeam ∧ (gX c).counter 4 < 63 ∧ (gX c).kGuard tH = true ∧ mcOk c = true ∧ ncOk c = true ∧
        accType (cwC c) = true ∧ 0x100 + cwM c * cwN c * (tyBits (cwC c) / 8) ≤ tTeam.acc ∧ astsPair (cwC c) q.2.2.1 = true ∧
        roundUp (cwN c * (tyBits q.2.2.1 / 8)) 16 ≤ cwAstr c ∧ 0x1000 + cwM c * cwAstr c ≤ tTeam.scratch ∧ xqtLegal (gX c) (xqtF q.2.2.2) c = true ∧
        0x100 + cwM c * cwK c * 4 ≤ tTeam.acc ∧ (xqtSrc (gX c) (xqtF q.2.2.2) c).base.toNat + (xqtSrc (gX c) (xqtF q.2.2.2) c).rows * (xqtSrc (gX c) (xqtF q.2.2.2) c).stride ≤ 0x2000 ∧
        (xqtDst (gX c) (xqtF q.2.2.2) c).base.toNat = 0x2000 ∧ 0x2000 + (xqtDst (gX c) (xqtF q.2.2.2) c).rows * (xqtDst (gX c) (xqtF q.2.2.2) c).stride ≤ tTeam.scratch ∧
        (tX c).poison = [] ∧ ((tX c).budgets.getD ((gX c).core / 8) {}).limit = none ∧ (tX c).caches = [])) ∧
    ∀ q ∈ [(10, 2, (17 : BitVec 5)), (11, 4, 13)], ∀ m ∈ List.range 32, let c := cwT 1 q.1 q.2.1
      (∀ k ∈ List.range 32, ∃ pa, Reaches54 (tX c) (splitCtx (gX c) tSplit) needR (scaleAddr (gX c) ((xqtSrc (gX c) (xqtF q.2.2) c).elemAt m k).toNat) 1 pa) ∧
      ∃ pa, Reaches54 (tX c) (splitCtx (gX c) tSplit) needW (scaleAddr (gX c) ((xqtDst (gX c) (xqtF q.2.2) c).elemAt m 0).toNat) 1 pa := by
  refine ⟨fun q hq => ⟨?_, ?_, ?_⟩, fun q hq m hm =>
    ⟨fun k hk => ⟨_, reach_low 0 rfl (by decide) ⟨rfl, (by decide : fld g0.partid 0 4 = 0), rfl, rfl⟩ ?_⟩, ⟨_, reach_low 0 rfl (by decide) ⟨rfl, (by decide : fld g0.partid 0 4 = 0), rfl, rfl⟩ ?_⟩⟩⟩
  · refine readyAll ?_
    revert q; decide +kernel
  · refine readyAll ?_
    revert q; decide +kernel
  · revert q; decide +kernel
  · revert k; revert m; revert q; decide +kernel
  · revert m; revert q; decide +kernel

/-- A descriptor: operator at 0x20000, two rows of eight signed bytes, results of 32 bits, two slots, feed window at 0x200000, draw window at
0x300000, one writer of this device with key 0x77 for both slots. -/
def tDesc (mode : Nat) : List DWord :=
  [0x20000, dw (1 + 7 * 2 ^ 12 + 2 * 2 ^ 24 + 2 * 2 ^ 29 + 6 * 2 ^ 34 + mode * 2 ^ 39 + 1 * 2 ^ 45), 0, 0, 0x200001, 0x300000, 0x0100, 0, 0x77, 0, 0, 0, 0, 0, 0, 0]
def tTun : Tun :=
  { num := 5, part := 0, desc := tDesc 0, installing := false, cores := [0], feedPages := [0x60000], drawPages := [0x50000], op := [[1, 2, 3, 4, 5, 6, 7, 8], [255, 0, 0, 0, 0, 0, 0, 1]],
    ctx := tCtx, group := 3, flight := 9 }
def eFeed : TlbEntry := { tTlb 0 with vbase := 0x200000, size := 65536, pbase := 0x60000, ptype := 1, tunid := 5 }
def eDraw : TlbEntry := { tTlb 0 with vbase := 0x300000, size := 65536, pbase := 0x50000, ptype := 2, tunid := 5 }
/-- The device with the tun bound and its windows mapped; the word of slot 1 is `w`. -/
def tT (w : Nat) (g : Group) : State := { tS g with tlb := [tTlb 0, eFeed, eDraw, tTlb 192], tuns := [tTun], hbm := memWriteNat [] 0x50040 16 (w + 0x1122334455667788 * 2 ^ 64) }
/-- A draw of eight bytes by lane 0 from the results of slot 1, the last sequence in S3; S2 is the address of the slot, V0 is 0. -/
def tdF (rm : BitVec 3) (x : Word) : LongF := { tL with b := 2, a := 0, c := 3, d := 4, ty := 21, rm := rm, x := x }
def gTd (last : DWord) : Group := gM 0x300048 [(3, last)]
def onA (n : BitVec 8) : LongF := { tL with ty := 0, a := n }
def drawIs (x : State × Except Cause Target) (s : State) (pa : Nat) (e : TlbEntry) : Bool :=
  match x with | (t, .ok (.draw p d)) => decide (t = s ∧ p = pa ∧ d = e) | _ => false
theorem draw_of {x : State × Except Cause Target} {s : State} {pa : Nat} {e : TlbEntry} (h : drawIs x s pa e = true) : x = (s, .ok (.draw pa e)) := by
  unfold drawIs at h; split at h
  · obtain ⟨rfl, rfl, rfl⟩ := of_decide_eq_true h; rfl
  · cases h
/-- A descriptor to be read; a tun of this partition, of another, none; its five words; a newer image, consumed or not, and one that is not newer. -/
theorem witness_TunsInstallDrawAndReport : g0.counter 5 < 63 ∧ g0.kGuard tH = true ∧ tSplit.pend.length < 16 ∧
    (Ready (.tinst tH (onA 2)) tH (tT 0 (gM 0x8000 [])) (gM 0x8000 []) tSplit ∧ ((gM 0x8000 []).sReg 2).toNat < 2 ^ 54 ∧ ((gM 0x8000 []).sReg 2).toNat % 128 = 0) ∧
    (Ready (.tfree tH (onA 2)) tH (tT 0 (gM 5 [])) (gM 5 []) tSplit ∧ ((gM 5 []).sReg 2).toNat < 4096 ∧ (tT 0 (gM 5 [])).tun? 5 = some tTun ∧ tTun.part = fld g0.partid 0 4 ∧
      tTun.installing = false ∧ tTun.slots = [] ∧ (tT 0 (gM 5 [])).draws = []) ∧
    (Ready (.tfree tH (onA 2)) tH (tT 0 (gM 4095 [])) (gM 4095 []) tSplit ∧ (tT 0 (gM 4095 [])).tun? 4095 = none) ∧
    (let s := { tT 0 (gM 5 []) with tuns := [{ tTun with part := 1 }] }
     Ready (.tfree tH (onA 2)) tH s (gM 5 []) tSplit ∧ s.tun? 5 = some { tTun with part := 1 } ∧ 1 ≠ fld g0.partid 0 4) ∧
    (∀ x ∈ List.range 5, readyB (.tstat tH { onA 2 with d := 4, x := BitVec.ofNat 32 x }) tH (tT 0 (gM 5 [])) (gM 5 []) tSplit = true) ∧
    (∀ q ∈ [(0x1_00000001, (1 : BitVec 3), (0 : DWord)), (0x3_00000000, 0, 0xFFFFFFFF), (0x1_80000000, 0, 1)],
      let s := tT q.1 (gTd q.2.2)
      let f := tdF q.2.1 0
      (Ready (.tdraw hP f) hP s (gTd q.2.2) tSplit ∧ mustWait s (gTd q.2.2) tSplit (ordOf f) = false ∧ (gTd q.2.2).gstate = .resident ∧ s.draws = [] ∧ s.remotes = [] ∧ f.mo = 0 ∧
        activeLanes (gTd q.2.2) tSplit hP = [0] ∧ (drawAddr (gTd q.2.2) 0 f).toNat = 0x300048 ∧ tTun.drawVa ≤ 0x300048 ∧ 0x300050 ≤ tTun.drawVa + tTun.nslots * tTun.drawStride ∧
        tTun.drawStride = 64 ∧ imageReady (tTun.status s 1) ((gTd q.2.2).sReg 3 |>.extractLsb' 0 32) = true ∧ Memory.wf s.hbm = true) ∧
      globalCheck s (splitCtx (gTd q.2.2) tSplit) needR (drawAddr (gTd q.2.2) 0 f) 8 = (s, .ok (.draw 0x50048 eDraw)) ∧ s.tun? eDraw.tunid.toNat = some tTun) ∧
    (∀ q ∈ [(0x1_00000001, (1 : DWord)), (0x0_00000002, 1), (0x1_80000001, 1)],
      let s := tT q.1 (gTd q.2)
      (Ready (.tdraw hP (tdF 0 5)) hP s (gTd q.2) tSplit ∧ imageReady (tTun.status s 1) ((gTd q.2).sReg 3 |>.extractLsb' 0 32) = false ∧ (tdF 0 5).x ≠ 0) ∧
      globalCheck s (splitCtx (gTd q.2) tSplit) needR (drawAddr (gTd q.2) 0 (tdF 0 5)) 8 = (s, .ok (.draw 0x50048 eDraw))) := by
  refine ⟨by decide +kernel, by decide +kernel, by decide +kernel, ⟨ready_of (by decide +kernel), by decide +kernel⟩, ⟨ready_of (by decide +kernel), by decide +kernel⟩,
    ⟨ready_of (by decide +kernel), by decide +kernel⟩, ⟨ready_of (by decide +kernel), by decide +kernel⟩, by decide +kernel, fun q hq => ⟨⟨ready_of ?_, ?_⟩, ?_, ?_⟩,
    fun q hq => ⟨⟨ready_of ?_, ?_⟩, ?_⟩⟩
  · revert q; decide +kernel
  · revert q; decide +kernel
  · refine draw_of ?_
    revert q; decide +kernel
  · revert q; decide +kernel
  · revert q; decide +kernel
  · revert q; decide +kernel
  · refine draw_of ?_
    revert q; decide +kernel

/-! #### Collectives -/

def rackI : Instr := .rack tH (onA 0)
/-- Group `u`, the `n`-th of its team, parked at RACK by P0, which holds in the lanes below `k`. -/
def gR (u n k : Nat) : Group := { gP (fun l => if l < k then 1 else 0) with uid := u, groupid := n, splits := [{ tSplit with status := .parked (.rack 0 (encode rackI)) }] }
/-- Three groups of a team, not in the order of GROUPID; P0 holds in 4, 14 and no lanes. -/
def tRk : State := { tS (gR 3 1 14) with groups := [gR 3 1 14, gR 4 0 4, gR 5 2 0], actor := .nobody }
def popGrid : Grid := { tGrid with kind := .population, popcap := 20, popsize := 16, nextTeam := 1 }
def resI (mo : BitVec 3) : LongF := { tL with ty := 0, a := 2, b := 2, c := 3, d := 5, mo := mo }
/-- A population of sixteen, each with the weight in V2, parked at RESAMP with a target. -/
def gRs (target : DWord) (w : Nat → Word) : Group :=
  { g0 with lanes := (List.range 16).map (fun l => { tLane 0 l with v := [0, 0, w l] ++ List.replicate 13 0 }),
            splits := [{ tSplit with status := .parked (.resamp 5 2 target none 0xFFFF (encode (.resamp tH { resI 0 with c := 0 }))) }] }
def tRs (target : DWord) (w : Nat → Word) : State := { tS (gRs target w) with grids := [popGrid], actor := .nobody }
/-- 1.0 for lanes below `k`. -/
def ones (k l : Nat) : Word := if l < k then 0x3F800000 else 0
theorem witness_CollectivesRepackAndResample :
    Ready rackI tH (tS g0) g0 tSplit ∧ (tH.g = 7 ∧ tH.gn = false) ∧
    (∀ f ∈ [{ resI 0 with c := 0 }, resI 1], Ready (.resamp tH f) tH { tS g0 with grids := [popGrid] } g0 tSplit) ∧ ({ tS g0 with grids := [popGrid] } : State).grid? 1 = some popGrid ∧
    popGrid.kind = .population ∧
    (let gs := sortGroups (teamGroups tRk 2) (·.groupid)
     tRk.team? 2 = some tTeam ∧ rackReady tRk tTeam = true ∧ rackFails gs = false ∧ (gs.map (·.uid)).Nodup ∧ (∀ gr ∈ gs, tRk.group? gr.uid = some gr) ∧ gs = [gR 4 0 4, gR 3 1 14, gR 5 2 0] ∧
      (∀ gr ∈ gs, gr.width = 16 ∧ ∀ x ∈ gr.splits, x.pc = 0x10000 ∧ x.status = .parked (.rack 0 (encode rackI))) ∧ (survivors gs 0).length = 18) ∧
    (([5, 0, 3] : List Nat).sum = 8 ∧ 0 < 8) ∧
    (∀ q ∈ [((8 : DWord), 0), (21, 16), (0, 16), (4, 8), (16, 16)],
      let s := tRs q.1 (ones q.2)
      let gs := gridGroups s 1
      s.grid? 1 = some popGrid ∧ resampReady s popGrid = true ∧ gs = [gRs q.1 (ones q.2)] ∧ (∀ gr ∈ gs, gr.liveMask ≠ 0 ∧ ∀ x ∈ gr.splits, x.inUser = false ∧ heldBack x = false) ∧
      ((gRs q.1 (ones q.2)).splits.head?.bind resampPark).map (·.target) = some q.1) ∧
    (let ws := (threadsOf [gRs 4 (ones 8)]).map (·.weight)
     ws.sum ≠ 0 ∧ (4 : DWord).toNat ≤ popGrid.popcap.toNat ∧ ∀ y ∈ countsFrom 4 ws.sum (popOffset popGrid) 0 ws, y ≤ 1) ∧
    (((threadsOf [gRs 8 (ones 0)]).map (·.weight)).sum = 0 ∧ popGrid.popcap.toNat < (21 : DWord).toNat) := by
  refine ⟨ready_of (by decide +kernel), by decide, ?_, by decide +kernel, rfl, by decide +kernel⟩
  intro f hf
  refine ready_of ?_
  revert f; decide +kernel

/-! #### Lauter programs -/

def lxF (x : Word) : LongF := { tL with ty := 0, a := 2, b := 4, d := 6, x := x }
def gLx (v : DWord) : Group := gM v [(4, 11), (5, 12), (6, 13), (7, 14)]
def pQ (n : Nat) : Program := { tProg with serial := wd n, state := .queued, packet := none }
/-- The device with `n` programs queued on engine 0 of the core. -/
def tLx (n : Nat) (g : Group) : State := { tS g with engines := [⟨0, 0, 8, (List.range n).map pQ, []⟩] }
/-- A named engine, either, with room and full; the handle of a queued program; a handle of a faulted one. -/
theorem witness_LauterProgramsAreStartedWatchedAndStopped : (gLx 0x8008).kGuard tH = true ∧ (gLx 0x8008).counter 3 < 63 ∧ tSplit.pend.length < 16 ∧
    (∀ n ∈ [0, 7, 8], ∀ x ∈ [0, 1, 2, 4, 6], readyB (.lxstart tH (lxF (wd x))) tH (tLx n (gLx 0x8008)) (gLx 0x8008) tSplit = true) ∧
    ((gLx 0x8008).sReg 2).toNat < 2 ^ 54 ∧ ((gLx 0x8008).sReg 2).toNat % 8 = 0 ∧ ((tLx 7 (gLx 0)).engine ⟨0, 0⟩).progs.length = 7 ∧
    8 ≤ ((tLx 8 (gLx 0)).engine ⟨0, 0⟩).progs.length ∧
    Ready (.lxstat tH { lxF 0 with b := 0 }) tH (tLx 3 (gLx 2)) (gLx 2) tSplit ∧
    (((tLx 3 (gLx 2)).engine ⟨0, 0⟩).progs.find? (fun x => x.serial == (pQ 2).serial) = some (pQ 2) ∧ (pQ 2).ctx.part = 0 ∧ (pQ 2).ctx.team = some (gLx 2).team ∧ (pQ 2).state = .queued ∧
      (pQ 2).packet = none ∧ (gLx 2).sReg 2 = dw (0 * 2 ^ 40 + 0 * 2 ^ 32 + (pQ 2).serial.toNat)) ∧
    Ready (.lxkill tH { lxF 0 with b := 0, d := 0 }) tH (tLx 3 (gLx 2)) (gLx 2) tSplit :=
  by refine ⟨?_, ?_, ?_, ?_, ?_, ?_, ?_, ?_, ready_of ?_, ?_, ready_of ?_⟩ <;> decide +kernel

def lF (imm32 : Word) (imm12 : BitVec 12) (b a d : BitVec 4) : LauterF := ⟨imm32, imm12, b, a, d⟩
def pX (x : List DWord) : Program := { tProg with x := x ++ List.replicate (16 - x.length) 0 }
def lp (start stop : CodeAddr) (n : DWord) : LoopEntry := ⟨start, stop, n⟩
def eng0 : EngRef := ⟨0, 0⟩
/-- Registers with and without X0 as the destination; branches taken and not taken out of a loop; LOOP with counts 0, 2 and the greatest, on an empty stack,
inside a body, beyond it and on a full stack; the end of a body with rounds left and none; an illegal word. -/
theorem witness_LauterRegistersBranchesAndLoops :
    (∀ d ∈ [0, 3, 15].map (BitVec.ofNat 4), ∀ i ∈ [Instr.lauterAdd (lF 0 0 2 1 d), .lauterSub (lF 0 0 2 1 d), .lauterMul (lF 0 0 2 1 d), .lauterAnd (lF 0 0 2 1 d), .lauterOr (lF 0 0 2 1 d),
      .lauterXor (lF 0 0 2 1 d), .lauterShl (lF 0 0 2 1 d), .lauterShr (lF 0 0 2 1 d), .lauterMov (lF 0 0 0 1 d), .lauterAddi (lF 0xFFFFFFFF 0 0 1 d), .lauterLi (lF 0x80000000 0 0 0 d),
      .lauterLih (lF 7 0 0 0 d), .lauterBeq (lF 0xFFFFFFFF 0 2 1 0), .lauterBne (lF 1 0 2 1 0), .lauterBlt (lF 1 0 2 1 0), .lauterBge (lF 1 0 2 1 0), .lauterJmp (lF 0x80000000 0 0 0 0)],
      (decide ((tE (pX [0, 5, 6])).currentProg? = some (eng0, pX [0, 5, 6])) && i.wellFormed) = true) ∧ (pX [0, 5, 6]).straight ∧
    (∀ f ∈ [lF 1 0 0 0 0, lF 65535 4095 0 0 0, lF 2 0 0 1 0], (decide ((tE (pX [0, 5])).currentProg? = some (eng0, pX [0, 5])) && (Instr.lauterLoop f).wellFormed) = true) ∧
    (let q (n : Nat) (e : CodeAddr) : Program := { pX [] with loops := List.replicate n (lp 0x8000 e 2) }
     (q 3 0x8018).loops.length < 4 ∧ 4 ≤ (q 4 0x8018).loops.length ∧ ((0x8010 : CodeAddr).toNat ≤ (lp 0x8000 0x8018 2).stop.toNat ∧ (lp 0x8000 0x8018 2).stop.toNat < (0x8020 : CodeAddr).toNat) ∧
      ((q 1 0x8018).loops = lp 0x8000 0x8018 2 :: [] ∧ 1 < (lp 0x8000 0x8018 2).remaining.toNat ∧ (lp 0x8000 0x8018 1).remaining.toNat ≤ 1)) ∧
    (Instr.lauterMov (lF 1 0 0 1 1)).wellFormed = false ∧ (tE (pX [])).currentProg? = some (eng0, pX []) := by
  refine ⟨by decide +kernel, fun e he => (nomatch he), by decide +kernel⟩

/-- A descriptor of `.i32`: base, space, dimensions of the sub-tensor, and (extent, INDEX, stride) for each dimension. -/
def tD (base : DWord) (space tdim : Nat) (dims : List (Nat × Nat × Nat)) (fmt : Nat := 6) (q7 : DWord := 0) (more : Nat := 0) : List DWord :=
  [base, dw (space + fmt * 4 + dims.length * 2 ^ 8 + tdim * 2 ^ 11 + more)] ++ ((dims.map (fun (d : Nat × Nat × Nat) => dw (d.1 + d.2.1 * 2 ^ 16 + d.2.2 * 2 ^ 32))) ++ List.replicate 5 0).take 5 ++ [q7]
def pD (x : List DWord) (d : List (List DWord)) : Program := { pX x with d := d ++ List.replicate (4 - d.length) (List.replicate 8 0) }
/-- Access of 2^m bytes in the space, address X[1]. -/
def lM (m space : Nat) (d : BitVec 4) : LauterF := lF 0 (BitVec.ofNat 12 (m + 4 * space)) 0 1 d
def acc1 (a : DWord) : Program := pD [0, a, 0x1122334455667788] [tD 0x100 1 1 [(4, 0, 1), (3, 2, 8)]]
theorem witness_LauterAccessesAndDescriptors :
    (∀ f ∈ [lM 0 1 2, lM 3 1 2], (tE (acc1 0x108)).memoriesWf = true ∧ ((tE (acc1 0x108)).engine eng0).progs ≠ [] ∧ Runs (.lauterLdx f) (tE (acc1 0x108)) eng0 (acc1 0x108) ∧
      Runs (.lauterStx f) (tE (acc1 0x108)) eng0 (acc1 0x108) ∧ f.imm12.toNat / 16 % 8 = 0 ∧
      placeOffset (tE (acc1 0x108)) (acc1 0x108).ctx .scratch 0x108 8 = .ok (.loc (.scratch 2 0x108))) ∧ (acc1 0x108).straight ∧ (acc1 0x108).got = [] ∧
    (Runs (.lauterLdx (lM 3 0 2)) { tE (acc1 0x2000) with caches := [tLine 0 .l1] } eng0 (acc1 0x2000) ∧
      Reaches54 { tE (acc1 0x2000) with caches := [tLine 0 .l1] } (acc1 0x2000).ctx needR 0x2000 8 0x2000 ∧
      cacheLine? { tE (acc1 0x2000) with caches := [tLine 0 .l1] } .l1 (acc1 0x2000).ctx.core (0x2000 / 128) = some (tLine 0 .l1)) ∧
    (Runs (.lauterDset (lM 0 0 3)) (tE (acc1 0x2000)) eng0 (acc1 0x2000) ∧ ActsAt (tE (acc1 0x2000)) (acc1 0x2000).ctx .global needR 0x2000 64 (.hbm 0x2000)) ∧
    (∀ f ∈ [lF 0 1 0 1 0, lF 0 2 0 1 0], ∀ v ∈ [2, 3], (decide ((tE (acc1 (dw v))).currentProg? = some (eng0, acc1 (dw v))) && (Instr.lauterDidx f).wellFormed) = true) ∧
    (let d := (acc1 2).desc 0
     Desc.ndim d = 2 ∧ Desc.extent d 1 = 3 ∧ descBad d = false ∧ Desc.tdim d = 1 ∧ storeBits (Desc.fmt d) = 8 * 4) ∧
    (Runs (.lauterDstep (lF 0 0 0 5 0)) (tE (acc1 0)) eng0 (acc1 0) ∧ Runs (.lauterDstep (lF 0 0 0 5 3)) (tE (acc1 0)) eng0 (acc1 0) ∧ Desc.ndim ((acc1 0).desc 3) = 0) ∧
    (let d := tD 0x100 1 1 [(4, 0, 1), (3, 0, 8)]
     Desc.tdim d < Desc.ndim d ∧ Desc.index d (Desc.tdim d) + 1 < Desc.extent d (Desc.tdim d) ∧ descBad d = false) ∧
    (let d := tD 0x100 1 2 [(4, 0, 1), (3, 0, 8)]
     Desc.ndim d = 2 ∧ Desc.tdim d = 2 ∧ 3 < Desc.extent d 0 ∧ 11 = 3 + 2 * Desc.extent d 0 ∧ 2 < Desc.extent d 1 ∧ elemPos d none 11 = ((19 : Nat) : Int) ∧
      (Desc.base d).toNat + 19 * 4 < 2 ^ 64) := by
  refine ⟨fun f hf => ⟨by decide +kernel, by decide +kernel, runs_of ?_, runs_of ?_, ?_, loc_of (by decide +kernel)⟩, fun e he => (nomatch he), rfl,
    ⟨runs_of (by decide +kernel), reach_of (tTlb 0) (by decide +kernel), by decide +kernel⟩,
    ⟨runs_of (by decide +kernel), acts_home (by decide +kernel) (reach_of (tTlb 0) (by decide +kernel)) (by decide +kernel)⟩, by decide +kernel, by decide +kernel,
    ⟨runs_of (by decide +kernel), runs_of (by decide +kernel), by decide +kernel⟩, by decide +kernel, by decide +kernel⟩ <;> (revert f; decide +kernel)

/-- A release at fabric scope while a write of the program to another device is on its way, and with none; an acquire waits for nothing. -/
theorem witness_LauterAccesses_waits :
    let f : LauterF := lF 0 (BitVec.ofNat 12 (3 + 4 + 16 * 3 + 128 * 11)) 0 1 2
    let away : RemoteOut := { id := 40, group := 3, split := 0, engine := some eng0, dst := 0, ty := 8, reg := false, op := 7, pc := 0x8000, insn := [],
                              lanes := [{ lane := 0, addr := 0x3000, dest := 1, off := 0x3000, op := .write [1], state := .waiting }] }
    let s := { tE (acc1 0x108) with remotes := [away] }
    (∀ i ∈ [Instr.lauterStx f, .lauterLdx (lM 3 1 2)], Runs i s eng0 (acc1 0x108)) ∧ progWaits s eng0 (acc1 0x108) (progOrd s (acc1 0x108) f) = true ∧ (acc1 0x108).got = [] ∧
    progWaits (tE (acc1 0x108)) eng0 (acc1 0x108) (progOrd s (acc1 0x108) f) = false ∧ progWaits s eng0 (acc1 0x108) (progOrd s (acc1 0x108) (lF 0 (BitVec.ofNat 12 (3 + 4 + 16 * 2)) 0 1 2)) = false ∧
    ActsAt (tE (acc1 0x108)) (acc1 0x108).ctx .scratch needW 0x108 8 (.scratch 2 0x108) := by
  intro f away s
  have h : ∀ i ∈ [Instr.lauterStx f, .lauterLdx (lM 3 1 2)], (decide (s.currentProg? = some (eng0, acc1 0x108)) && i.wellFormed) = true := by decide +kernel
  exact ⟨fun i hi => runs_of (h i hi), by decide +kernel, rfl, by decide +kernel, by decide +kernel, acts_chip (by decide +kernel) (by decide) (loc_of (by decide +kernel))⟩

def soundB (s : State) (p : Program) (ty : BitVec 5) (n : Nat) (e : Elem) (l : Loc) : Bool :=
  [1, 2, 3].contains e.space && e.device.isNone && !e.dec && e.fmt == ty && locIs (placeOffset s p.ctx (spaceOf e.space) e.addr.toNat n) l
theorem sound_of {s : State} {p : Program} {ty : BitVec 5} {n : Nat} {e : Elem} {l : Loc} (h : soundB s p ty n e l = true) : e.space ∈ [1, 2, 3] ∧ e.device = none ∧
    e.dec = false ∧ e.fmt = ty ∧ placeOffset s p.ctx (spaceOf e.space) e.addr.toNat n = .ok (.loc l) := by
  simp only [soundB, Bool.and_eq_true, Bool.not_eq_true', beq_iff_eq, List.contains_iff_mem, Option.isNone_iff_eq_none] at h
  exact ⟨h.1.1.1.1, h.1.1.1.2, h.1.1.2, h.1.2, loc_of h.2⟩
/-- Two teams of a grid with cluster memory; a list of rows 0 and 1 at 0x2000 of the scratchpad. -/
def tMv (p : Program) : State :=
  { tE p with teams := [tTeam, { tTeam with uid := 6, teamid := 1, core := 1 }], grids := [{ tGrid with clus := true }], scratch := memWriteNat [] (2 * 2 ^ 19 + 0x2004) 4 1 }
def pMovt : Program := { pD [] [tD 0x400 1 1 [(20, 0, 1)], tD 0x100 1 1 [(20, 0, 2)]] with deliv := 1 }
def pMcst : Program := pD [] [tD 0x800 2 1 [(4, 0, 1)] 6 3, tD 0x100 1 1 [(2, 0, 1)], tD 0x200 1 1 [(2, 0, 1)] 6 (dw (8 * 2 ^ 32))]
def pGath : Program := pD [0, 0, 0, 0x2000] [tD 0x400 1 1 [(4, 0, 1), (3, 0, 8)], tD 0x100 1 1 [(4, 0, 1), (5, 0, 16)]]
def pLred : Program := pD [0, 0, 0, 9] [tD 0x3000 0 1 [(1, 0, 1)], tD 0x100 1 1 [(1, 0, 1)]]
/-- The last unit of a move of two; a multicast to two teams, of common and own data; two rows gathered and scattered; a reduction of one element. -/
theorem witness_LauterMovesCopyTheirUnits :
    let ok (p : Program) (total : Nat) (i : Instr) (src dst : Nat → Elem) (from_ to_ : Nat → Loc) : Prop :=
      Runs i (tMv p) eng0 p ∧ p.ctx.team = some tTeam.uid ∧ (tMv p).team? tTeam.uid = some tTeam ∧ (∀ x ∈ (tMv p).teams, x.scratch ≤ 2 ^ 19) ∧
      (∀ x ∈ (tMv p).grids, x.dieAlloc ≤ 2 ^ 25) ∧ (tMv p).memoriesWf = true ∧ p.straight ∧ tyBits (Desc.fmt (p.desc 0)) = 32 ∧ p.relFence = none ∧ (tMv p).poison = [] ∧
      p.deliv * 16 < total ∧ (∀ k ∈ (List.range total).drop (p.deliv * 16), soundB (tMv p) p 6 4 (src k) (from_ k) = true ∧ soundB (tMv p) p 6 4 (dst k) (to_ k) = true) ∧
      ∀ j ∈ (List.range total).drop (p.deliv * 16), ∀ k ∈ (List.range total).drop (p.deliv * 16), j ≠ k → locMeets (to_ j) 4 (to_ k) 4 = false
    let row (k : Nat) : Nat := memReadNat (tMv pGath).scratch (2 * 2 ^ 19 + (0x2000 + 4 * (k / 4))) 4
    (ok pMovt 20 (.lauterMovt (lF 0 0 0 1 0)) (elemAt (pMovt.desc 1) 0 0 none) (elemAt (pMovt.desc 0) 0 0 none) (fun k => .scratch 2 (0x100 + 8 * k)) (fun k => .scratch 2 (0x400 + 4 * k)) ∧
      moveBad (pMovt.desc 0) [pMovt.desc 1] = false ∧ subCount (pMovt.desc 0) = 20 ∧ subCount (pMovt.desc 1) = 20) ∧
    (ok pMcst 8 (.lauterMcst (lF 0 0 2 1 0)) (mcstSrc pMcst (lF 0 0 2 1 0)) (mcstDst pMcst (lF 0 0 2 1 0))
        (fun k => .scratch 2 (if k % 4 < 2 then 0x100 + 4 * (k % 4) else 0x200 + 8 * (k / 4) + 4 * (k % 4 - 2)))
        (fun k => .scratch (if k < 4 then 2 else 6) (0x800 + 4 * (k % 4))) ∧
      mcstBad pMcst (lF 0 0 2 1 0) = false ∧ (receivers (pMcst.desc 0)).length * subCount (pMcst.desc 0) = 8) ∧
    (ok pGath 8 (.lauterGath (lF 2 4 3 1 0)) (fun k => indexedElem (pGath.desc 1) k (row k)) (fun k => steppedElem (pGath.desc 0) k)
        (fun k => .scratch 2 (0x100 + 64 * (k / 4) + 4 * (k % 4))) (fun k => .scratch 2 (0x400 + 32 * (k / 4) + 4 * (k % 4))) ∧
      gathBad (pGath.desc 0) (pGath.desc 1) (pGath.desc 1) = false ∧ 2 * subCount (pGath.desc 0) = 8 ∧ subCount (pGath.desc 1) = 4 ∧ (pGath.xReg 3).toNat = 0x2000 ∧
      0x2000 + 4 * 1 + 4 ≤ tTeam.scratch ∧ ∀ k ∈ List.range 8, row k < Desc.extent (pGath.desc 1) (Desc.tdim (pGath.desc 1)) ∧ row k = k / 4) ∧
    (ok pGath 8 (.lauterScat (lF 2 4 3 0 1)) (fun k => steppedElem (pGath.desc 0) k) (fun k => indexedElem (pGath.desc 1) k (row k))
        (fun k => .scratch 2 (0x400 + 32 * (k / 4) + 4 * (k % 4))) (fun k => .scratch 2 (0x100 + 64 * (k / 4) + 4 * (k % 4))) ∧
      gathBad (pGath.desc 1) (pGath.desc 0) (pGath.desc 1) = false) ∧
    (Runs (.lauterLred (lF 0 0 3 1 0)) (tMv pLred) eng0 pLred ∧ moveBad (pLred.desc 0) [pLred.desc 1] = false ∧ lredAllowed (pLred.desc 0) = true ∧ Desc.space (pLred.desc 0) = 0 ∧
      Desc.remote (pLred.desc 0) = false ∧ subCount (pLred.desc 0) = 1 ∧ subCount (pLred.desc 1) = 1 ∧ pLred.deliv = 0 ∧
      soundB (tMv pLred) pLred 6 4 (elemAt (pLred.desc 1) 0 0 none 0) (.scratch 2 0x100) = true ∧
      Reaches54 (tMv pLred) pLred.ctx needRW (elemAt (pLred.desc 0) 0 0 none 0).addr 4 0x3000 ∧ cacheLine? (tMv pLred) .l1 pLred.ctx.core (0x3000 / 128) = none ∧
      sigAt (tMv pLred) (.hbm 0x3000) 4 = [] ∧ dltBase (tMv pLred) pLred.ctx.part = 0 ∧ (tMv pLred).redt = []) := by
  refine ⟨⟨⟨runs_of (by decide +kernel), rfl, rfl, by decide +kernel, by decide +kernel, by decide +kernel, fun e he => (nomatch he), by decide +kernel, rfl, rfl, by decide +kernel⟩, by decide +kernel⟩,
    ⟨⟨runs_of (by decide +kernel), rfl, rfl, by decide +kernel, by decide +kernel, by decide +kernel, fun e he => (nomatch he), by decide +kernel, rfl, rfl, by decide +kernel⟩, by decide +kernel⟩,
    ⟨⟨runs_of (by decide +kernel), rfl, rfl, by decide +kernel, by decide +kernel, by decide +kernel, fun e he => (nomatch he), by decide +kernel, rfl, rfl, by decide +kernel⟩, by decide +kernel⟩,
    ⟨⟨runs_of (by decide +kernel), rfl, rfl, by decide +kernel, by decide +kernel, by decide +kernel, fun e he => (nomatch he), by decide +kernel, rfl, rfl, by decide +kernel⟩, by decide +kernel⟩,
    runs_of ?_, ?_, ?_, ?_, ?_, ?_, ?_, ?_, ?_, reach_of (tTlb 0) ?_, ?_, ?_, ?_, rfl⟩ <;> decide +kernel

/-- The word or header `w` at 0x100 of the scratchpad, a program with that address in X1 and `n` in X2. -/
def pB (n : DWord) : Program := pX [0, 0x100, n]
def tBE (len w : Nat) (n : DWord) : State := { tE (pB n) with scratch := memWriteNat [] (2 * 2 ^ 19 + 0x100) len w }
def relax (m : Nat) (b : BitVec 4) : LauterF := lF 0 (BitVec.ofNat 12 (m + 4 + 16)) b 1 0
/-- Eight slots, WPTR and the frontier as given. -/
def hdr (wptr frontier : Nat) : Nat := 0x1000 + 64 * 2 ^ 32 + wptr * 2 ^ 64 + 3 * 2 ^ 96 + frontier * 2 ^ 128 + 8 * 2 ^ 160
/-- As many free slots as are filled or waited for, and one fewer, over the wrap of WPTR; an arrival that leaves one expected, and the last; both phases; a release fence at the
widest scope; an abort with the greatest code. -/
theorem witness_LauterSynchronisation :
    let here (len w : Nat) (n : DWord) : Prop := (tBE len w n).memoriesWf = true ∧ ((tBE len w n).engine eng0).progs ≠ [] ∧ progDrained (tBE len w n) eng0 (pB n) = true ∧
      (pB n).straight ∧ (pB n).relFence = none ∧ (pB n).acqSig = [] ∧ (pB n).packet = none ∧ sigAt (tBE len w n) (.scratch 2 0x100) len = [] ∧
      ((pB n).xReg 1 + (0 : Word).signExtend 64).toNat < 2 ^ 54 ∧ bytesAt (tBE len w n) (.scratch 2 0x100) len = w ∧
      ActsAt (tBE len w n) (pB n).ctx .scratch needRW ((pB n).xReg 1 + (0 : Word).signExtend 64) len (.scratch 2 0x100) ∧
      ActsAt (tBE len w n) (pB n).ctx .scratch needR ((pB n).xReg 1 + (0 : Word).signExtend 64) len (.scratch 2 0x100) ∧
      ∀ i ∈ [Instr.lauterFill (relax 0 2), .lauterFill (relax 0 0), .lauterArrv (relax 0 2), .lauterWaitb (relax 1 2), .lauterWaitb (relax 0 2), .lauterFence (lF 0 (16 * 3 + 128 * 11) 0 0 0),
        .lauterFence (lF 0 (16 * 2) 0 0 0), .lauterAbort (lF 255 0 0 0 0), .lauterEnd (lF 0 0 0 0 0)], Runs i (tBE len w n) eng0 (pB n)
    (here 32 (hdr 1 (2 ^ 32 - 3)) 4 ∧ ringBad (hdr 1 (2 ^ 32 - 3)) = false ∧ bit (hdr 1 (2 ^ 32 - 3)) 191 = false ∧ hdr 1 (2 ^ 32 - 3) / 2 ^ 64 % 2 ^ 32 = 1 ∧
      (1 + 2 ^ 32 - hdr 1 (2 ^ 32 - 3) / 2 ^ 128 % 2 ^ 32) % 2 ^ 32 = 4 ∧ hdr 1 (2 ^ 32 - 3) / 2 ^ 160 % 2 ^ 7 = 8) ∧ here 32 (hdr 1 (2 ^ 32 - 3)) 5 ∧
    (here 8 0x400000005 4 ∧ bit 0x400000005 62 = false ∧ 4 < 0x400000005 % 2 ^ 32) ∧ (here 8 0x8000000400000005 5 ∧ 5 = 0x8000000400000005 % 2 ^ 32) ∧
    (here 8 0x400000005 1 ∧ bit 0x400000005 63 ≠ (1 : DWord).getLsbD 0) ∧ (here 8 0x400000005 2 ∧ bit 0x400000005 63 = (2 : DWord).getLsbD 0) := by
  have rs (len w : Nat) (n : DWord) (h : ([Instr.lauterFill (relax 0 2), .lauterFill (relax 0 0), .lauterArrv (relax 0 2), .lauterWaitb (relax 1 2), .lauterWaitb (relax 0 2),
      .lauterFence (lF 0 (16 * 3 + 128 * 11) 0 0 0), .lauterFence (lF 0 (16 * 2) 0 0 0), .lauterAbort (lF 255 0 0 0 0), .lauterEnd (lF 0 0 0 0 0)].all
      (fun i => decide ((tBE len w n).currentProg? = some (eng0, pB n)) && i.wellFormed)) = true) := List.all_eq_true.mp h
  refine ⟨⟨?_, by decide⟩, ?_, ⟨?_, by decide⟩, ⟨?_, by decide⟩, ⟨?_, by decide⟩, ?_, by decide⟩ <;>
    exact ⟨by decide +kernel, by decide +kernel, by decide +kernel, fun e he => (nomatch he), rfl, rfl, rfl, by decide +kernel, by decide +kernel, by decide +kernel,
      acts_chip (by decide +kernel) (by decide) (loc_of (by decide +kernel)), acts_chip (by decide +kernel) (by decide) (loc_of (by decide +kernel)),
      fun i hi => runs_of (rs _ _ _ (by decide +kernel) i hi)⟩

/-! #### Queue programs -/

def sF (imm : BitVec 16) (a d : BitVec 4) : SteepF := ⟨imm, a, d⟩
/-- Q4 is 8, Q5 is 5. -/
def qRun : SteepRun := { tRun with q := [0, 0, 0, 0, 8, 5] ++ List.replicate 10 0 }
/-- A packet SIGNAL of type 5 that names the quadword at 0x3000. -/
def sigPkt : List DWord := [0x4005, 0x3000, 1, 0, 0, 0, 0, 0]
def eRun (n : Nat) : SteepRun := { qRun with pkt := sigPkt, emits := List.replicate n ⟨sigPkt, []⟩ }
theorem window_of {s : State} {x : SteepRun} {f : SteepF} {need : Need} {n : Nat} {a : DWord} {pa : Nat} (w : SteepWindow) (e : TlbEntry)
    (h1 : (decide (x.steep.windows[f.imm.toNat / 2 ^ 14]? = some (some w)) && (!need.w || w.wr) &&
      (let d := x.reg f.a + BitVec.ofNat 64 (8 * (f.imm.toNat % 2 ^ 14)); decide (d.toNat % n = 0 ∧ d.toNat + n ≤ w.size ∧ a = w.base + d))) = true)
    (h2 : ∀ k, k < n / 8 → reachB s (launchCtx s x.ref.part (vcpCore x.ref.part)) need (a + BitVec.ofNat 64 (8 * k)) 8 (pa + 8 * k) e = true)
    (h3 : poisonedRange s pa n = false) (h4 : x.got = none ∧ x.away = false) (h5 : s.caches = [] ∧ s.sigs.length < 256) : WindowAt s x f need n a pa := by
  simp only [Bool.and_eq_true, Bool.or_eq_true, Bool.not_eq_true', decide_eq_true_eq] at h1
  refine ⟨⟨w, h1.1.1, fun hw => ?_, h1.2⟩, fun k hk => reach_of e (h2 k hk), h3, fun line => by simp [cacheLine?, h5.1], .inl h5.2, h4⟩
  rcases h1.1.2 with h | h
  · rw [h] at hw; cases hw
  · exact h
def sWin : SteepWindow := ⟨0x3000, true, 8, 64⟩
/-- Register forms with Q0 and another register; each part of LDI; the header and another quadword; the last quadword of a window; branches; a loop; an EMIT of the
first and of the ninth packet; a word beyond the budget; an end with two packets emitted. -/
theorem witness_SteepRunsExecuteTheirWords : (tQ qRun).memoriesWf = true ∧ qRun.straight (qRun.pc + 1) ∧ sigAt (tQ qRun) (.hbm 0x3038) 8 = [] ∧
    (∀ d ∈ [0, 5, 15].map (BitVec.ofNat 4), ∀ i ∈ [Instr.steepMov (sF 0xFFFF 4 d), .steepAdd (sF 0xFFFF 4 d), .steepSub (sF 0xFFFF 4 d), .steepAnd (sF 0xFFFF 4 d), .steepOr (sF 0xFFFF 4 d),
      .steepShl (sF 56 4 d), .steepShr (sF 55 4 d), .steepLdpf (sF 7 0 d), .steepLdi (sF 0x8000 0 d), .steepLdi (sF 0x8000 3 d), .steepStpf (sF 0 0 d), .steepStpf (sF 7 0 d),
      .steepLdw (sF 6 4 d), .steepStw (sF 6 4 d), .steepSignal (sF 6 4 d), .steepWaitv (sF 6 4 d), .steepBz (sF 9 4 0), .steepBnz (sF 9 4 0), .steepLoop (sF 0x0140 0 0),
      .steepEmit (sF 0 0 0), .steepFaultq (sF 0 0 0), .steepDrop (sF 0 0 0), .steepEnd (sF 0 0 0)],
      (decide ((tQ qRun).currentRun? = some qRun) && i.wellFormed && decide (qRun.count < qRun.steep.budget)) = true) ∧
    WindowAt (tQ qRun) qRun (sF 6 4 5) needR 8 0x3038 0x3038 ∧ WindowAt (tQ qRun) qRun (sF 6 4 5) needW 8 0x3038 0x3038 ∧
    WindowAt (tQ qRun) qRun (sF 6 4 5) needRW 8 0x3038 0x3038 ∧ WindowAt (tQ qRun) qRun (sF 0 0 0) needR 64 0x3000 0x3000 ∧
    (∀ k, k < 8 → sigAt (tQ qRun) (.hbm (0x3000 + 8 * k)) 8 = []) ∧ (qRun.emits.length < 8 ∧ 8 ≤ (eRun 8).emits.length ∧ Steeps (.steepEmit (sF 0 0 0)) (tQ (eRun 8)) (eRun 8)) ∧
    (let x' := { qRun with loops := [⟨0, 1, 2⟩] }
     Steeps (.steepMov (sF 0 0 0)) (tQ x') x' ∧ (1 < 2 ∧ ¬ 1 < 1) ∧ Steeps (.steepMov (sF 0 0 0)) (tQ { qRun with loops := [⟨0, 1, 1⟩] }) { qRun with loops := [⟨0, 1, 1⟩] }) ∧
    ((tQ { qRun with count := 256 }).currentRun? = some { qRun with count := 256 } ∧ qRun.steep.budget ≤ 256) ∧ (qRun.ref.sub = 0 ∧ ((tQ qRun).part 0).devReg 0x20 = 0) ∧
    ((∀ e ∈ (eRun 2).emits, emitOk (tQ (eRun 2)) 0 2 e.words = true) ∧ pktCheck (tQ (eRun 2)) 0 2 (eRun 2).pkt = 0 ∧ pktType (eRun 2).pkt ∉ [2, 6] ∧ pktType (eRun 2).pkt < 0xF0 ∧
      Steeps (.steepDrop (sF 0 0 0)) (tQ (eRun 2)) (eRun 2) ∧ Steeps (.steepEnd (sF 0 0 0)) (tQ (eRun 2)) (eRun 2)) := by
  refine ⟨by decide +kernel, fun e he => (nomatch he), by decide +kernel, by decide +kernel, ?_, ?_, ?_, ?_, by decide +kernel,
    ⟨by decide +kernel, by decide +kernel, steeps_of (by decide +kernel)⟩, ⟨steeps_of (by decide +kernel), by decide, steeps_of (by decide +kernel)⟩, by decide +kernel,
    by decide +kernel, by decide +kernel, by decide +kernel, by decide +kernel, by decide +kernel, steeps_of (by decide +kernel), steeps_of (by decide +kernel)⟩
  all_goals exact window_of sWin (tTlb 1024) (by decide +kernel) (by decide +kernel) (by decide +kernel) ⟨rfl, rfl⟩ ⟨rfl, by decide⟩

/-! #### What happens without an instruction -/

def ref0 : SplitRef := ⟨3, 0⟩
def sSt (st : SplitStatus) : Split := { tSplit with status := st }
/-- The group with one split in that state. -/
def gSt (st : SplitStatus) : Group := wS g0 (sSt st)
def sLand : Split := { tSplit with pend := [⟨5, [.v 15 4 0xABCD], false⟩] }
def gLand : Group := { wS g0 sLand with flights := [⟨6, 4, false⟩, ⟨7, 5, true⟩] }
def gTm (u v : DWord) : Group := { g0 with timecmp := 1000000, utvec := u, stvec := v }
def gWd (st : SplitStatus) (w len : Nat) : State := { tS (gSt st) with scratch := memWriteNat [] (2 * 2 ^ 19 + 0x100) len w }
def wph (ph : Bool) : SplitStatus := .parked (.waitph ph 1 0 [⟨5, 0x100, .scratch 2 0x100, 0⟩] [] [] false)
def wra : SplitStatus := .parked (.rawait 4 1 0 [⟨5, 0x100, .scratch 2 0x100, 0⟩] [] [])
/-- A result for the last lane; the oldest complete operation behind one of another path; TIMER due now for a user handler, a supervisor handler and none; a
sleep that ends now; a wake of this group; every park; a split that ages at once; a word whose phase has turned and one whose phase has not; a filled ring. -/
theorem witness_RowsOfSplitsLandCountAndWake :
    (∀ g ∈ [g0, wS g0 sLand, gLand, gTm 0x8001 0x4000, gTm 0x8000 0x4000, gTm 0x8000 0, gSt (.parked (.sleep 1000000)), gSt (.parked .results), gSt (.parked (.waitc 7 0)),
      gSt (.parked (.statuses 5)), gSt (.parked (.handler true)), gSt (wph false), gSt (wph true), gSt wra],
      (tS g).split? ref0 = some (g, (g.split? 0).getD {}) ∧ canRun (tS g) g = true ∧ (tS g).memoriesWf = true ∧ g.splits = [(g.split? 0).getD {}]) ∧
    (sLand.pend = [⟨5, [.v 15 4 0xABCD], false⟩] ∧ (0x8000 : Mask).getLsbD 15 = true ∧ (g0.lane 15).live = true) ∧
    (gLand.flights.find? (fun x => x.path == (7 : BitVec 3).toNat) = some ⟨7, 5, true⟩ ∧ gLand.splits = [sLand]) ∧
    (∀ g ∈ [gTm 0x8001 0x4000, gTm 0x8000 0x4000, gTm 0x8000 0],
      tSplit.status = .ready ∧ tSplit.stack = [] ∧ tSplit.inSup = false ∧ tSplit.owedUser = 0 ∧ tSplit.runOn = none ∧ tSplit.gangFail = none ∧ g.lxfaults = [] ∧ g.timecmp ≠ 0 ∧
      g.timecmp.toNat ≤ (tS g).clock.toNat ∧ tSplit.timerTaken = false) ∧
    ((gTm 0x8001 0x4000).utvec.getLsbD 0 = true ∧ (gTm 0x8000 0x4000).utvec.getLsbD 0 = false ∧ ((gTm 0 0x4000).stvec &&& 0x003FFFFFFFFFFFFC#64) ≠ 0 ∧
      ((gTm 0 0).stvec &&& 0x003FFFFFFFFFFFFC#64) = 0) ∧
    (let g := { gSt (.parked (.sleep 1000001)) with timecmp := 1000000 }
     (1000000 : DWord).toNat ≤ (tS g).clock.toNat ∧ (tS g).split? ref0 = some (g, sSt (.parked (.sleep 1000001))) ∧ g.timecmp ≠ 0 ∧ g.timecmp.toNat ≤ (tS g).clock.toNat ∧
      (tS g).grid? g.grid = some tGrid ∧ (tS g).team? g.team = some tTeam ∧ bits (0 : DWord).toNat 0 32 = tGrid.gridid.toNat ∧ bits (0 : DWord).toNat 32 16 = tTeam.teamid % 2 ^ 16 ∧
      bits (0 : DWord).toNat 48 6 = g.groupid ∧ (tS g).groups = [g]) ∧
    ((gSt (.parked (.waitc 7 0))).counter 7 ≤ (0 : DWord).toNat ∧ (tS g0).remotes = [] ∧ (∀ x ∈ (gSt (.parked (.handler true))).splits, x.slot ≠ 0 → x.inSup = false)) ∧
    (bits g0.sstatus.toNat 8 2 + tSplit.aging < 3 ∧ tSplit.readySince.toNat + 2048 * (tSplit.aging + 1) ≤ (tS g0).clock.toNat) ∧
    (∀ ph ∈ [false, true], let s := gWd (wph ph) 0x8000000400000005 8
      s.split? ref0 = some (gSt (wph ph), sSt (wph ph)) ∧ s.memoriesWf = true ∧ canRun s (gSt (wph ph)) = true ∧ sigAt s (.scratch 2 0x100) 8 = [] ∧
        bytesAt s (.scratch 2 0x100) 8 = 0x8000000400000005 ∧ bit 0x8000000400000005 62 = false ∧ bit 0x8000000400000005 63 = true) ∧
    (let s := gWd wra (ringHd 5 0) 32
     s.split? ref0 = some (gSt wra, sSt wra) ∧ s.memoriesWf = true ∧ canRun s (gSt wra) = true ∧ sigAt s (.scratch 2 0x100) 32 = [] ∧ poisoned s (.scratch 2 0x100) = false ∧
      bytesAt s (.scratch 2 0x100) 32 = ringHd 5 0 ∧ ringBad (ringHd 5 0) = false ∧ bit (ringHd 5 0) 191 = false ∧ ringHd 5 0 / 2 ^ 64 % 2 ^ 32 ≠ ringHd 5 0 / 2 ^ 96 % 2 ^ 32) := by
  and_intros <;> decide +kernel

/-- A split that waits for a page another had in hand, no longer. -/
theorem witness_RowsOfSplits_page : let g := gSt (.parked (.page 0x12))
    (tS g).split? ref0 = some (g, sSt (.parked (.page 0x12))) ∧ canRun (tS g) g = true ∧ (tS g).memoriesWf = true ∧ (∀ x ∈ g.splits, x.slot ≠ 0 → 0x12 ∉ x.pages) := by
  decide +kernel
/-- The device with that tun, the word of slot 1 being `w`. -/
def tTn (tn : Tun) (w : Nat) (g : Group) : State := { tT w g with tuns := [tn] }
def tunIn : Tun := { tTun with installing := true }
def gIn : Group := { g0 with instOp := 9, flights := [⟨5, 9, false⟩] }
def fullSlot : TunSlot := { slot := 1, valid := 0, elems := [1, 2, 3, 4, 5, 6, 7, 8], since := 0, firing := true, writer := 0 }
def partSlot : TunSlot := { slot := 1, valid := 1, elems := [1, 0, 0, 0, 0, 0, 0, 0], since := 994750 }
def tunSl (mode : Nat) (bad : Bool) (x : TunSlot) : Tun := { tTun with desc := (tDesc mode).set 5 0x300003, slots := [x], bad := bad }
def sDr : Split := { tSplit with status := .parked (.tdraw 8), pend := [⟨8, [], true⟩] }
def gDr : Group := { wS g0 sDr with flights := [⟨5, 8, false⟩] }
def tDr (cons : Bool) (last timeout : Word) : Draw :=
  { op := 8, group := 3, split := 0, dst := 4, size := 8, cons := cons, order := 0, scope := 0, last := last, timeout := timeout, since := 982500,
    lanes := [(0, 0x300048, 5, 1, 8)], faults := [], insn := [] }
def tDrS (d : Draw) : State := { tTn tTun 0x1_00000007 gDr with draws := [d] }
/-- An install; fires in both modes, over a READY image and an empty slot, and one with bad operator memory; a fill whose time ends now; draws of a newer image, kept and
taken, and a draw whose time ends now. -/
theorem witness_TunsInstallFireAbandonAndServe :
    (∀ tn ∈ [tTun, tunIn, tunSl 0 false fullSlot, tunSl 1 false fullSlot, tunSl 0 true fullSlot, tunSl 0 false partSlot], ∀ g ∈ [g0, gIn, gDr], let s := tTn tn 0x1_00000007 g
      s.tun? tn.num = some tn ∧ s.memoriesWf = true ∧ s.boot = .running ∧ (s.part tn.part).running = true ∧ tn.formatOk = true ∧ s.draws = [] ∧
        (1 * tn.drawStride) / 65536 = (1 * tn.drawStride + tn.drawStride - 1) / 65536) ∧
    (tunIn.installing = true ∧ tunIn.packet = none ∧ (tTn tunIn 0 gIn).group? tunIn.group = some gIn ∧ gIn.instOp = tunIn.flight) ∧
    (∀ mode ∈ [0, 1], (tunSl mode false fullSlot).slot? 1 = some fullSlot ∧ (tunSl mode false fullSlot).accum = decide (mode = 1)) ∧
    (fullSlot.firing = true ∧ fullSlot.held = [] ∧ (tunSl 0 false fullSlot).bad = false ∧ (tunSl 0 true fullSlot).bad = true) ∧
    ((tunSl 0 false partSlot).slot? 1 = some partSlot ∧ partSlot.firing = false ∧ (tunSl 0 false partSlot).fillTmo ≠ 0 ∧
      partSlot.since.toNat + (tunSl 0 false partSlot).fillTmo * 1750 ≤ (tTn (tunSl 0 false partSlot) 0 g0).clock.toNat) ∧
    (∀ d ∈ [tDr true 6 10, tDr false 6 10, tDr false 7 10], d.lanes = [(0, 0x300048, tTun.num, 1, 8)]) ∧
    (∀ d ∈ [tDr true 6 10, tDr false 6 10, tDr false 7 10], let s := tDrS d
      (s.tun? 5 = some tTun ∧ s.draws = [d] ∧ s.remotes = [] ∧ d.group = gDr.uid ∧ d.split = sDr.slot ∧ s.split? ⟨gDr.uid, sDr.slot⟩ = some (gDr, sDr) ∧ gDr.gstate = .resident) ∧
        sDr.pend = [⟨d.op, [], true⟩] ∧ d.faults = [] ∧ d.size ∈ [8, 16, 32] ∧ d.order = 0 ∧ s.memoriesWf = true ∧
        imageReady (tTun.status s 1) d.last = decide (d.last = 6) ∧ d.timeout.toNat ≠ 2 ^ 32 - 1 ∧ d.since.toNat + d.timeout.toNat * 1750 ≤ s.clock.toNat) := by
  and_intros <;> decide +kernel
def pSt (st : ProgState) : Program := { tProg with state := st }
def lFt : LauterFault := { code := 7, sub := 0, addr := 0, record := 0, hyp := false }
/-- The device with a program in that state and its disposition word. -/
def tDisp (p : Program) (w : Nat) : State := { tE p with hbm := memWriteNat [] 0x4C000 8 w, scratch := memWriteNat [] (2 * 2 ^ 19 + 0x100) 8 0x8000000400000005 }
def pWt : Program := { pB 0 with state := .waiting (relax 0 2) }
def pBd : Program := { pSt (.faulted lFt) with bound := [(false, 1, 0x100)] }
/-- A queued program; one whose word has turned; every disposition, and one bound word. -/
theorem witness_EnginesStartResumeAndAbortPrograms :
    (∀ p ∈ [pSt .queued, pWt, pSt (.faulted lFt), pBd], ∀ w ∈ [1, 5, 2, 6, 3, 7], (tDisp p w).prog? eng0 = some p ∧ engineRuns (tDisp p w) p = true ∧ (tDisp p w).memoriesWf = true ∧
      progDrained (tDisp p w) eng0 p = true ∧ p.packet = none ∧ memReadNat (tDisp p w).hbm 0x4C000 8 = w ∧ sigAt (tDisp p w) (.hbm 0x4C000) 8 = [] ∧ (tDisp p w).caches = []) ∧
    ((Instr.lauterWaitb (relax 0 2)).wellFormed = true ∧ (relax 0 2).imm12.toNat % 4 ≠ 1 ∧ pWt.straight ∧ pWt.relFence = none ∧ pWt.got = [] ∧
      ActsAt (tDisp pWt 1) pWt.ctx .scratch needR (pWt.xReg 1 + (0 : Word).signExtend 64) 8 (.scratch 2 0x100) ∧ sigAt (tDisp pWt 1) (.scratch 2 0x100) 8 = [] ∧
      bytesAt (tDisp pWt 1) (.scratch 2 0x100) 8 = 0x8000000400000005 ∧ bit 0x8000000400000005 62 = false ∧ bit 0x8000000400000005 63 ≠ (pWt.xReg 2).getLsbD 0) ∧
    (lFt.hyp = false ∧ (∀ w ∈ [1, 5, 2, 6, 3, 7], reachB (tDisp pBd w) { pBd.ctx with sup := true } needR (pBd.lxrbase + BitVec.ofNat 64 (0xC000 + 8 * (2 * 0 + 0))) 8 0x4C000 (tTlb 0) = true) ∧
      ActsAt (tDisp pBd 3) pBd.ctx .scratch needRW 0x100 8 (.scratch 2 0x100)) :=
  ⟨by decide +kernel, ⟨by decide +kernel, by decide +kernel, fun e he => (nomatch he), rfl, rfl, acts_chip (by decide +kernel) (by decide) (loc_of (by decide +kernel)),
    by decide +kernel, by decide +kernel, by decide, by decide +kernel⟩, rfl, by decide +kernel, acts_chip (by decide +kernel) (by decide) (loc_of (by decide +kernel))⟩

def cE (w0 : Word) : CaskEntry := { producer := 0, w0 := w0, lo := 11, hi := 12, scope := 0, sig := [] }
/-- A cask with entries on the chip and in its cellar. -/
def kR : Cask := { num := 3, part := 0, chip := [cE 2, cE 5], cellar := [cE 6], cap := 8, bound := some 1 }
def pRef : PacketRef := ⟨0, 2, 5, 0⟩
def tk (n : Word) : Task := { pc := 0x12000, lo := n, hi := 0 }
def rT : Grid :=
  { uid := 1, kind := .task, packet := pRef, kernarg := 0x2000, width := 2, vregs := 16, scratch := 4096, tg := 2, nt := 4, cores := 0xFF, casks := [3], fillDelay := 10 }
def rFm (e : Nat) : Grid := { rT with forming := [⟨e, [tk 7], 900000⟩] }
def rTm : Grid := { rT with formingTeams := [⟨2, [[tk 7, tk 8]], 900000, false⟩] }
def rO : Grid := { uid := 1, packet := pRef, width := 16, vregs := 16, scratch := 4096, acc := 8192, tg := 2, nt := 4, nextTeam := 1, cores := 0xFF, kernarg := 0x2000, pc := 0x12000 }
def pkR : Packet := { ref := pRef, words := List.replicate 8 0, state := .started, code := 0, since := 0, nodes := [], dropped := false }
/-- A partition with sixteen image units, that grid, and the cask. -/
def tSch (r : Grid) : State :=
  { tS (tGroup []) with parts := [{ tPart with block := (tPart.block.set 11 0x4000000).set 12 0x4200000 }], grids := [r], casks := [kR], packets := [pkR],
                        hbm := memWriteNat [] 0x2010 8 0x12000, budgets := List.replicate 24 ⟨some 100, 3, 0⟩ }
def spBg : Split := { tSplit with status := .stalled (.budget 7), budgetSince := some 900000 }
def gBg : Group := { tGroup [] with splits := [spBg] }
/-- A cask; task grids whose next entry opens, joins and completes a group; a delay that is over, twice; an ordinary grid with teams to place and one that is over; an
operation that has waited. -/
theorem witness_SchedulerRowsPlaceAndRetire :
    ((tSch rT).boot = .running ∧ (tSch rT).cask? 3 = some kR) ∧
    (∀ r ∈ [rT, rFm 2, { rFm 2 with width := 4 }], (tSch r).boot = .running ∧ (tSch r).grid? 1 = some r ∧ (tSch r).cask? 3 = some kR ∧ r.kind = .task ∧ r.admitted = true ∧
      gridRuns (tSch r) r = true ∧ 3 ∈ r.casks ∧ takingStops (tSch r) r = false ∧ kR.chip = [cE 2, cE 5] ∧ (2 : Word).toNat % 2 ^ 16 = 2 ∧
      reachB (tSch r) { core := 1024 + r.part, part := r.part, asid := r.asid &&& 0xFFFF#64, ptroot := r.ptroot, sup := true, wkey := r.wkey, grid := none, team := none }
        needR (r.kernarg + BitVec.ofNat 64 (8 * 2)) 8 0x2010 (tTlb 1024) = true) ∧
    (rT.forming = [] ∧ 1 < rT.width ∧ (rFm 2).forming = [⟨2, [tk 7], 900000⟩] ∧ 1 + 1 < { rFm 2 with width := 4 }.width ∧ 1 + 1 = (rFm 2).width ∧ (rFm 2).formingTeams = []) ∧
    ((rFm 2).fillDelay ≠ 0 ∧ (900000 : DWord).toNat + 10 * 1750 ≤ (tSch (rFm 2)).clock.toNat ∧ rTm.forming = [] ∧ rTm.formingTeams = [⟨2, [[tk 7, tk 8]], 900000, false⟩] ∧
      (tSch rTm).grid? 1 = some rTm ∧ gridRuns (tSch rTm) rTm = true) ∧
    (let s := tSch rO;
      s.grids = [rO] ∧ (s.part 0).running = true ∧ (s.part 0).qState 2 ≠ 3 ∧ rO.nextTeam < rO.nt ∧ (∀ tm ∈ s.teams, tm.saved = false) ∧
      (s.part 0).slotsUsed.length + rO.tg ≤ imgUnits s 0 ∧ pickCore s rO (rO.tg, 0) = some 1) ∧
    (let r := { rO with nextTeam := 4 };
     let s := { tSch r with teams := [], groups := [] };
      s.grid? 1 = some r ∧ gridRuns s r = true ∧ (∀ tm ∈ s.teams, tm.grid ≠ r.uid) ∧ r.nt ≤ r.nextTeam ∧ s.packet? r.packet = some pkR) ∧
    (let s := { tS gBg with clock := 1000000 };
      s.groups = [gBg] ∧ gBg.splits = [spBg] ∧ teamOnCores s gBg.team = true ∧ (900000 : DWord).toNat + 20 * 1750 ≤ s.clock.toNat) := by
  decide +kernel

/-- A partition block with those quadwords changed. -/
def blk (l : List (Nat × DWord)) : Partition := { block := l.foldl (fun b q => b.set q.1 q.2) tPart.block }
/-- Partition 0 at work with a program of its own; partition 2 not enabled, with queues 8 to 15 and casks 16 to 18. -/
def tHv (p0 : Partition) (p2 : Partition) : State :=
  { tE tProg with parts := p0 :: {} :: p2 :: List.replicate 13 {}, tlb := [], hbm := memWriteNat [] 0x2010 8 0x12000 }
def b0 (pctl pstate : DWord) : Partition := blk [(0, pctl), (2, 0xFF), (7, 0x8000000), (11, 0x4000000), (12, 0x4200000), (14, pstate)]
def b2 : Partition := blk [(0, 0), (3, 0xF), (5, 0xFFFF0), (6, 0x8000000), (7, 0x9000000), (8, 0x080008), (10, 0x30010), (11, 0x8000000), (12, 0x8100000), (14, 0)]
/-- The group, stopped for the hypervisor with its image stored. -/
def sEs : State :=
  let g := { gBg with vregs := 2, width := 2, lanes := gBg.lanes.take 2, gstate := .escalated, escalatedSplit := some 0 }
  storeHeader (noteImage (storeRegs (storeFrame { tHv (b0 3 1) b2 with groups := [g] } g true) g) g.uid) g 3
def gEs : Group := (sEs.group? 3).getD gBg
def pHyp : Program := { tProg with state := .faulted { lFt with hyp := true } }
/-- A partition to enable, to destroy, to stop, to start and to bring back; an escalated group; a program stopped for the hypervisor; tables in memory. -/
theorem witness_HypervisorControlsTakeEffect :
    (∀ s ∈ [tHv (b0 3 1) b2, tHv (b0 1 0) b2, tHv (b0 1 3) b2, tE pHyp], s.boot = .running ∧ s.memoriesWf = true) ∧
    (let s := tHv (b0 3 1) b2; b2.en = false ∧ s.part 2 = b2 ∧ enableRefused s 2 = false ∧ s.casks = [] ∧ b2.hasCask 17 = true ∧ b2.pstate ≠ 3 ∧
      (b2.reg 0x00).getLsbD 1 = false) ∧
    ((b0 1 0).en = true ∧ ((b0 1 0).reg 0x00).getLsbD 1 = false ∧ (∀ tn ∈ (tHv (b0 1 0) b2).tuns, tn.part ≠ 0) ∧ (b0 1 0).pstate = 0 ∧ coreHeld (tHv (b0 1 0) b2) 0 = false ∧
      (∀ v ∈ (b0 1 0).vcp, v.kicked = false ∧ v.ops = [])) ∧
    ((b0 3 1).running = true ∧ (b0 1 3).en = true ∧ (b0 1 3).pstate = 3 ∧ coreHeld (tHv (b0 1 3) b2) 0 = false ∧ enginesTake (tHv (b0 1 3) b2) (b0 1 3).progs = true) ∧
    ((tE pHyp).prog? ⟨0 / 2, 0 % 2⟩ = some pHyp ∧ pHyp.ctx.part = 0) ∧ ((0x3000 : Nat) % 8 = 0 ∧ (0x3000 : Nat) + 8 ≤ 576 * 2 ^ 30) := by
  exact ⟨by decide +kernel, by decide +kernel, by decide +kernel, by decide +kernel, by decide +kernel, by decide⟩
/-- A partition whose runs are parked while it stops, one that stops with no run, and one that starts with one piece of its swap area. -/
theorem witness_HypervisorControls_swap :
    let y : SwapPiece := { mem := .scratch, base := 2 * 2 ^ 19, pa := 0x40000, size := 65536 }
    let stopping := tHv (b0 1 2) b2
    let parked := { stopping with runs := [{ tRun with waitv := some 5 }] }
    let starting := tHv { b0 3 4 with swap := [y] } b2
    (∀ s ∈ [stopping, parked, starting], s.boot = .running ∧ s.memoriesWf = true) ∧ (stopping.part 0).pstate = 2 ∧ (parked.part 0).pstate = 2 ∧
    (∀ x ∈ stopping.runs, x.waitv.isSome = true) ∧ (∀ x ∈ parked.runs, x.ref.part = 0 ∧ x.waitv.isSome = true) ∧
    (starting.part 0).pstate = 4 ∧ (∀ v ∈ (starting.part 0).vcp, v.kicked = false ∧ v.ops = []) ∧ (starting.part 0).swap = [y] ∧ y.mem = .scratch := by decide +kernel
/-- The group that its image holds. -/
theorem witness_HypervisorControls_gctl :
    sEs.boot = .running ∧ sEs.memoriesWf = true ∧ stoppedGroup sEs 0 0 = some gEs ∧ sEs.group? gEs.uid = some gEs ∧ imageIntact sEs gEs = true ∧
      teamOnCores sEs gEs.team = true ∧ hasSlot sEs gEs = true ∧ gEs.lanes.length ≤ 64 := by decide +kernel

/-- Memory that holds those quadwords. -/
def quadMem (l : List (Nat × Nat)) : Memory := l.foldl (fun m q => memWriteNat m q.1 8 q.2) []
def vq0 (first : Option DWord) : VcpQueue := { queue := 2, limit := 7, base := 0x6000, ctl := 0x44, firstRead := first }
/-- Queue 2 of partition 0: a ring of `2 ^ lg` packets at 0x6000, WPTR 7, RPTR and CPTR 5, in a STATE. -/
def pVq (lg st : Nat) (first : Option DWord) : Partition :=
  { tPart with block := tPart.block.set 8 0x080000, vcp := [vq0 first],
               dev := quadMem ([(0, 0x6000), (1, 0x40 + lg), (2, 7), (3, 5), (4, 5), (5, st), (6, 0x3_00030001)].map (fun q => (0x1080 + 8 * q.1, q.2))) }
/-- That device, packet 5 of the ring being a SIGNAL under this header. -/
def tVq (lg st : Nat) (first : Option DWord) (hd : Nat) : State :=
  { tS (tGroup []) with parts := pVq lg st first :: List.replicate 15 {}, hbm := quadMem [(0x6140, hd), (0x6148, 0x3000), (0x6150, 1)] }
def qr : QueueRef := ⟨0, 2⟩
def pkC (code : BitVec 8) : Packet := { pkR with state := .complete, code := code, words := sigPkt }
def pkX : Packet := { pkR with state := .waiting, words := [0x40F1, 0, 0, 0, 0, 0, 0, 0] }
def wvRun (since : DWord) : SteepRun := { qRun with steep := { tSteep with code := [0x00064611, 0x15] }, waitv := some since }
/-- A load request at 0x7000 for slot 3, of `n` words at 0x7100: LDI then END, or LDI alone. -/
def tLoad (n : Nat) : State :=
  let s := tVq 4 1 none 0
  { s with kiln := { s.kiln with steepreq := [0x7000] }, hbm := quadMem [(0x7000, 0x7100), (0x7008, n + 3 * 2 ^ 16), (0x7100, 0x15_00000001)] }
/-- A queue ACTIVE and FAULTED, with a legal and an illegal ring; headers in phase and not; packets complete, with and without an error, and of a custom type; a run parked in
WAITV for 11 ms; load requests. -/
theorem witness_QueueRowsReadAndCompletePackets :
    (∀ s ∈ [tVq 4 1 none 0x5_00004105, tVq 3 1 none 0, tVq 4 2 none 0x5_00004105, tVq 4 1 (some 800000) 0x5_00004005, tLoad 2],
      s.memoriesWf = true ∧ vcpRuns s 0 = true ∧ s.sigs = [] ∧ (s.part 0).devReg 0x20 = 0) ∧
    (let s := tVq 4 1 none 0x5_00004105; 2 < (s.part 0).qcount ∧ (s.part 0).qEn 2 = true ∧ (s.part 0).qState 2 = 1 ∧ mayRead s qr = true ∧ poisonedRange s 0x6140 64 = false ∧
      ringAddr (s.vq qr) 5 = 0x6140 ∧ (s.part 0).rptr 2 = 5 ∧ (∀ k, k < 8 → reachB s (launchCtx s 0 (vcpCore 0)) needR (0x6140 + BitVec.ofNat 64 (8 * k)) 8 (0x6140 + 8 * k) (tTlb 1024) = true) ∧
      memReadNat s.hbm 0x6140 8 = 0x5_00004105 ∧ lapPhase (s.vq qr) 5 = bit 0x5_00004105 8) ∧
    (pktCheck (tVq 4 1 none 0x5_00004105) 0 2 ((List.range 8).map (fun k => BitVec.ofNat 64 (memReadNat (tVq 4 1 none 0x5_00004105).hbm (0x6140 + 8 * k) 8))) = 0 ∧
      (((tVq 4 2 none 0).part 0).qState 2 = 2 ∧ ((tVq 3 1 none 0).part 0).qReg 2 1 = 0x43 ∧ bit 0x5_00004005 8 = false) ∧
      (800000 : DWord).toNat + 100 * 1750 ≤ (tVq 4 1 (some 800000) 0).clock.toNat) ∧
    (∀ c ∈ [0, 7].map (BitVec.ofNat 8), let s := { tVq 4 1 none 0 with packets := [pkC c] }
      s.packet? pRef = some (pkC c) ∧ (s.part 0).cptr 2 = pRef.idx ∧ (pkC c).type ≠ 2 ∧ writesOut s = false) ∧
    (0xF0 ≤ pkX.type ∧ startable { tVq 4 1 none 0 with packets := [pkX] } pkX = true) ∧
    (let s := { tVq 4 1 none 0 with runs := [wvRun 1000], clock := 20000000 }; s.run? 4 = some (wvRun 1000) ∧ (wvRun 1000).straight 1 ∧
      (1000 : DWord).toNat + 10000 * 1750 ≤ s.clock.toNat ∧ steepOf ((wvRun 1000).steep.code.getD 0 0) = sF 6 4 6) ∧
    ((tLoad 2).kiln.steepreq = [0x7000] ∧ memReadNat (tLoad 2).hbm 0x7008 8 = 2 + 3 * 2 ^ 16 + 0 * 2 ^ 32 + 0 * 2 ^ 36 ∧ ((tLoad 2).part 0).en = true ∧
      (readCode (tLoad 2) 0 0x7100 2).2 = some [1, 0x15] ∧ verifySteep [1, 0x15] [none, none, none, none] = none ∧ verifySteep [1] [none, none, none, none] = some (6, 0)) := by
  exact ⟨by decide +kernel, by decide +kernel, by decide +kernel, by decide +kernel, by decide +kernel, ⟨by decide +kernel, fun e he => (nomatch he), by decide +kernel⟩, by decide +kernel⟩

/-- A packet that waits. -/
def pk (ws : List DWord) : Packet := { pkR with state := .waiting, words := ws }
/-- Queue 2 with these packets, cores 0 to 7, a kernel descriptor at 0x7000 and the word 5 at 0x3000. -/
def tPk (ks : List Packet) : State :=
  let s := tVq 4 1 none 0
  { s with packets := ks, parts := (s.parts.set 0 { pVq 4 1 none with block := (tPart.block.set 8 0x080000).set 2 0xFF }),
           hbm := quadMem [(0x7000, 0x12000), (0x7008, 0x2_00000000), (0x7010, 1024), (0x3000, 5)] }
def wLaunch (kd : DWord) : List DWord := [0x4001, kd, 0x2000, 0x20004, 0, 0, 0, 0]
def wLxrun (e : DWord) : List DWord := [0x4003, 0x8000, 0x01 + 256 * e, 1, 2, 3, 4, 0]
def mRun : Packet := { pk (wLxrun 0) with ref := ⟨0, 2, 5, 1⟩ }
def wWait (cond : DWord) : List DWord := [0x4004, 0x3000, 5, 0xFF, 0x80 + cond, 9, 0, 0]
def wSig (op : DWord) : List DWord := [0x4005, 0x3000, 0xFFFFFFFFFFFFFFFE, op, 0, 0, 0, 0]
def wGraph : List DWord := [0x4006, 0x9000, 0, 0, 0, 0, 0, 0]
def pkG : Packet := { pk wGraph with submitted := true, reent := true, nodes := [sigPkt, wLaunch 0x7000] }
def wRes (op : DWord) : List DWord := [0x4009, 0xF0, 0, 0, op, 0, 0, 0]
def wTun (op x : DWord) : List DWord := [0x400A, op, x, 1, 0x3000, 0, 0, 0]
def wSave : List DWord := [0x400B, 0x10000, 0xFFFFFFFFFFFFFFFF, 0x8, 0, 0, 0, 0]
def wRest : List DWord := [0x400C, 0x10000, 0, 0, 0, 0, 0, 0]
def wPatch : List DWord := [0x4007, 0x9000, 1, 2, 3, 0x0F, 0, 0]
/-- Nothing works but the queues; queue 3 is saved. -/
def tSv (k : Packet) : State :=
  let s := tPk [k]
  { s with groups := [], teams := [], grids := [], saves := [⟨0, 0x10000, [(3, [0x6800, 0x44, 9, 2, 1, 0, 0, 0])], []⟩],
           parts := s.parts.set 0 { (s.parts.getD 0 {}) with dev := memWriteNat (memWriteNat (s.parts.getD 0 {}).dev 0x10E8 8 3) 0x10D0 8 9 } }
def pkWt (cond : DWord) : Packet := { pk (wWait cond) with state := .started, since := 900000 }
def freeTn : Tun := { tTun with slots := [] }
/-- The whole of HBM, mapped where it lies. -/
def eBig : TlbEntry := { tTlb 1024 with size := 2 ^ 40 }
/-- The area fits its size field, and each of its pages can be written. -/
theorem saveArea_reached : let s := { tSv (pk wSave) with tlb := [eBig] }
    let size := (Config.saveAreaSize (saveQueues wSave).length 0).toNat
    size ≤ ((pk wSave).words.getD 2 0).toNat ∧
    ∀ j, j < max 1 ((size + 65535) / 65536) → Reaches54 s (launchCtx s 0 (vcpCore 0)) needW ((pk wSave).words.getD 1 0 + BitVec.ofNat 64 (65536 * j)) 8 (0x10000 + 65536 * j) := by
  intro s size
  have hs : size < 2 ^ 39 := (Config.saveAreaSize (saveQueues wSave).length 0).isLt
  refine ⟨Nat.le_trans (Nat.le_of_lt hs) (by decide), fun j hj => ?_⟩
  have hj' : 65536 * j < 2 ^ 39 + 65536 := by omega
  have ha : ((pk wSave).words.getD 1 0 + BitVec.ofNat 64 (65536 * j)).toNat = 0x10000 + 65536 * j := by
    show (0x10000#64 + BitVec.ofNat 64 (65536 * j)).toNat = _
    rw [BitVec.toNat_add, BitVec.toNat_ofNat, BitVec.toNat_ofNat]; omega
  have hc : launchCtx s 0 (vcpCore 0) = { core := 1024, part := 0, asid := 0, ptroot := 0, sup := true, wkey := 0, grid := none, team := none } := by decide +kernel
  refine ⟨by omega, by omega, eBig, ?_, by rw [hc]; decide, fun _ => rfl, by rw [ha]; show _ = 0 + (_ - 0); omega, by omega, ?_, rfl, by decide, by decide⟩
  · rw [ha, hc]
    simp only [tlbFind, s, List.find?, TlbEntry.hits, eBig, tTlb]
    split
    · rfl
    · simp_all; omega
  · show _ < 2 ^ 40; omega
/-- A packet of every type that may start, with what its row finds; a WAITMEM under way that has waited long; a PATCH and a GRAPH that is not submitted. -/
theorem witness_PacketsDoTheirWork :
    (∀ k ∈ [wLaunch 0x7000, wLaunch 0x7400, wLaunch 0x7FFFFFFFFFFFFC0, wLxrun 0, wLxrun 1, wWait 0, wWait 1, wWait 2, wWait 3, wWait 4, wWait 5, wSig 0, wSig 1, wSig 2,
        [0x4008, 0x3000, 0, 0, 0, 0, 0, 0], wRes 0, wRes 1, wTun 0 0x100000, wTun 1 5].map pk ++ [pkG],
      (tPk [k]).packet? k.ref = some k ∧ (tPk [k]).memoriesWf = true ∧ startable (tPk [k]) k = true) ∧
    (packetQuads (tPk []) (pk (wLaunch 0x7000)) 0x7000 8 = (tPk [], some [0x12000, 0x2_00000000, 1024, 0, 0, 0, 0, 0]) ∧
      (packetQuads (tPk []) (pk (wLaunch 0x7400)) 0x7400 8).2 = some (List.replicate 8 0) ∧ kernelDesc (List.replicate 8 0) = none ∧
      (packetQuads (tPk []) (pk (wLaunch 0x7FFFFFFFFFFFFC0)) 0x7FFFFFFFFFFFFC0 8).2 = none ∧
      kernelDesc [0x12000, 0x2_00000000, 1024, 0, 0, 0, 0, 0] = some ⟨0x12000, 16, 16, false, false, 1024, 0, 0⟩) ∧
    ((match launchChecks (tPk []) (gridOf (tPk []) (pk (wLaunch 0x7000)) ⟨0x12000, 16, 16, false, false, 1024, 0, 0⟩ (BitVec.allOnes 192)) with
      | .grid r => decide (r.nt = 4) | _ => false) = true) ∧
    ((∀ e ∈ [0, 1], ((wLxrun (BitVec.ofNat 64 e)).getD 2 0).toNat / 256 = e ∧ ((tPk []).engine ⟨1, e⟩).progs.length < 8) ∧
      membersOf (tPk [pk [0x14002, 0, 0, 0, 0, 0, 0, 0], mRun]) (pk [0x14002, 0, 0, 0, 0, 0, 0, 0]) = [mRun] ∧ mRun.type = 3) ∧
    (reachB (tPk []) (launchCtx (tPk []) 0 (vcpCore 0)) needRW 0x3000 8 0x3000 (tTlb 1024) = true ∧ reachB (tPk []) (launchCtx (tPk []) 0 (vcpCore 0)) needR 0x3000 8 0x3000 (tTlb 1024) = true ∧
      reachB (tPk []) (launchCtx (tPk []) 0 (vcpCore 0)) needW 0x3000 8 0x3000 (tTlb 1024) = true ∧ (tPk []).caches = [] ∧ (tPk []).sigs.length < 256 ∧
      poisonedRange (tPk []) 0x3000 8 = false ∧ sigAt (tPk []) (.hbm 0x3000) 8 = [] ∧ writesOut (tPk []) = false) ∧
    ((pkWt 0).state = .started ∧ (tPk [pkWt 0]).remotes = [] ∧ ((pkWt 0).words.getD 5 0) ≠ 0 ∧ (pkWt 0).since.toNat + 9 * 1750 ≤ (tPk [pkWt 0]).clock.toNat) := by
  decide +kernel
/-- The other rows: a tun without fills, a save and a restored area, and a graph object that can be read. -/
theorem witness_PacketsDoTheirWork_rest :
    (({ tPk [pk (wTun 1 5)] with tuns := [freeTn] }).tun? 5 = some freeTn ∧ freeTn.part = 0 ∧ freeTn.installing = false ∧ freeTn.slots = []) ∧
    (∀ k ∈ [pk wSave, pk wRest], startable (tSv k) k = true ∧ (tSv k).memoriesWf = true ∧ (tSv k).packet? k.ref = some k ∧ (tSv k).runs = [] ∧ (tSv k).engines = [] ∧
      ((tSv k).part 0).slotsUsed.length + unitsHeld (tSv k) 0 (tSv k).uid ≤ imgUnits (tSv k) 0) ∧
    (saveAt (tSv (pk wRest)) 0 0x10000 = some ⟨0, 0x10000, [(3, [0x6800, 0x44, 9, 2, 1, 0, 0, 0])], []⟩ ∧ ((tSv (pk wRest)).part 0).qState 3 = 3 ∧ (((tSv (pk wRest)).part 0).wptr 3 + 2 ^ 32 - 2) % 2 ^ 32 ≤ 2 ^ 4 ∧
      saveAt (tPk [pk wRest]) 0 0x10000 = none ∧ saveQueues wSave = [3]) ∧
    (let s := { tPk [pk wGraph] with hbm := quadMem [(0x9000, 1), (0x9010, 0x9100), (0x9100, 0x4005), (0x9108, 0x3000), (0x9110, 1)] };
      (match (readGraph s 0 2 wGraph).2 with | .nodes l _ => decide (l = [[0x4005, 0x3000, 1, 0, 0, 0, 0, 0]]) | _ => false) = true ∧ s.memoriesWf = true ∧ vcpRuns s 0 = true) := by
  decide +kernel

/-- Partition 0 with job key 7, a second stage that maps its page 5 (readable and writable) and page 6 (readable), an open window on port 1, a gang with key 9
and an open deadline entry. -/
def pFb : Partition :=
  { block := [(1, 0x10000), (7, 0x8000000), (15, 0x1_00000007), (17, 0x8800), (18, 0x8000)].foldl (fun b q => b.set q.1 q.2) tPart.block,
    mailboxes := [{}, { en := true, wkey := 3 }] }
def tFb : State :=
  let s : State := tS (tGroup [])
  { s with parts := pFb :: List.replicate 15 {}, tlb := [tTlb 0, tTlb 192, tTlb 1024, tTlb 1201], grids := [{ tGrid with packet := pRef }],
           hbm := quadMem [(0x10000, 0x200003), (0x20000, 0x300003), (0x30028, 0x5000CD), (0x30030, 0x600045), (0x50040, 0x1122334455667788),
             (0x8040, 0x80000000_00000009), (0x8048, 4), (0x8890, 900000), (0x8898, 10), (0x88A0, 8), (0x88A8, 0x9000), (0x88B0, 1), (0x88B8, 77)] }
def hr (key : BitVec 32) : HostRef := ⟨1, key⟩
def rq (key : BitVec 32) (off : Nat) (op : RemoteOp) : RemoteReq := ⟨0x51, key, 4, off, op, 0, 9⟩
def rl (st : RemoteState) : RemoteLane := { lane := 3, addr := 0x4000, dest := 0x51, off := 0x4000, op := .read 4, state := st, since := 1000 }
def ro (rel : Bool) (st : RemoteState) : RemoteOut :=
  { id := 20, group := 3, split := 0, engine := none, dst := 4, ty := 6, reg := true, op := 8, pc := 0x10000, insn := [], lanes := [rl st], released := rel }
def spPk : Split := { tSplit with status := .parked (.statuses 8), pend := [⟨8, [], true⟩] }
def spGo : Split := { tSplit with pend := [⟨8, [], true⟩] }
def gRm (sp : Split) : Machine.Group := { tGroup [] with splits := [sp], flights := [⟨0, 8, false⟩] }
def tRo (o : RemoteOut) (sp : Split) (ks : List Packet) : State := { tS (gRm sp) with remotes := [o], packets := ks }
def roP : RemoteOut := { ro false .waiting with packet := some pRef, group := 0, op := 20, reg := false }
/-- A host with the key and one without; requests of another device that are refused and performed; answers to a split's load and to a packet's access; an entry
that is due; a notice. -/
theorem witness_FabricRequestsAndAnswersTakeEffect :
    (tFb.memoriesWf = true ∧ tFb.boot = .running ∧ hostPart tFb (hr 8) = none ∧ hostPart tFb (hr 7) = some 0 ∧ 1 < (tFb.part 0).mailboxes.length) ∧
    (reachB tFb (hostCtx tFb 0 1) needRW 0x3001 1 0x3001 (tTlb 1201) = true ∧ cacheLine? tFb .l1 (portCore 1) (0x3001 / 128) = none ∧ poisoned tFb (.hbm 0x3001) = false ∧
      sigAt tFb (.hbm 0x3001) 1 = []) ∧
    (jobPart tFb 8 = none ∧ jobPart tFb 7 = some 0 ∧ homeCheck tFb 0 0x50040 needR = (tFb, some 0x50040) ∧ homeCheck tFb 0 0x50040 needRW = (tFb, some 0x50040) ∧
      homeCheck tFb 0 0x60000 needW = (tFb, none) ∧ homeCheck tFb 0 0x70000 needR = (tFb, none) ∧ homeCheck tFb 0 0x50040 needW = (tFb, some 0x50040)) ∧
    ((match homePage tFb 0 0x50040 0x50040 with | .plain => true | _ => false) = true ∧ poisonedRange tFb 0x50040 8 = false ∧ poisoned tFb (.hbm 0x50040) = false ∧
      sigAt tFb (.hbm 0x50040) 8 = [] ∧ cacheLine? tFb .l1 (deviceCore 0x51) (0x50040 / 128) = none ∧ tFb.sigs.length < 256) ∧
    (∀ q ∈ [(ro false .waiting, spPk), (ro true .accepted, spGo)], let s := tRo q.1 q.2 []
      s.memoriesWf = true ∧ s.split? ⟨3, 0⟩ = some (gRm q.2, q.2) ∧ (gRm q.2).gstate = .resident ∧ 0 < tyRegs q.1.ty) ∧
    (let s := { tRo roP tSplit [pkR] with remtmo := 900000 }; s.packet? pRef = some pkR ∧ pkR.type ≠ 4 ∧ roP.order = 0 ∧ (rl .accepted).unpack = none ∧ (rl .waiting).since.toNat + s.remtmo ≤ s.clock.toNat) ∧
    (flushDue tFb 0 2 = true ∧ dltLen tFb 0 2 = 0 ∧ reachB tFb (dltCtx tFb 0 2) needW (dltFwd tFb 0 2) 64 0x9000 (tTlb 1024) = true ∧ dltBase tFb 0 + 64 * 2 + 64 ≤ 0x9000) ∧
    ((∀ q, q < 16 → q ≠ 0 → gangBase tFb q = 0) ∧ matchingGangs tFb 0 7 9 = [1] ∧ (tFb.part 0).devReg 0x20 = 0 ∧ gangField tFb 0 1 6 8 8 = 0 ∧
      gangOf tFb 0 pRef.queue = some 1 ∧ (tGroup []).splits = [tSplit]) := by
  decide +kernel

def imgV (v : Nat) : FirmwareImage := { whole := true, signed := true, version := v, content := [5] }
/-- Rails that are up, an image in the flash, and version 3 in the fuses. -/
def tUp (r : List (Rail × DWord)) (v : Nat) : State := { State.reset with rails := r, clock := 20000, fusedMin := 3, firmware := imgV v }
def mRd (t p c : Nat) : MonitorReading := { temps := [t], power := p, current := c }
/-- A device at work, some partitions stopped, with an error log at 0x40000. -/
def tRas (base : DWord) : State :=
  let s := tS (tGroup [])
  { s with kiln := { s.kiln with rasbase := base, rascount := 0x7_00000402 } }
/-- Rails in turn; images that are verified and not; readings of the monitors in every band; an attestation request; errors with and without a log. -/
theorem witness_BringUpMonitorsAndErrorsTakeEffect :
    (∀ s ∈ [tUp [] 3, tUp [(.io, 5)] 3, tUp [(.io, 5), (.memory, 6)] 3, tUp [(.io, 5), (.memory, 6), (.core, 7)] 2, tRas 0x40000, tRas 0], s.memoriesWf = true) ∧
    ((20000 : DWord).toNat ≤ (5 : DWord).toNat + 10000 * 1750 ∧ (20000 : DWord).toNat ≤ (6 : DWord).toNat + 10000 * 1750) ∧
    ((imgV 3).whole = true ∧ (imgV 3).signed = true ∧ (tUp [] 3).fusedMin ≤ (imgV 3).version ∧ ¬ (tUp [] 2).fusedMin ≤ (imgV 2).version) ∧
    ((tRas 0).boot = .running ∧ (tRas 0).dieClock.length = 4 ∧ (∀ p ∈ { tRas 0 with parts := [] }.parts, p.pstate = 0)) ∧
    ((∃ x ∈ (mRd 1200 0 0).temps, (tRas 0).limits.stop ≤ x) ∧ (∀ x ∈ (mRd 900 0 13000).temps, x < 1000) ∧ railsOut {} (mRd 900 0 13000) = [] ∧ 12000 < (mRd 900 0 13000).current ∧
      (mRd 900 0 0).current < 11400 ∧ railsOut {} { mRd 900 0 0 with volts := [400], ioMv := 830 } = [0, 7]) ∧
    ((0x3000 + 64 + 8191) / 8192 * 8192 + 8192 ≤ 576 * 2 ^ 30 ∧ (0x3040 : Nat) < 576 * 2 ^ 30 ∧ (tRas 0x40000).ras = []) := by
  exact ⟨by decide +kernel, by decide, by decide, by decide +kernel, by decide, by decide⟩

/-- The device with code at 0x10000 and 0x8000 and one scheduled item, four cycles from now. -/
def tAg (x : AgendaItem) (code : List (Nat × Nat)) (s : State) : State := { s with agenda := [x], hbm := quadMem code }
def spRun : Split := tSplit.issuing 1000004
/-- A word SADD, an illegal word, a long word; a lauter word; a steep word; a row; nothing scheduled, with and without an agent. -/
theorem witness_StepRunsTheDecodedInstruction :
    (∀ w ∈ [0x0610811C, 0x0000003C], let s := tAg ⟨4, .issue ⟨3, 0⟩⟩ [(0x10000, w)] (tS (tGroup []))
      s.split? ⟨3, 0⟩ = some (tGroup [], tSplit) ∧ canRun s (tGroup []) = true ∧ tSplit.mayIssue = true ∧ tSplit.prefetch = [] ∧ poisoned s (.hbm 0x10000) = false ∧
      pendingCause (s.setGroup ((tGroup []).setSplit spRun)) ((tGroup []).setSplit spRun) spRun = none ∧ spRun.poisonAt = none ∧ waitingCause spRun = none ∧ spRun.farPc = 0 ∧
      tlbFind s (192 + 0) (splitCtx ((tGroup []).setSplit spRun) spRun) 0x10000 = some (tTlb 192) ∧
      permSub (splitCtx ((tGroup []).setSplit spRun) spRun) (tTlb 192) needX = none ∧ cacheLine? s .instr 0 (0x10000 / 128) = none) ∧
    ((match decodeKloam ((List.range 4).map (fun k => memRead (quadMem [(0x10000, 0x0610811C)]) (0x10000 + k))) with | .ok q => decide (q = (.sadd tH tSR, [])) | .error _ => false) = true ∧
      (match decodeKloam ((List.range 4).map (fun k => memRead (quadMem [(0x10000, 0x0000003C)]) (0x10000 + k))) with | .error _ => true | .ok _ => false) = true ∧
      bit (memReadNat (quadMem [(0x10000, 0x0000003C)]) 0x10000 4) 0 = false ∧ bit (memReadNat (quadMem [(0x10000, 0x0000003C)]) 0x10000 4) 1 = false) ∧
    (let s := tAg ⟨4, .engine ⟨0, 0⟩⟩ [(0x8000, 0x3F)] { tE tProg with tlb := [tTlb 0, tTlb 192] }; s.prog? ⟨0, 0⟩ = some tProg ∧ engineRuns s tProg = true ∧ tProg.state = .running ∧
      tlbFind s (192 + tProg.ctx.core) tProg.ctx tProg.pc.toNat = some (tTlb 192) ∧ cacheLine? s .l1 0 (0x8000 / 128) = none) ∧
    (let s := tAg ⟨4, .steep 4⟩ [] (tQ tRun); s.run? 4 = some tRun ∧ tRun.waitv = none ∧ tRun.away = false ∧ tRun.steep.code[tRun.pc]? = some 0x15) ∧
    (let s := tS (tGroup [])
     s.agenda = [] ∧ s.turns = [] ∧ (beginCycle (tick { s with clock := s.clock + 1, actor := .nobody })).turns = [.issue ⟨3, 0⟩] ∧
      (beginCycle (tick { State.reset with clock := 1, actor := .nobody })).turns = [] ∧ (readySplits s).map (fun x => (x.quad, x.split)) = [(0, ⟨3, 0⟩)] ∧ s.slow = []) := by
  exact ⟨by decide +kernel, by decide +kernel, by decide +kernel⟩
/-- A well-formed instruction of each set; a state from which a step goes on. -/
theorem witness_DecodingInvertsEncoding : ∀ q ∈ [(Isa.kloam, Instr.sadd tH tSR), (.lauter, .lauterEnd ⟨0, 0, 0, 0, 0⟩), (.steep, .steepEnd (sF 0 0 0))], q.2.isa = some q.1 ∧ q.2.wellFormed = true := by
  decide +kernel
theorem witness_StepsKeepTranslationsAlignedAndLinesUnique : (∀ e ∈ State.reset.tlb, e.aligned) ∧ State.reset.caches.Pairwise (fun c d => ¬ (c.kind = d.kind ∧ c.core = d.core ∧ c.line = d.line)) :=
  ⟨fun _ h => (nomatch h), List.Pairwise.nil⟩
theorem witness_StepsKeepMemoriesCanonical : State.reset.memoriesWf = true ∧ (match step State.reset with | .next _ => true | _ => false) = true := by decide +kernel

/-! #### Further clauses -/

/-- An OUTER or a HELD entry on top, alone and with another split of the tag elsewhere; an ARRIVED entry of the address, with that split elsewhere. -/
theorem witness_JoinFollowsItsCases_tops :
    let at_ (st : List StackEntry) (t : Option CodeAddr) : Split := { tSplit with mask := 0xFF, stack := st, tag := t }
    let y : Split := { j3b with pc := 0x444, status := .ready }
    ∀ q ∈ [([StackEntry.outer 0x10000 none], (none : Option CodeAddr)), ([.held 0x10000 0xF0000], some 8), ([.outer 0x444 none], some 0x10000), ([.arrived 0x10000 0xF0000], some 0x10000)],
      readyB (.join tH) tH (tS (g2 (at_ q.1 q.2) y)) (g2 (at_ q.1 q.2) y) (at_ q.1 q.2) = true ∧ y ∈ (g2 (at_ q.1 q.2) y).splits ∧ y.slot ≠ (at_ q.1 q.2).slot ∧
        y.tag = some (at_ q.1 q.2).pc ∧ y.pc ≠ (at_ q.1 q.2).pc := by decide +kernel
/-- The older of two arrives last, and the younger does; the younger has a stack of its own. -/
theorem witness_JoinFollowsItsCases_merge :
    (∀ b ∈ [j3b, { j3b with stack := [.held 0x444 0xF0000] }], readyB (.join tH) tH (tS (g2 j3a b)) (g2 j3a b) j3a = true ∧ j3a.age < b.age ∧ j3a.pc = b.pc ∧ b.status = .parked .join) ∧
    (∀ st ∈ [[], [StackEntry.held 0x444 0xF0000]],
      let a : Split := { j3a with slot := 1, status := .parked .join }
      let b : Split := { j3b with slot := 0, status := .ready, stack := st }
      readyB (.join tH) tH (tS (g2 a b)) (g2 a b) b = true ∧ a.age < b.age ∧ a.tag = some b.pc ∧ b.tag = some b.pc) := by decide +kernel
/-- LEXIT of every lane of a split that is alone with others; with lanes held or arrived; with an OUTER entry whose tag another split has, and waits with. -/
theorem witness_ExitRetiresLanes_forms :
    let at_ (st : List StackEntry) : Split := { tSplit with mask := 0xFF, stack := st }
    let b (s : SplitStatus) (t : Option CodeAddr) : Split := { e2 with age := 1, status := s, tag := t }
    (∀ st ∈ [[], [StackEntry.held 4 0xF0000], [.arrived 4 0xF0000], [.defer 4 0xF0000 8], [.outer 0x10000 (some 8)]],
      ∀ y ∈ [b .ready none, b .ready (some 0x10000), b (.parked .join) (some 0x10000)], let g := g2 (at_ st) y
      readyB (.lexit tH bL) tH (tS g) g (at_ st) = true ∧ readyB (.exit tH) tH (tS g) g (at_ st) = true ∧ activeLanes g (at_ st) tH ≠ [] ∧
        maskOf (activeLanes g (at_ st) tH) = (at_ st).mask ∧ (g.lane 8).live = true ∧ (at_ st).mask.getLsbD 8 = false ∧ y.pc = 0x10000) := by decide +kernel
/-- A user trap while another split is in the user handler, and while one is in the supervisor handler that was entered from it. -/
theorem witness_EscalationStopsAndOccupiedHandlersWait_user :
    ∀ o ∈ [{ sOther with inSup := false, sup := false, inUser := true }, sOther], let g : Group := { gVec 0x8001 0x4000 with sstatus := 4, splits := [tSplit, o] }
      (tImg g).group? g.uid = some g ∧ g.split? tSplit.slot = some tSplit ∧ g.utvec.getLsbD 0 = true ∧ tSplit.inSup = false ∧ tSplit.inUser = false ∧
        (∃ x ∈ g.splits, x.slot ≠ tSplit.slot ∧ (x.inUser = true ∨ (x.inSup = true ∧ g.sstatus.getLsbD 2 = true))) := by decide +kernel
/-- An access of the split to another device, with an order, that has no answer yet. -/
def awayOut : RemoteOut :=
  { id := 40, group := 3, split := 0, engine := none, dst := 0, ty := 8, reg := false, op := 7, pc := 0x10000, insn := [], order := 1, mask := 1,
    lanes := [{ lane := 0, addr := 0x3000, dest := 1, off := 0x3000, op := .read 8, state := .accepted, src := [0x5008] }] }
theorem witness_WaitingInstructionsWaitAndGoOn_away : let s := { tS g0 with remotes := [awayOut] }
    readyB (.bar tH ⟨true, 15, 0, 0⟩) tH s g0 tSplit = true ∧ strongAway s g0 tSplit = true ∧ strongAway (tBar .ready) g0 tSplit = false ∧
      remapBusy s [(0x5008, 8)] = true ∧ remapBusy s [(0x5010, 8)] = false ∧ s.kiln.s2writes = [] := by decide +kernel
/-- MOVI of each kind of type, NLUT of a table in S registers, IDOT4 with an immediate. -/
theorem witness_IntegerResultsOfTheLanes_values :
    (∀ ty ∈ [0, 1, 2, 3, 4, 5, 6, 7, 8, 9, 10, 11, 12, 13, 14, 17, 19, 20, 21], readyB (.movi tH { tL with ty := BitVec.ofNat 5 ty, x := 0x80000000 }) tH (tS g0) g0 tSplit = true) ∧
    readyB (.nlut tH { n64 with ty := 21, mo := 3 }) tH (tS g0) g0 tSplit = true ∧ readyB (.idot4 tH { tL with ty := 1, mo := 4, x := 0x80FF7F01 }) tH (tS g0) g0 tSplit = true := by
  decide +kernel
def tClus : Team := { tTeam with uid := 9, core := 5, scratch := 0x100 }
/-- Ranks of the cluster: the own team's, another team's, its end, one without a team, one past the last; a thread without a team or grid. -/
theorem witness_AddressChecksInOrder_cluster :
    let s := { tS g0 with grids := [{ tGrid with clus := true }], teams := [tTeam, tClus] }
    let there (rank : Nat) (x : Team) : Bool := x.grid == tTeam.grid && !x.saved && x.core == 8 * (tTeam.core / 8) + rank
    s.grid? 1 = some { tGrid with clus := true } ∧ s.team? 2 = some tTeam ∧ (0xFFF8 : DWord).toNat / 2 ^ 18 = tTeam.core % 8 ∧ (0x1400F8 : DWord).toNat / 2 ^ 18 = 5 ∧
      s.teams.filter (there 5) = [tClus] ∧ (0x1400F8 : DWord).toNat % 2 ^ 18 + 8 ≤ tClus.scratch ∧ ¬ (0x140100 : DWord).toNat % 2 ^ 18 + 8 ≤ tClus.scratch ∧
      s.teams.filter (there 7) = [] ∧ (0x1C0000 : DWord).toNat / 2 ^ 18 = 7 ∧ (0x200000 : DWord).toNat / 2 ^ 18 = 8 ∧
      (({ splitCtx g0 tSplit with team := none } : Ctx).team.bind s.team? = none) ∧ (({ splitCtx g0 tSplit with grid := some 66 } : Ctx).grid.bind s.grid? = none) := by decide +kernel
/-- A tag inside the window and not recorded, at both its ends; 1,024 windows of other sources at the slice. -/
theorem witness_TaggedReductionsApplyOnce_window : let g := gM 0x100 []
    (∀ q ∈ [((6 : Word), (0x51 : BitVec 4096), 5), (4096, 1, 4095)], readyB (.redt hP redtF) hP (tRedt q.1 q.2.1 g) g tSplit = true ∧
      (q.1 - (g.lane 0).vReg 1).toNat = q.2.2 ∧ q.2.2 < 4096 ∧ q.2.1.getLsbD q.2.2 = false) ∧
    (∀ h b, (tRedt h b g).redt = [⟨homeSliceOf 0x100, redtSource (tRedt h b g) g, h, b⟩]) ∧
    (let s : State := { tS g with redt := List.replicate 1024 ⟨homeSliceOf 0x100, [], 0, 1⟩ }
     readyB (.redt hP redtF) hP s g tSplit = true ∧ s.redt.find? (fun w => w.slice == homeSliceOf 0x100 && w.src == redtSource s g) = none ∧
       1024 ≤ (s.redt.filter (fun w => w.slice == homeSliceOf 0x100)).length) := by
  refine ⟨by decide +kernel, fun _ _ => rfl, by decide +kernel, List.find?_eq_none.mpr fun x hx => ?_, ?_⟩
  · rw [List.eq_of_mem_replicate hx]; simp [redtSource]
  · simp
/-- RESAMP of sixteen threads, four of which weigh anything, to eight places: each of the four has two. -/
theorem witness_CollectivesRepackAndResample_clones :
    let s := tRs 8 (ones 4)
    let gs := gridGroups s 1
    let ts := threadsOf gs
    let weight := (ts.map (·.weight)).sum
    s.grid? 1 = some popGrid ∧ resampReady s popGrid = true ∧ (gs.map (·.uid)).Nodup ∧ (∀ gr ∈ gs, s.group? gr.uid = some gr) ∧ gs = [gRs 8 (ones 4)] ∧ weight ≠ 0 ∧ 8 ≤ popGrid.popcap.toNat ∧ 8 ≤ (gRs 8 (ones 4)).width ∧
      (gRs 8 (ones 4)).width ≤ 64 ∧ countsFrom 8 weight (popOffset popGrid) 0 (ts.map (·.weight)) = [2, 2, 2, 2] ++ List.replicate 12 0 := by decide +kernel
/-- LXKILL of a program that runs, with its writes done and on their way; of a faulted one; of another team's. -/
theorem witness_LauterProgramsAreStartedWatchedAndStopped_kill :
    let p (st : ProgState) (t : Nat) : Program := { tProg with serial := 2, state := st, ctx := { tCtx with team := some t } }
    let s (st : ProgState) (t : Nat) (l : List RemoteOut) : State := { tS (gLx 2) with engines := [⟨0, 0, 8, [p st t], []⟩], remotes := l }
    let i : Instr := .lxkill tH { lxF 0 with b := 0, d := 0 }
    let f : LauterFault := { code := 0x40, sub := 0, addr := 0, record := 0x40000, hyp := false }
    let o : RemoteOut := { awayOut with engine := some eng0, op := 2, order := 0 }
    (∀ st ∈ [ProgState.running, .faulted f], readyB i tH (s st 2 []) (gLx 2) tSplit = true ∧ progDrained (s st 2 []) eng0 (p st 2) = true ∧
      readyB i tH (s st 2 [o]) (gLx 2) tSplit = true ∧ progDrained (s st 2 [o]) eng0 (p st 2) = false ∧ (s st 2 [o]).prog? eng0 = some (p st 2)) ∧
    readyB i tH (s .running 7 []) (gLx 2) tSplit = true ∧ (p .running 7).ctx.team ≠ some (gLx 2).team ∧ (gLx 2).sReg 2 = dw (0 * 2 ^ 40 + 0 * 2 ^ 32 + 2) := by decide +kernel
/-- A sub-tensor of two dimensions of a tensor of three; the same of 4-bit elements. -/
theorem witness_LauterAccessesAndDescriptors_ranks :
    let d := tD 0x100 1 2 [(4, 0, 1), (3, 0, 8), (5, 2, 100)]
    let e := tD 0x100 1 1 [(4, 0, 1), (3, 1, 8)] 3
    let c : Nat → Nat := fun i => if i = 0 then 3 else 2
    Desc.ndim d = 3 ∧ Desc.tdim d = 2 ∧ c 0 < Desc.extent d 0 ∧ c 1 < Desc.extent d 1 ∧ c 2 = Desc.index d 2 ∧ 11 = ((List.range 2).map (fun i => c i * ((List.range i).map (Desc.extent d)).prod)).sum ∧
      elemPos d none 11 = 3 + 16 + 200 ∧ elemPos d (some 1) 11 = 3 + 16 + 100 ∧ elemPos e none 3 = ((11 : Nat) : Int) := by decide +kernel

/-- A veil of the loading lane over its word, over the word beside it, and of another lane. -/
theorem witness_OnChipLoadsAndStores_veils :
    let g := gM 0x40 []
    let s (v : Veil) : State := { tS g with veils := [v] }
    let v : Veil := ⟨3, 0, .scratch 2 0x40, [1, 2, 3, 4]⟩
    ∀ x ∈ [v, { v with loc := .scratch 2 0x44 }, { v with lane := 1 }], readyB (.ld hP (mF 1 6)) hP (s x) g tSplit = true ∧ activeLanes g tSplit hP = [0] ∧
      locIs (placeOffset (s x) (splitCtx g tSplit) .scratch (laneAddr g 0 (mF 1 6)).toNat 4) (.scratch 2 0x40) = true ∧ poisoned (s x) (.scratch 2 0x40) = false ∧
      locMeets v.loc 4 (.scratch 2 0x40) 4 = true ∧ locMeets (.scratch 2 0x44) 4 (.scratch 2 0x40) 4 = false := by decide +kernel
/-- R306: another lane may miss a RED that has issued, its own lane may not, and BAR ends it. -/
theorem test_red_is_seen_by_its_lane :
    let g := gM 0x40 []
    let s : State := { tS g with veils := [⟨3, 0, .scratch 2 0x40, [0, 0, 0, 0]⟩, ⟨3, 1, .scratch 2 0x40, [0, 0, 0, 0]⟩], actor := .split ⟨3, 0⟩ }
    (settleVeils (.red hP (mF 1 6)) s).veils = [⟨3, 1, .scratch 2 0x40, [0, 0, 0, 0]⟩] ∧ (settleVeils (.ld hP (mF 1 6)) s).veils = s.veils ∧
      (settleVeils (.bar tH tSR) s).veils = [] := by decide +kernel

/-! #### Values of the spec and of the standards it names -/

/-- SHAKE256 of the empty message begins 46 B9 DD 2B (FIPS 202, as its test vectors give it). -/
theorem test_shake256_empty : (shake256 []).take 4 = [0x46, 0xB9, 0xDD, 0x2B] := by decide +kernel

end Sys2Proof.Tests
end

section
/-! PROOFS. SWR writes its register's fields (O4). -/

namespace Sys2Proof.Machine

/-! ### SWR -/

/-- What SWR answers for a ready split that may write the register: the write, then the end of the instruction. -/
theorem exec_swr_ready {h : Hdr} {f : SIF} {s : State} {g : Group} {sp : Split} (hr : Ready (.swr h f) h s g sp) (hk : g.kGuard h = true)
    (ha : swrAssigned f.imm.toNat sp.sup = true) (hp : (f.imm.toNat < 0x80 ∧ f.imm.toNat ≠ 0x1B) ∨ sp.sup = true) :
    exec (.swr h f) s = .next (finish s (srWrite g f.imm.toNat (g.sReg f.d.toNat)) (swrSplit f.imm.toNat sp) 4) := by
  refine (exec_uniform (exec_swr h f s) hr ha ?_).trans (by rw [if_pos hk])
  rcases hp with ⟨hn, hw⟩ | hs
  · simp [Nat.not_le.2 hn, hw]
  · simp [hs]

/-- A register that is not TIMECMP is written without touching the splits. -/
theorem srWrite_keeps_splits (g : Group) (n : Nat) (v : DWord) (hn : n ≠ 0x07) : (srWrite g n v).splits = g.splits := by
  unfold srWrite
  split
  case h_1 => exact absurd rfl hn
  all_goals rfl
theorem srWrite_uid (g : Group) (n : Nat) (v : DWord) : (srWrite g n v).uid = g.uid := by
  unfold srWrite
  split <;> rfl

/-- Every split rearmed, each is found where it was. -/
theorem split?_map_rearm (g : Group) (v : DWord) (k : Nat) :
    ({ g with timecmp := v, splits := g.splits.map Split.rearm } : Group).split? k = (g.split? k).map Split.rearm := by
  simp only [Group.split?, List.find?_map]
  rfl

/-- The group after a write of TIMECMP, the executing split past its instruction: every split of it is rearmed. -/
theorem split?_timecmp_write (g : Group) (sp : Split) (v : DWord) (hs : g.split? sp.slot = some sp) :
    ((srWrite g 0x07 v).setSplit (sp.rearm.next 4)).split? sp.slot = some (sp.rearm.next 4) ∧
      ∀ k, k ≠ sp.slot → ((srWrite g 0x07 v).setSplit (sp.rearm.next 4)).split? k = (g.split? k).map Split.rearm := by
  have hm : ∀ k, (srWrite g 0x07 v).split? k = (g.split? k).map Split.rearm := split?_map_rearm g v
  have hslot : (sp.rearm.next 4).slot = sp.slot := rfl
  rw [← hslot]
  refine ⟨Group.split?_setSplit_self _ _ ?_, fun k hk => ?_⟩
  · rw [hslot, hm, hs]; rfl
  · rw [Group.split?_setSplit_other _ _ k hk, hm]

/-- Settles O4: a ready SWR answers `finish` on the group `srWrite` leaves; TIMECMP also rearms the splits. -/
theorem specialRegistersWrite : Obligations.SpecialRegistersWrite := by
  intro h f s g sp v hk hr
  refine ⟨fun g2 hp ht => ?_, fun hn => ?_⟩
  · have hreg : f.imm.toNat ≠ 0x07 ∧ swrAssigned f.imm.toNat sp.sup = true ∧ srWrite g f.imm.toNat v = g2 := by
      simp only [List.mem_cons, Prod.mk.injEq, List.not_mem_nil, or_false] at ht
      obtain ⟨hn, rfl⟩ | ⟨hn, rfl⟩ | ⟨hn, rfl⟩ | ⟨hn, rfl⟩ | ⟨hn, rfl⟩ | ⟨hn, rfl⟩ | ⟨hn, rfl⟩ | ⟨hn, rfl⟩ | ⟨hn, rfl⟩ | ⟨hn, rfl⟩ |
        ⟨hn, rfl⟩ | ⟨hn, rfl⟩ := ht <;> rw [hn] <;> exact ⟨by decide, rfl, rfl⟩
    obtain ⟨h7, ha, hw⟩ := hreg
    have he := exec_swr_ready hr hk ha hp
    rw [swrSplit, if_neg h7] at he
    exact completes_finish _ s g _ sp 4 _ he hr.group hr.split (srWrite_uid g _ v) (srWrite_keeps_splits g _ v h7) (by rw [← hw]; rfl)
  · have he := exec_swr_ready hr hk (by rw [hn]; rfl) (.inl (by rw [hn]; decide))
    rw [hn] at he
    obtain ⟨hself, hother⟩ := split?_timecmp_write g sp v hr.split
    refine ⟨_, _, he, onlyGroup_setGroup s g _ hr.group rfl, rfl, fun x hx => ?_, hother⟩
    rw [← Option.some.inj (hself.symm.trans hx)]
    rfl

end Sys2Proof.Machine
end

section
/-! PROOFS. Every step keeps the memories canonical (O60): one lemma for each function of the model that hands a state on says
that the state it gives is canonical, so that a composition of functions is a chain of these lemmas; only the writes to a memory or to a
partition have something to show, and `Laws/Memory` shows it. -/

namespace Sys2Proof.Machine

/-! ### Canonical memories -/

/-- Every memory of the state, and the device-register page of every partition, is in canonical form (R5, R48). -/
structure State.Canonical (s : State) : Prop where
  hbm : Memory.wf s.hbm = true
  scratch : Memory.wf s.scratch = true
  dieScratch : Memory.wf s.dieScratch = true
  acc : Memory.wf s.acc = true
  parts : ∀ p ∈ s.parts, Memory.wf p.dev = true

theorem memoriesWf_iff (s : State) : s.memoriesWf = true ↔ s.Canonical := by
  simp only [State.memoriesWf, Bool.and_eq_true, List.all_eq_true]
  exact ⟨fun ⟨⟨⟨⟨h, r⟩, d⟩, a⟩, p⟩ => ⟨h, r, d, a, p⟩, fun ⟨h, r, d, a, p⟩ => ⟨⟨⟨⟨h, r⟩, d⟩, a⟩, p⟩⟩

/-- An outcome whose next state, if there is one, has canonical memories. -/
inductive CanonicalOutcome : Host.Outcome State Fault Refusal → Prop where
  | next {s : State} (h : s.Canonical) : CanonicalOutcome (.next s)
  | fault {r : Fault} : CanonicalOutcome (.fault r)
  | refused {r : Refusal} : CanonicalOutcome (.refused r)

/-- The same of the ends of an access of a command processor, of a request at its home and of the start of a packet. -/
def HomeEnd.Canonical (e : HomeEnd) : Prop := match e with | .nak s _ => s.Canonical | .ok s _ => s.Canonical
def VcpEnd.Canonical (e : VcpEnd) : Prop := match e with | .done s _ => s.Canonical | .fault s => s.Canonical | .away s => s.Canonical
def StartEnd.Canonical (e : StartEnd) : Prop := match e with | .started s => s.Canonical | .halt s => s.Canonical | _ => True
protected theorem HomeEnd.Canonical.of {e e' : HomeEnd} (h : e.Canonical) (he : e = e') : e'.Canonical := he ▸ h
protected theorem VcpEnd.Canonical.of {e e' : VcpEnd} (h : e.Canonical) (he : e = e') : e'.Canonical := he ▸ h
protected theorem StartEnd.Canonical.of {e e' : StartEnd} (h : e.Canonical) (he : e = e') : e'.Canonical := he ▸ h

protected theorem VcpEnd.Canonical.state {e : VcpEnd} (h : e.Canonical) : e.state.Canonical := by
  cases e with
  | done s v => exact h
  | fault s => exact h
  | away s => exact h

/-- The state that a placement leads to, where there is room for it, has canonical memories. -/
def CanonicalIfPlaced (o : Option State) : Prop := ∀ t ∈ o, t.Canonical
theorem CanonicalIfPlaced.none : CanonicalIfPlaced none := by simp [CanonicalIfPlaced]
theorem CanonicalIfPlaced.some {s : State} (h : s.Canonical) : CanonicalIfPlaced (some s) := by simpa [CanonicalIfPlaced] using h
theorem CanonicalIfPlaced.map {α : Type} {o : Option α} {f : α → State} (h : ∀ {a}, (f a).Canonical) : CanonicalIfPlaced (o.map f) := by
  cases o with
  | none => exact .none
  | some a => exact .some h
theorem CanonicalIfPlaced.getD {o : Option State} {s : State} (ho : CanonicalIfPlaced o) (hs : s.Canonical) : (o.getD s).Canonical := by
  cases o with
  | none => exact hs
  | some t => exact ho t rfl

/-- What every element's step keeps, the fold keeps. -/
theorem foldl_keeps {α β : Type} {P : β → Prop} {f : β → α → β} {l : List α} {b : β} (hb : P b) (hf : ∀ {m x}, P m → P (f m x)) :
    P (l.foldl f b) :=
  List.foldlRecOn l f hb fun _ h _ _ => hf h

namespace State.Canonical
variable {s : State}

protected theorem ite {c : Prop} [Decidable c] {a b : State} (ha : a.Canonical) (hb : b.Canonical) : (if c then a else b).Canonical := by
  split <;> assumption
protected theorem foldl {α : Type} {f : State → α → State} {l : List α} (h : s.Canonical) (hf : ∀ {t x}, t.Canonical → (f t x).Canonical) :
    (l.foldl f s).Canonical :=
  foldl_keeps (P := State.Canonical) h hf
/-- The state of a pair that has been taken apart. -/
protected theorem of {α : Type} {p : State × α} {t : State} {a : α} (h : p.1.Canonical) (e : p = (t, a)) : t.Canonical := by
  rw [e] at h
  exact h

theorem dev_part (h : s.Canonical) (p : Nat) : Memory.wf (s.part p).dev = true := by
  unfold State.part
  rw [List.getD_eq_getElem?_getD]
  cases hp : s.parts[p]? with
  | none => rfl
  | some x => exact h.parts x (List.mem_of_getElem? hp)
theorem dev_setAt {l : List Partition} {x : Partition} (hl : ∀ y ∈ l, Memory.wf y.dev = true) (hx : Memory.wf x.dev = true) (n : Nat) :
    ∀ y ∈ setAt {} l n x, Memory.wf y.dev = true := by
  induction n generalizing l with
  | zero => cases l <;> simp_all [setAt]
  | succ n ih =>
    cases l with
    | nil =>
      simp only [setAt, List.mem_cons, forall_eq_or_imp]
      exact ⟨rfl, ih (by simp)⟩
    | cons y t =>
      simp only [setAt, List.mem_cons, forall_eq_or_imp] at hl ⊢
      exact ⟨hl.1, ih hl.2⟩
/-- Ranges cleared one after another leave a memory canonical. -/
theorem foldl_memClear_wf {α : Type} {m : Memory} {l : List α} {a n : α → Nat} (h : Memory.wf m = true) :
    Memory.wf (l.foldl (fun m x => memClear m (a x) (n x)) m) = true :=
  foldl_keeps (P := fun m => Memory.wf m = true) h (memClear_wf _ _ _)
/-- A device register written leaves the page canonical (R331). -/
theorem wf_setDevReg {p : Partition} {off : Nat} {v : DWord} (h : Memory.wf p.dev = true) : Memory.wf (p.setDevReg off v).dev = true :=
  memWriteNat_wf _ _ _ _ h
protected theorem setPart {p : Nat} {x : Partition} (h : s.Canonical) (hx : Memory.wf x.dev = true) : (s.setPart p x).Canonical :=
  { h with parts := dev_setAt h.parts hx p }
protected theorem modPart {p : Nat} {f : Partition → Partition} (h : s.Canonical)
    (hf : ∀ x : Partition, Memory.wf x.dev = true → Memory.wf (f x).dev = true := by exact fun _ h => h) : (s.modPart p f).Canonical :=
  h.setPart (hf _ (h.dev_part p))

/-! ### Fields of the state -/

protected theorem reset : State.reset.Canonical := (memoriesWf_iff _).1 (by decide)

/-! ### Poison, signatures and the home of a line -/

protected theorem setGroup {g} (hs : s.Canonical) : (State.setGroup s g).Canonical := { hs with }
protected theorem modGroup {uid f} (hs : s.Canonical) : (State.modGroup s uid f).Canonical := { hs with }
protected theorem setSplit {uid sp} (hs : s.Canonical) : (State.setSplit s uid sp).Canonical := hs.modGroup
protected theorem modSplit {uid slot f} (hs : s.Canonical) : (State.modSplit s uid slot f).Canonical := hs.modGroup
protected theorem modTeam {uid f} (hs : s.Canonical) : (State.modTeam s uid f).Canonical := { hs with }
protected theorem modGrid {uid f} (hs : s.Canonical) : (State.modGrid s uid f).Canonical := { hs with }
protected theorem modTun {num f} (hs : s.Canonical) : (State.modTun s num f).Canonical := { hs with }
protected theorem modCask {num f} (hs : s.Canonical) : (State.modCask s num f).Canonical := { hs with }
protected theorem modPacket {r f} (hs : s.Canonical) : (State.modPacket s r f).Canonical := { hs with }
protected theorem modRun {id f} (hs : s.Canonical) : (State.modRun s id f).Canonical := { hs with }
protected theorem setEngine {e} (hs : s.Canonical) : (State.setEngine s e).Canonical := { hs with }
protected theorem fresh (hs : s.Canonical) : (State.fresh s).2.Canonical := { hs with }
protected theorem takeFree (hs : s.Canonical) : (State.takeFree s).2.Canonical := { hs with }
protected theorem post {a} (hs : s.Canonical) : (State.post s a).Canonical := { hs with }
protected theorem flightDone {uid op} (hs : s.Canonical) : (State.flightDone s uid op).Canonical := hs.modGroup

/-! ### Caches -/

protected theorem setPoison {l} (hs : s.Canonical) : (setPoison s l).Canonical := { hs with }
protected theorem clearPoison {l} (hs : s.Canonical) : (clearPoison s l).Canonical := { hs with }
protected theorem coverPoison {l n} (hs : s.Canonical) : (coverPoison s l n).Canonical := hs.clearPoison.ite hs
protected theorem homeWrite {pa n v} (hs : s.Canonical) :
    (homeWrite s pa n v).Canonical := { hs with hbm := memWriteNat_wf _ _ _ _ hs.hbm }
protected theorem noteSlots {pa n} (hs : s.Canonical) : (noteSlots s pa n).Canonical := { hs with }
protected theorem softWrite {pa n v} (hs : s.Canonical) : (softWrite s pa n v).Canonical := hs.homeWrite.noteSlots
protected theorem dropLine {k core line} (hs : s.Canonical) : (dropLine s k core line).Canonical := { hs with }
protected theorem modLine {k core line f} (hs : s.Canonical) : (modLine s k core line f).Canonical := { hs with }
protected theorem touch {core line} (hs : s.Canonical) : (touch s core line).Canonical := hs.ite { hs with }
protected theorem writeBack {core line} (hs : s.Canonical) : (writeBack s core line).Canonical := by
  unfold writeBack
  split
  · exact hs
  · split
    · exact hs
    · extract_lets s1 s2 s3
      have h1 : s1.Canonical := .noteSlots { hs with hbm := writeDirty_wf _ _ _ hs.hbm }
      have h2 : s2.Canonical := h1.clearPoison.ite h1
      have h3 : s3.Canonical := h2.clearPoison.ite h2
      exact h3.modLine
protected theorem writeBackAll {line} (hs : s.Canonical) : (writeBackAll s line).Canonical := hs.foldl (fun h => h.writeBack)
protected theorem coverHalf {l n} (hs : s.Canonical) : (coverHalf s l n).Canonical := by
  unfold coverHalf
  refine .ite (.ite (State.Canonical.clearPoison ?_) { hs with }) hs
  split
  · exact hs.writeBackAll
  · exact hs
protected theorem flushLine {core line} (hs : s.Canonical) : (flushLine s core line).Canonical := hs.writeBack.dropLine
protected theorem evictLine {k core line} (hs : s.Canonical) : (evictLine s k core line).Canonical := hs.flushLine.ite hs.dropLine
protected theorem makeRoom {k core} (hs : s.Canonical) : (makeRoom s k core).Canonical := by
  unfold makeRoom
  split
  · exact hs
  · extract_lets
    split
    · exact hs
    · split
      · exact hs.evictLine
      · exact hs
protected theorem fillLine {k core line va} (hs : s.Canonical) : (fillLine s k core line va).Canonical := by
  unfold fillLine
  split
  · exact hs.ite { hs with }
  · exact { hs.makeRoom with }
protected theorem markFirst {core line} (hs : s.Canonical) : (markFirst s core line).Canonical := hs.modLine
protected theorem dropScales {core} (hs : s.Canonical) : (dropScales s core).Canonical := { hs with }
protected theorem flushCore {core} (hs : s.Canonical) : (flushCore s core).Canonical := hs.foldl (fun h => h.flushLine)
protected theorem cleanCore {core} (hs : s.Canonical) : (cleanCore s core).Canonical := hs.foldl (fun h => h.writeBack)
protected theorem noteRead {core pa n} (hs : s.Canonical) : (noteRead s core pa n).Canonical := by
  unfold noteRead
  split
  · exact hs.ite hs.modLine
  · exact hs
protected theorem settleRead {core pa n} (hs : s.Canonical) : (settleRead s core pa n).Canonical := by
  unfold settleRead
  split
  · exact hs.writeBack.ite hs
  · exact hs
protected theorem l1Load {core cp va pa n decoded} (hs : s.Canonical) : (l1Load s core cp va pa n decoded).1.Canonical := by
  unfold l1Load
  split
  · exact hs.settleRead
  · extract_lets _ s1 s2
    have h1 : s1.Canonical := hs.fillLine
    have h2 : s2.Canonical := h1.markFirst.ite h1
    split
    · exact h2.noteRead
    · exact h2
protected theorem scaleUpdate {core pa n v} (hs : s.Canonical) : (scaleUpdate s core pa n v).Canonical := hs.modLine
protected theorem throughStore {core pa n v} (hs : s.Canonical) : (throughStore s core pa n v).Canonical :=
  hs.modLine.softWrite.touch.scaleUpdate
protected theorem l1Store {core cp va pa n v decoded} (hs : s.Canonical) : (l1Store s core cp va pa n v decoded).Canonical :=
  hs.throughStore.ite (hs.fillLine.modLine.markFirst.ite hs.fillLine.modLine).touch.scaleUpdate
protected theorem endSequence {l n} (hs : s.Canonical) : (endSequence s l n).Canonical := { hs with }
protected theorem retireOldest {l} (hs : s.Canonical) : (retireOldest s l).Canonical := by
  unfold retireOldest
  split
  · exact hs
  · split
    · exact hs
    · extract_lets +onlyGivenNames _
      split
      · exact hs
      · split
        · exact hs
        · extract_lets s1
          have h1 : s1.Canonical := hs.foldl (fun h => h.writeBack)
          clear_value s1
          exact { h1 with }
protected theorem deposit {l n lines rmw} (hs : s.Canonical) : (deposit s l n lines rmw).Canonical := by
  unfold deposit
  extract_lets _ _ s1
  have h1 : s1.Canonical := hs.endSequence
  clear_value s1
  exact h1.ite { h1.retireOldest with }
protected theorem applySig {core sig} (hs : s.Canonical) : (applySig s core sig).Canonical :=
  ((hs.foldl (fun h => h.writeBack)).foldl (fun h => h.flushLine.touch)).dropScales
protected theorem narrowAcquire {core} (hs : s.Canonical) : (narrowAcquire s core).Canonical := hs.dropScales
protected theorem acquireAt {core l n scope paired} (hs : s.Canonical) : (acquireAt s core l n scope paired).Canonical :=
  hs.applySig.ite hs.narrowAcquire
protected theorem shootdown {pa n} (hs : s.Canonical) : (shootdown s pa n).Canonical := { hs with }

/-! ### Translation -/

protected theorem dropStale {as} (hs : s.Canonical) : (dropStale s as).Canonical := { hs with }
protected theorem setEntryBit {i as} (hs : s.Canonical) : (setEntryBit s i as).Canonical := (hs.foldl (fun h => h.homeWrite)).dropStale
protected theorem walkFill {c fetch va} (hs : s.Canonical) : (walkFill s c fetch va).1.Canonical := by
  unfold walkFill
  extract_lets _ s1
  have h1 : s1.Canonical := hs.setEntryBit
  clear_value s1
  split
  · exact h1
  · exact { h1 with }
protected theorem translate {c fetch va} (hs : s.Canonical) : (translate s c fetch va).1.Canonical := by
  unfold translate
  split
  · exact hs
  · split
    · exact { hs with }
    · exact hs.walkFill
protected theorem translateFor {c fetch write va} (hs : s.Canonical) : (translateFor s c fetch write va).1.Canonical := by
  unfold translateFor
  split <;> rename_i heq
  · exact hs.translate.of heq
  · have h1 := hs.translate.of heq
    split
    · exact h1.dropStale.walkFill
    · exact h1
protected theorem markDirty {e} (hs : s.Canonical) : (markDirty s e).Canonical := hs.ite { hs.setEntryBit with }
protected theorem markPage {c va} (hs : s.Canonical) : (markPage s c va).Canonical := by
  unfold markPage
  split <;> rename_i heq
  · exact (hs.translate.of heq).markDirty
  · exact hs.translate.of heq
protected theorem globalCheck {c need addr n} (hs : s.Canonical) : (globalCheck s c need addr n).1.Canonical := by
  unfold globalCheck
  extract_lets
  split
  · exact hs
  · split
    · exact hs
    · split <;> rename_i heq
      · exact hs.translateFor.of heq
      · have h1 := hs.translateFor.of heq
        split
        · exact h1
        · exact h1.markDirty.ite h1
protected theorem fetchWord {c pre va} (hs : s.Canonical) : (fetchWord s c pre va).1.Canonical := by
  unfold fetchWord
  split
  · exact hs
  · split <;> rename_i heq
    · exact hs.globalCheck.of heq
    · have h1 := hs.globalCheck.of heq
      split
      · exact h1
      · extract_lets s2
        have h2 : s2.Canonical := h1.fillLine
        split <;> exact h2
    · exact (hs.globalCheck.of heq).takeFree
    · exact hs.globalCheck.of heq

/-! ### Images of groups -/

protected theorem kilnStore {pa n v} (hs : s.Canonical) : (kilnStore s pa n v).Canonical := hs.homeWrite.touch.deposit
protected theorem takeUnit {part n} (hs : s.Canonical) : (takeUnit s part n).Canonical := hs.modPart
protected theorem returnUnit {part n} (hs : s.Canonical) : (returnUnit s part n).Canonical := hs.modPart
protected theorem checkImage {uid} (hs : s.Canonical) : (checkImage s uid).Canonical := by
  unfold checkImage
  split
  · exact hs.modGroup.ite hs
  · exact hs
protected theorem noteImage {uid} (hs : s.Canonical) : (noteImage s uid).Canonical := by
  unfold noteImage
  split
  · exact hs.modGroup.ite hs
  · exact hs
protected theorem storeFrame {g sup} (hs : s.Canonical) : (storeFrame s g sup).Canonical := hs.checkImage.kilnStore.noteImage.ite hs
protected theorem storeHeader {g code} (hs : s.Canonical) : (storeHeader s g code).Canonical :=
  hs.checkImage.kilnStore.kilnStore.kilnStore.noteImage.ite hs
protected theorem storeRegs {g} (hs : s.Canonical) : (storeRegs s g).Canonical := by
  unfold storeRegs
  extract_lets _ s1 s2
  have h1 : s1.Canonical := hs.foldl fun h => h.kilnStore
  clear_value s1
  have h2 : s2.Canonical := { h1 with hbm := memClear_wf _ _ _ h1.hbm }
  exact h2.foldl fun h => h.foldl fun h => h.kilnStore
protected theorem openArea {a n} (hs : s.Canonical) : (openArea s a n).Canonical := { hs with hbm := memFill_wf _ _ _ _ hs.hbm }
protected theorem storeDevice {g} (hs : s.Canonical) : (storeDevice s g).Canonical := hs.openArea.openArea
protected theorem storeImage {g} (hs : s.Canonical) : (storeImage s g).Canonical :=
  hs.storeFrame.storeFrame.storeRegs.storeDevice.noteImage.storeHeader.noteImage.ite hs

/-! ### Traps, barriers and the end of an instruction -/

protected theorem vcpStore {p addr n v release} (hs : s.Canonical) : (vcpStore s p addr n v release).Canonical := by
  unfold vcpStore
  split <;> rename_i heq
  · have h1 := hs.globalCheck.of heq
    exact h1.softWrite.touch.shootdown.deposit.ite h1.softWrite.touch.endSequence
  · exact hs.globalCheck.of heq
protected theorem vcpLoad {p addr n} (hs : s.Canonical) : (vcpLoad s p addr n).1.Canonical := by
  unfold vcpLoad
  split <;> rename_i heq
  · have h1 := hs.globalCheck.of heq
    split
    · exact h1
    · exact h1.applySig
  · exact hs.globalCheck.of heq
protected theorem pfRecord {part slot eng code sub pc addr} (hs : s.Canonical) :
    (pfRecord s part slot eng code sub pc addr).Canonical := by
  unfold pfRecord
  extract_lets +onlyGivenNames _ _ _
  split
  · exact { hs with }
  · extract_lets _ s1 s2 s3 s4
    have h1 : s1.Canonical := hs.kilnStore
    have h2 : s2.Canonical := h1.kilnStore
    have h3 : s3.Canonical := h2.kilnStore
    have h4 : s4.Canonical := h3.kilnStore
    clear_value s1 s2 s3 s4
    exact { h4 with }
protected theorem postEvent {p type queue code arg} (hs : s.Canonical) : (postEvent s p type queue code arg).Canonical := by
  unfold postEvent
  refine .ite (hs.modPart fun _ => wf_setDevReg) ?_
  extract_lets _ s1 s2
  have h1 : s1.Canonical := hs.foldl fun h => h.vcpStore
  have h2 : s2.Canonical := h1.modPart fun _ => wf_setDevReg
  exact h2.deposit
protected theorem landSaved {s0 : State} {uid} (hs : s0.Canonical) : (landSaved s0 uid).Canonical := by
  unfold landSaved
  extract_lets s1
  have h1 : s1.Canonical := hs.checkImage
  split
  · exact hs.ite h1.setGroup.storeImage
  · exact hs
protected theorem escalate {g0 sp0 c lanes} (hs : s.Canonical) : (escalate s g0 sp0 c lanes).Canonical := by
  unfold escalate
  extract_lets s1 _ _ _ _ _ _ s2 _ s3
  have h1 : s1.Canonical := hs.checkImage
  have h2 : s2.Canonical := h1.setGroup.storeImage
  have h3 : s3.Canonical := h2.pfRecord
  exact h3.ite h3.postEvent
protected theorem parkHandler {g sp lanes sup} (hs : s.Canonical) : (parkHandler s g sp lanes sup).Canonical := hs.setGroup
protected theorem parkPage {g sp lanes page} (hs : s.Canonical) : (parkPage s g sp lanes page).Canonical := hs.setGroup
protected theorem deliver {g sp c epc lanes insn} (hs : s.Canonical) : (deliver s g sp c epc lanes insn).Canonical := by
  unfold deliver
  split
  · exact hs.parkPage
  · split
    · exact hs.setGroup.storeFrame
    · exact hs.setGroup.storeFrame
    · exact hs.escalate
    · exact hs.parkHandler
protected theorem finishRunOn {g sp r} (hs : s.Canonical) : (finishRunOn s g sp r).Canonical := hs.deliver
protected theorem raiseAt {g sp c epc insn} (hs : s.Canonical) : (raiseAt s g sp c epc insn).Canonical := by
  unfold raiseAt
  split
  · exact hs.finishRunOn
  · exact hs.deliver
protected theorem raise {g sp c insn} (hs : s.Canonical) : (raise s g sp c insn).Canonical := hs.raiseAt
protected theorem finish {g sp len} (hs : s.Canonical) : (finish s g sp len).Canonical := hs.setGroup
protected theorem parkAt {g sp p} (hs : s.Canonical) : (parkAt s g sp p).Canonical := hs.setGroup
protected theorem stallAt {g sp p} (hs : s.Canonical) : (stallAt s g sp p).Canonical := hs.setGroup
protected theorem settleFaults {g sp faults len insn} (hs : s.Canonical) : (settleFaults s g sp faults len insn).Canonical := by
  unfold settleFaults
  split
  · exact hs.finish
  · extract_lets
    split <;> exact hs.finishRunOn.ite hs.finish
protected theorem joinCheck {uid a} (hs : s.Canonical) : (joinCheck s uid a).Canonical := by
  unfold joinCheck
  split
  · exact hs
  · extract_lets +onlyGivenNames _
    refine .ite hs ?_
    split
    · exact hs
    · extract_lets _ _ _ _ _ _ s1
      have h1 : s1.Canonical := hs.setGroup
      refine h1.foldl fun h => ?_
      split
      · exact h.raise
      · exact h
protected theorem barrierFence {team} (hs : s.Canonical) : (barrierFence s team).Canonical := by
  unfold barrierFence
  split
  · exact hs.dropScales
  · exact hs.applySig.applySig
  · exact hs
protected theorem barCheck {team id} (hs : s.Canonical) : (barCheck s team id).Canonical := .ite { hs.barrierFence with } hs
protected theorem barCheckAll {team} (hs : s.Canonical) : (barCheckAll s team).Canonical := hs.foldl (fun h => h.barCheck)
protected theorem groupCheck {uid} (hs : s.Canonical) : (groupCheck s uid).Canonical := by
  unfold groupCheck
  split
  · exact hs
  · refine .ite hs ?_
    extract_lets +onlyGivenNames s1 _ s2 s3 s4
    have h1 : s1.Canonical := .storeHeader { hs with }
    have h2 : s2.Canonical := h1.foldl fun h => h.postEvent
    have h4 : s4.Canonical := h2.returnUnit.modGrid
    clear_value s4
    refine .ite ?_ h4.barCheckAll
    extract_lets s5
    have h5 : s5.Canonical := by
      unfold s5
      split
      · exact h4.foldl fun h => h.returnUnit
      · exact h4
    clear_value s5
    exact { h5 with scratch := memClear_wf _ _ _ h5.scratch, acc := memClear_wf _ _ _ h5.acc }
protected theorem afterRetire {g sp} (hs : s.Canonical) : (afterRetire s g sp).Canonical := by
  unfold afterRetire
  refine .ite hs.setGroup.groupCheck ?_
  split
  · exact hs.setGroup.finishRunOn
  · extract_lets _ _ s1 s2
    have h1 : s1.Canonical := hs.setGroup
    have h2 : s2.Canonical := by
      refine h1.foldl fun h => ?_
      split
      · exact h.joinCheck
      · exact h
    exact h2.barCheckAll.groupCheck
protected theorem retireLanes {g sp m} (hs : s.Canonical) : (retireLanes s g sp m).Canonical := hs.afterRetire
protected theorem retireGroup {uid} (hs : s.Canonical) : (retireGroup s uid).Canonical := hs.modGroup.groupCheck
protected theorem lxfPassed {g sp} (hs : s.Canonical) : (lxfPassed s g sp).1.Canonical := by
  unfold lxfPassed
  split
  · exact hs
  · split <;> rename_i heq <;> exact hs.globalCheck.of heq
protected theorem returnFrom {g sp insn} (hs : s.Canonical) : (returnFrom s g sp insn).Canonical := by
  unfold returnFrom
  split
  · extract_lets s1
    have h1 : s1.1.Canonical := hs.lxfPassed
    split
    · exact h1.setGroup
    · exact h1.setGroup.ite (hs.parkHandler.ite h1.setGroup.storeFrame)
  · exact hs.setGroup.ite hs.raise
protected theorem beforeEffect {i h legal priv g sp} {k : State} (hs : s.Canonical) (hk : k.Canonical) :
    (beforeEffect i h legal priv s g sp k).Canonical := by
  unfold beforeEffect
  split
  · split
    · exact hs.finishRunOn
    · exact hs
  · exact hs.parkAt.ite (hs.raise.ite (hs.raise.ite hk))
protected theorem asUniform {i h len legal priv body} (hbody : ∀ {t x y}, t.Canonical → (body t x y).Canonical) (hs : s.Canonical) :
    CanonicalOutcome (asUniform i h len legal priv body s) := by
  unfold asUniform
  split
  · exact .fault
  · exact .next (hs.beforeEffect ((hbody hs).ite hs.finish))
protected theorem asLanes {i h legal body} (hbody : ∀ {t x y z}, t.Canonical → (body t x y z).Canonical) (hs : s.Canonical) :
    CanonicalOutcome (asLanes i h legal body s) := by
  unfold asLanes
  split
  · exact .fault
  · exact .next (hs.beforeEffect (hs.finish.ite (hbody hs)))
protected theorem withRoom {reg path g sp} {k : State} (hs : s.Canonical) (hk : k.Canonical) :
    (withRoom reg path s g sp k).Canonical := by
  unfold withRoom
  split
  · exact hs.stallAt
  · split
    · exact hs.stallAt.ite hk
    · exact hk
protected theorem finishLater {g sp ws len} (hs : s.Canonical) : (finishLater s g sp ws len).Canonical := hs.fresh.finish

/-! ### Uniform instructions -/

protected theorem uniformWrite {i h f} (hs : s.Canonical) : CanonicalOutcome (uniformWrite i h f s) := hs.asUniform (fun h => h.finish)
protected theorem execSrd {h f} (hs : s.Canonical) : CanonicalOutcome (execSrd h f s) := hs.asUniform (fun h => h.finish)
protected theorem execSwr {h f} (hs : s.Canonical) : CanonicalOutcome (execSwr h f s) := hs.asUniform (fun h => h.finish)
protected theorem yieldTo {g sp} (hs : s.Canonical) : (yieldTo s g sp).Canonical := hs.finish
protected theorem execYield {h} (hs : s.Canonical) : CanonicalOutcome (execYield h s) := hs.asUniform (fun h => h.yieldTo)
protected theorem execSleep {h f} (hs : s.Canonical) : CanonicalOutcome (execSleep h f s) :=
  hs.asUniform (fun h1 => h1.yieldTo.ite h1.parkAt)

/-! ### Control flow -/

protected theorem execJmp {h f} (hs : s.Canonical) : CanonicalOutcome (execJmp h f s) := hs.asUniform (fun h => h.setGroup)
protected theorem execCall {h f} (hs : s.Canonical) : CanonicalOutcome (execCall h f s) := hs.asUniform (fun h => h.setGroup)
protected theorem jumpReg {h f g sp} (hs : s.Canonical) : (jumpReg h f s g sp).Canonical := hs.raise.ite (hs.raise.ite hs.setGroup)
protected theorem execJr {h f} (hs : s.Canonical) : CanonicalOutcome (execJr h f s) := hs.asUniform (fun h => h.jumpReg)
protected theorem joinPark {g sp} (hs : s.Canonical) : (joinPark s g sp).Canonical := hs.parkAt.joinCheck
protected theorem joinTag {g sp} (hs : s.Canonical) : (joinTag s g sp).Canonical := hs.joinPark.ite hs.finish
protected theorem joinHere {g sp} (hs : s.Canonical) : (joinHere s g sp).Canonical := by
  unfold joinHere
  split
  · exact hs.setGroup.ite hs.joinTag
  · exact hs.joinTag.ite hs.joinTag
  · exact hs.joinTag
protected theorem execJoin {h} (hs : s.Canonical) : CanonicalOutcome (execJoin h s) := hs.asUniform (fun h => h.joinHere)
protected theorem exitLanes {g sp m len} (hs : s.Canonical) : (exitLanes s g sp m len).Canonical := hs.retireLanes
protected theorem execExit {h} (hs : s.Canonical) : CanonicalOutcome (execExit h s) := hs.asUniform (fun h => h.exitLanes)
protected theorem execLexit {h f} (hs : s.Canonical) : CanonicalOutcome (execLexit h f s) := hs.asLanes (fun h => h.exitLanes)
protected theorem trapInstr {g sp c i} (hs : s.Canonical) : (trapInstr s g sp c i).Canonical := hs.raiseAt
protected theorem execTrap {h f} (hs : s.Canonical) : CanonicalOutcome (execTrap h f s) := hs.asUniform (fun h => h.trapInstr)
protected theorem execSyscall {h f} (hs : s.Canonical) : CanonicalOutcome (execSyscall h f s) := hs.asUniform (fun h => h.trapInstr)
protected theorem execEret {h} (hs : s.Canonical) : CanonicalOutcome (execEret h s) := hs.asUniform (fun h => h.returnFrom)
protected theorem divide {i f g sp taking} (hs : s.Canonical) : (divide i f s g sp taking).Canonical :=
  (hs.raise.ite hs.setGroup).ite (hs.raise.ite hs.setGroup)
protected theorem branchDivide {i f g sp ls} (hs : s.Canonical) : (branchDivide i f s g sp ls).Canonical :=
  hs.setGroup.ite (hs.parkAt.ite hs.divide)
protected theorem execBrd {h f} (hs : s.Canonical) : CanonicalOutcome (execBrd h f s) := hs.asLanes (fun h => h.branchDivide)
protected theorem execElect {h f} (hs : s.Canonical) : CanonicalOutcome (execElect h f s) := hs.asLanes (fun h => h.finish)

/-! ### Integer instructions -/

protected theorem laneWrite {i h legal f} (hs : s.Canonical) : CanonicalOutcome (laneWrite i h legal f s) :=
  hs.asLanes (fun h => h.finish)
protected theorem laneResult {i h f v} (hs : s.Canonical) : CanonicalOutcome (laneResult i h f v s) := hs.laneWrite
protected theorem laneLater {i h f v} (hs : s.Canonical) : CanonicalOutcome (laneLater i h f v s) :=
  hs.asLanes (fun h1 => h1.withRoom h1.finishLater)
protected theorem intResult {i h f v} (hs : s.Canonical) : CanonicalOutcome (intResult i h f v s) := hs.laneResult

/-! ### Floating point -/

protected theorem fpLane {i h f regs n v} (hs : s.Canonical) : CanonicalOutcome (fpLane i h f regs n v s) :=
  hs.asLanes (fun h => h.finish)
protected theorem fpLater {i h f n v} (hs : s.Canonical) : CanonicalOutcome (fpLater i h f n v s) :=
  hs.asLanes (fun h1 => h1.withRoom h1.finishLater)
protected theorem fpResult {i h f v} (hs : s.Canonical) : CanonicalOutcome (fpResult i h f v s) := hs.fpLane
protected theorem fpTranscend {i h f fn} (hs : s.Canonical) : CanonicalOutcome (fpTranscend i h f fn s) := hs.fpLater
protected theorem fpPair {i h f v} (hs : s.Canonical) : CanonicalOutcome (fpPair i h f v s) := hs.fpLane

/-! ### Conversions -/

protected theorem execQscl {h f} (hs : s.Canonical) : CanonicalOutcome (execQscl h f s) := hs.asLanes (fun h => h.finish)

/-! ### Cross-lane instructions -/

protected theorem crossLater {i h f legal regs v} (hs : s.Canonical) : CanonicalOutcome (crossLater i h f legal regs v s) :=
  hs.asLanes (fun h1 => h1.withRoom h1.finishLater)
protected theorem execRdlane {h f} (hs : s.Canonical) : CanonicalOutcome (execRdlane h f s) :=
  hs.asLanes (fun h1 => h1.withRoom h1.finishLater)
protected theorem execWrlane {h f} (hs : s.Canonical) : CanonicalOutcome (execWrlane h f s) := hs.asLanes (fun h => h.finish)
protected theorem execVote {h f} (hs : s.Canonical) : CanonicalOutcome (execVote h f s) := hs.asLanes (fun h => h.finish)
protected theorem execFold {h f} (hs : s.Canonical) :
    CanonicalOutcome (execFold h f s) := hs.asLanes (fun h1 => h1.withRoom h1.finishLater)
protected theorem execScan {h f} (hs : s.Canonical) :
    CanonicalOutcome (execScan h f s) := hs.asLanes (fun h1 => h1.withRoom h1.finishLater)

/-! ### Device registers -/

protected theorem modMailbox {part port f} (hs : s.Canonical) : (State.modMailbox s part port f).Canonical := hs.modPart
protected theorem mailboxWrite {part port off n v} (hs : s.Canonical) : (mailboxWrite s part port off n v).Canonical := by
  unfold mailboxWrite
  exact hs.modMailbox
protected theorem devPageWrite {part off n v} (hs : s.Canonical) : (devPageWrite s part off n v).Canonical := by
  unfold devPageWrite
  extract_lets _ _ s1
  have h1 : s1.Canonical := hs.modPart fun _ => wf_setDevReg
  refine .ite ?_ (h1.post.ite h1)
  split
  · exact h1.post
  · exact h1

/-! ### Requests to a remote device -/

protected theorem sendAll {part order scope rs} (hs : s.Canonical) : (sendAll s part order scope rs).Canonical := { hs with }

/-! ### Slots of tuns -/

protected theorem drawWrite {t off v n} (hs : s.Canonical) : (drawWrite s t off v n).Canonical := by
  induction n generalizing s off v with
  | zero => exact hs
  | succ n ih => exact ih hs.homeWrite.modTun
protected theorem putSlot {t slot status results} (hs : s.Canonical) :
    (putSlot s t slot status results).Canonical := hs.drawWrite.drawWrite
protected theorem restoreDraw {t off n} (hs : s.Canonical) : (restoreDraw s t off n).Canonical := by
  induction n generalizing s off with
  | zero => exact hs
  | succ n ih => exact ih hs.homeWrite
protected theorem drawProper {num off} (hs : s.Canonical) : (drawProper s num off).Canonical := by
  unfold drawProper
  split
  · exact hs.ite hs.restoreDraw
  · exact hs
protected theorem fillWritten {num slot elem off} (hs : s.Canonical) : (fillWritten s num slot elem off).Canonical := by
  unfold fillWritten
  split
  · extract_lets
    split
    · exact hs.ite hs.modTun
    · exact hs
  · exact hs
protected theorem feedStore {num w va n v sig} (hs : s.Canonical) : (feedStore s num w va n v sig).1.Canonical := by
  unfold feedStore
  split
  · exact hs
  · split
    · exact hs
    · split
      · exact hs
      · split
        · exact hs
        · extract_lets
          split
          · exact hs
          · split <;> exact hs.modTun
protected theorem endFire {t x} (hs : s.Canonical) : (endFire s t x).Canonical := (hs.putSlot.ite hs.putSlot).modTun
protected theorem abandonFill {t slot} (hs : s.Canonical) : (abandonFill s t slot).Canonical := hs.putSlot.modTun

/-! ### Loads, stores and read-modify-writes at a place -/

protected theorem place {c sp need addr n} (hs : s.Canonical) : (place s c sp need addr n).1.Canonical := by
  unfold place
  split
  · split <;> rename_i heq <;> exact hs.globalCheck.of heq
  · exact hs
protected theorem locWrite {l n v} (hs : s.Canonical) : (locWrite s l n v).Canonical := by
  unfold locWrite
  split
  · exact hs.softWrite
  · exact { hs with scratch := memWriteNat_wf _ _ _ _ hs.scratch }
  · exact { hs with dieScratch := memWriteNat_wf _ _ _ _ hs.dieScratch }
  · exact hs.devPageWrite
  · exact hs
protected theorem readSide {a o l n} (hs : s.Canonical) : (readSide s a o l n).1.Canonical := by
  unfold readSide
  split
  · exact hs.acquireAt
  · split <;> exact hs
protected theorem writeSide {a o fence l n rmw} (hs : s.Canonical) : (writeSide s a o fence l n rmw).Canonical :=
  hs.deposit.ite (hs.ite hs.endSequence)
protected theorem entrySide {o l n} (hs : s.Canonical) : (entrySide s o l n).Canonical := by
  unfold entrySide
  split
  · exact hs.shootdown.ite hs
  · exact hs
protected theorem lineLoad {a o va pa n decoded} (hs : s.Canonical) : (lineLoad s a o va pa n decoded).1.Canonical := by
  unfold lineLoad
  split
  · exact hs.flushLine
  · exact hs.l1Load
protected theorem elemLoad {a o va frame e} (hs : s.Canonical) : (elemLoad s a o va frame e).1.Canonical := by
  unfold elemLoad
  extract_lets _ s1
  have h1 : s1.1.Canonical := hs.lineLoad
  split
  · exact h1
  · exact h1.lineLoad
protected theorem elemsLoad {a o va frame e n} (hs : s.Canonical) : (elemsLoad s a o va frame e n).1.Canonical := by
  induction n generalizing s e with
  | zero => exact hs
  | succ n ih => exact ih hs.elemLoad
protected theorem drawSide {a o sig} (hs : s.Canonical) : (drawSide s a o sig).1.Canonical := by
  unfold drawSide
  split
  · exact hs.applySig.ite hs.narrowAcquire
  · exact hs
protected theorem loadPlace {a o va n p} (hs : s.Canonical) : (loadPlace s a o va n p).s.Canonical := by
  unfold loadPlace
  split
  · split
    · exact hs
    · exact hs.readSide
  · split
    · exact hs
    · exact hs.lineLoad.readSide
  · extract_lets
    split
    · exact hs
    · exact hs.elemsLoad.readSide
  · split <;> exact hs
  · split
    · exact hs
    · split
      · exact hs
      · exact hs.drawSide
  · split
    · exact hs
    · exact hs.readSide
  · split
    · exact hs
    · exact hs.readSide
  · exact hs.takeFree
protected theorem seenRead {group lane n o p} {r : Read} (hr : r.s.Canonical) : (seenRead s group lane n o p r).s.Canonical := by
  unfold seenRead
  split
  · split <;> exact hr
  · exact hr
protected theorem lineStore {a o va pa n v decoded} (hs : s.Canonical) : (lineStore s a o va pa n v decoded).Canonical :=
  hs.flushLine.softWrite.touch.scaleUpdate.ite hs.l1Store
protected theorem elemStore {a o va frame e v} (hs : s.Canonical) : (elemStore s a o va frame e v).Canonical := by
  unfold elemStore
  extract_lets +onlyGivenNames _ _ _
  split
  · exact ((hs.softWrite.foldl (fun h => h.scaleUpdate)).foldl (fun h => h.modLine)).touch
  · extract_lets s3 s4 _ s5
    have h3 : s3.1.Canonical := hs.lineLoad
    have h4 : s4.1.Canonical := by
      unfold s4
      split
      · exact h3
      · exact h3.lineLoad
    have h5 : s5.Canonical := h4.lineStore
    exact h5.ite h5.lineStore
protected theorem elemsStore {a o va frame e v n} (hs : s.Canonical) : (elemsStore s a o va frame e v n).Canonical := by
  induction n generalizing s e v with
  | zero => exact hs
  | succ n ih => exact ih hs.elemStore
protected theorem storePlace {a o fence va n v p} (hs : s.Canonical) : (storePlace s a o fence va n v p).1.Canonical := by
  unfold storePlace
  split
  · exact (hs.locWrite.writeSide.ite hs.locWrite).coverPoison
  · exact hs.lineStore.writeSide.entrySide.ite hs.lineStore
  · exact hs.elemsStore.writeSide.entrySide.ite hs.elemsStore
  · split
    · rename_i heq
      exact (hs.feedStore.of heq).markPage
    · exact hs.feedStore
  · split <;> exact hs
  · split
    · exact hs
    · exact hs.mailboxWrite.writeSide
  · split
    · exact hs
    · exact hs.devPageWrite.writeSide
  · exact hs
protected theorem rmwAt {a o fence l n f} (hs : s.Canonical) : (rmwAt s a o fence l n f).1.Canonical := by
  unfold rmwAt
  extract_lets s1 _ s2 s3
  have h1 : s1.Canonical := by
    unfold s1
    split
    · exact hs.flushLine.touch
    · exact hs
  have h2 : s2.1.Canonical := h1.readSide
  have h3 : s3.Canonical := h2.locWrite
  exact h3.writeSide.entrySide
protected theorem rmwPlace {a o fence va n p f} (hs : s.Canonical) : (rmwPlace s a o fence va n p f).s.Canonical := by
  unfold rmwPlace
  split
  · exact hs
  · split
    · exact hs
    · split
      · exact hs
      · exact hs.rmwAt
protected theorem memRun_add {m : MemRun} {l sig e} (hs : s.Canonical) : (MemRun.add m s l sig e).s.Canonical := by
  unfold MemRun.add
  split <;> exact hs
protected theorem runLanes {ls f} (hs : s.Canonical) (hf : ∀ {t x}, t.Canonical → (f t x).1.Canonical) : (runLanes s ls f).s.Canonical :=
  foldl_keeps (P := fun m : MemRun => m.s.Canonical) hs (fun h1 => (hf h1).memRun_add)
protected theorem sendFrom {core part order scope wide o} (hs : s.Canonical) : (sendFrom s core part order scope wide o).Canonical :=
  .sendAll (.ite (.foldl (.foldl { hs with } (fun h => h.writeBack)) (fun h => h.deposit)) { hs with })
protected theorem memClose {s0 : State} {g sp} {m : MemRun} {dest o0 insn} (hs : s0.Canonical) (hm : m.s.Canonical) :
    (memClose s0 g sp m dest o0 insn).Canonical := by
  unfold memClose
  extract_lets
  split
  · exact hs.stallAt
  · exact hs.parkPage
  · exact hm.fresh.settleFaults.ite hm.fresh.sendFrom.parkAt
protected theorem holdIssue {g sp mask strong remap} (hs : s.Canonical) : (holdIssue s g sp mask strong remap).Canonical := hs.stallAt
protected theorem holdFor {g sp o x} (hs : s.Canonical) : (holdFor s g sp o x).Canonical := hs.holdIssue
protected theorem holdAccess {g sp o} (hs : s.Canonical) : (holdAccess s g sp o).Canonical := hs.holdFor

/-! ### Tagged reductions -/

protected theorem rmwOrder {ls addr} (hs : s.Canonical) : (rmwOrder s ls addr).1.Canonical := by
  unfold rmwOrder
  extract_lets
  split
  · exact hs
  · exact { hs with }
protected theorem putWindow {w} (hs : s.Canonical) : (putWindow s w).Canonical := { hs with }
protected theorem dropRemoteSource {dev srcId} (hs : s.Canonical) : (dropRemoteSource s dev srcId).Canonical := { hs with }
protected theorem dedupApply {pa src tag apply} (hs : s.Canonical) (happly : ∀ {t}, t.Canonical → (apply t).Canonical) :
    (dedupApply s pa src tag apply).1.Canonical := by
  unfold dedupApply
  split
  · exact hs
  · exact happly hs.putWindow
  · exact happly { hs with }
protected theorem taggedReduce {part rs src tag apply} (hs : s.Canonical) (happly : ∀ {t}, t.Canonical → (apply t).Canonical) :
    (taggedReduce s part rs src tag apply).1.Canonical := by
  unfold taggedReduce
  extract_lets +onlyGivenNames _
  split
  · exact hs.dedupApply (fun h1 => happly h1)
  · extract_lets +onlyGivenNames _
    split
    · exact hs
    · split
      · exact hs
      · split
        · exact hs
        · extract_lets s2
          have h2 : s2.1.Canonical := hs.dedupApply (fun h3 => happly h3)
          exact h2.homeWrite

/-! ### Memory instructions -/

protected theorem laneAccess {a sp need addr n l kind op store act} (hs : s.Canonical)
    (hact : ∀ {t x}, t.Canonical → (act t x).s.Canonical) :
    (laneAccess s a sp need addr n l kind op store act).1.Canonical := by
  unfold laneAccess
  split <;> rename_i heq
  · exact hs.place.of heq
  · split <;> exact hs.place.of heq
  · have h1 := hs.place.of heq
    extract_lets s2
    have h2 : s2.s.Canonical := hact h1
    split <;> exact h2
protected theorem memInstrFor {i h legal o extra order dest lane} (horder : ∀ {t x y}, t.Canonical → (order t x y).1.Canonical)
    (hlane : ∀ {t x y z}, t.Canonical → (lane t x y z).1.Canonical) (hs : s.Canonical) :
    CanonicalOutcome (memInstrFor i h legal o extra order dest lane s) :=
  hs.asLanes (fun h1 => h1.holdFor.ite (h1.memClose ((horder h1).runLanes (fun h2 => hlane h2))))
protected theorem memInstr {i h legal o order dest lane} (horder : ∀ {t x y}, t.Canonical → (order t x y).1.Canonical)
    (hlane : ∀ {t x y z}, t.Canonical → (lane t x y z).1.Canonical) (hs : s.Canonical) :
    CanonicalOutcome (memInstr i h legal o order dest lane s) :=
  hs.memInstrFor (fun h1 => horder h1) (fun h2 => hlane h2)
protected theorem inOrder {x ls} (hs : s.Canonical) : (inOrder s x ls).1.Canonical := hs
protected theorem execLd {h f} (hs : s.Canonical) : CanonicalOutcome (execLd h f s) :=
  hs.memInstr (fun h => h.inOrder) (fun h2 => h2.laneAccess (fun h => h.loadPlace.seenRead))
protected theorem storeRead {r : State × Option Cause} (hs : r.1.Canonical) : (storeRead r).s.Canonical := hs
protected theorem stPlace {p n} {r : State × Option Cause} (hs : r.1.Canonical) : (stPlace p n r).1.Canonical := by
  unfold stPlace
  split
  · exact hs.coverHalf
  · exact hs
protected theorem execSt {h f} (hs : s.Canonical) : CanonicalOutcome (execSt h f s) :=
  hs.memInstrFor (fun h => h.inOrder) (fun h2 => h2.laneAccess (fun h => h.storePlace.stPlace.storeRead))
protected theorem rmwLanes {f g ls} (hs : s.Canonical) : (rmwLanes f s g ls).1.Canonical := hs.rmwOrder
protected theorem rmwLane {g sp f l op store v} (hs : s.Canonical) : (rmwLane s g sp f l op store v).1.Canonical :=
  hs.laneAccess (fun h => h.rmwPlace)
protected theorem execAtom {h f} (hs : s.Canonical) : CanonicalOutcome (execAtom h f s) :=
  hs.memInstrFor (fun h => h.rmwLanes) (fun h => h.rmwLane)
protected theorem execAcas {h f} (hs : s.Canonical) : CanonicalOutcome (execAcas h f s) :=
  hs.memInstrFor (fun h => h.rmwLanes) (fun h => h.rmwLane)
protected theorem execRed {h f} (hs : s.Canonical) : CanonicalOutcome (execRed h f s) :=
  hs.memInstrFor (fun h => h.rmwLanes) (fun h => h.rmwLane)
protected theorem redtPlace {a o fence va n src tag v p} (hs : s.Canonical) : (redtPlace s a o fence va n src tag v p).s.Canonical := by
  unfold redtPlace
  split
  · exact hs
  · split
    · exact hs
    · extract_lets s1
      have h1 : s1.1.Canonical := hs.taggedReduce (fun h => h.rmwAt)
      exact h1
  · exact hs
protected theorem execRedt {h f} (hs : s.Canonical) : CanonicalOutcome (execRedt h f s) :=
  hs.memInstrFor (fun h => h.rmwLanes) (fun h2 => h2.laneAccess (fun h => h.redtPlace))
protected theorem uniClose {s0 : State} {g sp} {r : State × LaneEnd × List (ℕ × ℕ)} {dst o insn} (hs : s0.Canonical)
    (hr : r.1.Canonical) :
    (uniClose s0 g sp r dst o insn).Canonical := by
  unfold uniClose
  split
  · exact hr.raise
  · split
    · exact hs.stallAt
    · extract_lets s1
      have h1 : s1.2.Canonical := hr.fresh
      split <;> exact h1.finish
  · exact hs.stallAt.ite (hs.stallAt.ite hr.fresh.sendFrom.parkAt)
protected theorem uniAccess {i h f store} (hs : s.Canonical) : CanonicalOutcome (uniAccess i h f store s) := by
  refine hs.asUniform fun {s g sp} hs => ?_
  refine .ite hs.holdFor (.ite hs.stallAt (hs.uniClose (hs.laneAccess fun {t p} ht => ?_)))
  split
  · exact ht.storePlace.storeRead
  · exact ht.loadPlace
protected theorem fenceNow {g sp o0} (hs : s.Canonical) : (fenceNow s g sp o0).Canonical :=
  (hs.applySig.finish.ite hs.narrowAcquire.finish).ite hs.finish
protected theorem execFence {h f} (hs : s.Canonical) : CanonicalOutcome (execFence h f s) :=
  hs.asLanes (fun h1 => h1.holdIssue.ite h1.fenceNow)
protected theorem prefLane {a addr o} (hs : s.Canonical) : (prefLane s a addr o).Canonical := by
  unfold prefLane
  extract_lets
  split <;> rename_i heq
  · have h1 := hs.globalCheck.of heq
    exact h1.ite h1.l1Load
  · have h2 := hs.globalCheck.of heq
    exact h2.ite h2.l1Load
  · exact hs.globalCheck.of heq
protected theorem execPref {h f} (hs : s.Canonical) : CanonicalOutcome (execPref h f s) :=
  hs.asLanes (fun h1 => ((h1.foldl (fun h => h.prefLane)).ite h1).finish)
protected theorem maintain {i h act} (hact : ∀ {t x}, t.Canonical → (act t x).Canonical) (hs : s.Canonical) :
    CanonicalOutcome (maintain i h act s) :=
  hs.asUniform (fun h1 => h1.withRoom (hact h1).fresh.finish)
protected theorem execDwb {h f} (hs : s.Canonical) : CanonicalOutcome (execDwb h f s) :=
  hs.maintain (fun h1 => h1.foldl (fun h => h.writeBack))
protected theorem execDinv {h f} (hs : s.Canonical) : CanonicalOutcome (execDinv h f s) :=
  hs.maintain (fun h1 => (h1.foldl (fun h => h.flushLine)).foldl (fun h => h.dropLine))
protected theorem execIcinv {h f} (hs : s.Canonical) : CanonicalOutcome (execIcinv h f s) :=
  hs.asUniform (fun h1 => (h1.foldl (fun h => h.dropLine)).finish)
protected theorem execFetchb {h} (hs : s.Canonical) : CanonicalOutcome (execFetchb h s) := hs.asUniform (fun h => h.finish)

/-! ### Casks -/

protected theorem qputLane {g sp f} {m : CaskRun} {l} (hs : m.s.Canonical) : (qputLane g sp f m l).s.Canonical := by
  unfold qputLane
  split
  · exact hs
  · split
    · exact hs
    · exact hs.modCask
protected theorem qgetLane {g sp f} {m : CaskRun} {l} (hs : m.s.Canonical) : (qgetLane g sp f m l).s.Canonical := by
  unfold qgetLane
  split
  · exact hs
  · split
    · exact hs
    · split
      · exact hs
      · extract_lets _ s1
        have h1 : s1.Canonical := hs.modCask
        split
        · exact h1
        · exact (h1.applySig.ite h1.narrowAcquire).ite h1
protected theorem caskClose {g sp} {m : CaskRun} {park insn} (hs : m.s.Canonical) : (caskClose g sp m park insn).Canonical :=
  hs.fresh.settleFaults.modSplit.ite hs.fresh.settleFaults
protected theorem caskInstr {i h f lane park} (hlane : ∀ {g sp l m x}, m.s.Canonical → (lane g sp l m x).s.Canonical) (hs : s.Canonical) :
    CanonicalOutcome (caskInstr i h f lane park s) :=
  hs.asLanes (fun h1 => h1.holdAccess.ite (h1.withRoom (foldl_keeps (P := fun m : CaskRun => m.s.Canonical) h1 (fun h2 => hlane h2)).caskClose))
protected theorem execQput {h f} (hs : s.Canonical) : CanonicalOutcome (execQput h f s) := hs.caskInstr (fun h => h.qputLane)
protected theorem execQget {h f} (hs : s.Canonical) : CanonicalOutcome (execQget h f s) := hs.caskInstr (fun h => h.qgetLane)

/-! ### Synchronisation -/

protected theorem waitcDone {g sp path} (hs : s.Canonical) : (waitcDone s g sp path).Canonical := hs.applySig.finish.ite hs.finish
protected theorem execWaitc {h f} (hs : s.Canonical) : CanonicalOutcome (execWaitc h f s) :=
  hs.asUniform (fun h1 => h1.waitcDone.ite h1.parkAt)
protected theorem execBar {h f} (hs : s.Canonical) : CanonicalOutcome (execBar h f s) :=
  hs.asUniform (fun h1 => h1.holdIssue.ite h1.parkAt.barCheck)
protected theorem homeValue {core l n} (hs : s.Canonical) : (homeValue s core l n).1.Canonical := by
  unfold homeValue
  split
  · exact hs.flushLine
  · exact hs
protected theorem arriveAt {a o fence l n} (hs : s.Canonical) : (arriveAt s a o fence l n).1.Canonical := by
  unfold arriveAt
  extract_lets s1
  have h1 : s1.1.Canonical := hs.homeValue
  split
  · exact h1
  · exact h1.rmwAt
protected theorem arrivePlace {a o fence va n p} (hs : s.Canonical) : (arrivePlace s a o fence va n p).s.Canonical := by
  unfold arrivePlace
  split
  · exact hs
  · split
    · exact hs
    · exact hs.arriveAt
  · exact hs
protected theorem execArrive {h f} (hs : s.Canonical) : CanonicalOutcome (execArrive h f s) :=
  hs.memInstrFor (fun h => h.rmwOrder) (fun h2 => h2.laneAccess (fun h => h.arrivePlace))
protected theorem waitphLane {g sp f l} (hs : s.Canonical) : (waitphLane s g sp f l).1.Canonical := by
  unfold waitphLane
  extract_lets
  split <;> rename_i heq
  · exact hs.place.of heq
  · split <;> exact hs.place.of heq
  · split <;> exact hs.place.of heq
protected theorem waitphLanes {g sp f ls} (hs : s.Canonical) : (waitphLanes s g sp f ls).s.Canonical := by
  unfold waitphLanes
  refine foldl_keeps (P := fun m : WaitphRun => m.s.Canonical) hs fun {m l} hm => ?_
  split <;> rename_i heq <;> exact hm.waitphLane.of heq
protected theorem phaseValue {a o x} (hs : s.Canonical) : (phaseValue s a o x).1.Canonical := by
  unfold phaseValue
  split
  · exact hs.lineLoad
  · exact hs
protected theorem phaseWords {a o ws} (hs : s.Canonical) : (phaseWords s a o ws).1.Canonical :=
  foldl_keeps (P := fun m : State × List (LaneLoc × ℕ) => m.1.Canonical) hs (fun h => h.phaseValue)
protected theorem phaseAcquire {g sp o ws} (hs : s.Canonical) : (phaseAcquire s g sp o ws).1.Canonical :=
  foldl_keeps (P := fun m : State × Split => m.1.Canonical) hs (fun h => h.readSide)
protected theorem waitphEnd {g sp o ws faults insn} (hs : s.Canonical) : (waitphEnd s g sp o ws faults insn).Canonical :=
  hs.phaseAcquire.settleFaults
protected theorem waitphSend {g sp o phase} {m : WaitphRun} {ws insn} (hs : s.Canonical) :
    (waitphSend s g sp o phase m ws insn).Canonical :=
  hs.stallAt.ite (hs.stallAt.ite hs.fresh.phaseAcquire.sendFrom.parkAt)
protected theorem execWaitph {h f} (hs : s.Canonical) : CanonicalOutcome (execWaitph h f s) := by
  refine hs.asLanes fun {s g sp ls} hs => .ite hs.holdAccess ?_
  extract_lets +onlyGivenNames _ m
  have hm : m.s.Canonical := hs.waitphLanes
  split
  · exact hs.parkPage
  · extract_lets r
    have hr : r.1.Canonical := hm.phaseWords
    exact hr.parkAt.ite (hr.waitphEnd.ite hr.waitphSend)
protected theorem relookLane {g sp} {m : Relook} {x} (hs : m.s.Canonical) : (relookLane g sp m x).s.Canonical := by
  unfold relookLane
  split
  · split <;> rename_i heq
    · exact hs.place.of heq
    · exact hs.place.of heq
    · split <;> exact hs.place.of heq
  · split <;> exact hs
protected theorem waitphAgain {g sp phase o ws faults insn again} (hs : s.Canonical) :
    (waitphAgain s g sp phase o ws faults insn again).Canonical := by
  unfold waitphAgain
  extract_lets s1 s2
  have h1 : s1.s.Canonical := foldl_keeps (P := fun m : Relook => m.s.Canonical) hs (fun h => h.relookLane)
  have h2 : s2.1.Canonical := h1.phaseWords
  exact h1.setGroup.ite (h2.parkAt.ite (h2.setGroup.ite h2.waitphEnd))
protected theorem claimAt {a o fence x} (hs : s.Canonical) : (claimAt s a o fence x).1.Canonical := by
  unfold claimAt
  extract_lets
  split
  · exact hs
  · split
    · exact hs
    · split
      · exact hs
      · split
        · exact hs
        · exact hs.rmwAt
protected theorem claimLanes {o dst xs} {m : ClaimRun} (hm : m.s.Canonical) : (claimLanes o dst xs m).s.Canonical := by
  induction xs generalizing m with
  | nil => exact hm
  | cons x xs ih =>
    unfold claimLanes
    split <;> rename_i heq
    · exact hm.claimAt.of heq
    · exact ih (hm.claimAt.of heq)
    · exact ih (hm.claimAt.of heq)
protected theorem rawaitGo {g sp o dst lanes faults insn} (hs : s.Canonical) : (rawaitGo s g sp o dst lanes faults insn).Canonical :=
  hs.claimLanes.fresh.settleFaults.ite hs.claimLanes.parkAt
protected theorem execRawait {h f} (hs : s.Canonical) : CanonicalOutcome (execRawait h f s) :=
  hs.asLanes (fun h1 => h1.holdAccess.ite (h1.stallAt.ite h1.rawaitGo))
protected theorem rrelPlace {a o fence va k p} (hs : s.Canonical) : (rrelPlace s a o fence va k p).s.Canonical := by
  unfold rrelPlace
  split
  · exact hs
  · extract_lets
    split
    · exact hs
    · split
      · exact hs
      · split
        · exact hs
        · exact hs.rmwAt
protected theorem execRrel {h f} (hs : s.Canonical) : CanonicalOutcome (execRrel h f s) :=
  hs.memInstr (fun h => h.inOrder) (fun h2 => h2.laneAccess (fun h => h.rrelPlace))

/-! ### The matrix unit -/

protected theorem accWrite {g off n v} (hs : s.Canonical) : (accWrite s g off n v).Canonical :=
  { hs with acc := memWriteNat_wf _ _ _ _ hs.acc }
protected theorem matPlace {c sp write addr n kind} (hs : s.Canonical) : (matPlace s c sp write addr n kind).1.Canonical := by
  unfold matPlace
  split <;> rename_i heq
  · exact hs.place.of heq
  · split <;> exact hs.place.of heq
protected theorem scaleCached {core va pa} (hs : s.Canonical) : (scaleCached s core va pa).1.Canonical := hs.fillLine
protected theorem scaleByte {c addr} (hs : s.Canonical) : (scaleByte s c addr).1.Canonical := by
  unfold scaleByte
  split <;> rename_i heq
  · exact hs.matPlace.of heq
  · have h1 := hs.matPlace.of heq
    split
    · exact h1
    · exact h1.scaleCached
  · have h2 := hs.matPlace.of heq
    extract_lets +onlyGivenNames _
    split
    · exact h2
    · extract_lets s3 s4
      have h3 : s3.1.Canonical := h2.scaleCached
      have h4 : s4.1.Canonical := by
        unfold s4
        split
        · exact h3
        · exact h3.scaleCached
      exact h4
  · exact (hs.matPlace.of heq).takeFree
protected theorem geometryScales {g c va p} (hs : s.Canonical) : (geometryScales s g c va p).1.Canonical := by
  unfold geometryScales
  extract_lets look
  have hl : ∀ e pa dec, (look e pa dec).1.Canonical := by
    intro e pa dec
    unfold look
    split
    · exact hs
    · extract_lets
      split <;> rename_i heq
      · exact hs.scaleByte.of heq
      · have h1 := hs.scaleByte.of heq
        split <;> rename_i heq
        · exact h1.scaleByte.of heq
        · exact h1.scaleByte.of heq
  split
  · exact hl _ _ _
  · exact hl _ _ _
  · split <;> exact hl _ _ _
  · exact hs
protected theorem checkOperand {g c write kind o m} (hs : m.s.Canonical) : (checkOperand g c write kind o m).s.Canonical := by
  unfold checkOperand
  refine foldl_keeps (P := fun m : Checked => m.s.Canonical) hs fun hm => foldl_keeps (P := fun m : Checked => m.s.Canonical) hm fun hm => ?_
  split
  · exact hm
  · split <;> rename_i heq
    · exact hm.matPlace.of heq
    · have h1 := hm.matPlace.of heq
      extract_lets r
      dsimp only [r]
      split
      · exact h1
      · exact h1.geometryScales
protected theorem checkBase {o} {m : Checked} (hs : m.s.Canonical) : (checkBase o m).s.Canonical := by
  unfold checkBase
  split
  · exact hs
  · split <;> exact hs
protected theorem fetchBytes {a sp addr n} (hs : s.Canonical) : (fetchBytes s a sp addr n).1.Canonical := by
  unfold fetchBytes
  split <;> rename_i heq
  · exact hs.place.of heq
  · exact (hs.place.of heq).loadPlace
protected theorem fetchElem {a o i j} (hs : s.Canonical) : (fetchElem s a o i j).1.Canonical := by
  unfold fetchElem
  extract_lets
  split <;> exact hs.fetchBytes
protected theorem fetchRow {a o i} {m : Fetched} (hs : m.s.Canonical) : (fetchRow a o i m).s.Canonical := by
  unfold fetchRow
  extract_lets s1
  have h1 : s1.1.Canonical := foldl_keeps (P := fun m : State × List (Option ℕ) × Option DWord => m.1.Canonical) hs (fun h => h.fetchElem)
  exact h1
protected theorem fetchOperand {a o} (hs : s.Canonical) : (fetchOperand s a o).s.Canonical :=
  foldl_keeps (P := fun m : Fetched => m.s.Canonical) hs (fun h => h.fetchRow)
protected theorem fetchScales {c rows cols addr} {m : Scales} (hs : m.s.Canonical) : (fetchScales c rows cols addr m).s.Canonical := by
  unfold fetchScales
  refine foldl_keeps (P := fun m : Scales => m.s.Canonical) hs fun {m i} hm => ?_
  refine foldl_keeps (P := fun q : Scales × List (Option Nat) => q.1.s.Canonical) hm fun {q j} hq => ?_
  split
  · exact hq
  · split <;> rename_i heq <;> exact hq.scaleByte.of heq
protected theorem budgetGate {g sp units k} (hs : s.Canonical) (hk : ∀ {t x}, t.Canonical → (k t x).Canonical) :
    (budgetGate s g sp units k).Canonical := by
  unfold budgetGate
  extract_lets
  split
  · exact hk hs
  · exact .ite (hk { hs with }) hs.stallAt
protected theorem mmaTile {g c off rm sat neg x} (hs : s.Canonical) : (mmaTile s g c off rm sat neg x).Canonical :=
  hs.foldl (fun h1 => h1.foldl (fun h => h.accWrite))
protected theorem matDone {g sp} (hs : s.Canonical) : (matDone s g sp).Canonical := hs.fresh.finish
protected theorem mmaGo {g f c explicit sc sp} (hs : s.Canonical) : (mmaGo g f c explicit sc s sp).Canonical := by
  unfold mmaGo
  extract_lets _ ra rb _ s1
  have ha : ra.s.Canonical := hs.fetchOperand
  have hb : rb.s.Canonical := ha.fetchOperand
  have h1 : s1.Canonical := hb.mmaTile
  exact h1.matDone
protected theorem mmaBody {i f explicit g sp} (hs : s.Canonical) : (mmaBody i f explicit s g sp).Canonical := by
  unfold mmaBody
  extract_lets +onlyGivenNames _ _
  refine .ite hs.raise ?_
  split
  · exact hs.raise
  · extract_lets +onlyGivenNames ma mb
    have ha : ma.s.Canonical := hs.checkBase.checkOperand
    have hb : mb.s.Canonical := ha.checkBase.checkOperand
    split
    · exact hb.raise
    · extract_lets _ sa sb
      have hsa : sa.s.Canonical := hb.fetchScales
      have hsb : sb.s.Canonical := State.Canonical.fetchScales (m := { s := sa.s, cause := sa.cause }) hsa
      split
      · exact hsb.raise
      · exact hsb.budgetGate fun h => h.mmaGo
protected theorem execMma {h f} (hs : s.Canonical) : CanonicalOutcome (execMma h f s) := hs.asUniform (fun h1 => h1.withRoom h1.mmaBody)
protected theorem execMmas {h f} (hs : s.Canonical) : CanonicalOutcome (execMmas h f s) := hs.asUniform (fun h1 => h1.withRoom h1.mmaBody)
protected theorem execAclr {h f} (hs : s.Canonical) : CanonicalOutcome (execAclr h f s) := by
  refine hs.asUniform fun {s g sp} hs => hs.withRoom (.ite hs.raise ?_)
  split
  · exact hs.raise
  · exact .matDone { hs with acc := memClear_wf _ _ _ hs.acc }
protected theorem execAld {h f} (hs : s.Canonical) : CanonicalOutcome (execAld h f s) := by
  refine hs.memInstr (fun h => h) fun {s g sp l} hs => ?_
  extract_lets
  split <;> exact hs
protected theorem execAst {h f} (hs : s.Canonical) : CanonicalOutcome (execAst h f s) := by
  refine hs.memInstr (fun h => h) fun {s g sp l} hs => ?_
  extract_lets
  split
  · exact hs
  · exact hs.accWrite
protected theorem astsChecks {g ctx f c} (hs : s.Canonical) : (astsChecks s g ctx f c).s.Canonical := by
  unfold astsChecks
  refine foldl_keeps (P := fun m : Checked => m.s.Canonical) hs fun {m q} hm => ?_
  split
  · exact hm
  · split <;> rename_i heq <;> exact hm.matPlace.of heq
protected theorem matStore {a sp addr n v} (hs : s.Canonical) : (matStore s a sp addr n v).Canonical := by
  unfold matStore
  split <;> rename_i heq
  · exact hs.place.of heq
  · exact (hs.place.of heq).storePlace
protected theorem astsStores {g a f c} (hs : s.Canonical) : (astsStores s g a f c).Canonical := hs.foldl (fun h => h.matStore)
protected theorem execAsts {h f} (hs : s.Canonical) : CanonicalOutcome (execAsts h f s) := by
  refine hs.asUniform fun {s g sp} hs => hs.withRoom (.ite hs.raise ?_)
  split
  · exact hs.raise
  · extract_lets m
    have hm : m.s.Canonical := hs.astsChecks
    split
    · exact hm.raise
    · exact hm.astsStores.matDone
protected theorem xqtWork {g off c v} (hs : s.Canonical) : (xqtWork s g off c v).Canonical :=
  hs.foldl (fun h1 => h1.foldl (fun h => h.accWrite))
protected theorem takeMasks (hs : s.Canonical) : (takeMasks s).1.Canonical := by
  unfold takeMasks
  extract_lets s1 s2 s3 s4
  have h1 : s1.2.Canonical := hs.takeFree
  have h2 : s2.2.Canonical := h1.takeFree
  have h3 : s3.2.Canonical := h2.takeFree
  have h4 : s4.2.Canonical := h3.takeFree
  exact h4
protected theorem xqtTile {g a f c} (hs : s.Canonical) : (xqtTile s g a f c).1.Canonical := by
  unfold xqtTile
  extract_lets _ s1 s2
  have h1 : s1.s.Canonical := hs.fetchOperand
  have h2 : s2.s.Canonical := h1.fetchScales
  exact h2
protected theorem xqtStoreRow {g a f c open_ t k} (hs : s.Canonical) : (xqtStoreRow s g a f c open_ t k).Canonical := by
  unfold xqtStoreRow
  extract_lets _ now value s1
  have hnow : now.1.Canonical := by
    unfold now
    split
    · exact hs.xqtTile
    · exact hs
  have hvalue : ∀ {s}, s.Canonical → (value s).1.Canonical := by
    intro s hs
    unfold value
    split
    · exact hs.takeMasks
    · exact hs
  have h1 : s1.Canonical := hnow.foldl fun h => (hvalue h).matStore
  exact h1.foldl fun h => (hvalue h).matStore
protected theorem xqtGo {g f c open_} {sc : Scales} {sp} (hs : s.Canonical) : (xqtGo g f c open_ sc s sp).Canonical :=
  (hs.fetchOperand.xqtWork.foldl (fun h => h.xqtStoreRow)).matDone
protected theorem checkScaleStores {ctx g o} {m : Checked} (hs : m.s.Canonical) : (checkScaleStores ctx g o m).s.Canonical := by
  unfold checkScaleStores
  refine foldl_keeps (P := fun m : Checked => m.s.Canonical) hs fun hm => foldl_keeps (P := fun m : Checked => m.s.Canonical) hm fun hm => ?_
  split
  · exact hm
  · split <;> rename_i heq <;> exact hm.matPlace.of heq
protected theorem xqtBody {i f g sp} (hs : s.Canonical) : (xqtBody i f s g sp).Canonical := by
  unfold xqtBody
  extract_lets +onlyGivenNames _ _ _ _
  split
  · exact hs.raise
  · split
    · exact hs.raise
    · extract_lets s1 s2 s3
      have h1 : s1.s.Canonical := hs.checkBase.checkOperand
      have h2 : s2.s.Canonical := h1.fetchScales
      have h3 : s3.s.Canonical := h2.checkBase.checkOperand.checkScaleStores
      split
      · exact h3.raise
      · exact h3.budgetGate (fun h => h.xqtGo)
protected theorem execXqt {h f} (hs : s.Canonical) : CanonicalOutcome (execXqt h f s) := hs.asUniform (fun h1 => h1.withRoom h1.xqtBody)

/-! ### Accesses of a command processor -/

protected theorem vcpRequest {w addr pa e op order scope} (hs : s.Canonical) : (vcpRequest s w addr pa e op order scope).Canonical := by
  unfold vcpRequest
  split
  · exact hs
  · exact hs.fresh.sendFrom
protected theorem vcpRead {w addr n scope} (hs : s.Canonical) : (vcpRead s w addr n scope).Canonical := by
  unfold vcpRead
  split <;> rename_i heq
  · exact hs.globalCheck.of heq
  · exact (hs.globalCheck.of heq).vcpRequest
  · have h1 := hs.globalCheck.of heq
    extract_lets s2
    have h2 : s2.s.Canonical := h1.loadPlace
    split <;> exact h2
protected theorem vcpWrite {w op addr v sig scope} (hs : s.Canonical) : (vcpWrite s w op addr v sig scope).Canonical := by
  unfold vcpWrite
  split <;> rename_i heq
  · exact hs.globalCheck.of heq
  · have h1 := hs.globalCheck.of heq
    split
    · exact h1
    · extract_lets s2
      have h2 : s2.Canonical := h1.softWrite.touch
      split
      · exact h2.shootdown.deposit
      · exact h2.endSequence
  · exact (hs.globalCheck.of heq).vcpRequest
  · have h1 := hs.globalCheck.of heq
    split
    · exact h1
    · split <;> rename_i heq <;> exact h1.storePlace.of heq
protected theorem vcpQuads {part addr n} (hs : s.Canonical) : (vcpQuads s part addr n).1.Canonical := by
  induction n generalizing s addr with
  | zero => exact hs
  | succ n ih =>
    unfold vcpQuads
    split <;> rename_i heq
    · exact hs.vcpRead.of heq
    · exact hs
    · have h1 := hs.vcpRead.of heq
      split <;> rename_i heq <;> exact (ih h1).of heq
protected theorem completePacket {r code} (hs : s.Canonical) : (completePacket s r code).Canonical := hs.modPacket
protected theorem packetAccess {r} {e : VcpEnd} (he : e.Canonical) : (packetAccess r e).Canonical := by
  cases e with
  | done s v => exact State.Canonical.completePacket (s := s) he
  | fault s => exact State.Canonical.completePacket (s := s) he
  | away s => exact State.Canonical.modPacket (s := s) he

/-! ### Tuns -/

protected theorem instByte {a addr} (hs : s.Canonical) : (instByte s a addr).1.Canonical := by
  unfold instByte
  split <;> rename_i heq
  · exact (hs.globalCheck.of heq).writeBack.loadPlace
  · have h1 := hs.globalCheck.of heq
    extract_lets s2 s3
    have h2 : s2.Canonical := h1.writeBack.writeBack
    have h3 : s3.s.Canonical := h2.loadPlace
    exact h3
  · exact hs.globalCheck.of heq
protected theorem instBytes {a addr n m} (hs : m.s.Canonical) : (instBytes a addr n m).1.s.Canonical := by
  unfold instBytes
  refine foldl_keeps (P := fun q : InstRead × Nat => q.1.s.Canonical) hs fun {q i} hq => ?_
  split
  · exact hq
  · split <;> rename_i heq <;> exact hq.instByte.of heq
protected theorem instMany {a addr count stride n} {m : InstRead} (hs : m.s.Canonical) :
    (instMany a addr count stride n m).1.s.Canonical :=
  foldl_keeps (P := fun m : InstRead × List ℕ => m.1.s.Canonical) hs (fun h => h.instBytes)
protected theorem windowFrames {c va n ptype num} (hs : s.Canonical) : (windowFrames s c va n ptype num).1.Canonical := by
  unfold windowFrames
  refine foldl_keeps (P := fun q : State × Option (List Nat × Nat) => q.1.Canonical) hs fun {q i} hq => ?_
  split
  · exact hq
  · split
    · exact hq
    · split <;> rename_i heq
      · exact hq.translate.of heq
      · have h1 := hq.translate.of heq
        extract_lets
        split <;> exact h1
protected theorem tunopEnd {p num status} (hs : s.Canonical) : (tunopEnd s p num status).Canonical := by
  unfold tunopEnd
  split
  · split
    · exact State.Canonical.packetAccess hs.vcpWrite
    · exact hs
  · exact hs
protected theorem installEnd {w num status addr} (hs : s.Canonical) : (installEnd s w num status addr).Canonical := hs.modGroup.tunopEnd
protected theorem installStart {w da} (hs : s.Canonical) : (installStart s w da).Canonical := by
  unfold installStart
  extract_lets +onlyGivenNames _ s1
  have h1 : s1.1.s.Canonical := hs.instMany
  clear_value s1
  split
  · exact h1.installEnd
  · extract_lets +onlyGivenNames _
    refine .ite h1.installEnd ?_
    extract_lets +onlyGivenNames _ _
    split <;> rename_i heq
    · exact (h1.windowFrames.of heq).installEnd
    · have h2 := h1.windowFrames.of heq
      extract_lets
      split <;> rename_i heq
      · exact (h2.windowFrames.of heq).installEnd
      · have h3 := h2.windowFrames.of heq
        split <;> rename_i heq
        · exact (h3.windowFrames.of heq).installEnd
        · have h4 := h3.windowFrames.of heq
          extract_lets _ s2
          have h5 : s2.Canonical := h4.modGroup
          exact h4.installEnd.ite (h4.installEnd.ite (h4.installEnd.ite { h5 with }))
protected theorem clearDraws {t} (hs : s.Canonical) : (clearDraws s t).Canonical := hs.drawWrite
protected theorem installFinish {t} (hs : s.Canonical) : (installFinish s t).Canonical := by
  unfold installFinish
  extract_lets _ _ _ s1 s2 s3
  have h1 : s1.1.s.Canonical := hs.instMany
  have h2 : s2.1.s.Canonical := by
    unfold s2
    split
    · exact h1.instMany
    · exact h1
  have h3 : s3.1.s.Canonical := by
    unfold s3
    split
    · exact h2
    · exact h2.instMany
  clear_value s1 s2 s3
  split
  · exact .installEnd { h3 with }
  · exact h3.modTun.clearDraws.modTun.installEnd
protected theorem execTinst {h f} (hs : s.Canonical) : CanonicalOutcome (execTinst h f s) :=
  hs.asUniform (fun h1 => h1.raise.ite (h1.raise.ite (h1.withRoom h1.fresh.finish.installStart)))
protected theorem modDraw {op f} (hs : s.Canonical) : (State.modDraw s op f).Canonical := { hs with }
protected theorem addWrites {group slot op ws} (hs : s.Canonical) : (addWrites s group slot op ws).Canonical := hs.modSplit
protected theorem drawPlace {c addr n l last cons} (hs : s.Canonical) : (drawPlace s c addr n l last cons).1.Canonical := by
  unfold drawPlace
  extract_lets
  split <;> rename_i heq
  · exact hs.globalCheck.of heq
  · have h1 := hs.globalCheck.of heq
    split
    · exact h1
    · split <;> exact h1
  · have h2 := hs.globalCheck.of heq
    split
    · exact h2
    · split <;> exact h2
  · exact hs.globalCheck.of heq
  · exact hs.globalCheck.of heq
protected theorem drawLanes {c n last cons ls} (hs : s.Canonical) : (drawLanes s c n last cons ls).s.Canonical := by
  unfold drawLanes
  refine foldl_keeps (P := fun m : DrawRun => m.s.Canonical) hs fun {m l} hm => ?_
  split <;> rename_i heq <;> exact hm.drawPlace.of heq
protected theorem drawAway {g d id pc mask ty ls} (hs : s.Canonical) : (drawAway s g d id pc mask ty ls).Canonical := hs.sendFrom
protected theorem drawMoved {g sp op} {m : DrawRun} {keep} (hs : s.Canonical) : (drawMoved s g sp op m keep).Canonical := by
  unfold drawMoved
  extract_lets s1
  have h1 : s1.Canonical := hs.modDraw
  split
  · exact h1.ite h1.fresh.modGroup.drawAway
  · exact h1
protected theorem serveSlot {op num slot force} (hs : s.Canonical) : (serveSlot s op num slot force).Canonical := by
  unfold serveSlot
  split
  · extract_lets +onlyGivenNames _ _ _
    split
    · exact hs
    · split
      · exact hs
      · extract_lets _ s1 _ _ _ _ s2 s3 s4 s5
        have h1 : s1.s.Canonical := hs.drawLanes
        have h2 : s2.Canonical := h1.putSlot.ite h1
        have h3 : s3.Canonical := h2.addWrites.modDraw
        have h4 : s4.Canonical := h3.drawMoved
        have h5 : s5.1.Canonical := h4.drawSide
        exact h5.modSplit
  · exact hs.modDraw
  · exact hs
protected theorem drawSettle {op} (hs : s.Canonical) : (drawSettle s op).Canonical := by
  unfold drawSettle
  split
  · exact hs
  · split
    · exact hs
    · extract_lets _ s1
      have h1 : s1.Canonical := { hs with }
      split
      · exact h1
      · exact h1.settleFaults.landSaved
protected theorem drawTry {op} (hs : s.Canonical) : (drawTry s op).Canonical := by
  unfold drawTry
  split
  · exact hs
  · exact hs.ite (hs.foldl (fun h => h.serveSlot)).drawSettle
protected theorem drawsOf {num} (hs : s.Canonical) : (drawsOf s num).Canonical := hs.foldl (fun h => h.drawTry)
protected theorem tdrawStart {g sp f n} {m : DrawRun} {insn} (hs : m.s.Canonical) : (tdrawStart g sp f n m insn).Canonical :=
  .drawTry (.parkAt (.ite { hs.fresh with } (.drawAway { hs.fresh with })))
protected theorem execTdraw {h f} (hs : s.Canonical) : CanonicalOutcome (execTdraw h f s) := by
  refine hs.asLanes fun {s g sp ls} hs => .ite hs.holdAccess (hs.withRoom ?_)
  extract_lets _ m
  have hm : m.s.Canonical := hs.drawLanes
  split
  · exact hs.parkPage
  · exact hm.settleFaults.ite (hs.stallAt.ite (hs.stallAt.ite hm.tdrawStart))
protected theorem endFires {t} (hs : s.Canonical) : (endFires s t).Canonical := by
  refine hs.foldl fun h => ?_
  split
  · exact h.endFire
  · exact h
protected theorem failDraws {num} (hs : s.Canonical) : (failDraws s num).Canonical :=
  hs.foldl (fun h1 => (h1.foldl (fun h => h.serveSlot)).drawTry)
protected theorem freeTun {t} (hs : s.Canonical) : (freeTun s t).Canonical := by
  unfold freeTun
  extract_lets s1 s2
  have h1 : s1.Canonical := hs.installFinish.ite hs
  have h2 : s2.Canonical := by
    unfold s2
    split
    · exact h1.endFires.drawsOf
    · exact h1
  clear_value s1 s2
  exact .failDraws { h2 with }
protected theorem execTfree {h f} (hs : s.Canonical) : CanonicalOutcome (execTfree h f s) := by
  refine hs.asUniform fun {s g sp} hs => .ite hs.raise (hs.withRoom ?_)
  extract_lets _ s1
  have h1 : s1.Canonical := hs.fresh.finish
  split
  · exact h1.freeTun.ite h1
  · exact h1
protected theorem execTstat {h f} (hs : s.Canonical) : CanonicalOutcome (execTstat h f s) :=
  hs.asUniform (fun h1 => h1.withRoom h1.fresh.finish)
protected theorem execInstallCompletion {tun} (hs : s.Canonical) : CanonicalOutcome (execInstallCompletion tun s) := by
  unfold execInstallCompletion
  refine .next ?_
  split
  · exact hs.installFinish.drawsOf.ite hs
  · exact hs
protected theorem execTunFire {tun slot} (hs : s.Canonical) : CanonicalOutcome (execTunFire tun slot s) := by
  unfold execTunFire
  refine .next ?_
  split
  · split
    · exact hs.endFire.drawsOf.ite hs
    · exact hs
  · exact hs
protected theorem execFillTimeout {tun slot} (hs : s.Canonical) : CanonicalOutcome (execFillTimeout tun slot s) := by
  unfold execFillTimeout
  refine .next ?_
  split
  · split
    · exact hs.abandonFill.ite hs
    · exact hs
  · exact hs
protected theorem execTdrawServe {sp slot} (hs : s.Canonical) : CanonicalOutcome (execTdrawServe sp slot s) := by
  unfold execTdrawServe
  refine .next ?_
  split
  · exact hs.ite (hs.foldl (fun h => h.serveSlot)).drawSettle
  · exact hs
protected theorem execTdrawTimeout {sp} (hs : s.Canonical) : CanonicalOutcome (execTdrawTimeout sp s) := by
  unfold execTdrawTimeout
  refine .next ?_
  split
  · exact hs.drawTry.ite hs
  · exact hs

/-! ### Engines -/

protected theorem setHead {r p} (hs : s.Canonical) : (State.setHead s r p).Canonical := hs.setEngine
protected theorem progNext {r p} (hs : s.Canonical) : (progNext s r p).Canonical := hs.setHead
protected theorem finishProgram {r p st code} (hs : s.Canonical) : (finishProgram s r p st code).Canonical := by
  unfold finishProgram
  extract_lets _ _ s1 s2 s3
  have h1 : s1.Canonical := hs.setEngine
  have h2 : s2.Canonical := { h1 with }
  have h3 : s3.Canonical := h2.modGroup
  split
  · exact h3.completePacket
  · exact h3
protected theorem endProgram {r p st code} (hs : s.Canonical) : (endProgram s r p st code).Canonical := hs.finishProgram.ite hs.setHead
protected theorem endingAgain {r} (hs : s.Canonical) : (endingAgain s r).Canonical := by
  unfold endingAgain
  split
  · split
    · exact hs.endProgram
    · exact hs
  · exact hs
protected theorem engineQuads {r p addr vs} (hs : s.Canonical) : (engineQuads r p addr vs s).1.Canonical := by
  induction vs generalizing s addr with
  | nil => exact hs
  | cons v vs ih =>
    unfold engineQuads
    split <;> rename_i heq
    · exact ih (hs.globalCheck.of heq).throughStore.endSequence
    · exact hs.globalCheck.of heq
    · exact hs.globalCheck.of heq
protected theorem raiseLx {r p c} (hs : s.Canonical) : (raiseLx s r p c).Canonical := by
  unfold raiseLx
  split
  · exact hs.modGroup
  · exact hs.postEvent
protected theorem faultProgram {r p0 f c} (hs : s.Canonical) : (faultProgram s r p0 f c).Canonical := by
  unfold faultProgram
  extract_lets
  split
  · exact hs.setHead.pfRecord
  · split <;> rename_i heq
    · exact (hs.engineQuads.of heq).pfRecord.endProgram
    · have h1 := hs.engineQuads.of heq
      split <;> rename_i heq
      · exact (h1.engineQuads.of heq).pfRecord.endProgram
      · exact (h1.engineQuads.of heq).setHead.raiseLx
protected theorem acceptProgram {r p} (hs : s.Canonical) : (acceptProgram s r p).Canonical := hs.setEngine
protected theorem execLxstart {h f} (hs : s.Canonical) : CanonicalOutcome (execLxstart h f s) :=
  hs.asUniform (fun h1 => h1.raise.ite (h1.raise.ite (h1.withRoom (h1.stallAt.ite h1.fresh.acceptProgram.finish))))
protected theorem execLxstat {h f} (hs : s.Canonical) : CanonicalOutcome (execLxstat h f s) :=
  hs.asUniform (fun h1 => h1.withRoom h1.finishLater)
protected theorem dropFault {r p} (hs : s.Canonical) : (dropFault s r p).Canonical := hs.modGroup
protected theorem lxKill {team h} (hs : s.Canonical) : (lxKill s team h).Canonical := by
  unfold lxKill
  split
  · exact hs
  · split
    · exact hs
    · split
      · exact hs
      · split
        · exact hs.finishProgram
        · exact hs.dropFault.endProgram
        · exact hs
        · exact hs.endProgram
protected theorem execLxkill {h f} (hs : s.Canonical) : CanonicalOutcome (execLxkill h f s) := hs.asUniform (fun h => h.finish.lxKill)
protected theorem asProgram {i f body} (hbody : ∀ {t x y}, t.Canonical → (body t x y).Canonical) (hs : s.Canonical) :
    CanonicalOutcome (asProgram i f body s) := by
  unfold asProgram
  split
  · exact .fault
  · exact .next ((hbody hs).ite hs.faultProgram)
protected theorem issueEngine {r} (hs : s.Canonical) : (issueEngine s r).1.Canonical := by
  unfold issueEngine
  split
  · exact hs
  · split
    · exact hs.endingAgain
    · split <;> rename_i heq
      · have h1 := hs.globalCheck.of heq
        dsimp only
        exact h1.faultProgram
      · have h1 := hs.globalCheck.of heq
        split
        · dsimp only
          exact h1.faultProgram
        · extract_lets
          split
          · exact { h1 with }
          · dsimp only
            exact h1.faultProgram
      · have h1 := (hs.globalCheck.of heq).takeFree
        split
        · exact { h1 with }
        · dsimp only
          exact h1.faultProgram
      · have h1 := hs.globalCheck.of heq
        dsimp only
        exact h1.faultProgram
protected theorem execLauterProgramStart {eng} (hs : s.Canonical) : CanonicalOutcome (execLauterProgramStart eng s) := by
  unfold execLauterProgramStart
  refine .next ?_
  split
  · exact hs.narrowAcquire.setHead.ite hs
  · exact hs
protected theorem disposition {r p} (hs : s.Canonical) : (disposition s r p).1.Canonical := by
  unfold disposition
  split <;> rename_i heq
  · exact (hs.globalCheck.of heq).flushLine.applySig
  · exact hs.globalCheck.of heq
protected theorem onDisposition {r act k} (hs : s.Canonical) (hk : ∀ {t x}, t.Canonical → (k t x).Canonical) :
    (onDisposition s r act k).Canonical := by
  unfold onDisposition
  split
  · split
    · exact hs.ite ((hk hs.disposition).ite hs.disposition)
    · exact hs
  · exact hs
protected theorem resumeProgram {r p} (hs : s.Canonical) : (resumeProgram s r p).Canonical := hs.setHead
protected theorem execFaultResume {eng} (hs : s.Canonical) : CanonicalOutcome (execFaultResume eng s) :=
  .next (hs.onDisposition (fun h => h.resumeProgram))
protected theorem execFaultAbort {eng} (hs : s.Canonical) : CanonicalOutcome (execFaultAbort eng s) :=
  .next (hs.onDisposition (fun h => h.endProgram))
protected theorem boundAway {p} (hs : s.Canonical) : (boundAway p s).1.Canonical := by
  unfold boundAway
  refine foldl_keeps (P := fun q : State × List RemoteLane => q.1.Canonical) hs fun {q b} hq => ?_
  split <;> rename_i heq
  · split <;> exact hq.place.of heq
  · exact hq.place.of heq
protected theorem poisonBound {p b} (hs : s.Canonical) : (poisonBound p s b).Canonical := by
  unfold poisonBound
  extract_lets
  split <;> rename_i heq
  · exact hs.place.of heq
  · have h1 := hs.place.of heq
    split
    · exact h1.ite h1.rmwAt
    · exact h1
protected theorem abortAndPoison {r p} (hs : s.Canonical) : (abortAndPoison s r p).Canonical := by
  unfold abortAndPoison
  extract_lets +onlyGivenNames s1
  have h1 : s1.1.Canonical := hs.boundAway
  split
  · exact h1
  · extract_lets s2
    have h2 : s2.Canonical := h1.foldl (fun h => h.poisonBound)
    exact h2.endProgram.ite h2.fresh.sendFrom.endProgram
protected theorem execFaultAbortAndPoison {eng} (hs : s.Canonical) : CanonicalOutcome (execFaultAbortAndPoison eng s) :=
  .next (hs.onDisposition (fun h => h.abortAndPoison))

/-! ### Packets -/

protected theorem modVq {r f} (hs : s.Canonical) : (State.modVq s r f).Canonical := hs.modPart
protected theorem setQ {r i v sig} (hs : s.Canonical) : (setQ s r i v sig).Canonical := by
  unfold setQ
  extract_lets s1
  have h1 : s1.Canonical := hs.modPart fun _ => wf_setDevReg
  split
  · exact h1.deposit
  · exact h1.endSequence
protected theorem setQState {r st} (hs : s.Canonical) : (setQState s r st).Canonical := hs.modPart fun _ => wf_setDevReg
protected theorem queueFault {r code seq} (hs : s.Canonical) : (queueFault s r code seq).Canonical := by
  unfold queueFault
  extract_lets s1 s2 s3
  have h1 : s1.Canonical := hs.modPart fun _ => wf_setDevReg
  have h2 : s2.Canonical := h1.modVq
  clear_value s2
  have h3 : s3.Canonical := { h2 with }
  exact h3.postEvent
protected theorem queueIdle {r} (hs : s.Canonical) : (queueIdle s r).Canonical := hs.ite (hs.setQState.ite hs.setQState)
protected theorem readBlock {r} (hs : s.Canonical) : (readBlock s r).Canonical := by
  unfold readBlock
  exact hs.modVq
protected theorem kickNow {r} (hs : s.Canonical) : (kickNow s r).Canonical :=
  hs.readBlock.ite (hs.readBlock.queueIdle.ite hs.readBlock.queueFault)
protected theorem execKick {q} (hs : s.Canonical) : CanonicalOutcome (execKick q s) := .next (hs.ite (hs.modVq.ite hs.kickNow))
protected theorem resumeQueue {r} (hs : s.Canonical) : (resumeQueue s r).Canonical :=
  hs.setQState.readBlock.ite hs.setQState.readBlock.queueFault
protected theorem restartNow {q} (hs : s.Canonical) : (restartNow s q).Canonical := hs.resumeQueue.ite hs
protected theorem recordOp {q op} (hs : s.Canonical) : (recordOp s q op).Canonical := hs.modVq
protected theorem execRestart {q} (hs : s.Canonical) :
    CanonicalOutcome (execRestart q s) := .next (hs.ite (hs.recordOp.ite hs.restartNow))
protected theorem addPacket {ref ws ctx st code} (hs : s.Canonical) : (addPacket s ref ws ctx st code).Canonical := { hs with }
protected theorem remoteWaiter {part registers} (hs : s.Canonical) : (remoteWaiter s part registers).Canonical := hs.modPart
protected theorem onStart {r type f} (hs : s.Canonical) (hf : ∀ {x}, (f x).Canonical) : (onStart s r type f).Canonical := by
  unfold onStart
  split
  · exact hf.ite hs
  · exact hs
protected theorem readNodes {part addr n} (hs : s.Canonical) : (readNodes s part addr n).1.Canonical := by
  induction n generalizing s addr with
  | zero => exact hs
  | succ n ih =>
    unfold readNodes
    split <;> rename_i heq
    · exact hs.vcpQuads.of heq
    · have h1 := hs.vcpQuads.of heq
      split <;> rename_i heq <;> exact (ih h1).of heq
protected theorem readGraph {part queue ws} (hs : s.Canonical) : (readGraph s part queue ws).1.Canonical := by
  unfold readGraph
  extract_lets +onlyGivenNames _
  split <;> rename_i heq
  · exact hs.vcpQuads.of heq
  · have h1 := hs.vcpQuads.of heq
    extract_lets +onlyGivenNames _ _
    split
    · exact h1
    · extract_lets +onlyGivenNames s2 s3 s4 s5
      have h2 : s2.1.Canonical := h1.readNodes
      have h3 : s3.1.Canonical := h2.vcpQuads
      have h4 : s4.1.Canonical := h3.vcpQuads
      have h5 : s5.Canonical := h4
      split
      · extract_lets
        split
        · exact h5
        · split <;> exact h5
      · exact h5
protected theorem readMembers {r i n} (hs : s.Canonical) : (readMembers s r i n).1.Canonical := by
  induction n generalizing s i with
  | zero => exact hs
  | succ n ih =>
    unfold readMembers
    extract_lets
    split <;> rename_i heq
    · exact hs.vcpLoad.of heq
    · have h1 := hs.vcpLoad.of heq
      split
      · exact h1
      · split
        · exact h1
        · split <;> rename_i heq
          · exact h1.vcpQuads.of heq
          · have h2 := h1.vcpQuads.of heq
            split
            · exact h2
            · split <;> rename_i heq <;> exact (ih h2).of heq
protected theorem noteEarly {r} (hs : s.Canonical) : (noteEarly s r).Canonical := hs.modVq
protected theorem noteMember {r i} (hs : s.Canonical) : (noteMember s r i).Canonical := hs.modVq
protected theorem advance {r i past} (hs : s.Canonical) : (advance s r i past).Canonical := hs.setQ.modVq
protected theorem commitPacket {r i k emits members past dropped} (hs : s.Canonical) :
    (commitPacket s r i k emits members past dropped).Canonical := by
  unfold commitPacket
  extract_lets _ s1 s2 s3 s4 s5
  have h1 : s1.Canonical := hs.foldl (fun h => h.addPacket)
  have h2 : s2.Canonical := h1.addPacket
  have h3 : s3.Canonical := h2.modPacket
  have h4 : s4.Canonical := h3.foldl (fun h => h.addPacket)
  have h5 : s5.Canonical := h4.advance.modVq.queueIdle
  exact h5.post.ite h5
protected theorem acceptBundle {r i b} (hs : s.Canonical) : (acceptBundle s r i b).Canonical := by
  unfold acceptBundle
  extract_lets
  split
  · exact hs.modVq
  · split
    · exact hs.commitPacket
    · split <;> rename_i heq
      · exact (hs.readMembers.of heq).commitPacket
      · exact (hs.readMembers.of heq).queueFault
      · exact (hs.readMembers.of heq).modVq.noteMember
protected theorem acceptPacket {r i k emits dropped} (hs : s.Canonical) : (acceptPacket s r i k emits dropped).Canonical := by
  unfold acceptPacket
  extract_lets
  split
  · exact hs.queueFault
  · split
    · exact hs.acceptBundle
    · split
      · split <;> rename_i heq
        · exact (hs.readGraph.of heq).queueFault
        · exact (hs.readGraph.of heq).commitPacket
      · exact hs.commitPacket
protected theorem startRun {ref st second k count emits} (hs : s.Canonical) : (startRun s ref st second k count emits).Canonical :=
  { hs.fresh with }
protected theorem afterHook {r i k count emits} (hs : s.Canonical) : (afterHook s r i k count emits).Canonical := by
  unfold afterHook
  split
  · exact hs.acceptPacket
  · split
    · exact hs.queueFault
    · exact hs.startRun.modVq
protected theorem takePacket {r i ws} (hs : s.Canonical) : (takePacket s r i ws).Canonical := by
  unfold takePacket
  extract_lets _ s1
  have h1 : s1.Canonical := hs.modVq
  split
  · exact h1.afterHook
  · split
    · exact h1.queueFault
    · exact h1.startRun.modVq
protected theorem tryRead {r} (hs : s.Canonical) : (tryRead s r).Canonical := by
  unfold tryRead
  extract_lets
  split
  · exact hs.acceptBundle
  · split <;> rename_i heq
    · exact (hs.vcpLoad.of heq).queueFault
    · have h1 := hs.vcpLoad.of heq
      split
      · exact h1.noteEarly
      · split
        · exact h1.queueFault
        · split <;> rename_i heq
          · exact (h1.vcpQuads.of heq).queueFault
          · exact (h1.vcpQuads.of heq).takePacket
protected theorem execVcpPacketRead {q} (hs : s.Canonical) : CanonicalOutcome (execVcpPacketRead q s) := .next (hs.tryRead.ite hs)
protected theorem execPhaseReread {q} (hs : s.Canonical) : CanonicalOutcome (execPhaseReread q s) := .next (hs.tryRead.ite hs)
protected theorem execStalePacket {q} (hs : s.Canonical) : CanonicalOutcome (execStalePacket q s) :=
  .next ((hs.tryRead.queueFault.ite hs.tryRead).ite hs)
protected theorem skipHeader {r i} (hs : s.Canonical) : (skipHeader s r i).1.Canonical := by
  unfold skipHeader
  extract_lets
  split <;> rename_i heq
  · split <;> exact (hs.vcpLoad.of heq)
  · exact hs.vcpLoad.of heq
protected theorem skipNow {q} (hs : s.Canonical) : (skipNow s q).Canonical := hs.ite hs.skipHeader.addPacket.advance.resumeQueue
protected theorem execSkip {q} (hs : s.Canonical) : CanonicalOutcome (execSkip q s) := .next (hs.ite (hs.recordOp.ite hs.skipNow))
protected theorem noteError {r seq code} (hs : s.Canonical) : (noteError s r seq code).Canonical :=
  hs.ite (hs.modPart fun _ => wf_setDevReg)
protected theorem ownerCheck {o} (hs : s.Canonical) : (ownerCheck s o).Canonical := by
  unfold ownerCheck
  split
  · exact hs.completePacket.ite hs
  · exact hs
protected theorem completePart {k} (hs : s.Canonical) : (completePart s k).Canonical := hs.ite (.ownerCheck { hs.noteError with })
protected theorem noteComplete {k} (hs : s.Canonical) : (noteComplete s k).Canonical := hs.ite hs.noteError.modPacket
protected theorem passHead {k} (hs : s.Canonical) : (passHead s k).Canonical := hs.ite (.queueIdle { hs.setQ with })
protected theorem completeHead {k} (hs : s.Canonical) : (completeHead s k).Canonical := hs.ite hs.noteComplete.passHead
protected theorem execPacketCompletion {p} (hs : s.Canonical) : CanonicalOutcome (execPacketCompletion p s) := by
  unfold execPacketCompletion
  refine .next ?_
  split
  · exact hs.ite (hs.completeHead.ite hs.completePart)
  · exact hs

/-! ### Steeps -/

protected theorem setRun {x} (hs : s.Canonical) : (State.setRun s x).Canonical := hs.modRun
protected theorem dropRun {x} (hs : s.Canonical) : (dropRun s x).Canonical := { hs with }
protected theorem steepNext {x} (hs : s.Canonical) : (steepNext s x).Canonical := hs.setRun
protected theorem hookFault {x} (hs : s.Canonical) : (hookFault s x).Canonical :=
  hs.dropRun.queueFault.ite hs.dropRun.queueFault.completePacket
protected theorem steepAway {x} (hs : s.Canonical) : (steepAway s x).Canonical := hs.setRun
protected theorem steepRead {x f} (hs : s.Canonical) : (steepRead s x f).Canonical := by
  unfold steepRead
  split
  · exact hs
  · split
    · exact hs
    · exact hs.vcpRead
protected theorem steepWrite {x f op v} (hs : s.Canonical) : (steepWrite s x f op v).Canonical := by
  unfold steepWrite
  split
  · exact hs
  · split
    · exact hs
    · exact hs.vcpWrite
protected theorem onWindow {x} {e : VcpEnd} {k} (he : e.Canonical) (hk : ∀ {t x}, t.Canonical → (k t x).Canonical) :
    (onWindow x e k).Canonical := by
  cases e with
  | fault s => exact State.Canonical.hookFault (s := s) he
  | away s => exact State.Canonical.steepAway (s := s) he
  | done s v => exact hk he
protected theorem endNodeRun {x dropped} (hs : s.Canonical) : (endNodeRun s x dropped).Canonical := by
  unfold endNodeRun
  extract_lets _ s1
  have h1 : s1.Canonical := hs.dropRun.foldl fun h => h.addPacket
  exact h1.completePacket.ite (h1.completePacket.ite h1.modPacket)
protected theorem endRun {x dropped} (hs : s.Canonical) : (endRun s x dropped).Canonical :=
  hs.hookFault.ite (hs.endNodeRun.ite (hs.dropRun.afterHook.ite hs.dropRun.acceptPacket))
protected theorem asSteep {i body} (hbody : ∀ {t x}, t.Canonical → (body t x).Canonical) (hs : s.Canonical) :
    CanonicalOutcome (asSteep i body s) := by
  unfold asSteep
  split
  · exact .fault
  · exact .next (hs.hookFault.ite (hbody hs))
protected theorem issueSteep {id} (hs : s.Canonical) : (issueSteep s id).1.Canonical := by
  unfold issueSteep
  split
  · exact hs
  · split
    · exact hs
    · split
      · exact hs.hookFault
      · split
        · exact { hs with }
        · exact hs.hookFault
protected theorem steepAlu {i f op} (hs : s.Canonical) : CanonicalOutcome (steepAlu i f op s) := hs.asSteep (fun h => h.steepNext)
protected theorem execSteepLdi {f} (hs : s.Canonical) : CanonicalOutcome (execSteepLdi f s) := hs.asSteep (fun h => h.steepNext)
protected theorem execSteepLdpf {f} (hs : s.Canonical) : CanonicalOutcome (execSteepLdpf f s) := hs.asSteep (fun h => h.steepNext)
protected theorem execSteepStpf {f} (hs : s.Canonical) : CanonicalOutcome (execSteepStpf f s) := hs.asSteep (fun h => h.steepNext)
protected theorem execSteepLdw {f} (hs : s.Canonical) : CanonicalOutcome (execSteepLdw f s) :=
  hs.asSteep (fun h1 => State.Canonical.onWindow h1.steepRead (fun h => h.steepNext))
protected theorem execSteepStw {f} (hs : s.Canonical) : CanonicalOutcome (execSteepStw f s) :=
  hs.asSteep (fun h1 => State.Canonical.onWindow h1.steepWrite (fun h => h.steepNext))
protected theorem execSteepSignal {f} (hs : s.Canonical) : CanonicalOutcome (execSteepSignal f s) :=
  hs.asSteep (fun h1 => State.Canonical.onWindow h1.steepWrite (fun h => h.steepNext))
protected theorem execSteepBz {f} (hs : s.Canonical) : CanonicalOutcome (execSteepBz f s) := hs.asSteep (fun h => h.setRun)
protected theorem execSteepBnz {f} (hs : s.Canonical) : CanonicalOutcome (execSteepBnz f s) := hs.asSteep (fun h => h.setRun)
protected theorem execSteepLoop {f} (hs : s.Canonical) : CanonicalOutcome (execSteepLoop f s) := hs.asSteep (fun h => h.setRun)
protected theorem emitRead {x w a n bs} (hs : s.Canonical) : (emitRead s x w a n bs).1.Canonical := by
  induction n generalizing s bs with
  | zero => exact hs
  | succ n ih =>
    unfold emitRead
    split
    · exact hs
    · extract_lets
      split <;> rename_i heq
      · exact (hs.globalCheck.of heq).vcpRequest
      · have h1 := hs.globalCheck.of heq
        split <;> rename_i heq
        · exact ih (h1.vcpRead.of heq)
        · exact h1.vcpRead
protected theorem steepRead64 {x f} (hs : s.Canonical) : (steepRead64 s x f).1.Canonical := by
  unfold steepRead64
  split
  · exact hs
  · exact hs.emitRead
protected theorem execSteepEmit {f} (hs : s.Canonical) : CanonicalOutcome (execSteepEmit f s) := by
  refine hs.asSteep fun {s x} hs => .ite hs.hookFault ?_
  exact .onWindow hs.steepRead64 fun h => h.steepNext
protected theorem waitvLook {x f} (hs : s.Canonical) : (waitvLook s x f).Canonical := by
  unfold waitvLook
  extract_lets
  split <;> rename_i heq
  · exact (hs.steepRead.of heq).hookFault
  · exact (hs.steepRead.of heq).setRun
  · have h1 := hs.steepRead.of heq
    exact h1.steepNext.ite h1.setRun
protected theorem execSteepWaitv {f} (hs : s.Canonical) : CanonicalOutcome (execSteepWaitv f s) := hs.asSteep (fun h => h.waitvLook)
protected theorem execSteepDrop {f} (hs : s.Canonical) : CanonicalOutcome (execSteepDrop f s) := hs.asSteep (fun h => h.endRun)
protected theorem execSteepFaultq {f} (hs : s.Canonical) : CanonicalOutcome (execSteepFaultq f s) := hs.asSteep (fun h => h.hookFault)
protected theorem execSteepEnd {f} (hs : s.Canonical) : CanonicalOutcome (execSteepEnd f s) := hs.asSteep (fun h => h.endRun)
protected theorem onWaitv {run k} (hs : s.Canonical) (hk : ∀ {x y}, (k x y).Canonical) : (onWaitv s run k).Canonical := by
  unfold onWaitv
  split
  · exact hk.ite hs
  · exact hs
protected theorem execSteepWaitvReread {run} (hs : s.Canonical) : CanonicalOutcome (execSteepWaitvReread run s) :=
  .next (hs.onWaitv (hs.ite hs.waitvLook))
protected theorem execSteepWaitvTimeout {run} (hs : s.Canonical) : CanonicalOutcome (execSteepWaitvTimeout run s) :=
  .next (hs.onWaitv (.ite (.hookFault { hs with }) hs))
protected theorem readCode {part addr n} (hs : s.Canonical) : (readCode s part addr n).1.Canonical := by
  induction n generalizing s addr with
  | zero => exact hs
  | succ n ih =>
    unfold readCode
    split <;> rename_i heq
    · exact hs.vcpLoad.of heq
    · have h1 := hs.vcpLoad.of heq
      split <;> rename_i heq <;> exact (ih h1).of heq
protected theorem unloadSteep {part slot} (hs : s.Canonical) : (unloadSteep s part slot).Canonical := { hs with }
protected theorem installSteep {x type} (hs : s.Canonical) : (installSteep s x type).Canonical := .ite { hs with } { { hs with } with }
protected theorem loadSteep {req} (hs : s.Canonical) : (loadSteep s req).1.Canonical := by
  unfold loadSteep
  extract_lets +onlyGivenNames _ _ _ _ _ _ _ _
  split
  · exact hs
  · split
    · exact hs.unloadSteep
    · split <;> rename_i heq
      · exact hs.readCode.of heq
      · have h1 := hs.readCode.of heq
        extract_lets
        split
        · exact h1
        · split
          · exact h1
          · exact h1.installSteep
protected theorem execSteepreq {v} (hs : s.Canonical) : CanonicalOutcome (execSteepreq v s) := .next (.ite { hs with } hs)
protected theorem execSteepLoad (hs : s.Canonical) : CanonicalOutcome (execSteepLoad s) := by
  unfold execSteepLoad
  refine .next ?_
  split
  · exact hs
  · exact hs.ite (.ite { hs with } (.kilnStore (.loadSteep { hs with })))

/-! ### Placement of teams -/

protected theorem imageFault {part} (hs : s.Canonical) : (imageFault s part).Canonical := hs.pfRecord.post
protected theorem takeUnits {part n} (hs : s.Canonical) : (takeUnits s part n).1.Canonical := by
  induction n generalizing s with
  | zero => exact hs
  | succ n ih =>
    unfold takeUnits
    split
    · exact ih hs.takeUnit
    · exact hs
protected theorem takeSlots {r n} (hs : s.Canonical) : (takeSlots s r n).1.Canonical := hs.takeUnits.modGrid
protected theorem recallLine {line} (hs : s.Canonical) : (recallLine s line).Canonical := hs.foldl (fun h => h.flushLine)
protected theorem slicePlace {r addr write} (hs : s.Canonical) : (slicePlace s r addr write).1.Canonical := by
  unfold slicePlace
  split <;> rename_i heq
  · exact (hs.globalCheck.of heq).recallLine
  · exact hs.globalCheck.of heq
protected theorem sliceWrite {r addr n v bad} (hs : s.Canonical) : (sliceWrite s r addr n v bad).Canonical := by
  unfold sliceWrite
  split <;> rename_i heq
  · have h1 := hs.slicePlace.of heq
    extract_lets s2
    have h2 : s2.Canonical := h1.softWrite.coverPoison
    exact h2.setPoison.ite h2
  · exact hs.slicePlace.of heq
protected theorem sliceRead {r addr n} (hs : s.Canonical) : (sliceRead s r addr n).1.Canonical := by
  unfold sliceRead
  split <;> rename_i heq <;> exact hs.slicePlace.of heq
protected theorem sliceClear {r addr} (hs : s.Canonical) : (sliceClear s r addr).Canonical := hs.foldl (fun h => h.sliceWrite)
protected theorem clearSlices {r} (hs : s.Canonical) : (clearSlices s r).Canonical := hs.foldl (fun h => h.sliceClear)
protected theorem addGroup {g} (hs : s.Canonical) : (addGroup s g).Canonical := .storeHeader (.noteImage { hs with })
protected theorem taskAcquire {core paired a} (hs : s.Canonical) : (taskAcquire s core paired a).Canonical :=
  hs.applySig.ite hs.narrowAcquire
protected theorem startTeam {r teamid core units plans} (hs : s.Canonical) : (startTeam s r teamid core units plans).Canonical := by
  unfold startTeam
  extract_lets q _ _ s1
  have h1 : s1.Canonical := { hs.fresh with }
  refine h1.foldl fun h => ?_
  extract_lets _ s2 s3
  have h2 : s2.Canonical := h.foldl fun h => h.taskAcquire
  have h3 : s3.Canonical := .ite (h2.foldl fun h => h.sliceClear.ite h) h2
  exact h3.addGroup
protected theorem imageTampered {g} (hs : s.Canonical) : (imageTampered s g).Canonical := hs.pfRecord.retireGroup
protected theorem restoreGroup {g core} (hs : s.Canonical) : (restoreGroup s g core).Canonical := by
  unfold restoreGroup
  extract_lets s1 s2
  have h1 : s1.Canonical := { hs with }
  have h2 : s2.Canonical := hs.modGroup
  split
  · exact h2.storeHeader.ite h2
  · exact h2
protected theorem restoreTeam {t core move} (hs : s.Canonical) : (restoreTeam s t core move).Canonical :=
  (hs.modTeam.foldl (fun h1 => (h1.ite h1.applySig.flushCore).restoreGroup)).foldl (fun h => h.imageTampered)
protected theorem placeSaved {r t} (hs : s.Canonical) : CanonicalIfPlaced (placeSaved s r t) := by
  unfold placeSaved
  split
  · exact .map (hs.foldl fun h => h.restoreTeam)
  · exact .map hs.restoreTeam
protected theorem useUnit {r core} (hs : s.Canonical) : (useUnit s r core).Canonical := hs.modGrid
protected theorem placeAhead {r t} (hs : s.Canonical) : CanonicalIfPlaced (placeAhead s r t) := .map hs.useUnit.restoreTeam
protected theorem placeFresh {r} (hs : s.Canonical) : CanonicalIfPlaced (placeFresh s r) := by
  refine .map (.ite hs.imageFault ?_)
  exact hs.modGrid.foldl fun h => h.takeSlots.startTeam
protected theorem startTask {r f id core} (hs : s.Canonical) : (startTask s r f id core).Canonical := hs.modGrid.takeSlots.startTeam
protected theorem placeTask {r} (hs : s.Canonical) : CanonicalIfPlaced (placeTask s r) := by
  unfold placeTask
  extract_lets
  split
  · exact .none
  · exact .map (.ite hs.imageFault (hs.modGrid.foldl fun h => h.startTask))
protected theorem placeAll {n r} (hs : s.Canonical) : CanonicalIfPlaced (placeAll n s r) := by
  induction n generalizing s r with
  | zero => exact .some hs
  | succ n ih =>
    unfold placeAll
    split
    · exact .some hs
    · split <;> rename_i heq
      · exact .none
      · have ht := hs.placeFresh _ heq
        split
        · exact ih ht
        · exact .some ht
protected theorem markRsv {r} (hs : s.Canonical) : (markRsv s r).Canonical := hs.modGrid
protected theorem startRsv {r} (hs : s.Canonical) : CanonicalIfPlaced (startRsv s r) := by
  unfold startRsv
  split
  · split
    · exact .some hs.markRsv
    · exact .none
  · split
    · intro t ht
      obtain ⟨u, hu, rfl⟩ := Option.map_eq_some_iff.1 ht
      exact (hs.placeAll u hu).markRsv
    · exact .some hs.imageFault
protected theorem placeAdmitted {r} (hs : s.Canonical) : CanonicalIfPlaced (placeAdmitted s r) := by
  unfold placeAdmitted
  split
  · exact hs.placeSaved
  · split
    · exact hs.startRsv
    · split
      · exact hs.placeTask
      · split
        · exact .none
        · exact hs.placeFresh
protected theorem placeNext {r} (hs : s.Canonical) : CanonicalIfPlaced (placeNext s r) := by
  unfold placeNext
  split
  · exact .none
  · split
    · exact hs.placeAdmitted
    · split
      · split
        · exact .some (hs.modGrid.placeAdmitted.getD hs.modGrid)
        · exact .none
      · exact .none
protected theorem placeStep {r} (hs : s.Canonical) : (placeStep s r).Canonical := by
  refine .ite hs ?_
  split <;> rename_i heq
  · obtain ⟨q, _, hq⟩ := List.exists_of_findSome?_eq_some heq
    exact hs.placeAhead _ hq
  · exact hs.ite (hs.placeNext.getD hs)

/-! ### Launches, bundles and the other packets of work -/

protected theorem packetQuads {k addr n} (hs : s.Canonical) : (packetQuads s k addr n).1.Canonical := by
  induction n generalizing s addr with
  | zero => exact hs
  | succ n ih =>
    unfold packetQuads
    split <;> rename_i heq
    · have h1 := hs.globalCheck.of heq
      split
      · exact h1
      · extract_lets
        split <;> rename_i heq <;> exact (ih h1.applySig).of heq
    · exact hs.globalCheck.of heq
protected theorem launchTry {k within} (hs : s.Canonical) : (launchTry s k within).1.Canonical := by
  unfold launchTry
  split <;> rename_i heq
  · exact hs.packetQuads.of heq
  · have h1 := hs.packetQuads.of heq
    split
    · exact h1
    · extract_lets
      split <;> exact h1
protected theorem startGrid {r} (hs : s.Canonical) : (startGrid s r).Canonical := by
  unfold startGrid
  extract_lets l q _ _ s1
  have hl : l.2.Canonical := hs.takeFree
  have hq : q.1.Canonical := by
    unfold q
    split
    · exact hl
    · exact hl.takeFree
  have h1 : s1.Canonical := by
    unfold s1
    exact .clearSlices { hq with }
  exact h1.foldl fun h => h.modCask
protected theorem markStarted {r} (hs : s.Canonical) : (markStarted s r).Canonical := hs.modPacket
protected theorem execLaunch {p} (hs : s.Canonical) : CanonicalOutcome (execLaunch p s) := by
  refine .next (hs.onStart fun {k} => ?_)
  split <;> rename_i heq
  · exact (hs.launchTry.of heq).completePacket
  · exact (hs.launchTry.of heq).markStarted.startGrid
protected theorem lxrunStart {k g} (hs : s.Canonical) : (lxrunStart s k g).Canonical := by
  unfold lxrunStart
  extract_lets +onlyGivenNames _ _ _ _
  split
  · trivial
  · split
    · trivial
    · extract_lets +onlyGivenNames _ _ _ s1
      have h1 : s1.Canonical := hs.fresh.markStarted
      split
      · exact h1.acceptProgram
      · exact h1.modGroup.acceptProgram
protected theorem settleStart {r} {e : StartEnd} (hs : s.Canonical) (he : e.Canonical) : (settleStart s r e).Canonical := by
  cases e with
  | wait => exact hs
  | refused c => exact hs.completePacket
  | started t => exact he
  | halt t => exact he
protected theorem execLxrun {p} (hs : s.Canonical) : CanonicalOutcome (execLxrun p s) := .next (hs.onStart (hs.settleStart hs.lxrunStart))
protected theorem startLaunches {others within place l} (hs : s.Canonical) : (startLaunches others within place l s).Canonical := by
  induction l generalizing s with
  | nil => exact hs
  | cons k ks ih =>
    unfold startLaunches
    split <;> rename_i heq
    · trivial
    · extract_lets s1
      have h1 : s1.Canonical := (hs.launchTry.of heq).markStarted.startGrid
      split
      · exact ih h1
      · split
        · exact h1
        · split <;> rename_i heq
          · split at heq
            · cases heq
            · have h2 := h1.placeNext _ heq
              split
              · exact ih h2
              · trivial
          · trivial
protected theorem startRuns {first l} (hs : s.Canonical) : (startRuns first l s).Canonical := by
  induction l generalizing s with
  | nil => exact hs
  | cons k ks ih =>
    unfold startRuns
    split <;> rename_i heq
    · exact ih (hs.lxrunStart.of heq)
    · exact hs.lxrunStart
protected theorem bundleOn {k ms within} (hs : s.Canonical) : (bundleOn s k ms within).Canonical := by
  unfold bundleOn
  extract_lets
  split
  · trivial
  · split
    · rename_i heq
      have h1 := hs.startLaunches.of heq
      split
      · rename_i heq
        exact (h1.startRuns.of heq).markStarted
      · exact h1.startRuns
    · exact hs.imageFault
    · exact hs.startLaunches
protected theorem bestStart {a b : StartEnd} (ha : a.Canonical) (hb : b.Canonical) : (bestStart a b).Canonical := by
  unfold bestStart
  split
  · exact ha
  · exact ha
  · exact hb
  · exact hb
  · trivial
  · exact hb
protected theorem bundleStart {k} (hs : s.Canonical) : (bundleStart s k).Canonical := by
  unfold bundleStart
  extract_lets
  split
  · split
    · trivial
    · exact foldl_keeps (P := StartEnd.Canonical) hs.bundleOn fun h => State.Canonical.bestStart h hs.bundleOn
  · exact hs.bundleOn
protected theorem refuseBundle {k code} (hs : s.Canonical) : (refuseBundle s k code).Canonical := .completePacket { hs with }
protected theorem execBundle {p} (hs : s.Canonical) : CanonicalOutcome (execBundle p s) := by
  refine .next (hs.onStart fun {k} => ?_)
  have hb := hs.bundleStart (k := k)
  split <;> rename_i heq
  · exact hs
  · exact hs.refuseBundle
  · exact hb.of heq
  · exact hb.of heq
protected theorem waitLook {k} (hs : s.Canonical) : (waitLook s k).Canonical := by
  unfold waitLook
  split <;> rename_i heq
  · have h1 := hs.vcpRead.of heq
    exact h1.completePacket.ite h1
  · exact (hs.vcpRead.of heq).completePacket
  · exact hs.vcpRead.of heq
protected theorem execWaitmem {p} (hs : s.Canonical) : CanonicalOutcome (execWaitmem p s) := .next (hs.onStart hs.markStarted.waitLook)
protected theorem onWaiting {p f} (hs : s.Canonical) (hf : ∀ {x}, (f x).Canonical) : (onWaiting s p f).Canonical := by
  unfold onWaiting
  split
  · exact hf.ite hs
  · exact hs
protected theorem execWaitmemReread {p} (hs : s.Canonical) : CanonicalOutcome (execWaitmemReread p s) :=
  .next (hs.onWaiting (hs.ite hs.waitLook))
protected theorem execWaitmemTimeout {p} (hs : s.Canonical) : CanonicalOutcome (execWaitmemTimeout p s) :=
  .next (hs.onWaiting (.ite (.completePacket { hs with }) hs))
protected theorem execSignal {p} (hs : s.Canonical) : CanonicalOutcome (execSignal p s) :=
  .next (hs.onStart (hs.ite (State.Canonical.packetAccess hs.vcpWrite)))
protected theorem execTimestamp {p} (hs : s.Canonical) : CanonicalOutcome (execTimestamp p s) :=
  .next (hs.onStart (State.Canonical.packetAccess hs.vcpWrite))
protected theorem execPatch {p} (hs : s.Canonical) : CanonicalOutcome (execPatch p s) := by
  unfold execPatch
  refine .next ?_
  split
  · exact hs.modPart.completePacket.ite hs
  · exact hs
protected theorem execGraph {p} (hs : s.Canonical) : CanonicalOutcome (execGraph p s) := by
  unfold execGraph
  refine .next ?_
  split
  · split
    · split <;> rename_i heq
      · exact (hs.readGraph.of heq).modPacket
      · exact (hs.readGraph.of heq).completePacket
      · exact (hs.readGraph.of heq).completePacket
    · exact hs
  · exact hs
protected theorem execGraphReplayStart {p} (hs : s.Canonical) : CanonicalOutcome (execGraphReplayStart p s) :=
  .next (hs.onStart (hs.ite (hs.markStarted.foldl (fun h => h.addPacket)).modPacket))
protected theorem execReserve {p} (hs : s.Canonical) : CanonicalOutcome (execReserve p s) := by
  unfold execReserve
  refine .next ?_
  split
  · split
    · exact hs
    · extract_lets _ s1
      have h1 : s1.Canonical := hs.markStarted.modPart.ite hs
      split
      · exact h1.completePacket.ite h1
      · exact h1
  · exact hs
protected theorem execReserveRelease {p} (hs : s.Canonical) : CanonicalOutcome (execReserveRelease p s) :=
  .next (hs.onStart (hs.ite hs.modPart.completePacket))
protected theorem execTunopInstall {p} (hs : s.Canonical) : CanonicalOutcome (execTunopInstall p s) :=
  .next (hs.onStart (hs.ite (hs.completePacket.ite hs.markStarted.installStart)))
protected theorem execTunopFree {p} (hs : s.Canonical) : CanonicalOutcome (execTunopFree p s) := by
  refine .next (hs.onStart fun {k} => .ite hs (.ite hs.completePacket ?_))
  extract_lets s1
  have h1 : s1.Canonical := by
    unfold s1
    split
    · exact hs.freeTun.ite hs
    · exact hs
  exact h1.markStarted.tunopEnd
protected theorem execCustomPacket {p} (hs : s.Canonical) : CanonicalOutcome (execCustomPacket p s) := by
  unfold execCustomPacket
  refine .next ?_
  split
  · split
    · exact hs
    · split
      · exact hs.completePacket
      · split
        · exact hs.markStarted.startRun
        · exact hs.completePacket
  · exact hs

/-! ### Saving and restoring -/

protected theorem saveGroup {s0 : State} {g} (hs : s0.Canonical) : (saveGroup s0 g).Canonical := by
  unfold saveGroup
  split
  · exact hs
  · extract_lets s1
    have h1 : s1.Canonical := hs.checkImage
    split
    · exact h1.setGroup.storeImage
    · exact hs
protected theorem storeUnits {part units} (hs : s.Canonical) : (storeUnits s part units).Canonical := hs.foldl (fun h => h.openArea)
protected theorem saveTeam {t} (hs : s.Canonical) : (saveTeam s t).Canonical := by
  unfold saveTeam
  split
  · exact hs
  · extract_lets _ s1 s2 s3
    have h1 : s1.Canonical := hs.ite (hs.takeUnits.modTeam.ite hs.pfRecord)
    have h2 : s2.Canonical := h1.foldl (fun h => h.saveGroup)
    have h3 : s3.Canonical := h2.storeUnits
    exact h3.modTeam
protected theorem takePrograms {part f} (hs : s.Canonical) : (takePrograms s part f).Canonical := { hs with }
protected theorem putProgram {q} (hs : s.Canonical) : (putProgram s q).Canonical := hs.setEngine
protected theorem abandonRuns {f} (hs : s.Canonical) : (abandonRuns s f).Canonical :=
  .foldl { hs with } (fun h1 => h1.modVq.ite h1.modPacket)
protected theorem markSaved {r} (hs : s.Canonical) : (markSaved s r).Canonical := by
  unfold markSaved
  extract_lets s1
  have h1 : s1.Canonical := hs.modPart fun _ h => wf_setDevReg (wf_setDevReg h)
  exact h1.modVq
protected theorem areaFrames {part area n} (hs : s.Canonical) : (areaFrames s part area n).1.Canonical := by
  induction n generalizing s with
  | zero => exact hs
  | succ n ih =>
    unfold areaFrames
    split <;> rename_i heq
    · have h1 := hs.globalCheck.of heq
      split <;> rename_i heq <;> exact (ih h1).of heq
    · exact hs.globalCheck.of heq
protected theorem storeSave {frames n} (hs : s.Canonical) : (storeSave s frames n).Canonical := hs.foldl (fun h => h.openArea)
protected theorem execSaveq {p} (hs : s.Canonical) : CanonicalOutcome (execSaveq p s) := by
  refine .next (hs.onStart fun {k} => ?_)
  extract_lets
  refine .ite hs.completePacket ?_
  split <;> rename_i heq
  · exact (hs.areaFrames.of heq).completePacket
  · have h1 := hs.areaFrames.of heq
    refine .ite h1 (.ite h1.imageFault ?_)
    extract_lets s2 s3 s4 s5 _ _ s6
    have h2 : s2.Canonical := h1.abandonRuns
    have h3 : s3.Canonical := h2.foldl fun h => h.saveTeam
    have h4 : s4.Canonical := h3.foldl fun h => h.modTeam
    have h5 : s5.Canonical := h4.takePrograms
    have h6 : s6.Canonical := { h5.storeSave with }
    exact (h6.foldl fun h => h.markSaved).completePacket
protected theorem restoreQueue {part q} (hs : s.Canonical) : (restoreQueue s part q).Canonical := by
  unfold restoreQueue
  extract_lets r s1
  have h1 : s1.Canonical := hs.foldl fun h => h.modPart fun _ => wf_setDevReg
  exact (h1.modPart fun _ => wf_setDevReg).resumeQueue
protected theorem execRestq {p} (hs : s.Canonical) : CanonicalOutcome (execRestq p s) := by
  refine .next (hs.onStart fun {k} => ?_)
  split
  · exact hs.completePacket
  · refine .ite hs.completePacket (.ite hs ?_)
    extract_lets _ s1 s2 s3
    have h1 : s1.Canonical := { hs with }
    have h2 : s2.Canonical := h1.foldl fun h => h.modTeam
    have h3 : s3.Canonical := h2.foldl fun h => h.putProgram
    exact (h3.foldl fun h => h.restoreQueue).completePacket
protected theorem setPState {p n} (hs : s.Canonical) : (State.setPState s p n).Canonical := hs.modPart
protected theorem setRunBit {p b} (hs : s.Canonical) : (State.setRunBit s p b).Canonical := hs.modPart
theorem sideMem_wf (hs : s.Canonical) (m : SideMem) : Memory.wf (sideMem s m) = true := by
  cases m
  exacts [hs.scratch, hs.acc, hs.dieScratch]
protected theorem setSide {m x} (hs : s.Canonical) (hx : Memory.wf x = true) : (setSide s m x).Canonical := by
  cases m
  exacts [{ hs with scratch := hx }, { hs with acc := hx }, { hs with dieScratch := hx }]
protected theorem storeCasks {p d} (hs : s.Canonical) : (storeCasks s p d).Canonical :=
  hs.foldl fun h => h.ite (h.foldl fun h => { h with hbm := memWriteNat_wf _ _ _ _ h.hbm })
protected theorem storeOperators {p q} (hs : s.Canonical) : (storeOperators s p q).Canonical := hs.openArea.ite hs
protected theorem storeSwap {p} (hs : s.Canonical) : (storeSwap s p).Canonical := by
  unfold storeSwap
  refine .ite hs ?_
  extract_lets _ s1 s2 s3 s4
  have h1 : s1.Canonical := { hs with hbm := memClear_wf _ _ _ hs.hbm }
  have h2 : s2.Canonical := h1.foldl fun h => h.storeOperators
  have h3 : s3.Canonical := h2.foldl fun h => h.storeCasks
  have h4 : s4.Canonical := h3.foldl fun h => { h with hbm := memMove_wf _ _ _ _ _ h.hbm (h.sideMem_wf _) }
  exact h4.modPart
protected theorem loadSwap {p} (hs : s.Canonical) : (loadSwap s p).Canonical :=
  (hs.foldl fun h => h.setSide (memMove_wf _ _ _ _ _ (h.sideMem_wf _) h.hbm)).modPart
protected theorem swapBegin {p} (hs : s.Canonical) : (swapBegin s p).Canonical := hs.setRunBit.setPState.modPart
protected theorem swapEnd {p} (hs : s.Canonical) : (swapEnd s p).Canonical := by
  unfold swapEnd
  extract_lets s1 _ s2 _ s3 s4
  have h1 : s1.Canonical := hs.storeSwap
  have h2 : s2.Canonical := h1.foldl (fun h => h.saveTeam)
  have h3 : s3.Canonical := h2.takePrograms
  have h4 : s4.Canonical := h3.foldl (fun h => h.cleanCore)
  exact h4.modPart.setPState
protected theorem swapOut {p} (hs : s.Canonical) : (swapOut s p).Canonical :=
  hs.swapBegin.ite (hs.ite (hs.abandonRuns.ite hs.abandonRuns.swapEnd))
protected theorem shiftTimers {p} (hs : s.Canonical) : (shiftTimers s p).Canonical := by
  unfold shiftTimers
  exact .modPart { hs with }
protected theorem recordedOps {r} (hs : s.Canonical) : (recordedOps s r).Canonical :=
  hs.modVq.foldl (fun h1 => h1.restartNow.ite h1.skipNow)
protected theorem recordedKicks {p} (hs : s.Canonical) : (recordedKicks s p).Canonical := by
  unfold recordedKicks
  extract_lets s1
  have h1 : s1.Canonical := hs.foldl (fun h => h.recordedOps)
  exact h1.foldl (fun h => h.kickNow)
protected theorem execSwapOut {part} (hs : s.Canonical) : CanonicalOutcome (execSwapOut part s) := .next hs.swapOut
protected theorem swapInBegin {part} (hs : s.Canonical) : (swapInBegin s part).Canonical := hs.ite hs.setRunBit.setPState
protected theorem swapInEnd {part} (hs : s.Canonical) : (swapInEnd s part).Canonical :=
  (hs.loadSwap.shiftTimers.foldl (fun h => h.putProgram)).modPart.setPState.recordedKicks
protected theorem execSwapIn {part} (hs : s.Canonical) : CanonicalOutcome (execSwapIn part s) :=
  .next (hs.ite (hs.swapInBegin.ite (hs.swapInEnd.ite hs)))
protected theorem execPartitionStart {part} (hs : s.Canonical) : CanonicalOutcome (execPartitionStart part s) :=
  .next (hs.ite hs.setRunBit.setPState.recordedKicks)

/-! ### The hypervisor's controls -/

protected theorem assignCasks {part} (hs : s.Canonical) : (assignCasks s part).Canonical :=
  .foldl { hs with } (fun h1 => h1.ite { h1.takeFree with })
theorem freshPartition_wf (p : Partition) : Memory.wf (freshPartition p).dev = true := by
  unfold freshPartition Partition.setReg freshPage
  dsimp only
  exact memWriteNat_wf _ _ _ _ (memWriteNat_wf _ _ _ _ rfl)
protected theorem execPartitionEnable {part} (hs : s.Canonical) : CanonicalOutcome (execPartitionEnable part s) := by
  have h1 : (s.modPart part freshPartition).Canonical := hs.setPart (freshPartition_wf _)
  exact .next (hs.ite h1.assignCasks)
protected theorem discardWork {part} (hs : s.Canonical) : (discardWork s part).Canonical := by
  unfold discardWork
  extract_lets _ _ _ s1
  have h1 : s1.Canonical := hs.takePrograms
  clear_value s1
  exact { h1 with scratch := foldl_memClear_wf h1.scratch, acc := foldl_memClear_wf h1.acc, dieScratch := foldl_memClear_wf h1.dieScratch }
protected theorem clearCores {part} (hs : s.Canonical) : (clearCores s part).Canonical := by
  unfold clearCores
  extract_lets _ s1
  have h1 : s1.Canonical := hs.foldl (fun h => h.flushCore)
  clear_value s1
  exact { h1 with }
protected theorem execPartitionDestroy {part} (hs : s.Canonical) : CanonicalOutcome (execPartitionDestroy part s) := by
  unfold execPartitionDestroy
  refine .next (.ite hs ?_)
  extract_lets s1 s2 s3 s4
  have h1 : s1.Canonical := hs.discardWork
  have h2 : s2.Canonical := h1.foldl fun h => h.freeTun
  clear_value s2
  have h3 : s3.Canonical := { h2 with }
  have h4 : s4.Canonical := h3.clearCores
  exact h4.modPart fun _ _ => rfl
protected theorem execWaymaskWrite {part mask} (hs : s.Canonical) : CanonicalOutcome (execWaymaskWrite part mask s) := by
  refine .next (hs.ite (hs.modPart fun p h => ?_))
  have hp : Memory.wf (if p.en then p.setDevReg 0x10 (mask &&& 0xFFFF#64) else p).dev = true := by
    split
    · exact wf_setDevReg h
    · exact h
  exact hp
protected theorem resumeGroup {g} (hs : s.Canonical) :
    (resumeGroup s g).Canonical := hs.imageTampered.ite hs.setGroup.noteImage.storeHeader
protected theorem execGctlResume {part slot} (hs : s.Canonical) : CanonicalOutcome (execGctlResume part slot s) := by
  unfold execGctlResume
  refine .next ?_
  split
  · exact hs.resumeGroup
  · exact hs
protected theorem execGctlRetire {part slot} (hs : s.Canonical) : CanonicalOutcome (execGctlRetire part slot s) := by
  unfold execGctlRetire
  refine .next ?_
  split
  · exact hs.retireGroup
  · exact hs
protected theorem execGctlEngineResume {part slot} (hs : s.Canonical) : CanonicalOutcome (execGctlEngineResume part slot s) := by
  unfold execGctlEngineResume
  refine .next ?_
  extract_lets
  split
  · split
    · exact hs.resumeProgram.ite hs
    · exact hs
  · exact hs
protected theorem blockWrite {part off v} (hs : s.Canonical) : (blockWrite s part off v).Canonical := by
  unfold blockWrite
  extract_lets +onlyGivenNames _ _
  refine .ite hs ?_
  extract_lets s1 s2
  have h1 : s1.Canonical := hs.modPart
  have h2 : s2.Canonical := .ite (h1.modPart fun _ => wf_setDevReg) h1
  exact h2.assignCasks.ite h2
protected theorem kilnWrite {off v} (hs : s.Canonical) : (kilnWrite s off v).Canonical := by
  unfold kilnWrite
  split
  · exact { hs with }
  · exact { hs with }
  · exact { hs with }
  · exact { hs with }
  · exact hs
protected theorem execRegisterWrite {r v} (hs : s.Canonical) : CanonicalOutcome (execRegisterWrite r v s) := by
  unfold execRegisterWrite
  refine .next ?_
  split
  · exact hs
  · split
    · exact hs.kilnWrite
    · exact hs.blockWrite
    · exact hs.ite hs.mailboxWrite
    · exact hs.ite hs.devPageWrite
protected theorem s2Write {q} (hs : s.Canonical) : (s2Write s q).Canonical := hs.kilnStore.shootdown
protected theorem execSecondStageTableWrite {addr v} (hs : s.Canonical) : CanonicalOutcome (execSecondStageTableWrite addr v s) :=
  .next (hs.ite (.ite { hs with } hs.s2Write))
protected theorem s2Again {qs} (hs : s.Canonical) : (s2Again qs s).Canonical := by
  induction qs generalizing s with
  | nil => exact { hs with }
  | cons q qs ih => exact .ite { hs with } (ih hs.s2Write)

/-! ### Swapping -/

protected theorem execCellarMove {cask} (hs : s.Canonical) : CanonicalOutcome (execCellarMove cask s) := .next (hs.modCask.ite hs)
protected theorem entryPc {r e} (hs : s.Canonical) : (entryPc s r e).1.Canonical := by
  unfold entryPc
  extract_lets
  split <;> rename_i heq
  · exact hs.globalCheck.of heq
  · exact (hs.globalCheck.of heq).takeFree
protected theorem takeEntry {r c} (hs : s.Canonical) : (takeEntry s r c).Canonical := by
  unfold takeEntry
  split
  · exact hs
  · exact hs.modCask.entryPc.modGrid
protected theorem execTaskEntryTake {grid cask} (hs : s.Canonical) : CanonicalOutcome (execTaskEntryTake grid cask s) := by
  unfold execTaskEntryTake
  refine .next ?_
  split
  · exact hs.takeEntry.ite hs
  · exact hs
protected theorem execFillDelayExpiry {grid entry} (hs : s.Canonical) : CanonicalOutcome (execFillDelayExpiry grid entry s) := by
  unfold execFillDelayExpiry
  refine .next ?_
  split
  · exact hs.modGrid.ite hs
  · exact hs
protected theorem execTeamPlacement {grid} (hs : s.Canonical) : CanonicalOutcome (execTeamPlacement grid s) := by
  unfold execTeamPlacement
  refine .next ?_
  split
  · exact hs.placeStep
  · exact hs
protected theorem removeGrid {r} (hs : s.Canonical) : (removeGrid s r).Canonical := by
  unfold removeGrid
  extract_lets s1 s2
  have h1 : s1.Canonical := hs.foldl fun h => h.modCask
  clear_value s1
  have h2 : s2.Canonical := { h1 with dieScratch := memClear_wf _ _ _ h1.dieScratch }
  exact h2.modPart.ite h2
protected theorem execGridRetirement {grid} (hs : s.Canonical) : CanonicalOutcome (execGridRetirement grid s) := by
  unfold execGridRetirement
  refine .next ?_
  split
  · exact hs.removeGrid.completePacket.ite hs
  · exact hs

/-! ### The fabric: host accesses and the home -/

protected theorem say {m} (hs : s.Canonical) : (say s m).Canonical := { hs with }
protected theorem hostFault {part port bit} (hs : s.Canonical) : (hostFault s part port bit).Canonical := hs.modMailbox.say
protected theorem hostTargets {c need addr n} (hs : s.Canonical) : (hostTargets s c need addr n).1.Canonical := by
  refine foldl_keeps (P := fun q : State × Except Cause (List Target) => q.1.Canonical) hs fun {q i} hq => ?_
  split
  · exact hq
  · split <;> rename_i heq <;> exact hq.globalCheck.of heq
protected theorem hostStore {a addr qs} (hs : s.Canonical) : (hostStore a addr qs s).Canonical := by
  induction qs generalizing s addr with
  | nil => exact hs
  | cons q qs ih => exact ih hs.storePlace
protected theorem hostCover {addr ts} (hs : s.Canonical) : (hostCover addr ts s).Canonical := by
  refine hs.foldl fun h => ?_
  split
  · exact h.clearPoison.ite h
  · exact h
protected theorem hostPageStore {a port addr n v t} (hs : s.Canonical) : (hostPageStore s a port addr n v t).Canonical := by
  unfold hostPageStore
  split <;> rename_i heq
  · exact (hs.storePlace.of heq).markPage.say
  · exact (hs.storePlace.of heq).hostFault
protected theorem hostWriteNow {part port addr bytes} (hs : s.Canonical) : (hostWriteNow s part port addr bytes).Canonical := by
  unfold hostWriteNow
  extract_lets
  split <;> rename_i heq
  · exact (hs.hostTargets.of heq).hostFault
  · have h1 := hs.hostTargets.of heq
    split
    · split <;> rename_i heq
      · exact (h1.feedStore.of heq).markPage.say
      · exact (h1.feedStore.of heq).hostFault
    · exact h1.modMailbox.say.ite h1.hostPageStore
    · exact h1.hostPageStore
    · exact h1.hostStore.hostCover.say.ite h1.hostFault
protected theorem execHostWrite {h addr bytes} (hs : s.Canonical) : CanonicalOutcome (execHostWrite h addr bytes s) := by
  unfold execHostWrite
  refine .next ?_
  split
  · exact hs.hostWriteNow
  · exact hs.say
protected theorem hostLoad {a addr ts} (hs : s.Canonical) : (hostLoad a addr ts s).1.Canonical := by
  induction ts generalizing s addr with
  | nil => exact hs
  | cons t ts ih =>
    unfold hostLoad
    extract_lets r
    have hr : r.s.Canonical := hs.loadPlace
    split
    · exact hr
    · split
      · rename_i heq
        exact (ih hr).of heq
      · exact ih hr
protected theorem hostReadNow {part port addr size} (hs : s.Canonical) : (hostReadNow s part port addr size).Canonical := by
  unfold hostReadNow
  extract_lets +onlyGivenNames _
  split <;> rename_i heq
  · exact (hs.hostTargets.of heq).hostFault
  · have h1 := hs.hostTargets.of heq
    extract_lets +onlyGivenNames _
    split
    · exact h1.hostFault
    · split
      · extract_lets s2
        have h2 : s2.s.Canonical := h1.loadPlace
        split
        · exact h2.say
        · exact h2.hostFault
      · split <;> rename_i heq
        · exact (h1.hostLoad.of heq).say
        · exact (h1.hostLoad.of heq).hostFault
protected theorem execHostRead {h addr size} (hs : s.Canonical) : CanonicalOutcome (execHostRead h addr size s) := by
  unfold execHostRead
  refine .next ?_
  split
  · exact hs.hostReadNow
  · exact hs.say
protected theorem execDoorbell {h} (hs : s.Canonical) : CanonicalOutcome (execDoorbell h s) := by
  unfold execDoorbell
  refine .next ?_
  split
  · exact hs.modMailbox.say
  · exact hs.say
protected theorem homeCheck {part off need} (hs : s.Canonical) : (homeCheck s part off need).1.Canonical := by
  unfold homeCheck
  split
  · exact hs
  · exact hs.ite hs.setEntryBit
protected theorem homeDrain {r sig} (hs : s.Canonical) : (homeDrain s r sig).Canonical := hs.ite hs.applySig
protected theorem homeStore {a o pa n v whole} (hs : s.Canonical) : (homeStore s a o pa n v whole).Canonical := by
  unfold homeStore
  extract_lets s1 s2
  have h1 : s1.Canonical := hs.lineStore
  have h2 : s2.Canonical := h1.coverPoison.coverHalf.ite h1
  exact h2.writeSide.entrySide.ite h2
protected theorem homeLoad {part r n} (hs : s.Canonical) : (homeLoad s part r n).Canonical := by
  unfold homeLoad
  split <;> rename_i heq
  · exact hs.homeCheck.of heq
  · have h1 := hs.homeCheck.of heq
    split
    · exact h1
    · exact h1
    · split
      · exact h1
      · exact h1.homeDrain
    · split
      · exact h1
      · exact h1.homeDrain
    · split
      · exact h1
      · exact h1.homeDrain
protected theorem homeWord {part r} (hs : s.Canonical) : (homeWord s part r).Canonical := by
  unfold homeWord
  split <;> rename_i heq
  · exact hs.homeCheck.of heq
  · have h1 := hs.homeCheck.of heq
    split
    · split
      · exact h1
      · exact h1.homeDrain
    · exact h1
protected theorem homeDirty {part off} (hs : s.Canonical) : (homeDirty s part off).Canonical := by
  unfold homeDirty
  split
  · exact hs.setEntryBit
  · exact hs
protected theorem homeWriteBytes {part r off bs mask} (hs : s.Canonical) : (homeWriteBytes s part r off bs mask).1.Canonical := by
  unfold homeWriteBytes
  extract_lets
  split <;> rename_i heq
  · exact hs.homeCheck.of heq
  · have h1 := hs.homeCheck.of heq
    split
    · exact h1
    · exact h1
    · split <;> rename_i heq
      · exact (h1.feedStore.of heq).homeDirty
      · exact h1.feedStore.of heq
    · exact h1.homeDirty.homeStore
    · exact h1.homeDirty.homeStore
protected theorem homeRmw {part r n f} (hs : s.Canonical) : (homeRmw s part r n f).Canonical := by
  unfold homeRmw
  split <;> rename_i heq
  · exact hs.homeCheck.of heq
  · have h1 := hs.homeCheck.of heq
    split
    · split
      · exact h1
      · extract_lets s2 s3
        have h2 : s2.Canonical := h1.homeDirty.applySig
        have h3 : s3.1.Canonical := h2.rmwAt
        exact h3
    · exact h1
protected theorem redtAnswer {q : State × RedtEnd} (hs : q.1.Canonical) : (redtAnswer q).Canonical := by
  unfold redtAnswer
  split <;> exact hs
protected theorem homeRedt {part r op ty tag v} (hs : s.Canonical) : (homeRedt s part r op ty tag v).Canonical := by
  unfold homeRedt
  extract_lets
  split <;> rename_i heq
  · exact hs.homeCheck.of heq
  · have h1 := hs.homeCheck.of heq
    split
    · split
      · exact h1
      · exact (h1.homeDirty.taggedReduce (fun h => h.rmwAt)).redtAnswer
    · exact h1
protected theorem homeDrawLane {part off n} (hs : s.Canonical) : (homeDrawLane s part off n).1.Canonical := by
  unfold homeDrawLane
  split <;> rename_i heq
  · exact hs.homeCheck.of heq
  · have h1 := hs.homeCheck.of heq
    split
    · split
      · split <;> exact h1
      · exact h1
    · exact h1
protected theorem homeDrawLanes {part n offs} (hs : s.Canonical) : (homeDrawLanes part n offs s).1.Canonical :=
  foldl_keeps (P := fun m : State × List (Option (Tun × ℕ)) => m.1.Canonical) hs (fun h => h.homeDrawLane)
protected theorem drawTaken {seq x} (hs : s.Canonical) : (drawTaken seq s x).Canonical := by
  unfold drawTaken
  split
  · exact hs
  · exact hs.putSlot.ite hs
protected theorem homeDraw {part r n seq consume offs} (hs : s.Canonical) : (homeDraw s part r n seq consume offs).Canonical := by
  unfold homeDraw
  extract_lets +onlyGivenNames q
  have hq : q.1.Canonical := hs.homeDrawLanes
  split
  · exact hs
  · extract_lets _ s1
    have h1 : s1.Canonical := .ite (hq.foldl fun h => h.drawTaken) hq
    refine h1.foldl fun h => ?_
    split
    · exact h.homeDrain
    · exact h
protected theorem homeUnit {part r xs} (hs : s.Canonical) : (homeUnit part r xs s).1.Canonical := by
  induction xs generalizing s with
  | nil => exact hs
  | cons x xs ih =>
    unfold homeUnit
    split <;> rename_i heq
    · exact hs.homeWriteBytes.of heq
    · exact ih (hs.homeWriteBytes.of heq)
protected theorem unitRefused {t : State} (hs : s.Canonical) : (unitRefused s t).Canonical := { hs with }
protected theorem unitPlaces {part xs} (hs : s.Canonical) : (unitPlaces part xs s).1.Canonical := by
  induction xs generalizing s with
  | nil => exact hs
  | cons x xs ih =>
    unfold unitPlaces
    split <;> rename_i heq
    · exact hs.homeCheck.of heq
    · have h1 := hs.homeCheck.of heq
      split
      · rename_i heq
        split <;> exact (ih h1).of heq
      · rename_i heq _
        exact (ih h1).of heq
protected theorem homeReduce {part r op ty tag xs} (hs : s.Canonical) : (homeReduce part r op ty tag xs s).Canonical := by
  induction xs generalizing s with
  | nil => exact hs
  | cons x xs ih =>
    unfold homeReduce
    extract_lets n
    have h1 := (hs.taggedReduce (part := part) (rs := x.2.map fun q => (q.1, n)) (src := reqSource r) (tag := tag.toNat)
      (apply := fun s => x.2.foldl (fun s q => (rmwAt s (homeAgent part r) (homeRmwOrd r) none (.hbm q.1) n (rmwValue op ty q.2)).1) s)
      fun h => h.foldl fun h => h.rmwAt).redtAnswer
    split <;> rename_i heq
    · exact ih (h1.of heq)
    · exact h1
protected theorem homeServe {part r} (hs : s.Canonical) : (homeServe s part r).Canonical := by
  unfold homeServe
  split
  · exact hs.homeLoad
  · exact hs.homeWord
  · split <;> rename_i heq <;> exact hs.homeWriteBytes.of heq
  · split <;> rename_i heq <;> exact hs.homeWriteBytes.of heq
  · exact hs.homeRmw
  · exact hs.homeRmw
  · exact hs.homeRedt
  · exact hs.homeRmw
  · exact hs.homeDraw
  · split <;> rename_i heq
    · exact hs.homeUnit.of heq
    · exact hs.unitRefused
  · split <;> rename_i heq
    · exact ((hs.unitPlaces.of heq).foldl (fun h => h.homeDirty)).homeReduce
    · exact hs.unitPlaces.of heq
protected theorem execRemoteRequest {r} (hs : s.Canonical) : CanonicalOutcome (execRemoteRequest r s) := by
  unfold execRemoteRequest
  refine .next ?_
  split
  · exact hs
  · split
    · exact hs.say
    · split <;> rename_i heq
      · exact (hs.homeServe.of heq).say
      · exact (hs.homeServe.of heq).say.say
protected theorem execUnreliablePacket {_port} (hs : s.Canonical) : CanonicalOutcome (execUnreliablePacket _port s) :=
  .next (.ite { hs with } hs)

/-! ### The fabric: answers -/

protected theorem setRemote {o} (hs : s.Canonical) : (State.setRemote s o).Canonical := { hs with }
protected theorem dropRemote {id} (hs : s.Canonical) : (dropRemote s id).Canonical := { hs with }
protected theorem sweepRemote {id} (hs : s.Canonical) : (sweepRemote s id).Canonical := by
  unfold sweepRemote
  split
  · exact hs.dropRemote.ite hs
  · exact hs
protected theorem askAgain {o k r part} (hs : s.Canonical) : (askAgain s o k r part).Canonical := hs.setRemote.sendAll
protected theorem askLater {o k r} (hs : s.Canonical) : (askLater s o k r).Canonical := hs.setRemote
protected theorem releaseSplit {o} (hs : s.Canonical) : (releaseSplit s o).Canonical := by
  unfold releaseSplit
  extract_lets +onlyGivenNames s1
  have h1 : s1.Canonical := hs.setRemote
  split
  · exact h1
  · refine .ite h1 ?_
    extract_lets _ fs s2
    have h2 : s2.Canonical := by
      unfold s2
      clear_value fs
      refine .ite ?_ h1.settleFaults
      cases fs with
      | nil => exact h1.finish
      | cons => exact h1.raise
    exact h2.landSaved
protected theorem completeSplit {o} (hs : s.Canonical) : (completeSplit s o).Canonical := hs.modSplit.flightDone.landSaved
protected theorem splitAnswered {id} (hs : s.Canonical) : (splitAnswered s id).Canonical := by
  unfold splitAnswered
  split
  · exact hs
  · extract_lets s1 s2
    have h1 : s1.Canonical := hs.completeSplit.ite hs
    have h2 : s2.Canonical := h1.releaseSplit.ite h1
    exact h2.sweepRemote
protected theorem remoteResult {o r data} (hs : s.Canonical) : (remoteResult s o r data).Canonical := hs.ite hs.addWrites
protected theorem remoteAcquire {core o r} (hs : s.Canonical) : (remoteAcquire s core o r).Canonical :=
  hs.ite (hs.applySig.flushCore.dropScales.ite hs.applySig)
protected theorem splitComplete {s0 : State} {o k r data} (hs : s0.Canonical) : (splitComplete s0 o k r data).Canonical := by
  unfold splitComplete
  extract_lets +onlyGivenNames s1
  have h1 : s1.Canonical := by
    unfold s1
    split
    · exact hs.remoteAcquire
    · exact hs
  split
  · exact h1.setRemote.splitAnswered
  · split
    · exact h1.setRemote.sweepRemote
    · extract_lets _ s2
      have h2 : s2.Canonical := h1.addWrites.modDraw
      split
      · exact h2.setRemote.drawSettle
      · exact h2.askLater
  · split
    · extract_lets
      split
      · exact h1.setRemote.splitAnswered
      · split
        · exact h1.setRemote.splitAnswered
        · split
          · exact h1.askLater.ite h1.setRemote.sweepRemote
          · exact h1.setRemote.sweepRemote
    · exact h1.remoteResult.setRemote.splitAnswered
protected theorem splitTold {o} (hs : s.Canonical) : (splitTold s o).Canonical := hs.setRemote.drawSettle.ite hs.setRemote.splitAnswered
protected theorem reaskWord {g sp o k r} (hs : s.Canonical) : (reaskWord s g sp o k r).Canonical := by
  unfold reaskWord
  split <;> rename_i heq
  · exact (hs.place.of heq).setRemote.splitAnswered
  · have h1 := hs.place.of heq
    split
    · exact h1.ite h1.askAgain
    · exact h1.setRemote.splitAnswered
  · exact (hs.place.of heq).flightDone.dropRemote.modSplit
protected theorem reaskDraw {g sp o k r d} (hs : s.Canonical) : (reaskDraw s g sp o k r d).Canonical := by
  unfold reaskDraw
  extract_lets s1
  have h1 : s1.s.Canonical := hs.drawLanes
  split
  · exact hs
  · split
    · exact h1.askAgain
    · exact (h1.setRemote.drawMoved).drawSettle
protected theorem reask {id k} (hs : s.Canonical) : (reask s id k).Canonical := by
  unfold reask
  split
  · exact hs
  · split
    · split
      · exact hs
      · split
        · exact hs.reaskDraw
        · exact hs.reaskWord.ite hs
    · exact hs
protected theorem reaskAll (hs : s.Canonical) : (reaskAll s).Canonical := hs.foldl (fun h1 => h1.foldl (fun h => h.reask))
protected theorem modProgram {r serial f} (hs : s.Canonical) : (modProgram s r serial f).Canonical := by
  unfold modProgram
  extract_lets _ _ s1
  have h1 : s1.Canonical := hs.setEngine.ite hs
  clear_value s1
  refine { h1 with parts := fun p hp => ?_ }
  obtain ⟨q, hq, rfl⟩ := List.mem_map.1 hp
  exact h1.parts q hq
protected theorem releaseProgram {r o} (hs : s.Canonical) : (releaseProgram s r o).Canonical := by
  unfold releaseProgram
  extract_lets s1
  have h1 : s1.Canonical := hs.setRemote
  split
  · split
    · exact h1
    · split
      · exact h1.faultProgram
      · exact h1.setHead
  · exact h1.modProgram
protected theorem programAnswered {r id} (hs : s.Canonical) : (programAnswered s r id).Canonical := by
  unfold programAnswered
  split
  · exact hs
  · exact (hs.releaseProgram.ite hs).sweepRemote.endingAgain
protected theorem gotWrite {e o r} (hs : s.Canonical) : (gotWrite s e o r).Canonical := hs.modProgram.ite hs
protected theorem programComplete {s0 : State} {e o k r data} (hs : s0.Canonical) : (programComplete s0 e o k r data).Canonical := by
  unfold programComplete
  extract_lets s1
  have h1 : s1.Canonical := hs.remoteAcquire
  split
  · exact h1.setRemote.programAnswered.ite h1.modProgram.setRemote.programAnswered
  · exact (h1.gotWrite.ite h1.modProgram).setRemote.programAnswered
protected theorem packetComplete {o r p data} (hs : s.Canonical) : (packetComplete s o r p data).Canonical := by
  unfold packetComplete
  extract_lets s1
  have h1 : s1.Canonical := hs.remoteAcquire.dropRemote
  split
  · exact h1
  · exact (h1.completePacket.ite h1).ite h1.completePacket
protected theorem runComplete {o r id data} (hs : s.Canonical) : (runComplete s o r id data).Canonical := by
  unfold runComplete
  extract_lets s1
  have h1 : s1.Canonical := by
    unfold s1
    split
    · exact hs.remoteAcquire
    · exact hs
  exact h1.dropRemote.modRun
protected theorem vcpRefused {o} (hs : s.Canonical) : (vcpRefused s o).Canonical := by
  unfold vcpRefused
  extract_lets s1
  have h1 : s1.Canonical := hs.dropRemote
  split
  · exact h1.completePacket
  · split
    · exact h1.hookFault
    · exact h1
  · exact h1
protected theorem acceptAt {o k r} (hs : s.Canonical) : (acceptAt s o k r).Canonical := by
  unfold acceptAt
  split
  · exact hs
  · split
    · exact hs.gotWrite.setRemote.programAnswered
    · exact hs.setRemote.ite hs.splitTold
protected theorem refuseAt {o k r st} (hs : s.Canonical) : (refuseAt s o k r st).Canonical := by
  unfold refuseAt
  split
  · exact hs
  · split
    · exact hs.setRemote.programAnswered
    · exact hs.vcpRefused.ite hs.splitTold
protected theorem completeAt {o k r data} (hs : s.Canonical) : (completeAt s o k r data).Canonical := by
  unfold completeAt
  split
  · exact hs
  · split
    · exact hs.programComplete
    · exact hs.packetComplete
    · exact hs.runComplete
    · exact hs.dropRemote.ite hs.splitComplete
protected theorem atRequest {req k f} (hs : s.Canonical) (hf : ∀ {x y}, (f x y).Canonical) : (atRequest s req k f).Canonical := by
  unfold atRequest
  split
  · split
    · exact hf
    · exact hs
  · exact hs
protected theorem execRemoteAnswer {req a} (hs : s.Canonical) : CanonicalOutcome (execRemoteAnswer req a s) := by
  unfold execRemoteAnswer
  refine .next ?_
  split
  · exact hs.atRequest hs.acceptAt
  · exact hs.atRequest hs.refuseAt
  · exact hs.atRequest hs.completeAt
protected theorem timeoutAt {req k} (hs : s.Canonical) : (timeoutAt s req k).Canonical := hs.atRequest (hs.refuseAt.ite hs)
protected theorem execRemtimeout {req} (hs : s.Canonical) : CanonicalOutcome (execRemtimeout req s) := by
  unfold execRemtimeout
  refine .next ?_
  split
  · exact hs.foldl (fun h => h.timeoutAt)
  · exact hs

/-! ### Gangs -/

protected theorem putUnit {part c addr v bad release} (hs : s.Canonical) : (putUnit s part c addr v bad release).Canonical := by
  unfold putUnit
  split <;> rename_i heq
  · have h1 := hs.globalCheck.of heq
    extract_lets s2 s3
    have h2 : s2.Canonical := h1.softWrite.touch.coverPoison
    have h3 : s3.Canonical := h2.setPoison.ite h2
    exact h3.deposit.ite h3.endSequence
  · exact (hs.globalCheck.of heq).vcpRequest.state
  · exact hs.globalCheck.of heq
protected theorem copyUnit {part k i} (hs : s.Canonical) : (copyUnit part k s i).Canonical := by
  unfold copyUnit
  extract_lets
  split <;> rename_i heq
  · exact (hs.globalCheck.of heq).putUnit
  · exact hs.globalCheck.of heq
protected theorem flushOver {part k} (hs : s.Canonical) : (flushOver s part k).Canonical := .homeWrite { hs with }
protected theorem flushRest {part k h} (hs : s.Canonical) :
    (flushRest s part k h).Canonical := hs.putUnit.flushOver.ite { hs.putUnit with }
protected theorem flushEntry {part k} (hs : s.Canonical) : (flushEntry s part k).Canonical := by
  unfold flushEntry
  extract_lets _ s1
  have h1 : s1.Canonical := hs.foldl (fun h => h.copyUnit)
  clear_value s1
  exact h1.flushRest.ite { h1 with }
protected theorem flushAgain {x} (hs : s.Canonical) : (flushAgain s x).Canonical := hs.ite (hs.flushOver.ite hs.flushRest)
protected theorem execDeadlineFlush {part entry} (hs : s.Canonical) : CanonicalOutcome (execDeadlineFlush part entry s) := by
  unfold execDeadlineFlush
  refine .next ?_
  split
  · exact hs.flushAgain
  · exact hs.flushEntry.ite hs
protected theorem killProgram {r p} (hs : s.Canonical) : (killProgram s r p).Canonical := by
  unfold killProgram
  split
  · exact hs.finishProgram
  · exact hs.dropFault.endProgram
  · exact hs
  · exact hs.endProgram
protected theorem killPrograms {grid} (hs : s.Canonical) : (killPrograms s grid).Canonical := hs.foldl (fun h => h.killProgram)
protected theorem killGrid {r} (hs : s.Canonical) : (killGrid s r).Canonical := by
  unfold killGrid
  extract_lets s1 s2 s3
  have h1 : s1.Canonical := hs.killPrograms
  have h2 : s2.Canonical := h1.foldl (fun h => h.retireGroup)
  have h3 : s3.Canonical := { h2 with }
  exact h3.removeGrid.completePacket
protected theorem giveUp {uid slot} (hs : s.Canonical) : (giveUp s uid slot).Canonical :=
  .foldl (.modSplit { hs with }) (fun h => h.flightDone)
protected theorem strikeSplit {uid sub x} (hs : s.Canonical) : (strikeSplit s uid sub x).Canonical := by
  unfold strikeSplit
  split
  · exact hs.modSplit
  · exact hs.modSplit
  · exact hs.modSplit
  · exact hs.modSplit.ite hs.giveUp.modSplit
  · exact hs.modSplit
protected theorem strikeGroup {sub uid} (hs : s.Canonical) : (strikeGroup sub s uid).Canonical := by
  unfold strikeGroup
  split
  · exact hs.foldl (fun h => h.strikeSplit)
  · exact hs
protected theorem poisonPlist {part g j} (hs : s.Canonical) : (poisonPlist part g s j).Canonical := by
  unfold poisonPlist
  split <;> rename_i heq
  · exact (hs.vcpLoad.of heq).vcpWrite.state
  · exact hs.vcpLoad.of heq
protected theorem sendNotice {part g j} (hs : s.Canonical) : (sendNotice part g s j).Canonical := by
  unfold sendNotice
  split <;> rename_i heq
  · have h1 := hs.vcpLoad.of heq
    exact h1.say.ite h1
  · exact hs.vcpLoad.of heq
protected theorem failGang {part g notice} (hs : s.Canonical) : (failGang s part g notice).Canonical := by
  unfold failGang
  extract_lets s1 s2 s3 s4 s5
  have h1 : s1.Canonical := hs.kilnStore
  have h2 : s2.Canonical := h1.modPart
  have h3 : s3.Canonical := h2.foldl (fun h => h.poisonPlist)
  have h4 : s4.Canonical := h3.ite (h3.foldl (fun h => h.sendNotice))
  have h5 : s5.Canonical := h4.postEvent
  exact h5.foldl (fun h => h.strikeGroup)
protected theorem failMember {r} (hs : s.Canonical) : (failMember s r).Canonical := by
  unfold failMember
  split
  · exact hs.killGrid.failGang
  · exact hs
protected theorem execGangNotice {name} (hs : s.Canonical) : CanonicalOutcome (execGangNotice name s) :=
  .next ((hs.foldl (fun h1 => h1.foldl (fun h => h.failGang))).ite hs)

/-! ### Reset, monitors and errors -/

protected theorem execPowerUp {rail} (hs : s.Canonical) : CanonicalOutcome (execPowerUp rail s) := .next (.ite { hs with } hs)
protected theorem keepOver {hbm} (hx : Memory.wf hbm = true) : (keepOver s hbm).Canonical := { State.Canonical.reset with hbm := hx }
protected theorem startFirmware (hs : s.Canonical) : (startFirmware s).Canonical := { hs with }
protected theorem execResetRelease (hs : s.Canonical) : CanonicalOutcome (execResetRelease s) := by
  have hk : (keepOver s s.hbm).Canonical := .keepOver hs.hbm
  exact .next (hs.ite (hk.startFirmware.ite { hk with }))
protected theorem execProvisioningImage {img fromPort} (hs : s.Canonical) : CanonicalOutcome (execProvisioningImage img fromPort s) :=
  .next (.ite { hs with } hs)
protected theorem execPowerLoss {partWritten} (_ : s.Canonical) : CanonicalOutcome (execPowerLoss partWritten s) := by
  have hk : (keepOver s []).Canonical := .keepOver rfl
  exact .next { hk with }
protected theorem execI3cRead {what} (hs : s.Canonical) : CanonicalOutcome (execI3cRead what s) := by
  unfold execI3cRead
  refine .next ?_
  split
  · exact { hs with }
  · exact { hs with }
  · exact { hs.takeFree with }
protected theorem execI3cCcc {_code} (hs : s.Canonical) : CanonicalOutcome (execI3cCcc _code s) := .next hs
protected theorem rasWrite {p lasting} (hs : s.Canonical) : (rasWrite s p lasting).Canonical := by
  unfold rasWrite
  extract_lets +onlyGivenNames _ _
  split
  · exact { hs with }
  · extract_lets _ s1 s2 s3 s4
    have h1 : s1.Canonical := hs.kilnStore
    have h2 : s2.Canonical := h1.kilnStore
    have h3 : s3.Canonical := h2.kilnStore
    have h4 : s4.Canonical := h3.kilnStore
    clear_value s1 s2 s3 s4
    exact { h4 with }
protected theorem rasLog {p lasting} (hs : s.Canonical) : (rasLog s p lasting).Canonical := by
  unfold rasLog
  split
  · exact .kilnStore { hs with }
  · exact hs.rasWrite
protected theorem lostLine {core line} (hs : s.Canonical) : (lostLine s core line).Canonical := by
  unfold lostLine
  split
  · exact hs
  · extract_lets s1 s2
    have h1 : s1.Canonical := hs.flushLine
    have h2 : s2.Canonical := h1.ite h1.setPoison
    exact h2.ite h2.setPoison
protected theorem lostAcc {team half off} (hs : s.Canonical) : (lostAcc s team half off).Canonical := by
  unfold lostAcc
  refine { hs with acc := ?_ }
  dsimp only
  exact memWriteBytes_wf _ _ _ hs.acc
protected theorem errorEffect {e} (hs : s.Canonical) : (errorEffect s e).Canonical := by
  unfold errorEffect
  split
  · exact hs.setPoison.ite hs
  · exact hs.setPoison.ite hs
  · exact hs.setPoison.ite hs
  · exact hs.setPoison.ite hs
  · exact hs.setPoison.ite hs
  · exact hs.lostLine
  · exact hs.dropLine
  · exact hs.dropLine
  · split
    · exact hs.setPoison.ite hs
    · exact hs
  · split
    · exact hs.lostAcc.ite hs
    · exact hs
  · exact hs.modTun
  · exact hs.retireGroup.ite hs
  · exact hs
  · exact hs
protected theorem execErrorRetry {e lasting} (hs : s.Canonical) : CanonicalOutcome (execErrorRetry e lasting s) := by
  refine .next (.ite hs ?_)
  extract_lets _ s1
  have h1 : s1.Canonical := hs.rasLog
  refine h1.ite (h1.errorEffect.foldl fun h => ?_)
  split
  · exact h.failMember
  · exact h
protected theorem monitorStop {die} (hs : s.Canonical) : (monitorStop s die).Canonical := by
  unfold monitorStop
  extract_lets t b
  have ht : t.Canonical := hs.rasWrite
  clear_value t b
  have hk : (keepOver t (if b = 0 then [] else memMove [] b t.hbm b 32768)).Canonical := by
    refine .keepOver ?_
    split
    · rfl
    · exact memMove_wf _ _ _ _ _ rfl ht.hbm
  exact { hk with }
protected theorem firmwareSets {r} (hs : s.Canonical) : (firmwareSets s r).Canonical := { hs with }
protected theorem execMonitorPoll {die r} (hs : s.Canonical) : CanonicalOutcome (execMonitorPoll die r s) := by
  unfold execMonitorPoll
  refine .next ?_
  split
  · exact hs
  · extract_lets s1
    have h1 : s1.Canonical := .firmwareSets { hs with }
    clear_value s1
    exact h1.monitorStop.ite { h1 with }
protected theorem execAttreq {v} (hs : s.Canonical) : CanonicalOutcome (execAttreq v s) := .next (hs.ite hs.kilnStore)

/-! ### Issue -/

protected theorem takePending {g sp c} (hs : s.Canonical) : (takePending s g sp c).Canonical := by
  unfold takePending
  split
  · exact hs.parkHandler
  · exact hs.deliver
protected theorem fetchInstr {g sp} (hs : s.Canonical) : (fetchInstr s g sp).1.Canonical := by
  unfold fetchInstr
  extract_lets
  split
  · exact hs
  · split <;> rename_i heq
    · exact hs.fetchWord.of heq
    · have h1 := hs.fetchWord.of heq
      split
      · exact h1
      · split <;> rename_i heq
        · exact h1.fetchWord.of heq
        · have h2 := h1.fetchWord.of heq
          split <;> rename_i heq <;> exact h2.fetchWord.of heq
protected theorem openWords {ws} (hs : s.Canonical) : (openWords s ws).1.Canonical :=
  foldl_keeps (P := fun m : State × List Word => m.1.Canonical) hs (fun h => h.takeFree)
protected theorem illegalIssue {g sp ws} (hs : s.Canonical) : (illegalIssue s g sp ws).Canonical := by
  unfold illegalIssue
  extract_lets
  split
  · exact hs.finishRunOn.ite hs.raise
  · exact hs.parkAt.ite hs.raise
protected theorem wordsAt {g sp} (hs : s.Canonical) : (wordsAt s g sp).1.Canonical := by
  unfold wordsAt
  split <;> rename_i heq
  · exact hs.fetchInstr.of heq
  · exact (hs.fetchInstr.of heq).openWords
protected theorem causeAtIssue {g sp} (hs : s.Canonical) : (causeAtIssue s g sp).1.Canonical := by
  unfold causeAtIssue
  split
  · exact hs
  · split
    · exact hs
    · split
      · exact hs.wordsAt
      · split <;> exact hs
protected theorem issueSplit {r} (hs : s.Canonical) : (issueSplit s r).1.Canonical := by
  unfold issueSplit
  split
  · exact hs
  · split
    · exact hs
    · extract_lets _ _ s1
      have h1 : s1.Canonical := hs.setGroup
      clear_value s1
      split <;> rename_i heq
      · exact (h1.causeAtIssue.of heq).takePending
      · have h2 := h1.causeAtIssue.of heq
        split <;> rename_i heq
        · exact (h2.fetchInstr.of heq).openWords.raise
        · have h3 := h2.fetchInstr.of heq
          split
          · exact h3.illegalIssue
          · exact { h3 with }

/-! ### Events -/

protected theorem execVariableLatencyResult {sp op lanes} (hs : s.Canonical) :
    CanonicalOutcome (execVariableLatencyResult sp op lanes s) := by
  unfold execVariableLatencyResult
  refine .next ?_
  split
  · exact hs.setGroup.ite hs
  · exact hs
protected theorem execOperationCompletion {group path} (hs : s.Canonical) : CanonicalOutcome (execOperationCompletion group path s) := by
  unfold execOperationCompletion
  refine .next ?_
  split
  · exact hs.setGroup.ite hs
  · exact hs
protected theorem entryAt {r meant} (hs : s.Canonical) : (entryAt r meant s).Canonical := by
  unfold entryAt
  split
  · exact hs
  · split
    · exact hs
    · extract_lets
      split
      · exact hs
      · rename_i heq
        exact (hs.causeAtIssue.of heq).setGroup.takePending.ite hs
protected theorem execUserTrapEntry {sp} (hs : s.Canonical) : CanonicalOutcome (execUserTrapEntry sp s) := .next hs.entryAt
protected theorem execSupervisorTrapEntry {sp} (hs : s.Canonical) : CanonicalOutcome (execSupervisorTrapEntry sp s) := .next hs.entryAt
protected theorem execEscalation {sp} (hs : s.Canonical) : CanonicalOutcome (execEscalation sp s) := .next hs.entryAt
protected theorem execTimerDue {group} (hs : s.Canonical) : CanonicalOutcome (execTimerDue group s) := .next hs.modGroup
protected theorem execSleepWake {sp} (hs : s.Canonical) : CanonicalOutcome (execSleepWake sp s) := by
  unfold execSleepWake
  refine .next ?_
  split
  · split
    · exact hs.setSplit.ite hs
    · exact hs
  · exact hs
protected theorem execWake {part v} (hs : s.Canonical) : CanonicalOutcome (execWake part v s) := .next { hs with }
protected theorem wakeSplit {g sp} (hs : s.Canonical) : (wakeSplit s g sp).Canonical := by
  unfold wakeSplit
  split
  · exact hs.setSplit.ite hs
  · exact hs.setSplit.ite hs
  · exact hs.joinCheck
  · exact hs.barCheck
  · exact hs.waitcDone.ite hs
  · exact hs.setSplit.ite hs
  · exact hs.ite hs.setSplit
  · exact hs.ite hs.setSplit
  · exact hs
protected theorem execSplitWake {sp} (hs : s.Canonical) : CanonicalOutcome (execSplitWake sp s) := by
  unfold execSplitWake
  refine .next ?_
  split
  · exact hs.wakeSplit.ite hs
  · exact hs
protected theorem execWaitphReread {sp} (hs : s.Canonical) : CanonicalOutcome (execWaitphReread sp s) := by
  unfold execWaitphReread
  refine .next ?_
  split
  · split
    · exact hs.waitphAgain.ite hs
    · exact hs
  · exact hs
protected theorem execRawaitClaim {sp} (hs : s.Canonical) : CanonicalOutcome (execRawaitClaim sp s) := by
  unfold execRawaitClaim
  refine .next ?_
  split
  · split
    · exact hs.rawaitGo.ite hs
    · exact hs
  · exact hs
protected theorem execPriorityAging {sp} (hs : s.Canonical) : CanonicalOutcome (execPriorityAging sp s) := by
  unfold execPriorityAging
  refine .next ?_
  split
  · exact hs.setSplit.ite hs
  · exact hs
protected theorem execBudgetPeriod {cluster} (hs : s.Canonical) : CanonicalOutcome (execBudgetPeriod cluster s) :=
  .next (.ite { hs with } hs)
protected theorem execMatrixWaitLimit {core} (hs : s.Canonical) : CanonicalOutcome (execMatrixWaitLimit core s) := by
  unfold execMatrixWaitLimit
  refine .next ?_
  split
  · exact hs.modSplit
  · exact hs

/-! ### Lauter instructions -/

protected theorem lauterWrite {i f v} (hs : s.Canonical) : CanonicalOutcome (lauterWrite i f v s) := hs.asProgram (fun h => h.progNext)
protected theorem lauterBranch {i f c} (hs : s.Canonical) : CanonicalOutcome (lauterBranch i f c s) :=
  hs.asProgram (fun h1 => h1.setHead.ite h1.progNext)
protected theorem execLauterJmp {f} (hs : s.Canonical) : CanonicalOutcome (execLauterJmp f s) := hs.asProgram (fun h => h.setHead)
protected theorem execLauterLoop {f} (hs : s.Canonical) : CanonicalOutcome (execLauterLoop f s) :=
  hs.asProgram (fun h1 => h1.setHead.ite (h1.faultProgram.ite h1.setHead))
protected theorem engLoad {a o va n q} (hs : s.Canonical) : (engLoad s a o va n q).s.Canonical := by
  unfold engLoad
  split
  · split
    · exact hs.loadPlace
    · split
      · exact hs
      · exact hs.readSide
  · extract_lets
    split
    · exact hs.loadPlace
    · split
      · exact hs
      · exact hs.readSide
  · exact hs.loadPlace
protected theorem progLoad {p o space addr n} (hs : s.Canonical) : (progLoad s p o space addr n).1.Canonical := by
  unfold progLoad
  split <;> rename_i heq
  · exact hs.place.of heq
  · exact hs.place.of heq
  · exact (hs.place.of heq).engLoad
protected theorem progSend {r p ls o whole insn} (hs : s.Canonical) : (progSend s r p ls o whole insn).Canonical :=
  hs.ite hs.fresh.sendFrom.setHead
protected theorem execLauterLdx {f} (hs : s.Canonical) : CanonicalOutcome (execLauterLdx f s) := by
  refine hs.asProgram fun {s r p} hs => .ite hs ?_
  split <;> rename_i heq
  · exact (hs.progLoad.of heq).faultProgram
  · exact (hs.progLoad.of heq).progSend
  · exact (hs.progLoad.of heq).progNext
protected theorem execLauterStx {f} (hs : s.Canonical) : CanonicalOutcome (execLauterStx f s) := by
  refine hs.asProgram fun {s r p} hs => ?_
  extract_lets
  refine .ite hs ?_
  split <;> rename_i heq
  · exact (hs.place.of heq).faultProgram
  · have h1 := hs.place.of heq
    split
    · exact h1.progNext.ite h1.progSend
    · exact h1.faultProgram
  · have h1 := hs.place.of heq
    split <;> rename_i heq
    · exact (h1.storePlace.of heq).faultProgram
    · exact (h1.storePlace.of heq).progNext
protected theorem execLauterDset {f} (hs : s.Canonical) : CanonicalOutcome (execLauterDset f s) := by
  refine hs.asProgram fun {s r p} hs => ?_
  split <;> rename_i heq
  · exact (hs.progLoad.of heq).faultProgram
  · exact (hs.progLoad.of heq).progSend
  · have h1 := hs.progLoad.of heq
    exact h1.faultProgram.ite h1.progNext
protected theorem execLauterDidx {f} (hs : s.Canonical) : CanonicalOutcome (execLauterDidx f s) :=
  hs.asProgram (fun h1 => h1.faultProgram.ite (h1.faultProgram.ite h1.progNext))
protected theorem execLauterDstep {f} (hs : s.Canonical) : CanonicalOutcome (execLauterDstep f s) :=
  hs.asProgram (fun h1 => h1.faultProgram.ite h1.progNext)
protected theorem execLauterFill {f} (hs : s.Canonical) : CanonicalOutcome (execLauterFill f s) := by
  refine hs.asProgram fun {s r p} hs => .ite hs ?_
  split
  · exact hs.faultProgram
  · exact hs.rmwAt.faultProgram.ite hs.rmwAt.progNext
protected theorem execLauterArrv {f} (hs : s.Canonical) : CanonicalOutcome (execLauterArrv f s) := by
  refine hs.asProgram fun {s r p} hs => .ite hs ?_
  split <;> rename_i heq
  · exact (hs.place.of heq).faultProgram
  · have h1 := hs.place.of heq
    split
    · exact h1.faultProgram
    · exact h1.progSend
    · exact h1.progNext
  · have h1 := hs.place.of heq
    extract_lets x
    have hx : x.s.Canonical := h1.arrivePlace
    split
    · exact hx.faultProgram
    · exact hx.progNext
protected theorem waitbWord {r p f addr w ready wait} (hs : s.Canonical) (hready : ∀ {t x}, t.Canonical → (ready t x).Canonical)
    (hwait : ∀ {t}, t.Canonical → (wait t).Canonical) :
    (waitbWord s r p f addr w ready wait).Canonical :=
  hs.faultProgram.ite ((hready hs).ite (hwait hs))
protected theorem engineWord {a o l} (hs : s.Canonical) : (engineWord s a o l).1.Canonical := by
  unfold engineWord
  split
  · split
    · exact hs.homeValue
    · exact hs
  · exact hs
protected theorem waitbLook {i f r p0} (hs : s.Canonical) : (waitbLook i f s r p0).Canonical := by
  unfold waitbLook
  extract_lets
  split
  · exact hs
  · split
    · split
      · exact hs.faultProgram
      · exact hs.faultProgram.ite (hs.setHead.ite hs.readSide.progNext)
    · split <;> rename_i heq
      · exact (hs.place.of heq).faultProgram
      · have h1 := hs.place.of heq
        split
        · exact h1.faultProgram
        · exact h1.progSend
        · exact h1.waitbWord (fun h => h.progNext) (fun h => h.setHead)
      · have h4 := hs.place.of heq
        split
        · exact h4.faultProgram
        · exact h4.engineWord.waitbWord (fun h => h.readSide.progNext) (fun h => h.setHead)
protected theorem execLauterWaitb {f} (hs : s.Canonical) : CanonicalOutcome (execLauterWaitb f s) := hs.asProgram (fun h => h.waitbLook)
protected theorem execWaitbReread {eng} (hs : s.Canonical) : CanonicalOutcome (execWaitbReread eng s) := by
  unfold execWaitbReread
  refine .next ?_
  split
  · split
    · exact hs.waitbLook.ite hs
    · exact hs
  · exact hs
protected theorem execLauterFence {f} (hs : s.Canonical) : CanonicalOutcome (execLauterFence f s) :=
  hs.asProgram (fun h1 => h1.ite ((h1.applySig.progNext.ite h1.narrowAcquire.progNext).ite h1.progNext))
protected theorem execLauterAbort {f} (hs : s.Canonical) :
    CanonicalOutcome (execLauterAbort f s) := hs.asProgram (fun h => h.endProgram)
protected theorem execLauterEnd {f} (hs : s.Canonical) : CanonicalOutcome (execLauterEnd f s) := hs.asProgram (fun h => h.endProgram)

/-! ### Lauter moves -/

protected theorem elemPlace {p need e} (hs : s.Canonical) : (elemPlace s p need e).1.Canonical := by
  unfold elemPlace
  split
  · exact hs
  · split <;> rename_i heq
    · exact hs.place.of heq
    · have h1 := hs.place.of heq
      extract_lets
      split
      · exact h1
      · split <;> rename_i heq <;> exact h1.place.of heq
protected theorem moveScales {p va q} (hs : s.Canonical) : (moveScales s p va q).1.Canonical := by
  unfold moveScales
  split
  · exact hs.geometryScales
  · exact hs
protected theorem listScales {p space addr n} (hs : s.Canonical) : (listScales s p space addr n).1.Canonical := by
  unfold listScales
  split <;> rename_i heq
  · exact (hs.place.of heq).moveScales
  · exact hs.place.of heq
protected theorem rowEntry {p m k} (hs : s.Canonical) : (rowEntry s p m k).1.Canonical := by
  unfold rowEntry
  split
  · exact hs
  · extract_lets
    split <;> rename_i heq
    · exact hs.listScales.of heq
    · have h1 := hs.listScales.of heq
      split
      · rename_i heq
        exact h1.progLoad.of heq
      · exact h1.progLoad
protected theorem elemRead {p e} (hs : s.Canonical) : (elemRead s p e).1.Canonical := by
  unfold elemRead
  split <;> rename_i heq
  · exact hs.elemPlace.of heq
  · have h1 := hs.elemPlace.of heq
    split <;> rename_i heq
    · split at heq
      · exact h1.moveScales.of heq
      · cases heq
    · split at heq
      · split <;> exact h1.moveScales.of heq
      · obtain rfl := congrArg Prod.fst heq
        split <;> exact h1
  · have h1 := hs.elemPlace.of heq
    split <;> rename_i heq
    · exact h1.moveScales.of heq
    · exact (h1.moveScales.of heq).engLoad
protected theorem unitElem {p m} {u : UnitRun} {k} (hs : u.s.Canonical) : (unitElem p m u k).s.Canonical := by
  unfold unitElem
  split
  · exact hs
  · split <;> rename_i heq
    · exact hs.rowEntry.of heq
    · exact hs.rowEntry.of heq
    · have h1 := hs.rowEntry.of heq
      split <;> rename_i heq
      · exact h1.elemRead.of heq
      · exact h1.elemRead.of heq
      · have h2 := h1.elemRead.of heq
        extract_lets +onlyGivenNames _
        split <;> rename_i heq
        · exact h2.elemPlace.of heq
        · have h3 := h2.elemPlace.of heq
          extract_lets
          split <;> exact h3
protected theorem unitRun {p m u} (hs : s.Canonical) : (unitRun s p m u).s.Canonical :=
  foldl_keeps (P := fun m : UnitRun => m.s.Canonical) hs (fun h => h.unitElem)
protected theorem storeRuns {p xs} (hs : s.Canonical) : (storeRuns p xs s).1.Canonical := by
  induction xs generalizing s with
  | nil => exact hs
  | cons x xs ih =>
    unfold storeRuns
    split
    · exact ih hs
    · split <;> rename_i heq
      · exact hs.storePlace.of heq
      · have h1 := hs.storePlace.of heq
        refine ih ?_
        split
        · exact h1.coverPoison
        · exact h1
protected theorem refusedUnit {c x} (hs : s.Canonical) : (refusedUnit s c x).Canonical := by
  unfold refusedUnit
  split
  · exact hs.modTun.ite hs
  · exact hs
protected theorem reduceParts {p op tag ty xs} (hs : s.Canonical) : (reduceParts p op tag ty xs s).1.Canonical := by
  induction xs generalizing s with
  | nil => exact hs
  | cons x xs ih =>
    unfold reduceParts
    extract_lets _ _ r
    have hr : r.1.Canonical := hs.taggedReduce fun h => h.foldl fun h => h.rmwAt
    split
    · exact hr
    · exact ih hr
protected theorem unitDone {r p m fin} (hs : s.Canonical) : (unitDone s r p m fin).Canonical := hs.progNext.ite hs.setHead
protected theorem runMove {i f r p0 m fin} (hs : s.Canonical) : (runMove i f s r p0 m fin).Canonical := by
  unfold runMove
  extract_lets +onlyGivenNames _ _
  split
  · exact hs.progNext
  · extract_lets +onlyGivenNames s1
    have h1 : s1.s.Canonical := hs.unitRun
    split
    · exact h1.faultProgram
    · split
      · exact h1.progSend
      · split
        · extract_lets
          split
          · exact hs
          · split
            · exact h1.refusedUnit.faultProgram
            · rename_i heq
              exact (h1.storeRuns.of heq).unitDone.ite h1.progSend
        · extract_lets +onlyGivenNames _
          split
          · exact h1.faultProgram
          · extract_lets
            split
            · exact h1.progSend
            · split <;> rename_i heq
              · exact (h1.reduceParts.of heq).faultProgram
              · exact (h1.reduceParts.of heq).unitDone
protected theorem asMove {i f bad plan fin} (hs : s.Canonical) : CanonicalOutcome (asMove i f bad plan fin s) :=
  hs.asProgram (fun h1 => h1.faultProgram.ite h1.runMove)

/-! ### Populations -/

protected theorem failSplits {gs insn} (hs : s.Canonical) : (failSplits s gs insn).Canonical := by
  refine hs.foldl fun h => h.foldl fun h => ?_
  split
  · exact h.raise
  · exact h
protected theorem execRack {h f} (hs : s.Canonical) : CanonicalOutcome (execRack h f s) := by
  unfold execRack
  split
  · exact .fault
  · exact .next (hs.beforeEffect hs.parkAt)
protected theorem rackApply {gs pc k} (hs : s.Canonical) : (rackApply s gs pc k).Canonical := by
  unfold rackApply
  extract_lets _ s1 s2
  have h1 : s1.Canonical := hs.foldl (fun h => h.setGroup)
  have h2 : s2.Canonical := by
    unfold s2
    split
    · exact h1.modTeam
    · exact h1
  exact h2.foldl (fun h => h.groupCheck)
protected theorem rackCaches {team} (hs : s.Canonical) : (rackCaches s team).Canonical := by
  unfold rackCaches
  split
  · exact hs.flushCore.flushCore
  · exact hs
protected theorem rackDo {t} (hs : s.Canonical) : (rackDo s t).Canonical := by
  unfold rackDo
  split
  · exact hs
  · extract_lets
    split
    · exact hs.failSplits
    · split
      · exact hs.barrierFence.rackCaches.rackApply
      · exact hs
protected theorem execRackEffect {team} (hs : s.Canonical) : CanonicalOutcome (execRackEffect team s) := by
  unfold execRackEffect
  refine .next ?_
  split
  · exact hs.rackDo
  · exact hs
protected theorem execResamp {h f} (hs : s.Canonical) : CanonicalOutcome (execResamp h f s) := by
  unfold execResamp
  split
  · exact .fault
  · exact .next (hs.beforeEffect hs.parkAt)
protected theorem newGroup {r p t core unit} (hs : s.Canonical) : (newGroup s r p t core unit).1.Canonical := hs.modTeam.useUnit.addGroup
protected theorem newTeam {r p unit} (hs : s.Canonical) : (newTeam s r p unit).1.Canonical := by
  unfold newTeam
  extract_lets _ _ s1 s2 s3 _ s4
  have h1 : s1.2.Canonical := hs.fresh
  have h2 : s2.Canonical := h1.modGrid
  have h3 : s3.Canonical := h2.useUnit.ite h2
  have h4 : s4.Canonical := { h3 with }
  exact h4.addGroup.storeHeader
protected theorem newSpot {r p x} (hs : s.Canonical) (hx : newSpot s r p = some x) : x.1.Canonical := by
  unfold newSpot at hx
  split at hx <;> rename_i heq _
  · have h1 := hs.takeSlots.of heq
    obtain rfl := Option.some.inj hx
    split
    · exact h1.newGroup
    · exact h1.newTeam
  · cases hx
protected theorem sliceCopy {r src dst} (hs : s.Canonical) : (sliceCopy s r src dst).Canonical :=
  hs.foldl (fun h => h.sliceRead.sliceWrite)
protected theorem placeClone {o : Option State} {grid t rank j} (ho : CanonicalIfPlaced o) :
    CanonicalIfPlaced (placeClone o grid t rank j) := by
  intro u hu
  obtain ⟨s, hs, hu⟩ := Option.bind_eq_some_iff.1 hu
  have hs := ho s hs
  split at hu
  · obtain ⟨q, hq, rfl⟩ := Option.map_eq_some_iff.1 hu
    have hq : q.1.Canonical := by
      split at hq
      · obtain rfl := Option.some.inj hq
        exact hs
      · exact hs.newSpot hq
    extract_lets _ s1 _ s2
    have h1 : s1.Canonical := hq.ite hq.sliceCopy
    have h2 : s2.Canonical := h1.ite h1.applySig
    exact h2.modGroup
  · cases hu
protected theorem placeClones {grid ts} (hs : s.Canonical) : CanonicalIfPlaced (placeClones s grid ts) :=
  foldl_keeps (P := fun q : Option State × Nat => CanonicalIfPlaced q.1) (.some hs) fun h => foldl_keeps h fun h => .placeClone h
protected theorem renumber {ts} (hs : s.Canonical) : (renumber s ts).Canonical :=
  foldl_keeps (P := fun m : State × ℕ => m.1.Canonical) hs (fun h => h.modGroup)
protected theorem resampFence {gs} (hs : s.Canonical) : (resampFence s gs).Canonical :=
  hs.foldl (fun h1 => h1.foldl (fun h => h.applySig))
protected theorem resampResume {uid stat pc status} (hs : s.Canonical) : (resampResume s uid stat pc status).Canonical := by
  unfold resampResume
  split
  · exact hs
  · exact hs.fresh.setGroup.checkImage.storeImage.ite hs.fresh.setGroup
protected theorem resampFinish {r stats status} (hs : s.Canonical) : (resampFinish s r stats status).Canonical :=
  (hs.foldl (fun h1 => h1.ite h1.resampResume)).foldl (fun h => h.groupCheck)
protected theorem resampDo {r} (hs : s.Canonical) : (resampDo s r).Canonical := by
  refine .ite hs ?_
  extract_lets +onlyGivenNames _ _
  refine .ite hs.failSplits ?_
  extract_lets +onlyGivenNames _
  split
  · exact hs
  · extract_lets +onlyGivenNames s1 _ _ _ _
    have h1 : s1.Canonical := hs.resampFence
    refine .ite h1.resampFinish ?_
    extract_lets
    split <;> rename_i heq
    · exact hs.imageFault
    · exact (h1.renumber.placeClones _ heq).modGrid.resampFinish
protected theorem execResampEffect {grid} (hs : s.Canonical) : CanonicalOutcome (execResampEffect grid s) := by
  unfold execResampEffect
  refine .next ?_
  split
  · exact hs.resampDo
  · exact hs

/-! ### Every instruction -/

protected theorem exec {i} (hs : s.Canonical) : CanonicalOutcome (exec i s) := by
  unfold exec
  cases i with
  | nop | smov | sli | sshi | sadd | ssub | smul | smulh | sand | sor | sxor | sshl | sshr | ssra | smin | smax | scmp | klop | spopc |
    sclz => exact hs.uniformWrite
  | sld | sst => exact hs.uniAccess
  | srd => exact hs.execSrd
  | swr => exact hs.execSwr
  | jmp => exact hs.execJmp
  | call => exact hs.execCall
  | jr => exact hs.execJr
  | join => exact hs.execJoin
  | exit => exact hs.execExit
  | trap => exact hs.execTrap
  | syscall => exact hs.execSyscall
  | eret => exact hs.execEret
  | waitc => exact hs.execWaitc
  | bar => exact hs.execBar
  | yield => exact hs.execYield
  | sleep => exact hs.execSleep
  | dwb => exact hs.execDwb
  | dinv => exact hs.execDinv
  | icinv => exact hs.execIcinv
  | fetchb => exact hs.execFetchb
  | mov | land | lor | lxor | logt | shl | shr | sra | bfe | bfi | brev | sel => exact hs.laneResult
  | movi | popc | clz | icmp | idot4 | bsel | nlut | plop | ptov | vtop | fmin | fmax | fcmp | fclass | vsrd => exact hs.laneWrite
  | iadd | isub | imul | imulh | imad | imin | imax | iabs | ineg => exact hs.intResult
  | idiv | irem => exact hs.laneLater
  | fadd | fsub | fmul | ffma | fscale => exact hs.fpResult
  | fdiv | fsqrt => exact hs.fpLater
  | frcp | frsq | fex2 | flg2 | fsin | fcos | ftanh => exact hs.fpTranscend
  | fdot2 | frnd | cvt | cvpk | cvup | qcvt => exact hs.fpLane
  | hadd2 | hmul2 | hfma2 => exact hs.fpPair
  | qscl => exact hs.execQscl
  | vxch | samev => exact hs.crossLater
  | rdlane => exact hs.execRdlane
  | wrlane => exact hs.execWrlane
  | vote => exact hs.execVote
  | fold => exact hs.execFold
  | scan => exact hs.execScan
  | elect => exact hs.execElect
  | brd => exact hs.execBrd
  | lexit => exact hs.execLexit
  | ld => exact hs.execLd
  | st => exact hs.execSt
  | atom => exact hs.execAtom
  | acas => exact hs.execAcas
  | red => exact hs.execRed
  | redt => exact hs.execRedt
  | fence => exact hs.execFence
  | pref => exact hs.execPref
  | arrive => exact hs.execArrive
  | waitph => exact hs.execWaitph
  | rawait => exact hs.execRawait
  | rrel => exact hs.execRrel
  | qput => exact hs.execQput
  | qget => exact hs.execQget
  | mma => exact hs.execMma
  | mmas => exact hs.execMmas
  | aclr => exact hs.execAclr
  | ald => exact hs.execAld
  | ast => exact hs.execAst
  | asts => exact hs.execAsts
  | xqt => exact hs.execXqt
  | tinst => exact hs.execTinst
  | tfree => exact hs.execTfree
  | tdraw => exact hs.execTdraw
  | tstat => exact hs.execTstat
  | rack => exact hs.execRack
  | resamp => exact hs.execResamp
  | lxstart => exact hs.execLxstart
  | lxstat => exact hs.execLxstat
  | lxkill => exact hs.execLxkill
  | lauterLi | lauterLih | lauterMov | lauterAdd | lauterSub | lauterMul | lauterAnd | lauterOr | lauterXor | lauterShl | lauterShr |
    lauterAddi => exact hs.lauterWrite
  | lauterLdx => exact hs.execLauterLdx
  | lauterStx => exact hs.execLauterStx
  | lauterBeq | lauterBne | lauterBlt | lauterBge => exact hs.lauterBranch
  | lauterJmp => exact hs.execLauterJmp
  | lauterLoop => exact hs.execLauterLoop
  | lauterDset => exact hs.execLauterDset
  | lauterDidx => exact hs.execLauterDidx
  | lauterDstep => exact hs.execLauterDstep
  | lauterMovt | lauterGath | lauterScat | lauterMcst | lauterLred => exact hs.asMove
  | lauterFill => exact hs.execLauterFill
  | lauterArrv => exact hs.execLauterArrv
  | lauterWaitb => exact hs.execLauterWaitb
  | lauterFence => exact hs.execLauterFence
  | lauterAbort => exact hs.execLauterAbort
  | lauterEnd => exact hs.execLauterEnd
  | steepLdi => exact hs.execSteepLdi
  | steepMov | steepAdd | steepSub | steepAnd | steepOr | steepShl | steepShr => exact hs.steepAlu
  | steepLdpf => exact hs.execSteepLdpf
  | steepStpf => exact hs.execSteepStpf
  | steepLdw => exact hs.execSteepLdw
  | steepStw => exact hs.execSteepStw
  | steepBz => exact hs.execSteepBz
  | steepBnz => exact hs.execSteepBnz
  | steepLoop => exact hs.execSteepLoop
  | steepEmit => exact hs.execSteepEmit
  | steepWaitv => exact hs.execSteepWaitv
  | steepSignal => exact hs.execSteepSignal
  | steepDrop => exact hs.execSteepDrop
  | steepFaultq => exact hs.execSteepFaultq
  | steepEnd => exact hs.execSteepEnd
  | variableLatencyResult => exact hs.execVariableLatencyResult
  | operationCompletion => exact hs.execOperationCompletion
  | userTrapEntry => exact hs.execUserTrapEntry
  | supervisorTrapEntry => exact hs.execSupervisorTrapEntry
  | escalation => exact hs.execEscalation
  | timerDue => exact hs.execTimerDue
  | rackEffect => exact hs.execRackEffect
  | resampEffect => exact hs.execResampEffect
  | splitWake => exact hs.execSplitWake
  | priorityAging => exact hs.execPriorityAging
  | waitphReread => exact hs.execWaitphReread
  | rawaitClaim => exact hs.execRawaitClaim
  | tdrawServe => exact hs.execTdrawServe
  | tdrawTimeout => exact hs.execTdrawTimeout
  | sleepWake => exact hs.execSleepWake
  | tunFire => exact hs.execTunFire
  | fillTimeout => exact hs.execFillTimeout
  | installCompletion => exact hs.execInstallCompletion
  | lauterProgramStart => exact hs.execLauterProgramStart
  | waitbReread => exact hs.execWaitbReread
  | faultResume => exact hs.execFaultResume
  | faultAbort => exact hs.execFaultAbort
  | faultAbortAndPoison => exact hs.execFaultAbortAndPoison
  | cellarMove => exact hs.execCellarMove
  | taskEntryTake => exact hs.execTaskEntryTake
  | fillDelayExpiry => exact hs.execFillDelayExpiry
  | teamPlacement => exact hs.execTeamPlacement
  | gridRetirement => exact hs.execGridRetirement
  | budgetPeriod => exact hs.execBudgetPeriod
  | matrixWaitLimit => exact hs.execMatrixWaitLimit
  | monitorPoll => exact hs.execMonitorPoll
  | kick => exact hs.execKick
  | restart => exact hs.execRestart
  | skip => exact hs.execSkip
  | wake => exact hs.execWake
  | vcpPacketRead => exact hs.execVcpPacketRead
  | phaseReread => exact hs.execPhaseReread
  | stalePacket => exact hs.execStalePacket
  | launch => exact hs.execLaunch
  | bundle => exact hs.execBundle
  | lxrun => exact hs.execLxrun
  | waitmem => exact hs.execWaitmem
  | waitmemReread => exact hs.execWaitmemReread
  | waitmemTimeout => exact hs.execWaitmemTimeout
  | signal => exact hs.execSignal
  | graph => exact hs.execGraph
  | graphReplayStart => exact hs.execGraphReplayStart
  | patch => exact hs.execPatch
  | timestamp => exact hs.execTimestamp
  | reserve => exact hs.execReserve
  | reserveRelease => exact hs.execReserveRelease
  | tunopInstall => exact hs.execTunopInstall
  | tunopFree => exact hs.execTunopFree
  | saveq => exact hs.execSaveq
  | restq => exact hs.execRestq
  | packetCompletion => exact hs.execPacketCompletion
  | customPacket => exact hs.execCustomPacket
  | steepWaitvReread => exact hs.execSteepWaitvReread
  | steepWaitvTimeout => exact hs.execSteepWaitvTimeout
  | steepreq => exact hs.execSteepreq
  | steepLoad => exact hs.execSteepLoad
  | partitionEnable => exact hs.execPartitionEnable
  | partitionDestroy => exact hs.execPartitionDestroy
  | swapOut => exact hs.execSwapOut
  | swapIn => exact hs.execSwapIn
  | partitionStart => exact hs.execPartitionStart
  | waymaskWrite => exact hs.execWaymaskWrite
  | gctlResume => exact hs.execGctlResume
  | gctlRetire => exact hs.execGctlRetire
  | gctlEngineResume => exact hs.execGctlEngineResume
  | attreq => exact hs.execAttreq
  | registerWrite => exact hs.execRegisterWrite
  | hostWrite => exact hs.execHostWrite
  | hostRead => exact hs.execHostRead
  | doorbell => exact hs.execDoorbell
  | remoteRequest => exact hs.execRemoteRequest
  | remoteAnswer => exact hs.execRemoteAnswer
  | remtimeout => exact hs.execRemtimeout
  | deadlineFlush => exact hs.execDeadlineFlush
  | gangNotice => exact hs.execGangNotice
  | unreliablePacket => exact hs.execUnreliablePacket
  | errorRetry => exact hs.execErrorRetry
  | powerUp => exact hs.execPowerUp
  | resetRelease => exact hs.execResetRelease
  | provisioningImage => exact hs.execProvisioningImage
  | i3cRead => exact hs.execI3cRead
  | i3cCcc => exact hs.execI3cCcc
  | powerLoss => exact hs.execPowerLoss
  | secondStageTableWrite => exact hs.execSecondStageTableWrite

/-! ### The schedule of a cycle -/

protected theorem ran {o : Host.Outcome State Fault Refusal} (ho : CanonicalOutcome o) (hs : s.Canonical) : (ran o s).Canonical := by
  cases ho with
  | next h => exact h
  | fault => exact hs
  | refused => exact hs
protected theorem packetRow {p} (hs : s.Canonical) : (packetRow p s).Canonical := by
  unfold packetRow
  split
  · exact hs
  · split
    · exact hs.ran hs.execLaunch
    · exact hs.ran hs.execBundle
    · exact hs.ran hs.execLxrun
    · exact (hs.ran hs.execWaitmem).ite ((hs.ran hs.execWaitmemReread).ran (hs.ran hs.execWaitmemReread).execWaitmemTimeout)
    · exact hs.ran hs.execSignal
    · exact (hs.ran hs.execGraph).ran (hs.ran hs.execGraph).execGraphReplayStart
    · exact hs.ran hs.execPatch
    · exact hs.ran hs.execTimestamp
    · exact (hs.ran hs.execReserve).ite (hs.ran hs.execReserveRelease)
    · exact (hs.ran hs.execTunopInstall).ite (hs.ran hs.execTunopFree)
    · exact hs.ran hs.execSaveq
    · exact hs.ran hs.execRestq
    · exact hs.ran hs.execCustomPacket
protected theorem tickGroup {uid} (hs : s.Canonical) : (tickGroup s uid).Canonical := by
  unfold tickGroup
  extract_lets s1 s2
  have h1 : s1.Canonical := hs.modGroup
  have h2 : s2.Canonical := h1.ran h1.execTimerDue
  split
  · exact h2
  · refine h2.foldl fun h => ?_
    extract_lets _ s3 s4 s5 s6
    have h3 : s3.Canonical := h.ran h.execSplitWake
    have h4 : s4.Canonical := h3.ran h3.execSleepWake
    have h5 : s5.Canonical := h4.ran h4.execWaitphReread
    have h6 : s6.Canonical := h5.ran h5.execRawaitClaim
    exact h6.ran h6.execPriorityAging
protected theorem tickGroups (hs : s.Canonical) : (tickGroups s).Canonical := hs.foldl (fun h => h.tickGroup)
protected theorem tickTeams (hs : s.Canonical) : (tickTeams s).Canonical := hs.foldl (fun h1 => h1.ran h1.execRackEffect)
protected theorem tickTun {n} (hs : s.Canonical) : (tickTun s n).Canonical := by
  unfold tickTun
  extract_lets s1
  have h1 : s1.Canonical := hs.ran hs.execInstallCompletion
  split
  · exact h1
  · exact h1.foldl (fun h2 => (h2.ran h2.execTunFire).ran (h2.ran h2.execTunFire).execFillTimeout)
protected theorem tickTuns (hs : s.Canonical) : (tickTuns s).Canonical := by
  unfold tickTuns
  extract_lets s1
  have h1 : s1.Canonical := hs.foldl (fun h => h.tickTun)
  exact h1.foldl (fun h => h.drawTry)
protected theorem tickEngine {r} (hs : s.Canonical) : (tickEngine s r).Canonical := by
  unfold tickEngine
  extract_lets s1 s2 s3 s4 s5
  have h1 : s1.Canonical := hs.ran hs.execLauterProgramStart
  have h2 : s2.Canonical := h1.ran h1.execWaitbReread
  have h3 : s3.Canonical := h2.ran h2.execFaultResume
  have h4 : s4.Canonical := h3.ran h3.execFaultAbort
  have h5 : s5.Canonical := h4.ran h4.execFaultAbortAndPoison
  exact h5.endingAgain
protected theorem tickEngines (hs : s.Canonical) : (tickEngines s).Canonical := hs.foldl (fun h => h.tickEngine)
protected theorem tickQueue {q} (hs : s.Canonical) : (tickQueue s q).Canonical := by
  unfold tickQueue
  extract_lets s1 s2
  have h1 : s1.Canonical := hs.ran hs.execStalePacket
  have h2 : s2.Canonical := h1.ran h1.execPhaseReread
  exact h2.ran h2.execVcpPacketRead
protected theorem tickVcps (hs : s.Canonical) : (tickVcps s).Canonical := by
  unfold tickVcps
  extract_lets s1 s2 s3 s4
  have h1 : s1.Canonical := hs.foldl (fun h => h.tickQueue)
  have h2 : s2.Canonical := h1.foldl (fun h => h.packetRow)
  have h3 : s3.Canonical := h2.foldl (fun h7 => h7.ran h7.execPacketCompletion)
  have h4 : s4.Canonical := h3.foldl (fun h8 => (h8.ran h8.execSteepWaitvReread).ran (h8.ran h8.execSteepWaitvReread).execSteepWaitvTimeout)
  exact h4.ran h4.execSteepLoad
protected theorem tickGrid {uid} (hs : s.Canonical) : (tickGrid s uid).Canonical := by
  unfold tickGrid
  split
  · exact hs
  · extract_lets s1 s2 s3 s4
    have h1 : s1.Canonical := hs.foldl (fun h5 => h5.ran h5.execTaskEntryTake)
    have h2 : s2.Canonical := h1.foldl (fun h6 => h6.ran h6.execFillDelayExpiry)
    have h3 : s3.Canonical := h2.ran h2.execTeamPlacement
    have h4 : s4.Canonical := h3.ran h3.execResampEffect
    exact h4.ran h4.execGridRetirement
protected theorem tickGrids (hs : s.Canonical) : (tickGrids s).Canonical := by
  unfold tickGrids
  extract_lets s1
  have h1 : s1.Canonical := hs.foldl (fun h2 => h2.ran h2.execCellarMove)
  exact h1.foldl (fun h => h.tickGrid)
protected theorem tickSwaps (hs : s.Canonical) : (tickSwaps s).Canonical :=
  hs.foldl (fun h1 => (h1.ran h1.execSwapOut).ite ((h1.ran h1.execSwapIn).ite h1))
protected theorem tickRest (hs : s.Canonical) : (tickRest s).Canonical := by
  unfold tickRest
  extract_lets s1 s2 s3 s4
  have h1 : s1.Canonical := hs.s2Again
  have h2 : s2.Canonical := (h1.foldl (fun h5 => h5.ran h5.execRemtimeout)).reaskAll
  have h3 : s3.Canonical := h2.foldl (fun h6 => h6.ite (h6.foldl (fun h7 => h7.ran h7.execDeadlineFlush)))
  have h4 : s4.Canonical := (h3.foldl (fun h8 => h8.ran h8.execBudgetPeriod)).ite h3
  exact h4.foldl (fun h9 => h9.ran h9.execMatrixWaitLimit)
protected theorem tick (hs : s.Canonical) : (tick s).Canonical :=
  hs.tickGroups.tickTeams.tickTuns.tickEngines.tickVcps.tickGrids.tickSwaps.tickRest.ite hs
protected theorem beginCycle (hs : s.Canonical) : (beginCycle s).Canonical := { hs with }
protected theorem settleVeils {i} (hs : s.Canonical) : (settleVeils i s).Canonical := by
  unfold settleVeils
  split
  · exact hs
  · split
    · exact { hs with }
    · split
      · exact hs
      · exact { hs with }
protected theorem addVeil {r lane l n} (hs : s.Canonical) : (addVeil s r lane l n).Canonical := by
  unfold addVeil
  split
  · exact { hs with }
  · exact { hs with }
  · exact hs
protected theorem prefetchWord {r addr} (hs : s.Canonical) : (prefetchWord s r addr).Canonical := by
  unfold prefetchWord
  split
  · exact hs
  · split
    · exact hs
    · split
      · rename_i heq
        exact (hs.fetchWord.of heq).modSplit
      · exact hs
protected theorem perform {a} (hs : s.Canonical) : (perform a s).1.Canonical := by
  unfold perform
  split
  · exact hs.issueSplit
  · exact hs.issueEngine
  · exact hs.issueSteep
  · exact { hs with }
  · exact hs.packetRow
  · exact hs.flushLine.ite hs.dropLine
  · exact { hs with }
  · exact hs.prefetchWord
  · exact hs.drawProper
  · exact hs.fillWritten
  · exact hs.dropRemoteSource
  · exact hs.remoteWaiter
  · exact hs.addVeil
protected theorem performSeen {a} (hs : s.Canonical) : (performSeen a s).1.Canonical := by
  have h1 : (if s.veils.isEmpty || a.keepsVeils then s else { s with veils := [] }).Canonical := .ite hs { hs with }
  unfold performSeen
  split <;> rename_i heq
  · exact (h1.perform.of heq).settleVeils
  · exact h1.perform.of heq
protected theorem prepare (hs : s.Canonical) : (prepare s).1.Canonical := by
  unfold prepare
  split
  · exact .performSeen { hs with }
  · split
    · exact .performSeen { hs with }
    · extract_lets s1
      have h1 : s1.Canonical := .beginCycle (.tick { hs with })
      clear_value s1
      split
      · exact .performSeen { h1 with }
      · exact h1

/-! ### The step -/

protected theorem step (hs : s.Canonical) : CanonicalOutcome (step s) := by
  unfold step
  split <;> rename_i heq
  · exact (hs.prepare.of heq).exec
  · exact .next (hs.prepare.of heq)

end State.Canonical

/-- Settles O60: every operation that a step is made of keeps the memories canonical, down to the writes that `Laws/Memory` speaks of. -/
theorem stepsKeepMemoriesCanonical : Obligations.StepsKeepMemoriesCanonical := by
  intro s t hs hstep
  have ht := ((memoriesWf_iff s).1 hs).step
  rw [hstep] at ht
  cases ht with
  | next h => exact (memoriesWf_iff t).2 h
end Sys2Proof.Machine
end

section
/-! PROOFS. What the machine holds at reset (O58): the initial state lists nothing but blank registers, windows and partitions, so every
reading of it is blank, whether its place is listed or not. -/

namespace Sys2Proof.Machine

/-! ### Lists and memories that hold only blanks -/

/-- A list of blanks reads blank inside and past its end. -/
theorem getD_replicate_blank {α : Type} (d : α) (n i : Nat) : (List.replicate n d).getD i d = d :=
  (List.getD_eq_getElem?_getD ..).trans (List.getElem?_getD_replicate_default_eq d n i)
@[simp] theorem memRead_nil (a : Nat) : memRead [] a = 0 := rfl
@[simp] theorem memReadNat_nil (a n : Nat) : memReadNat [] a n = 0 := by
  induction n generalizing a with
  | zero => rfl
  | succ n ih => simp [memReadNat, ih]

/-! ### Partitions at reset -/

theorem part_reset (p : Nat) : State.reset.part p = {} := getD_replicate_blank ({} : Partition) 16 p
/-- R385: every quadword of the partition block is zero. -/
theorem reg_reset (p off : Nat) : (State.reset.part p).reg off = 0 := by
  rw [part_reset]
  exact getD_replicate_blank 0 19 (off / 8)
/-- R331: every register of the device-register page is zero. -/
theorem devReg_reset (p off : Nat) : (State.reset.part p).devReg off = 0 := by
  rw [part_reset]
  exact congrArg dw (memReadNat_nil off 8)
/-- R328: every port's mailbox window is zero, and so not enabled. -/
theorem mailbox_reset (p port : Nat) : State.reset.mailbox p port = {} := by
  rw [State.mailbox, part_reset]
  exact getD_replicate_blank ({} : Mailbox) 8 port

/-! ### The state at reset -/

/-- Settles O58: the fields stand in the initial state as stated, its memories are canonical by O60's lemma, and each family of
readings is blank by its lemma above. -/
theorem resetLeavesTheStatedValues : Obligations.ResetLeavesTheStatedValues := by
  have hmem : State.reset.memoriesWf = true := (memoriesWf_iff _).2 .reset
  have hread (a : Nat) : memRead State.reset.hbm a = 0 ∧ memRead State.reset.scratch a = 0 ∧ memRead State.reset.dieScratch a = 0 ∧
      memRead State.reset.acc a = 0 := ⟨memRead_nil a, memRead_nil a, memRead_nil a, memRead_nil a⟩
  exact ⟨hmem, rfl, rfl, rfl, rfl, rfl, rfl, rfl, rfl, rfl, rfl, rfl, rfl, rfl, ⟨rfl, rfl, rfl, rfl, rfl, rfl, rfl⟩,
    fun p off => ⟨reg_reset p off, devReg_reset p off⟩, mailbox_reset, hread⟩

end Sys2Proof.Machine
end

section
/-! PROOFS. Divergent branches (O7). -/

namespace Sys2Proof.Machine

/-! ### Instructions that leave one split changed -/

/-- An instruction that puts one split of its group in place of the executing one answers a state in which nothing else has changed. -/
theorem setSplit_spec {s : State} {g g' : Group} {sp sp' : Split} (hg : s.group? g.uid = some g) (hs : g.split? sp.slot = some sp)
    (hu : g'.uid = g.uid) (hsp : g'.splits = g.splits) (hk : sp'.slot = sp.slot) :
    OnlyGroup s (s.setGroup (g'.setSplit sp')) g (g'.setSplit sp') ∧ OnlySplit g (g'.setSplit sp') sp sp' :=
  ⟨onlyGroup_setGroup s g _ hg hu, onlySplit_setSplit g g' sp sp' hs hsp hk⟩

/-- A jump completes. -/
theorem completes_goto {i : Instr} {s : State} {g : Group} {sp : Split} {pc : CodeAddr}
    (he : exec i s = .next (s.setGroup (g.setSplit (sp.goto pc)))) (hg : s.group? g.uid = some g) (hs : g.split? sp.slot = some sp) :
    Completes i s g sp pc (fun g' => g' = { g with splits := g'.splits }) :=
  have ⟨ho, hp⟩ := setSplit_spec hg hs (g' := g) (sp' := sp.goto pc) rfl rfl rfl
  ⟨_, _, _, he, ho, hp, rfl, rfl⟩

/-- An instruction with no effect but its completion. -/
theorem completes_finish_same {i : Instr} {s : State} {g : Group} {sp : Split} (len : Nat)
    (he : exec i s = .next (finish s g sp len)) (hg : s.group? g.uid = some g) (hs : g.split? sp.slot = some sp) :
    Completes i s g sp (sp.pc + BitVec.ofNat 54 len) (fun g' => g' = { g with splits := g'.splits }) :=
  completes_finish i s g g sp len _ he hg hs rfl rfl rfl

/-! ### Raising in a split whose lanes do not run on -/

/-- R162: with no lanes running on the cause is delivered for the whole split, to return to its instruction. -/
theorem raise_of_no_runOn (s : State) (g : Group) (sp : Split) (c : Cause) (insn : List Word) (h : sp.runOn = none) :
    raise s g sp c insn = deliver s g sp c sp.pc sp.mask insn := by
  simp only [raise, raiseAt, h]

/-! ### BRD -/

/-- What a BRD with an active lane answers. -/
theorem exec_brd_active {h : Hdr} {f : LongF} {s : State} {g : Group} {sp : Split} (hr : Ready (.brd h f) h s g sp)
    (ha : activeLanes g sp h ≠ []) : exec (.brd h f) s = .next (branchDivide (.brd h f) f s g sp (activeLanes g sp h)) := by
  rw [exec_lanes (exec_brd h f s) hr rfl, if_neg (by simpa using ha)]
/-- What a mixed BRD with no outstanding result answers. -/
theorem exec_brd_mixed {h : Hdr} {f : LongF} {s : State} {g : Group} {sp : Split} (hr : Ready (.brd h f) h s g sp)
    (ha : activeLanes g sp h ≠ []) (hm : maskOf (activeLanes g sp h) ≠ sp.mask) (hp : sp.pend = []) :
    exec (.brd h f) s = .next (divide (.brd h f) f s g sp (maskOf (activeLanes g sp h))) := by
  rw [exec_brd_active hr ha, branchDivide, if_neg (by simpa using hm), if_neg (by simp [hp])]

/-- Settles O7: each outcome is one branch of `branchDivide` or `divide`. -/
theorem divergentBranchesDivideTheSplit : Obligations.DivergentBranchesDivideTheSplit := by
  intro h f s g sp hr target join taking others
  refine ⟨fun ha hm => ?jump, fun ha => ?fallThrough, fun ha hm hp => ?waits, fun ha hm hp hst hsl => ?divides, fun ha hm hp hst hsl => ?defers,
    fun ha hm hp hst hro => ?overflows⟩
  case jump =>
    refine completes_goto ?_ hr.group hr.split
    rw [exec_brd_active hr ha, branchDivide, if_pos (by simpa using hm)]
    rfl
  case fallThrough =>
    refine completes_finish_same 12 ?_ hr.group hr.split
    rw [exec_lanes (exec_brd h f s) hr rfl, if_pos (by simp [ha])]
  case waits =>
    rw [exec_brd_active hr ha, branchDivide, if_neg (by simpa using hm), if_pos (by simpa using hp)]
    rfl
  case divides =>
    have he := exec_brd_mixed hr ha hm hp
    rw [divide, if_pos hsl, if_neg (by omega)] at he
    exact ⟨_, _, _, _, he, onlyGroup_setGroup s g _ hr.group rfl, rfl, rfl, rfl, rfl, rfl, rfl, rfl, rfl, rfl, rfl, rfl, rfl⟩
  case defers =>
    have he := exec_brd_mixed hr ha hm hp
    rw [divide, if_neg hsl, if_neg (by omega)] at he
    have ⟨ho, hsp⟩ := setSplit_spec hr.group hr.split (g' := g) (sp' := { sp.goto target with
      stack := .defer join others (sp.pc + 12) :: sp.stack, mask := taking }) rfl rfl rfl
    exact ⟨_, _, _, he, ho, rfl, hsp, rfl⟩
  case overflows =>
    rw [exec_brd_mixed hr ha hm hp, divide, if_pos hst, if_pos hst, ite_self, raise_of_no_runOn s g sp _ _ hro]
    rfl

end Sys2Proof.Machine
end

section
/-! PROOFS. JOIN (O8): a split with a straggler of its tag waits; two splits that have both arrived become one. -/

namespace Sys2Proof.Machine

/-! ### Replacing twice -/

theorem State.setGroup_setGroup (s : State) (g g' : Group) (h : g'.uid = g.uid) : (s.setGroup g).setGroup g' = s.setGroup g' := by
  simp only [State.setGroup, List.map_map, h]
  congr 1
  refine List.map_congr_left fun x _ => ?_
  by_cases hx : x.uid = g.uid <;> simp [hx]

/-- A group put in place is found. -/
theorem group?_setGroup {s : State} {g : Group} (hg : s.group? g.uid = some g) (g' : Group) (hu : g'.uid = g.uid) :
    (s.setGroup g').group? g'.uid = some g' := s.group?_setGroup_self g' (by rw [hu, hg]; rfl)

theorem Group.mem_setSplit_of_ne {g : Group} {x y : Split} (hy : y ∈ g.splits) (h : y.slot ≠ x.slot) : y ∈ (g.setSplit x).splits :=
  List.mem_map.2 ⟨y, hy, by simp [h]⟩

/-- Replacing one of two splits. -/
theorem Group.setSplit_left {g : Group} {a b x : Split} (hg : g.splits = [a, b]) (hx : x.slot = a.slot) (hab : a.slot ≠ b.slot) :
    (g.setSplit x).splits = [x, b] := by simp [Group.setSplit, hg, hx, hab.symm]
theorem Group.setSplit_right {g : Group} {a b x : Split} (hg : g.splits = [a, b]) (hx : x.slot = b.slot) (hab : a.slot ≠ b.slot) :
    (g.setSplit x).splits = [a, x] := by simp [Group.setSplit, hg, hx, hab]

/-! ### Looking at a JOIN -/

/-- R24 case 4: while a split of the tag is elsewhere, nothing happens at the JOIN. -/
theorem joinCheck_straggler {s : State} {g : Group} {y : Split} {j : CodeAddr} (hg : s.group? g.uid = some g) (hy : y ∈ g.splits)
    (ht : y.tag = some j) (hs : y.status ≠ .parked .join ∨ y.pc ≠ j) : joinCheck s g.uid j = s := by
  have h : (g.splits.filter (fun x => x.tag == some j)).all (fun x => x.status == .parked .join && x.pc == j) = false := by
    rw [List.all_eq_false]
    refine ⟨y, by simp [hy, ht], ?_⟩
    rcases hs with hs | hs <;> simp [hs]
  simp only [joinCheck, hg, h]
  simp

/-- The oldest split of a JOIN as it stands when it has absorbed `good` there, before its own stack is looked at (R24). -/
def absorbing (s : State) (g : Group) (old : Split) (good : List Split) : Split :=
  { old with
    mask := good.foldl (fun (m : Mask) (x : Split) => m ||| x.mask) old.mask
    pend := old.pend ++ good.flatMap (fun (x : Split) => x.pend)
    relFence := fenceOf (teamPaired s g) (old :: good), acqSig := readsOf (old :: good)
    status := .ready, readySince := s.clock, aging := 0 }
/-- A merged split pops its OUTER entry of the JOIN and takes its tag, or has no tag (R24). -/
def popOuter (j : CodeAddr) (x : Split) : Split :=
  match x.stack with
  | .outer i t :: st => if i == j then { x with tag := t, stack := st } else { x with tag := none }
  | _ => { x with tag := none }
/-- The same, field by field. -/
theorem popOuter_eq (j : CodeAddr) (x : Split) : popOuter j x = { x with
    tag := match x.stack with | .outer i t :: _ => if i = j then t else none | _ => none
    stack := match x.stack with | .outer i t :: st => if i = j then st else .outer i t :: st | st => st } := by
  unfold popOuter
  split
  · split <;> simp_all
  · rfl

theorem popOuter_slot (j : CodeAddr) (x : Split) : (popOuter j x).slot = x.slot := by rw [popOuter_eq]

/-- A group with other splits. -/
def Group.withSplits (g : Group) (l : List Split) : Group := { g with splits := l }
/-- Replacing a split of a group keeps all but the list. -/
theorem Group.setSplit_withSplits (g : Group) (l : List Split) (x : Split) :
    (g.withSplits l).setSplit x = g.withSplits (l.map (fun y => if y.slot == x.slot then x else y)) := rfl

/-- The oldest of a list of splits, as a JOIN looks for it. -/
def oldestOf (xs : List Split) : Option Split :=
  xs.foldl (fun (o : Option Split) x => match o with | none => some x | some y => if x.age < y.age then some x else o) none
/-- A split that cannot be absorbed raises ILLOP at the JOIN. -/
def raiseAtJoin (uid : Nat) (s : State) (x : Split) : State :=
  match s.group? uid with
  | some g => raise s g { x with status := .ready } { code := cIllop } (encode (.join ⟨false, 7, false⟩))
  | none => s

theorem raiseAtJoin_found {uid : Nat} {s : State} {g : Group} (h : s.group? uid = some g) (x : Split) : raiseAtJoin uid s x =
    raise s g { x with status := .ready } { code := cIllop } (encode (.join ⟨false, 7, false⟩)) := by simp only [raiseAtJoin, h]

/-- R24: once every split of the tag waits at the JOIN, the oldest absorbs those without a stack of their own, and the others raise ILLOP. -/
theorem joinCheck_merges {s : State} {g : Group} {j : CodeAddr} {tagged rest : List Split} {old : Split} (hg : s.group? g.uid = some g)
    (ht : g.splits.filter (fun x => x.tag == some j) = tagged) (hall : tagged.all (fun x => x.status == .parked .join && x.pc == j) = true)
    (hold : oldestOf tagged = some old) (hrest : tagged.filter (fun x => x.slot != old.slot) = rest) :
    joinCheck s g.uid j =
      let good := rest.filter (fun x => x.stack.isEmpty)
      (rest.filter (fun x => !x.stack.isEmpty)).foldl (raiseAtJoin g.uid)
        (s.setGroup ((g.withSplits (g.splits.filter (fun x => !good.any (fun y => y.slot == x.slot)))).setSplit
          ((popOuter j (absorbing s g old good)).next 4))) := by
  subst hrest
  have hne : tagged.isEmpty = false := by
    cases tagged with
    | nil => cases hold
    | cons x xs => rfl
  have hnot : (tagged.isEmpty || !tagged.all (fun x => x.status == .parked .join && x.pc == j)) = false := by rw [hne, hall]; rfl
  unfold joinCheck
  rw [hg]
  dsimp only
  rw [ht, hnot, if_neg Bool.false_ne_true]
  change (match oldestOf tagged with | none => _ | some old => _) = _
  rw [hold]
  rfl

/-- The merge of two splits that wait at the JOIN of their tag. -/
theorem joinCheck_pair {s : State} {g : Group} {a b : Split} {j : CodeAddr} (hg : s.group? g.uid = some g) (hab : g.splits = [a, b])
    (hslot : a.slot ≠ b.slot) (hage : a.age < b.age) (hat : a.tag = some j) (hbt : b.tag = some j) (hap : a.pc = j) (hbp : b.pc = j)
    (has : a.status = .parked .join) (hbs : b.status = .parked .join) :
    (b.stack = [] → joinCheck s g.uid j = s.setGroup (g.withSplits [(popOuter j (absorbing s g a [b])).next 4])) ∧
    (b.stack ≠ [] → joinCheck s g.uid j =
      let g' := g.withSplits [(popOuter j (absorbing s g a [])).next 4, b]
      raise (s.setGroup g') g' { b with status := .ready } { code := cIllop } (encode (.join ⟨false, 7, false⟩))) := by
  have hold : oldestOf [a, b] = some a := by simp [oldestOf, Nat.lt_asymm hage]
  have hm := joinCheck_merges (j := j) (rest := [b]) hg (tagged := [a, b]) (by simp [hab, hat, hbt]) (by simp [has, hbs, hap, hbp]) hold
    (by simp [hslot.symm])
  have hk (good : List Split) : ((popOuter j (absorbing s g a good)).next 4).slot = a.slot := popOuter_slot j _
  refine ⟨fun hb => ?_, fun hb => ?_⟩
  · have hgood : [b].filter (fun x => x.stack.isEmpty) = [b] := by simp [hb]
    have hbad : [b].filter (fun x => !x.stack.isEmpty) = [] := by simp [hb]
    have hleft : g.splits.filter (fun x => !([b].any (fun y => y.slot == x.slot))) = [a] := by simp [hab, hslot.symm]
    rw [hm, hgood, hbad]
    dsimp only
    rw [hleft, Group.setSplit_withSplits]
    simp [hk]
  · have hgood : [b].filter (fun x => x.stack.isEmpty) = [] := by simp [hb]
    have hbad : [b].filter (fun x => !x.stack.isEmpty) = [b] := by simp [hb]
    have hleft : g.splits.filter (fun x => !([] : List Split).any (fun y => y.slot == x.slot)) = [a, b] := by simp [hab]
    rw [hm, hgood, hbad]
    dsimp only
    rw [hleft, Group.setSplit_withSplits]
    simp only [List.map_cons, List.map_nil, hk, beq_self_eq_true, if_true, beq_false_of_ne hslot.symm, Bool.false_eq_true, if_false,
      List.foldl_cons, List.foldl_nil]
    refine raiseAtJoin_found ?_ b
    exact group?_setGroup hg (g.withSplits [(popOuter j (absorbing s g a [])).next 4, b]) rfl

/-! ### JOIN -/

/-- What a JOIN whose guard holds answers. -/
theorem exec_join_ready {h : Hdr} {s : State} {g : Group} {sp : Split} (hr : Ready (.join h) h s g sp) (hk : g.kGuard h = true) :
    exec (.join h) s = .next (joinHere s g sp) := by
  rw [exec_uniform (exec_join h s) hr rfl rfl, if_pos hk]

/-- With no DEFER or ARRIVED entry of its address on top of the stack, only the tag counts (R24 cases 3 and 4). -/
theorem joinHere_tag {s : State} {g : Group} {sp : Split} (hd : ∀ m pc st, sp.stack ≠ .defer sp.pc m pc :: st)
    (ha : ∀ m st, sp.stack ≠ .arrived sp.pc m :: st) : joinHere s g sp = joinTag s g sp := by
  unfold joinHere
  split
  case h_1 a m pc st hst =>
    rw [if_neg]
    intro h
    exact hd m pc st (by rw [hst, eq_of_beq h])
  case h_2 a m st hst =>
    rw [if_neg]
    intro h
    exact ha m st (by rw [hst, eq_of_beq h])
  case h_3 => rfl
theorem joinHere_arrived {s : State} {g : Group} {sp : Split} {m : Mask} {st : List StackEntry} (h : sp.stack = .arrived sp.pc m :: st) :
    joinHere s g sp = joinTag s g { sp with mask := sp.mask ||| m, stack := st } := by
  simp only [joinHere, h, beq_self_eq_true, if_true]

theorem joinTag_other {s : State} {g : Group} {sp : Split} (h : sp.tag ≠ some sp.pc) : joinTag s g sp = finish s g sp 4 := by
  simp [joinTag, h]
/-- A split of this tag parks at the JOIN, which is looked at. -/
theorem joinTag_own {s : State} {g : Group} {sp : Split} (h : sp.tag = some sp.pc) :
    joinTag s g sp = joinCheck (s.setGroup (g.setSplit { sp with status := .parked .join })) g.uid sp.pc := by
  simp [joinTag, h, joinPark, parkAt]

/-- R24 case 4 with a straggler: the split waits. -/
theorem joinTag_waits {s : State} {g : Group} {sp y : Split} (hg : s.group? g.uid = some g) (ht : sp.tag = some sp.pc) (hy : y ∈ g.splits)
    (hslot : y.slot ≠ sp.slot) (hyt : y.tag = some sp.pc) (hys : y.status ≠ .parked .join ∨ y.pc ≠ sp.pc) :
    joinTag s g sp = s.setGroup (g.setSplit { sp with status := .parked .join }) := by
  rw [joinTag_own ht]
  exact joinCheck_straggler (g := g.setSplit { sp with status := .parked .join }) (group?_setGroup hg _ rfl)
    (Group.mem_setSplit_of_ne hy hslot) hyt hys

/-- Settles O8: the stack's top decides between `defer`, `arrived` and the tag; the tag's cases are `joinTag_waits` and `joinCheck_pair`. -/
theorem joinFollowsItsCases : Obligations.JoinFollowsItsCases := by
  intro h s g sp hr hk others absent
  have he := exec_join_ready hr hk
  refine ⟨fun m pc st hst => ?defers, fun m st hst ht => ?arrives, fun ⟨hd, ha⟩ ht => ?goesOn, fun y ⟨hy, hslot, hyt, hys⟩ ht => ⟨?_, ?_⟩, ?merges⟩
  case defers =>
    simp only [joinHere, hst, beq_self_eq_true, if_true] at he
    have ⟨ho, hp⟩ := setSplit_spec hr.group hr.split (g' := g) (sp' := { sp.goto pc with stack := .arrived sp.pc sp.mask :: st, mask := m })
      rfl rfl rfl
    exact ⟨_, _, _, he, ho, hp, rfl, rfl⟩
  case arrives =>
    rw [joinHere_arrived hst, joinTag_other (sp := { sp with mask := sp.mask ||| m, stack := st }) ht] at he
    have ⟨ho, hp⟩ := setSplit_spec hr.group hr.split (g' := g)
      (sp' := Split.next { sp with mask := sp.mask ||| m, stack := st } 4) rfl rfl rfl
    exact ⟨_, _, _, he, ho, hp, rfl, rfl⟩
  case goesOn => exact completes_finish_same 4 (by rw [he, joinHere_tag hd ha, joinTag_other ht]) hr.group hr.split
  · rintro ⟨hd, ha⟩
    rw [he, joinHere_tag hd ha, joinTag_waits hr.group ht hy hslot hyt hys]
  · intro m st hst
    rw [he, joinHere_arrived hst, joinTag_waits (sp := { sp with mask := sp.mask ||| m, stack := st }) hr.group ht hy hslot hyt hys]
  case merges =>
    rintro a b hab hslot hage hat hbt hap hbp hsp hwait ⟨hd, ha⟩ goesOn
    have ht : sp.tag = some sp.pc := by rcases hsp with rfl | rfl <;> assumption
    rw [joinHere_tag hd ha, joinTag_own ht] at he
    generalize hg1 : g.setSplit { sp with status := .parked .join } = g1 at he
    have hu : g1.uid = g.uid := by rw [← hg1]; rfl
    have hbase : g1 = g.withSplits g1.splits := by rw [← hg1]; rfl
    have h1 : g1.splits = [{ a with status := .parked .join }, { b with status := .parked .join }] := by
      rw [← hg1]
      rcases hsp with rfl | rfl
      · have hb : b.status = .parked .join := hwait b (.inr rfl) (fun h => hslot (by rw [h]))
        rw [Group.setSplit_left (x := { sp with status := .parked .join }) hab rfl hslot]
        rw [← hb]
      · have hb : a.status = .parked .join := hwait a (.inl rfl) (fun h => hslot (by rw [h]))
        rw [Group.setSplit_right (x := { sp with status := .parked .join }) hab rfl hslot]
        rw [← hb]
    have hgrp := group?_setGroup hr.group g1 hu
    rw [← hu] at he
    have ⟨hgood, hbad⟩ := joinCheck_pair (j := sp.pc) hgrp h1 hslot hage hat hbt hap hbp rfl rfl
    have hwith (l : List Split) : g1.withSplits l = g.withSplits l := by rw [hbase]; rfl
    have hset (l : List Split) : (s.setGroup g1).setGroup (g1.withSplits l) = s.setGroup (g.withSplits l) := by
      rw [hwith l]
      exact State.setGroup_setGroup s g1 (g.withSplits l) hu.symm
    have hmerged (good : List Split) (l : List Split) : goesOn (g.withSplits l)
        ((popOuter sp.pc (absorbing (s.setGroup g1) g1 { a with status := .parked .join } good)).next 4) := by
      refine ⟨rfl, ?_⟩
      rw [popOuter_eq]
      simp only [Split.next, Split.completed, absorbing, State.setGroup_clock, hap]
      rfl
    refine ⟨fun hb => ?_, fun hb => ?_⟩
    · rw [hgood hb, hset] at he
      refine ⟨_, _, _, he, onlyGroup_setGroup s g (g.withSplits _) hr.group rfl, hmerged _ _, rfl, ?_, ?_⟩
      · rw [popOuter_eq]; rfl
      · rw [popOuter_eq]; simp [Split.next, Split.completed, absorbing]
    · have hraise := hbad hb
      dsimp only at hraise
      rw [hset, hwith] at hraise
      rw [hraise] at he
      refine ⟨_, _, _, he, hmerged _ _, ?_, ?_, rfl, rfl⟩
      · rw [popOuter_eq]; rfl
      · rw [popOuter_eq]; simp [Split.next, Split.completed, absorbing]

end Sys2Proof.Machine
end

section
/-! PROOFS. Division, square root and the transcendentals (O21): each is `fpLater`, whose draws are taken at issue and whose results come later. -/

namespace Sys2Proof.Machine

/-- R27, R110: a floating-point instruction of variable latency takes its draws, and its results become outstanding. -/
theorem laterV_fpLater {i : Instr} {h : Hdr} {f : LongF} {n : Nat} {v : Group → Nat → (Nat → Nat) → Nat} {s : State} {g : Group} {sp : Split}
    (he : exec i s = fpLater i h f n v s) (hr : Ready i h s g sp) (hp : sp.pend.length < 16) (ha : activeLanes g sp h ≠ []) :
    LaterV i h s g sp f.d.toNat (tyRegs f.ty) (fun _ => drawsTaken f n) (fun l => v g l (drawOf s g (g.lane l))) :=
  laterWrites_later i h always (fun _ g ls => g.modLanes ls (fun _ x => x.advance (drawsTaken f n)))
    (fun s g ls => ls.flatMap (fun l => vWrites l f.d.toNat (tyRegs f.ty) (v g l (drawOf s g (g.lane l))))) _ s g sp he
    (g.modLanes_rest _ _) (fun l => g.lane_modLanes _ _ l (activeLanes_nodup g sp h)) hr rfl hp ha

/-- R202: a transcendental draws nothing; its value, then SAT, becomes outstanding. -/
theorem laterV_fpTranscend {i : Instr} {h : Hdr} {f : LongF} {s : State} {g : Group} {sp : Split} (fn : Nat)
    (he : exec i s = fpTranscend i h f fn s) (hr : Ready i h s g sp) (hp : sp.pend.length < 16) (ha : activeLanes g sp h ≠ []) :
    LaterV i h s g sp f.d.toNat (tyRegs f.ty) (fun _ => drawsTaken f 0)
      (fun l => if f.sat then satF f.ty (transcend fn f.ty (srcA g l f)) else transcend fn f.ty (srcA g l f)) :=
  laterV_fpLater (v := fun g l _ => if f.sat then satF f.ty (transcend fn f.ty (srcA g l f)) else transcend fn f.ty (srcA g l f)) he hr hp ha

/-- Settles O21: each of the nine instructions is `fpLater` with its own value. -/
theorem slowFloatResultsOfTheLanes : Obligations.SlowFloatResultsOfTheLanes := by
  intro h f s g sp hp ha a b round sat draws i k v hi hr
  simp only [List.mem_cons, Prod.mk.injEq, List.not_mem_nil, or_false] at hi
  obtain ⟨rfl, rfl, rfl⟩ | ⟨rfl, rfl, rfl⟩ | ⟨rfl, rfl, rfl⟩ | ⟨rfl, rfl, rfl⟩ | ⟨rfl, rfl, rfl⟩ | ⟨rfl, rfl, rfl⟩ | ⟨rfl, rfl, rfl⟩ |
    ⟨rfl, rfl, rfl⟩ | ⟨rfl, rfl, rfl⟩ := hi
  · exact laterV_fpLater (v := fun g l d => fresult f.ty f.rm.toNat (d 0) f.sat (fdivV (fpA g l f) (fpB g l f))) (exec_fdiv h f s) hr hp ha
  · exact laterV_fpLater (v := fun g l d => fresult f.ty f.rm.toNat (d 0) f.sat (fsqrtV (fpA g l f))) (exec_fsqrt h f s) hr hp ha
  · exact laterV_fpTranscend 0 (exec_frcp h f s) hr hp ha
  · exact laterV_fpTranscend 1 (exec_frsq h f s) hr hp ha
  · exact laterV_fpTranscend 2 (exec_fex2 h f s) hr hp ha
  · exact laterV_fpTranscend 3 (exec_flg2 h f s) hr hp ha
  · exact laterV_fpTranscend 4 (exec_fsin h f s) hr hp ha
  · exact laterV_fpTranscend 5 (exec_fcos h f s) hr hp ha
  · exact laterV_fpTranscend 6 (exec_ftanh h f s) hr hp ha

end Sys2Proof.Machine
end

section
/-! PROOFS. EXIT beside a split that waits at the JOIN (O9): the merge there rebuilds what the waiting split has read, in another order. -/

namespace Sys2Proof.Machine

/-! ### The counterexample -/

/-- A split that has read two release signatures (R73) and waits at the JOIN of its tag. -/
def exitWaiting : Split := { slot := 1, age := 1, pc := 0x100, mask := 2, tag := some 0x100, status := .parked .join, acqSig := [(0, 1), (0, 2)] }
/-- The split about to EXIT: on its stack only the OUTER entry of the same JOIN. -/
def exitLeaving : Split := { slot := 0, mask := 1, stack := [.outer 0x100 none] }
def exitGroup : Group := { uid := 1, grid := 0, team := 0, lanes := [{ live := true }, { live := true }], splits := [exitLeaving, exitWaiting] }
def exitState : State := { actor := .split ⟨1, 0⟩, groups := [exitGroup] }
/-- The guard of an instruction that always executes. -/
def exitHdr : Hdr := ⟨false, 7, false⟩

theorem exitState_ready : Ready (.exit exitHdr) exitHdr exitState exitGroup exitLeaving where
  current := by decide
  wellFormed := by decide
  registers := by decide
  runsOn := by decide
  results := by decide

/-- What each split of group `uid` has read for a later acquire FENCE, in the state an outcome leads to. -/
def readsAfter (o : Host.Outcome State Fault Refusal) (uid : Nat) : Option (List (List (Nat × Nat))) :=
  match o with
  | .next t => (t.group? uid).map (fun g => g.splits.map (·.acqSig))
  | _ => none

/-- The model runs the EXIT: the waiting split goes on alone, with the two lines it has read in the opposite order. -/
theorem readsAfter_exit : readsAfter (exec (.exit exitHdr) exitState) 1 = some [[(0, 2), (0, 1)]] := by decide

/-- Refutes O9: an EXIT whose OUTER entry lets a waiting split merge rebuilds that split's list of lines read (`readsOf`), which turns
the list round, while the statement keeps every field but those it names as it was. -/
theorem not_exitRetiresLanes : ¬ Obligations.ExitRetiresLanes := by
  intro hall
  obtain ⟨hends, -⟩ := hall exitHdr exitState exitGroup exitLeaving rfl rfl rfl
  obtain ⟨-, -, -, hmerges, -⟩ := hends (.exit exitHdr) 4 (.inl ⟨rfl, by decide⟩) exitState_ready
  obtain ⟨t, g', b', he, honly, -, hg', hb'⟩ := hmerges ⟨1, by decide⟩ 0x100 none exitWaiting rfl rfl (by decide) rfl rfl rfl rfl
  have hreads : readsAfter (exec (.exit exitHdr) exitState) 1 = some [[(0, 1), (0, 2)]] := by
    have hfound : t.group? 1 = some g' := honly.group
    rw [he, readsAfter, hfound, hg', hb']
    rfl
  rw [readsAfter_exit] at hreads
  exact absurd hreads (by decide)

end Sys2Proof.Machine
end

section
/-! PROOFS. Entry at the user handler (O11): the group and the split are written at once; the frame's 128 bytes are the only ones stored. -/

namespace Sys2Proof.Machine

/-! ### Numbers inside numbers written -/

/-- A part of a number written reads back as those digits of it (R5). -/
theorem memReadNat_memWriteNat_part (m : Memory) (a n v k j : Nat) (h : Memory.wf m = true) (hkj : k + j ≤ n) :
    memReadNat (memWriteNat m a n v) (a + k) j = v / 256 ^ k % 256 ^ j := by
  induction j generalizing k with
  | zero => simp [memReadNat, Nat.mod_one]
  | succ j ih =>
    have hb : memRead (memWriteNat m a n v) (a + k) = BitVec.ofNat 8 (v / 256 ^ k) := by
      rw [memRead_memWriteNat _ _ _ _ _ h, if_pos (by omega), Nat.add_sub_cancel_left]
    rw [memReadNat, hb, Nat.add_assoc, ih (k + 1) (by omega), Nat.pow_succ 256 k, ← Nat.div_div_eq_div_mul, Nat.pow_succ 256 j,
      Nat.mul_comm (256 ^ j), Nat.mod_mul]
    simp

/-! ### Changing a group -/

theorem State.group?_congr {s t : State} (h : t.groups = s.groups) (u : Nat) : t.group? u = s.group? u := by simp only [State.group?, h]

/-- A change of groups that keeps their numbers is seen where they are found. -/
theorem State.group?_modGroup (s : State) {u k : Nat} {f : Group → Group} (hf : ∀ x, (f x).uid = x.uid) :
    (s.modGroup u f).group? k = (s.group? k).map (fun x => if x.uid == u then f x else x) := by
  have hp : (fun x : Group => x.uid == k) ∘ (fun x => if x.uid == u then f x else x) = fun x => x.uid == k := by
    funext x
    simp only [Function.comp]
    split <;> simp [hf]
  simp only [State.group?, State.modGroup, List.find?_map, hp]
theorem State.group?_modGroup_self {s : State} {u : Nat} {g : Group} {f : Group → Group} (hg : s.group? u = some g)
    (hf : ∀ x, (f x).uid = x.uid := by intro; rfl) : (s.modGroup u f).group? u = some (f g) := by
  rw [s.group?_modGroup hf, hg, Option.map_some, if_pos (beq_iff_eq.2 (s.group?_uid u g hg))]
theorem State.group?_modGroup_other (s : State) {u k : Nat} {f : Group → Group} (hk : k ≠ u)
    (hf : ∀ x, (f x).uid = x.uid := by intro; rfl) : (s.modGroup u f).group? k = s.group? k := by
  rw [s.group?_modGroup hf]
  cases hg : s.group? k with
  | none => rfl
  | some g => rw [Option.map_some, if_neg (by rw [beq_iff_eq, s.group?_uid k g hg]; exact hk)]

/-! ### Releases where a signature table has a place (R84) -/

theorem sigRoom_congr {s t : State} {l : Loc} (hs : t.sigs = s.sigs) (ht : t.teams = s.teams) (h : sigRoom s l) : sigRoom t l := by
  have htab (x : Loc) : sigTable t x = sigTable s x := by cases x <;> simp [sigTable, ht]
  simpa only [sigRoom, tableEntries, hs, htab] using h
theorem sigTable_endSequence (s : State) (l k : Loc) (n : Nat) : sigTable (endSequence s l n) k = sigTable s k := by
  cases k <;> rfl
/-- Entries that end leave as much room. -/
theorem sigRoom_endSequence {s : State} {l k : Loc} {n : Nat} (h : sigRoom s l) : sigRoom (endSequence s k n) l := by
  have hsub : (endSequence s k n).sigs.Sublist s.sigs := List.filter_sublist
  rcases h with h | h
  · exact .inl (Nat.lt_of_le_of_lt hsub.length_le h)
  · refine .inr fun x hx => Nat.lt_of_le_of_lt ?_ (h x (by rwa [sigTable_endSequence] at hx))
    simp only [tableEntries, sigTable_endSequence]
    exact (hsub.filter _).length_le
/-- R84 step 4: with a place in its table a release retires nothing. -/
theorem retireOldest_room {s : State} {l : Loc} (h : sigRoom s l) : retireOldest s l = s := by
  unfold retireOldest
  split
  · rfl
  · next hn =>
    have hroom := h.resolve_left hn
    split
    · rfl
    · next t n ht => rw [if_pos (hroom (t, n) ht)]
/-- A release with a place changes the signatures and nothing else. -/
theorem deposit_room {s : State} {l : Loc} (n : Nat) (lines : List (Nat × Nat)) (rmw : Bool) (h : sigRoom s l) :
    ∃ S, deposit s l n lines rmw = { s with sigs := S } := by
  simp only [deposit, retireOldest_room (sigRoom_endSequence h)]
  generalize unionPairs (if rmw = true then sigAt s l n else []) lines = all
  cases all.isEmpty with
  | true => exact ⟨_, rfl⟩
  | false => exact ⟨_, rfl⟩
theorem touch_frame (s : State) (core line : Nat) : ∃ T, touch s core line = { s with touched := T } := by
  unfold touch
  split
  · exact ⟨s.touched, rfl⟩
  · exact ⟨_, rfl⟩

/-! ### Stores of the Kiln -/

/-- A store of the Kiln that retires no signature writes its bytes and records them. -/
theorem kilnStore_room {s : State} {pa : Nat} (n v : Nat) (h : sigRoom s (.hbm pa)) :
    ∃ T S, kilnStore s pa n v = { s with hbm := memWriteNat s.hbm pa n v, touched := T, sigs := S } := by
  obtain ⟨T, hT⟩ := touch_frame (homeWrite s pa n v) kilnCore (pa / 128)
  have hroom : sigRoom (touch (homeWrite s pa n v) kilnCore (pa / 128)) (.hbm pa) := sigRoom_congr (by simp) (by rw [hT]; rfl) h
  obtain ⟨S, hS⟩ := deposit_room n (releaseLines (touch (homeWrite s pa n v) kilnCore (pa / 128)) kilnCore) false hroom
  exact ⟨T, S, by rw [kilnStore, hS, hT]; rfl⟩

/-! ### The frame (R390) -/

theorem hasSlot_congr {s t : State} {g h : Group} (ht : t.parts = s.parts) (hs : h.slot = g.slot) (hp : h.partid = g.partid) :
    hasSlot t h = hasSlot s g := by
  have hu : imgUnits t (groupPart h) = imgUnits s (groupPart g) := by simp only [imgUnits, imgBase, groupPart, State.part, ht, hp]
  rw [hasSlot, hasSlot, hu, hs]
theorem slotAddr_congr {s t : State} {g h : Group} (ht : t.parts = s.parts) (hs : h.slot = g.slot) (hp : h.partid = g.partid) :
    slotAddr t h = slotAddr s g := by simp only [slotAddr, imgBase, groupPart, State.part, ht, hs, hp]

theorem checkImage_eq_modGroup {s : State} {u : Nat} {g : Group} (hg : s.group? u = some g) (hs : hasSlot s g = true) :
    checkImage s u = s.modGroup u (fun x => { x with tampered := !imageIntact s g }) := by
  simp only [checkImage, hg, hs, if_true]
theorem noteImage_eq_modGroup {s : State} {u : Nat} {g : Group} (hg : s.group? u = some g) (hs : hasSlot s g = true) :
    noteImage s u = s.modGroup u (fun x => { x with image := memSlice s.hbm (slotAddr s g) 131072 }) := by
  simp only [noteImage, hg, hs, if_true]

theorem storeFrame_no_slot {s : State} {g : Group} {sup : Bool} (hs : hasSlot s g = false) : storeFrame s g sup = s := by
  simp [storeFrame, hs]
/-- Where in a slot the frame of each level lies. -/
def frameOff (sup : Bool) : Nat := if sup then 0x180 else 0x100
/-- What a frame's store leaves: its 128 bytes written, the group's record of its image renewed, nothing else changed but records of writes. -/
theorem storeFrame_slot {s : State} {g : Group} {sup : Bool} (hg : s.group? g.uid = some g) (hs : hasSlot s g = true)
    (hroom : sigRoom s (.hbm (slotAddr s g + frameOff sup))) :
    ∃ (T : List (Nat × Nat)) (S : List Signature), storeFrame s g sup = { s with
        hbm := memWriteNat s.hbm (slotAddr s g + frameOff sup) 128 (if sup then g.sframe.bytes else g.uframe.bytes),
        groups := (storeFrame s g sup).groups, touched := T, sigs := S } ∧
      (∃ m b, (storeFrame s g sup).group? g.uid = some { g with image := m, tampered := b }) ∧
      ∀ u, u ≠ g.uid → (storeFrame s g sup).group? u = s.group? u := by
  have hc := checkImage_eq_modGroup hg hs
  generalize hs1 : checkImage s g.uid = s1 at hc
  have hg1 : s1.group? g.uid = some { g with tampered := !imageIntact s g } := by
    rw [hc]
    exact State.group?_modGroup_self hg
  have hroom1 : sigRoom s1 (.hbm (slotAddr s g + frameOff sup)) := sigRoom_congr (by rw [hc]; rfl) (by rw [hc]; rfl) hroom
  obtain ⟨T, S, hk⟩ := kilnStore_room 128 (if sup then g.sframe.bytes else g.uframe.bytes) hroom1
  generalize hs2 : kilnStore s1 (slotAddr s g + frameOff sup) 128 (if sup then g.sframe.bytes else g.uframe.bytes) = s2 at hk
  have hg2 : s2.group? g.uid = some { g with tampered := !imageIntact s g } := (State.group?_congr (by rw [hk]) _).trans hg1
  have hslot : hasSlot s2 { g with tampered := !imageIntact s g } = true := by
    rw [← hs]
    exact hasSlot_congr (by rw [hk, hc]; rfl) rfl rfl
  have hn := noteImage_eq_modGroup hg2 hslot
  have hall : storeFrame s g sup = noteImage s2 g.uid := by
    rw [← hs2, ← hs1]
    simp only [storeFrame, hs, if_true, frameOff]
  have hfound := State.group?_modGroup_self hg2
    (f := fun x => { x with image := memSlice s2.hbm (slotAddr s2 { g with tampered := !imageIntact s g }) 131072 })
  have hhbm : s1.hbm = s.hbm := by rw [hc]; rfl
  rw [hhbm] at hk
  generalize memWriteNat s.hbm (slotAddr s g + frameOff sup) 128 (if sup then g.sframe.bytes else g.uframe.bytes) = M at hk ⊢
  rw [hall, hn]
  refine ⟨T, S, ?_, ⟨_, _, hfound⟩, fun u hu => ?_⟩
  · rw [hk, hc]
    rfl
  · rw [State.group?_modGroup_other _ hu, State.group?_congr (s := s1) (by rw [hk]), hc,
      State.group?_modGroup_other _ hu]

/-! ### The fault record in memory (R390) -/

/-- The four quadwords of a frame read back from its bytes. -/
theorem TrapFrame.bytes_fields (f : TrapFrame) : f.bytes % 256 ^ 8 = f.pc.toNat ∧ f.bytes / 256 ^ 8 % 256 ^ 8 = f.info.toNat ∧
    f.bytes / 256 ^ 16 % 256 ^ 8 = f.mask.toNat ∧ f.bytes / 256 ^ 24 % 256 ^ 8 = f.addr.toNat := by
  have h1 := f.pc.isLt
  have h2 := f.info.isLt
  have h3 := f.mask.isLt
  have h4 := f.addr.isLt
  unfold TrapFrame.bytes
  generalize (f.insn.getD 0 0).toNat + 2 ^ 32 * (f.insn.getD 1 0).toNat + 2 ^ 64 * (f.insn.getD 2 0).toNat = x
  norm_num at *
  omega
/-- Cause and subcode are the low bytes of the record's second quadword. -/
theorem frameOf_info_low (sp : Split) (c : Cause) (epc : CodeAddr) (lanes : Mask) (insn : List Word) :
    (frameOf sp c epc lanes insn).info.toNat % 256 = c.code.toNat ∧ (frameOf sp c epc lanes insn).info.toNat / 256 % 256 = c.sub.toNat := by
  have h1 := c.code.isLt
  have h2 := c.sub.isLt
  simp only [frameOf, dw, BitVec.toNat_ofNat]
  generalize (retryOf sp c).toNat = r
  generalize b2n c.lxf = l
  omega

/-! ### The user handler -/

/-- R34, R324: with the user handler enabled, its split in no handler and no other split in this one, a user cause is taken there. -/
theorem deliver_user {s : State} {g : Group} {sp : Split} {c : Cause} {epc : CodeAddr} {lanes : Mask} {insn : List Word}
    (hpage : faultPage c = none) (hu : goesUser g sp c = true) (hfree : handlerBusy g sp.slot false = false) :
    deliver s g sp c epc lanes insn =
      storeFrame (s.setGroup (enterUser g sp c epc lanes insn (pendingBits s g sp))) (enterUser g sp c epc lanes insn (pendingBits s g sp)) false := by
  simp only [deliver, pageHeld, hpage, routeOf, hu, hfree, if_true, Bool.false_eq_true, if_false]

/-- Settles O11: the route is the user handler (`deliver_user`), `enterUser` writes registers and split, and `storeFrame_slot` gives the frame. -/
theorem userTrapEntrySavesTheState : Obligations.UserTrapEntrySavesTheState := by
  intro s g sp c epc lanes insn hg hsp hwf hcode hlxf hst2 hen hsup husr hroom hothers t a addr
  have hpage : faultPage c = none := by
    have hne : c.code ≠ cPage := by
      rintro h
      rw [h] at hcode
      revert hcode
      decide
    simp [faultPage, hst2, hne]
  have hgoes : goesUser g sp c = true := by
    have : userDeliverable c.code = true := by simpa [userDeliverable] using hcode
    simp [goesUser, this, hlxf, hst2, hen, hsup, husr]
  have hfree : handlerBusy g sp.slot false = false := by
    simp only [handlerBusy, List.any_eq_false]
    intro x hx
    by_cases hs : x.slot = sp.slot
    · simp [hs]
    · obtain ⟨h1, h2⟩ := hothers x hx hs
      cases h3 : x.inSup <;> simp_all
  have ht : t = _ := deliver_user hpage hgoes hfree
  have haddr : faultAddr c = addr := by simp [faultAddr, addr, or_assoc, cTrapi, cTimer, cGangfail]
  generalize hg1 : enterUser g sp c epc lanes insn (pendingBits s g sp) = g1 at ht
  have hu1 : g1.uid = g.uid := by rw [← hg1]; rfl
  have hframe : g1.uframe = frameOf sp c epc lanes insn := by rw [← hg1]; rfl
  obtain ⟨ho, hsplit⟩ : OnlyGroup s (s.setGroup g1) g g1 ∧ OnlySplit g g1 sp
      { sp.enter c g.utvec lanes with inUser := true, owedUser := pendingBits s g sp } := by
    rw [← hg1, enterUser, haddr]
    exact setSplit_spec hg hsp rfl rfl rfl
  have hgroup : g1 = { g with
      utcause := dw (c.sub.toNat * 256 + c.code.toNat), utepc := epc.zeroExtend 64 &&& 0x003FFFFFFFFFFFFC#64,
      faultmask := lanes, faultaddr := addr, uframe := g1.uframe, splits := g1.splits } := by
    rw [← hg1, ← haddr]; rfl
  have hs1 : g1.slot = g.slot := by rw [hgroup]
  have hp1 : g1.partid = g.partid := by rw [hgroup]
  have hslot : hasSlot (s.setGroup g1) g1 = hasSlot s g := hasSlot_congr rfl hs1 hp1
  have hbase : slotAddr (s.setGroup g1) g1 + frameOff false = a := congrArg (· + 0x100) (slotAddr_congr rfl hs1 hp1)
  cases hs : hasSlot s g with
  | false =>
    rw [storeFrame_no_slot (hslot.trans hs)] at ht
    rw [ht]
    refine ⟨⟨g1, _, ho.group, ho.others, hsplit, ?_, rfl⟩, fun b _ => rfl, rfl, rfl, rfl, fun h => absurd h Bool.false_ne_true⟩
    rw [hgroup]
  | true =>
    obtain ⟨T, S, heq, ⟨m, b, hfound⟩, hrest⟩ := storeFrame_slot (sup := false) (by rw [hu1]; exact ho.group) (hslot.trans hs)
      (by rw [hbase]; exact sigRoom_congr rfl rfl hroom)
    rw [← ht] at heq hfound hrest
    have hhbm : t.hbm = memWriteNat s.hbm a 128 (frameOf sp c epc lanes insn).bytes := by
      have := congrArg State.hbm heq
      dsimp only at this
      rwa [hbase, if_neg Bool.false_ne_true, hframe, State.setGroup_hbm] at this
    rw [hu1] at hfound hrest
    refine ⟨⟨_, _, hfound, fun u hu => (hrest u hu).trans (ho.others u hu), ⟨hsplit.split, hsplit.others⟩, ?_, rfl⟩, fun x hx => ?_,
      by rw [heq]; rfl, by rw [heq]; rfl, by rw [heq]; rfl, fun _ => ?_⟩
    · rw [hgroup]
    · rw [hhbm, memRead_memWriteNat _ _ _ _ _ hwf, if_neg hx]
    · obtain ⟨hpc, hinfo, hmask, hadr⟩ := TrapFrame.bytes_fields (frameOf sp c epc lanes insn)
      obtain ⟨hcod, hsub⟩ := frameOf_info_low sp c epc lanes insn
      have hread (k j : Nat) (h : k + j ≤ 128) := memReadNat_memWriteNat_part s.hbm a 128 (frameOf sp c epc lanes insn).bytes k j hwf h
      rw [hhbm]
      refine ⟨?_, ?_, ?_, ?_, ?_⟩
      · rw [← Nat.add_zero a, hread 0 8 (by omega), pow_zero, Nat.div_one, hpc]
        simp [frameOf, pcWord]
        omega
      · rw [hread 8 1 (by omega)]
        omega
      · rw [hread 9 1 (by omega)]
        omega
      · rw [hread 16 8 (by omega), hmask]
        rfl
      · rw [hread 24 8 (by omega), hadr, ← haddr]
        rfl

end Sys2Proof.Machine
end

section
/-! PROOFS. YIELD, SLEEP, WAITC and BAR (O25): an acquire drops the lines it names and touches no group; a barrier is released when no split
of the team is elsewhere. -/

namespace Sys2Proof.Machine

/-! ### Caches: groups are not touched, and lines that are not held stay so -/

@[simp] theorem noteSlots_groups (s : State) (pa n : Nat) : (noteSlots s pa n).groups = s.groups := rfl
@[simp] theorem clearPoison_groups (s : State) (l : Loc) : (clearPoison s l).groups = s.groups := rfl
@[simp] theorem writeBack_groups (s : State) (core line : Nat) : (writeBack s core line).groups = s.groups := by
  unfold writeBack
  split
  · rfl
  · split
    · rfl
    · simp only [modLine]
      split <;> split <;> rfl
@[simp] theorem dropLine_groups (s : State) (k : CacheKind) (core line : Nat) : (dropLine s k core line).groups = s.groups := rfl
@[simp] theorem flushLine_groups (s : State) (core line : Nat) : (flushLine s core line).groups = s.groups := writeBack_groups s core line
@[simp] theorem dropScales_groups (s : State) (core : Nat) : (dropScales s core).groups = s.groups := rfl

/-- What every step of a fold over states keeps of a field, the fold keeps. -/
theorem foldl_field {α β : Type} (p : State → β) {f : State → α → State} (hf : ∀ s x, p (f s x) = p s) (l : List α) (s : State) :
    p (l.foldl f s) = p s := by
  induction l generalizing s with
  | nil => rfl
  | cons x l ih => rw [List.foldl_cons, ih, hf]

@[simp] theorem applySig_groups (s : State) (core : Nat) (sig : List (Nat × Nat)) : (applySig s core sig).groups = s.groups := by
  simp only [applySig, dropScales_groups]
  rw [foldl_field State.groups (by simp), foldl_field State.groups (by simp)]

/-- A line is not held when no listed line is it. -/
theorem cacheLine?_eq_none {s : State} {k : CacheKind} {core line : Nat} :
    cacheLine? s k core line = none ↔ ∀ c ∈ s.caches, c.is k core line = false := by
  simp [cacheLine?, CacheLine.is, List.find?_eq_none]

/-- A write-back changes no line but in its dirty and read bits. -/
theorem mem_caches_writeBack {s : State} {core line : Nat} {c : CacheLine} (h : c ∈ (writeBack s core line).caches) :
    ∃ d ∈ s.caches, ∀ k n l, c.is k n l = d.is k n l := by
  have hc : (writeBack s core line).caches = s.caches ∨
      (writeBack s core line).caches = s.caches.map (fun x => if x.is .l1 core line then { x with dirty := 0, read := 0 } else x) := by
    unfold writeBack
    split
    · exact .inl rfl
    · split
      · exact .inl rfl
      · refine .inr ?_
        simp only [modLine]
        split <;> split <;> rfl
  rcases hc with hc | hc
  · exact ⟨c, hc ▸ h, fun _ _ _ => rfl⟩
  · rw [hc] at h
    obtain ⟨d, hd, rfl⟩ := List.mem_map.1 h
    refine ⟨d, hd, fun k n l => ?_⟩
    split <;> rfl
theorem cacheLine?_writeBack_none {s : State} {k : CacheKind} {core line c l : Nat} (h : cacheLine? s k core line = none) :
    cacheLine? (writeBack s c l) k core line = none := by
  rw [cacheLine?_eq_none] at h ⊢
  intro x hx
  obtain ⟨d, hd, he⟩ := mem_caches_writeBack hx
  rw [he]
  exact h d hd
/-- A line dropped is not held, and no other line becomes held. -/
theorem cacheLine?_dropLine_self (s : State) (k : CacheKind) (core line : Nat) : cacheLine? (dropLine s k core line) k core line = none :=
  cacheLine?_eq_none.2 fun c hc => by simpa [dropLine] using (List.mem_filter.1 hc).2
theorem cacheLine?_filter_none {s : State} {k : CacheKind} {core line : Nat} (p : CacheLine → Bool) (h : cacheLine? s k core line = none) :
    cacheLine? { s with caches := s.caches.filter p } k core line = none :=
  cacheLine?_eq_none.2 fun c hc => cacheLine?_eq_none.1 h c (List.mem_of_mem_filter hc)
theorem cacheLine?_congr {s t : State} (h : t.caches = s.caches) (k : CacheKind) (core line : Nat) :
    cacheLine? t k core line = cacheLine? s k core line := by simp only [cacheLine?, h]
theorem cacheLine?_flushLine_self (s : State) (core line : Nat) : cacheLine? (flushLine s core line) .l1 core line = none :=
  cacheLine?_dropLine_self _ _ _ _
theorem cacheLine?_flushLine_none {s : State} {k : CacheKind} {core line c l : Nat} (h : cacheLine? s k core line = none) :
    cacheLine? (flushLine s c l) k core line = none := cacheLine?_filter_none _ (cacheLine?_writeBack_none h)

/-- R84 step 3: after an acquire the core holds none of the lines that it names. -/
theorem cacheLine?_applySig (s : State) (core : Nat) (sig : List (Nat × Nat)) {p : Nat × Nat} (hp : p ∈ sig) :
    cacheLine? (applySig s core sig) .l1 core p.2 = none := by
  have hkeep (l : List (Nat × Nat)) (t : State) (h : cacheLine? t .l1 core p.2 = none) :
      cacheLine? (l.foldl (fun s q => touch (flushLine s core q.2) core q.2) t) .l1 core p.2 = none := by
    induction l generalizing t with
    | nil => exact h
    | cons q l ih =>
      refine ih _ ?_
      rw [cacheLine?_congr (touch_caches _ _ _)]
      exact cacheLine?_flushLine_none h
  have hdrop (l : List (Nat × Nat)) (t : State) (h : p ∈ l) :
      cacheLine? (l.foldl (fun s q => touch (flushLine s core q.2) core q.2) t) .l1 core p.2 = none := by
    induction l generalizing t with
    | nil => cases h
    | cons q l ih =>
      rcases List.mem_cons.1 h with rfl | h
      · refine hkeep l _ ?_
        rw [cacheLine?_congr (touch_caches _ _ _)]
        exact cacheLine?_flushLine_self _ _ _
      · exact ih _ h
  exact cacheLine?_filter_none _ (hdrop sig _ hp)

/-! ### YIELD and SLEEP -/

/-- R183: the split goes on as the youngest of its level. -/
theorem yieldTo_spec {s : State} {g : Group} {sp : Split} (hg : s.group? g.uid = some g) (hs : g.split? sp.slot = some sp) :
    ∃ t g' sp', yieldTo s g sp = t ∧ OnlyGroup s t g g' ∧ OnlySplit g g' sp sp' ∧ g' = { g with splits := g'.splits } ∧
      sp' = { sp with pc := sp.pc + 4, lastTrap := sp'.lastTrap, fenceWait := none, readySince := s.clock, aging := 0 } :=
  have ⟨ho, hp⟩ := setSplit_spec hg hs (g' := g) (sp' := Split.next { sp with readySince := s.clock, aging := 0 } 4) rfl rfl rfl
  ⟨_, _, _, rfl, ho, hp, rfl, rfl⟩

/-! ### BAR -/

/-- R32: nothing happens at a barrier while a split of the team is not there. -/
theorem barCheck_missing {s : State} {team id : Nat} {x : Group} {y : Split} (hx : x ∈ s.groups) (ht : x.team = team) (hy : y ∈ x.splits)
    (hs : y.status ≠ .parked (.bar id)) : barCheck s team id = s := by
  have hall : (teamGroups s team).all (fun g => g.splits.all (fun x => x.status == .parked (.bar id))) = false := by
    rw [List.all_eq_false]
    refine ⟨x, by simp [teamGroups, hx, ht], ?_⟩
    simp only [List.all_eq_true, not_forall]
    exact ⟨y, hy, by simpa using hs⟩
  simp only [barCheck, hall, Bool.and_false, Bool.false_eq_true, if_false]

@[simp] theorem barrierFence_groups (s : State) (team : Nat) : (barrierFence s team).groups = s.groups := by
  unfold barrierFence
  split <;> simp
/-- A split that leaves its barrier. -/
def Split.released (x : Split) (clock : DWord) : Split := { x.next 4 with status := .ready, readySince := clock, aging := 0 }
/-- The groups of a team after the release of a barrier. -/
def releaseTeam (team : Nat) (clock : DWord) (g : Group) : Group :=
  if g.team == team then g.withSplits (g.splits.map (fun x => x.released clock)) else g
/-- R32: once every split of the team has arrived, each of them goes on. -/
theorem barCheck_release {s : State} {team id : Nat} (hne : ∃ x ∈ s.groups, x.team = team)
    (hall : ∀ x ∈ s.groups, x.team = team → ∀ y ∈ x.splits, y.status = .parked (.bar id)) :
    (barCheck s team id).groups = s.groups.map (releaseTeam team (barrierFence s team).clock) := by
  have hne' : (teamGroups s team).isEmpty = false := by
    obtain ⟨x, hx, ht⟩ := hne
    rw [List.isEmpty_eq_false_iff_exists_mem]
    exact ⟨x, by simp [teamGroups, hx, ht]⟩
  have hall' : (teamGroups s team).all (fun g => g.splits.all (fun x => x.status == .parked (.bar id))) = true := by
    simp only [List.all_eq_true, teamGroups, List.mem_filter, beq_iff_eq]
    exact fun x hx y hy => hall x hx.1 hx.2 y hy
  simp only [barCheck, hne', hall', Bool.not_false, Bool.and_true, if_true, barrierFence_groups]
  rfl

/-- Splits of a team that is released are found where they were, past their BAR. -/
theorem split?_releaseTeam {team : Nat} {clock : DWord} {g : Group} {k : Nat} {x : Split} (ht : g.team = team) (hk : g.split? k = some x) :
    (releaseTeam team clock g).split? k = some (x.released clock) := by
  rw [releaseTeam, if_pos (beq_iff_eq.2 ht), Group.split?, Group.withSplits, List.find?_map]
  exact congrArg (Option.map fun x => Split.released x clock) hk
theorem group?_map_releaseTeam {s t : State} {team : Nat} {clock : DWord} (h : t.groups = s.groups.map (releaseTeam team clock)) (u : Nat) :
    t.group? u = (s.group? u).map (releaseTeam team clock) := by
  have hp : (fun x : Group => x.uid == u) ∘ releaseTeam team clock = fun x => x.uid == u := by
    funext x
    simp only [Function.comp, releaseTeam]
    split <;> rfl
  rw [State.group?, h, List.find?_map, hp]
  rfl

/-- A group in the state's list, once one group has been put in place. -/
theorem mem_groups_setGroup {s : State} {g x : Group} (h : x ∈ (s.setGroup g).groups) : (x = g ∧ ∃ y ∈ s.groups, y.uid = g.uid) ∨
    (x ∈ s.groups ∧ x.uid ≠ g.uid) := by
  obtain ⟨y, hy, rfl⟩ := List.mem_map.1 h
  by_cases hu : y.uid = g.uid
  · exact .inl ⟨by simp [hu], y, hy, hu⟩
  · simp [hu, hy]
theorem mem_setGroup_of_ne {s : State} {g x : Group} (h : x ∈ s.groups) (hu : x.uid ≠ g.uid) : x ∈ (s.setGroup g).groups :=
  List.mem_map.2 ⟨x, h, by simp [hu]⟩
theorem mem_setGroup_self {s : State} {g g' : Group} (hg : s.group? g.uid = some g) (hu : g'.uid = g.uid) : g' ∈ (s.setGroup g').groups :=
  List.mem_of_find?_eq_some (group?_setGroup hg g' hu)
/-- A split of a group once one split has been put in place. -/
theorem Group.mem_setSplit {g : Group} {x y : Split} (h : y ∈ (g.setSplit x).splits) : y = x ∨ (y ∈ g.splits ∧ y.slot ≠ x.slot) := by
  obtain ⟨z, hz, rfl⟩ := List.mem_map.1 h
  by_cases hs : z.slot = x.slot <;> simp [hs, hz]

/-- Settles O25: each instruction's body is one of `yieldTo`, `parkAt`, `finish`, the acquire of `lauSig`, and the two outcomes of `barCheck`. -/
theorem waitingInstructionsWaitAndGoOn : Obligations.WaitingInstructionsWaitAndGoOn := by
  intro h s g sp hk yields
  refine ⟨fun hr => ?yield, fun f hr => ?sleep, fun f hr => ?waitc, fun f hr haway => ?held, fun f hr haway => ?bar⟩
  case yield =>
    obtain ⟨t, g', sp', ht, hy⟩ := yieldTo_spec hr.group hr.split
    exact ⟨t, g', sp', by rw [exec_uniform (exec_yield h s) hr rfl rfl, if_pos hk, ht], hy⟩
  case sleep =>
    have he := exec_uniform (exec_sleep h f s) hr rfl rfl
    rw [if_pos hk] at he
    dsimp only at he
    refine ⟨fun h0 => ?_, fun h0 => ?_⟩
    · obtain ⟨t, g', sp', ht, hy⟩ := yieldTo_spec hr.group hr.split
      exact ⟨t, g', sp', by rw [he, if_pos (by rw [h0]; rfl), ht], hy⟩
    · rw [he, if_neg (fun hn : (g.sReg f.a.toNat).toNat = 0 => h0 (BitVec.eq_of_toNat_eq hn))]
      rfl
  case waitc =>
    have he := exec_uniform (exec_waitc h f s) hr rfl rfl
    rw [if_pos hk] at he
    dsimp only at he
    refine ⟨fun hle h3 => ?_, fun hle h3 => ?_, fun hlt => ?_⟩
    · rw [if_pos hle, waitcDone, if_neg h3] at he
      exact completes_finish_same 4 he hr.group hr.split
    · rw [if_pos hle, waitcDone, if_pos h3] at he
      have ho := onlyGroup_setGroup s g (({ g with lauSig := [] } : Group).setSplit (sp.next 4)) hr.group rfl
      have hp := onlySplit_setSplit g { g with lauSig := [] } sp (sp.next 4) hr.split rfl rfl
      refine ⟨_, _, sp.next 4, he, ?_, hp, rfl, rfl, fun p hp => cacheLine?_applySig s g.core g.lauSig hp⟩
      rw [← ho.group]
      exact State.group?_congr (by simp [finish, State.setGroup]) _
    · rw [he, if_neg (Nat.not_le.2 hlt)]
      rfl
  case held =>
    rw [exec_uniform (exec_bar h f s) hr rfl rfl, if_pos hk]
    dsimp only
    rw [if_pos haway]
    rfl
  case bar =>
    have he := exec_uniform (exec_bar h f s) hr rfl rfl
    rw [if_pos hk, if_neg (by rw [haway]; exact Bool.false_ne_true)] at he
    refine ⟨?_, fun hall => ?_⟩
    · rintro ⟨x, hx, ht, hu, y, hy, hs⟩
      have hmem := mem_setGroup_of_ne (g := g.setSplit { sp with status := .parked (.bar f.b.toNat) }) hx hu
      rw [he, parkAt, barCheck_missing hmem ht hy (by rw [hs]; simp)]
    · refine ⟨_, he, fun u x k y hx ht hy => ?_⟩
      have hmem := mem_setGroup_self (g' := g.setSplit { sp with status := .parked (.bar f.b.toNat) }) hr.group rfl
      have hrel := barCheck_release (s := parkAt s g sp (.bar f.b.toNat)) (team := g.team) (id := f.b.toNat) ⟨_, hmem, rfl⟩ (by
        intro x hx ht y hy
        rcases mem_groups_setGroup hx with ⟨rfl, -⟩ | ⟨hx, hu⟩
        · rcases Group.mem_setSplit hy with rfl | ⟨hy, hslot⟩
          · rfl
          · exact (hall g (List.mem_of_find?_eq_some hr.group) rfl y hy).resolve_left fun h => hslot h.2
        · exact (hall x hx ht y hy).resolve_left fun h => hu h.1)
      obtain ⟨x1, y1, hx1, ht1, hy1, hpc, hmask⟩ : ∃ x1 y1, (parkAt s g sp (.bar f.b.toNat)).group? u = some x1 ∧ x1.team = g.team ∧
          x1.split? k = some y1 ∧ y1.pc = y.pc ∧ y1.mask = y.mask := by
        have ⟨ho, hp⟩ := setSplit_spec hr.group hr.split (g' := g) (sp' := { sp with status := .parked (.bar f.b.toNat) }) rfl rfl rfl
        by_cases hu : u = g.uid
        · obtain rfl : g = x := Option.some.inj (hr.group.symm.trans (hu ▸ hx))
          refine ⟨g.setSplit { sp with status := .parked (.bar f.b.toNat) }, ?_⟩
          rw [hu]
          by_cases hks : k = sp.slot
          · obtain rfl : sp = y := Option.some.inj (hr.split.symm.trans (hks ▸ hy))
            exact ⟨{ sp with status := .parked (.bar f.b.toNat) }, ho.group, rfl, by rw [hks]; exact hp.split, rfl, rfl⟩
          · exact ⟨_, ho.group, rfl, (hp.others k hks).trans hy, rfl, rfl⟩
        · exact ⟨x, y, (ho.others u hu).trans hx, ht, hy, rfl, rfl⟩
      have hfound := group?_map_releaseTeam hrel u
      rw [hx1] at hfound
      exact ⟨_, _, hfound, split?_releaseTeam ht1 hy1, by rw [← hpc]; rfl, rfl, by rw [← hmask]; rfl⟩
end Sys2Proof.Machine
end

section
/-! PROOFS. RESAMP with a target of 0 (O39): a lane beyond GWIDTH is no thread of the population, so it is not retired, and keeps its group. -/

namespace Sys2Proof.Machine

/-! ### The counterexample -/

/-- A split parked at a RESAMP of target 0 in its explicit form; its weight stands in V0. -/
def resampSplit : Split := { mask := 1, status := .parked (.resamp 1 0 0 (some 0) 1 []) }
/-- What that split waits with (R41 to R43). -/
def resampArgs : ResampArgs := ⟨1, 0, 0, some 0, 1, []⟩
/-- A group of width 1: lane 0 is a thread of weight 1.0, and lane 1, beyond the width, is live too. -/
def resampGroup : Group :=
  { uid := 1, grid := 2, team := 3, width := 1, lanes := [{ live := true, v := [0x3F800000] }, { live := true }], splits := [resampSplit] }
def resampGrid : Grid := { uid := 2, kind := .population, width := 1, popcap := 1, popsize := 1, nextTeam := 1 }
/-- Partition 0 runs, with this one group and its grid. -/
def resampState : State :=
  { groups := [resampGroup], grids := [resampGrid], parts := [{ block := List.replicate 14 0 ++ [1] }] }

theorem resampState_ready : resampReady resampState resampGrid = true := by decide
theorem resampState_groups : gridGroups resampState resampGrid.uid = [resampGroup] := by decide
/-- The population has weight. -/
theorem resampState_weight : ((threadsOf [resampGroup]).map (·.weight)).sum ≠ 0 := by decide

/-- Whether group `uid` is there in the state an outcome leads to. -/
def groupAfter (o : Host.Outcome State Fault Refusal) (uid : Nat) : Bool :=
  match o with
  | .next t => (t.group? uid).isSome
  | _ => false
/-- The model performs the RESAMP: its group is still there. -/
theorem groupAfter_resamp : groupAfter (exec (.resampEffect 2) resampState) 1 = true := by decide

/-- Refutes O39, in the last clause (a target of 0): `renumber` retires the threads, which are the live lanes below GWIDTH, and `groupCheck` keeps a
group while any of its lanes lives. -/
theorem not_collectivesRepackAndResample : ¬ Obligations.CollectivesRepackAndResample := by
  rintro ⟨-, -, -, hresamp⟩
  have hgs := resampState_groups
  obtain ⟨-, -, -, hzero⟩ := hresamp resampState resampGrid (by decide) resampState_ready (by rw [hgs]; decide)
    (by rw [hgs]; decide) (by rw [hgs]; decide) resampGroup resampSplit resampArgs
    (by rw [hgs]; rfl) rfl rfl
  obtain ⟨t, r', he, -, -, -, hgone⟩ := hzero (by rw [hgs]; exact resampState_weight) rfl
  have hnone : t.group? 1 = none := hgone resampGroup (by rw [hgs]; exact List.mem_singleton.2 rfl)
  have hafter := groupAfter_resamp
  rw [show exec (.resampEffect 2) resampState = .next t from he, groupAfter, hnone] at hafter
  exact absurd hafter (by decide)

end Sys2Proof.Machine
end

section
/-! PROOFS. Rows of the scheduler (O49): what each of them writes; the placement of a team, of whose new groups a store of their slot's header
changes the record of their image only. -/

namespace Sys2Proof.Machine

/-! ### Numbered things of a state, after a change by number -/

/-- A change of what has a key, that keeps the key, is seen where that is found. -/
theorem find?_map_if {α : Type} {p : α → Bool} {f : α → α} (hf : ∀ x, p x = true → p (f x) = true) (l : List α) :
    (l.map (fun x => if p x then f x else x)).find? p = (l.find? p).map f := by
  induction l with
  | nil => rfl
  | cons x l ih =>
    cases hx : p x with
    | true => simp [hx, hf x hx]
    | false => simpa [hx] using ih
theorem State.cask?_modCask {s : State} {n : Nat} {c : Cask} {f : Cask → Cask} (hc : s.cask? n = some c)
    (hf : ∀ x, x.num = n → (f x).num = n := by intro _ h; exact h) : (s.modCask n f).cask? n = some (f c) := by
  have h := find?_map_if (p := fun x : Cask => x.num == n) (f := f) (by simpa using hf) s.casks
  exact h.trans (congrArg (Option.map f) hc)
theorem State.grid?_modGrid {s : State} {n : Nat} {r : Grid} {f : Grid → Grid} (hr : s.grid? n = some r)
    (hf : ∀ x, x.uid = n → (f x).uid = n := by intro _ h; exact h) : (s.modGrid n f).grid? n = some (f r) := by
  have h := find?_map_if (p := fun x : Grid => x.uid == n) (f := f) (by simpa using hf) s.grids
  exact h.trans (congrArg (Option.map f) hr)
theorem State.packet?_modPacket {s : State} {n : PacketRef} {k : Packet} {f : Packet → Packet} (hk : s.packet? n = some k)
    (hf : ∀ x, x.ref = n → (f x).ref = n := by intro _ h; exact h) : (s.modPacket n f).packet? n = some (f k) := by
  have h := find?_map_if (p := fun x : Packet => x.ref == n) (f := f) (by simpa using hf) s.packets
  exact h.trans (congrArg (Option.map f) hk)
theorem State.grid?_uid {s : State} {n : Nat} {r : Grid} (h : s.grid? n = some r) : r.uid = n := by
  simpa using List.find?_some h

/-! ### Casks and task entries -/

/-- The row of a cellar moves what fits on the chip. -/
theorem refill_entries (c : Cask) : c.refill.chip ++ c.refill.cellar = c.chip ++ c.cellar := by
  simp [Cask.refill, List.append_assoc]
theorem refill_length (c : Cask) : c.refill.chip.length = max c.chip.length (min 4096 (c.chip.length + c.cellar.length)) := by
  simp only [Cask.refill, chipSize, List.length_append, List.length_take]
  omega

/-- An access whose translation the core's TLB holds, that only reads, changes nothing. -/
theorem globalCheck_read {s : State} {c : Ctx} {addr : DWord} {n pa : Nat} (h : Reaches54 s c needR addr n pa) :
    ∃ e, globalCheck s c needR addr n = (s, .ok (.plain pa e)) := by
  obtain ⟨hspace, halign, e, hfind, hperm, -, hpa, -, hap, htype, h15, h16⟩ := h
  refine ⟨e, ?_⟩
  have htr : translateFor s c needR.x needR.w addr.toNat = (s, .ok e) := by
    have hf : tlbFind s (tlbOwner c false) c addr.toNat = some e := hfind
    simp [translateFor, translate, hf, needR]
  have h15' : e.efmt.toNat ≠ 15 := fun h => h15 (BitVec.eq_of_toNat_eq h)
  have h16' : e.efmt.toNat ≠ 16 := fun h => h16 (BitVec.eq_of_toNat_eq h)
  have htarget : targetOf c e addr.toNat = .plain pa e := by
    simp only [targetOf, ← hpa, htype]
    simp [Nat.not_le.2 hap, h15', h16']
  simp only [globalCheck, htr, hperm, htarget, if_neg (Nat.not_le.2 hspace)]
  simp [halign, needR]

theorem entryPc_read {s : State} {r : Grid} {i pa : Nat} (h : Reaches54 s (gridCtx r) needR (r.kernarg + dw (8 * i)) 8 pa) :
    entryPc s r i = (s, dw (memReadNat s.hbm pa 8)) := by
  obtain ⟨e, he⟩ := globalCheck_read h
  rw [gridCtx] at he
  simp [entryPc, he, homeRead]

theorem joinGroup_new {r : Grid} {now : DWord} {i : Nat} {t : Task} (h : ∀ f ∈ r.forming, f.entry ≠ i) (hw : 1 < r.width) :
    joinGroup r now i t = { r with forming := r.forming ++ [⟨i, [t], now⟩] } := by
  have hfind : r.forming.find? (fun f => f.entry == i) = none := by simpa [List.find?_eq_none] using h
  have hrest : r.forming.filter (fun x => x.entry != i) = r.forming := by simpa [List.filter_eq_self] using h
  simp [joinGroup, hfind, hrest, Nat.not_le.2 hw]
theorem joinGroup_more {r : Grid} {now : DWord} {t : Task} {f : Forming} (h : r.forming = [f]) (hw : f.tasks.length + 1 < r.width) :
    joinGroup r now f.entry t = { r with forming := [{ f with tasks := f.tasks ++ [t] }] } := by
  simp [joinGroup, h, Nat.not_le.2 hw]
theorem joinGroup_full {r : Grid} {now : DWord} {t : Task} {f : Forming} (h : r.forming = [f]) (hw : f.tasks.length + 1 = r.width)
    (ht : r.formingTeams = []) : joinGroup r now f.entry t =
      { r with forming := [], formingTeams := [⟨f.entry, [f.tasks ++ [t]], now, decide (r.tg ≤ 1)⟩] } := by
  simp [joinGroup, joinTeam, h, ht, ← hw]
theorem joinGroup_uid (r : Grid) (now : DWord) (i : Nat) (t : Task) : (joinGroup r now i t).uid = r.uid := by
  unfold joinGroup joinTeam
  dsimp only
  split
  · split <;> rfl
  · rfl

/-- The row takes the head of the cask and changes the grid as `joinGroup` says. -/
theorem taskEntryTake_takes {s : State} {r : Grid} {c : Cask} {e : CaskEntry} {es : List CaskEntry} {pa : Nat} (hr : s.grid? r.uid = some r)
    (hc : s.cask? c.num = some c) (hkind : r.kind = .task) (hadm : r.admitted = true) (hruns : gridRuns s r = true) (hin : c.num ∈ r.casks)
    (hstop : takingStops s r = false) (hchip : c.chip = e :: es)
    (hpa : Reaches54 s (gridCtx r) needR (r.kernarg + dw (8 * (e.w0.toNat % 2 ^ 16))) 8 pa) :
    ∃ t, exec (.taskEntryTake r.uid c.num) s = .next t ∧ t.cask? c.num = some { c with chip := es } ∧
      t.grid? r.uid = some (joinGroup r s.clock (e.w0.toNat % 2 ^ 16)
        { pc := dw (memReadNat s.hbm pa 8), lo := e.lo, hi := e.hi, scope := e.scope, sig := e.sig }) ∧ SameMemory s t := by
  have hbits : bits e.w0.toNat 0 16 = e.w0.toNat % 2 ^ 16 := by simp [bits]
  have hpc := entryPc_read (s := s.modCask c.num (fun x => { x with chip := es })) (r := r) (i := e.w0.toNat % 2 ^ 16) (pa := pa)
    ⟨hpa.inSpace, hpa.aligned, hpa.hit⟩
  refine ⟨(s.modCask c.num (fun x => { x with chip := es })).modGrid r.uid (fun x => joinGroup x s.clock (e.w0.toNat % 2 ^ 16)
      { pc := dw (memReadNat s.hbm pa 8), lo := e.lo, hi := e.hi, scope := e.scope, sig := e.sig }), ?_, State.cask?_modCask hc,
    State.grid?_modGrid (s := s.modCask c.num (fun x => { x with chip := es })) hr (fun x hx => by rw [joinGroup_uid]; exact hx),
    rfl, rfl, rfl, rfl⟩
  rw [exec_taskEntryTake]
  simp only [execTaskEntryTake, hr, hc, hkind, hadm, hruns, hstop, takeEntry, hchip, hbits, hpc]
  simp [hin]

/-! ### Fill delays -/

theorem fillDelayExpiry_expires {s : State} {r : Grid} (e : Nat) (hr : s.grid? r.uid = some r) (hkind : r.kind = .task) (hruns : gridRuns s r = true)
    (hu : (expire s r e).uid = r.uid) : ∃ t, exec (.fillDelayExpiry r.uid e) s = .next t ∧ t.grid? r.uid = some (expire s r e) := by
  refine ⟨s.modGrid r.uid (fun _ => expire s r e), ?_, State.grid?_modGrid hr (fun _ _ => hu)⟩
  simp [exec_fillDelayExpiry, execFillDelayExpiry, hr, hkind, hruns]
theorem expire_group {s : State} {r : Grid} {f : Forming} (h : r.forming = [f]) (ht : r.formingTeams = []) (hd : r.fillDelay ≠ 0)
    (hover : delayOver s r f.since = true) : expire s r f.entry =
      { r with forming := [], formingTeams := [⟨f.entry, [f.tasks], s.clock, decide (r.tg ≤ 1)⟩] } := by
  have hnow (r' : Grid) (h' : r'.fillDelay = r.fillDelay) : delayOver s r' s.clock = false := by
    simp only [delayOver, h', usCycles, decide_eq_false_iff_not]
    omega
  have hdue : groupDue s r f = true := by simp [groupDue, hd, hover]
  simp [expire, h, hdue, joinTeam, ht, hnow]
theorem expire_team {s : State} {r : Grid} {f : FormingTeam} (h : r.forming = []) (ht : r.formingTeams = [f])
    (hover : delayOver s r f.since = true) : expire s r f.entry = { r with formingTeams := [{ f with ready := true }] } := by
  simp [expire, h, ht, hover]

end Sys2Proof.Machine
end

section
/-! PROOFS. The row of a grid's retirement, matrix budgets and waits, and the placement of a team (O49). -/

namespace Sys2Proof.Machine

/-! ### Retirement, budgets, waits -/

theorem removeGrid_grids (s : State) (r : Grid) : (removeGrid s r).grids = s.grids.filter (fun x => x.uid != r.uid) := by
  have hfold := foldl_field (p := State.grids) (f := fun s n => s.modCask n (fun c => { c with bound := none })) (fun _ _ => rfl) r.casks s
  unfold removeGrid
  dsimp only
  split <;> simp [State.modPart, hfold]
theorem removeGrid_packets (s : State) (r : Grid) : (removeGrid s r).packets = s.packets := by
  have hfold := foldl_field (p := State.packets) (f := fun s n => s.modCask n (fun c => { c with bound := none })) (fun _ _ => rfl) r.casks s
  unfold removeGrid
  dsimp only
  split <;> simp [State.modPart, hfold]
theorem removeGrid_hbm (s : State) (r : Grid) : (removeGrid s r).hbm = s.hbm := by
  have hfold := foldl_field (p := State.hbm) (f := fun s n => s.modCask n (fun c => { c with bound := none })) (fun _ _ => rfl) r.casks s
  unfold removeGrid
  dsimp only
  split <;> simp [State.modPart, hfold]

theorem gridRetirement_retires {s : State} {r : Grid} {k : Packet} (hr : s.grid? r.uid = some r) (hover : gridOver s r = true)
    (hruns : gridRuns s r = true) (hk : s.packet? r.packet = some k) : ∃ t, exec (.gridRetirement r.uid) s = .next t ∧ t.grid? r.uid = none ∧
      t.packet? r.packet = some { k with state := .complete, code := 0 } ∧ t.hbm = s.hbm := by
  refine ⟨completePacket (removeGrid s r) r.packet 0, ?_, ?_, ?_, removeGrid_hbm s r⟩
  · simp [exec_gridRetirement, execGridRetirement, hr, hover, hruns]
  · simp [State.grid?, completePacket, removeGrid_grids, List.find?_eq_none]
  · exact State.packet?_modPacket ((congrArg (List.find? _) (removeGrid_packets s r)).trans hk)
theorem gridOver_ordinary {s : State} {r : Grid} (hkind : r.kind = .ordinary) (hadm : r.admitted = true) (hteams : ∀ tm ∈ s.teams, tm.grid ≠ r.uid)
    (hnt : r.nt ≤ r.nextTeam) : gridOver s r = true := by
  simp [gridOver, hadm, hkind, hnt]
  exact hteams

theorem Budget.renew_eq (b : Budget) : b.renew = { b with left := b.limit.getD 0, spent := if b.limit ≠ none ∧ b.left = 0 then b.spent + 1 else 0 } := by
  unfold Budget.renew
  split
  · next h => simp [h]
  · next h => simp [h]
theorem budgetPeriod_renews {s : State} (hb : s.boot = .running) (c : Nat) : ∃ t, exec (.budgetPeriod c) s = .next t ∧ t = { s with budgets := t.budgets } ∧
    ∀ k : Nat, ∀ b, s.budgets[k]? = some b → t.budgets[k]? = some (if k = c then b.renew else b) := by
  refine ⟨{ s with budgets := s.budgets.zipIdx.map (fun q => if q.2 = c then q.1.renew else q.1) }, ?_, rfl, fun k b hk => ?_⟩
  · simp [exec_budgetPeriod, execBudgetPeriod, hb]
  · simp [hk]

theorem matrixWaitLimit_grants {s : State} {g : Group} {sp : Split} {since : DWord} (hs : s.groups = [g]) (hsp : g.splits = [sp])
    (hon : teamOnCores s g.team = true) (hsince : sp.budgetSince = some since) (hdue : since.toNat + 20 * 1750 ≤ s.clock.toNat) :
    ∃ t, exec (.matrixWaitLimit g.core) s = .next t ∧ t.groups = [{ g with splits := [{ sp with budgetGranted := true }] }] ∧
      t = { s with groups := t.groups } := by
  have hlong : longWaiters s g.core = [(g.uid, sp.slot, since.toNat)] := by
    have hw : waitedLong s sp = true := by simp [waitedLong, hsince, usCycles, hdue]
    simp [longWaiters, coreGroups, hs, hon, hsp, hw, hsince]
  refine ⟨s.modSplit g.uid sp.slot (fun x => { x with budgetGranted := true }), ?_, ?_, rfl⟩
  · simp [exec_matrixWaitLimit, execMatrixWaitLimit, hlong, longest]
  · simp [State.modSplit, State.modGroup, hs, hsp]

/-! ### The least loaded core -/

/-- Core `c` goes before core `d`: fewer resident lanes, or as many and a lower number. -/
def goesBefore (s : State) (r : Grid) (c d : Nat) : Prop := lanesAt s r c < lanesAt s r d ∨ lanesAt s r c = lanesAt s r d ∧ c ≤ d
/-- Of two cores, the second where it has fewer resident lanes. -/
def lighter (s : State) (r : Grid) (b c : Nat) : Nat := if lanesAt s r c < lanesAt s r b then c else b
theorem leastLoaded_cons (s : State) (r : Grid) (b : Nat) (l : List Nat) : leastLoaded s r (b :: l) = some (l.foldl (lighter s r) b) := by
  simp only [leastLoaded, List.foldl_cons]
  induction l generalizing b with
  | nil => rfl
  | cons x l ih =>
    simp only [List.foldl_cons, lighter]
    split <;> exact ih _
/-- Among ascending cores the one chosen goes before all. -/
theorem lighter_first {s : State} {r : Grid} {b : Nat} {l : List Nat} (hl : (b :: l).Pairwise (· < ·)) :
    l.foldl (lighter s r) b ∈ b :: l ∧ ∀ d ∈ b :: l, goesBefore s r (l.foldl (lighter s r) b) d := by
  induction l generalizing b with
  | nil => simp [goesBefore]
  | cons x l ih =>
    obtain ⟨hb, hxl⟩ := List.pairwise_cons.1 hl
    have hbx : b < x := hb x (by simp)
    rw [List.foldl_cons]
    by_cases hlt : lanesAt s r x < lanesAt s r b
    · rw [lighter, if_pos hlt]
      obtain ⟨hin, hfirst⟩ := ih hxl
      refine ⟨List.mem_cons_of_mem b hin, List.forall_mem_cons.2 ⟨?_, hfirst⟩⟩
      have hcx := hfirst x (by simp)
      simp only [goesBefore] at hcx ⊢
      omega
    · rw [lighter, if_neg hlt]
      have hbl : (b :: l).Pairwise (· < ·) := List.pairwise_cons.2 ⟨fun d hd => hb d (by simp [hd]), (List.pairwise_cons.1 hxl).2⟩
      obtain ⟨hin, hfirst⟩ := ih hbl
      obtain ⟨hcb, hrest⟩ := List.forall_mem_cons.1 hfirst
      refine ⟨by simp only [List.mem_cons] at hin ⊢; tauto, List.forall_mem_cons.2 ⟨hcb, List.forall_mem_cons.2 ⟨?_, hrest⟩⟩⟩
      simp only [goesBefore] at hcb ⊢
      omega
theorem leastLoaded_first {s : State} {r : Grid} {c : Nat} {l : List Nat} (hl : l.Pairwise (· < ·)) (h : leastLoaded s r l = some c) :
    c ∈ l ∧ ∀ d ∈ l, goesBefore s r c d := by
  cases l with
  | nil => simp [leastLoaded] at h
  | cons b l =>
    rw [leastLoaded_cons, Option.some.injEq] at h
    exact h ▸ lighter_first hl

theorem coresList_ascending (m : BitVec 192) : (coresList m).Pairwise (· < ·) := List.pairwise_lt_range.filter _
theorem mem_coresList {m : BitVec 192} {c : Nat} : c ∈ coresList m ↔ c < 192 ∧ m.getLsbD c = true := by simp [coresList, upTo]
/-- Where the next team of an unpaired grid without RSV goes. -/
theorem pickCore_least {s : State} {r : Grid} {n : Nat} {c : Nat} (hpair : r.paired = false) (hrsv : r.rsv = false) (h : pickCore s r (n, 0) = some c) :
    c < 192 ∧ r.cores.getLsbD c = true ∧ teamFits s r n 0 c = true ∧
      ∀ d, d < 192 → r.cores.getLsbD d = true → ((s.part r.part).reserved ||| (s.part r.part).releasing).getLsbD d = false → teamFits s r n 0 d = true →
        residentLanes s c < residentLanes s d ∨ (residentLanes s c = residentLanes s d ∧ c ≤ d) := by
  have hmem (d : Nat) : d ∈ (startCores s r).filter (fun c => teamFits s r n 0 c) ↔ ((d < 192 ∧ r.cores.getLsbD d = true) ∧
      ((s.part r.part).reserved ||| (s.part r.part).releasing).getLsbD d = false) ∧ teamFits s r n 0 d = true := by
    simp [startCores, placementSet, hpair, hrsv, mem_coresList]
    tauto
  have hsorted : ((startCores s r).filter (fun c => teamFits s r n 0 c)).Pairwise (· < ·) := by
    simp only [startCores, placementSet, hpair]
    exact ((coresList_ascending _).filter _).filter _
  obtain ⟨hin, hfirst⟩ := leastLoaded_first hsorted h
  obtain ⟨⟨⟨hc, hcore⟩, -⟩, hfits⟩ := (hmem c).1 hin
  refine ⟨hc, hcore, hfits, fun d hd hdc hfree hdf => ?_⟩
  simpa [goesBefore, lanesAt, hpair] using hfirst d ((hmem d).2 ⟨⟨⟨hd, hdc⟩, hfree⟩, hdf⟩)

/-! ### The groups of a new team -/

/-- The groups, teams and grids of a state. -/
def standing (s : State) : List Group × List Team × List Grid := (s.groups, s.teams, s.grids)
theorem writeBack_teams (s : State) (core line : Nat) : (writeBack s core line).teams = s.teams := by
  unfold writeBack
  split
  · rfl
  · split
    · rfl
    · simp only [modLine]
      split <;> split <;> rfl
theorem writeBack_grids (s : State) (core line : Nat) : (writeBack s core line).grids = s.grids := by
  unfold writeBack
  split
  · rfl
  · split
    · rfl
    · simp only [modLine]
      split <;> split <;> rfl
theorem writeBack_standing (s : State) (p : Nat × Nat) : standing (writeBack s p.1 p.2) = standing s := by
  simp only [standing, writeBack_groups, writeBack_teams, writeBack_grids]
theorem retireOldest_standing (s : State) (l : Loc) : standing (retireOldest s l) = standing s := by
  unfold retireOldest
  split
  · rfl
  · split
    · rfl
    · dsimp only
      split
      · rfl
      · split
        · rfl
        · exact foldl_field standing writeBack_standing _ s
theorem deposit_standing (s : State) (l : Loc) (n : Nat) (lines : List (Nat × Nat)) (rmw : Bool) : standing (deposit s l n lines rmw) = standing s := by
  simp only [deposit]
  generalize unionPairs (if rmw = true then sigAt s l n else []) lines = all
  cases all.isEmpty with
  | true => rfl
  | false => exact retireOldest_standing (endSequence s l n) l
theorem kilnStore_standing (s : State) (pa n v : Nat) : standing (kilnStore s pa n v) = standing s := by
  obtain ⟨T, hT⟩ := touch_frame (homeWrite s pa n v) kilnCore (pa / 128)
  simp only [kilnStore, deposit_standing, hT]
  rfl

/-- A group but for the device's record of its image. -/
def Group.bare (g : Group) : Group := { g with image := [], tampered := false }
/-- From a state to another, teams and grids are the same, and groups but for the records of their images. -/
def SameStanding (s t : State) : Prop := t.groups.map Group.bare = s.groups.map Group.bare ∧ t.teams = s.teams ∧ t.grids = s.grids
theorem SameStanding.refl (s : State) : SameStanding s s := ⟨rfl, rfl, rfl⟩
theorem SameStanding.trans {s t u : State} (h : SameStanding s t) (h' : SameStanding t u) : SameStanding s u := by
  obtain ⟨h1, h2, h3⟩ := h
  obtain ⟨h1', h2', h3'⟩ := h'
  exact ⟨h1'.trans h1, h2'.trans h2, h3'.trans h3⟩
theorem sameStanding_of_eq {s t : State} (h : standing t = standing s) : SameStanding s t := by
  simp only [standing, Prod.mk.injEq] at h
  obtain ⟨hg, ht, hr⟩ := h
  exact ⟨by rw [hg], ht, hr⟩
theorem sameStanding_modGroup (s : State) (u : Nat) {f : Group → Group} (hf : ∀ x, (f x).bare = x.bare) : SameStanding s (s.modGroup u f) := by
  refine ⟨?_, rfl, rfl⟩
  simp only [State.modGroup, List.map_map]
  refine List.map_congr_left fun x _ => ?_
  simp only [Function.comp]
  split
  · exact hf x
  · rfl
theorem checkImage_standing (s : State) (u : Nat) : SameStanding s (checkImage s u) := by
  unfold checkImage
  split
  · split
    · exact sameStanding_modGroup s u fun _ => rfl
    · exact .refl s
  · exact .refl s
theorem noteImage_standing (s : State) (u : Nat) : SameStanding s (noteImage s u) := by
  unfold noteImage
  split
  · split
    · exact sameStanding_modGroup s u fun _ => rfl
    · exact .refl s
  · exact .refl s
theorem storeHeader_standing (s : State) (g : Group) (code : Nat) : SameStanding s (storeHeader s g code) := by
  unfold storeHeader
  split
  · dsimp only
    refine .trans ?_ (noteImage_standing _ _)
    refine .trans (checkImage_standing s g.uid) (sameStanding_of_eq ?_)
    rw [kilnStore_standing, kilnStore_standing, kilnStore_standing]
  · exact .refl s
/-- A new group stands after the others. -/
theorem addGroup_standing (s : State) (g : Group) : (addGroup s g).groups.map Group.bare = s.groups.map Group.bare ++ [g.bare] ∧
    (addGroup s g).teams = s.teams ∧ (addGroup s g).grids = s.grids := by
  obtain ⟨hg, ht, hr⟩ := (noteImage_standing { s with groups := s.groups ++ [g], uid := s.uid + 1 } g.uid).trans (storeHeader_standing _ g 1)
  exact ⟨by rw [addGroup, hg]; simp, ht, hr⟩

theorem takeUnits_eq (s : State) (part n : Nat) : ∃ P, (takeUnits s part n).1 = { s with parts := P } := by
  induction n generalizing s with
  | zero => exact ⟨s.parts, rfl⟩
  | succ n ih =>
    unfold takeUnits
    split
    · next u _ =>
      obtain ⟨P, hP⟩ := ih (takeUnit s part u)
      exact ⟨P, by rw [hP]; rfl⟩
    · exact ⟨s.parts, rfl⟩

end Sys2Proof.Machine
end

section
/-! PROOFS. A team is placed with fresh groups; the rows of the scheduler together (O49). -/

namespace Sys2Proof.Machine

/-! ### A group at its start -/

theorem getLsbD_laneBit (l k : Nat) (hk : k < 64) : (laneBit l).getLsbD k = decide (l = k) := by
  rw [laneBit, BitVec.getLsbD_ofNat, Nat.testBit_two_pow]
  simp [hk]
theorem getLsbD_maskOf (ls : List Nat) (k : Nat) (hk : k < 64) : (maskOf ls).getLsbD k = decide (k ∈ ls) := by
  have hfold (m : Mask) : (ls.foldl (fun m l => m ||| laneBit l) m).getLsbD k = (m.getLsbD k || decide (k ∈ ls)) := by
    induction ls generalizing m with
    | nil => simp
    | cons l ls ih =>
      rw [List.foldl_cons, ih, BitVec.getLsbD_or, getLsbD_laneBit l k hk, Bool.or_assoc]
      simp [eq_comm]
  rw [maskOf, hfold]
  simp

/-- What R155 asks of group `k` of a new team `team` on core `c`: its registers zero, its lanes below GWIDTH live and zero, one ready split of
all of them at the kernel's PC. -/
def StartsFresh (r : Grid) (team c k : Nat) (g : Group) : Prop :=
  g.team = team ∧ g.groupid = k ∧ g.core = c ∧ g.kernarg = r.kernarg ∧ (∀ n, g.sReg n = 0) ∧
    (∀ n, n < 7 → g.kReg n = false) ∧ g.utvec = 0 ∧ g.utcause = 0 ∧ g.utepc = 0 ∧ g.timecmp = 0 ∧
    (∀ l, l < r.width → (g.lane l).live = true ∧ (∀ n, (g.lane l).vReg n = 0) ∧ ∀ n, n < 7 → (g.lane l).pReg n = false) ∧
    ∃ sp, g.splits = [sp] ∧ sp.pc = r.pc ∧ sp.sup = r.sup ∧ sp.status = .ready ∧ ∀ l, l < 64 → sp.mask.getLsbD l = decide (l < r.width)
/-- The record of an image is no part of it. -/
theorem startsFresh_bare {r : Grid} {team c k : Nat} {g : Group} : StartsFresh r team c k g.bare ↔ StartsFresh r team c k g := Iff.rfl

/-- The threads of a group at launch. -/
def launchLanes (r : Grid) (teamid k : Nat) : List Lane := (upTo r.width).map (fun l => freshLane r (launchIndex r teamid k l) [])
theorem launchLanes_getD {r : Grid} {teamid k l : Nat} (h : l < r.width) :
    (launchLanes r teamid k).getD l {} = freshLane r (launchIndex r teamid k l) [] := by
  simp [launchLanes, upTo, List.getD_eq_getElem?_getD, List.getElem?_range h]
theorem getD_replicate_self {α : Type} (m : Nat) (a : α) (n : Nat) : (List.replicate m a).getD n a = a := by
  rw [List.getD_eq_getElem?_getD, List.getElem?_getD_replicate_default_eq]
theorem freshLane_vReg (r : Grid) (i n : Nat) : (freshLane r i []).vReg n = 0 := by
  simp only [Lane.vReg, freshLane, List.nil_append, List.length_nil, Nat.sub_zero, List.take_replicate]
  exact getD_replicate_self _ _ _
theorem low_clear {n : Nat} (h : n < 7) : (n == 7) = false := by
  rw [beq_eq_false_iff_ne]
  omega
theorem freshGroup_startsFresh (s : State) (r : Grid) (team k c slot teamid : Nat) :
    StartsFresh r team c k (freshGroup s r team k c slot (pcWord r.pc) (launchLanes r teamid k)) := by
  have hlive (l : Nat) (hl : l < r.width) : ((launchLanes r teamid k).getD l {}).live = true := by rw [launchLanes_getD hl]; rfl
  refine ⟨rfl, rfl, rfl, rfl, fun n => ?_, fun n hn => ?_, rfl, rfl, rfl, rfl, fun l hl => ⟨hlive l hl, fun n => ?_, fun n hn => ?_⟩,
    _, rfl, ?_, rfl, rfl, fun l hl => ?_⟩
  · rw [Group.sReg]
    split
    · rfl
    · exact getD_replicate_self _ _ _
  · simp [Group.kReg, freshGroup, low_clear hn]
  · exact (congrArg (fun x => x.vReg n) (launchLanes_getD hl)).trans (freshLane_vReg r _ n)
  · refine (congrArg (fun x => x.pReg n) (launchLanes_getD hl)).trans ?_
    simp [Lane.pReg, freshLane, low_clear hn]
  · simp only [freshSplit, pcWord]
    ext i hi
    simp [hi, Nat.lt_trans hi]
  · simp only [freshSplit, getLsbD_maskOf _ l hl, upTo, List.mem_filter, List.mem_range]
    simpa using fun h => hlive l h

/-! ### A team at its start -/

/-- The group of a plan joins its team on core `c`. -/
def addPlan (r : Grid) (team c : Nat) (units : List Nat) (s : State) (p : GroupPlan × Nat) : State :=
  addGroup s (freshGroup s r team p.2 c (units.getD p.2 0) p.1.pc p.1.lanes)
theorem addPlans_standing (r : Grid) (team c : Nat) (units : List Nat) (l : List (GroupPlan × Nat)) (s : State) :
    let t := l.foldl (addPlan r team c units) s
    t.teams = s.teams ∧ t.grids = s.grids ∧ (∀ g ∈ s.groups, g.bare ∈ t.groups.map Group.bare) ∧
      ∀ p ∈ l, ∃ s', (freshGroup s' r team p.2 c (units.getD p.2 0) p.1.pc p.1.lanes).bare ∈ t.groups.map Group.bare := by
  induction l generalizing s with
  | nil => exact ⟨rfl, rfl, fun g hg => List.mem_map_of_mem hg, by simp⟩
  | cons p l ih =>
    obtain ⟨hteams, hgrids, hold, hnew⟩ := ih (addPlan r team c units s p)
    obtain ⟨hg, ht, hr⟩ := addGroup_standing s (freshGroup s r team p.2 c (units.getD p.2 0) p.1.pc p.1.lanes)
    have hkeep (b : Group) (hb : b ∈ (addPlan r team c units s p).groups.map Group.bare) :
        b ∈ (l.foldl (addPlan r team c units) (addPlan r team c units s p)).groups.map Group.bare := by
      obtain ⟨x, hx, rfl⟩ := List.mem_map.1 hb
      exact hold x hx
    refine ⟨hteams.trans ht, hgrids.trans hr, fun g hs => hkeep _ ?_, List.forall_mem_cons.2 ⟨⟨s, hkeep _ ?_⟩, hnew⟩⟩
    · rw [addPlan, hg]
      exact List.mem_append_left _ (List.mem_map_of_mem hs)
    · rw [addPlan, hg]
      simp

/-- The state with a new team, before it has groups. -/
def withTeam (s : State) (r : Grid) (teamid core groups : Nat) : State :=
  { s.fresh.2 with teams := s.teams ++ [{ uid := s.uid, grid := r.uid, teamid := teamid, core := core, paired := r.paired, scratch := r.scratch,
                                          acc := r.acc, groups := groups }] }
theorem startTeam_ordinary {s : State} {r : Grid} {teamid core : Nat} {units : List Nat} {plans : List GroupPlan} (hkind : r.kind = .ordinary)
    (hpair : r.paired = false) (hacq : ∀ p ∈ plans, p.acq = []) :
    startTeam s r teamid core units plans = plans.zipIdx.foldl (addPlan r s.uid core units) (withTeam s r teamid core plans.length) := by
  simp only [startTeam]
  refine List.foldl_ext _ _ _ fun t p hp => ?_
  have hp' : p.1.acq = [] := hacq p.1 (List.fst_mem_of_mem_zipIdx hp)
  simp [hp', hkind, hpair, addPlan, State.fresh]

theorem mem_launchPlans {r : Grid} {teamid k : Nat} (hk : k < r.tg) :
    ((⟨pcWord r.pc, launchLanes r teamid k, []⟩ : GroupPlan), k) ∈ (launchPlans r teamid).zipIdx := by
  rw [List.mem_zipIdx_iff_getElem?]
  simp [launchPlans, upTo, List.getElem?_range hk, launchLanes]
theorem launchPlans_length (r : Grid) (teamid : Nat) : (launchPlans r teamid).length = r.tg := by simp [launchPlans, upTo]
/-- A team of an ordinary grid starts: it stands in the list, and each of its groups is fresh. -/
theorem startTeam_launch {s : State} {r : Grid} (teamid core : Nat) (units : List Nat) (hkind : r.kind = .ordinary) (hpair : r.paired = false) :
    let t := startTeam s r teamid core units (launchPlans r teamid)
    t.teams = s.teams ++ [{ uid := s.uid, grid := r.uid, teamid := teamid, core := core, scratch := r.scratch, acc := r.acc, groups := r.tg }] ∧
      t.grids = s.grids ∧ ∀ k, k < r.tg → ∃ g ∈ t.groups, StartsFresh r s.uid core k g := by
  intro t
  have hacq : ∀ p ∈ launchPlans r teamid, p.acq = [] := by
    intro p hp
    obtain ⟨k, -, rfl⟩ := List.mem_map.1 hp
    rfl
  have ht : t = (launchPlans r teamid).zipIdx.foldl (addPlan r s.uid core units) (withTeam s r teamid core (launchPlans r teamid).length) :=
    startTeam_ordinary hkind hpair hacq
  obtain ⟨hteams, hgrids, -, hnew⟩ := addPlans_standing r s.uid core units (launchPlans r teamid).zipIdx
    (withTeam s r teamid core (launchPlans r teamid).length)
  rw [← ht] at hteams hgrids hnew
  refine ⟨?_, hgrids, fun k hk => ?_⟩
  · rw [hteams, withTeam, hpair, launchPlans_length]
  · obtain ⟨s', hmem⟩ := hnew _ (mem_launchPlans (teamid := teamid) hk)
    obtain ⟨g, hg, hbare⟩ := List.mem_map.1 hmem
    refine ⟨g, hg, startsFresh_bare.1 ?_⟩
    rw [hbare]
    exact startsFresh_bare.2 (freshGroup_startsFresh s' r s.uid k core _ teamid)

/-! ### The next team of a grid -/

theorem placeStep_fresh {s : State} {r : Grid} (hboot : s.boot = .running) (hgrids : s.grids = [r]) (hpart : (s.part r.part).running = true)
    (hsaved : (s.part r.part).qState r.packet.queue ≠ 3) (hadm : r.admitted = true) (hkind : r.kind = .ordinary) (hrsv : r.rsv = false)
    (hnext : r.nextTeam < r.nt) (hteams : ∀ tm ∈ s.teams, tm.saved = false) : placeStep s r = (placeFresh s r).getD s := by
  have hno : savedTeams s r = [] := by
    simp only [savedTeams, List.filter_eq_nil_iff]
    intro tm htm
    simp [hteams tm htm]
  have hahead : aheadTeams s r.part = [] := by simp [aheadTeams, hgrids, hno]
  have hearly : earlierFirst s r = false := by simp [earlierFirst, hgrids]
  have hnextp : placeNext s r = placeFresh s r := by
    simp [placeNext, hboot, hpart, hsaved, hadm, placeAdmitted, hno, firstTeam, hrsv, hkind, Nat.not_le.2 hnext]
  simp [placeStep, hboot, hpart, hahead, hearly, hnextp]
/-- The state in which the units of the grid's next team are taken, and these. -/
def nextUnits (s : State) (r : Grid) : State × List Nat := takeSlots (s.modGrid r.uid (fun x => { x with nextTeam := x.nextTeam + 1 })) r r.tg
theorem placeFresh_one {s : State} {r : Grid} {c : Nat} (hgrids : s.grids = [r]) (hpair : r.paired = false) (hclus : r.clus = false)
    (hunits : (s.part r.part).slotsUsed.length + r.tg ≤ imgUnits s r.part) (hpick : pickCore s r (r.tg, 0) = some c) :
    placeFresh s r = some (startTeam (nextUnits s r).1 r r.nextTeam c (nextUnits s r).2 (launchPlans r r.nextTeam)) := by
  have hleft : unitsLeft s r.part r.uid r.tg = true := by simpa [unitsLeft, unitsHeld, hgrids] using hunits
  simp [placeFresh, hclus, newHalves, hpair, hpick, hleft, upTo, nextUnits]
theorem nextUnits_eq (s : State) (r : Grid) : ∃ P G, (nextUnits s r).1 = { s with parts := P, grids := G } ∧
    ∀ q, s.grid? r.uid = some q → (nextUnits s r).1.grid? r.uid = some { q with nextTeam := q.nextTeam + 1, images := q.images - r.tg } := by
  obtain ⟨P, hP⟩ := takeUnits_eq (s.modGrid r.uid (fun x => { x with nextTeam := x.nextTeam + 1 })) r.part r.tg
  rw [nextUnits, takeSlots, hP]
  refine ⟨P, _, rfl, fun q hq => ?_⟩
  have h := State.grid?_modGrid (f := fun x => { x with nextTeam := x.nextTeam + 1 }) hq
  exact State.grid?_modGrid (s := { s.modGrid r.uid (fun x => { x with nextTeam := x.nextTeam + 1 }) with parts := P })
    (f := fun x => { x with images := x.images - r.tg }) h

/-- The row of a placement: the next team goes to the core that is chosen, and its groups are fresh. -/
theorem teamPlacement_places {s : State} {r : Grid} {c : Nat} (hstep : placeStep s r = (placeFresh s r).getD s) (hgrids : s.grids = [r])
    (hkind : r.kind = .ordinary) (hpair : r.paired = false) (hclus : r.clus = false)
    (hunits : (s.part r.part).slotsUsed.length + r.tg ≤ imgUnits s r.part) (hpick : pickCore s r (r.tg, 0) = some c) :
    ∃ t, exec (.teamPlacement r.uid) s = .next t ∧ (∃ r', t.grid? r.uid = some r' ∧ r'.nextTeam = r.nextTeam + 1) ∧
      ∃ tm ∈ t.teams, tm = { uid := s.uid, grid := r.uid, teamid := r.nextTeam, core := c, scratch := r.scratch, acc := r.acc, groups := r.tg } ∧
        ∀ k, k < r.tg → ∃ g ∈ t.groups, StartsFresh r s.uid c k g := by
  have hr : s.grid? r.uid = some r := by simp [State.grid?, hgrids]
  obtain ⟨P, G, hu, hgrid⟩ := nextUnits_eq s r
  obtain ⟨hteams, hkeep, hnew⟩ := startTeam_launch (s := (nextUnits s r).1) r.nextTeam c (nextUnits s r).2 hkind hpair
  have huid : (nextUnits s r).1.uid = s.uid := by rw [hu]
  rw [huid] at hteams hnew
  refine ⟨startTeam (nextUnits s r).1 r r.nextTeam c (nextUnits s r).2 (launchPlans r r.nextTeam), ?_, ⟨_, (congrArg (List.find? _) hkeep).trans (hgrid r hr), rfl⟩,
    _, ?_, rfl, hnew⟩
  · rw [exec_teamPlacement]
    simp [execTeamPlacement, hr, hstep, placeFresh_one hgrids hpair hclus hunits hpick]
  · rw [hteams]
    simp

/-- Settles O49, row by row: `taskEntryTake_takes` with `joinGroup`'s three cases, `fillDelayExpiry_expires`, `pickCore_least` and
`teamPlacement_places`, and the rows of retirement, budgets and waits. -/
theorem schedulerRowsPlaceAndRetire : Obligations.SchedulerRowsPlaceAndRetire := by
  intro s hboot
  refine ⟨?_, ?_, ?_, ?_, ?_, ?_, ?_, ?_⟩
  case refine_1 =>
    intro c hc
    refine ⟨s.modCask c.num Cask.refill, c.refill, ?_, State.cask?_modCask hc, refill_entries c, refill_length c, rfl, rfl, rfl, rfl⟩
    simp [exec_cellarMove, execCellarMove, hboot]
  case refine_2 =>
    intro r c e es pa i ctx task takes hr hc hkind hadm hruns hin hstop hchip hpa
    have htake := taskEntryTake_takes hr hc hkind hadm hruns hin hstop hchip hpa
    refine ⟨fun hnew hw => ?_, fun f hf hi hw => ?_, fun f hf hi hw ht => ?_⟩
    · rwa [joinGroup_new hnew hw] at htake
    · rwa [show e.w0.toNat % 2 ^ 16 = f.entry from hi.symm, joinGroup_more hf hw] at htake
    · rw [show e.w0.toNat % 2 ^ 16 = f.entry from hi.symm, joinGroup_full hf hw ht] at htake
      rwa [← hi]
  case refine_3 =>
    intro r f hr hkind hruns hf ht hd hover
    have h := expire_group (s := s) hf ht hd (decide_eq_true hover)
    simpa only [h] using fillDelayExpiry_expires f.entry hr hkind hruns (by rw [h])
  case refine_4 =>
    intro r f hr hkind hruns hf ht hover
    have h := expire_team (s := s) hf ht (decide_eq_true hover)
    simpa only [h] using fillDelayExpiry_expires f.entry hr hkind hruns (by rw [h])
  case refine_5 =>
    intro r c hgrids hpart hsaved hadm hkind hpair hclus hrsv hnext hteams hunits hpick
    obtain ⟨hc, hcore, hfits, hleast⟩ := pickCore_least hpair hrsv hpick
    exact ⟨hc, hcore, hfits, hleast, teamPlacement_places (placeStep_fresh hboot hgrids hpart hsaved hadm hkind hrsv hnext hteams)
      hgrids hkind hpair hclus hunits hpick⟩
  case refine_6 =>
    intro r k hr hkind hadm hruns hteams hnt hk
    exact gridRetirement_retires hr (gridOver_ordinary hkind hadm hteams hnt) hruns hk
  case refine_7 =>
    intro c
    simpa only [Budget.renew_eq] using budgetPeriod_renews hboot c
  case refine_8 =>
    intro g sp n since hs hsp hon _ hsince hdue
    exact matrixWaitLimit_grants hs hsp hon hsince hdue

end Sys2Proof.Machine
end

section
/-! PROOFS. A RAWAIT that claims as a release (O46): the entry for its release signature retires the oldest one of a full table (R84 step 4),
whose lines are written back to HBM. -/

namespace Sys2Proof.Machine

/-! ### The counterexample -/

/-- A split parked at a RAWAIT of order release and device scope, its one lane waiting at the ring header at byte 0 of the scratchpad. -/
def claimSplit : Split := { mask := 1, status := .parked (.rawait 2 3 8 [⟨0, 0, .scratch 0 0, 0⟩] [] []) }
def claimGroup : Group := { uid := 1, grid := 0, team := 0, lanes := [{ live := true }], splits := [claimSplit] }
/-- The header of a ring of one slot of 16 bytes, which is filled and not claimed. -/
def claimRing : Memory := [(4, 16), (8, 1), (20, 1)]
/-- The core's signature table is full, each of its entries at bytes 64 to 95 of the scratchpad; they name line 0 of the core, which is dirty. -/
def claimState : State :=
  { boot := .running, groups := [claimGroup], teams := [{ uid := 0, grid := 0, core := 0 }], parts := [{ block := List.replicate 14 0 ++ [1] }],
    scratch := claimRing, touched := [(0, 1)], caches := [{ kind := .l1, core := 0, line := 0, data := 7, dirty := 1 }],
    sigs := List.replicate 256 { loc := .scratch 0 64, size := 32, lines := [(0, 0)] } }

theorem claimState_canRun : canRun claimState claimGroup = true := by decide
theorem claimState_noSig : sigAt claimState (.scratch 0 0) 32 = [] := by decide

/-- The HBM of the state an outcome leads to. -/
def hbmAfter (o : Host.Outcome State Fault Refusal) : Option Memory :=
  match o with
  | .next t => some t.hbm
  | _ => none
/-- The model performs the claim: the dirty byte has been written back. -/
theorem hbmAfter_claim : hbmAfter (exec (.rawaitClaim ⟨1, 0⟩) claimState) = some [(0, 7)] := by decide +kernel

/-- Refutes O46, in the clause of RAWAIT: the statement keeps all of HBM, and asks no place in the signature table (`sigRoom`). -/
theorem not_rowsOfSplitsLandCountAndWake : ¬ Obligations.RowsOfSplitsLandCountAndWake := by
  intro hall
  obtain ⟨-, -, -, -, -, -, -, -, -, -, -, hclaim⟩ := hall claimState claimGroup claimSplit (by decide) claimState_canRun (by decide)
  obtain ⟨t, g', sp', he, ⟨-, -, hhbm, -⟩, -⟩ := hclaim 2 3 8 0 0 0 0 [] rfl claimState_noSig (by decide) (by decide) (by decide) (by decide)
  have hafter := hbmAfter_claim
  rw [show exec (.rawaitClaim ⟨1, 0⟩) claimState = .next t from he, hbmAfter, hhbm] at hafter
  exact absurd hafter (by decide)

end Sys2Proof.Machine
end

section
/-! PROOFS. TUNOP whose status address lies in the feed window of a bound tun (O52): the store of the status word is a feed store, which that tun
refuses and counts (R134, R136). -/

namespace Sys2Proof.Machine

/-! ### The counterexample -/

/-- A bound tun of one slot of eight `.i8` elements, its feed window at 0x200000, without a writer entry. -/
def tunopTun : Tun :=
  { num := 5, part := 0, desc := [0, dw (7 * 2 ^ 12 + 2 * 2 ^ 24 + 2 * 2 ^ 29 + 6 * 2 ^ 34), 0, 0, 0x200000], installing := false, cores := [],
    ctx := { core := 0, part := 0, asid := 0, ptroot := 0, sup := true, wkey := 0, grid := none, team := none }, group := 0, flight := 0 }
/-- The translation of that window for the partition's VCP. -/
def tunopPage : TlbEntry :=
  { owner := 1024, part := 0, asid := 0, ptroot := 0, vbase := 0x200000, size := 0x10000, pbase := 0x10000, r := true, w := true, x := false, u := false,
    cp := 0, bgeo := 0, efmt := 0, ptype := 1, tunid := 5, leaf1 := 0, leaf2 := 0, src := [], dirty := true }
/-- TUNOP, install: the descriptor at address 0, which is not mapped, and the status word to the first slot of the feed window. -/
def tunopPacket : Packet :=
  { ref := ⟨0, 0, 0, 0⟩, words := [10, 0, 0, 0, 0x200000], state := .waiting, code := 0, since := 0, nodes := [], dropped := false }
def tunopState : State :=
  { boot := .running, parts := [{ block := List.replicate 14 0 ++ [1] }], tuns := [tunopTun], tlb := [tunopPage], packets := [tunopPacket] }

/-- Of the state an outcome leads to: how many feed stores each tun has refused, and how packet 0 stands. -/
def tunsAfter (o : Host.Outcome State Fault Refusal) : Option (List Word × Option PktState) :=
  match o with
  | .next t => some (t.tuns.map (·.refused), (t.packet? ⟨0, 0, 0, 0⟩).map (·.state))
  | _ => none
/-- The model ends the install with READFAULT; the store of that status is refused by the tun, and the packet completes. -/
theorem tunsAfter_tunop : tunsAfter (exec (.tunopInstall ⟨0, 0, 0, 0⟩) tunopState) = some ([1], some .complete) := by decide +kernel

/-- Refutes O52, in the clause of TUNOP's install: the packet is neither left STARTED nor are all tuns as they were. -/
theorem not_packetsDoTheirWork : ¬ Obligations.PacketsDoTheirWork := by
  intro hall
  obtain ⟨hstart, -⟩ := hall tunopState tunopPacket (by decide) (by decide)
  obtain ⟨-, -, -, -, -, -, -, -, -, hinstall, -⟩ := hstart (by decide)
  obtain ⟨t, x, he, hx, hends⟩ := hinstall (by decide) rfl (by decide) (by decide)
  have hafter := tunsAfter_tunop
  rw [show exec (.tunopInstall ⟨0, 0, 0, 0⟩) tunopState = .next t from he, tunsAfter,
    show t.packet? ⟨0, 0, 0, 0⟩ = some x from hx, Option.some.injEq, Prod.mk.injEq] at hafter
  obtain ⟨hrefused, hcomplete⟩ := hafter
  rcases hends with ⟨hstarted, -⟩ | ⟨hsame, -⟩
  · rw [Option.map_some, hstarted] at hcomplete
    exact absurd hcomplete (by decide)
  · rw [hsame] at hrefused
    exact absurd hrefused (by decide)

end Sys2Proof.Machine
end

section
/-! PROOFS. The checks of an address (O28): those of global addresses come before any translation, those of the other spaces are the branches of
`placeOffset`. -/

namespace Sys2Proof.Machine

-- One proof at a time, as in the tests: proofs that wait for earlier ones would each hold a thread and its stack.
set_option Elab.async false

/-! ### Where an access goes -/

/-- Outside the global space a place is found without changing anything. -/
theorem place_offset (s : State) (c : Ctx) {sp : Space} (need : Need) (addr : DWord) (n : Nat) (h : sp ≠ .global) :
    place s c sp need addr n = (s, placeOffset s c sp addr.toNat n) := by
  cases sp with
  | global => exact absurd rfl h
  | scratch => rfl
  | cluster => rfl
  | die => rfl
/-- R49: bits 63:54 of a global address are looked at first. -/
theorem globalCheck_high {s : State} {c : Ctx} {need : Need} {addr : DWord} {n : Nat} (h : 2 ^ 54 ≤ addr.toNat) :
    globalCheck s c need addr n = (s, .error (causeAt cPage 0 addr.toNat)) := by
  simp only [globalCheck, ge_iff_le, if_pos h]
/-- R49: its alignment comes next. -/
theorem globalCheck_unaligned {s : State} {c : Ctx} {need : Need} {addr : DWord} {n : Nat} (h : addr.toNat < 2 ^ 54) (hn : addr.toNat % n ≠ 0) :
    globalCheck s c need addr n = (s, .error (causeAt cAlign 0 addr.toNat)) := by
  simp only [globalCheck, ge_iff_le, if_neg (Nat.not_le.2 h), bne_iff_ne, ne_eq, hn, not_false_eq_true, if_true]
/-- R49: alignment is the first check of an offset. -/
theorem placeOffset_unaligned {s : State} {c : Ctx} {sp : Space} {a n : Nat} (h : a % n ≠ 0) :
    placeOffset s c sp a n = .error (causeAt cAlign 0 a) := by
  unfold placeOffset
  rw [if_pos (by simpa using h)]
/-- R53: the own team is at its rank. -/
theorem teamAtRank_self (s : State) (t : Team) : teamAtRank s t (t.core % 8) = some t := if_pos rfl
/-- R53: on another core the team of the grid there is found, when there is at most one. -/
theorem teamAtRank_other {s : State} {t : Team} {r : Nat} (hr : r ≠ t.core % 8) {l : List Team} (hl : l.length ≤ 1)
    (h : s.teams.filter (fun x => x.grid == t.grid && !x.saved && x.core == 8 * (t.core / 8) + r) = l) : teamAtRank s t r = l.head? := by
  rw [teamAtRank, if_neg (Ne.symm hr), h]
  match l, hl with
  | [], _ => rfl
  | [x], _ => rfl

/-- An aligned offset of the scratchpad (R52), of a team's cluster (R53), of the die (R54). -/
theorem placeOffset_scratch {s : State} {c : Ctx} {a n : Nat} {t : Team} (ht : c.team.bind s.team? = some t) (h : a % n = 0) :
    placeOffset s c .scratch a n = if a + n ≤ t.scratch then .ok (.loc (.scratch t.uid a)) else .error (causeAt cSpace 0 a) := by
  simp only [placeOffset, h, bne_self_eq_false, Bool.false_eq_true, if_false, ht]
theorem placeOffset_die {s : State} {c : Ctx} {a n : Nat} {r : Grid} (hr : c.grid.bind s.grid? = some r) (h : a % n = 0) :
    placeOffset s c .die a n = if a + n ≤ r.dieAlloc then .ok (.loc (.die (r.uid * 4 + dieOf c.core) a)) else .error (causeAt cSpace 0 a) := by
  simp only [placeOffset, h, bne_self_eq_false, Bool.false_eq_true, if_false, hr]
/-- The byte of a cluster address at the team `o` found at its rank, or SPACE. -/
def clusterByte (o : Option Team) (a n : Nat) : Except Cause Place :=
  match o with
  | some t => if a % 2 ^ 18 + n ≤ t.scratch then .ok (.loc (.scratch t.uid (a % 2 ^ 18))) else .error (causeAt cSpace 0 a)
  | none => .error (causeAt cSpace 0 a)
theorem placeOffset_cluster {s : State} {c : Ctx} {a n : Nat} {r : Grid} {t : Team} (hr : c.grid.bind s.grid? = some r)
    (ht : c.team.bind s.team? = some t) (h : a % n = 0) :
    placeOffset s c .cluster a n = if r.clus = true ∧ a / 2 ^ 18 < 8 then clusterByte (teamAtRank s t (a / 2 ^ 18)) a n else .error (causeAt cSpace 0 a) := by
  simp only [placeOffset, h, bne_self_eq_false, Bool.false_eq_true, if_false, hr, ht]
  have hrank : ¬ 8 * 2 ^ 18 ≤ a ↔ a / 2 ^ 18 < 8 := by omega
  cases hc : r.clus with
  | false => simp
  | true =>
    have hguard : (!true || decide (8 * 2 ^ 18 ≤ a)) = decide (¬ a / 2 ^ 18 < 8) := by
      rw [Bool.not_true, Bool.false_or, decide_eq_decide, ← hrank, not_not]
    by_cases hlt : a / 2 ^ 18 < 8
    · rw [hguard, if_neg (by simpa using hlt), if_pos ⟨rfl, hlt⟩]
      rfl
    · rw [hguard, if_pos (by simpa using hlt), if_neg (fun hin => hlt hin.2)]

/-- Settles O28: each check is one of the lemmas above. -/
theorem addressChecksInOrder : Obligations.AddressChecksInOrder := by
  intro s c need addr n _
  have hcause (code : BitVec 8) : causeAt code 0 addr.toNat = { code := code, addr := addr } := by simp [causeAt, dw]
  refine ⟨fun h => ?high, fun h hn => ?unaligned, fun sp hsp hn => ?unalignedOffset, fun u t hu ht hn => ?scratch, fun u r hu hr hn => ?die,
    fun u v r t hu hr hv ht hcl hn => ?apart, ?cluster, fun hn => ⟨fun hteam sp hsp => ?noTeam, fun hgrid => ?noGrid⟩⟩
  case high => rw [place, globalCheck_high h, hcause]; rfl
  case unaligned => rw [place, globalCheck_unaligned h hn, hcause]; rfl
  case unalignedOffset => rw [place_offset s c need addr n hsp, placeOffset_unaligned hn, hcause]; rfl
  case scratch => rw [place_offset s c need addr n (by decide), placeOffset_scratch (t := t) (by rw [hu]; exact ht) hn, hcause]; rfl
  case die => rw [place_offset s c need addr n (by decide), placeOffset_die (r := r) (by rw [hu]; exact hr) hn, hcause]; rfl
  case apart =>
    rw [place_offset s c need addr n (by decide), placeOffset_cluster (r := r) (t := t) (by rw [hu]; exact hr) (by rw [hv]; exact ht) hn,
      if_neg (by simp [hcl]), hcause]
    rfl
  case cluster =>
    intro u v r t hu hr hv ht hcl hn rank off there space at_
    rw [place_offset s c need addr n (by decide),
      placeOffset_cluster (r := r) (t := t) (by rw [hu]; exact hr) (by rw [hv]; exact ht) hn]
    have hbyte (x : Team) : clusterByte (some x) addr.toNat n = at_ x := by simp only [clusterByte, hcause]; rfl
    have hnone : clusterByte none addr.toNat n = space := by simp only [clusterByte, hcause]; rfl
    refine ⟨fun h8 => ?_, fun hown => ?_, fun h8 hne => ⟨fun hno => ?_, fun x hx => ?_⟩⟩
    · rw [if_neg (fun h => absurd h.2 (Nat.not_lt.2 h8)), hcause]; rfl
    · rw [if_pos ⟨hcl, by omega⟩, show addr.toNat / 2 ^ 18 = t.core % 8 from hown, teamAtRank_self, hbyte]
    · rw [if_pos ⟨hcl, h8⟩, teamAtRank_other hne (Nat.zero_le _) hno]; exact congrArg _ hnone
    · rw [if_pos ⟨hcl, h8⟩, teamAtRank_other hne (Nat.le_refl _) hx]; exact congrArg _ (hbyte x)
  case noTeam =>
    simp only [List.mem_cons, List.not_mem_nil, or_false] at hsp
    rcases hsp with rfl | rfl <;> rw [place_offset s c need addr n (by decide)]
    · simp only [placeOffset, hn, bne_self_eq_false, Bool.false_eq_true, if_false, hteam, hcause]; rfl
    · simp only [placeOffset, hn, bne_self_eq_false, Bool.false_eq_true, if_false, hteam, hcause]
      cases c.grid.bind s.grid? <;> rfl
  case noGrid =>
    rw [place_offset s c need addr n (by decide)]
    simp only [placeOffset, hn, bne_self_eq_false, Bool.false_eq_true, if_false, hgrid, hcause]
    rfl

end Sys2Proof.Machine
end

section
/-! PROOFS. The course of a memory-class instruction whose lanes are all served here (R219): each lane's access, the lanes one after another, the
end of the instruction. -/

namespace Sys2Proof.Machine

-- One proof at a time, as in the tests: proofs that wait for earlier ones would each hold a thread and its stack.
set_option Elab.async false

/-! ### The end of an instruction that counts on a path -/

/-- The split when its access has been made: what it has read, and what it will write. -/
def Split.accessed (sp : Split) (read : List (Nat × Nat)) (op : Nat) (ws : Option (List RegWrite)) : Split :=
  { sp with acqSig := read, pend := sp.pend ++ (match ws with | some w => [{ op := op, writes := w }] | none => []) }
/-- The state in which an access of one operation on `path` leaves the split, after effects that led to `t`. -/
def accessEnd (t : State) (g : Group) (sp : Split) (len path : Nat) (read : List (Nat × Nat)) (ws : Option (List RegWrite)) : State :=
  finish { t with uid := t.uid + 1 } (g.addFlight path t.uid true) (sp.accessed read t.uid ws) len

/-- Effects that touch no group, then the end of the split's instruction. -/
theorem finish_after {s t : State} {g g' : Group} {sp : Split} (len : Nat) {sp' : Split} (hg : s.group? g.uid = some g)
    (hs : g.split? sp.slot = some sp) (ht : t.groups = s.groups) (hu : g'.uid = g.uid) (hsp : g'.splits = g.splits) (hk : sp'.slot = sp.slot) :
    (finish t g' sp' len).group? g.uid = some (g'.setSplit (sp'.next len)) ∧ OtherGroupsKept s (finish t g' sp' len) g.uid ∧
      OnlySplit g (g'.setSplit (sp'.next len)) sp (sp'.next len) := by
  have hgt : t.group? g.uid = some g := (State.group?_congr ht _).trans hg
  obtain ⟨-, hself, hother⟩ := onlyGroup_setGroup t g (g'.setSplit (sp'.next len)) hgt hu
  exact ⟨hself, fun u hne => (hother u hne).trans (State.group?_congr ht u), onlySplit_setSplit g g' sp _ hs hsp hk⟩

theorem accessEnd_spec {s t : State} {g : Group} {sp : Split} (len path : Nat) (read : List (Nat × Nat)) (ws : Option (List RegWrite))
    (hg : s.group? g.uid = some g) (hs : g.split? sp.slot = some sp) (ht : t.groups = s.groups) (hu : t.uid = s.uid) :
    ∃ g', MemoryEnds (accessEnd t g sp len path read ws) g g' sp len path s.uid ws ∧
      OtherGroupsKept s (accessEnd t g sp len path read ws) g.uid := by
  obtain ⟨hself, hother, hsplit⟩ := finish_after (g' := g.addFlight path t.uid true) (sp' := sp.accessed read t.uid ws)
    (t := { t with uid := t.uid + 1 }) len hg hs ht rfl rfl rfl
  rw [← hu]
  exact ⟨_, ⟨_, hself, hsplit, rfl, rfl⟩, hother⟩
/-- Where nothing of the device has changed before it, only the group has. -/
theorem accessEnd_onlyGroup {s : State} {g : Group} {sp : Split} (len path : Nat) (read : List (Nat × Nat)) (ws : Option (List RegWrite))
    (hg : s.group? g.uid = some g) (hs : g.split? sp.slot = some sp) :
    ∃ g', MemoryEnds (accessEnd s g sp len path read ws) g g' sp len path s.uid ws ∧ OnlyGroup s (accessEnd s g sp len path read ws) g g' := by
  obtain ⟨g', hend, hother⟩ := accessEnd_spec len path read ws hg hs rfl rfl
  obtain ⟨sp', hgroup, hrest⟩ := hend
  exact ⟨g', ⟨sp', hgroup, hrest⟩, rfl, hgroup, hother⟩

/-! ### One lane -/

/-- An access served at its place is done there. -/
theorem laneAccess_done {s : State} {a : Agent} {sp : Space} {need : Need} {addr : DWord} {n l kind : Nat} {op : RemoteOp} {store : Bool}
    {act : State → Place → Read} {p : Place} {v : Nat} (hp : place s a.ctx sp need addr n = (s, .ok p))
    (hr : ∀ pa e, p ≠ .glob (.remote pa e)) (hv : (act s p).v = .ok v) :
    laneAccess s a sp need addr n l kind op store act = ((act s p).s, .done (pathOf sp p store) v, (act s p).sig) := by
  unfold laneAccess
  rw [hp]
  split
  · next h => cases h
  · next h => cases h; exact absurd rfl (hr _ _)
  · next h => cases h; simp only [hv]

/-! ### Lanes one after another -/

/-- What lanes do that are all done on one path with the value `val` of each, and read no signature: their effects follow one another. -/
theorem runLanes_done {f : State → Nat → State × LaneEnd × List (Nat × Nat)} {eff : State → Nat → State} {val : Nat → Nat} {path : Nat}
    {P : State → Prop} {ls : List Nat} (hf : ∀ t l, P t → l ∈ ls → f t l = (eff t l, .done path (val l), []) ∧ P (eff t l)) {s : State} (hs : P s)
    (hls : ls ≠ []) : runLanes s ls f = { s := ls.foldl eff s, vals := ls.map (fun l => (l, val l)), paths := [path] } := by
  have hrun (ks : List Nat) (hks : ∀ l ∈ ks, l ∈ ls) (m : MemRun) (hm : P m.s) (hpath : m.paths = [path]) :
      ks.foldl (fun m l => m.add (f m.s l).1 l (f m.s l).2.2 (f m.s l).2.1) m =
        { m with s := ks.foldl eff m.s, vals := m.vals ++ ks.map (fun l => (l, val l)) } := by
    induction ks generalizing m with
    | nil => simp
    | cons k ks ih =>
      obtain ⟨hk, hP⟩ := hf m.s k hm (hks k List.mem_cons_self)
      rw [List.foldl_cons, hk, ih (fun l hl => hks l (List.mem_cons_of_mem _ hl)) _ hP (by simp [MemRun.add, hpath])]
      simp [MemRun.add, hpath, unionPairs]
  cases ls with
  | nil => exact absurd rfl hls
  | cons k ks =>
    obtain ⟨hk, hP⟩ := hf s k hs List.mem_cons_self
    rw [runLanes, List.foldl_cons]
    simp only [hk]
    rw [hrun ks (fun l hl => List.mem_cons_of_mem _ hl) _ hP (by simp [MemRun.add])]
    simp [MemRun.add, unionPairs]
/-- What one lane does that is done. -/
theorem runLanes_one {f : State → Nat → State × LaneEnd × List (Nat × Nat)} {s t : State} {l path v : Nat} {sig : List (Nat × Nat)}
    (hf : f s l = (t, .done path v, sig)) : runLanes s [l] f = { s := t, vals := [(l, v)], paths := [path], sig := unionPairs [] sig } := by
  rw [runLanes, List.foldl_cons, List.foldl_nil]
  simp only [hf]
  rfl

/-! ### The whole instruction -/

theorem sortFaults_nil : sortFaults [] = [] := rfl
/-- With room for its result and on its counter, an instruction all of whose lanes are done here ends. -/
theorem memClose_done {s0 : State} {g : Group} {sp : Split} {m : MemRun} {dest : Option (Dest × BitVec 5)} {o : Ord} {insn : List Word} {path : Nat}
    (hfaults : m.faults = []) (hremote : m.remote = []) (hpaths : m.paths = [path]) (hvals : m.vals ≠ []) (hcount : g.counter path < 63)
    (hroom : dest.isSome = true → sp.pend.length < 16) :
    memClose s0 g sp m dest o insn =
      accessEnd m.s g sp 12 path (unionPairs sp.acqSig m.sig) (dest.map (fun d => m.writes d.1)) := by
  have hblocked : m.blocked g sp dest.isSome s0 = none := by
    have hreg : (dest.isSome && decide (16 ≤ sp.pend.length)) = false := by
      cases hd : dest.isSome with
      | false => rfl
      | true => simpa using hroom hd
    simp [MemRun.blocked, hreg, hpaths, hremote, heldStall, Nat.not_le.2 hcount]
  have hheld : faultsHeld g sp m.faults = none := by
    rw [hfaults, faultsHeld]
    split <;> rfl
  unfold memClose
  rw [hblocked, hheld]
  cases dest with
  | none =>
    simp only [hfaults, hremote, hpaths, sortFaults_nil, settleFaults, List.isEmpty_nil, if_true, List.foldl_cons, List.foldl_nil]
    simp only [accessEnd, Split.accessed, Option.map_none, List.append_nil]
    rfl
  | some d =>
    have hsome : m.vals.isEmpty = false := by simpa using hvals
    simp only [hfaults, hremote, hpaths, sortFaults_nil, settleFaults, List.isEmpty_nil, hsome, Bool.false_and, Bool.false_eq_true, if_false,
      if_true, List.foldl_cons, List.foldl_nil]
    rfl

/-- The course of a memory-class instruction that is ready, has an active lane and has nothing to wait for. -/
theorem exec_memInstrFor {i : Instr} {h : Hdr} {o : Ord} {extra : State → Group → Split → List Nat → Waits} {dest : Option (Dest × BitVec 5)}
    {order : State → Group → List Nat → State × List Nat} {lane : State → Group → Split → Nat → State × LaneEnd × List (Nat × Nat)} {s : State}
    {g : Group} {sp : Split} (he : exec i s = memInstrFor i h always o extra order dest lane s) (hr : Ready i h s g sp)
    (ha : activeLanes g sp h ≠ []) (hw : mustWaitFor s g sp o (extra s g sp (activeLanes g sp h)) = false) :
    exec i s = .next (memClose s g sp (runLanes (order s g (activeLanes g sp h)).1 (order s g (activeLanes g sp h)).2 (fun s l => lane s g sp l))
      dest o (encode i)) := by
  rw [exec_lanes he hr rfl, if_neg (by simpa using ha), hw]
  rfl

end Sys2Proof.Machine
end

section
/-! PROOFS. Bytes at a place, its signatures and its veils: what a load finds there, what a store leaves there, and which places lie apart. -/

namespace Sys2Proof.Machine

-- One proof at a time, as in the tests: proofs that wait for earlier ones would each hold a thread and its stack.
set_option Elab.async false

/-! ### Numbers and their bytes -/

theorem memBytes_mem (ty : BitVec 5) : memBytes ty ∈ [0, 1, 2, 4, 8, 16, 32] := by
  revert ty
  decide
theorem dataBits_le (ty : BitVec 5) : dataBits ty ≤ 8 * memBytes ty := by
  revert ty
  decide
theorem pow_bytes (n : Nat) : 256 ^ n = 2 ^ (8 * n) := by rw [Nat.pow_mul]
/-- The data of a store are as many bytes as it writes. -/
theorem storeData_lt (g : Group) (l : Nat) (f : LongF) : storeData g l f < 256 ^ memBytes f.ty := by
  rw [pow_bytes]
  exact Nat.lt_of_lt_of_le (Nat.mod_lt _ (Nat.two_pow_pos _)) (Nat.pow_le_pow_right (by decide) (dataBits_le f.ty))
theorem memReadNat_lt (m : Memory) (a n : Nat) : memReadNat m a n < 256 ^ n := by
  induction n generalizing a with
  | zero => exact Nat.one_pos
  | succ n ih =>
    have hlow := (memRead m a).isLt
    have hhigh := ih (a + 1)
    rw [memReadNat, Nat.pow_succ]
    omega
theorem leBytes_eq_map (n v : Nat) : leBytes n v = (upTo n).map (fun k => BitVec.ofNat 8 (bits v (8 * k) 8)) := by
  induction n generalizing v with
  | zero => rfl
  | succ n ih =>
    have hdigit (k : Nat) : bits (v / 256) (8 * k) 8 = bits v (8 * (k + 1)) 8 := by
      rw [bits, bits, Nat.div_div_eq_div_mul, show 256 = 2 ^ 8 from rfl, ← Nat.pow_add, Nat.mul_succ, Nat.add_comm]
    rw [leBytes, ih, upTo, upTo, List.range_succ_eq_map, List.map_cons, List.map_map]
    congr 1
    · apply BitVec.eq_of_toNat_eq
      simp [bits]
    · exact List.map_congr_left fun k _ => by rw [Function.comp, hdigit]

/-! ### Places on the chip (R48, R52 to R54) -/

/-- A place in a scratchpad or a die scratchpad. -/
def Loc.OnChip (l : Loc) : Prop :=
  match l with
  | .scratch _ _ | .die _ _ => True
  | _ => False
/-- No byte of `n` from the one place is among `n` from the other. -/
def Loc.Apart (n : Nat) (k l : Loc) : Prop :=
  match k, l with
  | .scratch t x, .scratch u y => t * 2 ^ 19 + x + n ≤ u * 2 ^ 19 + y ∨ u * 2 ^ 19 + y + n ≤ t * 2 ^ 19 + x
  | .die t x, .die u y => t * 2 ^ 25 + x + n ≤ u * 2 ^ 25 + y ∨ u * 2 ^ 25 + y + n ≤ t * 2 ^ 25 + x
  | _, _ => True

/-- Where an offset that passes its checks lies: in the own team's scratchpad, below 2^18 in one of the cluster's, or in the grid's die allocation. -/
theorem placeOffset_ok {s : State} {c : Ctx} {sp : Space} {a n : Nat} {l : Loc} (h : placeOffset s c sp a n = .ok (.loc l)) :
    a % n = 0 ∧ ((∃ t, c.team.bind s.team? = some t ∧ l = .scratch t.uid a ∧ sp = .scratch) ∨ (∃ u, l = .scratch u (a % 2 ^ 18) ∧ sp = .cluster) ∨
      ∃ r, c.grid.bind s.grid? = some r ∧ l = .die (r.uid * 4 + dieOf c.core) a ∧ sp ≠ .scratch ∧ sp ≠ .cluster) := by
  unfold placeOffset at h
  split at h
  · cases h
  next ha =>
    refine ⟨by simpa using ha, ?_⟩
    split at h
    · split at h
      · next t ht =>
        split at h
        · cases h; exact .inl ⟨t, ht, rfl, rfl⟩
        · cases h
      · cases h
    · split at h
      · split at h
        · cases h
        · split at h
          · next t _ =>
            split at h
            · cases h; exact .inr (.inl ⟨t.uid, rfl, rfl⟩)
            · cases h
          · cases h
      · cases h
    · next h1 h2 =>
      split at h
      · next r hr =>
        split at h
        · cases h; exact .inr (.inr ⟨r, hr, rfl, h1, h2⟩)
        · cases h
      · cases h
theorem placeOffset_onChip {s : State} {c : Ctx} {sp : Space} {a n : Nat} {l : Loc} (h : placeOffset s c sp a n = .ok (.loc l)) : l.OnChip := by
  obtain ⟨-, ⟨t, -, rfl, -⟩ | ⟨u, rfl, -⟩ | ⟨r, -, rfl, -⟩⟩ := placeOffset_ok h <;> trivial
/-- Different aligned multiples of a size lie that far apart. -/
theorem apart_of_aligned {x y n : Nat} (hx : x % n = 0) (hy : y % n = 0) (hne : x ≠ y) : x + n ≤ y ∨ y + n ≤ x := by
  obtain ⟨i, rfl⟩ := Nat.dvd_of_mod_eq_zero hx
  obtain ⟨j, rfl⟩ := Nat.dvd_of_mod_eq_zero hy
  rcases Nat.lt_trichotomy i j with h | h | h
  · exact .inl (by rw [← Nat.mul_succ]; exact Nat.mul_le_mul_left n h)
  · exact absurd (by rw [h]) hne
  · exact .inr (by rw [← Nat.mul_succ]; exact Nat.mul_le_mul_left n h)
/-- R53: an aligned offset stays aligned within its rank's 2^18 bytes. -/
theorem rank_offset {a n : Nat} (hn : n ∈ [0, 1, 2, 4, 8, 16, 32]) (ha : a % n = 0) : a % 2 ^ 18 % n = 0 ∧ a % 2 ^ 18 + n ≤ 2 ^ 18 := by
  simp only [List.mem_cons, List.not_mem_nil, or_false] at hn
  rcases hn with rfl | rfl | rfl | rfl | rfl | rfl | rfl <;> omega
/-- Two lanes of one access at different places touch no byte in common. -/
theorem placeOffset_apart {s : State} {c : Ctx} {sp : Space} {a b : Nat} {ty : BitVec 5} {k l : Loc}
    (hk : placeOffset s c sp a (memBytes ty) = .ok (.loc k)) (hl : placeOffset s c sp b (memBytes ty) = .ok (.loc l)) (hne : k ≠ l) :
    Loc.Apart (memBytes ty) k l := by
  have hn := memBytes_mem ty
  generalize memBytes ty = n at hk hl hn
  obtain ⟨ha, ⟨t, ht, rfl, hsp⟩ | ⟨u, rfl, hsp⟩ | ⟨r, hr, rfl, hsp⟩⟩ := placeOffset_ok hk <;>
    obtain ⟨hb, ⟨t', ht', rfl, hsp'⟩ | ⟨u', rfl, hsp'⟩ | ⟨r', hr', rfl, hsp'⟩⟩ := placeOffset_ok hl
  case inl.inl =>
    obtain rfl := Option.some.inj (ht.symm.trans ht')
    have := apart_of_aligned ha hb (fun h => hne (by rw [h]))
    simp only [Loc.Apart]
    omega
  case inr.inl.inr.inl =>
    obtain ⟨hx, hxend⟩ := rank_offset hn ha
    obtain ⟨hy, hyend⟩ := rank_offset hn hb
    simp only [Loc.Apart]
    by_cases hu : u = u'
    · subst hu
      have := apart_of_aligned hx hy (fun h => hne (by rw [h]))
      omega
    · omega
  case inr.inr.inr.inr =>
    obtain rfl := Option.some.inj (hr.symm.trans hr')
    have := apart_of_aligned ha hb (fun h => hne (by rw [h]))
    simp only [Loc.Apart]
    omega
  all_goals simp_all

/-! ### Stores on the chip -/

theorem locWrite_frame (s : State) {l : Loc} (n v : Nat) (h : l.OnChip) :
    ∃ M D, locWrite s l n v = { s with scratch := M, dieScratch := D } := by
  cases l with
  | scratch t o => exact ⟨_, s.dieScratch, rfl⟩
  | die k o => exact ⟨s.scratch, _, rfl⟩
  | _ => exact h.elim
theorem locWrite_wf {s : State} {l : Loc} (n v : Nat) (h : l.OnChip) (hs : Memory.wf s.scratch = true) (hd : Memory.wf s.dieScratch = true) :
    Memory.wf (locWrite s l n v).scratch = true ∧ Memory.wf (locWrite s l n v).dieScratch = true := by
  cases l with
  | scratch t o => exact ⟨memWriteNat_wf _ _ _ _ hs, hd⟩
  | die k o => exact ⟨hs, memWriteNat_wf _ _ _ _ hd⟩
  | _ => exact h.elim
theorem bytesAt_locWrite_self {s : State} {l : Loc} (n v : Nat) (h : l.OnChip) (hs : Memory.wf s.scratch = true) (hd : Memory.wf s.dieScratch = true) :
    bytesAt (locWrite s l n v) l n = v % 256 ^ n := by
  cases l with
  | scratch t o => exact memReadNat_memWriteNat _ _ _ _ hs
  | die k o => exact memReadNat_memWriteNat _ _ _ _ hd
  | _ => exact h.elim
theorem bytesAt_locWrite_apart {s : State} {k l : Loc} {n : Nat} (v : Nat) (hk : k.OnChip) (ha : Loc.Apart n k l) (hs : Memory.wf s.scratch = true)
    (hd : Memory.wf s.dieScratch = true) : bytesAt (locWrite s k n v) l n = bytesAt s l n := by
  cases k with
  | scratch t x =>
    cases l with
    | scratch u y => exact memReadNat_memWriteNat_other _ _ _ _ _ _ hs (Or.symm ha)
    | _ => rfl
  | die t x =>
    cases l with
    | die u y => exact memReadNat_memWriteNat_other _ _ _ _ _ _ hd (Or.symm ha)
    | _ => rfl
  | _ => exact hk.elim

/-- The stores of lanes, one after another. -/
def storeLanes (place : Nat → Loc) (n : Nat) (data : Nat → Nat) (s : State) (ls : List Nat) : State :=
  ls.foldl (fun s l => locWrite s (place l) n (data l)) s

section
variable {place : Nat → Loc} {n : Nat} {data : Nat → Nat}

/-- They change the two memories of the chip and nothing else. -/
theorem storeLanes_frame {s : State} {ls : List Nat} (h : ∀ l ∈ ls, (place l).OnChip) :
    ∃ M D, storeLanes place n data s ls = { s with scratch := M, dieScratch := D } := by
  induction ls generalizing s with
  | nil => exact ⟨s.scratch, s.dieScratch, rfl⟩
  | cons l ls ih =>
    obtain ⟨M, D, hl⟩ := locWrite_frame s n (data l) (h l List.mem_cons_self)
    obtain ⟨M', D', hrest⟩ := ih (s := locWrite s (place l) n (data l)) fun k hk => h k (List.mem_cons_of_mem _ hk)
    exact ⟨M', D', hrest.trans (by rw [hl])⟩
/-- A place apart from all of theirs keeps its bytes. -/
theorem bytesAt_storeLanes_apart {s : State} {ls : List Nat} {p : Loc} (h : ∀ l ∈ ls, (place l).OnChip) (ha : ∀ l ∈ ls, Loc.Apart n (place l) p)
    (hs : Memory.wf s.scratch = true) (hd : Memory.wf s.dieScratch = true) : bytesAt (storeLanes place n data s ls) p n = bytesAt s p n := by
  induction ls generalizing s with
  | nil => rfl
  | cons l ls ih =>
    have hl := h l List.mem_cons_self
    obtain ⟨hs', hd'⟩ := locWrite_wf n (data l) hl hs hd
    exact (ih (fun k hk => h k (List.mem_cons_of_mem _ hk)) (fun k hk => ha k (List.mem_cons_of_mem _ hk)) hs' hd').trans
      (bytesAt_locWrite_apart _ hl (ha l List.mem_cons_self) hs hd)
/-- R50: at each place the highest lane's data stand at the end. -/
theorem bytesAt_storeLanes {s : State} {ls : List Nat} (hord : ls.Pairwise (· < ·)) (h : ∀ l ∈ ls, (place l).OnChip)
    (ha : ∀ k ∈ ls, ∀ l ∈ ls, place k ≠ place l → Loc.Apart n (place k) (place l)) (hs : Memory.wf s.scratch = true) (hd : Memory.wf s.dieScratch = true)
    {l : Nat} (hl : l ∈ ls) (hlast : ∀ k ∈ ls, l < k → place k ≠ place l) :
    bytesAt (storeLanes place n data s ls) (place l) n = data l % 256 ^ n := by
  induction ls generalizing s with
  | nil => cases hl
  | cons x ls ih =>
    obtain ⟨hx, hrest⟩ := List.pairwise_cons.1 hord
    have hchip := h x List.mem_cons_self
    obtain ⟨hs', hd'⟩ := locWrite_wf n (data x) hchip hs hd
    rcases List.mem_cons.1 hl with rfl | hmem
    · refine (bytesAt_storeLanes_apart (fun k hk => h k (List.mem_cons_of_mem _ hk)) (fun k hk => ?_) hs' hd').trans
        (bytesAt_locWrite_self n _ hchip hs hd)
      exact ha k (List.mem_cons_of_mem _ hk) l hl (hlast k (List.mem_cons_of_mem _ hk) (hx k hk))
    · exact ih hrest (fun k hk => h k (List.mem_cons_of_mem _ hk))
        (fun k hk j hj => ha k (List.mem_cons_of_mem _ hk) j (List.mem_cons_of_mem _ hj)) hs' hd' hmem
        (fun k hk => hlast k (List.mem_cons_of_mem _ hk))
/-- A byte that no lane stores to stays. -/
theorem scratch_storeLanes_other {s : State} {ls : List Nat} {x : Nat} (hchip : ∀ l ∈ ls, (place l).OnChip) 
    (hs : Memory.wf s.scratch = true) (h : ∀ l ∈ ls, ∀ m o, place l = .scratch m o → ¬ (m * 2 ^ 19 + o ≤ x ∧ x < m * 2 ^ 19 + o + n)) :
    memRead (storeLanes place n data s ls).scratch x = memRead s.scratch x := by
  induction ls generalizing s with
  | nil => rfl
  | cons l ls ih =>
    have hon := hchip l List.mem_cons_self
    have hl : Memory.wf (locWrite s (place l) n (data l)).scratch = true ∧
        memRead (locWrite s (place l) n (data l)).scratch x = memRead s.scratch x := by
      cases hp : place l with
      | scratch m o => exact ⟨memWriteNat_wf _ _ _ _ hs, (memRead_memWriteNat _ _ _ _ _ hs).trans (if_neg (h l List.mem_cons_self m o hp))⟩
      | die m o => exact ⟨hs, rfl⟩
      | _ => rw [hp] at hon; exact hon.elim
    exact (ih (fun k hk => hchip k (List.mem_cons_of_mem _ hk)) hl.1 fun k hk => h k (List.mem_cons_of_mem _ hk)).trans hl.2
theorem dieScratch_storeLanes_other {s : State} {ls : List Nat} {x : Nat} (hchip : ∀ l ∈ ls, (place l).OnChip) 
    (hs : Memory.wf s.dieScratch = true) (h : ∀ l ∈ ls, ∀ m o, place l = .die m o → ¬ (m * 2 ^ 25 + o ≤ x ∧ x < m * 2 ^ 25 + o + n)) :
    memRead (storeLanes place n data s ls).dieScratch x = memRead s.dieScratch x := by
  induction ls generalizing s with
  | nil => rfl
  | cons l ls ih =>
    have hon := hchip l List.mem_cons_self
    have hl : Memory.wf (locWrite s (place l) n (data l)).dieScratch = true ∧
        memRead (locWrite s (place l) n (data l)).dieScratch x = memRead s.dieScratch x := by
      cases hp : place l with
      | die m o => exact ⟨memWriteNat_wf _ _ _ _ hs, (memRead_memWriteNat _ _ _ _ _ hs).trans (if_neg (h l List.mem_cons_self m o hp))⟩
      | scratch m o => exact ⟨hs, rfl⟩
      | _ => rw [hp] at hon; exact hon.elim
    exact (ih (fun k hk => hchip k (List.mem_cons_of_mem _ hk)) hl.1 fun k hk => h k (List.mem_cons_of_mem _ hk)).trans hl.2
end

/-- A state whose memories are those that a store at `l` leaves: the bytes stand there, and no other byte has changed. -/
theorem storesAt_locWrite {s t : State} {l : Loc} (n v : Nat) (hs : s.Canonical) (hl : l.OnChip ∨ ∃ pa, l = .hbm pa)
    (ht : SameMemory (locWrite s l n v) t) : StoresAt s t l n v := by
  obtain ⟨hhbm, hscr, hdie, hacc⟩ := ht
  unfold StoresAt
  rw [← pow_bytes]
  cases l with
  | hbm pa =>
    refine ⟨?_, ?_, hscr, hdie, hacc⟩
    · rw [bytesAt, hhbm]
      exact memReadNat_memWriteNat _ _ _ _ hs.hbm
    · intro x hx
      rw [hhbm]
      exact (memRead_memWriteNat _ _ _ _ _ hs.hbm).trans (if_neg hx)
  | scratch t o =>
    refine ⟨?_, ?_, hhbm, hdie, hacc⟩
    · rw [bytesAt, hscr]
      exact memReadNat_memWriteNat _ _ _ _ hs.scratch
    · intro x hx
      rw [hscr]
      exact (memRead_memWriteNat _ _ _ _ _ hs.scratch).trans (if_neg hx)
  | die k o =>
    refine ⟨?_, ?_, hhbm, hscr, hacc⟩
    · rw [bytesAt, hdie]
      exact memReadNat_memWriteNat _ _ _ _ hs.dieScratch
    · intro x hx
      rw [hdie]
      exact (memRead_memWriteNat _ _ _ _ _ hs.dieScratch).trans (if_neg hx)
  | page p o => obtain hl | ⟨pa, hl⟩ := hl; exacts [hl.elim, nomatch hl]
  | away d o => obtain hl | ⟨pa, hl⟩ := hl; exacts [hl.elim, nomatch hl]

/-! ### Veils (R82) -/

/-- A veil that does not meet the bytes of a place shows none of them. -/
theorem byteAt_of_apart {x : Veil} {l : Loc} {n k : Nat} (h : locMeets x.loc x.bytes.length l n = false) (hk : k < n) : x.byteAt (l.plus k) = none := by
  obtain ⟨group, lane, loc, bytes⟩ := x
  have hout {a b : Nat} (hmeet : (decide (a < b + n) && decide (b < a + bytes.length)) = false) (hle : a ≤ b + k) : bytes[b + k - a]? = none := by
    rw [List.getElem?_eq_none_iff]
    simp only [Bool.and_eq_false_iff, decide_eq_false_iff_not] at hmeet
    omega
  cases loc with
  | scratch t a =>
    cases l with
    | scratch u b =>
      simp only [Veil.byteAt, Loc.plus]
      split
      · next hin =>
        obtain ⟨htu, hle⟩ : t = u ∧ a ≤ b + k := by simpa using hin
        exact hout (by simpa [locMeets, htu] using h) hle
      · rfl
    | _ => rfl
  | die t a =>
    cases l with
    | die u b =>
      simp only [Veil.byteAt, Loc.plus]
      split
      · next hin =>
        obtain ⟨htu, hle⟩ : t = u ∧ a ≤ b + k := by simpa using hin
        exact hout (by simpa [locMeets, htu] using h) hle
      · rfl
    | _ => rfl
  | _ => rfl
/-- A veil over the bytes of a place shows each of them. -/
theorem byteAt_self {x : Veil} {l : Loc} {k : Nat} (h : x.loc = l) (hl : l.OnChip) : x.byteAt (l.plus k) = x.bytes[k]? := by
  obtain ⟨group, lane, loc, bytes⟩ := x
  subst h
  cases loc with
  | scratch t o => simp [Veil.byteAt, Loc.plus]
  | die t o => simp [Veil.byteAt, Loc.plus]
  | _ => exact hl.elim
/-- The veils of a lane, searched. -/
theorem findSome?_mine {β : Type} (l : List Veil) (group lane : Nat) (f : Veil → Option β) :
    l.findSome? (fun x => if x.group == group && x.lane == lane then f x else none) =
      (l.filter (fun v => v.group == group && v.lane == lane)).findSome? f := by
  induction l with
  | nil => rfl
  | cons x l ih =>
    cases hx : (x.group == group && x.lane == lane) with
    | true => rw [List.findSome?_cons, hx, if_pos rfl, List.filter_cons_of_pos (by simpa using hx), List.findSome?_cons, ih]
    | false => rw [List.findSome?_cons, hx, if_neg Bool.false_ne_true, List.filter_cons_of_neg (by simpa using hx), ih]

section
variable {s : State} {group lane n v : Nat} {l : Loc}

/-- R82: where no veil of the lane lies, a lane sees what stands there. -/
theorem seenBytes_clear (h : ∀ x ∈ s.veils.filter (fun x => x.group == group && x.lane == lane), locMeets x.loc x.bytes.length l n = false) :
    seenBytes s group lane l n v = v % 256 ^ n := by
  rw [seenBytes, ← leNat_leBytes n v, leBytes_eq_map]
  congr 1
  refine List.map_congr_left fun k hk => ?_
  have hnone : (s.veils.filter (fun x => x.group == group && x.lane == lane)).findSome? (fun x => x.byteAt (l.plus k)) = none :=
    List.findSome?_eq_none_iff.2 fun x hx => byteAt_of_apart (h x hx) (List.mem_range.1 hk)
  rw [findSome?_mine, hnone]
/-- R82: under a veil of its own over just these bytes, a lane sees that one's. -/
theorem seenBytes_veiled {x : Veil} (h : s.veils.filter (fun x => x.group == group && x.lane == lane) = [x]) (hx : x.loc = l) (hl : l.OnChip)
    (hn : x.bytes.length = n) : seenBytes s group lane l n v = leNat x.bytes := by
  rw [seenBytes]
  congr 1
  refine List.ext_getElem (by simp [upTo, hn]) fun k hk hk' => ?_
  rw [List.getElem_map, findSome?_mine, h, List.findSome?_cons, byteAt_self hx hl]
  simp [upTo, hk']
end

end Sys2Proof.Machine
end

section
/-! PROOFS. LD and ST on the chip (O26): weak lanes one after another, and the strong forms of one lane with their signatures. -/

namespace Sys2Proof.Machine

-- One proof at a time, as in the tests: proofs that wait for earlier ones would each hold a thread and its stack.
set_option Elab.async false

/-! ### The strong side of an access -/

/-- Of the whole device only what caches hold, translations, signatures and records of writes have changed. -/
def Quiet (s t : State) : Prop := t = { s with caches := t.caches, tlb := t.tlb, sigs := t.sigs, touched := t.touched }
theorem Quiet.refl (s : State) : Quiet s s := rfl
theorem Quiet.trans {s t u : State} (h : Quiet s t) (h' : Quiet t u) : Quiet s u := by
  rw [Quiet, h', h]
section
variable {s t : State} (h : Quiet s t)
include h
theorem Quiet.memory : SameMemory s t := by rw [h]; exact ⟨rfl, rfl, rfl, rfl⟩
theorem Quiet.groups : t.groups = s.groups := by rw [h]
theorem Quiet.uid : t.uid = s.uid := by rw [h]
theorem Quiet.poisoned (l : Loc) : poisoned t l = poisoned s l := by rw [h]; rfl
end

/-- A read that meets no release, or whose scope does not leave the L1, changes the scale cache at most. -/
theorem readSide_quiet {s : State} {a : Agent} {o : Ord} {l : Loc} {n : Nat}
    (h : o.acquires = true → wideScope o.scope a.paired = true → sigAt s l n = []) : Quiet s (readSide s a o l n).1 := by
  unfold readSide
  split
  · next hacq =>
    have hdrop : acquireAt s a.ctx.core l n o.scope a.paired = dropScales s a.ctx.core := by
      unfold acquireAt
      split
      · next hwide => rw [h hacq hwide, applySig_nil]
      · rfl
    rw [hdrop]
    exact rfl
  · split <;> rfl
theorem readSide_weak {s : State} {a : Agent} {o : Ord} {l : Loc} {n : Nat} (h : o.order = 0) : readSide s a o l n = (s, []) := by
  simp [readSide, Ord.acquires, Ord.strong, h]
/-- A store that releases with a place in its table, or releases nothing, changes the signatures at most. -/
theorem writeSide_room {s : State} (a : Agent) (o : Ord) (fence : Option (BitVec 4)) {l : Loc} (n : Nat) (rmw : Bool) (h : sigRoom s l) :
    ∃ S, writeSide s a o fence l n rmw = { s with sigs := S } := by
  unfold writeSide
  split
  · exact deposit_room n _ rmw h
  · split
    · exact ⟨s.sigs, rfl⟩
    · exact ⟨_, rfl⟩

/-! ### Loads on the chip -/

/-- What a load of a lane returns at a place on the chip. -/
def chipValue (s : State) (group lane n : Nat) (o : Ord) (l : Loc) : Nat :=
  if o.strong || s.veils.isEmpty then bytesAt s l n else seenBytes s group lane l n (bytesAt s l n)
theorem locRead_eq_bytesAt (s : State) (l : Loc) (n : Nat) : locRead s l n = bytesAt s l n := by cases l <;> rfl
theorem bytesAt_lt {s : State} {l : Loc} (n : Nat) (h : l.OnChip) : bytesAt s l n < 256 ^ n := by
  cases l with
  | scratch t o => exact memReadNat_lt _ _ _
  | die k o => exact memReadNat_lt _ _ _
  | _ => exact h.elim
theorem bytesAt_congr {s t : State} {l : Loc} (h : l.OnChip) (ht : SameMemory s t) (n : Nat) : bytesAt t l n = bytesAt s l n := by
  obtain ⟨-, hscr, hdie, -⟩ := ht
  cases l with
  | scratch k o => rw [bytesAt, bytesAt, hscr]
  | die k o => rw [bytesAt, bytesAt, hdie]
  | _ => exact h.elim
/-- A load at a sound place on the chip. -/
theorem seenRead_loadPlace {s : State} {a : Agent} {o : Ord} {va n group lane : Nat} {l : Loc} (h : poisoned s l = false) :
    seenRead s group lane n o (.loc l) (loadPlace s a o va n (.loc l)) =
      ⟨(readSide s a o l n).1, .ok (chipValue s group lane n o l), (readSide s a o l n).2⟩ := by
  have hload : loadPlace s a o va n (.loc l) = ⟨(readSide s a o l n).1, .ok (bytesAt s l n), (readSide s a o l n).2⟩ := by
    rw [loadPlace, if_neg (by simp [h]), locRead_eq_bytesAt]
  rw [hload, chipValue]
  simp only [seenRead]
  split <;> rfl

/-- R82: without a veil of the lane over the bytes, a load returns what stands there. -/
theorem chipValue_clear {s : State} {group lane n : Nat} {o : Ord} {l : Loc} (hl : l.OnChip)
    (h : ∀ x ∈ s.veils.filter (fun x => x.group == group && x.lane == lane), locMeets x.loc x.bytes.length l n = false) :
    chipValue s group lane n o l = bytesAt s l n := by
  rw [chipValue, seenBytes_clear h, Nat.mod_eq_of_lt (bytesAt_lt n hl), ite_self]
/-- R82: a weak load under one veil of its lane returns what that shows. -/
theorem chipValue_veiled {s : State} {group lane n : Nat} {o : Ord} {l : Loc} {x : Veil} (hl : l.OnChip) (ho : o.order = 0)
    (h : s.veils.filter (fun x => x.group == group && x.lane == lane) = [x]) (hx : x.loc = l) (hn : x.bytes.length = n) :
    chipValue s group lane n o l = leNat x.bytes := by
  have hveils : s.veils.isEmpty = false := by
    cases hv : s.veils with
    | nil => rw [hv] at h; cases h
    | cons y l => rfl
  rw [chipValue, if_neg (by simp [Ord.strong, ho, hveils]), seenBytes_veiled h hx hl hn]

theorem spaceOf_ne_global {n : Nat} (h : n % 4 ≠ 0) : spaceOf n ≠ .global := by
  unfold spaceOf
  split
  · next h0 => exact absurd h0 h
  all_goals decide
theorem pathOf_onChip {sp : Space} (p : Place) (store : Bool) (h : sp ≠ .global) : pathOf sp p store = 2 := by
  cases sp with
  | global => exact absurd rfl h
  | _ => rfl

section
variable {h : Hdr} {f : LongF} {s : State} {g : Group} {sp : Split}

/-- One lane of LD, and of ST (R220 to R222). -/
def ldLane (f : LongF) (s : State) (g : Group) (sp : Split) (l : Nat) : State × LaneEnd × List (Nat × Nat) :=
  laneAccess s (laneAgent s g sp) (spaceOf f.c.toNat) needR (laneAddr g l f) (memBytes f.ty) l 1 (.read (memBytes f.ty)) false
    (fun t p => seenRead t g.uid l (memBytes f.ty) (ordOf f) p (loadPlace t (laneAgent s g sp) (ordOf f) (laneAddr g l f).toNat (memBytes f.ty) p))
def stLane (f : LongF) (s : State) (g : Group) (sp : Split) (l : Nat) : State × LaneEnd × List (Nat × Nat) :=
  laneAccess s (laneAgent s g sp) (spaceOf f.c.toNat) needW (laneAddr g l f) (memBytes f.ty) l 2 (.write (bytesOf (memBytes f.ty) (storeData g l f))) true
    (fun t p => storeRead (stPlace p (memBytes f.ty)
      (storePlace t (laneAgent s g sp) (ordOf f) sp.relFence (laneAddr g l f).toNat (memBytes f.ty) (storeData g l f) p)))
theorem exec_ld_eq (h : Hdr) (f : LongF) (s : State) : exec (.ld h f) s =
    memInstrFor (.ld h f) h always (ordOf f) (fun _ _ _ _ => {}) inOrder (some (loadDest f, f.ty)) (ldLane f) s := exec_ld h f s
theorem exec_st_eq (h : Hdr) (f : LongF) (s : State) : exec (.st h f) s =
    memInstrFor (.st h f) h always (ordOf f) (stWaits f) inOrder none (stLane f) s := exec_st h f s

/-- What LD and ST answer, from what their lanes do. -/
theorem exec_ld_lanes (hr : Ready (.ld h f) h s g sp) (ha : activeLanes g sp h ≠ []) (hw : mustWait s g sp (ordOf f) = false) :
    exec (.ld h f) s = .next (memClose s g sp (runLanes s (activeLanes g sp h) (fun t l => ldLane f t g sp l))
      (some (loadDest f, f.ty)) (ordOf f) (encode (.ld h f))) :=
  exec_memInstrFor (exec_ld_eq h f s) hr ha hw
theorem exec_st_lanes (hr : Ready (.st h f) h s g sp) (ha : activeLanes g sp h ≠ [])
    (hw : mustWaitFor s g sp (ordOf f) (stWaits f s g sp (activeLanes g sp h)) = false) :
    exec (.st h f) s = .next (memClose s g sp (runLanes s (activeLanes g sp h) (fun t l => stLane f t g sp l)) none (ordOf f) (encode (.st h f))) :=
  exec_memInstrFor (exec_st_eq h f s) hr ha hw

/-- LD of one lane that is done ends; so does one of several lanes that change nothing. -/
theorem exec_ld_one {l path v : Nat} {t : State} {sig : List (Nat × Nat)} (hr : Ready (.ld h f) h s g sp) (ha : activeLanes g sp h = [l])
    (hw : mustWait s g sp (ordOf f) = false) (hlane : ldLane f s g sp l = (t, .done path v, sig)) (hcount : g.counter path < 63)
    (hroom : sp.pend.length < 16) : exec (.ld h f) s = .next (accessEnd t g sp 12 path (unionPairs sp.acqSig (unionPairs [] sig))
      (some (vWrites l f.d.toNat (tyRegs f.ty) (loadImage f.ty v)))) := by
  rw [exec_ld_lanes hr (by rw [ha]; exact List.cons_ne_nil _ _) hw, ha, runLanes_one hlane,
    memClose_done rfl rfl rfl (List.cons_ne_nil _ _) hcount (fun _ => hroom)]
  simp [MemRun.writes, loadDest]
theorem exec_ld_many {path : Nat} {val : Nat → Nat} (hr : Ready (.ld h f) h s g sp) (ha : activeLanes g sp h ≠ [])
    (hw : mustWait s g sp (ordOf f) = false) (hlane : ∀ l ∈ activeLanes g sp h, ldLane f s g sp l = (s, .done path (val l), []))
    (hcount : g.counter path < 63) (hroom : sp.pend.length < 16) : exec (.ld h f) s = .next (accessEnd s g sp 12 path (unionPairs sp.acqSig [])
      (some ((activeLanes g sp h).flatMap (fun l => vWrites l f.d.toNat (tyRegs f.ty) (loadImage f.ty (val l)))))) := by
  have hkept (l : List Nat) : l.foldl (fun (t : State) (_ : Nat) => t) s = s := foldl_field id (fun _ _ => rfl) l s
  rw [exec_ld_lanes hr ha hw, runLanes_done (P := fun t => t = s) (eff := fun t _ => t) (fun t l ht hl => ⟨ht ▸ hlane l hl, ht⟩) rfl ha,
    memClose_done rfl rfl rfl (by simpa using ha) hcount (fun _ => hroom), hkept]
  simp [MemRun.writes, loadDest, List.flatMap_map]
/-- ST of one lane that is done ends. -/
theorem exec_st_one {l path v : Nat} {t : State} {sig : List (Nat × Nat)} (hr : Ready (.st h f) h s g sp) (ha : activeLanes g sp h = [l])
    (hw : mustWaitFor s g sp (ordOf f) (stWaits f s g sp [l]) = false) (hlane : stLane f s g sp l = (t, .done path v, sig))
    (hcount : g.counter path < 63) :
    exec (.st h f) s = .next (accessEnd t g sp 12 path (unionPairs sp.acqSig (unionPairs [] sig)) none) := by
  rw [exec_st_lanes hr (by rw [ha]; exact List.cons_ne_nil _ _) (by rw [ha]; exact hw), ha, runLanes_one hlane,
    memClose_done (dest := none) rfl rfl rfl (List.cons_ne_nil _ _) hcount (fun h => absurd h Bool.false_ne_true)]
  rfl

/-! ### LD and ST on the chip -/

/-- One lane of LD at a sound place on the chip. -/
theorem ldLane_onChip {l : Nat} {p : Loc} (hc : f.c.toNat % 4 ≠ 0)
    (hp : placeOffset s (splitCtx g sp) (spaceOf f.c.toNat) (laneAddr g l f).toNat (memBytes f.ty) = .ok (.loc p)) (hpo : poisoned s p = false) :
    ldLane f s g sp l = ((readSide s (laneAgent s g sp) (ordOf f) p (memBytes f.ty)).1, .done 2 (chipValue s g.uid l (memBytes f.ty) (ordOf f) p),
      (readSide s (laneAgent s g sp) (ordOf f) p (memBytes f.ty)).2) := by
  have hspace := spaceOf_ne_global hc
  have hplace : place s (laneAgent s g sp).ctx (spaceOf f.c.toNat) needR (laneAddr g l f) (memBytes f.ty) = (s, .ok (.loc p)) := by
    rw [place_offset _ _ _ _ _ hspace, ← hp]
    rfl
  rw [ldLane, laneAccess_done hplace (fun _ _ => by simp) (by rw [seenRead_loadPlace hpo]), seenRead_loadPlace hpo, pathOf_onChip _ _ hspace]

theorem strong_of_mo (h : f.mo ≠ 0) : (ordOf f).strong = true := by
  simpa [Ord.strong, ordOf] using fun h0 => h (BitVec.eq_of_toNat_eq h0)
/-- The state that a store of a lane leaves at a place on the chip. -/
def chipStore (f : LongF) (s : State) (g : Group) (sp : Split) (l : Nat) (p : Loc) : State :=
  if (ordOf f).strong then writeSide (locWrite s p (memBytes f.ty) (storeData g l f)) (laneAgent s g sp) (ordOf f) sp.relFence p (memBytes f.ty) false
  else locWrite s p (memBytes f.ty) (storeData g l f)
/-- One lane of ST at a place on the chip that is sound when it has stored. -/
theorem stLane_onChip {l : Nat} {p : Loc} (hc : f.c.toNat % 4 ≠ 0)
    (hp : placeOffset s (splitCtx g sp) (spaceOf f.c.toNat) (laneAddr g l f).toNat (memBytes f.ty) = .ok (.loc p))
    (hpo : poisoned (chipStore f s g sp l p) p = false) : stLane f s g sp l = (chipStore f s g sp l p, .done 2 0, []) := by
  have hspace := spaceOf_ne_global hc
  have hplace : place s (laneAgent s g sp).ctx (spaceOf f.c.toNat) needW (laneAddr g l f) (memBytes f.ty) = (s, .ok (.loc p)) := by
    rw [place_offset _ _ _ _ _ hspace, ← hp]
    rfl
  have hsize : memBytes f.ty ≠ 64 := fun h => absurd (memBytes_mem f.ty) (by rw [h]; decide)
  have hact : storeRead (stPlace (.loc p) (memBytes f.ty)
      (storePlace s (laneAgent s g sp) (ordOf f) sp.relFence (laneAddr g l f).toNat (memBytes f.ty) (storeData g l f) (.loc p))) =
        ⟨chipStore f s g sp l p, .ok 0, []⟩ := by
    simp only [storePlace, coverPoison_other _ _ _ hsize, stPlace, Place.loc?, storeRead]
    rw [← chipStore, coverHalf_sound _ _ _ hpo]
  rw [stLane, laneAccess_done hplace (fun _ _ => by simp) (by rw [hact]), hact, pathOf_onChip _ _ hspace]

theorem chipStore_weak (l : Nat) (p : Loc) (h : f.mo = 0) : chipStore f s g sp l p = locWrite s p (memBytes f.ty) (storeData g l f) := by
  simp [chipStore, Ord.strong, ordOf, h]
/-- A strong store with a place in its signature table changes the two memories of the chip and the signatures. -/
theorem chipStore_strong (l : Nat) {p : Loc} (hp : p.OnChip) (h : f.mo ≠ 0) (hroom : sigRoom s p) : ∃ S,
    chipStore f s g sp l p = { locWrite s p (memBytes f.ty) (storeData g l f) with sigs := S } := by
  obtain ⟨M, D, hw⟩ := locWrite_frame s (memBytes f.ty) (storeData g l f) hp
  rw [chipStore, if_pos (strong_of_mo h)]
  exact writeSide_room _ _ _ _ _ (sigRoom_congr (by rw [hw]) (by rw [hw]) hroom)

/-- On the chip a store waits for no more than its order asks. -/
theorem stWaits_onChip {place : Nat → Loc} {ls : List Nat} (hc : f.c.toNat % 4 ≠ 0)
    (hp : ∀ l ∈ ls, placeOffset s (splitCtx g sp) (spaceOf f.c.toNat) (laneAddr g l f).toNat (memBytes f.ty) = .ok (.loc (place l))) :
    stWaits f s g sp ls = {} := by
  have hspace := spaceOf_ne_global hc
  have hlane (l : Nat) (hl : l ∈ ls) :
      (feedWaits s (splitCtx g sp) (ordOf f) sp.relFence (spaceOf f.c.toNat) (laneAddr g l f) (memBytes f.ty) = {}) ∧
      (entryWaits s (splitCtx g sp) ((ordOf f).gang s g) (spaceOf f.c.toNat) needW (laneAddr g l f) (memBytes f.ty) = {}) := by
    have hplace := place_offset s (splitCtx g sp) needW (laneAddr g l f) (memBytes f.ty) hspace
    rw [hp l hl] at hplace
    refine ⟨by simp only [feedWaits, hplace], ?_⟩
    rw [entryWaits, hplace]
    exact ite_self _
  rw [stWaits]
  refine List.foldlRecOn ls _ (motive := fun w : Waits => w = {}) rfl fun w hw l hl => ?_
  obtain ⟨hfeed, hentry⟩ := hlane l hl
  rw [hw, hfeed, hentry]
  rfl

/-- What a weak ST answers whose lanes all have sound places on the chip: its lanes' stores, one after another. -/
theorem exec_st_chip {place : Nat → Loc} (hr : Ready (.st h f) h s g sp) (ha : activeLanes g sp h ≠ [])
    (hw : mustWaitFor s g sp (ordOf f) (stWaits f s g sp (activeLanes g sp h)) = false) (hmo : f.mo = 0) (hc : f.c.toNat % 4 ≠ 0)
    (hcount : g.counter 2 < 63) (hplace : ∀ l ∈ activeLanes g sp h,
      placeOffset s (splitCtx g sp) (spaceOf f.c.toNat) (laneAddr g l f).toNat (memBytes f.ty) = .ok (.loc (place l)) ∧ poisoned s (place l) = false) :
    exec (.st h f) s = .next (accessEnd (storeLanes place (memBytes f.ty) (fun l => storeData g l f) s (activeLanes g sp h)) g sp 12 2
      (unionPairs sp.acqSig []) none) := by
  have hrun := runLanes_done (f := fun t l => stLane f t g sp l) (P := fun t => ∃ M D, t = { s with scratch := M, dieScratch := D })
    (eff := fun t l => locWrite t (place l) (memBytes f.ty) (storeData g l f)) (val := fun _ => 0) (path := 2) ?lane (s := s)
    ⟨s.scratch, s.dieScratch, rfl⟩ ha
  case lane =>
    rintro t l ⟨M, D, ht⟩ hl
    obtain ⟨hp, hpo⟩ := hplace l hl
    obtain ⟨M', D', hw⟩ := locWrite_frame t (memBytes f.ty) (storeData g l f) (placeOffset_onChip hp)
    rw [stLane_onChip hc ((show placeOffset t _ _ _ _ = _ by rw [ht]; rfl).trans hp) (by rw [chipStore_weak l _ hmo, hw, ht]; exact hpo),
      chipStore_weak l _ hmo]
    exact ⟨rfl, M', D', by rw [hw, ht]⟩
  rw [exec_st_lanes hr ha hw, hrun,
    memClose_done (dest := none) rfl rfl rfl (by simpa using ha) hcount (fun h => absurd h Bool.false_ne_true)]
  rfl

end

theorem activeLanes_ascending (g : Group) (sp : Split) (h : Hdr) : (activeLanes g sp h).Pairwise (· < ·) :=
  (List.pairwise_lt_range.filter _).filter _

/-- Settles O26: the lanes of a weak LD change nothing and each returns `chipValue`; those of a weak ST are `storeLanes`; a strong form of one lane
adds `readSide` or `writeSide`, which touch caches and signatures only. -/
theorem onChipLoadsAndStores : Obligations.OnChipLoadsAndStores := by
  intro h f s g sp place n ls hls hc hcount hwait hplace
  have hchip : ∀ l ∈ ls, (place l).OnChip := fun l hl => placeOffset_onChip (hplace l hl).1
  refine ⟨fun hr hmo hpend => ?load, fun hr hmo hscr hdie => ?store, fun l hl hmo hwf hroom => ⟨fun hr hpend hsig => ?strongLoad, fun hr => ?strongStore⟩⟩
  case load =>
    have hweak : (ordOf f).order = 0 := by simp [ordOf, hmo]
    have hlane : ∀ l ∈ ls, ldLane f s g sp l = (s, .done 2 (chipValue s g.uid l n (ordOf f) (place l)), []) := fun l hl => by
      obtain ⟨hp, hpo⟩ := hplace l hl
      rw [ldLane_onChip hc hp hpo, readSide_weak hweak]
    obtain ⟨g', hend, honly⟩ := accessEnd_onlyGroup 12 2 (unionPairs sp.acqSig [])
      (some (ls.flatMap (fun l => vWrites l f.d.toNat (tyRegs f.ty) (loadImage f.ty (chipValue s g.uid l n (ordOf f) (place l)))))) hr.group hr.split
    exact ⟨_, _, g', exec_ld_many hr hls hwait hlane hcount hpend, honly, hend, fun l hl =>
      ⟨chipValue_clear (hchip l hl), fun v hv hloc hlen _ => chipValue_veiled (hchip l hl) hweak hv hloc hlen⟩⟩
  case store =>
    have hwait' : mustWaitFor s g sp (ordOf f) (stWaits f s g sp ls) = false := by
      rw [stWaits_onChip hc fun l hl => (hplace l hl).1]
      exact hwait
    obtain ⟨M, D, hframe⟩ := storeLanes_frame (n := n) (data := fun l => storeData g l f) (s := s) hchip
    obtain ⟨g', hend, -⟩ := accessEnd_spec (t := storeLanes place n (fun l => storeData g l f) s ls) 12 2 (unionPairs sp.acqSig []) none hr.group hr.split
      (by rw [hframe]) (by rw [hframe])
    refine ⟨_, g', exec_st_chip hr hls hwait' hmo hc hcount hplace, hend, ?_, fun l hl hlast => ?_, fun x hx => ?_, fun x hx => ?_⟩
    · rw [hframe]
      rfl
    · refine (bytesAt_congr (hchip l hl) ⟨rfl, rfl, rfl, rfl⟩ n).trans ((bytesAt_storeLanes (data := fun l => storeData g l f)
        (activeLanes_ascending g sp h) hchip (fun i hi j hj hne => ?_) hscr hdie hl hlast).trans (Nat.mod_eq_of_lt (storeData_lt g l f)))
      exact placeOffset_apart (hplace i hi).1 (hplace j hj).1 hne
    · exact scratch_storeLanes_other hchip hscr hx
    · exact dieScratch_storeLanes_other hchip hdie hx
  case strongLoad =>
    obtain ⟨hp, hpo⟩ := hplace l (by rw [hl]; exact List.mem_cons_self)
    have hquiet := readSide_quiet (s := s) (a := laneAgent s g sp) (o := ordOf f) (l := place l) (n := n) fun hacq _ => hsig hacq
    have hlane := ldLane_onChip hc hp hpo
    rw [chipValue, if_pos (by simp [strong_of_mo hmo])] at hlane
    obtain ⟨g', hend, hother⟩ := accessEnd_spec 12 2 (unionPairs sp.acqSig (unionPairs [] (readSide s (laneAgent s g sp) (ordOf f) (place l) n).2))
      (some (vWrites l f.d.toNat (tyRegs f.ty) (loadImage f.ty (bytesAt s (place l) n)))) hr.group hr.split hquiet.groups hquiet.uid
    exact ⟨_, g', exec_ld_one hr hl hwait hlane hcount hpend, hquiet.memory, hother, hend⟩
  case strongStore =>
    obtain ⟨hp, hpo⟩ := hplace l (by rw [hl]; exact List.mem_cons_self)
    have hon := placeOffset_onChip hp
    obtain ⟨S, hst⟩ := chipStore_strong (g := g) (sp := sp) l hon hmo hroom
    obtain ⟨M, D, hw⟩ := locWrite_frame s n (storeData g l f) hon
    have hlane := stLane_onChip hc hp (by rw [hst, hw]; exact hpo)
    have hwait' : mustWaitFor s g sp (ordOf f) (stWaits f s g sp [l]) = false := by
      rw [← hl, stWaits_onChip hc fun l hl => (hplace l hl).1]
      exact hwait
    rw [hst] at hlane
    obtain ⟨g', hend, hother⟩ := accessEnd_spec (s := s) (t := { locWrite s (place l) n (storeData g l f) with sigs := S }) 12 2
      (unionPairs sp.acqSig (unionPairs [] [])) none hr.group hr.split (by rw [hw]) (by rw [hw])
    exact ⟨_, g', exec_st_one hr hl hwait' hlane hcount,
      storesAt_locWrite _ _ ((memoriesWf_iff s).1 hwf) (.inl hon) ⟨rfl, rfl, rfl, rfl⟩, hother, hend⟩

end Sys2Proof.Machine
end

section
/-! PROOFS. Lines of a cache: what is found after a change of a line, a fill and a store, and the numbers that a line holds. -/

namespace Sys2Proof.Machine

-- One proof at a time, as in the tests: proofs that wait for earlier ones would each hold a thread and its stack.
set_option Elab.async false

/-! ### Digits of numbers -/

theorem bits_ofNat {x w lo n : Nat} (h : lo + n ≤ w) : bits (BitVec.ofNat w x).toNat lo n = bits x lo n := by
  rw [BitVec.toNat_ofNat]
  refine Nat.eq_of_testBit_eq fun i => ?_
  simp only [bits, Nat.testBit_mod_two_pow, Nat.testBit_div_two_pow]
  by_cases hi : i < n
  · simp [hi, show i + lo < w by omega]
  · simp [hi]
theorem bits_setBits (x lo n v : Nat) : bits (setBits x lo n v) lo n = v % 2 ^ n := by
  have hlow : x % 2 ^ lo < 2 ^ lo := Nat.mod_lt _ (Nat.two_pow_pos lo)
  rw [bits, setBits, Nat.add_mul_div_left _ _ (Nat.two_pow_pos lo), Nat.div_eq_of_lt hlow, Nat.zero_add, Nat.add_mul_mod_self_left, Nat.mod_mod]
/-- The first bytes of a number in memory, and those from an offset on. -/
theorem memReadNat_mod (m : Memory) (a : Nat) {n k : Nat} (h : k ≤ n) : memReadNat m a n % 256 ^ k = memReadNat m a k := by
  induction k generalizing a n with
  | zero => simp [memReadNat, Nat.mod_one]
  | succ k ih =>
    obtain ⟨n, rfl⟩ := Nat.exists_eq_add_of_le' (show 1 ≤ n by omega)
    have hlow := (memRead m a).isLt
    rw [memReadNat, memReadNat, Nat.pow_succ, Nat.mul_comm (256 ^ k), Nat.mod_mul, ← ih (a + 1) (show k ≤ n by omega)]
    congr 1
    · omega
    · congr 2
      omega
theorem memReadNat_div (m : Memory) (a n k : Nat) : memReadNat m a (k + n) / 256 ^ k = memReadNat m (a + k) n := by
  induction k generalizing a with
  | zero => simp
  | succ k ih =>
    have hlow := (memRead m a).isLt
    have hrest : ((memRead m a).toNat + 256 * memReadNat m (a + 1) (k + n)) / 256 = memReadNat m (a + 1) (k + n) := by omega
    rw [Nat.add_right_comm, memReadNat, Nat.pow_succ', ← Nat.div_div_eq_div_mul, hrest, ih (a + 1), Nat.add_assoc, Nat.add_comm 1 k]

/-! ### Bytes of a line -/

/-- A line filled from memory holds the bytes that stand there. -/
theorem bytes_filled (m : Memory) (a : Nat) {off n : Nat} (h : off + n ≤ 128) :
    bits (BitVec.ofNat 1024 (memReadNat m a 128)).toNat (8 * off) (8 * n) = memReadNat m (a + off) n := by
  rw [bits_ofNat (by omega), bits, ← pow_bytes, ← pow_bytes]
  obtain ⟨k, hk⟩ := Nat.exists_eq_add_of_le (show off ≤ 128 by omega)
  rw [hk, memReadNat_div, memReadNat_mod _ _ (by omega)]
/-- Bytes put into a line are found there. -/
theorem CacheLine.bytes_put (c : CacheLine) {off n : Nat} (v : Nat) (dirty : Bool) (h : off + n ≤ 128) :
    (c.put off n v dirty).bytes off n = v % 256 ^ n := by
  simp only [CacheLine.bytes, CacheLine.put]
  rw [bits_ofNat (by omega), bits_setBits, pow_bytes]
/-- An aligned access lies within its line. -/
theorem line_offset {pa n : Nat} (hn : n ∈ [0, 1, 2, 4, 8, 16, 32]) (ha : pa % n = 0) : pa % 128 + n ≤ 128 := by
  simp only [List.mem_cons, List.not_mem_nil, or_false] at hn
  rcases hn with rfl | rfl | rfl | rfl | rfl | rfl | rfl <;> omega

/-! ### Finding a line after a change of lines -/

section
variable {s : State} {k : CacheKind} {core line : Nat}

theorem cacheLine?_is {c : CacheLine} (h : cacheLine? s k core line = some c) : c.is k core line = true :=
  List.find?_some (p := fun c : CacheLine => c.is k core line) h
theorem CacheLine.is_iff {c : CacheLine} : c.is k core line = true ↔ c.kind = k ∧ c.core = core ∧ c.line = line := by
  simp [CacheLine.is, and_assoc]
/-- Lines changed in place are found where they were. -/
theorem cacheLine?_map {f : CacheLine → CacheLine} (hf : ∀ c k core line, (f c).is k core line = c.is k core line) :
    cacheLine? { s with caches := s.caches.map f } k core line = (cacheLine? s k core line).map f := by
  simp only [cacheLine?, List.find?_map]
  congr 1
  congr 1
  funext c
  exact hf c k core line
/-- Changes of a line that keep it in its place. -/
def KeepsPlace (f : CacheLine → CacheLine) : Prop := ∀ c k core line, (f c).is k core line = c.is k core line
theorem cacheLine?_modLine (s : State) (k : CacheKind) (core line : Nat) {f : CacheLine → CacheLine} (hf : KeepsPlace f) (k' : CacheKind)
    (core' line' : Nat) : cacheLine? (modLine s k core line f) k' core' line' =
      (cacheLine? s k' core' line').map (fun c => if c.is k core line then f c else c) := by
  refine cacheLine?_map fun c k core line => ?_
  split
  · exact hf c k core line
  · rfl
theorem cacheLine?_modLine_self {f : CacheLine → CacheLine} {c : CacheLine} (h : cacheLine? s k core line = some c)
    (hf : KeepsPlace f := by exact fun _ _ _ _ => rfl) : cacheLine? (modLine s k core line f) k core line = some (f c) := by
  rw [cacheLine?_modLine s k core line hf, h, Option.map_some, if_pos (cacheLine?_is h)]
/-- Another line is found as it was. -/
theorem cacheLine?_modLine_other {f : CacheLine → CacheLine} {k' : CacheKind} {core' line' : Nat} (h : (k', core', line') ≠ (k, core, line))
    (hf : KeepsPlace f := by exact fun _ _ _ _ => rfl) : cacheLine? (modLine s k core line f) k' core' line' = cacheLine? s k' core' line' := by
  rw [cacheLine?_modLine s k core line hf]
  cases hc : cacheLine? s k' core' line' with
  | none => rfl
  | some c =>
    rw [Option.map_some, if_neg]
    intro his
    obtain ⟨rfl, rfl, rfl⟩ := CacheLine.is_iff.1 (cacheLine?_is hc)
    obtain ⟨rfl, rfl, rfl⟩ := CacheLine.is_iff.1 his
    exact h rfl
end

/-! ### Fills (R10, R57) -/

section
variable {s : State} {core pa : Nat}

/-- A line that is held, or finds a place, is held after the fill with what the core finds there. -/
theorem fillLine_holds (va : Nat × Nat) (h : l1Fits s core (pa / 128)) : Quiet s (fillLine s .l1 core (pa / 128) va) ∧
    ∃ c, cacheLine? (fillLine s .l1 core (pa / 128) va) .l1 core (pa / 128) = some c ∧
      ∀ n, pa % 128 + n ≤ 128 → c.bytes (pa % 128) n = coreBytes s core pa n := by
  cases hc : cacheLine? s .l1 core (pa / 128) with
  | some c =>
    have hbytes (n : Nat) : c.bytes (pa % 128) n = coreBytes s core pa n := by simp only [coreBytes, hc]
    by_cases hv : va ∈ c.vas
    · rw [fillLine_held s .l1 core _ va c hc hv]
      exact ⟨.refl s, c, hc, fun n _ => hbytes n⟩
    · have hfill : fillLine s .l1 core (pa / 128) va = modLine s .l1 core (pa / 128) (fun x => { x with vas := va :: x.vas }) := by
        simp only [fillLine, hc, List.contains_eq_mem, hv, decide_false, Bool.false_eq_true, if_false]
        rfl
      rw [hfill]
      exact ⟨rfl, _, cacheLine?_modLine_self hc, fun n _ => hbytes n⟩
  | none =>
    have hroom : makeRoom s .l1 core = s := makeRoom_room s .l1 core fun n hn => by
      obtain rfl : 1024 = n := Option.some.inj hn
      exact h.resolve_left (by simp [hc])
    simp only [fillLine, hc, hroom, homeRead]
    refine ⟨rfl, _, List.find?_cons_of_pos (by simp), fun n hn => ?_⟩
    simp only [coreBytes, hc, CacheLine.bytes]
    rw [bytes_filled _ _ hn, Nat.div_add_mod]

theorem modLine_quiet (s : State) (k : CacheKind) (core line : Nat) (f : CacheLine → CacheLine) : Quiet s (modLine s k core line f) := rfl
/-- Marks of a held line change nothing that a load finds. -/
theorem markFirst_holds {c : CacheLine} (h : cacheLine? s .l1 core (pa / 128) = some c) :
    Quiet s (markFirst s core (pa / 128)) ∧ cacheLine? (markFirst s core (pa / 128)) .l1 core (pa / 128) = some { c with first := true } :=
  ⟨rfl, cacheLine?_modLine_self h⟩
theorem noteRead_holds {c : CacheLine} (n : Nat) (h : cacheLine? s .l1 core (pa / 128) = some c) :
    Quiet s (noteRead s core pa n) ∧ (cacheLine? (noteRead s core pa n) .l1 core (pa / 128)).isSome = true := by
  simp only [noteRead, h]
  split
  · exact ⟨rfl, by rw [h]; rfl⟩
  · exact ⟨rfl, by rw [cacheLine?_modLine_self h]; rfl⟩

/-! ### Loads and stores in the L1 (R57) -/

/-- A weak load of another policy than 1 finds the core's own copy, else the home; the line is held afterwards. -/
theorem l1Load_finds {cp n : Nat} (va : Nat) (decoded : Bool) (hcp : cp ≠ 1) (hfit : l1Fits s core (pa / 128)) (hn : pa % 128 + n ≤ 128) :
    (l1Load s core cp va pa n decoded).2 = coreBytes s core pa n ∧ Quiet s (l1Load s core cp va pa n decoded).1 ∧
      (cacheLine? (l1Load s core cp va pa n decoded).1 .l1 core (pa / 128)).isSome = true := by
  obtain ⟨hquiet, c, hc, hbytes⟩ := fillLine_holds (lineVas va pa decoded) hfit
  generalize hfill : fillLine s .l1 core (pa / 128) (lineVas va pa decoded) = t at hquiet hc
  obtain ⟨hmarked, c', hc', hdata⟩ : Quiet s (if (cp = 2 && !(cacheLine? s .l1 core (pa / 128)).isSome) = true then markFirst t core (pa / 128) else t) ∧
      ∃ c', cacheLine? (if (cp = 2 && !(cacheLine? s .l1 core (pa / 128)).isSome) = true then markFirst t core (pa / 128) else t) .l1 core (pa / 128) =
        some c' ∧ c'.data = c.data := by
    split
    · obtain ⟨hq, hm⟩ := markFirst_holds hc
      exact ⟨hquiet.trans hq, _, hm, rfl⟩
    · exact ⟨hquiet, c, hc, rfl⟩
  obtain ⟨hread, hheld⟩ := noteRead_holds n hc'
  simp only [l1Load, if_neg hcp, hfill, hc']
  refine ⟨?_, hmarked.trans hread, hheld⟩
  rw [← hbytes n hn, CacheLine.bytes, CacheLine.bytes, hdata]
/-- A load of policy 1 whose line the core does not hold reads the home. -/
theorem l1Load_home {n : Nat} (va : Nat) (decoded : Bool) (h : cacheLine? s .l1 core (pa / 128) = none) :
    l1Load s core 1 va pa n decoded = (s, memReadNat s.hbm pa n) := by
  simp only [l1Load, if_true, settleRead, h, homeRead]

theorem touch_quiet (s : State) (core line : Nat) : Quiet s (touch s core line) := by
  unfold touch
  split <;> rfl
/-- Records of a store and of the scale cache leave the lines of the L1. -/
theorem scaleUpdate_holds (n v : Nat) (line : Nat) : Quiet s (scaleUpdate (touch s core line) core pa n v) ∧
    cacheLine? (scaleUpdate (touch s core line) core pa n v) .l1 core (pa / 128) = cacheLine? s .l1 core (pa / 128) := by
  refine ⟨(touch_quiet s core line).trans rfl, ?_⟩
  rw [scaleUpdate, cacheLine?_modLine_other (by simp), cacheLine?_congr (touch_caches s core line)]
/-- A weak store of another policy than 1 stands in the core's own copy, and the home is as it was. -/
theorem l1Store_holds {cp n : Nat} (va v : Nat) (decoded : Bool) (hcp : cp ≠ 1) (hfit : l1Fits s core (pa / 128)) (hn : pa % 128 + n ≤ 128) :
    Quiet s (l1Store s core cp va pa n v decoded) ∧
      ∃ c, cacheLine? (l1Store s core cp va pa n v decoded) .l1 core (pa / 128) = some c ∧ c.bytes (pa % 128) n = v % 256 ^ n := by
  obtain ⟨hquiet, c, hc, -⟩ := fillLine_holds (lineVas va pa decoded) hfit
  have hput := cacheLine?_modLine_self (f := fun c => c.put (pa % 128) n v true) hc
  have hq := hquiet.trans (modLine_quiet _ .l1 core (pa / 128) (fun c => c.put (pa % 128) n v true))
  simp only [l1Store, if_neg hcp]
  generalize modLine (fillLine s .l1 core (pa / 128) (lineVas va pa decoded)) .l1 core (pa / 128) (fun c => c.put (pa % 128) n v true) = t at hput hq ⊢
  split
  · obtain ⟨hmark, hmarked⟩ := markFirst_holds hput
    obtain ⟨hscale, hfound⟩ := scaleUpdate_holds (s := markFirst t core (pa / 128)) (core := core) (pa := pa) n v (pa / 128)
    exact ⟨(hq.trans hmark).trans hscale, _, hfound.trans hmarked, c.bytes_put v true hn⟩
  · obtain ⟨hscale, hfound⟩ := scaleUpdate_holds (s := t) (core := core) (pa := pa) n v (pa / 128)
    exact ⟨hq.trans hscale, _, hfound.trans hput, c.bytes_put v true hn⟩

end

end Sys2Proof.Machine
end

section
/-! PROOFS. Loads and stores of normal pages (O27): the check of their address, the load or store in the L1 or at the home, and the instructions that
make them. -/

namespace Sys2Proof.Machine

-- One proof at a time, as in the tests: proofs that wait for earlier ones would each hold a thread and its stack.
set_option Elab.async false

/-! ### The address -/

/-- An access of data whose translation the core's TLB holds, its D bit set where it writes, changes nothing and finds its page. -/
theorem globalCheck_reaches {s : State} {c : Ctx} {need : Need} {addr : DWord} {n pa : Nat} (hx : need.x = false) (h : Reaches54 s c need addr n pa) :
    ∃ e, tlbFind s c.core c addr.toNat = some e ∧ globalCheck s c need addr n = (s, .ok (.plain pa e)) := by
  obtain ⟨hspace, halign, e, hfind, hperm, hdirty, hpa, -, hap, htype, h15, h16⟩ := h
  refine ⟨e, hfind, ?_⟩
  have htr : translateFor s c need.x need.w addr.toNat = (s, .ok e) := by
    have hf : translate s c need.x addr.toNat = (s, .ok e) := by
      simp only [translate, tlbOwner, hx, Bool.false_eq_true, if_false, hfind]
    have hclean : (need.w && !e.dirty) = false := by
      cases hw : need.w with
      | false => rfl
      | true => rw [hdirty hw]; rfl
    simp only [translateFor, hf, hclean, Bool.false_and, Bool.false_eq_true, if_false]
  have h15' : e.efmt.toNat ≠ 15 := fun h => h15 (BitVec.eq_of_toNat_eq h)
  have h16' : e.efmt.toNat ≠ 16 := fun h => h16 (BitVec.eq_of_toNat_eq h)
  have htarget : targetOf c e addr.toNat = .plain pa e := by
    simp only [targetOf, ← hpa, htype]
    simp [Nat.not_le.2 hap, h15', h16']
  have hmark : (if (need.w && writeGoes s need n (.plain pa e)) = true then markDirty s e else s) = s := by
    split
    · next hw => rw [markDirty, if_pos (hdirty (Bool.and_eq_true_iff.1 hw).1)]
    · rfl
  simp only [globalCheck, htr, hperm, htarget, if_neg (Nat.not_le.2 hspace), hmark]
  simp [halign]
theorem place_global {s : State} {c : Ctx} {need : Need} {addr : DWord} {n : Nat} {t : Target} (h : globalCheck s c need addr n = (s, .ok t)) :
    place s c .global need addr n = (s, .ok (.glob t)) := by
  simp only [place, h]
/-- R378: the policy of the access is that of `Ord.onPage`. -/
theorem onPage_cp {s : State} {g : Group} {sp : Split} {addr : DWord} {e : TlbEntry} (o : Ord)
    (h : tlbFind s (splitCtx g sp).core (splitCtx g sp) addr.toNat = some e) : (o.onPage (laneAgent s g sp) e).cp = policyAt s g sp o.cp addr := by
  have hfind : tlbFind s g.core (splitCtx g sp) addr.toNat = some e := h
  simp only [Ord.onPage, laneAgent, policyAt, hfind, beq_iff_eq, bne_iff_ne]

/-! ### Loads -/

section
variable {s : State} {a : Agent} {o : Ord} {va pa n : Nat} {e : TlbEntry}

theorem acquires_strong (h : o.acquires = true) : o.strong = true := by
  cases ho : o.strong with
  | true => rfl
  | false =>
    have h0 : o.order = 0 := by simpa [Ord.strong] using ho
    simp [Ord.acquires, h0] at h
theorem releases_strong (h : o.releases = true) : o.strong = true := by
  cases ho : o.strong with
  | true => rfl
  | false =>
    have h0 : o.order = 0 := by simpa [Ord.strong] using ho
    simp [Ord.releases, h0] at h

/-- R57, R58: a load performed in the L1 returns what the core finds there. -/
theorem loadPlace_l1 (hpo : poisoned s (.hbm pa) = false) (hn : pa % 128 + n ≤ 128) (hwide : atHome a o = false) (hcp : (o.onPage a e).cp ≠ 1)
    (hfit : l1Fits s a.ctx.core (pa / 128)) : (loadPlace s a o va n (.glob (.plain pa e))).v = .ok (coreBytes s a.ctx.core pa n) ∧
      Quiet s (loadPlace s a o va n (.glob (.plain pa e))).s := by
  obtain ⟨hv, hquiet, -⟩ := l1Load_finds va false hcp hfit hn
  have hload : lineLoad s a (o.onPage a e) va pa n false = l1Load s a.ctx.core (o.onPage a e).cp va pa n false :=
    if_neg (by rw [show atHome a (o.onPage a e) = atHome a o from rfl, hwide]; exact Bool.false_ne_true)
  rw [loadPlace, if_neg (by simp [hpo])]
  simp only [hload, hv]
  refine ⟨trivial, hquiet.trans (readSide_quiet fun hacq hscope => ?_)⟩
  rw [atHome, acquires_strong hacq, hscope] at hwide
  exact absurd hwide (by decide)
/-- R57, R58: a load performed at the home, of a line that the core does not hold, reads there. -/
theorem loadPlace_home (hpo : poisoned s (.hbm pa) = false) (hhome : atHome a o = true ∨ (o.onPage a e).cp = 1)
    (hline : cacheLine? s .l1 a.ctx.core (pa / 128) = none) (hsig : o.acquires = true → sigAt s (.hbm pa) n = []) :
    (loadPlace s a o va n (.glob (.plain pa e))).v = .ok (memReadNat s.hbm pa n) ∧ Quiet s (loadPlace s a o va n (.glob (.plain pa e))).s := by
  have hload : lineLoad s a (o.onPage a e) va pa n false = (s, memReadNat s.hbm pa n) := by
    unfold lineLoad
    split
    · rw [flushLine_none _ _ _ hline]
      rfl
    · next hno =>
      rw [hhome.resolve_left hno]
      exact l1Load_home va false hline
  rw [loadPlace, if_neg (by simp [hpo])]
  simp only [hload]
  exact ⟨trivial, readSide_quiet fun hacq _ => hsig hacq⟩

/-! ### Stores -/

theorem writeSide_inL1 (fence : Option (BitVec 4)) (hwide : atHome a o = false) : writeSide s a o fence (.hbm pa) n false = s := by
  have hrel : releasesWide a o fence = false := by
    rw [atHome, Bool.and_eq_false_iff] at hwide
    unfold releasesWide
    rw [Bool.or_eq_false_iff]
    rcases hwide with hweak | hscope
    · have : o.releases = false := Bool.eq_false_iff.2 fun h => by rw [releases_strong h] at hweak; cases hweak
      simp [this, hweak]
    · simp [hscope]
  simp [writeSide, hrel, inL1, hwide]
theorem entrySide_quiet (s : State) (o : Ord) (l : Loc) (n : Nat) : Quiet s (entrySide s o l n) := by
  unfold entrySide
  split
  · split <;> rfl
  · rfl
theorem entrySide_caches (s : State) (o : Ord) (l : Loc) (n : Nat) : (entrySide s o l n).caches = s.caches := by
  unfold entrySide
  split
  · split <;> rfl
  · rfl
/-- A store clears the poison of no unit that is not poisoned (R419). -/
theorem coverHalf_quiet {t : State} {l : Loc} (hpo : n = 32 → poisoned t l = false) : coverHalf t l n = t := by
  by_cases hn : n = 32
  · exact coverHalf_sound t l n (hpo hn)
  · exact coverHalf_other t l n hn

variable (fence : Option (BitVec 4)) (v : Nat)

/-- R58: a store performed in the L1 stands in the core's own copy. -/
theorem storePlace_l1 (hn : pa % 128 + n ≤ 128) (hwide : atHome a o = false) (hcp : (o.onPage a e).cp ≠ 1) (hfit : l1Fits s a.ctx.core (pa / 128)) :
    (storePlace s a o fence va n v (.glob (.plain pa e))).2 = none ∧ Quiet s (storePlace s a o fence va n v (.glob (.plain pa e))).1 ∧
      ∃ c, cacheLine? (storePlace s a o fence va n v (.glob (.plain pa e))).1 .l1 a.ctx.core (pa / 128) = some c ∧
        c.bytes (pa % 128) n = v % 256 ^ n := by
  obtain ⟨hquiet, c, hc, hv⟩ := l1Store_holds va v false hcp hfit hn
  have hstore : lineStore s a (o.onPage a e) va pa n v false = l1Store s a.ctx.core (o.onPage a e).cp va pa n v false :=
    if_neg (by rw [show atHome a (o.onPage a e) = atHome a o from rfl, hwide]; exact Bool.false_ne_true)
  simp only [storePlace, hstore, writeSide_inL1 fence hwide]
  refine ⟨trivial, ?_⟩
  split
  · exact ⟨hquiet.trans (entrySide_quiet _ _ _ _), c, (cacheLine?_congr (entrySide_caches _ _ _ _) _ _ _).trans hc, hv⟩
  · exact ⟨hquiet, c, hc, hv⟩
/-- R57, R58: a store performed at the home, or written through, stands there at once. -/
theorem storePlace_home (hhome : atHome a o = true ∨ (o.onPage a e).cp = 1)
    (hline : atHome a o = true → cacheLine? s .l1 a.ctx.core (pa / 128) = none ∧ sigRoom s (.hbm pa)) :
    (storePlace s a o fence va n v (.glob (.plain pa e))).2 = none ∧
      Quiet (softWrite s pa n v) (storePlace s a o fence va n v (.glob (.plain pa e))).1 := by
  refine ⟨rfl, ?_⟩
  cases hwide : atHome a o with
  | true =>
    obtain ⟨hnone, hroom⟩ := hline hwide
    have hstore : lineStore s a (o.onPage a e) va pa n v false =
        scaleUpdate (touch (softWrite s pa n v) a.ctx.core (pa / 128)) a.ctx.core pa n v := by
      rw [lineStore, if_pos (show atHome a (o.onPage a e) = true from hwide), flushLine_none _ _ _ hnone]
    obtain ⟨hquiet, -⟩ := scaleUpdate_holds (s := softWrite s pa n v) (core := a.ctx.core) (pa := pa) n v (pa / 128)
    have hteams : (touch (softWrite s pa n v) a.ctx.core (pa / 128)).teams = s.teams := by
      obtain ⟨T, hT⟩ := touch_frame (softWrite s pa n v) a.ctx.core (pa / 128)
      rw [hT]
      rfl
    simp only [storePlace, hstore]
    split
    · obtain ⟨S, hside⟩ := writeSide_room (s := scaleUpdate (touch (softWrite s pa n v) a.ctx.core (pa / 128)) a.ctx.core pa n v) a o fence n false
        (sigRoom_congr (l := .hbm pa) (touch_sigs (softWrite s pa n v) _ _) hteams hroom)
      exact (hquiet.trans (show Quiet _ _ by rw [hside]; rfl)).trans (entrySide_quiet _ _ _ _)
    · exact hquiet
  | false =>
    have hstore : lineStore s a (o.onPage a e) va pa n v false = throughStore s a.ctx.core pa n v := by
      rw [lineStore, if_neg (by rw [show atHome a (o.onPage a e) = atHome a o from rfl, hwide]; exact Bool.false_ne_true), l1Store,
        if_pos (hhome.resolve_left (by simp [hwide]))]
    have hquiet : Quiet (softWrite s pa n v) (throughStore s a.ctx.core pa n v) := by
      obtain ⟨hscale, -⟩ := scaleUpdate_holds
        (s := softWrite (modLine s .l1 a.ctx.core (pa / 128) (fun c => c.put (pa % 128) n v false)) pa n v) (core := a.ctx.core) (pa := pa) n v (pa / 128)
      exact Quiet.trans (t := softWrite (modLine s .l1 a.ctx.core (pa / 128) (fun c => c.put (pa % 128) n v false)) pa n v) rfl hscale
    simp only [storePlace, hstore, writeSide_inL1 fence hwide]
    split
    · exact hquiet.trans (entrySide_quiet _ _ _ _)
    · exact hquiet
end

/-! ### What stores wait for -/

/-- Accesses that translated through bytes a write does not touch are not waited for (R383). -/
theorem mustWaitFor_remap {s : State} {g : Group} {sp : Split} {o : Ord} {es : List (Nat × Nat)} (hw : mustWait s g sp o = false)
    (hes : remapBusy s es = false) : mustWaitFor s g sp o { remap := es } = false := by
  simp only [mustWait, mustWaitFor, Bool.or_eq_false_iff] at hw ⊢
  obtain ⟨⟨haway, -⟩, hengines⟩ := hw
  exact ⟨⟨haway, hes⟩, hengines⟩
theorem Waits.none_and (w : Waits) : ({} : Waits).and w = w := by simp [Waits.and]
/-- What a store to a normal page waits for. -/
theorem storeWaits_page {s : State} {g : Group} {c : Ctx} {o : Ord} {fence : Option (BitVec 4)} {addr : DWord} {n pa : Nat} {e : TlbEntry}
    (he : globalCheck s c needW addr n = (s, .ok (.plain pa e))) : ∃ es, (es = [] ∨ es = [(pa, n)]) ∧
      (feedWaits s c o fence .global addr n).and (entryWaits s c (o.gang s g) .global needW addr n) = { remap := es } := by
  have hplace := place_global he
  have hfeed : feedWaits s c o fence .global addr n = {} := by simp only [feedWaits, hplace]
  rw [hfeed, entryWaits, hplace]
  dsimp only
  split
  · exact ⟨[], .inl rfl, Waits.none_and _⟩
  · exact ⟨[(pa, n)], .inr rfl, Waits.none_and _⟩

/-! ### LD, ST, SLD and SST at a normal page -/

section
variable {h : Hdr} {s : State} {g : Group} {sp : Split} {pa : Nat} {e : TlbEntry}

theorem spaceOf_global {n : Nat} (h : n % 4 = 0) : spaceOf n = .global := by simp only [spaceOf, h]

/-- No veil lies over global memory. -/
theorem seenRead_glob (s : State) (group lane n : Nat) (o : Ord) (t : Target) (r : Read) : seenRead s group lane n o (.glob t) r = r := by
  unfold seenRead
  split
  · next h _ => cases h
  · rfl
/-- One lane of LD and of ST at a normal page. -/
theorem ldLane_page {f : LongF} {l : Nat} {r : Read} {v : Nat} (hc : f.c.toNat % 4 = 0)
    (he : globalCheck s (splitCtx g sp) needR (laneAddr g l f) (memBytes f.ty) = (s, .ok (.plain pa e)))
    (hload : loadPlace s (laneAgent s g sp) (ordOf f) (laneAddr g l f).toNat (memBytes f.ty) (.glob (.plain pa e)) = r) (hv : r.v = .ok v) :
    ldLane f s g sp l = (r.s, .done 0 v, r.sig) := by
  have hact : seenRead s g.uid l (memBytes f.ty) (ordOf f) (.glob (.plain pa e))
      (loadPlace s (laneAgent s g sp) (ordOf f) (laneAddr g l f).toNat (memBytes f.ty) (.glob (.plain pa e))) = r := by rw [hload, seenRead_glob]
  have hplace : place s (laneAgent s g sp).ctx .global needR (laneAddr g l f) (memBytes f.ty) = (s, .ok (.glob (.plain pa e))) := place_global he
  rw [ldLane, spaceOf_global hc, laneAccess_done hplace (fun _ _ => by simp) (by rw [hact, hv]), hact]
  rfl
theorem stLane_page {f : LongF} {l : Nat} {t : State} (hc : f.c.toNat % 4 = 0)
    (he : globalCheck s (splitCtx g sp) needW (laneAddr g l f) (memBytes f.ty) = (s, .ok (.plain pa e)))
    (ht : storePlace s (laneAgent s g sp) (ordOf f) sp.relFence (laneAddr g l f).toNat (memBytes f.ty) (storeData g l f) (.glob (.plain pa e)) = (t, none))
    (hpo : memBytes f.ty = 32 → poisoned t (.hbm pa) = false) : stLane f s g sp l = (t, .done 1 0, []) := by
  have hact : storeRead (stPlace (.glob (.plain pa e)) (memBytes f.ty) (storePlace s (laneAgent s g sp) (ordOf f) sp.relFence (laneAddr g l f).toNat
      (memBytes f.ty) (storeData g l f) (.glob (.plain pa e)))) = ⟨t, .ok 0, []⟩ := by
    rw [ht]
    simp only [stPlace, Place.loc?, storeRead, coverHalf_quiet hpo]
  have hplace : place s (laneAgent s g sp).ctx .global needW (laneAddr g l f) (memBytes f.ty) = (s, .ok (.glob (.plain pa e))) := place_global he
  rw [stLane, spaceOf_global hc, laneAccess_done hplace (fun _ _ => by simp) (by rw [hact]), hact]
  rfl
theorem stWaits_page {f : LongF} {l : Nat} (hc : f.c.toNat % 4 = 0)
    (he : globalCheck s (splitCtx g sp) needW (laneAddr g l f) (memBytes f.ty) = (s, .ok (.plain pa e))) (hw : mustWait s g sp (ordOf f) = false)
    (hremap : remapBusy s [(pa, memBytes f.ty)] = false) : mustWaitFor s g sp (ordOf f) (stWaits f s g sp [l]) = false := by
  obtain ⟨es, hes, hwaits⟩ := storeWaits_page (g := g) (o := ordOf f) (fence := sp.relFence) he
  rw [stWaits, List.foldl_cons, List.foldl_nil, Waits.none_and, spaceOf_global hc, hwaits]
  exact mustWaitFor_remap hw (by obtain rfl | rfl := hes; exacts [rfl, hremap])

/-- An access made once for the split, done here, ends. -/
theorem uniClose_done {t : State} {path v : Nat} {sig : List (Nat × Nat)} (dst : Option Nat) (o : Ord) (insn : List Word) (hcount : g.counter path < 63) :
    uniClose s g sp (t, .done path v, sig) dst o insn =
      accessEnd t g sp 4 path (unionPairs sp.acqSig sig) (dst.map (fun d => [.s d (dw v)])) := by
  simp only [uniClose, ge_iff_le, if_neg (Nat.not_le.2 hcount)]
  cases dst with
  | none => simp only [accessEnd, Split.accessed, Option.map_none, List.append_nil]; rfl
  | some d => rfl

theorem exec_sld_page {f : SRF} {r : Read} {v : Nat} (hr : Ready (.sld h f) h s g sp) (hk : g.kGuard h = true)
    (hw : mustWait s g sp (ordShort f false) = false) (hcount : g.counter 0 < 63) (hroom : sp.pend.length < 16)
    (he : globalCheck s (splitCtx g sp) needR (shortAddr g f) 8 = (s, .ok (.plain pa e)))
    (hload : loadPlace s (laneAgent s g sp) (ordShort f false) (shortAddr g f).toNat 8 (.glob (.plain pa e)) = r) (hv : r.v = .ok v) :
    exec (.sld h f) s = .next (accessEnd r.s g sp 4 0 (unionPairs sp.acqSig r.sig) (some [.s f.d.toNat (dw v)])) := by
  have hplace : place s (laneAgent s g sp).ctx .global needR (shortAddr g f) 8 = (s, .ok (.glob (.plain pa e))) := place_global he
  have hlane : laneAccess s (laneAgent s g sp) .global needR (shortAddr g f) 8 0 1 (.read 8) false
      (fun t p => loadPlace t (laneAgent s g sp) (ordShort f false) (shortAddr g f).toNat 8 p) = (r.s, .done 0 v, r.sig) := by
    rw [laneAccess_done hplace (fun _ _ => by simp) (by rw [hload, hv]), hload]
    rfl
  have hw' : mustWaitFor s g sp (ordShort f false) {} = false := hw
  rw [exec_sld, execSld, uniAccess, asUniform_ready _ _ _ _ _ _ s g sp hr rfl rfl, if_pos hk]
  simp only [Bool.false_eq_true, if_false, hw', Bool.not_false, Bool.true_and, ge_iff_le, decide_eq_true_eq, if_neg (Nat.not_le.2 hroom), hlane]
  rw [uniClose_done _ _ _ hcount]
  rfl
theorem exec_sst_page {f : SRF} {t : State} (hr : Ready (.sst h f) h s g sp) (hk : g.kGuard h = true)
    (hw : mustWait s g sp (ordShort f true) = false) (hcount : g.counter 1 < 63) (hremap : remapBusy s [(pa, 8)] = false)
    (he : globalCheck s (splitCtx g sp) needW (shortAddr g f) 8 = (s, .ok (.plain pa e)))
    (ht : storePlace s (laneAgent s g sp) (ordShort f true) sp.relFence (shortAddr g f).toNat 8 (g.sReg f.d.toNat).toNat (.glob (.plain pa e)) =
      (t, none)) : exec (.sst h f) s = .next (accessEnd t g sp 4 1 (unionPairs sp.acqSig []) none) := by
  have hplace : place s (laneAgent s g sp).ctx .global needW (shortAddr g f) 8 = (s, .ok (.glob (.plain pa e))) := place_global he
  have hlane : laneAccess s (laneAgent s g sp) .global needW (shortAddr g f) 8 0 2 (.write (bytesOf 8 (g.sReg f.d.toNat).toNat)) true
      (fun t p => storeRead (storePlace t (laneAgent s g sp) (ordShort f true) sp.relFence (shortAddr g f).toNat 8 (g.sReg f.d.toNat).toNat p)) =
        (t, .done 1 0, []) := by
    rw [laneAccess_done hplace (fun _ _ => by simp) (by rw [ht]; rfl), ht]
    rfl
  obtain ⟨es, hes, hwaits⟩ := storeWaits_page (g := g) (o := ordShort f true) (fence := sp.relFence) he
  have hw' : mustWaitFor s g sp (ordShort f true) ((feedWaits s (laneAgent s g sp).ctx (ordShort f true) sp.relFence .global (shortAddr g f) 8).and
      (entryWaits s (laneAgent s g sp).ctx ((ordShort f true).gang s g) .global needW (shortAddr g f) 8)) = false := by
    have hctx : (laneAgent s g sp).ctx = splitCtx g sp := rfl
    rw [hctx, hwaits]
    exact mustWaitFor_remap hw (by obtain rfl | rfl := hes; exacts [rfl, hremap])
  rw [exec_sst, execSst, uniAccess, asUniform_ready _ _ _ _ _ _ s g sp hr rfl rfl, if_pos hk]
  simp only [if_true, hw', Bool.false_eq_true, if_false, Bool.not_true, Bool.false_and, hlane]
  rw [uniClose_done _ _ _ hcount]
  rfl

end

/-! ### What they leave -/

section
variable {s t : State} {g : Group} {sp : Split} {i : Instr}

/-- An instruction that ends with `accessEnd` after effects on caches and signatures has changed no memory. -/
theorem access_sameMemory {len path : Nat} {read : List (Nat × Nat)} {ws : Option (List RegWrite)}
    (he : exec i s = .next (accessEnd t g sp len path read ws)) (hg : s.group? g.uid = some g) (hs : g.split? sp.slot = some sp) (hq : Quiet s t) :
    ∃ t g', exec i s = .next t ∧ SameMemory s t ∧ OtherGroupsKept s t g.uid ∧ MemoryEnds t g g' sp len path s.uid ws := by
  obtain ⟨g', hend, hother⟩ := accessEnd_spec len path read ws hg hs hq.groups hq.uid
  exact ⟨_, g', he, hq.memory, hother, hend⟩
/-- One that ends so after a store at the home has stored there. -/
theorem access_storesAt {pa n v len path : Nat} {read : List (Nat × Nat)} {ws : Option (List RegWrite)}
    (he : exec i s = .next (accessEnd t g sp len path read ws)) (hg : s.group? g.uid = some g) (hs : g.split? sp.slot = some sp)
    (hq : Quiet (softWrite s pa n v) t) (hwf : s.Canonical) :
    ∃ t g', exec i s = .next t ∧ StoresAt s t (.hbm pa) n v ∧ OtherGroupsKept s t g.uid ∧ MemoryEnds t g g' sp len path s.uid ws := by
  obtain ⟨g', hend, hother⟩ := accessEnd_spec len path read ws hg hs (s := s) hq.groups hq.uid
  exact ⟨_, g', he, storesAt_locWrite n v hwf (.inr ⟨pa, rfl⟩) hq.memory, hother, hend⟩

theorem atHome_iff {a : Agent} {o : Ord} : atHome a o = true ↔ o.order ≠ 0 ∧ wideScope o.scope a.paired = true := by
  simp [atHome, Ord.strong]

/-- A load of a normal page whose instruction ends with what `loadPlace` returns: from the L1, or from the home. -/
theorem load_gives {o : Ord} {addr : DWord} {n len pa : Nat} {regs : Nat → List RegWrite} (hn : n ∈ [0, 1, 2, 4, 8, 16, 32]) (hr : s.current? = some (g, sp))
    (hreach : Reaches54 s (splitCtx g sp) needR addr n pa) (hpo : poisoned s (.hbm pa) = false)
    (hexec : ∀ e r v, globalCheck s (splitCtx g sp) needR addr n = (s, .ok (.plain pa e)) →
      loadPlace s (laneAgent s g sp) o addr.toNat n (.glob (.plain pa e)) = r → r.v = .ok v →
        ∃ read, exec i s = .next (accessEnd r.s g sp len 0 read (some (regs v)))) :
    let wide : Prop := o.order ≠ 0 ∧ wideScope o.scope (laneAgent s g sp).paired = true
    let gives (v : Nat) : Prop := ∃ t g', exec i s = .next t ∧ SameMemory s t ∧ OtherGroupsKept s t g.uid ∧ MemoryEnds t g g' sp len 0 s.uid (some (regs v))
    (¬ wide → policyAt s g sp o.cp addr ≠ 1 → l1Fits s g.core (pa / 128) → gives (coreBytes s g.core pa n)) ∧
    (wide ∨ policyAt s g sp o.cp addr = 1 → cacheLine? s .l1 g.core (pa / 128) = none → (o.acquires = true → sigAt s (.hbm pa) n = []) →
      gives (memReadNat s.hbm pa n)) := by
  intro wide gives
  obtain ⟨hg, hs⟩ := s.current?_found g sp hr
  obtain ⟨e, hfind, he⟩ := globalCheck_reaches rfl hreach
  have hcp := onPage_cp o hfind
  have halign : pa % n = 0 := by
    obtain ⟨-, -, e, -, -, -, -, hpa, -⟩ := hreach
    exact hpa
  refine ⟨fun hnarrow hpol hfit => ?_, fun hhome hline hsig => ?_⟩
  · obtain ⟨hv, hq⟩ := loadPlace_l1 (a := laneAgent s g sp) (o := o) (va := addr.toNat) (e := e) hpo (line_offset hn halign)
      (Bool.eq_false_iff.2 (mt atHome_iff.1 hnarrow)) (by rw [hcp]; exact hpol) hfit
    obtain ⟨read, hend⟩ := hexec e _ _ he rfl hv
    exact access_sameMemory hend hg hs hq
  · obtain ⟨hv, hq⟩ := loadPlace_home (a := laneAgent s g sp) (o := o) (va := addr.toNat) (e := e) hpo
      (by rw [atHome_iff, hcp]; exact hhome) hline hsig
    obtain ⟨read, hend⟩ := hexec e _ _ he rfl hv
    exact access_sameMemory hend hg hs hq
/-- A store of a normal page whose instruction ends with what `storePlace` leaves: in the L1, or at the home. -/
theorem store_gives {o : Ord} {addr : DWord} {n len v pa : Nat} (hn : n ∈ [0, 1, 2, 4, 8, 16, 32]) (hv : v < 256 ^ n) (hwf : s.Canonical)
    (hr : s.current? = some (g, sp)) (hreach : Reaches54 s (splitCtx g sp) needW addr n pa) (hpo : n = 32 → poisoned s (.hbm pa) = false)
    (hexec : ∀ e t, globalCheck s (splitCtx g sp) needW addr n = (s, .ok (.plain pa e)) →
      storePlace s (laneAgent s g sp) o sp.relFence addr.toNat n v (.glob (.plain pa e)) = (t, none) → (n = 32 → poisoned t (.hbm pa) = false) →
        ∃ read, exec i s = .next (accessEnd t g sp len 1 read none)) :
    let wide : Prop := o.order ≠ 0 ∧ wideScope o.scope (laneAgent s g sp).paired = true
    (¬ wide → policyAt s g sp o.cp addr ≠ 1 → l1Fits s g.core (pa / 128) → ∃ t g', exec i s = .next t ∧ SameMemory s t ∧ OtherGroupsKept s t g.uid ∧
      MemoryEnds t g g' sp len 1 s.uid none ∧ (cacheLine? t .l1 g.core (pa / 128)).isSome = true ∧ coreBytes t g.core pa n = v) ∧
    (wide ∨ policyAt s g sp o.cp addr = 1 → (wide → cacheLine? s .l1 g.core (pa / 128) = none ∧ sigRoom s (.hbm pa)) → ∃ t g', exec i s = .next t ∧
      StoresAt s t (.hbm pa) n v ∧ OtherGroupsKept s t g.uid ∧ MemoryEnds t g g' sp len 1 s.uid none) := by
  intro wide
  obtain ⟨hg, hs⟩ := s.current?_found g sp hr
  obtain ⟨e, hfind, he⟩ := globalCheck_reaches rfl hreach
  have hcp := onPage_cp o hfind
  have halign : pa % n = 0 := by
    obtain ⟨-, -, e, -, -, -, -, hpa, -⟩ := hreach
    exact hpa
  refine ⟨fun hnarrow hpol hfit => ?_, fun hhome hline => ?_⟩
  · obtain ⟨hok, hq, c, hc, hbytes⟩ := storePlace_l1 (a := laneAgent s g sp) (o := o) (va := addr.toNat) (e := e) sp.relFence v (line_offset hn halign)
      (Bool.eq_false_iff.2 (mt atHome_iff.1 hnarrow)) (by rw [hcp]; exact hpol) hfit
    obtain ⟨t, ht⟩ : ∃ t, storePlace s (laneAgent s g sp) o sp.relFence addr.toNat n v (.glob (.plain pa e)) = (t, none) := ⟨_, Prod.ext rfl hok⟩
    rw [ht] at hq hc
    obtain ⟨read, hend⟩ := hexec e t he ht (fun h => (hq.poisoned _).trans (hpo h))
    obtain ⟨g', hends, hother⟩ := accessEnd_spec len 1 read none hg hs hq.groups hq.uid
    have hfound : cacheLine? (accessEnd t g sp len 1 read none) .l1 g.core (pa / 128) = some c := hc
    refine ⟨_, g', hend, hq.memory, hother, hends, by rw [hfound]; rfl, ?_⟩
    simp only [coreBytes, hfound]
    exact hbytes.trans (Nat.mod_eq_of_lt hv)
  · obtain ⟨hok, hq⟩ := storePlace_home (a := laneAgent s g sp) (o := o) (va := addr.toNat) (n := n) (e := e) sp.relFence v
      (by rw [atHome_iff, hcp]; exact hhome) (fun h => hline (atHome_iff.1 h))
    obtain ⟨read, hend⟩ := hexec e _ he (Prod.ext rfl hok) (fun h => (hq.poisoned _).trans (hpo h))
    exact access_storesAt hend hg hs hq hwf

end

/-- Settles O27: each of the four instructions ends with what `loadPlace` returns or `storePlace` leaves, and `load_gives` and `store_gives` say what
that is. -/
theorem globalLoadsAndStores : Obligations.GlobalLoadsAndStores := by
  intro h s g sp pa hwf wide loads stores
  have hcan := (memoriesWf_iff s).1 hwf
  refine ⟨fun f l ha hc => ⟨?ld, ?st⟩, fun f hk => ⟨?sld, ?sst⟩⟩
  case ld =>
    intro hr hreach hpo hw hcount hroom
    exact load_gives (memBytes_mem f.ty) hr.current hreach hpo fun e r v he hload hv =>
      ⟨_, exec_ld_one hr ha hw (ldLane_page hc he hload hv) hcount hroom⟩
  case st =>
    intro hr hreach hw hcount hpo hremap
    exact store_gives (memBytes_mem f.ty) (storeData_lt g l f) hcan hr.current hreach hpo fun e t he ht hpo' =>
      ⟨_, exec_st_one hr ha (stWaits_page hc he hw hremap) (stLane_page hc he ht hpo') hcount⟩
  case sld =>
    intro hr hreach hpo hw hcount hroom
    exact load_gives (by decide) hr.current hreach hpo fun e r v he hload hv => ⟨_, exec_sld_page hr hk hw hcount hroom he hload hv⟩
  case sst =>
    intro hr hreach hw hcount hpo hremap
    exact store_gives (by decide) (g.sReg f.d.toNat).isLt hcan hr.current hreach hpo fun e t he ht _ => ⟨_, exec_sst_page hr hk hw hcount hremap he ht⟩

end Sys2Proof.Machine
end

section
/-! PROOFS. Lines written home and dropped (R55, R241): which bytes stand at the home afterwards, and which lines are still held. -/

namespace Sys2Proof.Machine

-- One proof at a time, as in the tests: proofs that wait for earlier ones would each hold a thread and its stack.
set_option Elab.async false

/-! ### The newest bytes of a core -/

/-- The byte that a core has written last at a physical address: the dirty byte of its L1, else the home's. -/
def newestByte (s : State) (core x : Nat) : Byte :=
  match cacheLine? s .l1 core (x / 128) with
  | some c => if c.dirty.getLsbD (x % 128) then BitVec.ofNat 8 (c.bytes (x % 128) 1) else memRead s.hbm x
  | none => memRead s.hbm x
/-- On a line that the core holds. -/
theorem newestByte_held {s : State} {core line i : Nat} {c : CacheLine} (hc : cacheLine? s .l1 core line = some c) (hi : i < 128) :
    newestByte s core (128 * line + i) = if c.dirty.getLsbD i then BitVec.ofNat 8 (c.bytes i 1) else memRead s.hbm (128 * line + i) := by
  simp only [newestByte, show (128 * line + i) / 128 = line by omega, show (128 * line + i) % 128 = i by omega, hc]

/-- The dirty bytes sent home, one by one: each is read there. -/
theorem memRead_writeDirty (m : Memory) (c : CacheLine) (l : List Nat) (x : Nat) (h : Memory.wf m = true) : memRead (writeDirty m c l) x =
    if 128 * c.line ≤ x ∧ x - 128 * c.line ∈ l ∧ c.dirty.getLsbD (x - 128 * c.line) = true then BitVec.ofNat 8 (c.bytes (x - 128 * c.line) 1)
    else memRead m x := by
  induction l generalizing m with
  | nil => simp [writeDirty]
  | cons i l ih =>
    have hhead : memRead (if c.dirty.getLsbD i then memWrite m (128 * c.line + i) (BitVec.ofNat 8 (c.bytes i 1)) else m) x =
        if x = 128 * c.line + i ∧ c.dirty.getLsbD i = true then BitVec.ofNat 8 (c.bytes i 1) else memRead m x := by
      split
      · next hd => simp [memRead_memWrite m 0 _ _ _ h, hd]
      · next hd => simp [hd]
    have hwf : Memory.wf (if c.dirty.getLsbD i then memWrite m (128 * c.line + i) (BitVec.ofNat 8 (c.bytes i 1)) else m) = true := by
      split
      · exact memWrite_wf _ _ _ h
      · exact h
    rw [writeDirty, ih _ hwf, hhead]
    by_cases hx : x = 128 * c.line + i
    · subst hx
      cases hd : c.dirty.getLsbD i <;> simp [hd]
    · have hne : 128 * c.line ≤ x → x - 128 * c.line ≠ i := fun h1 h2 => hx (by omega)
      simp only [hx, false_and, if_false, List.mem_cons]
      by_cases h1 : 128 * c.line ≤ x
      · simp [h1, hne h1]
      · simp [h1]

/-! ### One write-back -/

/-- A line whose dirty bytes are home. -/
def cleaned (c : CacheLine) : CacheLine := { c with dirty := 0, read := 0 }

/-- A write-back of a clean or absent line changes nothing; one of a dirty line sends its dirty bytes home and leaves it clean, and changes nothing else
but records of poison and of written slots. -/
theorem writeBack_cases (s : State) (core line : Nat) :
    ((∀ c, cacheLine? s .l1 core line = some c → c.dirty = 0) ∧ writeBack s core line = s) ∨
    ∃ c P H L, cacheLine? s .l1 core line = some c ∧ writeBack s core line =
      modLine { s with hbm := writeDirty s.hbm c (upTo 128), poison := P, halves := H, slotHits := L } .l1 core line cleaned := by
  cases hc : cacheLine? s .l1 core line with
  | none => exact .inl ⟨fun c h => (nomatch h), writeBack_none s core line hc⟩
  | some c =>
    by_cases hd : c.dirty = 0
    · exact .inl ⟨fun d h => by cases h; exact hd, writeBack_clean s core line c hc hd⟩
    · have hd' : c.dirty.toNat ≠ 0 := fun h => hd (BitVec.eq_of_toNat_eq h)
      simp only [writeBack, hc, if_neg hd']
      refine .inr ?_
      split <;> split <;> exact ⟨c, _, _, _, rfl, rfl⟩

/-- What write-backs of lines `p` of a core have done: their newest bytes are at the home, every other byte there is as it was, and nothing else of
memory, of the groups or of the numbering of operations has changed. -/
structure SentHome (s t : State) (core : Nat) (p : Nat → Prop) : Prop where
  home : ∀ x, (p (x / 128) → memRead t.hbm x = newestByte s core x) ∧ (¬ p (x / 128) → memRead t.hbm x = memRead s.hbm x)
  newest : ∀ x, newestByte t core x = newestByte s core x
  wf : Memory.wf s.hbm = true → Memory.wf t.hbm = true
  scratch : t.scratch = s.scratch
  dieScratch : t.dieScratch = s.dieScratch
  acc : t.acc = s.acc
  groups : t.groups = s.groups
  uid : t.uid = s.uid

namespace SentHome
variable {s t u : State} {core : Nat} {p q : Nat → Prop}
protected theorem refl (s : State) (core : Nat) : SentHome s s core (fun _ => False) :=
  ⟨fun _ => ⟨False.elim, fun _ => rfl⟩, fun _ => rfl, id, rfl, rfl, rfl, rfl, rfl⟩
protected theorem trans (h1 : SentHome s t core p) (h2 : SentHome t u core q) : SentHome s u core (fun l => p l ∨ q l) where
  home x := by
    by_cases hq : q (x / 128)
    · exact ⟨fun _ => ((h2.home x).1 hq).trans (h1.newest x), fun h => absurd (.inr hq) h⟩
    · have hkept := (h2.home x).2 hq
      exact ⟨fun h => hkept.trans ((h1.home x).1 (h.resolve_right hq)), fun h => hkept.trans ((h1.home x).2 fun hp => h (.inl hp))⟩
  newest x := (h2.newest x).trans (h1.newest x)
  wf h := h2.wf (h1.wf h)
  scratch := h2.scratch.trans h1.scratch
  dieScratch := h2.dieScratch.trans h1.dieScratch
  acc := h2.acc.trans h1.acc
  groups := h2.groups.trans h1.groups
  uid := h2.uid.trans h1.uid
protected theorem congr (h : SentHome s t core p) (hpq : ∀ l, p l ↔ q l) : SentHome s t core q := by
  rwa [← show p = q from funext fun l => propext (hpq l)]
end SentHome

/-- Where a core holds no line, its newest byte is the home's. -/
theorem newestByte_none {s : State} {core x : Nat} (h : cacheLine? s .l1 core (x / 128) = none) : newestByte s core x = memRead s.hbm x := by
  simp only [newestByte, h]
/-- So it is where the line is clean. -/
theorem newestByte_clean {s : State} {core x : Nat} (h : ∀ c, cacheLine? s .l1 core (x / 128) = some c → c.dirty = 0) :
    newestByte s core x = memRead s.hbm x := by
  cases hc : cacheLine? s .l1 core (x / 128) with
  | none => exact newestByte_none hc
  | some c => simp [newestByte, hc, h c hc]
theorem newestByte_congr {s t : State} {core x : Nat} (hc : cacheLine? t .l1 core (x / 128) = cacheLine? s .l1 core (x / 128))
    (hm : memRead t.hbm x = memRead s.hbm x) : newestByte t core x = newestByte s core x := by
  simp only [newestByte, hc, hm]

/-- R241: a write-back sends the newest bytes of its line home, and no other byte. -/
theorem writeBack_sentHome (s : State) (core line : Nat) (hwf : Memory.wf s.hbm = true) : SentHome s (writeBack s core line) core (· = line) := by
  rcases writeBack_cases s core line with ⟨hclean, hsame⟩ | ⟨c, P, H, L, hc, hwb⟩
  · rw [hsame]
    exact { SentHome.refl s core with home := fun x => ⟨fun hx => (newestByte_clean fun c h => hclean c (hx ▸ h)).symm, fun _ => rfl⟩ }
  · have hline : c.line = line := (CacheLine.is_iff.1 (cacheLine?_is hc)).2.2
    have hhome (x : Nat) : (x / 128 = line → memRead (writeBack s core line).hbm x = newestByte s core x) ∧
        (x / 128 ≠ line → memRead (writeBack s core line).hbm x = memRead s.hbm x) := by
      rw [hwb]
      refine ⟨fun hx => ?_, fun hx => ?_⟩
      · refine (memRead_writeDirty s.hbm c (upTo 128) x hwf).trans ?_
        have hoff : x - 128 * line = x % 128 := by omega
        have hmem : x % 128 ∈ upTo 128 := by simp [upTo, Nat.mod_lt]
        simp [newestByte, hx, hc, hline, hoff, hmem, show 128 * line ≤ x by omega]
      · refine (memRead_writeDirty s.hbm c (upTo 128) x hwf).trans (if_neg fun ⟨hle, hmem, _⟩ => hx ?_)
        rw [hline] at hle hmem
        have : x - 128 * line < 128 := by simpa [upTo] using hmem
        omega
    refine ⟨hhome, fun x => ?_, fun _ => ?_, ?_, ?_, ?_, ?_, ?_⟩
    · by_cases hx : x / 128 = line
      · refine (newestByte_clean fun d hd => ?_).trans ((hhome x).1 hx)
        rw [hwb, hx] at hd
        rw [← Option.some.inj ((cacheLine?_modLine_self (f := cleaned) hc).symm.trans hd)]; rfl
      · refine newestByte_congr ?_ ((hhome x).2 hx)
        rw [hwb, cacheLine?_modLine_other (by simpa using hx)]; rfl
    · rw [hwb]; exact writeDirty_wf _ _ _ hwf
    all_goals rw [hwb]; rfl

/-- A cache that has dropped a line holds the others as before. -/
theorem cacheLine?_dropLine_other (s : State) {k k' : CacheKind} {core core' line line' : Nat} (h : (k', core', line') ≠ (k, core, line)) :
    cacheLine? (dropLine s k core line) k' core' line' = cacheLine? s k' core' line' := by
  simp only [cacheLine?, dropLine, List.find?_filter]
  congr 1
  funext c
  change decide ((!c.is k core line) = true ∧ c.is k' core' line' = true) = c.is k' core' line'
  cases his : c.is k' core' line' with
  | false => simp
  | true =>
    obtain ⟨rfl, rfl, rfl⟩ := CacheLine.is_iff.1 his
    have : c.is k core line = false := Bool.eq_false_iff.2 fun hd => h (by obtain ⟨rfl, rfl, rfl⟩ := CacheLine.is_iff.1 hd; rfl)
    simp [this]
/-- Dropping an L1 line whose newest bytes are home changes none of them. -/
theorem flushLine_sentHome (s : State) (core line : Nat) (hwf : Memory.wf s.hbm = true) : SentHome s (flushLine s core line) core (· = line) := by
  have h := writeBack_sentHome s core line hwf
  refine ⟨h.home, fun x => ?_, h.wf, h.scratch, h.dieScratch, h.acc, h.groups, h.uid⟩
  by_cases hx : x / 128 = line
  · exact (newestByte_none (by rw [hx]; exact cacheLine?_flushLine_self s core line)).trans ((h.home x).1 hx)
  · exact (newestByte_congr (s := writeBack s core line) (cacheLine?_dropLine_other _ (by simpa using hx)) rfl).trans (h.newest x)

/-! ### Lines written home one after the other -/

section
variable {step : State → Nat → State} {core : Nat}

theorem SentHome.foldl (hstep : ∀ s l, Memory.wf s.hbm = true → SentHome s (step s l) core (· = l)) (L : List Nat) (s : State)
    (hwf : Memory.wf s.hbm = true) : SentHome s (L.foldl step s) core (· ∈ L) := by
  induction L generalizing s with
  | nil => exact (SentHome.refl s core).congr (by simp)
  | cons l L ih =>
    have hfirst := hstep s l hwf
    exact (hfirst.trans (ih _ (hfirst.wf hwf))).congr (by simp)
/-- A line that one step drops, and none brings back, is not held after the steps. -/
theorem cacheLine?_foldl_none {k : CacheKind} {line : Nat} (hdrop : ∀ s, cacheLine? (step s line) k core line = none)
    (hkeep : ∀ {s l}, cacheLine? s k core line = none → cacheLine? (step s l) k core line = none) {L : List Nat} (h : line ∈ L) (s : State) :
    cacheLine? (L.foldl step s) k core line = none := by
  obtain ⟨before, after, rfl⟩ := List.append_of_mem h
  rw [List.foldl_append, List.foldl_cons]
  exact foldl_keeps (P := fun t => cacheLine? t k core line = none) (hdrop _) hkeep
end

/-- A write-back keeps the lines that are held, and their data, and leaves its own line clean. -/
theorem cacheLine?_writeBack_held {s : State} {core line : Nat} {c : CacheLine} (l : Nat) (h : cacheLine? s .l1 core line = some c) :
    ∃ c', cacheLine? (writeBack s core l) .l1 core line = some c' ∧ c'.data = c.data ∧ (line = l ∨ c.dirty = 0 → c'.dirty = 0) := by
  rcases writeBack_cases s core l with ⟨hclean, hsame⟩ | ⟨d, P, H, L, -, hwb⟩
  · exact ⟨c, by rw [hsame, h], rfl, fun hor => hor.elim (fun he => hclean c (he ▸ h)) id⟩
  · rw [hwb]
    by_cases hl : line = l
    · subst hl
      exact ⟨_, cacheLine?_modLine_self (f := cleaned) h, rfl, fun _ => rfl⟩
    · exact ⟨c, (cacheLine?_modLine_other (f := cleaned) (by simpa using hl)).trans h, rfl, fun hor => hor.resolve_left hl⟩
/-- Write-backs one after the other do so too. -/
theorem cacheLine?_writeBacks_held {core line : Nat} (L : List Nat) {s : State} {c : CacheLine} (h : cacheLine? s .l1 core line = some c) :
    ∃ c', cacheLine? (L.foldl (fun s l => writeBack s core l) s) .l1 core line = some c' ∧ c'.data = c.data ∧ (line ∈ L ∨ c.dirty = 0 → c'.dirty = 0) := by
  induction L generalizing s c with
  | nil => exact ⟨c, h, rfl, fun hor => hor.resolve_left List.not_mem_nil⟩
  | cons l L ih =>
    obtain ⟨d, hd, hdata, hclean⟩ := cacheLine?_writeBack_held l h
    obtain ⟨c', hc', hdata', hclean'⟩ := ih hd
    refine ⟨c', hc', hdata'.trans hdata, fun hor => hclean' ?_⟩
    rcases hor with hmem | hdirty
    · exact (List.mem_cons.1 hmem).elim (fun he => .inr (hclean (.inl he))) .inl
    · exact .inr (hclean (.inr hdirty))
/-- Dropping scale lines leaves memory and the L1. -/
theorem dropScaleLine_sentHome (s : State) (core l : Nat) : SentHome s (dropLine s .scale core l) core (fun _ => False) :=
  { SentHome.refl s core with newest := fun _ => newestByte_congr (cacheLine?_dropLine_other s (by simp)) rfl }

end Sys2Proof.Machine
end

section
/-! PROOFS. DWB, DINV, ICINV and FETCHB (O32): the lines of a range, written home, dropped, or both. -/

namespace Sys2Proof.Machine

-- One proof at a time, as in the tests: proofs that wait for earlier ones would each hold a thread and its stack.
set_option Elab.async false

section
variable {s : State} {g : Group} {sp : Split} {h : Hdr} {f : SRF}

/-! ### The lines meant -/

theorem mem_linesIn {k : CacheKind} {line : Nat} {c : CacheLine} (hc : cacheLine? s k g.core line = some c) (hr : inRange g f c = true) :
    line ∈ linesIn s g f k := by
  obtain ⟨hkind, hcore, hline⟩ := CacheLine.is_iff.1 (cacheLine?_is hc)
  exact List.mem_map.2 ⟨c, List.mem_filter.2 ⟨List.mem_of_find?_eq_some hc, by simp [hkind, hcore, hr]⟩, hline⟩
/-- Where no line is listed twice, the lines of a range are those held that lie in it. -/
theorem mem_linesIn_iff {line : Nat}
    (hone : ∀ line c d, cacheLine? s .l1 g.core line = some c → d ∈ s.caches → d.is .l1 g.core line = true → d = c) :
    line ∈ linesIn s g f .l1 ↔ ∃ c, cacheLine? s .l1 g.core line = some c ∧ inRange g f c = true := by
  refine ⟨fun hmem => ?_, fun ⟨c, hc, hr⟩ => mem_linesIn hc hr⟩
  obtain ⟨d, hd, rfl⟩ := List.mem_map.1 hmem
  obtain ⟨hin, hd⟩ := List.mem_filter.1 hd
  simp only [Bool.and_eq_true, beq_iff_eq] at hd
  obtain ⟨⟨hkind, hcore⟩, hr⟩ := hd
  have his : d.is .l1 g.core d.line = true := CacheLine.is_iff.2 ⟨hkind, hcore, rfl⟩
  cases hc : cacheLine? s .l1 g.core d.line with
  | none => exact absurd (cacheLine?_eq_none.1 hc d hin) (by simp [his])
  | some c => exact ⟨c, rfl, hone _ c d hc hin his ▸ hr⟩

/-! ### DWB and DINV -/

/-- The newest bytes of the lines meant are home: the dirty bytes are the lines' own, and every other byte is as it was. -/
theorem SentHome.written {t u : State} {core : Nat} {meant : Nat → CacheLine → Prop} (hs : SentHome s t core (fun l => ∃ c, meant l c))
    (hm : ∀ l c, meant l c → cacheLine? s .l1 core l = some c) (hu : SameMemory t u) :
    (∀ line c, meant line c → ∀ i, i < 128 → c.dirty.getLsbD i = true → memRead u.hbm (128 * line + i) = BitVec.ofNat 8 (c.bytes i 1)) ∧
      (∀ x, (∀ c, meant (x / 128) c → c.dirty.getLsbD (x % 128) = false) → memRead u.hbm x = memRead s.hbm x) ∧
      u.scratch = s.scratch ∧ u.dieScratch = s.dieScratch ∧ u.acc = s.acc := by
  obtain ⟨hhbm, hscratch, hdie, hacc⟩ := hu
  rw [hhbm]
  refine ⟨fun line c hc i hi hd => ?_, fun x hx => ?_, hscratch.trans hs.scratch, hdie.trans hs.dieScratch, hacc.trans hs.acc⟩
  · rw [(hs.home (128 * line + i)).1 (by rw [show (128 * line + i) / 128 = line by omega]; exact ⟨c, hc⟩), newestByte_held (hm line c hc) hi, if_pos hd]
  · by_cases hl : ∃ c, meant (x / 128) c
    · obtain ⟨c, hc⟩ := hl
      rw [(hs.home x).1 ⟨c, hc⟩]
      simp only [newestByte, hm _ c hc, hx c hc, Bool.false_eq_true, if_false]
    · exact (hs.home x).2 hl

/-- What DWB and DINV answer. -/
theorem maintain_ends {i : Instr} {act : State → Group → State} (he : exec i s = maintain i h act s) (hr : Ready i h s g sp)
    (hk : g.kGuard h = true) (hcount : g.counter 1 < 63) (hgroups : (act s g).groups = s.groups) (huid : (act s g).uid = s.uid) :
    ∃ t g', exec i s = .next t ∧ OtherGroupsKept s t g.uid ∧ MemoryEnds t g g' sp 4 1 s.uid none ∧
      SameMemory (act s g) t ∧ t.caches = (act s g).caches := by
  obtain ⟨g', hends, hother⟩ := accessEnd_spec (t := act s g) 4 1 sp.acqSig none hr.group hr.split hgroups huid
  refine ⟨_, g', ?_, hother, hends, ⟨rfl, rfl, rfl, rfl⟩, rfl⟩
  rw [he, maintain, asUniform_ready _ _ _ _ _ _ s g sp hr rfl rfl, if_pos hk]
  simp only [withRoom, Bool.false_and, Bool.false_eq_true, if_false, ge_iff_le, if_neg (Nat.not_le.2 hcount), accessEnd, Split.accessed, List.append_nil]
  rfl

/-- DINV's write-backs and drops, of the lines `L` of the L1 and `M` of the scale cache. -/
def invalidate (s : State) (core : Nat) (L M : List Nat) : State :=
  M.foldl (fun s l => dropLine s .scale core l) (L.foldl (fun s l => flushLine s core l) s)
/-- Afterwards the newest bytes of the lines meant are home, and none of the lines is held. -/
theorem invalidated_sentHome (hwf : Memory.wf s.hbm = true) (core : Nat) (L M : List Nat) : SentHome s (invalidate s core L M) core (· ∈ L) ∧
    ∀ line ∈ L, cacheLine? (invalidate s core L M) .l1 core line = none := by
  have hflush := SentHome.foldl (fun s l => flushLine_sentHome s core l) L s hwf
  have hgone (line : Nat) (hl : line ∈ L) : cacheLine? (L.foldl (fun s l => flushLine s core l) s) .l1 core line = none :=
    cacheLine?_foldl_none (step := fun s l => flushLine s core l) (fun s => cacheLine?_flushLine_self s core line) cacheLine?_flushLine_none hl s
  refine foldl_keeps (P := fun t => SentHome s t core (· ∈ L) ∧ ∀ line ∈ L, cacheLine? t .l1 core line = none) ⟨hflush, hgone⟩ fun ⟨hsent, hnone⟩ => ?_
  exact ⟨(hsent.trans (dropScaleLine_sentHome _ core _)).congr (by simp), fun line hl => cacheLine?_filter_none _ (hnone line hl)⟩

/-! ### ICINV and FETCHB -/

/-- ICINV drops instruction lines of the core, and nothing else. -/
theorem icinv_drops (hk : g.kGuard h = true) (hr : Ready (.icinv h f) h s g sp) : ∃ t g' sp', exec (.icinv h f) s = .next t ∧ SameMemory s t ∧
    OtherGroupsKept s t g.uid ∧ t.group? g.uid = some g' ∧ OnlySplit g g' sp sp' ∧ g' = { g with splits := g'.splits } ∧ AtPc sp sp' (sp.pc + 4) ∧
    ∀ line c, cacheLine? s .instr g.core line = some c → inRange g f c = true → cacheLine? t .instr g.core line = none := by
  generalize hL : linesIn s g f .instr = L
  obtain ⟨hsame, hgroups⟩ : SameMemory s (L.foldl (fun s l => dropLine s .instr g.core l) s) ∧ (L.foldl (fun s l => dropLine s .instr g.core l) s).groups = s.groups :=
    foldl_keeps (P := fun t => SameMemory s t ∧ t.groups = s.groups) ⟨⟨rfl, rfl, rfl, rfl⟩, rfl⟩ id
  obtain ⟨hgroup, hother, hsplit⟩ := finish_after (g' := g) (sp' := sp) 4 hr.group hr.split hgroups rfl rfl rfl
  refine ⟨_, _, _, ?_, ?_, hother, hgroup, hsplit, rfl, rfl, fun line c hc hin => ?_⟩
  · rw [exec_icinv, execIcinv, asUniform_ready _ _ _ _ _ _ s g sp hr rfl rfl, if_pos hk, hL]
  · exact hsame
  · exact cacheLine?_foldl_none (step := fun s l => dropLine s .instr g.core l) (fun s => cacheLine?_dropLine_self s .instr g.core line)
      (cacheLine?_filter_none _) (hL ▸ mem_linesIn hc hin) s

/-- FETCHB drops the words fetched ahead, and nothing else. -/
theorem fetchb_drops (hk : g.kGuard h = true) (hr : Ready (.fetchb h) h s g sp) : ∃ t g' sp', exec (.fetchb h) s = .next t ∧ OnlyGroup s t g g' ∧
    OnlySplit g g' sp sp' ∧ g' = { g with splits := g'.splits } ∧ sp' = { sp with pc := sp.pc + 4, lastTrap := sp'.lastTrap, fenceWait := none, prefetch := [] } := by
  obtain ⟨hgroup, hother, hsplit⟩ := finish_after (g' := g) (sp' := { sp with prefetch := [] }) 4 hr.group hr.split rfl rfl rfl rfl
  refine ⟨_, _, _, ?_, ⟨rfl, hgroup, hother⟩, hsplit, rfl, rfl⟩
  rw [exec_fetchb, execFetchb, asUniform_ready _ _ _ _ _ _ s g sp hr rfl rfl, if_pos hk]

end

end Sys2Proof.Machine
end

section
/-! PROOFS. FENCE (O32): what it waits for, the release that it leaves, and what an acquire brings home and drops. -/

namespace Sys2Proof.Machine

-- One proof at a time, as in the tests: proofs that wait for earlier ones would each hold a thread and its stack.
set_option Elab.async false

section
variable {s : State} {g : Group} {sp : Split} {h : Hdr} {f : LongF}

/-! ### The wider of two release fences (R73) -/

/-- How far a fence scope reaches. -/
def fenceReach (paired : Bool) (x : BitVec 4) : Nat := if x = 2#4 ∧ paired = true then 7 else 2 * x.toNat
theorem scopeRank_eq (paired : Bool) (x : BitVec 4) : scopeRank paired x = fenceReach paired x := by
  have hx : x.toNat = 2 ↔ x = 2#4 := (BitVec.toNat_inj (y := 2#4))
  simp [scopeRank, fenceReach, hx]
/-- It is one of the two, and reaches at least as far as either. -/
theorem widerFence_spec (paired : Bool) (old : Option (BitVec 4)) (sc : BitVec 4) : ∃ x, widerFence paired old sc = some x ∧
    (x = sc ∨ old = some x) ∧ fenceReach paired sc ≤ fenceReach paired x ∧ ∀ y, old = some y → fenceReach paired y ≤ fenceReach paired x := by
  cases old with
  | none => exact ⟨sc, rfl, .inl rfl, Nat.le_refl _, fun y hy => nomatch hy⟩
  | some o =>
    simp only [widerFence, scopeRank_eq, Option.some.injEq, forall_eq']
    by_cases ho : fenceReach paired o < fenceReach paired sc
    · exact ⟨sc, if_pos ho, .inl rfl, Nat.le_refl _, Nat.le_of_lt ho⟩
    · exact ⟨o, if_neg ho, .inr rfl, Nat.not_lt.1 ho, Nat.le_refl _⟩

/-! ### The effect of a fence and the split past it -/

/-- The state after a fence's effect on caches and memory. -/
def fenceEffect (s : State) (g : Group) (sp : Split) (o : Ord) : State :=
  if o.acquires then if wideScope o.scope (laneAgent s g sp).paired then applySig s g.core sp.acqSig else narrowAcquire s g.core else s
/-- The split with what the fence leaves it to remember. -/
def fenceSplit (s : State) (g : Group) (sp : Split) (o : Ord) : Split :=
  { sp with
    relFence := if o.releases then widerFence (laneAgent s g sp).paired sp.relFence (BitVec.ofNat 4 o.scope) else sp.relFence
    acqSig := if o.acquires ∧ wideScope o.scope (laneAgent s g sp).paired then [] else sp.acqSig }
theorem fenceNow_eq (o : Ord) : fenceNow s g sp o = finish (fenceEffect s g sp (o.gang s g)) g (fenceSplit s g sp (o.gang s g)) 12 := by
  simp only [fenceNow, fenceEffect, fenceSplit]
  cases (o.gang s g).acquires <;> cases (o.gang s g).releases <;> cases wideScope (o.gang s g).scope (laneAgent s g sp).paired <;> rfl
theorem fenceEffect_groups (o : Ord) : (fenceEffect s g sp o).groups = s.groups := by
  unfold fenceEffect
  split
  · split
    · exact applySig_groups s g.core sp.acqSig
    · rfl
  · rfl

/-- A fence that must wait for engines or, as an acquire, for strong accesses away. -/
def fenceWaits (s : State) (g : Group) (sp : Split) (f : LongF) : Prop :=
  enginesBusy s g sp (f.x.toNat % 8) = true ∨ ((ordOf f).acquires = true ∧ strongAway s g sp = true)
theorem exec_fence_waits (hr : Ready (.fence h f) h s g sp) (ha : activeLanes g sp h ≠ []) (hw : fenceWaits s g sp f) :
    exec (.fence h f) s = .next (s.setGroup (g.setSplit
      { sp with fenceWait := some { Split.fenced s g sp (f.x.toNat % 8) with remap := [] }, status := .stalled (.fence (ordOf f).acquires) })) := by
  rw [exec_lanes (exec_fence h f s) hr rfl, if_neg (by simpa using ha), if_pos (by simpa [fenceWaits] using hw)]
  rfl
theorem exec_fence_past (hr : Ready (.fence h f) h s g sp) (ha : activeLanes g sp h ≠ []) (hw : ¬ fenceWaits s g sp f) :
    exec (.fence h f) s =
      .next (finish (fenceEffect s g sp ((ordOf f).gang s g)) g (fenceSplit s g sp ((ordOf f).gang s g)) 12) := by
  rw [exec_lanes (exec_fence h f s) hr rfl, if_neg (by simpa using ha), if_neg (by simpa [fenceWaits] using hw), fenceNow_eq]

/-! ### An acquire (R63, R84) -/

theorem cacheLine?_dropScales (s : State) (core n : Nat) : cacheLine? (dropScales s core) .scale core n = none :=
  cacheLine?_eq_none.2 fun c hc => by
    have hkept := (List.mem_filter.1 hc).2
    simp only [CacheLine.is]
    grind
/-- R84 step 2: the dirty bytes that the one core named has of the line read are home afterwards, where the reader has none of its own. -/
theorem applySig_home {core k line : Nat} {c : CacheLine} (hwf : Memory.wf s.hbm = true) (hk : k = core ∨ cacheLine? s .l1 core line = none)
    (hc : cacheLine? s .l1 k line = some c) {i : Nat} (hi : i < 128) : memRead (applySig s core [(k, line)]).hbm (128 * line + i) =
      if c.dirty.getLsbD i then BitVec.ofNat 8 (c.bytes i 1) else memRead s.hbm (128 * line + i) := by
  have hback := writeBack_sentHome s k line hwf
  have hflush := flushLine_sentHome (writeBack s k line) core line (hback.wf hwf)
  have hin : (128 * line + i) / 128 = line := by omega
  have hown : newestByte (writeBack s k line) core (128 * line + i) = newestByte s k (128 * line + i) := by
    rcases hk with rfl | hnone
    · exact hback.newest _
    · exact (newestByte_none (by rw [hin]; exact cacheLine?_writeBack_none hnone)).trans ((hback.home _).1 hin)
  calc memRead (applySig s core [(k, line)]).hbm (128 * line + i)
      = memRead (flushLine (writeBack s k line) core line).hbm (128 * line + i) := by
        simp only [applySig, List.foldl_cons, List.foldl_nil, dropScales, touch_hbm]
    _ = newestByte s k (128 * line + i) := ((hflush.home _).1 hin).trans hown
    _ = _ := newestByte_held hc hi

end

end Sys2Proof.Machine
end

section
/-! PROOFS. PREF (O32): a translation and a load in the L1 touch no group, and a prefetched line is held. -/

namespace Sys2Proof.Machine

-- One proof at a time, as in the tests: proofs that wait for earlier ones would each hold a thread and its stack.
set_option Elab.async false

/-! ### Translations touch no group (R381, R382) -/

section
variable (s : State)

@[simp] theorem setEntryBit_groups (i : Nat) (as : List Nat) : (setEntryBit s i as).groups = s.groups :=
  foldl_field State.groups (f := fun s a => homeWrite s a 8 (homeRead s a 8 ||| 2 ^ i)) (fun _ _ => rfl) as s
@[simp] theorem walkFill_groups (c : Ctx) (fetch : Bool) (va : Nat) : (walkFill s c fetch va).1.groups = s.groups := by
  unfold walkFill
  extract_lets
  split <;> exact setEntryBit_groups s 6 _
@[simp] theorem translate_groups (c : Ctx) (fetch : Bool) (va : Nat) : (translate s c fetch va).1.groups = s.groups := by
  unfold translate
  split
  · rfl
  · split
    · rfl
    · exact walkFill_groups s c fetch va
@[simp] theorem translateFor_groups (c : Ctx) (fetch write : Bool) (va : Nat) : (translateFor s c fetch write va).1.groups = s.groups := by
  have htranslate := translate_groups s c fetch va
  unfold translateFor
  split
  · next t e heq => rwa [heq] at htranslate
  · next t e heq =>
    rw [heq] at htranslate
    split
    · exact (walkFill_groups _ c fetch va).trans htranslate
    · exact htranslate
@[simp] theorem markDirty_groups (e : TlbEntry) : (markDirty s e).groups = s.groups := by
  unfold markDirty
  split
  · rfl
  · exact setEntryBit_groups s 7 _
@[simp] theorem globalCheck_groups (c : Ctx) (need : Need) (addr : DWord) (n : Nat) : (globalCheck s c need addr n).1.groups = s.groups := by
  have htranslate := translateFor_groups s c need.x need.w addr.toNat
  unfold globalCheck
  extract_lets
  split
  · rfl
  · split
    · rfl
    · split
      · next t e heq => rwa [heq] at htranslate
      · next t e heq =>
        rw [heq] at htranslate
        split
        · exact htranslate
        · split
          · exact (markDirty_groups t e).trans htranslate
          · exact htranslate

/-! ### A load in the L1 touches no group (R57) -/

@[simp] theorem makeRoom_groups (k : CacheKind) (core : Nat) : (makeRoom s k core).groups = s.groups := by
  unfold makeRoom
  split
  · rfl
  · extract_lets
    split
    · rfl
    · split
      · unfold evictLine
        split
        · exact flushLine_groups s core _
        · rfl
      · rfl
@[simp] theorem fillLine_groups (k : CacheKind) (core line : Nat) (va : Nat × Nat) : (fillLine s k core line va).groups = s.groups := by
  unfold fillLine
  split
  · split <;> rfl
  · exact makeRoom_groups s k core
@[simp] theorem noteRead_groups (core pa n : Nat) : (noteRead s core pa n).groups = s.groups := by
  unfold noteRead
  split
  · extract_lets
    split <;> rfl
  · rfl
@[simp] theorem settleRead_groups (core pa n : Nat) : (settleRead s core pa n).groups = s.groups := by
  unfold settleRead
  split
  · split
    · exact writeBack_groups s core _
    · rfl
  · rfl
@[simp] theorem l1Load_groups (core cp va pa n : Nat) (decoded : Bool) : (l1Load s core cp va pa n decoded).1.groups = s.groups := by
  have hfill := fillLine_groups s .l1 core (pa / 128) (lineVas va pa decoded)
  unfold l1Load
  split
  · exact settleRead_groups s core pa n
  · extract_lets held filled marked
    have hmarked : marked.groups = s.groups := by
      change (if _ then markFirst filled core (pa / 128) else filled).groups = s.groups
      split <;> exact hfill
    split
    · exact (noteRead_groups marked core pa n).trans hmarked
    · exact hmarked
/-- A prefetch touches no group. -/
theorem prefLane_groups (a : Agent) (addr : DWord) (o : Ord) : (prefLane s a addr o).groups = s.groups := by
  have hcheck := globalCheck_groups s a.ctx needR addr 1
  unfold prefLane
  extract_lets bring
  have hbring (t : State) (pa : Nat) (e : TlbEntry) (dec : Bool) : (bring t pa e dec).groups = t.groups := by
    change (if _ then t else _ : State).groups = t.groups
    split
    · rfl
    · exact l1Load_groups t _ _ _ _ _ _
  split
  · next heq => rw [heq] at hcheck; exact (hbring _ _ _ _).trans hcheck
  · next heq => rw [heq] at hcheck; exact (hbring _ _ _ _).trans hcheck
  · next heq => rw [heq] at hcheck; exact hcheck
end

/-! ### PREF (R230) -/

section
variable {s : State} {g : Group} {sp : Split} {h : Hdr} {f : LongF}

/-- The order, scope and policy of a prefetch. -/
def prefOrd (f : LongF) : Ord := { order := 0, scope := 0, cp := f.rm.toNat }
/-- The state after the prefetches of an instruction's lanes. -/
def prefetched (s : State) (g : Group) (sp : Split) (f : LongF) (ls : List Nat) : State :=
  if f.c.toNat % 4 = 0 then ls.foldl (fun s l => prefLane s (laneAgent s g sp) (laneAddr g l f) (prefOrd f)) s else s
theorem prefetched_groups (ls : List Nat) : (prefetched s g sp f ls).groups = s.groups := by
  unfold prefetched
  split
  · exact foldl_field State.groups (fun t l => prefLane_groups t (laneAgent t g sp) (laneAddr g l f) (prefOrd f)) ls s
  · rfl
theorem exec_pref_ready (hr : Ready (.pref h f) h s g sp) (ha : activeLanes g sp h ≠ []) :
    exec (.pref h f) s = .next (finish (prefetched s g sp f (activeLanes g sp h)) g sp 12) := by
  rw [exec_lanes (exec_pref h f s) hr rfl, if_neg (by simpa using ha)]
  rfl
/-- One lane's readable byte of a normal page: its line is held, and memory is as it was. -/
theorem prefLane_holds {l pa : Nat} (hcp : policyAt s g sp f.rm.toNat (laneAddr g l f) ≠ 1)
    (hreach : Reaches54 s (splitCtx g sp) needR (laneAddr g l f) 1 pa) (hpo : poisoned s (.hbm pa) = false) (hfit : l1Fits s g.core (pa / 128)) :
    SameMemory s (prefLane s (laneAgent s g sp) (laneAddr g l f) (prefOrd f)) ∧
      (cacheLine? (prefLane s (laneAgent s g sp) (laneAddr g l f) (prefOrd f)) .l1 g.core (pa / 128)).isSome = true := by
  obtain ⟨e, hfind, hcheck⟩ := globalCheck_reaches rfl hreach
  have hpolicy : ((prefOrd f).onPage (laneAgent s g sp) e).cp ≠ 1 := by rw [onPage_cp _ hfind]; exact hcp
  obtain ⟨-, hquiet, hheld⟩ := l1Load_finds (laneAddr g l f).toNat false hpolicy hfit (show pa % 128 + 1 ≤ 128 by omega)
  have hlane : prefLane s (laneAgent s g sp) (laneAddr g l f) (prefOrd f) =
      (l1Load s g.core ((prefOrd f).onPage (laneAgent s g sp) e).cp (laneAddr g l f).toNat pa 1 false).1 := by
    simp only [prefLane, show (laneAgent s g sp).ctx = splitCtx g sp from rfl, hcheck, hpo, decide_eq_false hpolicy, Bool.or_self, Bool.false_eq_true,
      if_false]
    rfl
  rw [hlane]
  exact ⟨hquiet.memory, hheld⟩
end

end Sys2Proof.Machine
end

section
/-! PROOFS. Fences and cache maintenance together (O32). -/

namespace Sys2Proof.Machine

-- One proof at a time, as in the tests: proofs that wait for earlier ones would each hold a thread and its stack.
set_option Elab.async false

/-- R73, R84: a FENCE that waits no longer. -/
theorem fence_passes {h : Hdr} {s : State} {g : Group} {sp : Split} {f : LongF} (hwf : Memory.wf s.hbm = true) (hr : Ready (.fence h f) h s g sp)
    (ha : activeLanes g sp h ≠ []) (hw : ¬ fenceWaits s g sp f) :
    let o := (ordOf f).gang s g
    let paired := (laneAgent s g sp).paired
    ∃ t g' sp', exec (.fence h f) s = .next t ∧ t.group? g.uid = some g' ∧ OtherGroupsKept s t g.uid ∧ OnlySplit g g' sp sp' ∧
      g' = { g with splits := g'.splits } ∧
      sp' = { sp with pc := sp.pc + 12, lastTrap := sp'.lastTrap, fenceWait := none, relFence := sp'.relFence, acqSig := sp'.acqSig } ∧
      (o.releases = true → ∃ x, sp'.relFence = some x ∧ (x = BitVec.ofNat 4 o.scope ∨ sp.relFence = some x) ∧
        fenceReach paired (BitVec.ofNat 4 o.scope) ≤ fenceReach paired x ∧ ∀ y, sp.relFence = some y → fenceReach paired y ≤ fenceReach paired x) ∧
      (o.releases = false → sp'.relFence = sp.relFence) ∧
      (o.acquires = false → sp'.acqSig = sp.acqSig ∧ OnlyGroup s t g g') ∧
      (o.acquires = true → (∀ n, cacheLine? t .scale g.core n = none) ∧
        (wideScope o.scope paired = false → SameMemory s t ∧ sp'.acqSig = sp.acqSig) ∧
        (wideScope o.scope paired = true → sp'.acqSig = [] ∧ (∀ q ∈ sp.acqSig, cacheLine? t .l1 g.core q.2 = none) ∧
          ∀ k line, sp.acqSig = [(k, line)] → k = g.core ∨ cacheLine? s .l1 g.core line = none → ∀ c, cacheLine? s .l1 k line = some c → ∀ i, i < 128 →
            memRead t.hbm (128 * line + i) = if c.dirty.getLsbD i then BitVec.ofNat 8 (c.bytes i 1) else memRead s.hbm (128 * line + i))) := by
  intro o paired
  obtain ⟨hgroup, hother, hsplit⟩ := finish_after (g' := g) (sp' := fenceSplit s g sp o) 12 hr.group hr.split (fenceEffect_groups o) rfl rfl rfl
  have hcaches (k : CacheKind) (line : Nat) : cacheLine? (finish (fenceEffect s g sp o) g (fenceSplit s g sp o) 12) k g.core line =
      cacheLine? (fenceEffect s g sp o) k g.core line := cacheLine?_congr rfl k g.core line
  have hsig : ((fenceSplit s g sp o).next 12).acqSig = if o.acquires ∧ wideScope o.scope paired then [] else sp.acqSig := rfl
  refine ⟨_, _, _, exec_fence_past hr ha hw, hgroup, hother, hsplit, rfl, rfl, fun hrel => ?_, fun hrel => ?_, fun hacq => ?_, fun hacq => ⟨?_, ?_, ?_⟩⟩
  · obtain ⟨x, hx, hfrom, hscope, hold⟩ := widerFence_spec paired sp.relFence (BitVec.ofNat 4 o.scope)
    exact ⟨x, (if_pos hrel).trans hx, hfrom, hscope, hold⟩
  · exact if_neg (by simp [hrel])
  · have heffect : fenceEffect s g sp o = s := if_neg (by simp [hacq])
    exact ⟨hsig.trans (if_neg (by simp [hacq])), by rw [heffect]; rfl, hgroup, hother⟩
  · intro n
    rw [hcaches, fenceEffect, if_pos hacq]
    split
    · exact cacheLine?_dropScales _ g.core n
    · exact cacheLine?_dropScales s g.core n
  · intro hnarrow
    have heffect : fenceEffect s g sp o = narrowAcquire s g.core := (if_pos hacq).trans (if_neg (by simpa using hnarrow))
    exact ⟨by rw [heffect]; exact ⟨rfl, rfl, rfl, rfl⟩, hsig.trans (if_neg (by simp [hnarrow]))⟩
  · intro hwide
    have heffect : fenceEffect s g sp o = applySig s g.core sp.acqSig := (if_pos hacq).trans (if_pos hwide)
    refine ⟨hsig.trans (if_pos ⟨hacq, hwide⟩), fun q hq => ?_, fun k line hone hk c hc i hi => ?_⟩
    · rw [hcaches, heffect]
      exact cacheLine?_applySig s g.core sp.acqSig hq
    · rw [heffect, hone]
      exact applySig_home hwf hk hc hi

/-- Settles O32: each instruction by what it does to the lines of a cache, and by what a write-back of a line does to the home. -/
theorem fencesAndCacheMaintenance : Obligations.FencesAndCacheMaintenance := by
  intro h s g sp hmem
  have hwf : Memory.wf s.hbm = true := ((memoriesWf_iff s).1 hmem).hbm
  refine ⟨fun f hr ha => ⟨exec_fence_waits hr ha, fence_passes hwf hr ha⟩, fun f hr ha => ?_, ?_,
    fun f hk hr => icinv_drops hk hr, fetchb_drops⟩
  · obtain ⟨hgroup, hother, hsplit⟩ := finish_after (g' := g) (sp' := sp) 12 hr.group hr.split
      (prefetched_groups (s := s) (sp := sp) (f := f) (activeLanes g sp h)) rfl rfl rfl
    have hexec := exec_pref_ready hr ha
    refine ⟨⟨_, _, _, hexec, hgroup, hother, hsplit, rfl, rfl⟩, fun hspace => ?_, fun l pa hone hspace hcp hreach hpo hfit => ?_⟩
    · rw [prefetched, if_neg hspace] at hexec
      exact completes_finish_same 12 hexec hr.group hr.split
    · rw [prefetched, if_pos hspace, hone] at hexec
      obtain ⟨hsame, hheld⟩ := prefLane_holds hcp hreach hpo hfit
      exact ⟨_, hexec, hsame, hheld⟩
  · intro f hk hcount meant written hone
    have hmeant (l : Nat) : l ∈ linesIn s g f .l1 ↔ ∃ c, meant l c := mem_linesIn_iff hone
    refine ⟨fun hr => ?_, fun hr => ?_⟩
    · have hsent := SentHome.foldl (fun s l => writeBack_sentHome s g.core l) (linesIn s g f .l1) s hwf
      obtain ⟨t, g', hexec, hother, hends, hsame, hcaches⟩ := maintain_ends (exec_dwb h f s) hr hk hcount hsent.groups hsent.uid
      refine ⟨t, g', hexec, hother, hends, (hsent.congr hmeant).written (fun l c hc => hc.1) hsame, fun line c hc => ?_⟩
      obtain ⟨c', hc', hdata, hclean⟩ := cacheLine?_writeBacks_held (linesIn s g f .l1) hc.1
      exact ⟨c', (cacheLine?_congr hcaches .l1 g.core line).trans hc', hclean (.inl ((hmeant line).2 ⟨c, hc⟩)), hdata⟩
    · obtain ⟨hsent, hgone⟩ := invalidated_sentHome hwf g.core (linesIn s g f .l1) (linesIn s g f .scale)
      obtain ⟨t, g', hexec, hother, hends, hsame, hcaches⟩ := maintain_ends (exec_dinv h f s) hr hk hcount hsent.groups hsent.uid
      exact ⟨t, g', hexec, hother, hends, (hsent.congr hmeant).written (fun l c hc => hc.1) hsame, fun line c hc =>
        (cacheLine?_congr hcaches .l1 g.core line).trans (hgone line ((hmeant line).2 ⟨c, hc⟩))⟩

end Sys2Proof.Machine
end

section
/-! PROOFS. A release FENCE of a program at gang scope (O44): outside a gang that lists devices it is performed at device scope (R415), and that
scope is what the program remembers. -/

namespace Sys2Proof.Machine

-- One proof at a time, as in the tests: proofs that wait for earlier ones would each hold a thread and its stack.
set_option Elab.async false

/-! ### The counterexample -/

/-- `fence.rel.gang`: ORDER 3, SCOPE 9 (R69, R270). -/
def gangFence : LauterF := { imm32 := 0, imm12 := 0x4B0, b := 0, a := 0, d := 0 }
/-- A program of no grid, so of no gang, that has accessed nothing yet. -/
def gangProgram : Program :=
  { serial := 1, group := 1, flight := 0, notify := false, lxrbase := 0, packet := none, x := [], pc := 0x100, loops := [], d := [],
    ctx := { core := 0, part := 0, asid := 0, ptroot := 0, sup := false, wkey := 0, grid := none, team := none } }
def gangEngine : EngRef := ⟨0, 0⟩
def gangState : State :=
  { actor := .engine gangEngine, engines := [{ core := 0, eng := 0, accepted := 1, progs := [gangProgram], finished := [] }] }

theorem gangState_runs : Runs (.lauterFence gangFence) gangState gangEngine gangProgram where
  current := by decide
  wellFormed := by decide
/-- Nothing of the program is on its way. -/
theorem gangState_drained : progDrained gangState gangEngine gangProgram = true := by decide

/-- The release FENCE that the program of engine `r` remembers, in the state an outcome leads to. -/
def relFenceAfter (o : Host.Outcome State Fault Refusal) (r : EngRef) : Option (Option (BitVec 4)) :=
  match o with
  | .next t => (t.prog? r).map (·.relFence)
  | _ => none
/-- The model performs the FENCE: the program remembers device scope. -/
theorem relFenceAfter_fence : relFenceAfter (exec (.lauterFence gangFence) gangState) gangEngine = some (some 8) := by decide

/-- Refutes O44, in the clause of FENCE: the statement has the program remember the encoded scope, also where that is gang scope, which `progOrd`
replaces by the scope at which it is performed. -/
theorem not_lauterSynchronisation : ¬ Obligations.LauterSynchronisation := by
  intro hall
  obtain ⟨-, -, -, hfence, -⟩ := hall gangFence gangState gangEngine gangProgram (.scratch 0 0) (by decide) (fun _ h => nomatch h)
    (by decide) gangState_drained (by decide) rfl
  obtain ⟨t, q, he, -, hq, -, hrel⟩ := hfence gangState_runs rfl
  have hafter := relFenceAfter_fence
  rw [he, relFenceAfter, hq, Option.map_some, hrel (by decide)] at hafter
  exact absurd hafter (by decide)

end Sys2Proof.Machine
end

section
/-! PROOFS. The places of single accesses, and read-modify-writes there (O30): the step reads the word and writes its new value, on the chip and at the
home of a normal page alike. -/

namespace Sys2Proof.Machine

-- One proof at a time, as in the tests: proofs that wait for earlier ones would each hold a thread and its stack.
set_option Elab.async false

/-! ### The place of a single access -/

/-- The checked place of an access that is performed at `l`: the location on the chip, or a normal page around it. -/
def Place.At (p : Place) (l : Loc) : Prop := p = .loc l ∨ ∃ pa e, p = .glob (.plain pa e) ∧ l = .hbm pa

section
variable {p : Place} {l : Loc} (h : p.At l)
include h
theorem Place.At.loc? : p.loc? = some l := by
  obtain rfl | ⟨pa, e, rfl, rfl⟩ := h <;> rfl
theorem Place.At.refusal (s : State) (va : Nat) : rmwRefusal s va p = none := by
  obtain rfl | ⟨pa, e, rfl, rfl⟩ := h <;> rfl
theorem Place.At.here (pa : Nat) (e : TlbEntry) : p ≠ .glob (.remote pa e) := by
  obtain rfl | ⟨_, _, rfl, -⟩ := h <;> simp
end

section
variable {s : State} {c : Ctx} {sp : Space} {need : Need} {addr : DWord} {n : Nat} {l : Loc}

theorem ActsAt.kind (h : ActsAt s c sp need addr n l) : l.OnChip ∨ ∃ pa, l = .hbm pa := by
  obtain ⟨-, -, -, ⟨-, hoff⟩ | ⟨pa, -, rfl, -⟩⟩ := h
  · exact .inl (placeOffset_onChip hoff)
  · exact .inr ⟨pa, rfl⟩
theorem ActsAt.uncached (h : ActsAt s c sp need addr n l) (pa : Nat) (hl : l = .hbm pa) : cacheLine? s .l1 c.core (pa / 128) = none := by
  obtain ⟨-, -, -, ⟨-, hoff⟩ | ⟨_, -, rfl, -, hline⟩⟩ := h
  · subst hl
    exact (placeOffset_onChip hoff).elim
  · obtain rfl := Loc.hbm.inj hl
    exact hline
/-- Its checks are passed without a change, and its counter path is that of its space (R219). -/
theorem ActsAt.place (hx : need.x = false) (h : ActsAt s c sp need addr n l) : ∃ p, place s c sp need addr n = (s, .ok p) ∧ p.At l ∧
    ∀ store, pathOf sp p store = if sp ≠ .global then 2 else if store then 1 else 0 := by
  obtain ⟨-, -, -, ⟨hsp, hoff⟩ | ⟨pa, rfl, rfl, hreach, -⟩⟩ := h
  · exact ⟨.loc l, by rw [place_offset _ _ _ _ _ hsp, hoff], .inl rfl, fun store => by rw [pathOf_onChip _ _ hsp, if_pos hsp]⟩
  · obtain ⟨e, -, he⟩ := globalCheck_reaches hx hreach
    exact ⟨_, place_global he, .inr ⟨pa, e, rfl, rfl⟩, fun store => rfl⟩
/-- As a write of page-table entries it waits for nothing (R383). -/
theorem ActsAt.entryWaits (hx : need.x = false) (o : Ord) (h : ActsAt s c sp need addr n l) :
    ∃ es, remapBusy s es = false ∧ entryWaits s c o sp need addr n = { remap := es } := by
  obtain ⟨p, hplace, hat, -⟩ := h.place hx
  obtain ⟨-, -, hremap, -⟩ := h
  rw [Machine.entryWaits, hplace]
  split
  · exact ⟨[], rfl, rfl⟩
  · obtain rfl | ⟨pa, e, rfl, rfl⟩ := hat
    · exact ⟨[], rfl, rfl⟩
    · exact ⟨[(pa, n)], hremap pa rfl, rfl⟩
end

/-! ### One step at a location (R79) -/

section
variable {s t : State} {a : Agent} {o : Ord} {fence : Option (BitVec 4)} {l : Loc} {n : Nat}

/-- The same store in two states leaves them as alike as they were. -/
theorem Quiet.locWrite (v : Nat) (hl : l.OnChip ∨ ∃ pa, l = .hbm pa) (h : Quiet s t) : Quiet (locWrite s l n v) (locWrite t l n v) := by
  cases l with
  | hbm pa => rw [h]; rfl
  | scratch m k => rw [h]; rfl
  | die m k => rw [h]; rfl
  | page m k => obtain hl | ⟨pa, hl⟩ := hl; exacts [hl.elim, nomatch hl]
  | away m k => obtain hl | ⟨pa, hl⟩ := hl; exacts [hl.elim, nomatch hl]
/-- It writes a memory, and at the home notes the slots it meets (R393). -/
theorem locWrite_notes (s : State) (v : Nat) (hl : l.OnChip ∨ ∃ pa, l = .hbm pa) : let t := locWrite s l n v
    t = { s with hbm := t.hbm, scratch := t.scratch, dieScratch := t.dieScratch, slotHits := t.slotHits } := by
  cases l with
  | page m k => obtain hl | ⟨pa, hl⟩ := hl; exacts [hl.elim, nomatch hl]
  | _ => rfl
/-- A read that meets no release drops lines at most. -/
theorem readSide_drops (h : o.acquires = true → sigAt s l n = []) : ∃ C, (readSide s a o l n).1 = { s with caches := C } := by
  unfold readSide
  split
  · next hacq =>
    unfold acquireAt
    split
    · rw [h hacq, applySig_nil]
      exact ⟨_, rfl⟩
    · exact ⟨_, rfl⟩
  · split <;> exact ⟨s.caches, rfl⟩

/-- The state at the start of a step, the core's own copy of the line gone home. -/
def rmwStart (s : State) (core : Nat) (l : Loc) : State :=
  match l with
  | .hbm pa => touch (flushLine s core (pa / 128)) core (pa / 128)
  | _ => s
theorem rmwAt_eq (f : Nat → Nat) : rmwAt s a o fence l n f =
    let s1 := rmwStart s a.ctx.core l
    let r := readSide s1 a o l n
    (entrySide (writeSide (locWrite r.1 l n (f (locRead s1 l n))) a o fence l n true) o l n, locRead s1 l n, r.2) := by
  cases l <;> rfl
/-- Where the core holds no copy of the line, only the record of its writes grows. -/
theorem rmwStart_uncached {core : Nat} (hline : ∀ pa, l = .hbm pa → cacheLine? s .l1 core (pa / 128) = none) :
    ∃ T, rmwStart s core l = { s with touched := T } := by
  cases l with
  | hbm pa =>
    rw [rmwStart, flushLine_none _ _ _ (hline pa rfl)]
    exact touch_frame s core (pa / 128)
  | _ => exact ⟨s.touched, rfl⟩

/-- R79, R84: the step returns what stands at the location and stores its new value there; besides that it changes caches, translations and signatures
at most. -/
theorem rmwAt_spec (f : Nat → Nat) (hl : l.OnChip ∨ ∃ pa, l = .hbm pa) (hline : ∀ pa, l = .hbm pa → cacheLine? s .l1 a.ctx.core (pa / 128) = none)
    (hroom : sigRoom s l) (hsig : o.acquires = true → sigAt s l n = []) :
    ∃ t sig, rmwAt s a o fence l n f = (t, bytesAt s l n, sig) ∧ Quiet (locWrite s l n (f (bytesAt s l n))) t := by
  obtain ⟨T, hstart⟩ := rmwStart_uncached hline
  have hold : locRead { s with touched := T } l n = bytesAt s l n := by
    rw [locRead_eq_bytesAt]
    cases l <;> rfl
  obtain ⟨C, hread⟩ := readSide_drops (s := { s with touched := T }) (a := a) hsig
  have hnotes := locWrite_notes (n := n) { s with touched := T, caches := C } (f (bytesAt s l n)) hl
  obtain ⟨S, hwrite⟩ := writeSide_room a o fence n true
    (sigRoom_congr (s := s) (t := locWrite { s with touched := T, caches := C } l n (f (bytesAt s l n))) (by rw [hnotes]) (by rw [hnotes]) hroom)
  refine ⟨_, _, by rw [rmwAt_eq, hstart]; dsimp only; rw [hold, hread, hwrite], Quiet.trans ?_ (entrySide_quiet _ _ _ _)⟩
  exact (Quiet.locWrite (t := { s with touched := T, caches := C }) _ hl rfl).trans rfl
theorem rmwPlace_sound {va old : Nat} {p : Place} {sig : List (Nat × Nat)} {f : Nat → Nat} (hat : p.At l) (hpo : poisoned s l = false)
    (hstep : rmwAt s a o fence l n f = (t, old, sig)) : rmwPlace s a o fence va n p f = ⟨t, .ok old, sig⟩ := by
  simp only [rmwPlace, hat.refusal, hat.loc?, hpo, hstep, Bool.false_eq_true, if_false]

/-- An instruction that ends after a store at a location, here or at the home, has stored there. -/
theorem access_storesAtLoc {i : Instr} {g : Group} {sp : Split} {len path v : Nat} {read : List (Nat × Nat)} {ws : Option (List RegWrite)}
    (he : exec i s = .next (accessEnd t g sp len path read ws)) (hg : s.group? g.uid = some g) (hs : g.split? sp.slot = some sp)
    (hl : l.OnChip ∨ ∃ pa, l = .hbm pa) (hq : Quiet (locWrite s l n v) t) (hwf : s.Canonical) :
    ∃ t g', exec i s = .next t ∧ StoresAt s t l n v ∧ OtherGroupsKept s t g.uid ∧ MemoryEnds t g g' sp len path s.uid ws := by
  have hnotes := locWrite_notes s (n := n) v hl
  obtain ⟨g', hend, hother⟩ := accessEnd_spec len path read ws hg hs (hq.groups.trans (by rw [hnotes])) (hq.uid.trans (by rw [hnotes]))
  exact ⟨_, g', he, storesAt_locWrite n v hwf hl hq.memory, hother, hend⟩
end

end Sys2Proof.Machine
end

section
/-! PROOFS. ATOM, RED and ACAS of one lane (O30). -/

namespace Sys2Proof.Machine

-- One proof at a time, as in the tests: proofs that wait for earlier ones would each hold a thread and its stack.
set_option Elab.async false

/-- One lane is alone at its address, so the order of the lanes is not open (R50). -/
theorem rmwOrder_one (s : State) (l : Nat) (addr : Nat → DWord) : rmwOrder s [l] addr = (s, [l]) := rfl
/-- A weak one is relaxed (R68), so it acquires nothing. -/
theorem ordRmw_weak {f : LongF} (h : f.mo = 0) : (ordRmw f).acquires = false := by
  simp [ordRmw, Ord.acquires, h]
theorem laneReg_lt (g : Group) (l : Nat) (r : BitVec 8) (ty : BitVec 5) : laneReg g l r ty < 2 ^ tyBits ty := Nat.mod_lt _ (Nat.two_pow_pos _)

section
variable {h : Hdr} {f : LongF} {s : State} {g : Group} {sp : Split} {l : Nat} {at_ : Loc}

/-- The lane's own access. -/
theorem rmwLane_done {t : State} {old : Nat} {sig : List (Nat × Nat)} {v : Nat → Nat} (op : RemoteOp) (store : Bool)
    (ha : ActsAt s (splitCtx g sp) (spaceOf f.c.toNat) needRW (laneAddr0 g l f) (memBytes f.ty) at_)
    (hstep : rmwAt s (laneAgent s g sp) (ordRmw f) sp.relFence at_ (memBytes f.ty) v = (t, old, sig)) :
    rmwLane s g sp f l op store v = (t, .done (if f.c.toNat % 4 ≠ 0 then 2 else if store then 1 else 0) old, sig) := by
  obtain ⟨p, hplace, hat, hpath⟩ := ha.place rfl
  have hspace : spaceOf f.c.toNat ≠ .global ↔ f.c.toNat % 4 ≠ 0 := ⟨fun hne h0 => hne (spaceOf_global h0), spaceOf_ne_global⟩
  have hact := rmwPlace_sound (va := (laneAddr0 g l f).toNat) hat ha.1 hstep
  simp only [rmwLane]
  rw [laneAccess_done (a := laneAgent s g sp) hplace hat.here (by rw [hact]), hact, hpath]
  simp only [hspace]
/-- It waits for no more than its order asks. -/
theorem rmwWaits_one (hw : mustWait s g sp (ordRmw f) = false)
    (ha : ActsAt s (splitCtx g sp) (spaceOf f.c.toNat) needRW (laneAddr0 g l f) (memBytes f.ty) at_) :
    mustWaitFor s g sp (ordRmw f) (rmwWaits f (fun g l => laneAddr0 g l f) (memBytes f.ty) s g sp [l]) = false := by
  obtain ⟨es, hes, hentry⟩ := ha.entryWaits rfl ((ordRmw f).gang s g)
  rw [rmwWaits, List.foldl_cons, List.foldl_nil, Waits.none_and, hentry]
  exact mustWaitFor_remap hw hes

/-- A read-modify-write of one lane, whatever it stores and whether it writes registers: the step at the word's place, then the end of the
instruction. -/
theorem rmw_ends {i : Instr} {dest : Option (Dest × BitVec 5)} {op : Group → Nat → RemoteOp} {store : Bool} {val : Group → Nat → Nat → Nat}
    (he : exec i s = memInstrFor i h always (ordRmw f) (rmwWaits f (fun g l => laneAddr0 g l f) (memBytes f.ty)) (rmwLanes f) dest
      (fun s g sp l => rmwLane s g sp f l (op g l) store (val g l)) s)
    (hr : Ready i h s g sp) (hwf : s.Canonical) (hl : activeLanes g sp h = [l])
    (ha : ActsAt s (splitCtx g sp) (spaceOf f.c.toNat) needRW (laneAddr0 g l f) (memBytes f.ty) at_)
    (hsig : f.mo = 0 ∨ sigAt s at_ (memBytes f.ty) = []) (hw : mustWait s g sp (ordRmw f) = false) (hcount : ∀ p, g.counter p < 63)
    (hroom : sp.pend.length < 16) :
    let old := bytesAt s at_ (memBytes f.ty)
    ∃ t g', exec i s = .next t ∧ StoresAt s t at_ (memBytes f.ty) (val g l old) ∧ OtherGroupsKept s t g.uid ∧
      MemoryEnds t g g' sp 12 (if f.c.toNat % 4 ≠ 0 then 2 else if store then 1 else 0) s.uid
        (dest.map (fun d => vWrites l d.1.reg d.1.count (d.1.image old))) := by
  intro old
  have hacq : (ordRmw f).acquires = true → sigAt s at_ (memBytes f.ty) = [] := fun hacq =>
    hsig.resolve_left fun hmo => absurd hacq (by rw [ordRmw_weak hmo]; decide)
  obtain ⟨t, sig, hstep, hquiet⟩ := rmwAt_spec (a := laneAgent s g sp) (o := ordRmw f) (fence := sp.relFence) (val g l) ha.kind ha.uncached ha.2.1 hacq
  have hexec := exec_memInstrFor he hr (by rw [hl]; exact List.cons_ne_nil _ _) (by rw [hl]; exact rmwWaits_one hw ha)
  rw [hl, rmwLanes, rmwOrder_one, runLanes_one (rmwLane_done (op g l) store ha hstep),
    memClose_done rfl rfl rfl (List.cons_ne_nil _ _) (hcount _) (fun _ => hroom)] at hexec
  simp only [MemRun.writes, List.flatMap_cons, List.flatMap_nil, List.append_nil] at hexec
  exact access_storesAtLoc hexec hr.group hr.split ha.kind hquiet hwf

end

/-- Settles O30: each of the three is `rmw_ends` with its own new value; ATOM's and RED's is `rmwValue`, row by row of R223's table. -/
theorem atomicsReplaceTheWordTheyRead : Obligations.AtomicsReplaceTheWordTheyRead := by
  intro h f s g sp l at_ n w old v ends hwf hl ha hsig hw hcount hroom
  have hcan := (memoriesWf_iff s).1 hwf
  have hv : v % 2 ^ w = v := Nat.mod_eq_of_lt (laneReg_lt g l f.d f.ty)
  refine ⟨fun x hx => ?_, fun hr => rmw_ends (exec_acas h f s) hr hcan hl ha hsig hw hcount hroom⟩
  have hval : rmwValue (xByte 0 f).toNat f.ty v old = x := by
    simp only [List.mem_cons, Prod.mk.injEq, List.not_mem_nil, or_false] at hx
    obtain ⟨hop, rfl⟩ | ⟨hop, rfl⟩ | ⟨hop, rfl⟩ | ⟨hop, rfl⟩ | ⟨hop, rfl⟩ | ⟨hop, rfl⟩ | ⟨hop, rfl⟩ | ⟨hop, rfl⟩ | ⟨hop, rfl⟩ | ⟨hop, rfl⟩ |
      ⟨hop, rfl⟩ | ⟨hop, rfl⟩ | ⟨hop, rfl⟩ := hx <;> rw [hop] <;> simp [rmwValue, w, hv]
  subst hval
  exact ⟨fun hr => rmw_ends (exec_atom h f s) hr hcan hl ha hsig hw hcount hroom,
    fun hr => rmw_ends (exec_red h f s) hr hcan hl ha hsig hw hcount hroom⟩

end Sys2Proof.Machine
end

section
/-! PROOFS. Rounding of what a format holds (O22), and the widening of `.f32` immediates to `.f64` as one rounding (R150). -/

namespace Sys2Proof.Machine

/-! ### Rounding without a remainder -/

theorem bitLen_eq {m k : Nat} (hlo : 2 ^ k ≤ m) (hhi : m < 2 ^ (k + 1)) : bitLen m = k + 1 := by
  have hm : m ≠ 0 := by have := Nat.two_pow_pos k; omega
  rw [bitLen, if_neg hm, (Nat.log2_eq_iff hm).2 ⟨hlo, hhi⟩]
theorem bitLen_le {m k : Nat} (h : m < 2 ^ k) : bitLen m ≤ k := by
  unfold bitLen
  split
  · exact Nat.zero_le _
  next hm => exact (Nat.log2_lt hm).2 h

/-- R107: a magnitude whose significand, moved up by `b` bits, fills the format's from quantum `a` on, or is a subnormal one, is fitted without
any rounding. -/
theorem roundMag_exact {ty : BitVec 5} (rm draw : Nat) (neg : Bool) {m a b : Nat} {e : Int} (he : e = minQuantum ty + a + b)
    (hbits : bitLen m + b = mantBits ty + 1 ∨ a = 0 ∧ bitLen m + b ≤ mantBits ty) (hfit : a * 2 ^ mantBits ty + m * 2 ^ b ≤ maxCode ty) :
    roundMag ty rm draw neg m e = a * 2 ^ mantBits ty + m * 2 ^ b := by
  have hq : max ((bitLen m : Int) - 1 + e - mantBits ty) (minQuantum ty) = minQuantum ty + a := by omega
  have ha : (minQuantum ty + a - minQuantum ty).toNat = a := by omega
  have hb : (e - (minQuantum ty + a)).toNat = b := by omega
  simp only [roundMag, roundSteps, hq, ha, hb, if_pos (show minQuantum ty + (a : Int) ≤ e by omega), if_neg (not_lt.2 hfit)]

/-- R103: a subnormal keeps its code. -/
theorem roundMag_subnormal (ty : BitVec 5) (rm draw : Nat) (neg : Bool) {m : Nat} (hm : m < 2 ^ mantBits ty) (hfit : m ≤ maxCode ty) :
    roundMag ty rm draw neg m (minQuantum ty) = m := by
  rw [roundMag_exact rm draw neg (a := 0) (b := 0) (by omega) (.inr ⟨rfl, bitLen_le hm⟩)] <;> simp [hfit]

/-- R103: a normal number keeps its code, `E` being its exponent field and `m` the bits of its mantissa. -/
theorem roundMag_normal (ty : BitVec 5) (rm draw : Nat) (neg : Bool) {m E : Nat} (hm : m < 2 ^ mantBits ty) (hE : E ≠ 0)
    (hfit : E * 2 ^ mantBits ty + m ≤ maxCode ty) :
    roundMag ty rm draw neg (m + 2 ^ mantBits ty) (minQuantum ty + ((E - 1 : Nat) : Int)) = E * 2 ^ mantBits ty + m := by
  have hb : bitLen (m + 2 ^ mantBits ty) = mantBits ty + 1 := bitLen_eq (by omega) (by rw [Nat.pow_succ]; omega)
  have hcode : (E - 1) * 2 ^ mantBits ty + (m + 2 ^ mantBits ty) * 2 ^ 0 = E * 2 ^ mantBits ty + m := by
    obtain ⟨k, rfl⟩ := Nat.exists_eq_succ_of_ne_zero hE
    rw [Nat.succ_sub_one, Nat.succ_mul]; omega
  rw [roundMag_exact rm draw neg (b := 0) (by omega) (.inl hb) (hcode ▸ hfit), hcode]

/-! ### Encodings -/

/-- An encoding is its sign and its magnitude. -/
theorem signCode_add (ty : BitVec 5) {x : Nat} (hw : 0 < tyBits ty) (hx : x < 2 ^ tyBits ty) :
    signCode ty (bit x (tyBits ty - 1)) + x % 2 ^ (tyBits ty - 1) = x := by
  obtain ⟨w, hw⟩ : ∃ w, tyBits ty = w + 1 := ⟨tyBits ty - 1, by omega⟩
  rw [hw, Nat.pow_succ] at hx
  have hdiv := Nat.div_add_mod x (2 ^ w)
  have htop : x / 2 ^ w < 2 := Nat.div_lt_of_lt_mul hx
  rw [signCode, bit, hw, Nat.add_sub_cancel]
  interval_cases x / 2 ^ w <;> simp at hdiv ⊢ <;> omega

/-- R103 to R105: what an encoding of sign `neg` and magnitude `mag` decodes to. -/
inductive Decodes (ty : BitVec 5) (neg : Bool) (mag : Nat) : FVal → Prop where
  | nan : Decodes ty neg mag .nan
  | inf (hinf : hasInf ty = true) (hmag : mag = maxCode ty + 1) : Decodes ty neg mag (.inf neg)
  | subnormal (hfit : mag ≤ maxCode ty) (hmag : mag < 2 ^ mantBits ty) : Decodes ty neg mag (.fin neg mag (minQuantum ty))
  | normal {E m : Nat} (hfit : mag ≤ maxCode ty) (hmag : mag = E * 2 ^ mantBits ty + m) (hm : m < 2 ^ mantBits ty) (hE : E ≠ 0) :
      Decodes ty neg mag (.fin neg (m + 2 ^ mantBits ty) (minQuantum ty + ((E - 1 : Nat) : Int)))

theorem decodes_fdec (ty : BitVec 5) (x : Nat) (hty : ty.toNat ≠ 18) :
    Decodes ty (bit x (tyBits ty - 1)) (x % 2 ^ (tyBits ty - 1)) (fdec ty x) := by
  have hp := Nat.two_pow_pos (mantBits ty)
  have hdiv := Nat.div_add_mod (x % 2 ^ (tyBits ty - 1)) (2 ^ mantBits ty)
  rw [Nat.mul_comm] at hdiv
  simp only [fdec, hty, if_false]
  split
  · split
    next hinf =>
      simp only [Bool.and_eq_true, beq_iff_eq] at hinf
      exact .inf hinf.1 hinf.2
    next => exact .nan
  next hfit =>
    split
    next hE =>
      rw [hE, Nat.zero_mul, Nat.zero_add] at hdiv
      rw [hdiv]
      exact .subnormal (by omega) (by rw [← hdiv]; exact Nat.mod_lt _ hp)
    next hE => exact .normal (by omega) hdiv.symm (Nat.mod_lt _ hp) hE

theorem froundV_inf {ty : BitVec 5} (rm draw : Nat) (neg : Bool) (hty : ty.toNat ≠ 18) :
    froundV ty rm draw (.inf neg) = signCode ty neg + (if hasInf ty then maxCode ty + 1 else maxCode ty) := by
  simp only [froundV, hty, if_false]
theorem froundV_fin {ty : BitVec 5} (rm draw : Nat) (neg : Bool) (m : Nat) (e : Int) (hty : ty.toNat ≠ 18) :
    froundV ty rm draw (.fin neg m e) = signCode ty neg + (if m = 0 then 0 else roundMag ty rm draw neg m e) := by
  simp only [froundV, hty, if_false]

/-- R105, R107: what decodes to a number or an infinity is rounded to itself. -/
theorem froundV_fdec (ty : BitVec 5) (rm draw : Nat) {x : Nat} (hty : ty.toNat ≠ 18) (hw : 0 < tyBits ty) (hx : x < 2 ^ tyBits ty)
    (hnan : (fdec ty x).isNan = false) : froundV ty rm draw (fdec ty x) = x := by
  have hsign := signCode_add ty hw hx
  have hdec := decodes_fdec ty x hty
  generalize x % 2 ^ (tyBits ty - 1) = mag, bit x (tyBits ty - 1) = neg, fdec ty x = v at hsign hdec hnan ⊢
  rw [← hsign]
  cases hdec with
  | nan => cases hnan
  | inf hinf hmag => rw [froundV_inf _ _ _ hty, hinf, if_pos rfl, hmag]
  | subnormal hfit hmag =>
    rw [froundV_fin _ _ _ _ _ hty, roundMag_subnormal ty rm draw neg hmag hfit]
    by_cases h0 : mag = 0 <;> simp [h0]
  | normal hfit hmag hm hE =>
    have hp := Nat.two_pow_pos (mantBits ty)
    rw [froundV_fin _ _ _ _ _ hty, if_neg (by omega), roundMag_normal ty rm draw neg hm hE (hmag ▸ hfit), hmag]

/-- Settles O22: none of the formats is `.e8m0`, and each has its bits. -/
theorem roundingKeepsRepresentableValues : Obligations.RoundingKeepsRepresentableValues := by
  intro ty rm draw x hty _ _ hx hnan
  simp only [List.mem_cons, List.not_mem_nil, or_false] at hty
  have hne : ty.toNat ≠ 18 := by rcases hty with rfl | rfl | rfl | rfl | rfl | rfl | rfl | rfl | rfl <;> decide
  have hw : 0 < tyBits ty := by rcases hty with rfl | rfl | rfl | rfl | rfl | rfl | rfl | rfl | rfl <;> decide
  exact froundV_fdec ty rm draw hne hw hx hnan

/-! ### Widening (R150) -/

theorem f32_sign (x : Nat) : bits x 31 1 * 2 ^ 63 = signCode 12 (bit x 31) := by
  rcases Nat.mod_two_eq_zero_or_one (x / 2 ^ 31) with h | h <;> rw [bits, bit, Nat.pow_one, h] <;> rfl

/-- The magnitude of `.f64` that an exponent field and a mantissa of `.f32` widen to. -/
def widenMag (e m : Nat) : Nat :=
  if e = 255 then 2047 * 2 ^ 52 + m * 2 ^ 29
  else if e = 0 then (if m = 0 then 0 else (m.log2 + 1023 - 149) * 2 ^ 52 + (m - 2 ^ m.log2) * 2 ^ (52 - m.log2))
  else (e + 1023 - 127) * 2 ^ 52 + m * 2 ^ 29
theorem widen32_eq (x : Nat) : widen32 x = signCode 12 (bit x 31) + widenMag (x % 2 ^ 31 / 2 ^ 23) (x % 2 ^ 31 % 2 ^ 23) := by
  have he : bits x 23 8 = x % 2 ^ 31 / 2 ^ 23 := by simp only [bits]; omega
  have hm : bits x 0 23 = x % 2 ^ 31 % 2 ^ 23 := by simp only [bits]; omega
  simp only [widen32, he, hm, f32_sign, widenMag]
  split_ifs <;> omega

/-- The significand of a subnormal of `.f32`, moved up to the top of one of `.f64`, has that one's highest bit. -/
theorem subnormal_top {m : Nat} (hm : m < 2 ^ 23) (h0 : m ≠ 0) : m.log2 < 23 ∧ 2 ^ 52 ≤ m * 2 ^ (52 - m.log2) ∧ m * 2 ^ (52 - m.log2) < 2 ^ 53 ∧
    (m - 2 ^ m.log2) * 2 ^ (52 - m.log2) = m * 2 ^ (52 - m.log2) - 2 ^ 52 := by
  have hk : m.log2 < 23 := (Nat.log2_lt h0).2 hm
  have hpow : 2 ^ m.log2 * 2 ^ (52 - m.log2) = 2 ^ 52 := by rw [← Nat.pow_add]; congr 1; omega
  have hlo := Nat.mul_le_mul_right (2 ^ (52 - m.log2)) (Nat.log2_self_le h0)
  have hhi := Nat.mul_lt_mul_of_pos_right (Nat.lt_log2_self (n := m)) (Nat.two_pow_pos (52 - m.log2))
  rw [Nat.pow_succ, Nat.mul_right_comm, hpow] at hhi
  exact ⟨hk, hpow ▸ hlo, by omega, by rw [Nat.sub_mul, hpow]⟩
theorem widenMag_subnormal {m : Nat} (hm : m < 2 ^ 23) (h0 : m ≠ 0) : widenMag 0 m = (m.log2 + 873) * 2 ^ 52 + m * 2 ^ (52 - m.log2) := by
  obtain ⟨hk, hlo, hhi, hsub⟩ := subnormal_top hm h0
  rw [widenMag, if_neg (by decide), if_pos rfl, if_neg h0, hsub]
  omega
theorem widenMag_lt {e m : Nat} (he : e < 256) (hm : m < 2 ^ 23) : widenMag e m < 2 ^ 63 := by
  by_cases h : e = 0 ∧ m ≠ 0
  · obtain ⟨hk, hlo, hhi, hsub⟩ := subnormal_top hm h.2
    rw [h.1, widenMag_subnormal hm h.2]
    omega
  · unfold widenMag
    split_ifs <;> omega

theorem roundMag_widen_subnormal (neg : Bool) {m : Nat} (hm : m < 2 ^ 23) (h0 : m ≠ 0) : roundMag 12 0 0 neg m (minQuantum 11) = widenMag 0 m := by
  obtain ⟨hk, hlo, hhi, hsub⟩ := subnormal_top hm h0
  have hb : bitLen m = m.log2 + 1 := by rw [bitLen, if_neg h0]
  rw [widenMag_subnormal hm h0, roundMag_exact (ty := 12) 0 0 neg (a := m.log2 + 873) (b := 52 - m.log2)]
  · rfl
  · rw [show minQuantum 11 = -149 from rfl, show minQuantum 12 = -1074 from rfl]; omega
  · rw [show mantBits 12 = 52 from rfl]; omega
  · rw [show mantBits 12 = 52 from rfl, show maxCode 12 = 0x7FEFFFFFFFFFFFFF from rfl]; omega
theorem roundMag_widen_normal (neg : Bool) {e m : Nat} (hm : m < 2 ^ 23) (h0 : e ≠ 0) (he : e < 255) :
    roundMag 12 0 0 neg (m + 2 ^ 23) (minQuantum 11 + ((e - 1 : Nat) : Int)) = widenMag e m := by
  have hb : bitLen (m + 2 ^ 23) = 24 := bitLen_eq (by omega) (by omega)
  rw [roundMag_exact (ty := 12) 0 0 neg (a := e + 895) (b := 29)]
  · simp only [widenMag, h0, he.ne, if_false, show mantBits 12 = 52 from rfl]; omega
  · rw [show minQuantum 11 = -149 from rfl, show minQuantum 12 = -1074 from rfl]; omega
  · rw [hb]; exact .inl rfl
  · rw [show mantBits 12 = 52 from rfl, show maxCode 12 = 0x7FEFFFFFFFFFFFFF from rfl]; omega

/-- A number of `.f32` is rounded to `.f64` as it is widened bit by bit. -/
theorem froundV_widen {x : Nat} (hnan : (fdec 11 x).isNan = false) : froundV 12 0 0 (fdec 11 x) = widen32 x := by
  have hdec : Decodes 11 (bit x 31) (x % 2 ^ 31) (fdec 11 x) := decodes_fdec 11 x (by decide)
  rw [widen32_eq]
  generalize x % 2 ^ 31 = mag, bit x 31 = neg, fdec 11 x = v at hdec hnan ⊢
  cases hdec with
  | nan => cases hnan
  | inf hinf hmag => subst hmag; rfl
  | subnormal hfit hmag =>
    rw [show mantBits 11 = 23 from rfl] at hmag
    rw [Nat.div_eq_of_lt hmag, Nat.mod_eq_of_lt hmag, froundV_fin _ _ _ _ _ (by decide)]
    split
    next h0 => subst h0; rfl
    next h0 => rw [roundMag_widen_subnormal neg hmag h0]
  | normal hfit hmag hm hE =>
    rename_i E m
    rw [show mantBits 11 = 23 from rfl] at *
    rw [show maxCode 11 = 0x7F7FFFFF from rfl] at hfit
    rw [froundV_fin _ _ _ _ _ (by decide), if_neg (by omega), roundMag_widen_normal neg hm hE (by omega), show mag / 2 ^ 23 = E by omega, 
      show mag % 2 ^ 23 = m by omega]
/-- Above the infinity there are NaNs only (R103). -/
theorem fdec_isNan_iff {ty : BitVec 5} (x : Nat) (hty : ty.toNat ≠ 18) (hinf : hasInf ty = true) :
    (fdec ty x).isNan = true ↔ maxCode ty + 1 < x % 2 ^ (tyBits ty - 1) := by
  simp only [fdec, hty, if_false, hinf, Bool.true_and, beq_iff_eq]
  split_ifs <;> simp [FVal.isNan] <;> omega
/-- A NaN of `.f32` widens to one of `.f64`. -/
theorem fdec_widen_nan {x : Nat} (hnan : (fdec 11 x).isNan = true) : (fdec 12 (widen32 x)).isNan = true := by
  have hmag : 0x7F7FFFFF + 1 < x % 2 ^ 31 := (fdec_isNan_iff x (by decide) rfl).1 hnan
  refine (fdec_isNan_iff _ (by decide) rfl).2 ?_
  have hwiden : widenMag (x % 2 ^ 31 / 2 ^ 23) (x % 2 ^ 31 % 2 ^ 23) = 2047 * 2 ^ 52 + x % 2 ^ 31 % 2 ^ 23 * 2 ^ 29 := if_pos (by omega)
  rw [widen32_eq, hwiden, signCode, show tyBits 12 - 1 = 63 from rfl, show maxCode 12 = 0x7FEFFFFFFFFFFFFF from rfl]
  split <;> omega

theorem widen32_lt (x : Nat) : widen32 x < 2 ^ 64 := by
  have hmag := widenMag_lt (e := x % 2 ^ 31 / 2 ^ 23) (m := x % 2 ^ 31 % 2 ^ 23) (by omega) (by omega)
  rw [widen32_eq, signCode, show tyBits 12 - 1 = 63 from rfl]
  split <;> omega
/-- R150: the immediate of MOVI.f64 is X, widened. -/
theorem moviValue_f64 {f : LongF} (ht : f.ty = 12) : moviValue f = widen32 f.x.toNat := by
  have hv : moviValue f = widen32 f.x.toNat % 2 ^ 64 := by simp only [moviValue, ht]; rfl
  rw [hv, Nat.mod_eq_of_lt (widen32_lt _)]
end Sys2Proof.Machine
end

section
/-! PROOFS. Integer results of the lanes (O16): an instruction of fixed latency writes one number to each active lane; what the number is. -/

namespace Sys2Proof.Machine

section
variable {i : Instr} {h : Hdr} {f : LongF} {s : State} {g : Group} {sp : Split}

/-! ### Instructions of one result for each lane -/

/-- R160, R187: a fixed-latency instruction that puts a number into each active lane. -/
theorem writesV_laneWrite {d n : Nat} {v : Group → Nat → Nat} (he : exec i s = laneWrite i h always (fun g l x => x.setVNat d n (v g l)) s)
    (hr : Ready i h s g sp) : WritesV i h s g sp d n (v g) :=
  lanesBecome_finish i h always (fun _ g l x => x.setVNat d n (v g l)) s g sp he hr rfl
/-- R102: a result of the type, extended to its registers. -/
theorem writesV_laneResult {v : Group → Nat → Nat} (he : exec i s = laneResult i h f v s) (hr : Ready i h s g sp) :
    WritesV i h s g sp f.d.toNat (tyRegs f.ty) (fun l => regImage f.ty (v g l)) :=
  writesV_laneWrite (v := fun g l => regImage f.ty (v g l)) he hr
/-- R115, R189: an exact integer, fitted to the type. -/
theorem writesV_intResult {v : Group → Nat → Int} (he : exec i s = intResult i h f v s) (hr : Ready i h s g sp) :
    WritesV i h s g sp f.d.toNat (tyRegs f.ty) (fun l => regImage f.ty (fitInt f.ty f.sat (v g l))) :=
  writesV_laneResult (v := fun g l => fitInt f.ty f.sat (v g l)) he hr

end

/-! ### Sums of bytes -/

/-- A running sum over the first numbers is the sum of the list. -/
theorem foldl_add_map {α M : Type} [AddCommMonoid M] (t : α → M) (l : List α) (c : M) : l.foldl (fun r k => r + t k) c = c + (l.map t).sum := by
  induction l generalizing c with
  | nil => simp
  | cons x l ih => rw [List.foldl_cons, ih, List.map_cons, List.sum_cons, add_assoc]

theorem bits_byte (v k : Nat) : bits v (8 * k) 8 = v / 256 ^ k % 256 := by
  rw [bits, show (256 : Nat) = 2 ^ 8 from rfl, ← Nat.pow_mul]
theorem bits_nibble (v k : Nat) : bits v (4 * k) 4 = v / 16 ^ k % 16 := by
  rw [bits, show (16 : Nat) = 2 ^ 4 from rfl, ← Nat.pow_mul]

/-- R194: IDOT4 adds the four byte products to its accumulator. -/
theorem dot4_eq (ty : BitVec 5) (a b c : Nat) : dot4 ty a b c = intVal (if tySignedInt ty then 6 else 5) c +
    ((List.range 4).map (fun k => intVal ty (a / 256 ^ k % 256) * intVal ty (b / 256 ^ k % 256))).sum := by
  simp only [dot4, upTo, bits_byte]
  exact foldl_add_map _ _ _

/-- R196: NLUT looks eight nibbles up. -/
theorem lookup4_eq (table idx : Nat) :
    lookup4 table idx = ((List.range 8).map (fun i => 256 ^ i * (table / 256 ^ (idx / 16 ^ i % 16) % 256))).sum := by
  simp only [lookup4, upTo, bits_byte, bits_nibble, Nat.pow_mul]
  rw [foldl_add_map, Nat.zero_add]

/-- A byte of a number in two parts, the low one of `n` bytes. -/
theorem byte_of_parts {lo n hi k : Nat} (hlo : lo < 256 ^ n) :
    (lo + 256 ^ n * hi) / 256 ^ k % 256 = if k < n then lo / 256 ^ k % 256 else hi / 256 ^ (k - n) % 256 := by
  split
  next hk =>
    obtain ⟨m, rfl⟩ : ∃ m, n = k + (m + 1) := ⟨n - k - 1, by omega⟩
    rw [Nat.pow_add, Nat.mul_assoc, Nat.add_mul_div_left _ _ (Nat.pow_pos (by norm_num)), Nat.pow_succ, Nat.mul_comm _ 256, Nat.mul_assoc,
      Nat.add_mul_mod_self_left]
  next hk =>
    obtain ⟨m, rfl⟩ : ∃ m, k = n + m := ⟨k - n, by omega⟩
    rw [Nat.pow_add, ← Nat.div_div_eq_div_mul, Nat.add_mul_div_left _ _ (Nat.pow_pos (by norm_num)), Nat.div_eq_of_lt hlo, Nat.zero_add,
      Nat.add_sub_cancel_left]

/-- A byte of the number that registers hold is a byte of one of them. -/
theorem Lane.vNat_byte (x : Lane) (r n k : Nat) (hk : k < 4 * n) : x.vNat r n / 256 ^ k % 256 = (x.vReg (r + k / 4)).toNat / 256 ^ (k % 4) % 256 := by
  induction n generalizing r k with
  | zero => omega
  | succ n ih =>
    rw [Lane.vNat, show (2 : Nat) ^ 32 = 256 ^ 4 by norm_num, byte_of_parts (by have := (x.vReg r).isLt; norm_num at this ⊢; exact this)]
    split
    next h => rw [Nat.div_eq_of_lt h, Nat.mod_eq_of_lt h, Nat.add_zero]
    next h =>
      rw [ih (r + 1) (k - 4) (by omega)]
      have e : r + 1 + (k - 4) / 4 = r + k / 4 := by omega
      rw [e, show (k - 4) % 4 = k % 4 by omega]

/-- R196: an entry of NLUT's table of 16 bytes. -/
theorem nlutTable_byte (g : Group) (l k : Nat) (f : LongF) (hk : k < 16) : nlutTable g l f / 256 ^ k % 256 =
    if f.mo.getLsbD 1 then (g.sReg (f.b.toNat + k / 8)).toNat / 256 ^ (k % 8) % 256
    else ((g.lane l).vReg (f.b.toNat + k / 4)).toNat / 256 ^ (k % 4) % 256 := by
  unfold nlutTable
  split
  · rw [show (2 : Nat) ^ 64 = 256 ^ 8 by norm_num, byte_of_parts (by have := (g.sReg f.b.toNat).isLt; norm_num at this ⊢; exact this)]
    split
    next h => rw [Nat.div_eq_of_lt h, Nat.mod_eq_of_lt h, Nat.add_zero]
    next h => rw [show k / 8 = 1 by omega, show k % 8 = k - 8 by omega]
  · exact Lane.vNat_byte _ _ 4 k hk

/-! ### Immediates (R150) -/

/-- Two's complement of the model is that of bit vectors. -/
theorem signedOf_toNat {w : Nat} (x : BitVec w) (hw : 0 < w) : signedOf w x.toNat = x.toInt := by
  obtain ⟨n, rfl⟩ : ∃ n, w = n + 1 := ⟨w - 1, by omega⟩
  rw [signedOf, BitVec.toInt_eq_toNat_cond, Nat.mod_eq_of_lt x.isLt, Nat.add_sub_cancel, Nat.pow_succ]
  exact if_congr (by omega) rfl rfl
/-- Sign extension of a field. -/
theorem wrapInt_signedOf {w : Nat} (n : Nat) (x : BitVec w) (hw : 0 < w) : wrapInt n (signedOf w x.toNat) = (x.signExtend n).toNat := by
  rw [signedOf_toNat x hw, BitVec.signExtend, BitVec.toNat_ofInt]; rfl
/-- The low bits of a number, as the field that the statement of MOVI names. -/
theorem extractLsb'_low (x : BitVec 32) (w : Nat) : x.toNat % 2 ^ w = (x.extractLsb' 0 w).toNat := by
  rw [BitVec.extractLsb'_toNat, Nat.shiftRight_zero]

/-- R150: X as the immediate of MOVI, for the types that a register holds as they stand. -/
theorem moviValue_eq {f : LongF} {v : Nat} (h : (f.ty.toNat, v) ∈ [(0, f.x.toNat), (1, f.x.toNat % 2 ^ 8),
      (2, ((f.x.extractLsb' 0 8).signExtend 32).toNat), (3, f.x.toNat % 2 ^ 16), (4, ((f.x.extractLsb' 0 16).signExtend 32).toNat), (5, f.x.toNat),
      (6, f.x.toNat), (7, f.x.toNat), (8, (f.x.signExtend 64).toNat), (9, f.x.toNat % 2 ^ 16), (10, f.x.toNat % 2 ^ 16), (11, f.x.toNat),
      (13, f.x.toNat), (14, f.x.toNat), (17, f.x.toNat), (19, f.x.toNat), (20, f.x.toNat), (21, (f.x.signExtend 64).toNat)]) : moviValue f = v := by
  have h32 : f.x.toNat % 2 ^ 32 = f.x.toNat := Nat.mod_eq_of_lt f.x.isLt
  have h64 : f.x.toNat % 2 ^ 64 = f.x.toNat := Nat.mod_eq_of_lt (by omega)
  have hs : (f.x.signExtend 64).toNat % 2 ^ 64 = (f.x.signExtend 64).toNat := Nat.mod_eq_of_lt (f.x.signExtend 64).isLt
  simp only [List.mem_cons, Prod.mk.injEq, List.not_mem_nil, or_false] at h
  obtain ⟨ht, rfl⟩ | ⟨ht, rfl⟩ | ⟨ht, rfl⟩ | ⟨ht, rfl⟩ | ⟨ht, rfl⟩ | ⟨ht, rfl⟩ | ⟨ht, rfl⟩ | ⟨ht, rfl⟩ | ⟨ht, rfl⟩ | ⟨ht, rfl⟩ | ⟨ht, rfl⟩ | ⟨ht, rfl⟩ |
    ⟨ht, rfl⟩ | ⟨ht, rfl⟩ | ⟨ht, rfl⟩ | ⟨ht, rfl⟩ | ⟨ht, rfl⟩ | ⟨ht, rfl⟩ := h <;>
    simp only [moviValue, tyIn, regImage, immOf, tySignedInt, tyBits, ht, h32, h64, hs, extractLsb'_low,
      ← wrapInt_signedOf 32 _ (by norm_num : 0 < 8), ← wrapInt_signedOf 32 _ (by norm_num : 0 < 16)] <;> simp

/-- Settles O16: each instruction is `intResult`, `laneResult` or `laneWrite` with its own number; NLUT's is read byte by byte, MOVI's type by type. -/
theorem integerResultsOfTheLanes : Obligations.IntegerResultsOfTheLanes := by
  intro h f s g sp w a b c wa wb n byte table fit reg
  refine ⟨fun i v hi hr => ?typed, fun i v hi hr => ?oneRegister, fun hr => ?nlut, fun v hv hr => ?movi, fun ht hr => ?moviF64⟩
  case typed =>
    simp only [List.mem_cons, Prod.mk.injEq, List.not_mem_nil, or_false] at hi
    obtain ⟨rfl, rfl⟩ | ⟨rfl, rfl⟩ | ⟨rfl, rfl⟩ | ⟨rfl, rfl⟩ | ⟨rfl, rfl⟩ | ⟨rfl, rfl⟩ | ⟨rfl, rfl⟩ | ⟨rfl, rfl⟩ | ⟨rfl, rfl⟩ | ⟨rfl, rfl⟩ | ⟨rfl, rfl⟩ |
      ⟨rfl, rfl⟩ | ⟨rfl, rfl⟩ | ⟨rfl, rfl⟩ | ⟨rfl, rfl⟩ | ⟨rfl, rfl⟩ | ⟨rfl, rfl⟩ | ⟨rfl, rfl⟩ | ⟨rfl, rfl⟩ | ⟨rfl, rfl⟩ | ⟨rfl, rfl⟩ := hi
    · exact (writesV_intResult (exec_iadd h f s) hr :)
    · exact (writesV_intResult (exec_isub h f s) hr :)
    · exact (writesV_intResult (exec_imul h f s) hr :)
    · have hx := writesV_intResult (exec_imulh h f s) hr
      simp only [Nat.cast_pow, Nat.cast_ofNat] at hx
      exact hx
    · exact (writesV_intResult (exec_imad h f s) hr :)
    · exact (writesV_intResult (exec_imin h f s) hr :)
    · exact (writesV_intResult (exec_imax h f s) hr :)
    · exact (writesV_intResult (exec_iabs h f s) hr :)
    · exact (writesV_intResult (exec_ineg h f s) hr :)
    · exact (writesV_laneResult (exec_mov h f s) hr :)
    · exact (writesV_laneResult (exec_land h f s) hr :)
    · exact (writesV_laneResult (exec_lor h f s) hr :)
    · exact (writesV_laneResult (exec_lxor h f s) hr :)
    · exact (writesV_laneResult (exec_shl h f s) hr :)
    · exact (writesV_laneResult (exec_shr h f s) hr :)
    · exact (writesV_laneResult (exec_sel h f s) hr :)
    · exact (writesV_laneResult (exec_brev h f s) hr :)
    · have hx := writesV_laneResult (exec_sra h f s) hr
      simp only [shiftArith, Nat.cast_pow, Nat.cast_ofNat] at hx
      exact hx
    · exact (writesV_laneResult (exec_bfe h f s) hr :)
    · exact (writesV_laneResult (exec_bfi h f s) hr :)
    · exact (writesV_laneResult (exec_logt h f s) hr :)
  case oneRegister =>
    simp only [List.mem_cons, Prod.mk.injEq, List.not_mem_nil, or_false] at hi
    obtain ⟨rfl, rfl⟩ | ⟨rfl, rfl⟩ | ⟨rfl, rfl⟩ | ⟨rfl, rfl⟩ | ⟨rfl, rfl⟩ := hi
    · exact (writesV_laneWrite (exec_popc h f s) hr :)
    · exact (writesV_laneWrite (exec_clz h f s) hr :)
    · have hx := writesV_laneWrite (exec_idot4 h f s) hr
      simp only [dot4_eq] at hx
      exact hx
    · exact (writesV_laneWrite (exec_bsel h f s) hr :)
    · exact (writesV_laneWrite (exec_ptov h f s) hr :)
  case nlut =>
    have hx := writesV_laneWrite (exec_nlut h f s) hr
    simp only [lookup4_eq, nlutTable_byte _ _ _ _ (Nat.mod_lt _ (by norm_num : 0 < 16))] at hx
    exact hx
  case movi =>
    have hx := writesV_laneWrite (exec_movi h f s) hr
    simp only [moviValue_eq hv] at hx
    exact hx
  case moviF64 =>
    have hx := writesV_laneWrite (exec_movi h f s) hr
    rw [show tyRegs f.ty = 2 by rw [ht]; rfl] at hx
    refine ⟨moviValue f, hx, fun hnan => ?_, fun hnan => ?_⟩
    · rw [moviValue_f64 ht, froundV_widen hnan]
    · rw [moviValue_f64 ht, fdec_widen_nan hnan]

end Sys2Proof.Machine
end

section
/-! PROOFS. IDIV and IREM (O18). -/

namespace Sys2Proof.Machine

section
variable {i : Instr} {h : Hdr} {f : LongF} {s : State} {g : Group} {sp : Split}

/-- R27: results of variable latency that take no draw become outstanding. -/
theorem laterWrites_drawless {legal : Group → Split → Bool} (ws : Group → List Nat → List RegWrite)
    (he : exec i s = asLanes i h legal (fun s g sp ls => withRoom true none s g sp (finishLater s g sp (ws g ls) 12)) s)
    (hr : Ready i h s g sp) (hl : legal g sp = true) (hp : sp.pend.length < 16) (ha : activeLanes g sp h ≠ []) :
    LaterWrites i h s g sp (fun _ => 0) (ws g (activeLanes g sp h)) :=
  laterWrites_later i h legal (fun _ g _ => g) (fun _ g ls => ws g ls) _ s g sp he rfl (fun l => by simp [dw]) hr hl hp ha
/-- R186: one number of the type in each active lane. -/
theorem laterV_laneLater {v : Group → Nat → Nat} (he : exec i s = laneLater i h f v s) (hr : Ready i h s g sp) (hp : sp.pend.length < 16)
    (ha : activeLanes g sp h ≠ []) : LaterV i h s g sp f.d.toNat (tyRegs f.ty) (fun _ => 0) (fun l => regImage f.ty (v g l)) :=
  laterWrites_drawless (fun g ls => ls.flatMap (fun l => vWrites l f.d.toNat (tyRegs f.ty) (regImage f.ty (v g l)))) he hr rfl hp ha

end

/-- R116: the quotient, the corner values as one case of the divisor. -/
theorem intQuot_eq (ty : BitVec 5) (a b : Nat) : intQuot ty a b =
    if intVal ty b = 0 then (if tySignedInt ty ∧ intVal ty a < 0 then 1 else 2 ^ tyBits ty - 1)
    else wrapInt (tyBits ty) (Int.tdiv (intVal ty a) (intVal ty b)) := by
  cases hs : tySignedInt ty <;> simp [intQuot, hs]

/-- Settles O18: both are `laneLater`, with the quotient and the remainder. -/
theorem divisionIsTruncated : Obligations.DivisionIsTruncated := by
  intro h f s g sp hp ha w x y
  refine ⟨fun hr => ?_, fun hr => (laterV_laneLater (exec_irem h f s) hr hp ha :)⟩
  have hx := laterV_laneLater (exec_idiv h f s) hr hp ha
  simp only [intQuot_eq] at hx
  exact hx

end Sys2Proof.Machine
end

section
/-! PROOFS. Floating-point results of fixed latency (O20): each is `fpLane`, which takes its draws, or `laneWrite`, which takes none. -/

namespace Sys2Proof.Machine

section
variable {i : Instr} {h : Hdr} {f : LongF} {s : State} {g : Group} {sp : Split}

/-- R109, R110: a result that rounds `n` times, with the lane's draws by number. -/
theorem writesVDrawing_fpLane {regs n : Nat} {v : Group → Nat → (Nat → Nat) → Nat} (he : exec i s = fpLane i h f regs n v s) (hr : Ready i h s g sp) :
    WritesVDrawing i h s g sp f.d.toNat regs (fun _ => drawsTaken f n) (fun l => v g l (drawOf s g (g.lane l))) :=
  lanesBecome_finish i h always (fun s g l x => (putD f regs (v g l (drawOf s g (g.lane l))) x).advance (drawsTaken f n)) s g sp he hr rfl
/-- R107, R113: an exact value, rounded once into the type and saturated with SAT. -/
theorem writesVDrawing_fpResult {v : Group → Nat → FVal} (he : exec i s = fpResult i h f v s) (hr : Ready i h s g sp) :
    WritesVDrawing i h s g sp f.d.toNat (tyRegs f.ty) (fun _ => drawsTaken f 1)
      (fun l => fresult f.ty f.rm.toNat (drawOf s g (g.lane l) 0) f.sat (v g l)) :=
  writesVDrawing_fpLane (v := fun g l d => fresult f.ty f.rm.toNat (d 0) f.sat (v g l)) he hr
/-- R204, R205: two elements, the low one rounded first. -/
theorem writesVDrawing_fpPair {v : Group → Nat → Nat → FVal} (he : exec i s = fpPair i h f v s) (hr : Ready i h s g sp) :
    WritesVDrawing i h s g sp f.d.toNat 1 (fun _ => drawsTaken f 2) (fun l =>
      fresult f.ty f.rm.toNat (drawOf s g (g.lane l) 0) f.sat (v g l 0) + 2 ^ 16 * fresult f.ty f.rm.toNat (drawOf s g (g.lane l) 1) f.sat (v g l 1)) :=
  writesVDrawing_fpLane (v := fun g l d => fresult f.ty f.rm.toNat (d 0) f.sat (v g l 0) + 2 ^ 16 * fresult f.ty f.rm.toNat (d 1) f.sat (v g l 1)) he hr

end

/-- Settles O20: each instruction with its own exact value. -/
theorem floatResultsOfTheLanes : Obligations.FloatResultsOfTheLanes := by
  intro h f s g sp rm ty a b c d round pa pb pc pair draws
  refine ⟨fun i v hi hr => ?rounded, fun hr => (writesVDrawing_fpLane (exec_fdot2 h f s) hr :), fun i v hi hr => ?packed, fun i mx hi hr => ?minMax,
    fun hr => (writesV_laneWrite (exec_fclass h f s) hr :)⟩
  case rounded =>
    simp only [List.mem_cons, Prod.mk.injEq, List.not_mem_nil, or_false] at hi
    obtain ⟨rfl, rfl⟩ | ⟨rfl, rfl⟩ | ⟨rfl, rfl⟩ | ⟨rfl, rfl⟩ | ⟨rfl, rfl⟩ | ⟨rfl, rfl⟩ := hi
    · exact (writesVDrawing_fpResult (exec_fadd h f s) hr :)
    · exact (writesVDrawing_fpResult (exec_fsub h f s) hr :)
    · exact (writesVDrawing_fpResult (exec_fmul h f s) hr :)
    · exact (writesVDrawing_fpResult (exec_ffma h f s) hr :)
    · exact (writesVDrawing_fpResult (exec_fscale h f s) hr :)
    · exact (writesVDrawing_fpLane (exec_frnd h f s) hr :)
  case packed =>
    simp only [List.mem_cons, Prod.mk.injEq, List.not_mem_nil, or_false] at hi
    obtain ⟨rfl, rfl⟩ | ⟨rfl, rfl⟩ | ⟨rfl, rfl⟩ := hi
    · exact (writesVDrawing_fpPair (exec_hadd2 h f s) hr :)
    · exact (writesVDrawing_fpPair (exec_hmul2 h f s) hr :)
    · exact (writesVDrawing_fpPair (exec_hfma2 h f s) hr :)
  case minMax =>
    simp only [List.mem_cons, Prod.mk.injEq, List.not_mem_nil, or_false] at hi
    obtain ⟨rfl, rfl⟩ | ⟨rfl, rfl⟩ := hi
    · exact (writesV_laneWrite (exec_fmin h f s) hr :)
    · exact (writesV_laneWrite (exec_fmax h f s) hr :)

end Sys2Proof.Machine
end

section
/-! PROOFS. Values between lanes (O24): later results, results in one lane or in a K or S register, and the fixed tree of FOLD and SCAN. -/

namespace Sys2Proof.Machine

section
variable {i : Instr} {h : Hdr} {f : LongF} {s : State} {g : Group} {sp : Split}

/-- R27, R212: a cross-lane result of variable latency. -/
theorem laterV_crossLater {legal : Group → Split → Bool} {regs : Nat} {v : Group → List Nat → Nat → Nat} (he : exec i s = crossLater i h f legal regs v s)
    (hr : Ready i h s g sp) (hl : legal g sp = true) (hp : sp.pend.length < 16) (ha : activeLanes g sp h ≠ []) :
    LaterV i h s g sp f.d.toNat regs (fun _ => 0) (v g (activeLanes g sp h)) :=
  laterWrites_drawless (fun g ls => ls.flatMap (fun l => vWrites l f.d.toNat regs (v g ls l))) he hr hl hp ha
/-- R214: RDLANE's result goes to an S register. -/
theorem laterWrites_rdlane (hr : Ready (.rdlane h f) h s g sp) (hp : sp.pend.length < 16) (ha : activeLanes g sp h ≠ []) :
    LaterWrites (.rdlane h f) h s g sp (fun _ => 0)
      [.s f.d.toNat (if (activeLanes g sp h).contains (laneN g f) then dw ((g.lane (laneN g f)).vNat f.a.toNat (tyRegs f.ty)) else 0)] :=
  laterWrites_drawless (fun g ls => [.s f.d.toNat (if ls.contains (laneN g f) then dw ((g.lane (laneN g f)).vNat f.a.toNat (tyRegs f.ty)) else 0)])
    (exec_rdlane h f s) hr rfl hp ha

/-- A fixed-latency instruction that changes only one lane of those active. -/
theorem lanesBecome_one {legal : Group → Split → Bool} (n : Group → Nat) (F : Group → Lane → Lane)
    (he : exec i s = asLanes i h legal (fun s g sp ls => finish s (if ls.contains (n g) then g.modLane (n g) (F g) else g) sp 12) s)
    (hr : Ready i h s g sp) (hl : legal g sp = true) (ha : activeLanes g sp h ≠ []) :
    LanesBecome i h s g sp (fun l => if l = n g then F g (g.lane l) else g.lane l) := by
  have hx := exec_lanes he hr hl
  rw [if_neg (by simpa using ha)] at hx
  generalize hG : (if (activeLanes g sp h).contains (n g) then g.modLane (n g) (F g) else g) = G at hx
  have hrest : G = { g with lanes := G.lanes } := by rw [← hG]; split <;> rfl
  have hlane (l : Nat) : G.lane l = if l ∈ activeLanes g sp h then (if l = n g then F g (g.lane l) else g.lane l) else g.lane l := by
    rw [← hG]
    by_cases hl : l = n g
    · subst hl
      by_cases hm : n g ∈ activeLanes g sp h <;> simp [hm, Group.lane_modLane]
    · split <;> simp [Group.lane_modLane, hl]
  refine completes_finish i s g G sp 12 _ hx hr.group hr.split (by rw [hrest]) (by rw [hrest]) ⟨by rw [hrest]; rfl, fun l => ?_⟩
  refine (show _ = G.lane l from rfl).trans ((hlane l).trans ?_)
  simp only [mem_activeLanes, Bool.and_eq_true]

/-- R216: FOLD takes the draws of its combines from the lowest active lane, and every active lane will have the root. -/
theorem laterV_fold (hr : Ready (.fold h f) h s g sp) (hp : sp.pend.length < 16) (ha : activeLanes g sp h ≠ []) :
    let low := (activeLanes g sp h).headD 0
    let r := foldOver g f (activeLanes g sp h) (drawOf s g (g.lane low))
    LaterV (.fold h f) h s g sp f.d.toNat (tyRegs f.ty) (fun l => if l = low then r.1 else 0) (fun _ => r.2.getD 0) := by
  intro low r
  have hlow : low ∈ activeLanes g sp h := by
    obtain ⟨l, ls, hls⟩ := List.exists_cons_of_ne_nil ha
    simp [low, hls]
  refine laterWrites_later _ h always
    (fun s g ls => g.modLane (ls.headD 0) (fun x => x.advance (foldOver g f ls (drawOf s g (g.lane (ls.headD 0)))).1))
    (fun s g ls => ls.flatMap (fun l => vWrites l f.d.toNat (tyRegs f.ty) ((foldOver g f ls (drawOf s g (g.lane (ls.headD 0)))).2.getD 0)))
    _ s g sp (exec_fold h f s) rfl (fun l => ?_) hr rfl hp ha
  rw [Group.lane_modLane]
  by_cases hl : l = low
  · subst hl
    rw [if_pos rfl, if_pos hlow, if_pos rfl]; rfl
  · rw [if_neg hl]
    simp [hl, dw]
/-- R216: SCAN takes the draws of each lane's combines from that lane. -/
theorem laterV_scan (hr : Ready (.scan h f) h s g sp) (hp : sp.pend.length < 16) (ha : activeLanes g sp h ≠ []) :
    LaterV (.scan h f) h s g sp f.d.toNat (tyRegs f.ty) (fun l => (scanOver s g f (activeLanes g sp h) l).1)
      (fun l => (scanOver s g f (activeLanes g sp h) l).2) :=
  laterWrites_later _ h always (fun s g ls => g.modLanes ls (fun l x => x.advance (scanOver s g f ls l).1))
    (fun s g ls => ls.flatMap (fun l => vWrites l f.d.toNat (tyRegs f.ty) (scanOver s g f ls l).2)) _ s g sp (exec_scan h f s)
    (g.modLanes_rest _ _) (fun l => g.lane_modLanes _ _ l (activeLanes_nodup g sp h)) hr rfl hp ha

/-- R215: VOTE writes a K register, or an S register. -/
theorem exec_vote_ready (hr : Ready (.vote h f) h s g sp) (ha : activeLanes g sp h ≠ []) :
    exec (.vote h f) s = .next (finish s (voteWrite g (activeLanes g sp h) f) sp 12) := by
  rw [exec_lanes (exec_vote h f s) hr rfl, if_neg (by simpa using ha)]
theorem writesK_vote {v : Bool} (hr : Ready (.vote h f) h s g sp) (ha : activeLanes g sp h ≠ [])
    (hv : voteWrite g (activeLanes g sp h) f = g.setK f.d.toNat v) : WritesK (.vote h f) s g sp (sp.pc + 12) f.d.toNat v :=
  writesK_finish _ s g sp 12 _ _ (by rw [exec_vote_ready hr ha, hv]) hr.group hr.split
theorem writesS_vote {v : DWord} (hr : Ready (.vote h f) h s g sp) (ha : activeLanes g sp h ≠ [])
    (hv : voteWrite g (activeLanes g sp h) f = g.setS f.d.toNat v) : WritesS (.vote h f) s g sp (sp.pc + 12) f.d.toNat v :=
  writesS_finish _ s g sp 12 _ _ (by rw [exec_vote_ready hr ha, hv]) hr.group hr.split

end

/-- Every lane votes yes when no fewer do than there are. -/
theorem filter_length_beq_all {α : Type} (p : α → Bool) (l : List α) : ((l.filter p).length == l.length) = l.all p := by
  rw [Bool.eq_iff_iff, beq_iff_eq, List.length_filter_eq_length_iff, List.all_eq_true]

/-- Parts of a quadword as words. -/
theorem low_wd (q : DWord) : q.extractLsb' 0 32 = wd (q.toNat % 2 ^ 32) := by
  apply BitVec.eq_of_toNat_eq
  simp [wd]
theorem field_wd (q : DWord) (lo n : Nat) : (q.extractLsb' lo n).zeroExtend 32 = wd (q.toNat / 2 ^ lo % 2 ^ n) := by
  apply BitVec.eq_of_toNat_eq
  simp [wd, Nat.shiftRight_eq_div_pow]
/-- R157: the special registers of a lane by number. -/
theorem laneSpecial_eq {g : Group} {f : LongF} {v : Nat → Word} (hv : (f.x.toNat, v) ∈ [(0, fun l => wd l), (1, fun l => wd (g.groupid * g.width + l)),
      (2, fun l => (g.lane l).popidx), (3, fun l => (g.lane l).parent), (4, fun l => (g.lane l).root), (5, fun l => (g.lane l).copy),
      (6, fun l => wd ((g.lane l).privbase.toNat % 2 ^ 32)), (7, fun l => wd ((g.lane l).privbase.toNat / 2 ^ 32 % 2 ^ 22)),
      (8, fun l => wd ((g.lane l).draw.toNat % 2 ^ 32))]) (l : Nat) : laneSpecial g l f.x.toNat = v l := by
  simp only [List.mem_cons, Prod.mk.injEq, List.not_mem_nil, or_false] at hv
  obtain ⟨hn, rfl⟩ | ⟨hn, rfl⟩ | ⟨hn, rfl⟩ | ⟨hn, rfl⟩ | ⟨hn, rfl⟩ | ⟨hn, rfl⟩ | ⟨hn, rfl⟩ | ⟨hn, rfl⟩ | ⟨hn, rfl⟩ := hv <;> rw [hn]
  case inr.inr.inr.inr.inr.inr.inl => exact low_wd _
  case inr.inr.inr.inr.inr.inr.inr.inl => exact field_wd _ 32 22
  case inr.inr.inr.inr.inr.inr.inr.inr => exact low_wd _
  all_goals rfl

/-- R121: on sixteen lanes, integers are combined in pairs of neighbours, level by level. -/
theorem foldOver_sixteen (g : Group) (f : LongF) (d : Nat → Nat) (hw : g.width = 16) (ht : tyFloat f.ty = false) :
    let x (l : Nat) : Nat := (g.lane l).vNat f.a.toNat (tyRegs f.ty) % 2 ^ tyBits f.ty
    let op := combine f (d 0)
    let four (l : Nat) : Nat := op (op (x l) (x (l + 1))) (op (x (l + 2)) (x (l + 3)))
    foldOver g f (List.range 16) d = (0, some (op (op (four 0) (four 4)) (op (four 8) (four 12)))) := by
  have hd : b2n (foldDraws f) = 0 := by simp [foldDraws, ht, b2n]
  simp [foldOver, treeLeaves, hw, upTo, List.range_succ, foldTree, treeLevel, hd]

/-- Settles O24: each instruction by its lemma; the values are those of the model's `vxchValue`, `foldOver`, `scanOver`, `sameLanes`, `laneSpecial`. -/
theorem crossLaneResults : Obligations.CrossLaneResults := by
  intro h f s g sp ha ls val n yes same
  refine ⟨fun hp hw hr => ?vxch, fun hp hr => ?rdlane, fun hr => ?wrlane, fun hr => ?vote, fun hp hr => (laterV_crossLater (exec_samev h f s) hr rfl hp ha :),
    fun hp hr => laterV_fold hr hp ha, fun hp hr => laterV_scan hr hp ha, fun v hv hr => ?vsrd, fun hw ht hb d => ?tree⟩
  case vxch =>
    have hx := laterV_crossLater (exec_vxch h f s) hr (by simpa using hw) hp ha
    simp only [vxchValue, List.contains_iff_mem] at hx
    exact hx
  case rdlane =>
    have hx := laterWrites_rdlane hr hp ha
    simp only [List.contains_iff_mem] at hx
    exact hx
  case wrlane =>
    exact lanesBecome_one (fun g => laneN g f) (fun g => putD f (tyRegs f.ty) ((g.sReg f.a.toNat).toNat % 2 ^ tyBits f.ty)) (exec_wrlane h f s) hr rfl ha
  case vote =>
    refine ⟨fun hsc => writesK_vote hr ha ?_, fun hsc => writesK_vote hr ha ?_, fun hsc => writesS_vote hr ha ?_, fun hsc => writesS_vote hr ha ?_,
      fun hsc => writesS_vote hr ha ?_⟩ <;> simp only [voteWrite, hsc]
    · rfl
    · rw [lanesWith, filter_length_beq_all]
    · rfl
    · rfl
    · rfl
  case vsrd =>
    have hx := writesV_laneWrite (exec_vsrd h f s) hr
    simp only [laneSpecial_eq hv] at hx
    exact hx
  case tree =>
    have hx := foldOver_sixteen g f d hw ht
    rw [hb] at hx
    exact hx

end Sys2Proof.Machine
end

section
/-! PROOFS. Operands of matrix instructions in the scratchpad (R249): their checks pass and their elements are fetched, and nothing changes. -/

namespace Sys2Proof.Machine

/-! ### Folds over the first numbers -/

/-- What holds after `k` steps, for every `k` up to `n`, holds at the end. -/
theorem foldl_upTo {β : Type} (P : Nat → β → Prop) {f : β → Nat → β} {n : Nat} {b : β} (h0 : P 0 b) (hstep : ∀ k < n, ∀ b, P k b → P (k + 1) (f b k)) :
    P n ((upTo n).foldl f b) := by
  unfold upTo
  induction n with
  | zero => exact h0
  | succ n ih =>
    rw [List.range_succ, List.foldl_append]
    exact hstep n (by omega) _ (ih fun k hk => hstep k (by omega))

/-- The codes `v i j` of the first `n` rows, `cols` in each. -/
def codeGrid (v : Nat → Nat → Nat) (n cols : Nat) : Codes := (upTo n).map (fun i => (upTo cols).map (fun j => some (v i j)))
theorem codeGrid_succ (v : Nat → Nat → Nat) (n cols : Nat) : codeGrid v (n + 1) cols = codeGrid v n cols ++ [(upTo cols).map (fun j => some (v n j))] := by
  simp only [codeGrid, upTo, List.range_succ, List.map_append, List.map_cons, List.map_nil]
theorem upTo_map_succ {α : Type} (v : Nat → α) (n : Nat) : (upTo (n + 1)).map v = (upTo n).map v ++ [v n] := by
  simp only [upTo, List.range_succ, List.map_append, List.map_cons, List.map_nil]
theorem codeGrid_at {v : Nat → Nat → Nat} {n cols i j : Nat} (hi : i < n) (hj : j < cols) : (codeGrid v n cols).at i j = some (v i j) := by
  simp [codeGrid, Codes.at, upTo, hi, hj]

/-! ### Rows and elements -/

/-- All of an operand's rows lie in the scratchpad of team `tm`, from a multiple of 16 on, where nothing is poisoned. -/
structure Operand.InScratch (o : Operand) (s : State) (tm : Team) : Prop where
  space : o.space = .scratch
  base : o.base.toNat % 16 = 0
  stride : o.stride % 16 = 0
  strideOk : o.strideOk = true
  inside : o.base.toNat + o.rows * o.stride ≤ tm.scratch
  small : tm.scratch ≤ 2 ^ 19
  stored : storeBits o.ty ∈ [4, 8, 16, 64]
  sound : ∀ t x, poisoned s (.scratch t x) = false

/-- Element `j` of row `i` as the scratchpad of team `tm` holds it. -/
def Operand.code (o : Operand) (s : State) (tm : Team) (i j : Nat) : Nat :=
  let a := tm.uid * 2 ^ 19 + (o.base.toNat + i * o.stride + j * storeBits o.ty / 8)
  if storeBits o.ty = 4 then memReadNat s.scratch a 1 / 16 ^ (j % 2) % 16 else memReadNat s.scratch a (storeBits o.ty / 8) % 2 ^ tyBits o.ty

section
variable {o : Operand} {s : State} {tm : Team} {c : Ctx} {i b n : Nat}

theorem Operand.InScratch.rowBytes_le (ho : o.InScratch s tm) : o.rowBytes ≤ o.stride := by
  have hs : roundUp o.rowBytes 16 ≤ o.stride := by simpa [Operand.strideOk] using ho.strideOk
  simp only [roundUp, ceilDiv] at hs
  omega
/-- A row of the operand ends within its scratchpad. -/
theorem Operand.InScratch.row_inside (ho : o.InScratch s tm) (hi : i < o.rows) (hb : b + n ≤ o.rowBytes) :
    o.base.toNat + (i * o.stride + b) + n ≤ tm.scratch := by
  have hrow : (i + 1) * o.stride ≤ o.rows * o.stride := Nat.mul_le_mul_right _ hi
  have hle := ho.rowBytes_le
  have hin := ho.inside
  rw [Nat.succ_mul] at hrow
  omega
theorem Operand.InScratch.at_toNat (ho : o.InScratch s tm) (hi : i < o.rows) (hb : b + n ≤ o.rowBytes) :
    (o.at i b).toNat = o.base.toNat + (i * o.stride + b) := by
  have hin := ho.row_inside hi hb
  have hsmall := ho.small
  rw [Operand.at, BitVec.toNat_add, dw, BitVec.toNat_ofNat, Nat.mod_eq_of_lt (a := i * o.stride + b) (by omega), Nat.mod_eq_of_lt (by omega)]
/-- R49, R52: an aligned access within a row is made at its byte of the scratchpad. -/
theorem Operand.InScratch.place (ho : o.InScratch s tm) (ht : c.team.bind s.team? = some tm) (need : Need) (hi : i < o.rows) (hb : b + n ≤ o.rowBytes)
    (hn : n ∣ 16) (hal : n ∣ b) :
    Machine.place s c o.space need (o.at i b) n = (s, .ok (.loc (.scratch tm.uid (o.base.toNat + (i * o.stride + b))))) := by
  have halign : (o.base.toNat + (i * o.stride + b)) % n = 0 := Nat.mod_eq_zero_of_dvd <|
    Nat.dvd_add (hn.trans (Nat.dvd_of_mod_eq_zero ho.base)) (Nat.dvd_add ((hn.trans (Nat.dvd_of_mod_eq_zero ho.stride)).mul_left i) hal)
  rw [ho.space, place_offset s c need _ n (by decide), ho.at_toNat hi hb, placeOffset_scratch ht halign, if_pos (ho.row_inside hi hb)]

/-- R249: no check of the operand fails, and none changes anything. -/
theorem Operand.InScratch.check (ho : o.InScratch s tm) (ht : c.team.bind s.team? = some tm) (g : Group) (kind : Nat) {m : Checked} (hs : m.s = s)
    (hm : m.cause = none) : (checkOperand g c false kind o m).s = s ∧ (checkOperand g c false kind o m).cause = none := by
  refine foldl_upTo (fun _ (m : Checked) => m.s = s ∧ m.cause = none) ⟨hs, hm⟩ fun i hi m hm => ?_
  refine foldl_upTo (fun _ (m : Checked) => m.s = s ∧ m.cause = none) hm fun b hb m hm => ?_
  obtain ⟨rfl, hcause⟩ := hm
  have hplace := ho.place ht needR hi (b := 8 * b) (n := 8) (by omega) (by decide) ⟨b, rfl⟩
  have hmat : matPlace m.s c o.space false (o.at i (8 * b)) 8 kind = (m.s, .ok (.loc (.scratch tm.uid (o.base.toNat + (i * o.stride + 8 * b))))) := by
    simp only [matPlace, Bool.false_eq_true, if_false, hplace, matRefusal]
  simp only [hcause, Option.isSome_none, Bool.false_eq_true, if_false, hmat, geometryScales, and_self]
theorem Operand.InScratch.checkBase (ho : o.InScratch s tm) {m : Checked} (hm : m.cause = none) : Machine.checkBase o m = m := by
  simp [Machine.checkBase, hm, ho.base]

/-! ### Fetching -/

variable {a : Agent} {j : Nat}

theorem Operand.InScratch.fetchBytes (ho : o.InScratch s tm) (ht : a.ctx.team.bind s.team? = some tm) (hi : i < o.rows) (hb : b + n ≤ o.rowBytes)
    (hn : n ∣ 16) (hal : n ∣ b) : Machine.fetchBytes s a o.space (o.at i b) n =
      (s, some (memReadNat s.scratch (tm.uid * 2 ^ 19 + (o.base.toNat + i * o.stride + b)) n)) := by
  simp only [Machine.fetchBytes, ho.place ht needR hi hb hn hal, loadPlace, ho.sound, Bool.false_eq_true, if_false, readSide_weak (o := weakOrd) rfl, locRead,
    Nat.add_assoc]
theorem Operand.InScratch.fetchElem (ho : o.InScratch s tm) (ht : a.ctx.team.bind s.team? = some tm) (hi : i < o.rows) (hj : j < o.cols) :
    Machine.fetchElem s a o i j = (s, some (o.code s tm i j)) := by
  have hst := ho.stored
  have hrow : o.rowBytes = (o.cols * storeBits o.ty + 7) / 8 := rfl
  simp only [List.mem_cons, List.not_mem_nil, or_false] at hst
  simp only [Machine.fetchElem, Operand.elemAt, Operand.code]
  rcases hst with h | h | h | h <;> rw [h] at hrow ⊢
  · rw [if_pos (by decide), if_pos rfl, ho.fetchBytes ht hi (by omega) (by decide) (by omega), Option.map_some, bits_nibble]
  · rw [if_neg (by decide), if_neg (by decide), ho.fetchBytes ht hi (by omega) (by decide) (by omega), Option.map_some]
  · rw [if_neg (by decide), if_neg (by decide), ho.fetchBytes ht hi (by omega) (by decide) (by omega), Option.map_some]
  · rw [if_neg (by decide), if_neg (by decide), ho.fetchBytes ht hi (by omega) (by decide) (by omega), Option.map_some]
/-- R251: all of an operand is fetched. -/
theorem Operand.InScratch.fetch (ho : o.InScratch s tm) (ht : a.ctx.team.bind s.team? = some tm) :
    fetchOperand s a o = { s := s, rows := codeGrid (o.code s tm) o.rows o.cols, bad := none } := by
  refine foldl_upTo (fun i (m : Fetched) => m = { s := s, rows := codeGrid (o.code s tm) i o.cols, bad := none }) rfl fun i hi m hm => ?_
  subst hm
  simp only [fetchRow]
  generalize hr : List.foldl _ _ (upTo o.cols) = r
  have hrow : r = (s, (upTo o.cols).map (fun j => some (o.code s tm i j)), none) := by
    rw [← hr]
    refine foldl_upTo (fun j q => q = (s, (upTo j).map (fun j => some (o.code s tm i j)), none)) rfl fun j hj q hq => ?_
    subst hq
    simp only [ho.fetchElem ht hi hj, upTo_map_succ, Option.isNone_some, Bool.and_false, Bool.false_eq_true, if_false]
  rw [hrow, codeGrid_succ]

end

end Sys2Proof.Machine
end

section
/-! PROOFS. Scales of matrix instructions (R62, R63, R250): a scale cache that is empty at first gives what stands at the home. -/

namespace Sys2Proof.Machine

/-- Of the whole device only what caches hold has changed, and the core's scale cache holds nothing but what stands at the home. -/
def ScalesFilled (s t : State) (core : Nat) : Prop :=
  t = { s with caches := t.caches } ∧ ∀ line c, cacheLine? t .scale core line = some c → c.data = BitVec.ofNat 1024 (memReadNat s.hbm (128 * line) 128)
theorem ScalesFilled.refl {s : State} {core : Nat} (h : ∀ n, cacheLine? s .scale core n = none) : ScalesFilled s s core :=
  ⟨rfl, fun line c hc => by rw [h line] at hc; cases hc⟩

section
variable {s t : State} {core : Nat}

/-- R63: after a fill the line is held. -/
theorem ScalesFilled.fill (h : ScalesFilled s t core) (line : Nat) (va : Nat × Nat) : ScalesFilled s (fillLine t .scale core line va) core ∧
    (cacheLine? (fillLine t .scale core line va) .scale core line).isSome = true := by
  obtain ⟨ht, hdata⟩ := h
  cases hc : cacheLine? t .scale core line with
  | some c =>
    by_cases hv : va ∈ c.vas
    · rw [fillLine_held t .scale core line va c hc hv, hc]
      exact ⟨⟨ht, hdata⟩, rfl⟩
    · have hfill : fillLine t .scale core line va = modLine t .scale core line (fun x => { x with vas := va :: x.vas }) := by
        simp only [fillLine, hc, List.contains_eq_mem, hv, decide_false, Bool.false_eq_true, if_false]
        rfl
      rw [hfill, cacheLine?_modLine_self hc]
      refine ⟨⟨by rw [ht]; rfl, fun n x hx => ?_⟩, rfl⟩
      rw [cacheLine?_modLine t .scale core line (f := fun x => { x with vas := va :: x.vas }) (fun _ _ _ _ => rfl), Option.map_eq_some_iff] at hx
      obtain ⟨y, hy, rfl⟩ := hx
      have hkept := hdata n y hy
      split <;> exact hkept
  | none =>
    have hfill : fillLine t .scale core line va = { t with caches :=
        { kind := .scale, core := core, line := line, data := BitVec.ofNat 1024 (memReadNat s.hbm (128 * line) 128), vas := [va] } :: t.caches } := by
      rw [ht] at hc ⊢
      simp only [fillLine, hc]
      rfl
    rw [hfill]
    refine ⟨⟨by rw [ht], fun n x hx => ?_⟩, ?_⟩
    · simp only [cacheLine?, List.find?_cons] at hx
      split at hx
      next hn =>
        obtain rfl : line = n := by simpa using hn
        rw [← Option.some.inj hx]
      next => exact hdata n x hx
    · simp [cacheLine?]

/-- R250: the scale byte at an address whose translation the core holds. -/
theorem ScalesFilled.scaleByte {c : Ctx} {addr : DWord} {pa : Nat} (h : ScalesFilled s t c.core) (hr : Reaches54 s c needR addr 1 pa)
    (hp : poisoned s (.hbm pa) = false) :
    ∃ u, Machine.scaleByte t c addr = (u, .ok (some (memReadNat s.hbm pa 1))) ∧ ScalesFilled s u c.core := by
  have hr' : Reaches54 t c needR addr 1 pa := by
    obtain ⟨hspace, halign, hhit⟩ := hr
    refine ⟨hspace, halign, ?_⟩
    rw [h.1]
    exact hhit
  obtain ⟨e, -, hcheck⟩ := globalCheck_reaches rfl hr'
  have hplace : matPlace t c .global false addr 1 7 = (t, .ok (.glob (.plain pa e))) := by
    simp only [matPlace, Bool.false_eq_true, if_false, place_global hcheck, matRefusal]
  have hpt : poisoned t (.hbm pa) = false := by rw [h.1]; exact hp
  obtain ⟨hfilled, hheld⟩ := h.fill (pa / 128) (lineVas addr.toNat pa false)
  obtain ⟨l, hl⟩ := Option.isSome_iff_exists.1 hheld
  have hbyte : l.bytes (pa % 128) 1 = memReadNat s.hbm pa 1 := by
    rw [CacheLine.bytes, hfilled.2 _ l hl, bytes_filled _ _ (by omega), Nat.div_add_mod]
  refine ⟨_, ?_, hfilled⟩
  simp only [Machine.scaleByte, hplace, hpt, scaleCached, hl, hbyte, Bool.false_eq_true, if_false]

/-- Without blocks nothing is fetched. -/
theorem fetchScales_none (t : State) (c : Ctx) (rows : Nat) (addr : Nat → Nat → DWord) (v : Nat → Nat → Nat) :
    fetchScales c rows 0 addr { s := t } = { s := t, rows := codeGrid v rows 0 } :=
  foldl_upTo (fun i (m : Scales) => m = { s := t, rows := codeGrid v i 0 }) rfl fun i _ m hm => by rw [hm, codeGrid_succ]; rfl
/-- R250: a grid of scales is fetched whole. -/
theorem ScalesFilled.fetch {c : Ctx} {rows cols : Nat} {addr : Nat → Nat → DWord} {v : Nat → Nat → Nat} (h : ScalesFilled s t c.core)
    (hv : ∀ i j, i < rows → j < cols → ∃ pa, Reaches54 s c needR (addr i j) 1 pa ∧ poisoned s (.hbm pa) = false ∧ v i j = memReadNat s.hbm pa 1) :
    ∃ u, fetchScales c rows cols addr { s := t } = { s := u, rows := codeGrid v rows cols } ∧ ScalesFilled s u c.core := by
  refine foldl_upTo (fun i (m : Scales) => ∃ u, m = { s := u, rows := codeGrid v i cols } ∧ ScalesFilled s u c.core) ⟨t, rfl, h⟩ fun i hi m hm => ?_
  obtain ⟨u, rfl, hu⟩ := hm
  dsimp only
  generalize hr : List.foldl _ _ (upTo cols) = r
  obtain ⟨w, rfl, hw⟩ : ∃ w, r = (({ s := w, rows := codeGrid v i cols } : Scales), (upTo cols).map (fun j => some (v i j))) ∧ ScalesFilled s w c.core := by
    rw [← hr]
    refine foldl_upTo (fun j q => ∃ w, q = (({ s := w, rows := codeGrid v i cols } : Scales), (upTo j).map (fun j => some (v i j))) ∧
      ScalesFilled s w c.core) ⟨u, rfl, hu⟩ fun j hj q hq => ?_
    obtain ⟨w, rfl, hw⟩ := hq
    obtain ⟨pa, hreach, hsound, hval⟩ := hv i j hi hj
    obtain ⟨w', hbyte, hw'⟩ := hw.scaleByte hreach hsound
    refine ⟨w', ?_, hw'⟩
    simp only [hbyte, Option.isSome_none, Bool.false_eq_true, if_false, Option.isNone_some, Bool.and_false, upTo_map_succ, hval]
  exact ⟨w, by rw [codeGrid_succ], hw⟩

end

end Sys2Proof.Machine
end

section
/-! PROOFS. The tile of an accumulator (R245, R251): element after element is written where it stands. -/

namespace Sys2Proof.Machine

/-- The first `k` elements of `sz` bytes from `a` have become `new` of their old values, and no other byte has changed. -/
structure TileUpdated (m : Memory) (a sz : Nat) (new : Nat → Nat → Nat) (k : Nat) (m' : Memory) : Prop where
  wf : Memory.wf m' = true
  elements : ∀ i < k, memReadNat m' (a + i * sz) sz = new i (memReadNat m (a + i * sz) sz) % 256 ^ sz
  others : BytesKept m m' a (k * sz)

theorem TileUpdated.step {m m' : Memory} {a sz k : Nat} {new : Nat → Nat → Nat} (h : TileUpdated m a sz new k m') :
    TileUpdated m a sz new (k + 1) (memWriteNat m' (a + k * sz) sz (new k (memReadNat m' (a + k * sz) sz))) := by
  obtain ⟨hwf, helem, hothers⟩ := h
  have hold : memReadNat m' (a + k * sz) sz = memReadNat m (a + k * sz) sz := memReadNat_congr _ _ _ _ fun x h1 h2 => hothers x (by omega)
  refine ⟨memWriteNat_wf _ _ _ _ hwf, fun i hi => ?_, fun x hx => ?_⟩
  · by_cases hik : i = k
    · rw [hik, memReadNat_memWriteNat _ _ _ _ hwf, hold]
    · have hle : (i + 1) * sz ≤ k * sz := Nat.mul_le_mul_right _ (by omega)
      rw [Nat.succ_mul] at hle
      rw [memReadNat_memWriteNat_other _ _ _ _ _ _ hwf (.inl (by omega)), helem i (by omega)]
  · rw [Nat.succ_mul] at hx
    rw [memRead_memWriteNat _ _ _ _ _ hwf, if_neg (by omega)]
    exact hothers x (by omega)

/-- The row and the column of an element of a tile by its number. -/
theorem slot_row {n j : Nat} (i : Nat) (hj : j < n) : (i * n + j) / n = i := by
  rw [Nat.mul_comm, Nat.mul_add_div (by omega), Nat.div_eq_of_lt hj, Nat.add_zero]
theorem slot_col {n j : Nat} (i : Nat) (hj : j < n) : (i * n + j) % n = j := by rw [Nat.mul_comm, Nat.mul_add_mod, Nat.mod_eq_of_lt hj]
theorem slot_lt {m n i j : Nat} (hi : i < m) (hj : j < n) : i * n + j < m * n := by
  have hle : (i + 1) * n ≤ m * n := Nat.mul_le_mul_right _ hi
  rw [Nat.succ_mul] at hle
  omega

/-- R251: MMA's loop over rows and columns updates the tile. -/
theorem mmaTile_updates (s : State) (g : Group) (c : DWord) (off rm : Nat) (sat neg : Bool) (x : MmaIn) (hwf : Memory.wf s.acc = true) :
    ∃ m, mmaTile s g c off rm sat neg x = { s with acc := m } ∧
      TileUpdated s.acc (accKey s g + off) (accSize (cwC c)) (fun i old => mmaElem c rm sat neg x old (i / cwN c) (i % cwN c)) (cwM c * cwN c) m := by
  refine foldl_upTo (fun i t => ∃ m, t = { s with acc := m } ∧ TileUpdated s.acc (accKey s g + off) (accSize (cwC c))
    (fun i old => mmaElem c rm sat neg x old (i / cwN c) (i % cwN c)) (i * cwN c) m) ⟨s.acc, rfl, hwf, fun i hi => by omega, fun _ _ => rfl⟩ fun i hi t ht => ?_
  rw [Nat.succ_mul]
  refine foldl_upTo (fun j t => ∃ m, t = { s with acc := m } ∧ TileUpdated s.acc (accKey s g + off) (accSize (cwC c))
    (fun i old => mmaElem c rm sat neg x old (i / cwN c) (i % cwN c)) (i * cwN c + j) m) ht fun j hj t ht => ?_
  obtain ⟨m, rfl, hm⟩ := ht
  have hstep := hm.step
  simp only [slot_row i hj, slot_col i hj] at hstep
  refine ⟨_, ?_, hstep⟩
  simp only [accWrite, accRead, Nat.add_assoc]
  rfl

end Sys2Proof.Machine
end

section
/-! PROOFS. MMA and MMAS (O36): the checks pass, the operands and scales are fetched whole, and every element of the tile becomes its exact new value,
rounded once. -/

namespace Sys2Proof.Machine

/-! ### One element -/

section
variable (c : DWord) (rm : Nat) (sat neg : Bool) (a b sa sb : Nat → Nat → Nat)

/-- One product of codes, with its scales. -/
def productOf (m n k : Nat) : FVal :=
  let p := fmulV (fdec (cwA c) (a m k)) (fdec (cwB c) (b k n))
  let q := if cwScaled c then fmulV p (fmulV (fdec 18 (sa m (k / 32))) (fdec 18 (sb n (k / 32)))) else p
  if neg then q.negate else q
/-- The new value of an element: the old one and all products, rounded once, or exact and wrapped. -/
def newElement (m n old : Nat) : Nat :=
  let total : Int := ((List.range (cwK c)).map (fun k => intVal (cwA c) (a m k) * intVal (cwB c) (b k n))).sum
  if cwC c = 6 then fitInt 6 sat (intVal 6 old + (if neg then -total else total))
  else (fun x => if sat then satMax (cwC c) x else x) (froundV (cwC c) rm 0 (fsumV rm (fdec (cwC c) old :: (List.range (cwK c)).map (productOf c neg a b sa sb m n))))

variable {c rm sat neg a b sa sb} {x : MmaIn} {m n : Nat}

/-- R251: an element none of whose data meets a lasting error. -/
theorem mmaElem_whole (ha : ∀ k < cwK c, x.a m k = some (a m k)) (hb : ∀ k < cwK c, x.b k n = some (b k n))
    (hs : cwScaled c = true → ∀ j < cwK c / 32, x.sa m j = some (sa m j) ∧ x.sb n j = some (sb n j)) (old : Nat) :
    mmaElem c rm sat neg x old m n = newElement c rm sat neg a b sa sb m n old := by
  have hbad : mmaBad c x m n = false := by
    simp only [mmaBad, Bool.or_eq_false_iff, Bool.and_eq_false_imp, List.any_eq_false, upTo, List.mem_range]
    refine ⟨fun k hk => by simp [ha k hk, hb k hk], fun hsc j hj => ?_⟩
    obtain ⟨hsa, hsb⟩ := hs hsc j hj
    simp [hsa, hsb]
  have hterm : (upTo (cwK c)).map (fun k => mmaTerm c x neg m n k) = (List.range (cwK c)).map (productOf c neg a b sa sb m n) := by
    refine List.map_congr_left fun k hk => ?_
    have hk : k < cwK c := List.mem_range.1 hk
    simp only [mmaTerm, productOf, ha k hk, hb k hk, Option.getD_some]
    by_cases hsc : cwScaled c = true
    · obtain ⟨hsa, hsb⟩ := hs hsc (k / 32) (by simp only [cwK] at hk ⊢; omega)
      simp only [hsa, hsb, Option.getD_some]
    · simp only [hsc, Bool.false_eq_true, if_false]
  have hsum : (upTo (cwK c)).map (fun k => intVal (cwA c) ((x.a m k).getD 0) * intVal (cwB c) ((x.b k n).getD 0)) =
      (List.range (cwK c)).map (fun k => intVal (cwA c) (a m k) * intVal (cwB c) (b k n)) := by
    refine List.map_congr_left fun k hk => ?_
    have hk : k < cwK c := List.mem_range.1 hk
    rw [ha k hk, hb k hk]; rfl
  have hty : (cwC c).toNat = 6 ↔ cwC c = 6 := ⟨fun h => BitVec.eq_of_toNat_eq h, fun h => by rw [h]; rfl⟩
  simp only [mmaElem, hbad, Bool.false_eq_true, if_false, foldl_add_map, Int.zero_add, hsum, hterm, hty]
  rfl

end

/-! ### The operation -/

/-- R248: the types that a matrix operand may have are stored in half bytes, bytes, or aligned halves and quads. -/
theorem storeBits_of_comboOk {c : DWord} (h : comboOk c = true) : storeBits (cwA c) ∈ [4, 8, 16, 64] ∧ storeBits (cwB c) ∈ [4, 8, 16, 64] := by
  have htypes : ∀ ty : BitVec 5, ty.toNat ∈ [2, 9, 10, 12, 13, 14, 15, 16, 17, 19] → storeBits ty ∈ [4, 8, 16, 64] := by decide
  simp only [comboOk, Bool.or_eq_true, Bool.and_eq_true, List.contains_eq_mem, decide_eq_true_eq, beq_iff_eq, List.mem_cons, List.not_mem_nil, or_false] at h
  constructor <;> refine htypes _ ?_ <;> simp only [List.mem_cons, List.not_mem_nil, or_false] <;> omega

section
variable {i : Instr} {f : LongF} {s : State} {g : Group} {sp : Split} {tm : Team} {explicit : Bool} {c : DWord} {sa sb : Nat → Nat → Nat}

/-- What each element of A and B is, by its row and column in the product. -/
def elemA (s : State) (tm : Team) (g : Group) (f : LongF) (c : DWord) (m k : Nat) : Nat :=
  if f.mo.getLsbD 0 then (opndA g f c).code s tm k m else (opndA g f c).code s tm m k
def elemB (s : State) (tm : Team) (g : Group) (f : LongF) (c : DWord) (k n : Nat) : Nat :=
  if f.mo.getLsbD 1 then (opndB g f c).code s tm k n else (opndB g f c).code s tm n k

theorem elemA_fetched {t : State} {m k : Nat} (hm : m < cwM c) (hk : k < cwK c) :
    let rows := codeGrid ((opndA g f c).code t tm) (opndA g f c).rows (opndA g f c).cols
    (if f.mo.getLsbD 0 then rows.at k m else rows.at m k) = some (elemA t tm g f c m k) := by
  unfold elemA
  split
  next h => exact codeGrid_at (hk.trans_eq (if_pos h).symm) (hm.trans_eq (if_pos h).symm)
  next h => exact codeGrid_at (hm.trans_eq (if_neg h).symm) (hk.trans_eq (if_neg h).symm)
theorem elemB_fetched {t : State} {k n : Nat} (hk : k < cwK c) (hn : n < cwN c) :
    let rows := codeGrid ((opndB g f c).code t tm) (opndB g f c).rows (opndB g f c).cols
    (if f.mo.getLsbD 1 then rows.at k n else rows.at n k) = some (elemB t tm g f c k n) := by
  unfold elemB
  split
  next h => exact codeGrid_at (hk.trans_eq (if_pos h).symm) (hn.trans_eq (if_pos h).symm)
  next h => exact codeGrid_at (hn.trans_eq (if_neg h).symm) (hk.trans_eq (if_neg h).symm)

/-- R251: the multiply, with its operands in the scratchpad and its scales fetched. -/
theorem mmaGo_ends {t : State} {rows cols : Scales} (ha : (opndA g f c).InScratch t tm) (hb : (opndB g f c).InScratch t tm)
    (ht : t.team? g.team = some tm) (hwf : Memory.wf t.acc = true) (hra : rows.bad = none) (hrb : cols.bad = none)
    (hs : cwScaled c = true → rows.rows = codeGrid sa (cwM c) (cwK c / 32) ∧ cols.rows = codeGrid sb (cwN c) (cwK c / 32)) :
    let at_ := accKey t g + (g.sReg f.d.toNat).toNat
    let sz := accSize (cwC c)
    ∃ m, mmaGo g f c explicit (rows, cols) t sp = accessEnd { t with acc := m } g sp 12 4 sp.acqSig none ∧
      (∀ i j, i < cwM c → j < cwN c → memReadNat m (at_ + (i * cwN c + j) * sz) sz = newElement c f.rm.toNat f.sat (f.mo.getLsbD 2)
        (elemA t tm g f c) (elemB t tm g f c) sa sb i j (memReadNat t.acc (at_ + (i * cwN c + j) * sz) sz) % 256 ^ sz) ∧
      BytesKept t.acc m at_ (cwM c * cwN c * sz) := by
  intro at_ sz
  have hteam : (laneAgent t g sp).ctx.team.bind t.team? = some tm := ht
  simp only [mmaGo, ha.fetch hteam, hb.fetch hteam, hra, hrb]
  generalize hx : MmaIn.mk _ _ _ _ = x
  obtain ⟨m, hm, -, helem, hothers⟩ := mmaTile_updates t g c (g.sReg f.d.toNat).toNat f.rm.toNat f.sat (f.mo.getLsbD 2) x hwf
  refine ⟨m, ?_, fun i j hi hj => ?_, hothers⟩
  · have hbad : firstSome (if (cwScaled c || explicit) = true then [none, none, none, none] else [none, none]) = none := by split <;> rfl
    have hsp : sp.accessed sp.acqSig t.uid none = sp := by simp [Split.accessed]
    rw [hm, hbad, accessEnd, hsp]
    rfl
  · have hnew := helem _ (slot_lt hi hj)
    simp only [slot_row i hj, slot_col i hj] at hnew
    rw [hnew, mmaElem_whole (a := elemA t tm g f c) (b := elemB t tm g f c) (sa := sa) (sb := sb)] <;> subst hx
    · exact fun k hk => elemA_fetched hi hk
    · exact fun k hk => elemB_fetched hk hj
    · intro hsc k hk
      obtain ⟨hrows, hcols⟩ := hs hsc
      exact ⟨(congrArg (Codes.at · i k) hrows).trans (codeGrid_at hi hk), (congrArg (Codes.at · j k) hcols).trans (codeGrid_at hj hk)⟩

/-- R250: the scales of A and B are fetched whole, and only caches change; without scales nothing is fetched. -/
theorem scales_fetched {x : Ctx} {rows cols k : Nat} {addrA addrB : Nat → Nat → DWord} (scaled : Bool)
    (h : scaled = true → (∀ n, cacheLine? s .scale x.core n = none) ∧
      (∀ m j, m < rows → j < k → ∃ pa, Reaches54 s x needR (addrA m j) 1 pa ∧ poisoned s (.hbm pa) = false ∧ sa m j = memReadNat s.hbm pa 1) ∧
      (∀ n j, n < cols → j < k → ∃ pa, Reaches54 s x needR (addrB n j) 1 pa ∧ poisoned s (.hbm pa) = false ∧ sb n j = memReadNat s.hbm pa 1)) :
    let blocks := if scaled then k else 0
    ∃ u C, fetchScales x rows blocks addrA { s := s } = { s := u, rows := codeGrid sa rows blocks } ∧
      fetchScales x cols blocks addrB { s := u } = { s := { s with caches := C }, rows := codeGrid sb cols blocks } := by
  cases scaled with
  | false => exact ⟨s, s.caches, fetchScales_none .., fetchScales_none ..⟩
  | true =>
    obtain ⟨hempty, hrows, hcols⟩ := h rfl
    obtain ⟨u, hu, hfilled⟩ := (ScalesFilled.refl hempty).fetch hrows
    obtain ⟨v, hv, hv'⟩ := hfilled.fetch hcols
    exact ⟨u, v.caches, hu, by rw [← hv'.1]; exact hv⟩

/-- R247 to R251: with all checks passed and no budget in the way, the multiply is performed at once. -/
theorem mmaBody_ends (hc : c = g.sReg f.c.toNat) (hlegal : mmaLegal g f explicit c = true)
    (hcheck : accCheck s g (g.sReg f.d.toNat) (cwM c * cwN c * accSize (cwC c)) 256 = none)
    (ha : (opndA g f c).InScratch s tm) (hb : (opndB g f c).InScratch s tm) (ht : s.team? g.team = some tm)
    (hlimit : (s.budgets.getD (g.core / 8) {}).limit = none)
    (hsince : sp.budgetSince = none) (hgranted : sp.budgetGranted = false) (hcharge : sp.budgetCharge = 0)
    {u : State} {C : List CacheLine} {rows cols : Codes}
    (hrows : fetchScales (splitCtx g sp) (cwM c) (if cwScaled c then cwK c / 32 else 0) (scaleAAddr g f explicit c) { s := s } = { s := u, rows := rows })
    (hcols : fetchScales (splitCtx g sp) (cwN c) (if cwScaled c then cwK c / 32 else 0) (scaleBAddr g f explicit c) { s := u } =
      { s := { s with caches := C }, rows := cols }) :
    mmaBody i f explicit s g sp =
      mmaGo g f c explicit ({ s := u, rows := rows }, { s := { s with caches := C }, rows := cols }) { s with caches := C } sp := by
  subst hc
  have hteam : (splitCtx g sp).team.bind s.team? = some tm := ht
  obtain ⟨hs1, hcause1⟩ := ha.check hteam g 8 (m := { s := s }) rfl rfl
  have hb1 := hb.checkBase hcause1
  obtain ⟨hs2, hcause2⟩ := hb.check hteam g 8 hs1 hcause1
  have hsp : { sp with budgetSince := none, budgetCharge := 0, budgetGranted := false } = sp := by rw [← hsince, ← hgranted, ← hcharge]
  simp only [mmaBody, hlegal, Bool.not_true, Bool.false_eq_true, if_false, hcheck, ha.checkBase, hb1, hcause2, hs2, hrows, hcols, budgetGate, clusterOf, hlimit, hsp]
/-- R64, R245: a tile within its team's allocation, at a multiple of 256. -/
theorem accCheck_none {off : DWord} {n : Nat} (ht : s.team? g.team = some tm) (hin : off.toNat + n ≤ tm.acc) (hal : off.toNat % 256 = 0) :
    accCheck s g off n 256 = none := by
  simp only [accCheck, accAlloc, ht, if_neg (Nat.not_lt.2 hin), hal, bne_self_eq_false, Bool.false_eq_true, if_false]
/-- R249: both operands of a legal control word with space codes 1 lie in the scratchpad. -/
theorem opnds_inScratch (hlegal : mmaLegal g f explicit c = true) (hsc : f.sc = 5) (hsmall : tm.scratch ≤ 2 ^ 19)
    (ha : (opndA g f c).base.toNat % 16 = 0 ∧ (opndA g f c).base.toNat + (opndA g f c).rows * (opndA g f c).stride ≤ tm.scratch)
    (hb : (opndB g f c).base.toNat % 16 = 0 ∧ (opndB g f c).base.toNat + (opndB g f c).rows * (opndB g f c).stride ≤ tm.scratch)
    (hp : ∀ u ∈ s.poison, ∀ t o, u ≠ .scratch t o) : (opndA g f c).InScratch s tm ∧ (opndB g f c).InScratch s tm := by
  simp only [mmaLegal, Bool.and_eq_true] at hlegal
  obtain ⟨⟨⟨⟨⟨-, hcombo⟩, -⟩, -⟩, hstrideA⟩, hstrideB⟩ := hlegal
  have hsound (t x : Nat) : poisoned s (.scratch t x) = false := by
    rw [poisoned, List.contains_eq_mem, decide_eq_false_iff_not]
    exact fun hmem => hp _ hmem _ _ rfl
  obtain ⟨hstoreA, hstoreB⟩ := storeBits_of_comboOk hcombo
  exact ⟨⟨by simp [opndA, hsc, spaceOf], ha.1, Nat.mul_mod_left _ _, hstrideA, ha.2, hsmall, hstoreA, hsound⟩,
    ⟨by simp [opndB, hsc, spaceOf], hb.1, Nat.mul_mod_left _ _, hstrideB, hb.2, hsmall, hstoreB, hsound⟩⟩
/-- R243, R31: a ready MMA or MMAS with room on its counter. -/
theorem exec_mma_ready {h : Hdr} (hr : Ready (if explicit then .mmas h f else .mma h f) h s g sp) (hk : g.kGuard h = true) (hcount : g.counter 4 < 63) :
    exec (if explicit then .mmas h f else .mma h f) s = .next (mmaBody (if explicit then .mmas h f else .mma h f) f explicit s g sp) := by
  have hroom (t : State) : withRoom false (some 4) s g sp t = t := by
    simp only [withRoom, Bool.false_and, Bool.false_eq_true, if_false, if_neg (show ¬ g.counter 4 ≥ 63 by omega)]
  cases explicit with
  | false =>
    have hx := exec_uniform (exec_mma h f s) hr rfl rfl
    rw [if_pos hk, hroom] at hx
    exact hx
  | true =>
    have hx := exec_uniform (exec_mmas h f s) hr rfl rfl
    rw [if_pos hk, hroom] at hx
    exact hx

end

/-- Settles O36: the body is `mmaBody_ends`, its operation `mmaGo_ends`. -/
theorem matrixMultipliesAccumulate : Obligations.MatrixMultipliesAccumulate := by
  intro h f s g sp tm explicit sa sb c off sz i code a b fits product total new element hr hk ht hwf hsc hlegal hin hal hsmall hfitA hfitB hpoison hlimit
    hsince hgranted hcharge hcount hscales
  obtain ⟨ha, hb⟩ := opnds_inScratch hlegal hsc hsmall hfitA hfitB hpoison
  obtain ⟨u, C, hrows, hcols⟩ := scales_fetched (x := splitCtx g sp) (cwScaled c) hscales
  have hbody := mmaBody_ends (i := i) rfl hlegal (accCheck_none ht hin hal) ha hb ht hlimit hsince hgranted hcharge hrows hcols
  have hcan := (memoriesWf_iff s).1 hwf
  obtain ⟨m, hgo, helem, hothers⟩ := mmaGo_ends (explicit := explicit) (sp := sp) (sa := sa) (sb := sb) (t := { s with caches := C })
    (rows := { s := u, rows := codeGrid sa (cwM c) (if cwScaled c then cwK c / 32 else 0) })
    (cols := { s := { s with caches := C }, rows := codeGrid sb (cwN c) (if cwScaled c then cwK c / 32 else 0) })
    { ha with sound := ha.sound } { hb with sound := hb.sound } ht hcan.acc rfl rfl (fun hscaled => by simp only [hscaled, if_true, and_self])
  obtain ⟨g', hend, -⟩ := accessEnd_spec (t := { s with caches := C, acc := m }) 12 4 sp.acqSig none hr.group hr.split rfl rfl
  refine ⟨_, g', (exec_mma_ready hr hk hcount).trans (congrArg _ (hbody.trans hgo)), hend, rfl, rfl, rfl, fun x y hx hy => ?_, hothers⟩
  rw [← pow_bytes]
  exact helem x y hx hy

end Sys2Proof.Machine
end

section
/-! PROOFS. Slots of a draw window (R131, R139): which bytes a write of a slot changes, and what is read there afterwards. -/

namespace Sys2Proof.Machine

-- One proof at a time, as in the tests: proofs that wait for earlier ones would each hold a thread and its stack.
set_option Elab.async false

/-! ### Writes and reads of a draw window -/

/-- A memory after `n` bytes of a draw window are written. -/
def Tun.store (t : Tun) (off v : Nat) : Nat → Memory → Memory
  | 0, m => m
  | n + 1, m => t.store (off + 1) (v / 256) n (memWrite m (t.drawAt off) (BitVec.ofNat 8 v))
/-- A tun's own record of its windows after a change. -/
def Tun.mapOwn (f : Memory → Memory) (t : Tun) : Tun := { t with own := f t.own }
/-- The state after the home and a tun's own record have changed in the same way. -/
def State.mapDraws (s : State) (num : Nat) (f : Memory → Memory) : State := { s.modTun num (Tun.mapOwn f) with hbm := f s.hbm }

@[simp] theorem State.mapDraws_groups (s : State) (num : Nat) (f : Memory → Memory) : (s.mapDraws num f).groups = s.groups := rfl
@[simp] theorem State.mapDraws_draws (s : State) (num : Nat) (f : Memory → Memory) : (s.mapDraws num f).draws = s.draws := rfl
@[simp] theorem State.mapDraws_hbm (s : State) (num : Nat) (f : Memory → Memory) : (s.mapDraws num f).hbm = f s.hbm := rfl
theorem State.mapDraws_mapDraws (s : State) (num : Nat) (f f' : Memory → Memory) :
    (s.mapDraws num f).mapDraws num f' = s.mapDraws num (f' ∘ f) := by
  simp only [State.mapDraws, State.modTun, List.map_map]
  congr 2
  funext x
  simp only [Function.comp]
  split
  · next h => exact if_pos h
  · rfl

/-- R139: a write of a draw slot goes to the home and to the tun's own record alike. -/
theorem drawWrite_eq (s : State) (t : Tun) (off v n : Nat) : drawWrite s t off v n = s.mapDraws t.num (t.store off v n) := by
  induction n generalizing s off v with
  | zero =>
    simp only [drawWrite, State.mapDraws, State.modTun, Tun.mapOwn, Tun.store, ite_self, List.map_id']
  | succ n ih =>
    rw [drawWrite, ih]
    have hbyte : BitVec.ofNat 8 (v % 256) = BitVec.ofNat 8 v := by
      apply BitVec.eq_of_toNat_eq
      simp
    have hone : homeWrite s (t.drawAt off) 1 (v % 256) = { s with hbm := memWrite s.hbm (t.drawAt off) (BitVec.ofNat 8 v) } := by
      rw [← hbyte]; rfl
    rw [hone]
    exact State.mapDraws_mapDraws s t.num (memWrite · (t.drawAt off) (BitVec.ofNat 8 v)) _

/-- The frames of the first `n` bytes at `off` lie one after another. -/
def Tun.Unbroken (t : Tun) (off n : Nat) : Prop := ∀ k, k < n → t.drawAt (off + k) = t.drawAt off + k

theorem Tun.unbroken_of_page {t : Tun} {off n : Nat} (h : off / 65536 = (off + n - 1) / 65536) : t.Unbroken off n := by
  intro k hk
  have hdiv : (off + k) / 65536 = off / 65536 := by omega
  simp only [Tun.drawAt, hdiv]
  omega
theorem Tun.Unbroken.part {t : Tun} {off n : Nat} (h : t.Unbroken off n) (k : Nat) {j : Nat} (hkj : k + j ≤ n) : t.Unbroken (off + k) j := by
  intro i hi
  rw [Nat.add_assoc, h _ (by omega), h _ (by omega)]
  omega

theorem Tun.store_unbroken {t : Tun} {off n : Nat} (h : t.Unbroken off n) (v : Nat) (m : Memory) :
    t.store off v n m = memWriteNat m (t.drawAt off) n v := by
  induction n generalizing off v m with
  | zero => rfl
  | succ n ih =>
    rw [Tun.store, ih (h.part 1 (by omega)), memWriteNat]
    cases n with
    | zero => rfl
    | succ n => rw [h 1 (by omega)]
theorem drawRead_unbroken {t : Tun} {off n : Nat} (h : t.Unbroken off n) (s : State) :
    drawRead s t off n = memReadNat s.hbm (t.drawAt off) n := by
  induction n generalizing off with
  | zero => rfl
  | succ n ih =>
    rw [drawRead, ih (h.part 1 (by omega)), memReadNat]
    cases n with
    | zero => simp [homeRead, memReadNat]
    | succ n =>
      rw [h 1 (by omega)]
      simp [homeRead, memReadNat]

/-- A read goes by the frames of the draw window alone. -/
theorem drawRead_congr {t t' : Tun} (h : t'.drawPages = t.drawPages) (s : State) (off n : Nat) : drawRead s t' off n = drawRead s t off n := by
  induction n generalizing off with
  | zero => rfl
  | succ n ih => simp only [drawRead, ih, Tun.drawAt, h]

/-! ### A whole slot (R139) -/

section
variable {s : State} {t : Tun} {slot : Nat}

theorem Tun.le_drawStride (t : Tun) : 8 + t.m * t.resSize ≤ t.drawStride ∧ 8 < t.drawStride := by
  simp only [Tun.drawStride, roundUp, ceilDiv]
  omega

/-- The bytes of a slot before and after its status and results are written as one unit. -/
def Tun.storeSlot (t : Tun) (slot status results : Nat) (m : Memory) : Memory :=
  t.store (slot * t.drawStride + 8) results (t.m * t.resSize) (t.store (slot * t.drawStride) status 8 m)
theorem putSlot_eq (s : State) (t : Tun) (slot status results : Nat) :
    putSlot s t slot status results = s.mapDraws t.num (t.storeSlot slot status results) := by
  rw [putSlot, drawWrite_eq, drawWrite_eq, State.mapDraws_mapDraws]
  rfl

variable (hslot : t.Unbroken (slot * t.drawStride) t.drawStride)
include hslot

theorem storeSlot_unbroken (status results : Nat) (m : Memory) : t.storeSlot slot status results m =
    memWriteNat (memWriteNat m (t.drawAt (slot * t.drawStride)) 8 status) (t.drawAt (slot * t.drawStride) + 8) (t.m * t.resSize) results := by
  obtain ⟨hle, hlt⟩ := t.le_drawStride
  rw [Tun.storeSlot, Tun.store_unbroken (hslot.part 8 (by omega)), hslot 8 hlt, Tun.store_unbroken (off := slot * t.drawStride) (n := 8)
    fun k hk => hslot k (by omega)]
theorem status_eq (s : State) : t.status s slot = memReadNat s.hbm (t.drawAt (slot * t.drawStride)) 8 :=
  drawRead_unbroken (fun k hk => hslot k (by have := t.le_drawStride; omega)) s
theorem status_storeSlot {status results : Nat} {m : Memory} (hwf : Memory.wf m = true) (hst : status < 2 ^ 64)
    (hs : s.hbm = t.storeSlot slot status results m) : t.status s slot = status := by
  rw [status_eq hslot, hs, storeSlot_unbroken hslot, memReadNat_memWriteNat_other _ _ _ _ _ _ (memWriteNat_wf _ _ _ _ hwf) (.inl (by omega)),
    memReadNat_memWriteNat _ _ _ _ hwf, pow_bytes, Nat.mod_eq_of_lt hst]
theorem result_storeSlot {status results i : Nat} {m : Memory} (hwf : Memory.wf m = true) (hi : i < t.m) (hsize : 0 < t.resSize)
    (hs : s.hbm = t.storeSlot slot status results m) :
    drawRead s t (slot * t.drawStride + 8 + i * t.resSize) t.resSize = results / 256 ^ (i * t.resSize) % 256 ^ t.resSize := by
  obtain ⟨hle, -⟩ := t.le_drawStride
  have hin : i * t.resSize + t.resSize ≤ t.m * t.resSize := by
    rw [← Nat.succ_mul]
    exact Nat.mul_le_mul_right _ hi
  rw [Nat.add_assoc, drawRead_unbroken (hslot.part _ (by omega)), hslot _ (by omega), hs, storeSlot_unbroken hslot, ← Nat.add_assoc,
    memReadNat_memWriteNat_part _ _ _ _ _ _ (memWriteNat_wf _ _ _ _ hwf) hin]
end

/-! ### The results of a fire as one number (R138) -/

/-- Digits of base `2 ^ w` side by side. -/
theorem digits_read {w : Nat} {f : Nat → Nat} (hf : ∀ i, f i < 2 ^ w) (n : Nat) :
    let x := (upTo n).foldl (fun r i => r + 2 ^ (w * i) * f i) 0
    x < 2 ^ (w * n) ∧ ∀ i, i < n → x / 2 ^ (w * i) % 2 ^ w = f i := by
  induction n with
  | zero => exact ⟨by simp [upTo], fun i hi => by omega⟩
  | succ n ih =>
    obtain ⟨hlt, hread⟩ := ih
    simp only [upTo, List.range_succ, List.foldl_append, List.foldl_cons, List.foldl_nil] at hlt hread ⊢
    generalize (List.range n).foldl (fun r i => r + 2 ^ (w * i) * f i) 0 = x at hlt hread ⊢
    refine ⟨?_, fun i hi => ?_⟩
    · have hle : 2 ^ (w * n) * (f n + 1) ≤ 2 ^ (w * n) * 2 ^ w := Nat.mul_le_mul_left _ (hf n)
      rw [Nat.mul_succ w n, Nat.pow_add]
      rw [Nat.mul_add, Nat.mul_one] at hle
      omega
    · obtain hi | rfl := Nat.lt_succ_iff_lt_or_eq.1 hi
      · rw [← hread i hi]
        obtain ⟨k, rfl⟩ := Nat.exists_eq_add_of_lt hi
        have hsplit : 2 ^ (w * (i + k + 1)) * f (i + k + 1) = 2 ^ (w * i) * (2 ^ w * (2 ^ (w * k) * f (i + k + 1))) := by
          rw [← Nat.mul_assoc (2 ^ w), ← Nat.mul_assoc, ← Nat.pow_add, ← Nat.pow_add]
          ring_nf
        rw [hsplit, Nat.add_mul_div_left _ _ (Nat.two_pow_pos _), Nat.add_mul_mod_self_left]
      · rw [Nat.add_mul_div_left _ _ (Nat.two_pow_pos _), Nat.div_eq_of_lt hlt, Nat.zero_add, Nat.mod_eq_of_lt (hf i)]

/-- R112: a magnitude that overflows becomes the greatest code or the one after it. -/
theorem overflowCode_le (ty : BitVec 5) (rm : Nat) (neg : Bool) : overflowCode ty rm neg ≤ maxCode ty + 1 := by
  unfold overflowCode
  split
  · omega
  · cases neg <;> split <;> simp
/-- A rounded value fits its format, where the codes leave room for an infinity. -/
theorem froundV_lt {ty : BitVec 5} (rm draw : Nat) (v : FVal) (hty : ty.toNat ≠ 18) (hw : 0 < tyBits ty) (hmax : maxCode ty + 1 < 2 ^ (tyBits ty - 1))
    (hnan : canonNan ty < 2 ^ tyBits ty) : froundV ty rm draw v < 2 ^ tyBits ty := by
  have hhalf : 2 ^ tyBits ty = 2 ^ (tyBits ty - 1) + 2 ^ (tyBits ty - 1) := by
    obtain ⟨k, hk⟩ := Nat.exists_eq_add_of_lt hw
    rw [hk, Nat.zero_add, Nat.add_sub_cancel, Nat.pow_succ]
    omega
  have hsign (neg : Bool) : signCode ty neg ≤ 2 ^ (tyBits ty - 1) := by
    unfold signCode
    split <;> omega
  have hmag (neg : Bool) (m : Nat) (e : Int) : roundMag ty rm draw neg m e ≤ maxCode ty + 1 := by
    unfold roundMag
    extract_lets p q c
    split
    · exact overflowCode_le ty rm neg
    · omega
  cases v with
  | nan => simpa only [froundV, if_neg hty] using hnan
  | inf neg =>
    have := hsign neg
    simp only [froundV, if_neg hty]
    split <;> omega
  | fin neg m e =>
    have := hsign neg
    have := hmag neg m e
    simp only [froundV, if_neg hty]
    split <;> omega

/-- R128: a result has whole bytes, and fits them. -/
theorem Tun.resTy_of_formatOk {t : Tun} (h : t.formatOk = true) : t.resTy.toNat ∈ [6, 9, 10, 11] := by
  simp only [Tun.formatOk, Bool.and_eq_true, tunFormats, Bool.or_eq_true, List.contains_iff_mem, beq_iff_eq] at h
  obtain ⟨⟨⟨⟨-, hty⟩, -⟩, -⟩, -⟩ := h
  obtain ⟨-, hfloat⟩ | ⟨-, hint⟩ := hty
  · exact List.mem_cons_of_mem _ hfloat
  · rw [hint]
    decide
theorem Tun.resSize_pos {t : Tun} (h : t.formatOk = true) : 0 < t.resSize := by
  have hall : ∀ ty : BitVec 5, ty.toNat ∈ [6, 9, 10, 11] → 0 < tyBits ty / 8 := by decide
  exact hall _ (Tun.resTy_of_formatOk h)
theorem fireResult_lt {t : Tun} (h : t.formatOk = true) (elems : List Nat) (acc i : Nat) : fireResult t elems acc i < 2 ^ (8 * t.resSize) := by
  have hall : ∀ ty : BitVec 5, ty.toNat ∈ [6, 9, 10, 11] → 0 < tyBits ty ∧ 8 * (tyBits ty / 8) = tyBits ty ∧
      (ty.toNat = 6 → tyBits ty = tyBits 6) ∧ (ty.toNat ≠ 6 → ty.toNat ≠ 18 ∧ maxCode ty + 1 < 2 ^ (tyBits ty - 1) ∧ canonNan ty < 2 ^ tyBits ty) := by
    decide
  obtain ⟨hpos, hbytes, hint, hfloat⟩ := hall _ (Tun.resTy_of_formatOk h)
  unfold Tun.resSize
  rw [hbytes]
  unfold fireResult
  extract_lets row x terms
  split
  · next h6 =>
    rw [hint h6, fitInt, wrapInt]
    have hb : (0 : Int) < (2 ^ tyBits 6 : Nat) := by decide
    have := Int.emod_lt_of_pos x hb
    have := Int.emod_nonneg x hb.ne'
    simp only [Bool.false_eq_true, if_false]
    omega
  · next h6 =>
    obtain ⟨h18, hmax, hnan⟩ := hfloat h6
    exact froundV_lt 0 0 _ h18 hpos hmax hnan
/-- R138: each result reads back from the number that a fire writes. -/
theorem fireResults_read {s : State} {t : Tun} (h : t.formatOk = true) (slot : Nat) (elems : List Nat) {i : Nat} (hi : i < t.m) :
    fireResults s t slot elems / 256 ^ (i * t.resSize) % 256 ^ t.resSize = fireResult t elems (fireAcc s t slot i) i := by
  obtain ⟨-, hread⟩ := digits_read (fun i => fireResult_lt h elems (fireAcc s t slot i) i) t.m
  rw [pow_bytes, pow_bytes, Nat.mul_comm i, ← Nat.mul_assoc]
  exact hread i hi

end Sys2Proof.Machine
end

section
/-! PROOFS. Fires and abandoned fills (O47): the slot a fire or an abandonment writes, and what it leaves of the tun. -/

namespace Sys2Proof.Machine

-- One proof at a time, as in the tests: proofs that wait for earlier ones would each hold a thread and its stack.
set_option Elab.async false

/-! ### Tuns by number -/

theorem State.tun?_num {s : State} {n : Nat} {t : Tun} (h : s.tun? n = some t) : t.num = n := by simpa using List.find?_some h
theorem State.tun?_modTun {s : State} {n : Nat} {t : Tun} {f : Tun → Tun} (ht : s.tun? n = some t) (hf : ∀ x, x.num = n → (f x).num = n := by intro _ h; exact h) :
    (s.modTun n f).tun? n = some (f t) := by
  have h := find?_map_if (p := fun x : Tun => x.num == n) (f := f) (by simpa using hf) s.tuns
  exact h.trans (congrArg (Option.map f) ht)
theorem State.tun?_mapDraws {s : State} {n : Nat} {t : Tun} (f : Memory → Memory) (ht : s.tun? n = some t) :
    (s.mapDraws n f).tun? n = some (t.mapOwn f) := State.tun?_modTun (f := Tun.mapOwn f) ht
/-- Nothing waits for a slot. -/
theorem drawsOf_nil {s : State} (h : s.draws = []) (num : Nat) : drawsOf s num = s := by
  rw [drawsOf, h]
  rfl

/-! ### The word a slot is given (R139, R141) -/

theorem statusWord_lt {writer state seq : Nat} (hw : writer < 256) (hs : state < 256) : statusWord writer state seq < 2 ^ 64 := by
  unfold statusWord
  omega
theorem slotSeq_lt (w : Nat) : slotSeq w < 2 ^ 32 := Nat.mod_lt _ (by decide)

section
variable {s : State} {tn : Tun} {slot : Nat} {x : TunSlot} (hfind : s.tun? tn.num = some tn) (hruns : tunRuns s tn = true)
  (hx : tn.slot? slot = some x)
include hfind hruns hx

/-- A slot that is firing ends its fire; no draw waits. -/
theorem exec_tunFire_fires (hdraws : s.draws = []) (hf : x.firing = true) : exec (.tunFire tn.num slot) s = .next (endFire s tn x) := by
  have hnone : (endFire s tn x).draws = [] := by
    unfold endFire
    split <;> simp only [putSlot_eq] <;> exact hdraws
  simp only [exec_tunFire, execTunFire, hfind, hx, hf, hruns, Bool.and_true, if_true, drawsOf_nil hnone]
/-- A fill whose time is over is abandoned. -/
theorem exec_fillTimeout_abandons (hdue : fillDue s tn x = true) : exec (.fillTimeout tn.num slot) s = .next (abandonFill s tn slot) := by
  simp only [exec_fillTimeout, execFillTimeout, hfind, hx, hdue, hruns, Bool.and_true, if_true]
end

section
variable {s : State} {tn : Tun} {slot : Nat} (hfind : s.tun? tn.num = some tn) (hslot : tn.Unbroken (slot * tn.drawStride) tn.drawStride)
  (hwf : Memory.wf s.hbm = true)
include hfind hslot hwf

/-- A step writes a slot and changes its tun by `F`: the tun that is found then, and the slot's status. -/
theorem putSlot_modTun {status results : Nat} {F : Tun → Tun} (hst : status < 2 ^ 64) (hF : ∀ y, y.num = tn.num → (F y).num = tn.num) :
    let t := (putSlot s tn slot status results).modTun tn.num F
    t.tun? tn.num = some (F (tn.mapOwn (tn.storeSlot slot status results))) ∧ tn.status t slot = status := by
  rw [putSlot_eq]
  exact ⟨State.tun?_modTun (State.tun?_mapDraws _ hfind) hF, status_storeSlot hslot hwf hst rfl⟩

end

/-- A tun after a fire of a slot whose status word was `w`: counted, the slot's fill state gone (R138). -/
def Tun.fireEnded (w slot : Nat) (t : Tun) : Tun :=
  (if t.bad then { t with faulted := t.faulted + 1 }
    else { t with fires := t.fires + 1, overrun := if !t.accum && slotState w == 1 then t.overrun + 1 else t.overrun }).clearSlot slot
/-- A tun after a fill is abandoned (R137). -/
def Tun.fillEnded (slot : Nat) (t : Tun) : Tun := { t.clearSlot slot with abandoned := t.abandoned + 1 }

theorem Tun.fireEnded_num (w slot : Nat) (t : Tun) : (t.fireEnded w slot).num = t.num := by
  unfold Tun.fireEnded
  split <;> rfl
theorem Tun.fireEnded_good {t : Tun} (h : t.bad = false) (w slot : Nat) : t.fireEnded w slot =
    { t with slots := t.slots.filter (fun y => y.slot != slot), fires := t.fires + 1,
             overrun := if t.accum = false ∧ slotState w = 1 then t.overrun + 1 else t.overrun } := by
  rw [Tun.fireEnded, h, if_neg Bool.false_ne_true]
  simp only [Bool.and_eq_true, Bool.not_eq_true', beq_iff_eq]
  rfl
theorem Tun.fireEnded_bad {t : Tun} (h : t.bad = true) (w slot : Nat) : t.fireEnded w slot =
    { t with slots := t.slots.filter (fun y => y.slot != slot), faulted := t.faulted + 1 } := by
  rw [Tun.fireEnded, h, if_pos rfl]
  rfl
theorem endFire_eq (s : State) (t : Tun) {x : TunSlot} (hheld : x.held = []) : endFire s t x =
    (if t.bad then putSlot s t x.slot (statusWord 0 3 (slotSeq (t.status s x.slot) + 1)) 0
      else putSlot s t x.slot (statusWord x.writer.toNat 1 (slotSeq (t.status s x.slot) + 1)) (fireResults s t x.slot x.elems)).modTun
        t.num (Tun.fireEnded (t.status s x.slot) x.slot) := by
  simp only [endFire, hheld, applyHeld]
  rfl
theorem Tun.slot?_slot {t : Tun} {n : Nat} {x : TunSlot} (h : t.slot? n = some x) : x.slot = n := by simpa using List.find?_some h

section
variable {s : State} {tn : Tun} {x : TunSlot} (hfind : s.tun? tn.num = some tn) (hslot : tn.Unbroken (x.slot * tn.drawStride) tn.drawStride)
  (hwf : Memory.wf s.hbm = true)
include hfind hslot hwf

/-- R138, R139, R141: a fire leaves READY, the next SEQ and the results, and is counted. -/
theorem endFire_ready (hheld : x.held = []) (hbad : tn.bad = false) (hformat : tn.formatOk = true) :
    let w := tn.status s x.slot
    let at_ := x.slot * tn.drawStride
    ∃ tn', (endFire s tn x).tun? tn.num = some tn' ∧
      tn' = { tn with slots := tn.slots.filter (fun y => y.slot != x.slot), own := tn'.own, fires := tn.fires + 1,
                      overrun := if tn.accum = false ∧ slotState w = 1 then tn.overrun + 1 else tn.overrun } ∧
      tn'.status (endFire s tn x) x.slot = x.writer.toNat * 2 ^ 40 + 2 ^ 32 + (slotSeq w + 1) % 2 ^ 32 ∧
      ∀ m, m < tn.m → drawRead (endFire s tn x) tn' (at_ + 8 + m * tn.resSize) tn.resSize = fireResult tn x.elems
        (if tn.accum = true ∧ slotState w = 1 then drawRead s tn (at_ + 8 + m * tn.resSize) tn.resSize else tn.bias.getD m 0) m := by
  intro w at_
  have heq := endFire_eq s tn hheld
  rw [hbad, if_neg Bool.false_ne_true] at heq
  have hword : statusWord x.writer.toNat 1 (slotSeq w + 1) < 2 ^ 64 := statusWord_lt x.writer.isLt (by omega)
  obtain ⟨hfound, hstatus⟩ := putSlot_modTun hfind hslot hwf (results := fireResults s tn x.slot x.elems) (F := Tun.fireEnded w x.slot) hword
    fun y h => (y.fireEnded_num _ _).trans h
  rw [← heq, Tun.fireEnded_good (t := tn.mapOwn _) hbad] at hfound
  refine ⟨_, hfound, rfl, ?_, fun m hm => ?_⟩
  · rw [heq]
    exact hstatus.trans (by simp [statusWord])
  · have hread := result_storeSlot hslot (s := endFire s tn x) hwf hm (Tun.resSize_pos hformat) (by rw [heq, putSlot_eq]; rfl)
    refine (drawRead_congr (t := tn) ?_ _ _ _).trans (hread.trans ((fireResults_read hformat x.slot x.elems hm).trans ?_))
    · rfl
    · simp only [fireAcc, Bool.and_eq_true, beq_iff_eq]
      rfl
/-- R138: with bad operator memory it leaves FAULTED and no results. -/
theorem endFire_faulted (hheld : x.held = []) (hbad : tn.bad = true) :
    ∃ tn', (endFire s tn x).tun? tn.num = some tn' ∧
      tn' = { tn with slots := tn.slots.filter (fun y => y.slot != x.slot), own := tn'.own, faulted := tn.faulted + 1 } ∧
      tn'.status (endFire s tn x) x.slot = 3 * 2 ^ 32 + (slotSeq (tn.status s x.slot) + 1) % 2 ^ 32 := by
  have heq := endFire_eq s tn hheld
  rw [hbad, if_pos rfl] at heq
  have hword : statusWord 0 3 (slotSeq (tn.status s x.slot) + 1) < 2 ^ 64 := statusWord_lt (by omega) (by omega)
  obtain ⟨hfound, hstatus⟩ := putSlot_modTun hfind hslot hwf (results := 0) (F := Tun.fireEnded (tn.status s x.slot) x.slot) hword
    fun y h => (y.fireEnded_num _ _).trans h
  rw [← heq, Tun.fireEnded_bad (t := tn.mapOwn _) hbad] at hfound
  refine ⟨_, hfound, rfl, ?_⟩
  rw [heq]
  exact hstatus.trans (by simp [statusWord])
/-- R137, R141: an abandoned fill leaves ABANDONED with the SEQ as it was. -/
theorem abandonFill_abandoned :
    ∃ tn', (abandonFill s tn x.slot).tun? tn.num = some tn' ∧
      tn' = { tn with slots := tn.slots.filter (fun y => y.slot != x.slot), own := tn'.own, abandoned := tn.abandoned + 1 } ∧
      tn'.status (abandonFill s tn x.slot) x.slot = 2 * 2 ^ 32 + slotSeq (tn.status s x.slot) := by
  have hword : statusWord 0 2 (slotSeq (tn.status s x.slot)) < 2 ^ 64 := statusWord_lt (by omega) (by omega)
  obtain ⟨hfound, hstatus⟩ := putSlot_modTun hfind hslot hwf (results := 0) (F := Tun.fillEnded x.slot) hword fun y h => h
  refine ⟨_, hfound, rfl, hstatus.trans ?_⟩
  rw [statusWord, Nat.mod_eq_of_lt (slotSeq_lt _), Nat.zero_mul, Nat.zero_add]
end

end Sys2Proof.Machine
end

section
/-! PROOFS. What the reads of an install leave alone (R128, R132): everything of the device but bytes gone home, lines, translations and poison. -/

namespace Sys2Proof.Machine

-- One proof at a time, as in the tests: proofs that wait for earlier ones would each hold a thread and its stack.
set_option Elab.async false

/-! ### Only the memory system has changed -/

/-- Of the whole device only bytes at the home, lines, translations, poison and the record of slots met have changed. -/
def MemoryOnly (s t : State) : Prop :=
  t = { s with hbm := t.hbm, caches := t.caches, tlb := t.tlb, poison := t.poison, halves := t.halves, slotHits := t.slotHits }

namespace MemoryOnly
variable {s t u : State}

protected theorem refl (s : State) : MemoryOnly s s := rfl
protected theorem trans (h : MemoryOnly s t) (h' : MemoryOnly t u) : MemoryOnly s u := by
  rw [MemoryOnly, h', h]
theorem groups (h : MemoryOnly s t) : t.groups = s.groups := by rw [h]
theorem tuns (h : MemoryOnly s t) : t.tuns = s.tuns := by rw [h]
theorem draws (h : MemoryOnly s t) : t.draws = s.draws := by rw [h]
theorem of {α : Type} {r : State × α} {x : α} (h : MemoryOnly s r.1) (heq : r = (t, x)) : MemoryOnly s t := by rwa [heq] at h
/-- A loop whose steps change nothing else. -/
theorem foldl {α β : Type} (p : β → State) {f : β → α → β} (hf : ∀ q x, MemoryOnly (p q) (p (f q x))) (l : List α) (q : β) :
    MemoryOnly (p q) (p (l.foldl f q)) :=
  foldl_keeps (P := fun r => MemoryOnly (p q) (p r)) (.refl _) fun h => h.trans (hf _ _)

/-! ### Translation (R380 to R382) -/

theorem setEntryBit (s : State) (i : Nat) (as : List Nat) : MemoryOnly s (setEntryBit s i as) :=
  (foldl id (f := fun s a => homeWrite s a 8 (homeRead s a 8 ||| 2 ^ i)) (fun _ _ => rfl) as s).trans rfl
theorem walkFill (s : State) (c : Ctx) (fetch : Bool) (va : Nat) : MemoryOnly s (walkFill s c fetch va).1 := by
  unfold Machine.walkFill
  extract_lets w s1
  have h1 : MemoryOnly s s1 := setEntryBit s 6 w.1
  split
  · exact h1
  · exact h1.trans rfl
theorem translate (s : State) (c : Ctx) (fetch : Bool) (va : Nat) : MemoryOnly s (translate s c fetch va).1 := by
  unfold Machine.translate
  split
  · rfl
  · split
    · rfl
    · exact walkFill s c fetch va
theorem translateFor (s : State) (c : Ctx) (fetch write : Bool) (va : Nat) : MemoryOnly s (translateFor s c fetch write va).1 := by
  have h := translate s c fetch va
  unfold Machine.translateFor
  split <;> rename_i heq
  · exact h.of heq
  · split
    · exact (h.of heq).trans ((show MemoryOnly _ (dropStale _ _) from rfl).trans (walkFill _ c fetch va))
    · exact h.of heq
theorem markDirty (s : State) (e : TlbEntry) : MemoryOnly s (markDirty s e) := by
  unfold Machine.markDirty
  split
  · rfl
  · exact (setEntryBit s 7 _).trans rfl
theorem globalCheck (s : State) (c : Ctx) (need : Need) (addr : DWord) (n : Nat) : MemoryOnly s (globalCheck s c need addr n).1 := by
  have h := translateFor s c need.x need.w addr.toNat
  unfold Machine.globalCheck
  extract_lets
  split
  · rfl
  · split
    · rfl
    · split <;> rename_i heq
      · exact h.of heq
      · split
        · exact h.of heq
        · split
          · exact (h.of heq).trans (markDirty _ _)
          · exact h.of heq

/-! ### Loads through the L1 (R55, R57) -/

theorem writeBack (s : State) (core line : Nat) : MemoryOnly s (writeBack s core line) := by
  unfold Machine.writeBack
  split
  · rfl
  · split
    · rfl
    · extract_lets s1 s2 s3
      have h1 : MemoryOnly s s1 := rfl
      have h2 : MemoryOnly s1 s2 := by dsimp only [s2]; split <;> rfl
      have h3 : MemoryOnly s2 s3 := by dsimp only [s3]; split <;> rfl
      exact ((h1.trans h2).trans h3).trans rfl
theorem flushLine (s : State) (core line : Nat) : MemoryOnly s (flushLine s core line) := (writeBack s core line).trans rfl
theorem makeRoom (s : State) (k : CacheKind) (core : Nat) : MemoryOnly s (makeRoom s k core) := by
  unfold Machine.makeRoom
  split
  · rfl
  · extract_lets l
    split
    · rfl
    · split
      · unfold evictLine
        split
        · exact flushLine s core _
        · rfl
      · rfl
theorem fillLine (s : State) (k : CacheKind) (core line : Nat) (va : Nat × Nat) : MemoryOnly s (fillLine s k core line va) := by
  unfold Machine.fillLine
  split
  · split <;> rfl
  · exact (makeRoom s k core).trans rfl
theorem noteRead (s : State) (core pa n : Nat) : MemoryOnly s (noteRead s core pa n) := by
  unfold Machine.noteRead
  split
  · extract_lets
    split <;> rfl
  · rfl
theorem settleRead (s : State) (core pa n : Nat) : MemoryOnly s (settleRead s core pa n) := by
  unfold Machine.settleRead
  split
  · split
    · exact writeBack s core _
    · rfl
  · rfl
theorem l1Load (s : State) (core cp va pa n : Nat) (decoded : Bool) : MemoryOnly s (l1Load s core cp va pa n decoded).1 := by
  unfold Machine.l1Load
  split
  · exact settleRead s core pa n
  · extract_lets held s1 s2
    have h2 : MemoryOnly s1 s2 := by dsimp only [s2]; split <;> rfl
    have h : MemoryOnly s s2 := (fillLine s .l1 core _ _).trans h2
    split
    · exact h.trans (noteRead s2 core pa n)
    · exact h
theorem lineLoad (s : State) (a : Agent) (o : Ord) (va pa n : Nat) (decoded : Bool) : MemoryOnly s (lineLoad s a o va pa n decoded).1 := by
  unfold Machine.lineLoad
  split
  · exact flushLine s _ _
  · exact l1Load s _ _ _ _ _ _
theorem elemLoad (s : State) (a : Agent) (o : Ord) (va frame e : Nat) : MemoryOnly s (elemLoad s a o va frame e).1 := by
  unfold Machine.elemLoad
  extract_lets p r0 r1
  have h : MemoryOnly s r0.1 := lineLoad s a o va p 1 true
  split
  · exact h
  · exact h.trans (lineLoad _ a o va (p + 1) 1 true)
theorem elemsLoad (s : State) (a : Agent) (o : Ord) (va frame e n : Nat) : MemoryOnly s (elemsLoad s a o va frame e n).1 := by
  induction n generalizing s e with
  | zero => rfl
  | succ n ih => exact (elemLoad s a o va frame e).trans (ih _ _)
/-- A weak load of ordinary memory. -/
theorem loadPlain (s : State) (a : Agent) {o : Ord} (ho : o.order = 0) (va n pa : Nat) (e : TlbEntry) :
    MemoryOnly s (loadPlace s a o va n (.glob (.plain pa e))).s := by
  unfold loadPlace
  dsimp only
  split
  · rfl
  · rw [readSide_weak ho]
    exact lineLoad s a _ va pa n false
/-- A weak load of a decoded page. -/
theorem loadDecoded (s : State) (a : Agent) {o : Ord} (ho : o.order = 0) (va n frame i : Nat) (e : TlbEntry) :
    MemoryOnly s (loadPlace s a o va n (.glob (.decoded frame i e))).s := by
  unfold loadPlace
  dsimp only
  split
  · rfl
  · rw [readSide_weak ho]
    exact elemsLoad s a _ va frame i n

/-! ### Reads of an install (R128, R131) -/

theorem instByte (s : State) (a : Agent) (addr : DWord) : MemoryOnly s (instByte s a addr).1 := by
  have h := globalCheck s a.ctx needR addr 1
  unfold Machine.instByte
  split <;> rename_i heq
  · exact ((h.of heq).trans (writeBack _ _ _)).trans (loadPlain _ a rfl _ _ _ _)
  · exact (((h.of heq).trans (writeBack _ _ _)).trans (writeBack _ _ _)).trans (loadDecoded _ a rfl _ _ _ _ _)
  · exact h.of heq
theorem instBytes (a : Agent) (addr : DWord) (n : Nat) (m : InstRead) : MemoryOnly m.s (instBytes a addr n m).1.s := by
  refine foldl (fun q : InstRead × Nat => q.1.s) (fun q i => ?_) (upTo n) (m, 0)
  have h := instByte q.1.s a (addr + dw i)
  split
  · rfl
  · split <;> rename_i heq <;> exact h.of heq
theorem instMany (a : Agent) (addr : DWord) (count stride n : Nat) (m : InstRead) : MemoryOnly m.s (instMany a addr count stride n m).1.s :=
  foldl (fun q : InstRead × List Nat => q.1.s) (fun q i => instBytes a (addr + dw (i * stride)) n q.1) (upTo count) (m, [])
theorem windowFrames (s : State) (c : Ctx) (va n ptype : Nat) (num : Option Nat) : MemoryOnly s (windowFrames s c va n ptype num).1 := by
  refine foldl (fun q : State × Option (List Nat × Nat) => q.1) (fun q i => ?_) (upTo (windowPages n)) (s, some ([], num.getD 0))
  have h := translate q.1 c false (va + 65536 * i)
  split
  · rfl
  · split
    · rfl
    · split <;> rename_i heq
      · exact h.of heq
      · extract_lets
        split <;> exact h.of heq
end MemoryOnly

end Sys2Proof.Machine
end

section
/-! PROOFS. Installs (O38, O47): how one begins (R125, R128 to R132), and how it ends. -/

namespace Sys2Proof.Machine

-- One proof at a time, as in the tests: proofs that wait for earlier ones would each hold a thread and its stack.
set_option Elab.async false

/-! ### The end of an install, as its group sees it (R258) -/

/-- The installing group: the status of its latest install, and the operation complete. -/
def Group.installEnds (g : Group) (flight : Nat) (num : BitVec 12) (status : Nat) (addr : DWord) : Group :=
  (if g.instOp = flight then { g with instTun := num, instStatus := BitVec.ofNat 8 status, instAddr := addr } else g).flightDone flight

theorem Group.installEnds_uid (g : Group) (flight : Nat) (num : BitVec 12) (status : Nat) (addr : DWord) :
    (g.installEnds flight num status addr).uid = g.uid := by
  unfold Group.installEnds
  split <;> rfl
/-- Of its latest install a group has the status. -/
theorem Group.installEnds_own {g : Group} {flight : Nat} (h : g.instOp = flight) (num : BitVec 12) (status : Nat) (addr : DWord) :
    g.installEnds flight num status addr =
      { g with instTun := num, instStatus := BitVec.ofNat 8 status, instAddr := addr, flights := (g.flightDone flight).flights } := by
  rw [Group.installEnds, if_pos h]
  rfl
theorem Group.flightDone_done (g : Group) (op : Nat) : ∀ f ∈ (g.flightDone op).flights, f.op = op → f.done = true := by
  intro f hf hop
  obtain ⟨x, -, rfl⟩ := List.mem_map.1 hf
  by_cases h : x.op = op
  · simp [h]
  · simp [h] at hop
/-- Its counters fall only later (R31). -/
theorem Group.flightDone_counter (g : Group) (op path : Nat) : (g.flightDone op).counter path = g.counter path := by
  simp only [Group.counter, Group.flightDone, List.filter_map, List.length_map]
  congr 2
  funext f
  simp only [Function.comp]
  split <;> rfl
theorem installEnd_eq (s : State) {w : Installer} (h : w.packet = none) (num : BitVec 12) (status : Nat) (addr : DWord) :
    installEnd s w num status addr = s.modGroup w.group fun g => g.installEnds w.flight num status addr := by
  unfold installEnd
  rw [h]
  rfl

/-! ### The loads of an install, and its end (R132) -/

/-- What the tun keeps of its feed pages as they are at the install (R124). -/
def Tun.keepFeed (m : Memory) (t : Tun) : Tun := { t with own := t.feedPages.foldl (fun x p => memMove x p m p 65536) [] }
/-- A tun whose operator memory has been loaded. -/
def Tun.loaded (rows scales bias : List Nat) (t : Tun) : Tun :=
  { t with installing := false, op := rows.map (rowCodes t.opTy t.k), scales := scales.map (fun v => (upTo t.scalesPerRow).map (fun j => bits v (8 * j) 8)),
           bias := bias }

/-- After its reads an install ends with READFAULT and the number unbound, or with the tun loaded and its draw slots cleared. -/
theorem installFinish_cases {s : State} {t : Tun} (hs : s.Canonical) (hp : t.packet = none) : ∃ u, MemoryOnly s u ∧ u.Canonical ∧
    ((∃ addr, installFinish s t = State.modGroup { u with tuns := u.tuns.filter (fun y => y.num != t.num) } t.group fun g =>
        g.installEnds t.flight (BitVec.ofNat 12 t.num) instReadfault addr) ∨
      ∃ rows scales bias, installFinish s t = ((clearDraws (u.modTun t.num (Tun.keepFeed u.hbm)) t).modTun t.num (Tun.loaded rows scales bias)).modGroup
        t.group fun g => g.installEnds t.flight (BitVec.ofNat 12 t.num) instOk 0) := by
  unfold installFinish
  extract_lets a w n r c b
  have hr : MemoryOnly s r.1.s ∧ r.1.s.Canonical := ⟨.instMany .., .instMany hs⟩
  have hc : MemoryOnly s c.1.s ∧ c.1.s.Canonical := by
    dsimp only [c]
    split
    · exact ⟨hr.1.trans (.instMany ..), .instMany hr.2⟩
    · exact hr
  have hb : MemoryOnly s b.1.s ∧ b.1.s.Canonical := by
    dsimp only [b]
    split
    · exact hc
    · exact ⟨hc.1.trans (.instMany ..), .instMany hc.2⟩
  refine ⟨b.1.s, hb.1, hb.2, ?_⟩
  split
  · next x hbad => exact .inl ⟨x, installEnd_eq _ hp _ _ _⟩
  · exact .inr ⟨r.2, c.2, b.2, installEnd_eq _ hp _ _ _⟩

/-- A byte that is blank stays so when blanks are written. -/
theorem Tun.store_zero_keeps (t : Tun) (off n : Nat) {m : Memory} {x : Nat} (hwf : Memory.wf m = true) (h : memRead m x = 0) :
    memRead (t.store off 0 n m) x = 0 := by
  induction n generalizing off m with
  | zero => exact h
  | succ n ih =>
    rw [Tun.store]
    refine ih (off + 1) (memWrite_wf _ _ _ hwf) ?_
    rw [memRead_memWrite m 0 _ _ _ hwf]
    split
    · rfl
    · exact h
theorem Tun.store_zero (t : Tun) (off n : Nat) {m : Memory} (hwf : Memory.wf m = true) {k : Nat} (hk : k < n) :
    memRead (t.store off 0 n m) (t.drawAt (off + k)) = 0 := by
  induction n generalizing off m k with
  | zero => omega
  | succ n ih =>
    have hwrite := memWrite_wf m (t.drawAt off) (BitVec.ofNat 8 0) hwf
    rw [Tun.store]
    cases k with
    | zero =>
      refine t.store_zero_keeps (off + 1) n hwrite ?_
      rw [memRead_memWrite m 0 _ _ _ hwf, if_pos (by rw [Nat.add_zero])]
      rfl
    | succ k =>
      rw [show off + (k + 1) = off + 1 + k by omega]
      exact ih (off + 1) hwrite (by omega)
theorem drawRead_zero {s : State} {t : Tun} {off n : Nat} (h : ∀ k, k < n → memRead s.hbm (t.drawAt (off + k)) = 0) : drawRead s t off n = 0 := by
  induction n generalizing off with
  | zero => rfl
  | succ n ih =>
    have hbyte : memRead s.hbm (t.drawAt off) = 0 := h 0 (by omega)
    rw [drawRead, ih fun k hk => by rw [Nat.add_assoc, Nat.add_comm 1]; exact h _ (by omega)]
    simp [homeRead, memReadNat, hbyte]
/-- The bytes of a draw window when every slot is cleared. -/
def Tun.clears (t : Tun) : Memory → Memory := t.store 0 0 (t.nslots * t.drawStride)
theorem clearDraws_eq (s : State) (t : Tun) : clearDraws s t = s.mapDraws t.num t.clears := drawWrite_eq ..
/-- R132: every draw slot is EMPTY after an install. -/
theorem status_clearDraws {s t : State} {tn : Tun} (hwf : Memory.wf s.hbm = true) (ht : t.hbm = (clearDraws s tn).hbm) {k : Nat} (hk : k < tn.nslots) :
    tn.status t k = 0 := by
  have hslot : k * tn.drawStride + tn.drawStride ≤ tn.nslots * tn.drawStride := by
    rw [← Nat.succ_mul]
    exact Nat.mul_le_mul_right _ hk
  refine drawRead_zero fun i hi => ?_
  rw [ht, clearDraws_eq]
  have := tn.store_zero 0 (tn.nslots * tn.drawStride) hwf (k := k * tn.drawStride + i) (by have := tn.le_drawStride; omega)
  rwa [Nat.zero_add] at this

/-- R125, R132, R258: what the end of an install leaves. -/
theorem installCompletion_ends {s : State} {tn : Tun} {g : Group} (hfind : s.tun? tn.num = some tn) (hs : s.Canonical) (hruns : tunRuns s tn = true)
    (hinst : tn.installing = true) (hdraws : s.draws = []) (hp : tn.packet = none) (hg : s.group? tn.group = some g) (hop : g.instOp = tn.flight) :
    ∃ t g', exec (.installCompletion tn.num) s = .next t ∧ t.group? tn.group = some g' ∧ OtherGroupsKept s t tn.group ∧
      (∀ f ∈ g'.flights, f.op = tn.flight → f.done = true) ∧ g'.instTun.toNat = tn.num % 4096 ∧
      ((g'.instStatus = 0 ∧ ∃ tn', t.tun? tn.num = some tn' ∧ tn'.installing = false ∧ tn'.desc = tn.desc ∧ ∀ k, k < tn.nslots → tn'.status t k = 0) ∨
        (g'.instStatus = 5 ∧ t.tun? tn.num = none)) := by
  obtain ⟨u, hu, huwf, hend⟩ := installFinish_cases hs hp
  have hug : u.group? tn.group = some g := (State.group?_congr hu.groups _).trans hg
  have hut : u.tun? tn.num = some tn := by rw [State.tun?, hu.tuns]; exact hfind
  have hud : u.draws = [] := hu.draws.trans hdraws
  have hexec (hd : (installFinish s tn).draws = []) : exec (.installCompletion tn.num) s = .next (installFinish s tn) := by
    simp only [exec_installCompletion, execInstallCompletion, hfind, hinst, hruns, Bool.and_true, if_true, drawsOf_nil hd]
  have hgroup (v : State) (status : Nat) (addr : DWord) (hv : v.groups = u.groups) :
      let t := v.modGroup tn.group fun g => g.installEnds tn.flight (BitVec.ofNat 12 tn.num) status addr
      t.group? tn.group = some (g.installEnds tn.flight (BitVec.ofNat 12 tn.num) status addr) ∧ OtherGroupsKept s t tn.group := by
    refine ⟨State.group?_modGroup_self ((State.group?_congr hv _).trans hug) fun x => x.installEnds_uid .., fun k hk => ?_⟩
    rw [State.group?_modGroup_other _ hk fun x => x.installEnds_uid ..]
    exact State.group?_congr (hv.trans hu.groups) k
  have hnum : (BitVec.ofNat 12 tn.num).toNat = tn.num % 4096 := BitVec.toNat_ofNat ..
  obtain ⟨addr, heq⟩ | ⟨rows, scales, bias, heq⟩ := hend
  · obtain ⟨hself, hother⟩ := hgroup { u with tuns := u.tuns.filter (fun y => y.num != tn.num) } instReadfault addr rfl
    rw [← heq] at hself hother
    rw [Group.installEnds_own hop] at hself
    refine ⟨_, _, hexec (by simpa [heq] using hud), hself, hother, g.flightDone_done _, hnum, .inr ⟨rfl, ?_⟩⟩
    rw [heq]
    exact List.find?_eq_none.2 fun x hx => by simpa using (List.mem_filter.1 hx).2
  · have hcleared := clearDraws_eq (u.modTun tn.num (Tun.keepFeed u.hbm)) tn
    obtain ⟨hself, hother⟩ := hgroup ((clearDraws (u.modTun tn.num (Tun.keepFeed u.hbm)) tn).modTun tn.num (Tun.loaded rows scales bias)) instOk 0
      (by simp [hcleared])
    rw [← heq] at hself hother
    rw [Group.installEnds_own hop] at hself
    have hfound : (installFinish s tn).tun? tn.num = some (Tun.loaded rows scales bias (Tun.mapOwn tn.clears (tn.keepFeed u.hbm))) := by
      rw [heq, hcleared]
      exact State.tun?_modTun (State.tun?_mapDraws _ (State.tun?_modTun hut))
    refine ⟨_, _, hexec (by simpa [heq, hcleared] using hud), hself, hother, g.flightDone_done _, hnum, .inl ⟨rfl, _, hfound, rfl, rfl, fun k hk => ?_⟩⟩
    exact status_clearDraws (s := u.modTun tn.num (Tun.keepFeed u.hbm)) (tn := tn) huwf.hbm (by simp [heq]) hk

/-! ### The checks of an install (R125, R128 to R132) -/

/-- A tun number found in a window's pages has twelve bits. -/
theorem windowFrames_num_lt {s t : State} {c : Ctx} {va n ptype num : Nat} {fs : List Nat}
    (h : windowFrames s c va n ptype none = (t, some (fs, num))) : num < 4096 := by
  have hkeeps : ∀ fs k, (windowFrames s c va n ptype none).2 = some (fs, k) → k < 4096 := by
    refine foldl_keeps (P := fun q : State × Option (List Nat × Nat) => ∀ fs k, q.2 = some (fs, k) → k < 4096) (fun fs k h => ?_) fun {q i} hq => ?_
    · cases h
      decide
    · split
      · exact hq
      · next k0 heq =>
        have hk0 := hq _ _ heq
        split
        · exact fun _ _ h => nomatch h
        · split
          · exact fun _ _ h => nomatch h
          · next e _ =>
            extract_lets pa want
            have hwant : want < 4096 := by
              dsimp only [want]
              split
              · exact e.tunid.isLt
              · exact hk0
            split
            · intro fs k h
              cases h
              exact hwant
            · exact fun _ _ h => nomatch h
  exact hkeeps fs num (by rw [h])

/-- The installing group once the number of the tun is known. -/
def Group.installNames (g : Group) (flight : Nat) (num : BitVec 12) : Group := if g.instOp = flight then { g with instTun := num } else g
theorem Group.installNames_uid (g : Group) (flight : Nat) (num : BitVec 12) : (g.installNames flight num).uid = g.uid := by
  unfold Group.installNames
  split <;> rfl
theorem Group.installNames_own {g : Group} {flight : Nat} (h : g.instOp = flight) (num : BitVec 12) :
    g.installNames flight num = { g with instTun := num } := if_pos h

/-- What an install that begins leads to: its end with a status, or a tun that installs. -/
inductive InstallBegins (s : State) (w : Installer) : State → Prop where
  | ends {u : State} (hu : MemoryOnly s u) (num : BitVec 12) {status : Nat} (hst : status ∈ [1, 2, 3, 4, 5]) (addr : DWord) :
      InstallBegins s w (u.modGroup w.group fun g => g.installEnds w.flight num status addr)
  | binds {u : State} (hu : MemoryOnly s u) (num : BitVec 12) {tn : Tun} (hnum : tn.num = num.toNat) (hinst : tn.installing = true)
      (hgroup : tn.group = w.group) :
      InstallBegins s w { u.modGroup w.group (fun g => g.installNames w.flight num) with tuns := tn :: u.tuns }

theorem InstallBegins.refused {s u : State} {w : Installer} (hp : w.packet = none) (hu : MemoryOnly s u) {status : Nat} (hst : status ∈ [1, 2, 3, 4, 5])
    (num : BitVec 12) (addr : DWord) : InstallBegins s w (installEnd u w num status addr) := by
  rw [installEnd_eq _ hp]
  exact .ends hu num hst addr

/-- A new install reads its descriptor, and each check of R125 and R128 to R131 that fails ends it. -/
theorem installStart_begins (s : State) {w : Installer} (hp : w.packet = none) (da : DWord) : InstallBegins s w (installStart s w da) := by
  unfold installStart
  extract_lets a q t fn dn
  have hq : MemoryOnly s q.1.s := .instMany a da 16 8 8 { s := s }
  split
  · exact .refused hp hq (by decide) _ _
  · split
    · exact .refused hp hq (by decide) _ _
    · have h1 := hq.trans (.windowFrames q.1.s a.ctx t.feedVa (min fn 65536) 1 none)
      split <;> rename_i heq
      · exact .refused hp (h1.of heq) (by decide) _ _
      · next num =>
        have hnum : num < 4096 := windowFrames_num_lt heq
        have h2 := (h1.of heq).trans (.windowFrames _ a.ctx t.feedVa fn 1 (some num))
        extract_lets n
        split <;> rename_i heq
        · exact .refused hp (h2.of heq) (by decide) _ _
        · have h3 := (h2.of heq).trans (.windowFrames _ a.ctx t.drawVa dn 2 (some num))
          split <;> rename_i heq
          · exact .refused hp (h3.of heq) (by decide) _ _
          · have h4 := h3.of heq
            extract_lets t'
            split
            · exact .refused hp h4 (by decide) _ _
            · split
              · exact .refused hp h4 (by decide) _ _
              · split
                · exact .refused hp h4 (by decide) _ _
                · exact .binds h4 n (tn := t') (by simp [t', n, Nat.mod_eq_of_lt hnum]) rfl rfl

end Sys2Proof.Machine
end

section
/-! PROOFS. TINST, TFREE and TSTAT (O38). -/

namespace Sys2Proof.Machine

-- One proof at a time, as in the tests: proofs that wait for earlier ones would each hold a thread and its stack.
set_option Elab.async false

/-! ### Issue with room (R29, R31) -/

theorem withRoom_room {reg : Bool} {path : Option Nat} {s : State} {g : Group} {sp : Split} {k : State} (hreg : reg = true → sp.pend.length < 16)
    (hpath : ∀ p, path = some p → g.counter p < 63) : withRoom reg path s g sp k = k := by
  unfold withRoom
  rw [if_neg (by simpa using hreg)]
  split
  · next p => exact if_neg (Nat.not_le.2 (hpath p rfl))
  · rfl
theorem Group.counter_addFlight (g : Group) (path op : Nat) (done : Bool) : (g.addFlight path op done).counter path = g.counter path + 1 := by
  simp [Group.counter, Group.addFlight, List.filter_append]
/-- Whether one split alone has changed shows in the splits. -/
theorem OnlySplit.congr {g g' g'' : Group} {sp sp' : Split} (h : OnlySplit g g' sp sp') (hs : g''.splits = g'.splits) : OnlySplit g g'' sp sp' := by
  have hk (k : Nat) : g''.split? k = g'.split? k := by rw [Group.split?, hs]; rfl
  exact ⟨(hk _).trans h.split, fun k hne => (hk k).trans (h.others k hne)⟩

section
variable {h : Hdr} {f : LongF} {s : State} {g : Group} {sp : Split}

/-! ### TINST (R256) -/

/-- The group once its TINST is counted and its latest install begun (R258). -/
def Group.installing (g : Group) (op : Nat) : Group :=
  Group.addFlight { g with instOp := op, instTun := 0xFFF, instStatus := 0xFF, instAddr := 0 } 5 op false

theorem Group.installing_counter (g : Group) (op : Nat) : (g.installing op).counter 5 = g.counter 5 + 1 := Group.counter_addFlight ..

theorem exec_tinst_begins (hr : Ready (.tinst h f) h s g sp) (hk : g.kGuard h = true) (hcount : g.counter 5 < 63)
    (hlow : (g.sReg f.a.toNat).toNat < 2 ^ 54) (halign : (g.sReg f.a.toNat).toNat % 128 = 0) :
    ∃ w : Installer, w.packet = none ∧ w.group = g.uid ∧ w.flight = s.uid ∧
      exec (.tinst h f) s = .next (installStart (finish { s with uid := s.uid + 1 } (g.installing s.uid) sp 12) w (g.sReg f.a.toNat)) := by
  refine ⟨⟨laneAgent s (g.installing s.uid) sp, g.uid, s.uid, none⟩, rfl, rfl, rfl, ?_⟩
  refine (exec_uniform (exec_tinst h f s) hr rfl rfl).trans ?_
  rw [if_pos hk]
  dsimp only
  rw [if_neg (Nat.not_le.2 hlow), if_neg (by simp [halign]), withRoom_room (by simp) (by simpa using hcount)]
  rfl

/-- R256, R258: TINST is counted, and either ends its install with a status or binds the number. -/
theorem tinst_begins (hr : Ready (.tinst h f) h s g sp) (hk : g.kGuard h = true) (hcount : g.counter 5 < 63)
    (hlow : (g.sReg f.a.toNat).toNat < 2 ^ 54) (halign : (g.sReg f.a.toNat).toNat % 128 = 0) :
    ∃ t g' sp', exec (.tinst h f) s = .next t ∧ t.group? g.uid = some g' ∧ OnlySplit g g' sp sp' ∧ AtPc sp sp' (sp.pc + 12) ∧
      g' = { g with splits := g'.splits, flights := g'.flights, instOp := s.uid, instTun := g'.instTun, instStatus := g'.instStatus, instAddr := g'.instAddr } ∧
      g'.counter 5 = g.counter 5 + 1 ∧
      ((g'.instStatus = 0xFF ∧ ∃ tn, t.tuns = tn :: s.tuns ∧ tn.num = g'.instTun.toNat ∧ tn.installing = true ∧ tn.group = g.uid) ∨
        (g'.instStatus.toNat ∈ [1, 2, 3, 4, 5] ∧ t.tuns = s.tuns)) := by
  obtain ⟨w, hp, hwg, hwf, hexec⟩ := exec_tinst_begins hr hk hcount hlow halign
  obtain ⟨hgroup, hsplit, hpc⟩ := finish_spec { s with uid := s.uid + 1 } g (g.installing s.uid) sp 12 hr.group hr.split rfl rfl
  have hbegins := installStart_begins (finish { s with uid := s.uid + 1 } (g.installing s.uid) sp 12) hp (g.sReg f.a.toNat)
  generalize hs1 : finish { s with uid := s.uid + 1 } (g.installing s.uid) sp 12 = s1 at hbegins hexec hgroup
  have htuns : s1.tuns = s.tuns := by rw [← hs1]; rfl
  have hcounter : ((g.installing s.uid).setSplit (sp.next 12)).counter 5 = g.counter 5 + 1 := g.installing_counter s.uid
  generalize hres : installStart s1 w (g.sReg f.a.toNat) = t at hbegins hexec
  cases hbegins with
  | @ends u hu num status hst addr =>
    have hfound : u.group? g.uid = some ((g.installing s.uid).setSplit (sp.next 12)) := (State.group?_congr hu.groups _).trans hgroup.group
    have hself := State.group?_modGroup_self (f := fun g => g.installEnds s.uid num status addr) hfound fun x => x.installEnds_uid ..
    rw [Group.installEnds_own (g := (g.installing s.uid).setSplit (sp.next 12)) (flight := s.uid) rfl] at hself
    rw [hwg, hwf] at hexec
    refine ⟨_, _, sp.next 12, hexec, hself, hsplit.congr rfl, hpc, rfl, (Group.flightDone_counter _ s.uid 5).trans hcounter, .inr ⟨?_, hu.tuns.trans htuns⟩⟩
    rw [BitVec.toNat_ofNat]
    clear hself hexec hres
    revert status
    decide
  | @binds u hu num tn hnum hinst htn =>
    have hfound : u.group? g.uid = some ((g.installing s.uid).setSplit (sp.next 12)) := (State.group?_congr hu.groups _).trans hgroup.group
    have hself := State.group?_modGroup_self (f := fun g => g.installNames s.uid num) hfound fun x => x.installNames_uid ..
    rw [Group.installNames_own (g := (g.installing s.uid).setSplit (sp.next 12)) (flight := s.uid) rfl] at hself
    rw [hwg, hwf] at hexec
    exact ⟨_, _, sp.next 12, hexec, hself, hsplit.congr rfl, hpc, rfl, hcounter, .inl ⟨rfl, tn, by rw [hu.tuns, htuns], hnum, hinst, htn.trans hwg⟩⟩

/-! ### TFREE (R133, R257) -/

/-- A tun with no install, fire or draw under way is unbound at once. -/
theorem freeTun_idle {t : Tun} (hfind : s.tun? t.num = some t) (hinst : t.installing = false) (hslots : ∀ x ∈ t.slots, x.firing = false)
    (hdraws : s.draws = []) : freeTun s t = { s with tuns := s.tuns.filter (fun x => x.num != t.num) } := by
  have hnone : t.slots.filter (·.firing) = [] := List.filter_eq_nil_iff.2 fun x hx => by simp [hslots x hx]
  simp only [freeTun, hinst, Bool.false_eq_true, if_false, hfind, endFires, hnone, List.foldl_nil, drawsOf_nil hdraws, failDraws, hdraws, List.filter_nil]

theorem exec_tfree_ends (hr : Ready (.tfree h f) h s g sp) (hk : g.kGuard h = true) (hcount : g.counter 5 < 63) (hnum : (g.sReg f.a.toNat).toNat < 4096) :
    exec (.tfree h f) s = .next
      (let t := accessEnd s g sp 12 5 sp.acqSig none
       match s.tun? (g.sReg f.a.toNat).toNat with
       | some tn => if tn.part = fld g.partid 0 4 then freeTun t tn else t
       | none => t) := by
  refine (exec_uniform (exec_tfree h f s) hr rfl rfl).trans ?_
  have hsp : sp.accessed sp.acqSig s.uid none = sp := by simp [Split.accessed]
  rw [if_pos hk]
  dsimp only
  rw [if_neg (Nat.not_le.2 hnum), withRoom_room (by simp) (by simpa using hcount), accessEnd, hsp]
  rfl

/-- R257: a tun of the partition is unbound. -/
theorem tfree_unbinds {tn : Tun} (hr : Ready (.tfree h f) h s g sp) (hk : g.kGuard h = true) (hcount : g.counter 5 < 63)
    (hnum : (g.sReg f.a.toNat).toNat < 4096) (hdraws : s.draws = []) (hfind : s.tun? (g.sReg f.a.toNat).toNat = some tn)
    (hpart : tn.part = fld g.partid 0 4) (hinst : tn.installing = false) (hslots : ∀ x ∈ tn.slots, x.firing = false) :
    ∃ t g', exec (.tfree h f) s = .next t ∧ MemoryEnds t g g' sp 12 5 s.uid none ∧
      t.tuns = s.tuns.filter (fun x => x.num != (g.sReg f.a.toNat).toNat) ∧ SameMemory s t := by
  obtain ⟨g', ⟨sp', hgroup, hends⟩, -⟩ := accessEnd_onlyGroup (s := s) 12 5 sp.acqSig none hr.group hr.split
  have hn := State.tun?_num hfind
  have hfree := freeTun_idle (s := accessEnd s g sp 12 5 sp.acqSig none) (by rw [hn]; exact hfind) hinst hslots hdraws
  rw [hn] at hfree
  refine ⟨{ accessEnd s g sp 12 5 sp.acqSig none with tuns := s.tuns.filter (fun x => x.num != (g.sReg f.a.toNat).toNat) }, g',
    (exec_tfree_ends hr hk hcount hnum).trans ?_, ⟨sp', hgroup, hends⟩, rfl, rfl, rfl, rfl, rfl⟩
  simp only [hfind, if_pos hpart, hfree]
  rfl
/-- R257: a number that is not bound, or bound in another partition, is passed over. -/
theorem tfree_passes (hr : Ready (.tfree h f) h s g sp) (hk : g.kGuard h = true) (hcount : g.counter 5 < 63)
    (hnum : (g.sReg f.a.toNat).toNat < 4096)
    (hother : s.tun? (g.sReg f.a.toNat).toNat = none ∨ ∃ tn, s.tun? (g.sReg f.a.toNat).toNat = some tn ∧ tn.part ≠ fld g.partid 0 4) :
    ∃ t g', exec (.tfree h f) s = .next t ∧ MemoryEnds t g g' sp 12 5 s.uid none ∧ OnlyGroup s t g g' := by
  obtain ⟨g', hends⟩ := accessEnd_onlyGroup (s := s) 12 5 sp.acqSig none hr.group hr.split
  refine ⟨_, g', (exec_tfree_ends hr hk hcount hnum).trans ?_, hends⟩
  obtain hnone | ⟨tn, hfind, hpart⟩ := hother
  · simp only [hnone]
  · simp only [hfind, if_neg hpart]

/-! ### TSTAT (R258) -/

/-- The word that TSTAT writes for each selector. -/
theorem tstatWord_eq {tn : Tun} {num sel : Nat} {v : DWord} (hfind : s.tun? num = some tn) (hpart : tn.part = fld g.partid 0 4)
    (hv : (sel, v) ∈ [(0, dw (g.instTun.toNat * 256 + g.instStatus.toNat)), (1, if g.instStatus = 5 then g.instAddr else 0),
        (2, tn.refused ++ tn.fires), (3, tn.overrun ++ tn.abandoned), (4, tn.faulted.zeroExtend 64)]) : tstatWord s g num sel = v := by
  have hpair (x y : Word) : dw (x.toNat * 2 ^ 32 + y.toNat) = x ++ y := by
    apply BitVec.eq_of_toNat_eq
    rw [BitVec.toNat_append, ← Nat.shiftLeft_add_eq_or_of_lt y.isLt, Nat.shiftLeft_eq, dw, BitVec.toNat_ofNat, Nat.mod_eq_of_lt]
    have := x.isLt
    have := y.isLt
    omega
  simp only [List.mem_cons, Prod.mk.injEq, List.not_mem_nil, or_false] at hv
  unfold tstatWord
  rw [hfind]
  dsimp only
  rw [if_pos hpart]
  rcases hv with ⟨rfl, rfl⟩ | ⟨rfl, rfl⟩ | ⟨rfl, rfl⟩ | ⟨rfl, rfl⟩ | ⟨rfl, rfl⟩
  · rfl
  · have h5 : g.instStatus.toNat = instReadfault ↔ g.instStatus = 5 := by
      rw [← BitVec.toNat_inj]
      rfl
    simp only [h5]
  · exact hpair _ _
  · exact hpair _ _
  · rfl
theorem tstat_waits {v : DWord} (hr : Ready (.tstat h f) h s g sp) (hk : g.kGuard h = true) (hroom : sp.pend.length < 16)
    (hv : tstatWord s g ((g.sReg f.a.toNat).toNat % 4096) f.x.toNat = v) :
    ∃ t g' sp', exec (.tstat h f) s = .next t ∧ OnlyGroup s t g g' ∧ OnlySplit g g' sp sp' ∧ g' = { g with splits := g'.splits } ∧
      sp' = { sp with pc := sp.pc + 12, status := .parked (.statuses s.uid), lastTrap := sp'.lastTrap, fenceWait := none,
                      pend := sp.pend ++ [{ op := s.uid, writes := [.s f.d.toNat v] }] } := by
  have hexec : exec (.tstat h f) s = .next (State.setGroup { s with uid := s.uid + 1 }
      (g.setSplit (Split.next { sp.addPend s.uid [.s f.d.toNat v] with status := .parked (.statuses s.uid) } 12))) := by
    refine (exec_uniform (exec_tstat h f s) hr rfl rfl).trans ?_
    rw [if_pos hk, withRoom_room (fun _ => hroom) (by simp), ← hv]
    rfl
  obtain ⟨hgroup, hsplit⟩ := setSplit_spec (s := { s with uid := s.uid + 1 }) (g' := g)
    (sp' := Split.next { sp.addPend s.uid [.s f.d.toNat v] with status := .parked (.statuses s.uid) } 12) hr.group hr.split rfl rfl rfl
  exact ⟨_, _, _, hexec, ⟨rfl, hgroup.group, hgroup.others⟩, hsplit, rfl, rfl⟩
end

end Sys2Proof.Machine
end

section
/-! PROOFS. Draws (O38, O47): a lane that waits for a slot is served by its image (R142, R259, R260). -/

namespace Sys2Proof.Machine

-- One proof at a time, as in the tests: proofs that wait for earlier ones would each hold a thread and its stack.
set_option Elab.async false

/-! ### Translation looks at the home, the partitions and the TLBs (R380 to R382) -/

/-- What a translation looks at is the same. -/
structure SameTables (s t : State) : Prop where
  hbm : t.hbm = s.hbm
  parts : t.parts = s.parts
  tlb : t.tlb = s.tlb

namespace SameTables
variable {s t : State}

theorem homeRead (h : SameTables s t) (a n : Nat) : homeRead t a n = homeRead s a n := by rw [Machine.homeRead, h.hbm]; rfl
theorem part (h : SameTables s t) (p : Nat) : t.part p = s.part p := by rw [State.part, h.parts]; rfl
theorem walk2Level (h : SameTables s t) (part ia fuel level table : Nat) (src : List (Nat × Nat)) :
    walk2Level t part ia fuel level table src = walk2Level s part ia fuel level table src := by
  induction fuel generalizing level table src with
  | zero => rfl
  | succ fuel ih => simp only [Machine.walk2Level, h.homeRead, h.part, ih]
theorem walk2 (h : SameTables s t) (part ia : Nat) : walk2 t part ia = walk2 s part ia := by simp only [Machine.walk2, h.walk2Level, h.part]
theorem walk1Level (h : SameTables s t) (c : Ctx) (va fuel level table : Nat) (src : List (Nat × Nat)) (setA : List Nat) :
    walk1Level t c va fuel level table src setA = walk1Level s c va fuel level table src setA := by
  induction fuel generalizing level table src setA with
  | zero => rfl
  | succ fuel ih => simp only [Machine.walk1Level, h.walk2, h.homeRead, h.part, ih]
theorem walk1 (h : SameTables s t) (c : Ctx) (va : Nat) : walk1 t c va = walk1 s c va := by simp only [Machine.walk1, h.walk1Level]

/-- `t` with the tables of another state. -/
def tablesOf (t s : State) : State := { t with hbm := s.hbm, tlb := s.tlb }
theorem tablesOf_self (h : SameTables s t) : tablesOf t s = t := by rw [tablesOf, ← h.hbm, ← h.tlb]
theorem setEntryBit (h : SameTables s t) (i : Nat) (as : List Nat) : setEntryBit t i as = tablesOf t (setEntryBit s i as) := by
  have hfold (l : List Nat) {s t : State} (h : SameTables s t) :
      l.foldl (fun s a => homeWrite s a 8 (Machine.homeRead s a 8 ||| 2 ^ i)) t =
        tablesOf t (l.foldl (fun s a => homeWrite s a 8 (Machine.homeRead s a 8 ||| 2 ^ i)) s) := by
    induction l generalizing s t with
    | nil => exact h.tablesOf_self.symm
    | cons a l ih =>
      rw [List.foldl_cons, List.foldl_cons]
      exact ih ⟨by simp only [homeWrite, h.homeRead, h.hbm], h.parts, h.tlb⟩
  rw [Machine.setEntryBit, hfold as h]
  rfl
theorem translate (h : SameTables s t) (c : Ctx) (fetch : Bool) (va : Nat) :
    translate t c fetch va = (tablesOf t (translate s c fetch va).1, (translate s c fetch va).2) := by
  have hfind (owner : Nat) : tlbFind t owner c va = tlbFind s owner c va := by rw [tlbFind, h.tlb]; rfl
  unfold Machine.translate
  rw [hfind, hfind]
  split
  · rw [h.tablesOf_self]
  · split
    · rw [h.tlb]
      exact congrArg₂ Prod.mk (by rw [tablesOf, ← h.hbm]) rfl
    · simp only [walkFill, h.walk1, h.setEntryBit]
      split <;> rfl
/-- A check that changes nothing finds the same. -/
theorem globalCheck {c : Ctx} {addr : DWord} {n : Nat} {x : Target} (h : SameTables s t) (hs : globalCheck s c needR addr n = (s, .ok x)) :
    globalCheck t c needR addr n = (t, .ok x) := by
  have hfor (u : State) : translateFor u c needR.x needR.w addr.toNat = Machine.translate u c false addr.toNat := by
    unfold translateFor
    split
    · next heq => exact heq.symm
    · next heq => simpa [needR] using heq.symm
  have htranslate := h.translate c false addr.toNat
  dsimp only [Machine.globalCheck] at hs ⊢
  rw [hfor] at hs ⊢
  rw [htranslate]
  generalize Machine.translate s c false addr.toNat = r at hs ⊢
  obtain ⟨u, found⟩ := r
  split at hs
  · cases hs
  · next hin =>
    rw [if_neg hin]
    split at hs
    · cases hs
    · next haligned =>
      rw [if_neg haligned]
      cases found with
      | error f => cases hs
      | ok e =>
        dsimp only at hs ⊢
        split at hs
        · cases hs
        · have hw : needR.w = false := rfl
          simp only [hw, Bool.false_and, Bool.false_eq_true, if_false, Prod.mk.injEq] at hs
          obtain ⟨rfl, hx⟩ := hs
          simp only [hw, Bool.false_and, Bool.false_eq_true, if_false, h.tablesOf_self, hx]
end SameTables

/-! ### Changing a split in place -/

theorem OnlySplit.trans {g g' g'' : Group} {sp sp' sp'' : Split} (h : OnlySplit g g' sp sp') (h' : OnlySplit g' g'' sp' sp'')
    (hslot : sp'.slot = sp.slot) : OnlySplit g g'' sp sp'' :=
  ⟨hslot ▸ h'.split, fun k hk => (h'.others k (hslot ▸ hk)).trans (h.others k hk)⟩
/-- A change of one split is seen where it is found. -/
theorem modSplit_spec {s : State} {g : Group} {sp : Split} {f : Split → Split} (hg : s.group? g.uid = some g) (hs : g.split? sp.slot = some sp)
    (hf : ∀ x, (f x).slot = x.slot) : ∃ g', (s.modSplit g.uid sp.slot f).group? g.uid = some g' ∧ OtherGroupsKept s (s.modSplit g.uid sp.slot f) g.uid ∧
      OnlySplit g g' sp (f sp) ∧ g' = { g with splits := g'.splits } := by
  refine ⟨_, State.group?_modGroup_self hg, fun u hu => State.group?_modGroup_other s hu, ⟨?_, fun k hk => ?_⟩, rfl⟩
  · have h := find?_map_if (p := fun x : Split => x.slot == sp.slot) (f := f) (fun x hx => by rw [hf]; exact hx) g.splits
    exact h.trans (congrArg (Option.map f) hs)
  · refine find?_map_other _ _ _ (fun y => ?_) fun y hy => ?_
    · split
      · rw [hf]
      · rfl
    · have hne : ¬ y.slot = sp.slot := fun h => hk ((beq_iff_eq.1 hy).symm.trans h)
      simp [hne]
/-- Results of a group on its core do not go to its image (R260). -/
theorem landSaved_resident {s : State} {g : Group} (hg : s.group? g.uid = some g) (hres : g.gstate = .resident) : landSaved s g.uid = s := by
  have hchecked : ∃ g', (checkImage s g.uid).group? g.uid = some g' ∧ g'.gstate = .resident := by
    unfold checkImage
    rw [hg]
    dsimp only
    split
    · exact ⟨_, State.group?_modGroup_self hg, hres⟩
    · exact ⟨g, hg, hres⟩
  obtain ⟨g', hfound, hres'⟩ := hchecked
  simp only [landSaved, hfound, hres', beq_self_eq_true, if_true]

/-! ### A draw of one lane -/

/-- A split's one operation is the draw `d`, whose only lane, here, waits for a slot of a bound tun; its group is on its core, and neither the status nor the
lane's bytes are poisoned. -/
structure DrawAwaits (s : State) (g : Group) (sp : Split) (d : Draw) (tn : Tun) (l slot place : Nat) (addr : DWord) : Prop where
  group : s.group? g.uid = some g
  split : g.split? sp.slot = some sp
  resident : g.gstate = .resident
  draws : s.draws = [d]
  remotes : s.remotes = []
  ofGroup : d.group = g.uid
  ofSplit : d.split = sp.slot
  pend : sp.pend = [{ op := d.op, writes := [], held := true }]
  lanes : d.lanes = [(l, addr, tn.num, slot, place)]
  faults : d.faults = []
  order : d.order = 0
  size : 4 ≤ d.size
  tun : s.tun? tn.num = some tn
  bound : tn.installing = false
  onPage : ∃ pa e, globalCheck s (splitCtx g sp) needR addr d.size = (s, .ok (.draw pa e)) ∧ e.tunid.toNat = tn.num
  inWindow : tn.drawVa ≤ addr.toNat ∧ addr.toNat + d.size ≤ tn.drawVa + tn.nslots * tn.drawStride
  slotAt : (addr.toNat - tn.drawVa) / tn.drawStride = slot
  placeAt : (addr.toNat - tn.drawVa) % tn.drawStride = place
  statusClean : slotPoisoned s tn slot 0 = false
  bytesClean : slotPoisoned s tn slot place = false

/-- A lane whose address lies in the draw window of a bound tun reads its slot there (R139). -/
theorem drawLanes_here {s : State} {c : Ctx} {addr : DWord} {n l pa : Nat} {e : TlbEntry} {tn : Tun} (last : Word) (cons : Bool)
    (hcheck : globalCheck s c needR addr n = (s, .ok (.draw pa e))) (htun : s.tun? e.tunid.toNat = some tn)
    (hin : tn.drawVa ≤ addr.toNat ∧ addr.toNat + n ≤ tn.drawVa + tn.nslots * tn.drawStride) : drawLanes s c n last cons [(l, addr)] =
      { s := s, here := [(l, addr, tn.num, (addr.toNat - tn.drawVa) / tn.drawStride, (addr.toNat - tn.drawVa) % tn.drawStride)] } := by
  have hout : ¬ (addr.toNat < tn.drawVa ∨ tn.drawVa + tn.nslots * tn.drawStride < addr.toNat + n) := by omega
  simp [drawLanes, drawPlace, hcheck, htun, hout]

section
variable {s : State} {g : Group} {sp : Split} {d : Draw} {tn : Tun} {l slot place : Nat} {addr : DWord}

theorem DrawAwaits.found (h : DrawAwaits s g sp d tn l slot place addr) : s.draw? d.op = some d := by simp [State.draw?, h.draws]
theorem DrawAwaits.split? (h : DrawAwaits s g sp d tn l slot place addr) : s.split? ⟨g.uid, sp.slot⟩ = some (g, sp) := by
  simp [State.split?, h.group, h.split]
theorem DrawAwaits.slots (h : DrawAwaits s g sp d tn l slot place addr) : d.slots = [(tn.num, slot)] := by
  rw [Draw.slots, h.lanes]
  rfl
theorem DrawAwaits.run (h : DrawAwaits s g sp d tn l slot place addr) : drawLanes s (splitCtx g sp) d.size d.last d.cons [(l, addr)] =
    { s := s, here := [(l, addr, tn.num, slot, place)] } := by
  obtain ⟨pa, e, hcheck, he⟩ := h.onPage
  rw [drawLanes_here _ _ hcheck (by rw [he]; exact h.tun) h.inWindow, h.slotAt, h.placeAt]

/-- R142: while its slot has no image that is newer, and its time is not over, the lane waits. -/
theorem serveSlot_waits (h : DrawAwaits s g sp d tn l slot place addr) (hnot : imageReady (tn.status s slot) d.last = false) :
    serveSlot s d.op tn.num slot false = s := by
  simp [serveSlot, h.found, h.tun, h.statusClean, hnot]

end

/-! ### What serving a slot does -/

theorem State.modDraw_single {s : State} {d : Draw} (h : s.draws = [d]) (f : Draw → Draw) : s.modDraw d.op f = { s with draws := [f d] } := by
  simp [State.modDraw, h]
theorem State.modSplit_id (s : State) (u k : Nat) : s.modSplit u k (fun x => x) = s := by
  simp [State.modSplit, State.modGroup]
theorem addWrites_clock (s : State) (u k op : Nat) (ws : List RegWrite) : (addWrites s u k op ws).clock = s.clock := rfl
/-- A weak read of a slot acquires nothing (R85). -/
theorem drawSide_weak {s : State} {a : Agent} {o : Ord} (h : o.order = 0) (sig : List (Nat × Nat)) : drawSide s a o sig = (s, []) := by
  simp [drawSide, Ord.acquires, atHome, Ord.strong, h]
/-- No lane's page has moved. -/
theorem drawMoved_stays {s : State} {g : Group} {sp : Split} {m : DrawRun} {keep : Nat × DWord × Nat × Nat × Nat → Bool} (op : Nat)
    (hhere : m.here.filter (fun q => !keep q) = []) (haway : m.away = []) (hfaults : m.faults = []) : drawMoved s g sp op m keep = s := by
  have hsame : s.modDraw op (fun d => { d with lanes := d.lanes ++ m.here.filter (fun q => !keep q), faults := d.faults ++ m.faults }) = s := by
    simp [State.modDraw, hhere, hfaults]
  unfold drawMoved
  rw [hsame]
  dsimp only
  split
  · simp [haway]
  · rfl

/-- The state once a slot is served, which is consumed when the draw says so and its image is READY and newer (R142). -/
def consumed (s : State) (tn : Tun) (slot : Nat) (d : Draw) : State :=
  let w := tn.status s slot
  if d.cons = true ∧ slotState w = 1 ∧ newerSeq (slotSeq w) d.last.toNat = true then putSlot s tn slot (statusWord 0 0 (slotSeq w)) 0 else s
theorem consumed_cases (s : State) (tn : Tun) (slot : Nat) (d : Draw) : consumed s tn slot d = s ∨
    ∃ f, consumed s tn slot d = s.mapDraws tn.num f := by
  unfold consumed
  extract_lets w
  split
  · exact .inr ⟨_, putSlot_eq ..⟩
  · exact .inl rfl
theorem consumed_frame (s : State) (tn : Tun) (slot : Nat) (d : Draw) : (consumed s tn slot d).groups = s.groups ∧
    (consumed s tn slot d).clock = s.clock ∧ (consumed s tn slot d).remotes = s.remotes := by
  obtain hc | ⟨f, hc⟩ := consumed_cases s tn slot d <;> rw [hc] <;> exact ⟨rfl, rfl, rfl⟩

section
variable {s : State} {g : Group} {sp : Split} {d : Draw} {tn : Tun} {l slot place : Nat} {addr : DWord}

/-- R142: the lane is served by a newer image, or by the image as it stands. -/
theorem serveSlot_serves (h : DrawAwaits s g sp d tn l slot place addr) {force : Bool} (hready : force = true ∨ imageReady (tn.status s slot) d.last = true) :
    serveSlot s d.op tn.num slot force =
      { addWrites (consumed s tn slot d) g.uid sp.slot d.op (vWrites l d.dst (d.size / 4) (drawRead s tn (slot * tn.drawStride + place) d.size)) with
        draws := [{ d with lanes := [] }] } := by
  have hnow : ¬ (force = false ∧ imageReady (tn.status s slot) d.last = false) := by
    rintro ⟨hf, hi⟩
    simp [hf, hi] at hready
  have hdraws : (consumed s tn slot d).draws = [d] := by
    obtain hc | ⟨f, hc⟩ := consumed_cases s tn slot d <;> rw [hc] <;> exact h.draws
  have hconsumed : (if d.cons = true ∧ slotState (tn.status s slot) = 1 ∧ newerSeq (slotSeq (tn.status s slot)) d.last.toNat = true then
      putSlot s tn slot (statusWord 0 0 (slotSeq (tn.status s slot))) 0 else s) = consumed s tn slot d := rfl
  have hmod (f : Draw → Draw) := State.modDraw_single (s := addWrites (consumed s tn slot d) g.uid sp.slot d.op
    (vWrites l d.dst (d.size / 4) (drawRead s tn (slot * tn.drawStride + place) d.size))) hdraws f
  simp [serveSlot, h.found, h.tun, h.bound, h.statusClean, h.split?, h.lanes, h.run, h.bytesClean, hnow, drawMoved_stays, drawSide_weak, h.order,
    unionPairs, State.modSplit_id, hconsumed, h.ofGroup, h.ofSplit, hmod]
end

/-- The split once its draw is settled: its writes may land, and it goes on (R259). -/
def Split.drawOver (sp : Split) (clock : DWord) (op : Nat) : Split := { sp.release op with status := .ready, readySince := clock, aging := 0 }
/-- R259: with every slot served the split goes on past its TDRAW. -/
theorem drawSettle_ends {s : State} {g : Group} {sp : Split} {d : Draw} (hg : s.group? g.uid = some g) (hs : g.split? sp.slot = some sp)
    (hres : g.gstate = .resident) (hdraws : s.draws = [d]) (hremotes : s.remotes = []) (hgroup : d.group = g.uid) (hsplit : d.split = sp.slot)
    (hlanes : d.lanes = []) (hfaults : d.faults = []) :
    let t := drawSettle s d.op
    let sp' := (sp.drawOver s.clock d.op).next 12
    let g' := (g.flightDone d.op).setSplit sp'
    t.group? g.uid = some g' ∧ OtherGroupsKept s t g.uid ∧ OnlySplit g g' sp sp' ∧ t.draws = [] ∧ t.hbm = s.hbm := by
  intro t sp' g'
  have hfound : s.draw? d.op = some d := by simp [State.draw?, hdraws]
  have hwhere : State.split? { s with draws := [] } ⟨g.uid, sp.slot⟩ = some (g, sp) := by
    have hg' : State.group? { s with draws := [] } g.uid = some g := hg
    simp [State.split?, hg', hs]
  have hkept : { s with draws := s.draws.filter (fun x => x.op != d.op), remotes := s.remotes.filter (fun o => o.op != d.op) } =
      { s with draws := [] } := by
    simp [hdraws, hremotes]
  have hsettled : remoteSettled s d.op = true := by simp [remoteSettled, hremotes]
  have hnofaults : d.faults ++ remoteFaults s d.op = [] := by simp [hfaults, remoteFaults, hremotes]
  obtain ⟨hself, hother, hone⟩ := finish_after (t := { s with draws := [] }) (g' := g.flightDone d.op) (sp' := sp.drawOver s.clock d.op) 12
    hg hs rfl rfl rfl rfl
  have ht : t = finish { s with draws := [] } (g.flightDone d.op) (sp.drawOver s.clock d.op) 12 := by
    simp only [t, drawSettle, hfound, hlanes, List.isEmpty_nil, hsettled, Bool.not_true, Bool.or_self, Bool.false_eq_true, if_false, hkept, hwhere,
      hnofaults, sortFaults_nil, settleFaults, hgroup, hsplit]
    exact landSaved_resident (g := g') hself hres
  rw [ht]
  exact ⟨hself, hother, hone, rfl, rfl⟩

section
variable {s : State} {g : Group} {sp : Split} {d : Draw} {tn : Tun} {l slot place : Nat} {addr : DWord}

/-- A split whose operation gets its writes. -/
def Split.writing (op : Nat) (ws : List RegWrite) (sp : Split) : Split :=
  { sp with pend := sp.pend.map (fun p => if p.op == op then { p with writes := p.writes ++ ws } else p) }
/-- The split past its TDRAW: its lane's bytes are on their way to the registers. -/
def Split.drawn (sp : Split) (clock : DWord) (op : Nat) (ws : List RegWrite) : Split :=
  Split.next { sp with status := .ready, readySince := clock, aging := 0, pend := [{ op := op, writes := ws }] } 12
theorem Split.drawOver_writing {op : Nat} {ws : List RegWrite} (clock : DWord) (hp : sp.pend = [{ op := op, writes := [], held := true }]) (hws : ws ≠ []) :
    ((sp.writing op ws).drawOver clock op).next 12 = sp.drawn clock op ws := by
  simp [Split.writing, Split.drawOver, Split.release, Split.drawn, hp, hws]
theorem vWrites_ne_nil {lane reg n x : Nat} (h : 0 < n) : vWrites lane reg n x ≠ [] := by
  obtain ⟨k, rfl⟩ := Nat.exists_eq_add_of_lt h
  simp [vWrites]

/-- The status of the slot then. -/
theorem status_consumed (hslot : tn.Unbroken (slot * tn.drawStride) tn.drawStride) (hwf : Memory.wf s.hbm = true) {t : State}
    (ht : t.hbm = (consumed s tn slot d).hbm) : let w := tn.status s slot
    tn.status t slot = if d.cons = true ∧ slotState w = 1 ∧ newerSeq (slotSeq w) d.last.toNat = true then slotSeq w else w := by
  intro w
  unfold consumed at ht
  extract_lets at ht
  split at ht
  · next hc =>
    rw [if_pos hc]
    have hlt := slotSeq_lt w
    have hword : statusWord 0 0 (slotSeq w) = slotSeq w := by rw [statusWord, Nat.mod_eq_of_lt hlt]; omega
    rw [putSlot_eq] at ht
    exact (status_storeSlot hslot hwf (by rw [hword]; omega) ht).trans hword
  · next hc =>
    rw [if_neg hc, status_eq hslot, ht, ← status_eq hslot]

/-- R142, R259: a draw of one lane that is served is over. -/
theorem draw_served (h : DrawAwaits s g sp d tn l slot place addr) (hslot : tn.Unbroken (slot * tn.drawStride) tn.drawStride) (hwf : Memory.wf s.hbm = true)
    {force : Bool} (hready : force = true ∨ imageReady (tn.status s slot) d.last = true) {t : State}
    (ht : drawSettle (serveSlot s d.op tn.num slot force) d.op = t) :
    let w := tn.status s slot
    let sp' := sp.drawn s.clock d.op (vWrites l d.dst (d.size / 4) (drawRead s tn (slot * tn.drawStride + place) d.size))
    ∃ g', t.group? g.uid = some g' ∧ OtherGroupsKept s t g.uid ∧ OnlySplit g g' sp sp' ∧
      g' = { g with splits := g'.splits, flights := (g.flightDone d.op).flights } ∧ t.draws = [] ∧
      tn.status t slot = if d.cons = true ∧ slotState w = 1 ∧ newerSeq (slotSeq w) d.last.toNat = true then slotSeq w else w := by
  have hws : vWrites l d.dst (d.size / 4) (drawRead s tn (slot * tn.drawStride + place) d.size) ≠ [] :=
    vWrites_ne_nil (Nat.div_pos h.size (by decide))
  rw [serveSlot_serves h hready] at ht
  generalize vWrites l d.dst (d.size / 4) (drawRead s tn (slot * tn.drawStride + place) d.size) = ws at ht hws ⊢
  obtain ⟨hgroups, hclock, hremotes⟩ := consumed_frame s tn slot d
  obtain ⟨g1, hg1, hother1, hsplit1, hrest1⟩ := modSplit_spec (s := consumed s tn slot d) (f := Split.writing d.op ws)
    ((State.group?_congr hgroups _).trans h.group) h.split fun _ => rfl
  have huid : g1.uid = g.uid := by rw [hrest1]
  have hend := drawSettle_ends (s := { addWrites (consumed s tn slot d) g.uid sp.slot d.op ws with draws := [{ d with lanes := [] }] }) (g := g1)
    (sp := sp.writing d.op ws) (d := { d with lanes := [] }) (by rw [huid]; exact hg1) hsplit1.split (by rw [hrest1]; exact h.resident) rfl
    (hremotes.trans h.remotes) (h.ofGroup.trans huid.symm) h.ofSplit rfl h.faults
  rw [ht, Split.drawOver_writing _ h.pend hws, huid] at hend
  simp only [addWrites_clock, hclock] at hend
  obtain ⟨hself, hother, hlast, hdraws, hhbm⟩ := hend
  refine ⟨_, hself, fun k hk => ((hother k hk).trans (hother1 k hk)).trans (State.group?_congr hgroups k), hsplit1.trans hlast rfl, ?_, hdraws,
    status_consumed hslot hwf hhbm⟩
  rw [hrest1]
  rfl
end

end Sys2Proof.Machine
end

section
/-! PROOFS. TDRAW, and the rows of draws (O38, O47). -/

namespace Sys2Proof.Machine

-- One proof at a time, as in the tests: proofs that wait for earlier ones would each hold a thread and its stack.
set_option Elab.async false

/-! ### The rows of a draw (R142, R259) -/

section
variable {s : State} {g : Group} {sp : Split} {d : Draw} {tn : Tun} {l slot place : Nat} {addr : DWord}

theorem DrawAwaits.waits (h : DrawAwaits s g sp d tn l slot place addr) : drawWaits s d = true := by
  simp [drawWaits, h.ofGroup, h.group, h.resident]
theorem drawTry_one (h : DrawAwaits s g sp d tn l slot place addr) :
    drawTry s d.op = drawSettle (serveSlot s d.op tn.num slot (drawExpired s.clock d.timeout d.since)) d.op := by
  simp [drawTry, h.found, h.waits, h.slots]
theorem exec_tdrawServe_one (h : DrawAwaits s g sp d tn l slot place addr) :
    exec (.tdrawServe ⟨g.uid, sp.slot⟩ slot) s = .next (drawSettle (serveSlot s d.op tn.num slot false) d.op) := by
  simp [exec_tdrawServe, execTdrawServe, drawOfSplit, h.draws, h.ofGroup, h.ofSplit, h.waits, h.slots]
theorem exec_tdrawTimeout_one (h : DrawAwaits s g sp d tn l slot place addr) (hover : drawExpired s.clock d.timeout d.since = true) :
    exec (.tdrawTimeout ⟨g.uid, sp.slot⟩) s = .next (drawSettle (serveSlot s d.op tn.num slot true) d.op) := by
  simp [exec_tdrawTimeout, execTdrawTimeout, drawOfSplit, h.draws, h.ofGroup, h.ofSplit, hover, drawTry_one h]
/-- Of an image that is newer, only READY says that a draw consumes it. -/
theorem newer_of_imageReady {w : Nat} {last : Word} (h : imageReady w last = true) : newerSeq (slotSeq w) last.toNat = true := by
  rw [imageReady, Bool.and_eq_true] at h
  exact h.2
theorem not_newer_of_not_imageReady {w : Nat} {last : Word} (h : imageReady w last = false) : ¬ (slotState w = 1 ∧ newerSeq (slotSeq w) last.toNat = true) := by
  rintro ⟨hst, hnewer⟩
  simp [imageReady, hst, hnewer] at h
end

/-! ### TDRAW (R259) -/

section
variable {h : Hdr} {f : LongF} {s : State} {g : Group} {sp : Split} {tn : Tun} {l pa : Nat} {e : TlbEntry}

/-- The draw that a TDRAW of one lane starts. -/
def startedDraw (h : Hdr) (f : LongF) (s : State) (g : Group) (sp : Split) (tn : Tun) (l : Nat) : Draw :=
  let off := (drawAddr g l f).toNat - tn.drawVa
  { op := s.uid, group := g.uid, split := sp.slot, dst := f.d.toNat, size := tyBits f.ty / 8, cons := f.rm.getLsbD 0, order := f.mo, scope := f.sc,
    last := (g.sReg f.c.toNat).extractLsb' 0 32, timeout := f.x, since := s.clock,
    lanes := [(l, drawAddr g l f, tn.num, off / tn.drawStride, off % tn.drawStride)], faults := [], insn := encode (.tdraw h f) }
/-- The split parked at its TDRAW. -/
def Split.drawing (sp : Split) (op : Nat) : Split :=
  { sp with pend := [{ op := op, writes := [], held := true }], status := .parked (.tdraw op) }
/-- The state when the TDRAW is outstanding and counted. -/
def drawStarted (s : State) (g : Group) (sp : Split) (d : Draw) : State :=
  State.setGroup { s with uid := s.uid + 1, draws := [d] } ((g.addFlight 5 s.uid false).setSplit (sp.drawing s.uid))

theorem exec_tdraw_starts (hr : Ready (.tdraw h f) h s g sp) (hcount : g.counter 5 < 63) (hwait : mustWait s g sp (ordOf f) = false) (hpend : sp.pend = [])
    (hdraws : s.draws = []) (hlanes : activeLanes g sp h = [l])
    (hcheck : globalCheck s (splitCtx g sp) needR (drawAddr g l f) (tyBits f.ty / 8) = (s, .ok (.draw pa e))) (htun : s.tun? e.tunid.toNat = some tn)
    (hin : tn.drawVa ≤ (drawAddr g l f).toNat ∧ (drawAddr g l f).toNat + tyBits f.ty / 8 ≤ tn.drawVa + tn.nslots * tn.drawStride) :
    exec (.tdraw h f) s = .next (drawTry (drawStarted s g sp (startedDraw h f s g sp tn l)) s.uid) := by
  refine (exec_lanes (exec_tdraw h f s) hr rfl).trans ?_
  have hheld : faultsHeld g sp [] = none := by
    rw [faultsHeld]
    split <;> rfl
  rw [hlanes, if_neg (by simp)]
  dsimp only
  rw [if_neg (by simp [hwait]), withRoom_room (by simp [hpend]) (by simpa using hcount), List.map_cons, List.map_nil, drawLanes_here _ _ hcheck htun hin]
  simp only [hheld, List.isEmpty_cons, List.isEmpty_nil, Bool.false_and, Bool.not_true, Bool.false_eq_true, if_false, List.any_nil, tdrawStart, hpend, State.fresh,
    hdraws, List.nil_append, if_true]
  rfl

/-- What a TDRAW of one lane starts is a draw that waits for its slot. -/
theorem drawStarted_awaits (hr : Ready (.tdraw h f) h s g sp) (hres : g.gstate = .resident) (hremotes : s.remotes = []) (hmo : f.mo = 0)
    (hcheck : globalCheck s (splitCtx g sp) needR (drawAddr g l f) (tyBits f.ty / 8) = (s, .ok (.draw pa e))) (htun : s.tun? e.tunid.toNat = some tn)
    (hbound : tn.installing = false)
    (hin : tn.drawVa ≤ (drawAddr g l f).toNat ∧ (drawAddr g l f).toNat + tyBits f.ty / 8 ≤ tn.drawVa + tn.nslots * tn.drawStride)
    (hstatus : slotPoisoned s tn (((drawAddr g l f).toNat - tn.drawVa) / tn.drawStride) 0 = false)
    (hbytes : slotPoisoned s tn (((drawAddr g l f).toNat - tn.drawVa) / tn.drawStride) (((drawAddr g l f).toNat - tn.drawVa) % tn.drawStride) = false) :
    DrawAwaits (drawStarted s g sp (startedDraw h f s g sp tn l)) ((g.addFlight 5 s.uid false).setSplit (sp.drawing s.uid)) (sp.drawing s.uid)
      (startedDraw h f s g sp tn l) tn l (((drawAddr g l f).toNat - tn.drawVa) / tn.drawStride) (((drawAddr g l f).toNat - tn.drawVa) % tn.drawStride)
      (drawAddr g l f) := by
  obtain ⟨hgroup, hsplit⟩ := setSplit_spec (s := { s with uid := s.uid + 1, draws := [startedDraw h f s g sp tn l] }) (g' := g.addFlight 5 s.uid false)
    (sp' := sp.drawing s.uid) hr.group hr.split rfl rfl rfl
  have hnum := State.tun?_num htun
  have hsize : 4 ≤ tyBits f.ty / 8 := by
    have hwf : (guardOk h && tdrawOk f) = true := hr.wellFormed
    have hty : f.ty.toNat ∈ [21, 22, 23] := by
      simp only [tdrawOk, tyIn, Bool.and_eq_true, List.contains_iff_mem] at hwf
      obtain ⟨-, ⟨⟨⟨⟨⟨⟨⟨⟨hty, -⟩, -⟩, -⟩, -⟩, -⟩, -⟩, -⟩, -⟩, -⟩ := hwf
      exact hty
    have hall : ∀ ty : BitVec 5, ty.toNat ∈ [21, 22, 23] → 4 ≤ tyBits ty / 8 := by decide
    exact hall _ hty
  exact {
    group := hgroup.group, split := hsplit.split, resident := hres, draws := rfl, remotes := hremotes, ofGroup := rfl, ofSplit := rfl, pend := rfl,
    lanes := rfl, faults := rfl, order := hmo, size := hsize, tun := by rw [hnum]; exact htun, bound := hbound,
    onPage := ⟨pa, e, SameTables.globalCheck (s := s) ⟨rfl, rfl, rfl⟩ hcheck, hnum.symm⟩, inWindow := hin, slotAt := rfl, placeAt := rfl,
    statusClean := hstatus, bytesClean := hbytes }
end

end Sys2Proof.Machine
end

section
/-! PROOFS. TINST, TFREE, TDRAW and TSTAT together (O38), and the rows of tuns (O47). -/

namespace Sys2Proof.Machine

-- One proof at a time, as in the tests: proofs that wait for earlier ones would each hold a thread and its stack.
set_option Elab.async false

/-- A read of a slot goes by the home alone. -/
theorem drawRead_home {s t : State} (h : t.hbm = s.hbm) (tn : Tun) (off n : Nat) : drawRead t tn off n = drawRead s tn off n := by
  induction n generalizing off with
  | zero => rfl
  | succ n ih => simp only [drawRead, ih, homeRead, h]

section
variable {h : Hdr} {f : LongF} {s : State} {g : Group} {sp : Split} {tn : Tun} {l slot place : Nat}

/-- R259: a TDRAW whose slot has a newer image ends with its bytes on their way. -/
theorem tdraw_served {d : Draw}
    (hexec : exec (.tdraw h f) s = .next (drawTry (drawStarted s g sp d) s.uid)) (hr : Ready (.tdraw h f) h s g sp) (hop : d.op = s.uid)
    (hawaits : DrawAwaits (drawStarted s g sp d) ((g.addFlight 5 s.uid false).setSplit (sp.drawing s.uid)) (sp.drawing s.uid) d tn l slot place (drawAddr g l f))
    (hslot : tn.Unbroken (slot * tn.drawStride) tn.drawStride) (hwf : Memory.wf s.hbm = true) (hready : imageReady (tn.status s slot) d.last = true) :
    ∃ t g' sp', exec (.tdraw h f) s = .next t ∧ t.group? g.uid = some g' ∧ OnlySplit g g' sp sp' ∧ g'.counter 5 = g.counter 5 + 1 ∧
      g' = { g with splits := g'.splits, flights := g'.flights } ∧
      sp' = { sp with pc := sp.pc + 12, status := .ready, readySince := s.clock, aging := 0, lastTrap := sp'.lastTrap, fenceWait := none, acqSig := sp'.acqSig,
                      pend := [{ op := s.uid, writes := vWrites l d.dst (d.size / 4) (drawRead s tn (slot * tn.drawStride + place) d.size) }] } ∧
      tn.status t slot = if d.cons = true ∧ slotState (tn.status s slot) = 1 then slotSeq (tn.status s slot) else tn.status s slot := by
  have hhome : (drawStarted s g sp d).hbm = s.hbm := rfl
  have hw : tn.status (drawStarted s g sp d) slot = tn.status s slot := drawRead_home hhome ..
  have hbytes := drawRead_home hhome tn (slot * tn.drawStride + place) d.size
  obtain ⟨g', hgroup, -, hsplit, hg', -, hstatus⟩ := draw_served hawaits hslot hwf (.inr (hw ▸ hready)) (drawTry_one hawaits).symm
  have hparked := onlySplit_setSplit g (g.addFlight 5 s.uid false) sp (sp.drawing s.uid) hr.split rfl rfl
  have hcounter : g'.counter 5 = g.counter 5 + 1 := by
    rw [hg']
    exact (Group.flightDone_counter (g.addFlight 5 s.uid false) d.op 5).trans (Group.counter_addFlight ..)
  rw [hw] at hstatus
  rw [← hop]
  rw [← hop] at hexec
  refine ⟨_, g', _, hexec, hgroup, hparked.trans hsplit rfl, hcounter, by rw [hg']; rfl, ?_, ?_⟩
  · rw [hbytes]
    rfl
  · rw [hstatus]
    simp only [newer_of_imageReady hready, and_true]
/-- R142: otherwise it waits there. -/
theorem tdraw_waits {d : Draw}
    (hexec : exec (.tdraw h f) s = .next (drawTry (drawStarted s g sp d) s.uid)) (hr : Ready (.tdraw h f) h s g sp) (hop : d.op = s.uid)
    (hawaits : DrawAwaits (drawStarted s g sp d) ((g.addFlight 5 s.uid false).setSplit (sp.drawing s.uid)) (sp.drawing s.uid) d tn l slot place (drawAddr g l f))
    (hnot : imageReady (tn.status s slot) d.last = false) (hsince : d.since = s.clock) (htime : d.timeout ≠ 0) :
    ∃ t g' sp', exec (.tdraw h f) s = .next t ∧ SameMemory s t ∧ t.group? g.uid = some g' ∧ OnlySplit g g' sp sp' ∧
      sp'.status = .parked (.tdraw s.uid) ∧ sp'.pc = sp.pc ∧ ∃ d, t.draws = [d] ∧ d.lanes = [(l, drawAddr g l f, tn.num, slot, place)] := by
  have hw : tn.status (drawStarted s g sp d) slot = tn.status s slot := drawRead_home rfl ..
  have hlater : drawExpired (drawStarted s g sp d).clock d.timeout d.since = false := by
    have hpos : 0 < d.timeout.toNat := Nat.pos_of_ne_zero fun h0 => htime (BitVec.eq_of_toNat_eq h0)
    have hclock : (drawStarted s g sp d).clock = s.clock := rfl
    simp only [drawExpired, usCycles, hsince, hclock, Bool.and_eq_false_iff, decide_eq_false_iff_not]
    omega
  have hstays : drawTry (drawStarted s g sp d) d.op = drawStarted s g sp d := by
    rw [drawTry_one hawaits, hlater, serveSlot_waits hawaits (hw ▸ hnot)]
    simp [drawSettle, hawaits.found, hawaits.lanes]
  rw [← hop, hstays] at hexec
  exact ⟨_, _, _, hexec, ⟨rfl, rfl, rfl, rfl⟩, hawaits.group, onlySplit_setSplit g (g.addFlight 5 s.uid false) sp (sp.drawing s.uid) hr.split rfl rfl, rfl, rfl,
    d, rfl, hawaits.lanes⟩
end

/-- Settles O38: each instruction is one of the lemmas above. -/
theorem tunsInstallDrawAndReport : Obligations.TunsInstallDrawAndReport := by
  intro h f s g sp hcount
  refine ⟨fun hr hk hlow halign => tinst_begins hr hk hcount hlow halign, fun hr hk hdraws hnum => ⟨fun tn hfind hpart hinst hslots =>
      tfree_unbinds hr hk hcount hnum hdraws hfind hpart hinst hslots, fun hother => tfree_passes hr hk hcount hnum hother⟩,
    fun hr hk hroom tn v hfind hpart hv => tstat_waits hr hk hroom (tstatWord_eq hfind hpart hv), ?_⟩
  intro hr hwait hpend hres hdraws hremotes hmo l pa e tn n last va slot place w hlanes hcheck htun hbound hlow hhigh hstatus hbytes
  have hexec := exec_tdraw_starts hr hcount hwait hpend hdraws hlanes hcheck htun ⟨hlow, hhigh⟩
  have hawaits := drawStarted_awaits hr hres hremotes hmo hcheck htun hbound ⟨hlow, hhigh⟩ hstatus hbytes
  exact ⟨fun hready hpage hwf => tdraw_served hexec hr rfl hawaits (Tun.unbroken_of_page hpage) hwf hready,
    fun hnot htime => tdraw_waits hexec hr rfl hawaits hnot rfl htime⟩

/-- What the rows of a split's only draw need of it. -/
theorem drawAwaits_of {s : State} {g : Group} {sp : Split} {d : Draw} {tn : Tun} {l slot place : Nat} {addr : DWord} (hfind : s.tun? tn.num = some tn)
    (hdraws : s.draws = [d]) (hremotes : s.remotes = []) (hgroup : d.group = g.uid) (hsplit : d.split = sp.slot)
    (hfound : s.split? ⟨g.uid, sp.slot⟩ = some (g, sp)) (hres : g.gstate = .resident) (hpend : sp.pend = [⟨d.op, [], true⟩])
    (hlanes : d.lanes = [(l, addr, tn.num, slot, place)]) (hfaults : d.faults = []) (hsize : d.size ∈ [8, 16, 32]) (horder : d.order = 0)
    (hbound : tn.installing = false)
    (hpage : ∃ pa e, globalCheck s (splitCtx g sp) needR addr d.size = (s, .ok (.draw pa e)) ∧ e.tunid.toNat = tn.num)
    (haddr : addr.toNat = tn.drawVa + slot * tn.drawStride + place) (hplace : place + d.size ≤ tn.drawStride) (hslot : slot < tn.nslots)
    (hstatus : slotPoisoned s tn slot 0 = false) (hbytes : slotPoisoned s tn slot place = false) : DrawAwaits s g sp d tn l slot place addr := by
  simp only [State.split?, Option.bind_eq_some_iff, Option.map_eq_some_iff, Prod.mk.injEq] at hfound
  obtain ⟨g0, hg, x, hx, rfl, rfl⟩ := hfound
  have hfour : 4 ≤ d.size := by
    have hall : ∀ n ∈ [8, 16, 32], 4 ≤ n := by decide
    exact hall _ hsize
  have hoff : addr.toNat - tn.drawVa = place + slot * tn.drawStride := by omega
  have hlt : place < tn.drawStride := by omega
  have hend : slot * tn.drawStride + tn.drawStride ≤ tn.nslots * tn.drawStride := by
    rw [← Nat.succ_mul]
    exact Nat.mul_le_mul_right _ hslot
  exact {
    group := hg, split := hx, resident := hres, draws := hdraws, remotes := hremotes, ofGroup := hgroup, ofSplit := hsplit, pend := hpend,
    lanes := hlanes, faults := hfaults, order := horder, size := hfour, tun := hfind, bound := hbound, onPage := hpage, inWindow := by omega,
    slotAt := by rw [hoff, Nat.add_mul_div_right _ _ (by omega), Nat.div_eq_of_lt hlt, Nat.zero_add],
    placeAt := by rw [hoff, Nat.add_mul_mod_self_right, Nat.mod_eq_of_lt hlt], statusClean := hstatus, bytesClean := hbytes }

/-- Settles O47: the end of an install, of a fire and of a fill, and the two rows of a draw. -/
theorem tunsInstallFireAbandonAndServe : Obligations.TunsInstallFireAbandonAndServe := by
  intro s tn slot w at_ hfind hwf hboot hrunning hformat hpage
  have hs := (memoriesWf_iff s).1 hwf
  have hruns : tunRuns s tn = true := by simp [tunRuns, hboot, hrunning]
  have hslot : tn.Unbroken (slot * tn.drawStride) tn.drawStride := Tun.unbroken_of_page hpage
  refine ⟨fun hinst hdraws hp g hg hop => installCompletion_ends hfind hs hruns hinst hdraws hp hg hop, fun x hx hdraws => ?_, ?_⟩
  · obtain rfl := Tun.slot?_slot hx
    refine ⟨fun hf hheld hbad => ?_, fun hf hheld hbad => ?_, fun hf htmo hover => ?_⟩
    · exact ⟨_, (endFire_ready hfind hslot hs.hbm hheld hbad hformat).imp fun _ h => ⟨exec_tunFire_fires hfind hruns hx hdraws hf, h⟩⟩
    · exact ⟨_, (endFire_faulted hfind hslot hs.hbm hheld hbad).imp fun _ h => ⟨exec_tunFire_fires hfind hruns hx hdraws hf, h⟩⟩
    · have hdue : fillDue s tn x = true := by simp [fillDue, hf, htmo, usCycles, hover]
      exact ⟨_, (abandonFill_abandoned hfind hslot hs.hbm).imp fun _ h => ⟨exec_fillTimeout_abandons hfind hruns hx hdue, h⟩⟩
  · intro d g sp l place addr hdraws hremotes hgroup hsplit hfound hres hpend hlanes hfaults hsize horder hbound hcheck haddr hplace hlt hstatus hbytes served
    have hawaits := drawAwaits_of hfind hdraws hremotes hgroup hsplit hfound hres hpend hlanes hfaults hsize horder hbound hcheck haddr hplace hlt hstatus hbytes
    have hserved {i : Instr} {force : Bool} (hexec : exec i s = .next (drawSettle (serveSlot s d.op tn.num slot force) d.op))
        (hready : force = true ∨ imageReady w d.last = true) :
        served i (if d.cons = true ∧ slotState w = 1 ∧ newerSeq (slotSeq w) d.last.toNat = true then slotSeq w else w) := by
      obtain ⟨g', hself, hothers, hone, hg', hnone, hword⟩ := draw_served hawaits hslot hs.hbm hready rfl
      refine ⟨_, g', _, hexec, hself, hothers, hone, by rw [hg'], ?_, rfl, hnone, hword⟩
      rw [hg']
      exact g.flightDone_done d.op
    refine ⟨fun hready => ?_, fun hnot htime hover => ?_⟩
    · have h := hserved (exec_tdrawServe_one hawaits) (.inr hready)
      simpa only [newer_of_imageReady hready, and_true] using h
    · have hexpired : drawExpired s.clock d.timeout d.since = true := by
        simpa [drawExpired, usCycles, hover] using htime
      have h := hserved (exec_tdrawTimeout_one hawaits hexpired) (.inl rfl)
      rwa [if_neg fun hc => not_newer_of_not_imageReady hnot hc.2] at h

end Sys2Proof.Machine
end

section
/-! PROOFS. Decoding inverts encoding (O56). Every instruction of a set is packed from its fields under one opcode, and the set's map
names it at that opcode; the two directions of the claim are the two readings of that fact. -/

namespace Sys2Proof

/-! ### A word is packed from its own fields (R144, R147, R148, R268, R354) -/

theorem srTop_srOf (w : Word) : srTop (srOf w) = w.extractLsb' 13 19 := by
  apply BitVec.eq_of_getLsbD_eq
  intro i hi
  rw [srTop_bit, BitVec.getLsbD_extractLsb']
  interval_cases i <;> simp [srOf]
theorem siTop_siOf (w : Word) : siTop (siOf w) = w.extractLsb' 13 19 := by
  apply BitVec.eq_of_getLsbD_eq
  intro i hi
  rw [siTop_bit, BitVec.getLsbD_extractLsb']
  interval_cases i <;> simp [siOf]
theorem packShort_hdrOf (w : Word) (hl : isLong w = false) : packShort (w.extractLsb' 6 7) (hdrOf w) (w.extractLsb' 13 19) = w := by
  apply BitVec.eq_of_getLsbD_eq
  intro i hi
  rw [packShort_bit, hdrBits_bit]
  interval_cases i <;> simp [hdrOf, ← hl, isLong]
theorem packLong0_longOf (w0 w1 w2 : Word) (hl : isLong w0 = true) : packLong0 (w0.extractLsb' 6 10) (hdrOf w0) (longOf w0 w1 w2) = w0 := by
  apply BitVec.eq_of_getLsbD_eq
  intro i hi
  rw [packLong0_bit, hdrBits_bit]
  interval_cases i <;> simp [hdrOf, longOf, ← hl, isLong]
theorem packLong1_longOf (w0 w1 w2 : Word) : packLong1 (longOf w0 w1 w2) = w1 := by
  apply BitVec.eq_of_getLsbD_eq
  intro i hi
  rw [packLong1_bit]
  interval_cases i <;> simp [longOf]
theorem packLauter_lauterOf (w : DWord) : packLauter (w.extractLsb' 0 8) (lauterOf w) = w := by
  apply BitVec.eq_of_getLsbD_eq
  intro i hi
  rw [packLauter_bit]
  interval_cases i <;> simp [lauterOf]
theorem packSteep_steepOf (w : Word) : packSteep (w.extractLsb' 0 8) (steepOf w) = w := by
  apply BitVec.eq_of_getLsbD_eq
  intro i hi
  rw [packSteep_bit]
  interval_cases i <;> simp [steepOf]

/-! ### Every instruction has an opcode in the map of its set -/

/-- The word of opcode `op` with bits 31:13 `top` encodes `i`, and the map of short opcodes names `i` there (R147, R158). -/
structure ShortForm (i : Instr) (op : BitVec 7) (h : Hdr) (top : BitVec 19) : Prop where
  words : encode i = [packShort op h top]
  bare : shortBare op.toNat = false ∨ top = 0
  named : shortOp op.toNat h (srOf (packShort op h top)) (siOf (packShort op h top)) (sbOf (packShort op h top)) = some i

theorem kloam_form (i : Instr) (hk : i.isa = some .kloam) :
    (∃ op h top, ShortForm i op h top) ∨ (∃ op h f, encode i = packLong op h f ∧ longOp op.toNat h f = some i) := by
  cases i
  case nop h | join h | exit h | eret h | yield h | fetchb h => exact .inl ⟨_, h, 0, rfl, .inr rfl, rfl⟩
  case smov h f | sadd h f | ssub h f | smul h f | smulh h f | sand h f | sor h f | sxor h f | sshl h f | sshr h f | ssra h f | smin h f |
    smax h f | scmp h f | klop h f | spopc h f | sclz h f | sld h f | sst h f | jr h f | waitc h f | bar h f | sleep h f | dwb h f | dinv h f |
    icinv h f => exact .inl ⟨_, h, srTop f, rfl, .inl rfl, by rw [srOf_packShort]; rfl⟩
  case sli h f | sshi h f | srd h f | swr h f | trap h f | syscall h f => exact .inl ⟨_, h, siTop f, rfl, .inl rfl, by rw [siOf_packShort]; rfl⟩
  case jmp h f | call h f => exact .inl ⟨_, h, f.off, rfl, .inl rfl, by rw [sbOf_packShort]; rfl⟩
  case mov h f | movi h f | iadd h f | isub h f | imul h f | imulh h f | imad h f | imin h f | imax h f | iabs h f | ineg h f | land h f |
    lor h f | lxor h f | logt h f | shl h f | shr h f | sra h f | bfe h f | bfi h f | popc h f | clz h f | brev h f | icmp h f | sel h f |
    idiv h f | irem h f | idot4 h f | bsel h f | nlut h f | plop h f | ptov h f | vtop h f | fadd h f | fsub h f | fmul h f | ffma h f |
    fmin h f | fmax h f | fcmp h f | fdiv h f | fsqrt h f | frcp h f | frsq h f | fex2 h f | flg2 h f | fsin h f | fcos h f | ftanh h f |
    fclass h f | fdot2 h f | hadd2 h f | hmul2 h f | hfma2 h f | frnd h f | fscale h f | cvt h f | cvpk h f | cvup h f | qscl h f | qcvt h f |
    vxch h f | rdlane h f | wrlane h f | vote h f | fold h f | scan h f | samev h f | vsrd h f | elect h f | brd h f | lexit h f | ld h f |
    st h f | atom h f | acas h f | red h f | redt h f | fence h f | pref h f | arrive h f | waitph h f | rawait h f | rrel h f | qput h f |
    qget h f | mma h f | mmas h f | aclr h f | ald h f | ast h f | asts h f | xqt h f | tinst h f | tfree h f | tdraw h f | tstat h f |
    rack h f | resamp h f | lxstart h f | lxstat h f | lxkill h f => exact .inr ⟨_, h, f, rfl, rfl⟩
  all_goals cases hk
theorem lauter_form (i : Instr) (hk : i.isa = some .lauter) : ∃ op f, encode i = lauterWords op f ∧ lauterOp op.toNat f = some i := by
  cases i
  case lauterLi f | lauterLih f | lauterMov f | lauterAdd f | lauterSub f | lauterMul f | lauterAnd f | lauterOr f | lauterXor f | lauterShl f |
    lauterShr f | lauterAddi f | lauterLdx f | lauterStx f | lauterBeq f | lauterBne f | lauterBlt f | lauterBge f | lauterJmp f | lauterLoop f |
    lauterDset f | lauterDidx f | lauterDstep f | lauterMovt f | lauterGath f | lauterScat f | lauterMcst f | lauterLred f | lauterFill f |
    lauterArrv f | lauterWaitb f | lauterFence f | lauterAbort f | lauterEnd f => exact ⟨_, f, rfl, rfl⟩
  all_goals cases hk
theorem steep_form (i : Instr) (hk : i.isa = some .steep) : ∃ op f, encode i = [packSteep op f] ∧ steepOp op.toNat f = some i := by
  cases i
  case steepLdi f | steepMov f | steepAdd f | steepSub f | steepAnd f | steepOr f | steepShl f | steepShr f | steepLdpf f | steepStpf f |
    steepLdw f | steepStw f | steepBz f | steepBnz f | steepLoop f | steepEmit f | steepWaitv f | steepSignal f | steepDrop f | steepFaultq f |
    steepEnd f => exact ⟨_, f, rfl, rfl⟩
  all_goals cases hk

/-! ### Every opcode of a map encodes what it names -/

/-- The bits 31:13 of the short word that encodes what an opcode names: none for format "—", else one of the three formats (R147). -/
theorem shortOp_encode {op : BitVec 7} {h : Hdr} {sr : SRF} {si : SIF} {sb : SBF} {i : Instr} (ho : shortOp op.toNat h sr si sb = some i) :
    i.isa = some .kloam ∧ ((shortBare op.toNat = true ∧ encode i = [packShort op h 0]) ∨ encode i = [packShort op h (srTop sr)] ∨
      encode i = [packShort op h (siTop si)] ∨ encode i = [packShort op h sb.off]) := by
  generalize hn : op.toNat = n at ho ⊢
  obtain rfl : op = BitVec.ofNat 7 n := by rw [← hn, BitVec.ofNat_toNat, BitVec.setWidth_eq]
  unfold shortOp at ho
  split at ho <;> cases ho <;> simp [encode, Instr.isa, shortBare]
theorem longOp_encode {op : BitVec 10} {h : Hdr} {f : LongF} {i : Instr} (ho : longOp op.toNat h f = some i) :
    i.isa = some .kloam ∧ encode i = packLong op h f := by
  generalize hn : op.toNat = n at ho
  obtain rfl : op = BitVec.ofNat 10 n := by rw [← hn, BitVec.ofNat_toNat, BitVec.setWidth_eq]
  unfold longOp at ho
  split at ho <;> cases ho <;> exact ⟨rfl, rfl⟩
theorem lauterOp_encode {op : BitVec 8} {f : LauterF} {i : Instr} (ho : lauterOp op.toNat f = some i) :
    i.isa = some .lauter ∧ encode i = lauterWords op f := by
  generalize hn : op.toNat = n at ho
  obtain rfl : op = BitVec.ofNat 8 n := by rw [← hn, BitVec.ofNat_toNat, BitVec.setWidth_eq]
  unfold lauterOp at ho
  split at ho <;> cases ho <;> exact ⟨rfl, rfl⟩
theorem steepOp_encode {op : BitVec 8} {f : SteepF} {i : Instr} (ho : steepOp op.toNat f = some i) :
    i.isa = some .steep ∧ encode i = [packSteep op f] := by
  generalize hn : op.toNat = n at ho
  obtain rfl : op = BitVec.ofNat 8 n := by rw [← hn, BitVec.ofNat_toNat, BitVec.setWidth_eq]
  unfold steepOp at ho
  split at ho <;> cases ho <;> exact ⟨rfl, rfl⟩

/-! ### What the decoders accept -/

theorem accept_ok {op : Nat} {r : Option Instr} {i : Instr} (h : accept op r = .ok i) : r = some i ∧ i.wellFormed = true := by
  cases r with
  | none => cases h
  | some j =>
    rw [accept] at h
    split at h
    · cases h
      exact ⟨rfl, ‹_›⟩
    · cases h
/-- A word read as a short instruction is the one that encodes it. -/
theorem decodeShort_ok {w : Word} {i : Instr} (hl : isLong w = false) (h : decodeShort w = .ok i) :
    i.isa = some .kloam ∧ i.wellFormed = true ∧ encode i = [w] := by
  rw [decodeShort] at h
  split at h
  · cases h
  · rename_i hbare
    obtain ⟨hop, hw⟩ := accept_ok h
    obtain ⟨hk, henc⟩ := shortOp_encode hop
    have hpack := packShort_hdrOf w hl
    refine ⟨hk, hw, ?_⟩
    obtain ⟨hb, henc⟩ | henc | henc | henc := henc
    · have hzero : (w.extractLsb' 13 19).toNat = 0 := by
        simpa only [shortOpcode, hb, Bool.true_and, bne_iff_ne, ne_eq, not_not] using hbare
      have htop : w.extractLsb' 13 19 = 0 := BitVec.eq_of_toNat_eq hzero
      rw [henc, ← htop, hpack]
    · rw [henc, srTop_srOf, hpack]
    · rw [henc, siTop_siOf, hpack]
    · rw [henc, sbOf, hpack]
theorem decodeLong_ok {w0 w1 w2 : Word} {i : Instr} (hl : isLong w0 = true) (h : decodeLong w0 w1 w2 = .ok i) :
    i.isa = some .kloam ∧ i.wellFormed = true ∧ encode i = [w0, w1, w2] := by
  obtain ⟨hop, hw⟩ := accept_ok h
  obtain ⟨hk, henc⟩ := longOp_encode hop
  refine ⟨hk, hw, ?_⟩
  rw [henc, packLong, packLong0_longOf w0 w1 w2 hl, packLong1_longOf]
  rfl
theorem decodeLauter_ok {w : DWord} {i : Instr} (h : decodeLauter w = .ok i) :
    i.isa = some .lauter ∧ i.wellFormed = true ∧ encode i = [w.extractLsb' 0 32, w.extractLsb' 32 32] := by
  obtain ⟨hop, hw⟩ := accept_ok h
  obtain ⟨hk, henc⟩ := lauterOp_encode hop
  refine ⟨hk, hw, ?_⟩
  rw [henc, lauterWords, packLauter_lauterOf]
theorem decodeSteep_ok {w : Word} {i : Instr} (h : decodeSteep w = .ok i) : i.isa = some .steep ∧ i.wellFormed = true ∧ encode i = [w] := by
  obtain ⟨hop, hw⟩ := accept_ok h
  obtain ⟨hk, henc⟩ := steepOp_encode hop
  exact ⟨hk, hw, by rw [henc, packSteep_steepOf]⟩

/-! ### Bytes and the words they make (R5) -/

theorem leBytes_leNat (bs : List Byte) : leBytes bs.length (leNat bs) = bs := by
  induction bs with
  | nil => rfl
  | cons b bs ih =>
    have hb := b.isLt
    have hdiv : (b.toNat + 256 * leNat bs) / 256 = leNat bs := by omega
    have hmod : BitVec.ofNat 8 (b.toNat + 256 * leNat bs) = b := by
      apply BitVec.eq_of_toNat_eq
      rw [BitVec.toNat_ofNat]
      omega
    rw [List.length_cons, leNat, leBytes, hdiv, hmod, ih]
theorem leNat_lt (bs : List Byte) : leNat bs < 256 ^ bs.length := by
  induction bs with
  | nil => simp [leNat]
  | cons b bs ih =>
    have hb := b.isLt
    rw [List.length_cons, Nat.pow_succ, leNat]
    omega
/-- Bytes read as a word are the bytes of that word. -/
theorem leBytes_word {n m : Nat} (bs : List Byte) (hn : n ≤ bs.length) (hm : 256 ^ n = 2 ^ m) :
    leBytes n (BitVec.ofNat m (leNat (bs.take n))).toNat = bs.take n := by
  have hlen : (bs.take n).length = n := List.length_take_of_le hn
  have hlt := leNat_lt (bs.take n)
  rw [hlen, hm] at hlt
  have h := leBytes_leNat (bs.take n)
  rwa [hlen, ← Nat.mod_eq_of_lt hlt, ← BitVec.toNat_ofNat] at h
theorem leBytes_word_append (bs : List Byte) (n k : Nat) (hk : k = n + 4) (hn : k ≤ bs.length) :
    leBytes 4 (BitVec.ofNat 32 (leNat ((bs.drop n).take 4))).toNat ++ bs.drop k = bs.drop n := by
  subst hk
  rw [leBytes_word _ (by rw [List.length_drop]; omega) (by rfl), ← List.drop_drop, List.take_append_drop]
theorem leNat_append (as bs : List Byte) : leNat (as ++ bs) = leNat as + 256 ^ as.length * leNat bs := by
  induction as with
  | nil => simp [leNat]
  | cons a as ih => rw [List.cons_append, leNat, leNat, ih, List.length_cons]; ring
/-- The bytes of a lauter word are those of its two halves, the low one first. -/
theorem leBytes_halves (w : DWord) : leBytes 4 (w.extractLsb' 0 32).toNat ++ leBytes 4 (w.extractLsb' 32 32).toNat = leBytes 8 w.toNat := by
  have hw := w.isLt
  have hval : leNat (leBytes 4 (w.extractLsb' 0 32).toNat ++ leBytes 4 (w.extractLsb' 32 32).toNat) = w.toNat := by
    simp only [leNat_append, leNat_leBytes, leBytes_length, BitVec.extractLsb'_toNat, Nat.shiftRight_eq_div_pow]
    omega
  have h := leBytes_leNat (leBytes 4 (w.extractLsb' 0 32).toNat ++ leBytes 4 (w.extractLsb' 32 32).toNat)
  rw [hval] at h
  exact h.symm.trans (by simp)

/-! ### The bytes of an instruction -/

theorem decodeIn_encodeBytes {k : Isa} {i : Instr} (rest : List Byte) (hk : i.isa = some k) (hw : i.wellFormed = true) :
    decodeIn k (encodeBytes i ++ rest) = .ok (i, rest) := by
  cases k with
  | kloam =>
    obtain ⟨op, h, top, hf⟩ | ⟨op, h, f, henc, hop⟩ := kloam_form i hk
    · have hbytes : encodeBytes i ++ rest = leBytes 4 (packShort op h top).toNat ++ rest := by simp [encodeBytes, hf.words]
      rw [decodeIn, hbytes, decodeKloam_short _ _ (isLong_packShort op h top), decodeShort_pack op h top i hf.bare hf.named hw]
      rfl
    · have hbytes : encodeBytes i ++ rest =
          leBytes 4 (packLong0 op h f).toNat ++ (leBytes 4 (packLong1 f).toNat ++ (leBytes 4 f.x.toNat ++ rest)) := by
        simp [encodeBytes, henc, packLong]
      rw [decodeIn, hbytes, decodeKloam_long _ _ _ _ (isLong_packLong0 op h f), decodeLong_pack op h f i hop hw]
      rfl
  | lauter =>
    obtain ⟨op, f, henc, hop⟩ := lauter_form i hk
    have hbytes : encodeBytes i ++ rest = leBytes 4 ((packLauter op f).extractLsb' 0 32).toNat ++
        (leBytes 4 ((packLauter op f).extractLsb' 32 32).toNat ++ rest) := by
      simp [encodeBytes, henc, lauterWords]
    rw [decodeIn, hbytes, decodeLauterBytes_words, decodeLauter_pack op f i hop hw]
    rfl
  | steep =>
    obtain ⟨op, f, henc, hop⟩ := steep_form i hk
    have hbytes : encodeBytes i ++ rest = leBytes 4 (packSteep op f).toNat ++ rest := by simp [encodeBytes, henc]
    rw [decodeIn, hbytes, decodeSteepBytes_word, decodeSteep_pack op f i hop hw]
    rfl

/-- A decoder that reads words answers the instruction of the words, and the bytes after them. -/
theorem map_ok {r : Except Reject Instr} {bs rest : List Byte} {i : Instr} (h : r.map (fun i => (i, bs)) = .ok (i, rest)) : r = .ok i ∧ rest = bs := by
  cases r with
  | error e => cases h
  | ok j => cases h; exact ⟨rfl, rfl⟩
theorem decodeKloam_ok {bs rest : List Byte} {i : Instr} (h : decodeKloam bs = .ok (i, rest)) :
    i.isa = some .kloam ∧ i.wellFormed = true ∧ bs = encodeBytes i ++ rest := by
  rw [decodeKloam] at h
  split at h
  · cases h
  · dsimp only at h
    have h0 := leBytes_word_append bs 0 4 rfl (by omega)
    split at h
    · split at h
      · cases h
      · rename_i hlong _
        obtain ⟨hd, rfl⟩ := map_ok h
        obtain ⟨hk, hw, henc⟩ := decodeLong_ok hlong hd
        refine ⟨hk, hw, ?_⟩
        simp only [encodeBytes, henc, List.flatMap_cons, List.flatMap_nil, List.append_nil, List.append_assoc]
        rw [leBytes_word_append bs 8 12 rfl (by omega), leBytes_word_append bs 4 8 rfl (by omega)]
        exact h0.symm
    · rename_i hshort
      obtain ⟨hd, rfl⟩ := map_ok h
      obtain ⟨hk, hw, henc⟩ := decodeShort_ok (by simpa using hshort) hd
      exact ⟨hk, hw, by simpa [encodeBytes, henc] using h0.symm⟩
theorem decodeLauterBytes_ok {bs rest : List Byte} {i : Instr} (h : decodeLauterBytes bs = .ok (i, rest)) :
    i.isa = some .lauter ∧ i.wellFormed = true ∧ bs = encodeBytes i ++ rest := by
  rw [decodeLauterBytes] at h
  split at h
  · cases h
  · obtain ⟨hd, rfl⟩ := map_ok h
    obtain ⟨hk, hw, henc⟩ := decodeLauter_ok hd
    have hbytes : encodeBytes i = bs.take 8 := by
      rw [← leBytes_word (n := 8) (m := 64) bs (by omega) (by rfl), ← leBytes_halves]
      simp [encodeBytes, henc]
    exact ⟨hk, hw, by rw [hbytes, List.take_append_drop]⟩
theorem decodeSteepBytes_ok {bs rest : List Byte} {i : Instr} (h : decodeSteepBytes bs = .ok (i, rest)) :
    i.isa = some .steep ∧ i.wellFormed = true ∧ bs = encodeBytes i ++ rest := by
  rw [decodeSteepBytes] at h
  split at h
  · cases h
  · obtain ⟨hd, rfl⟩ := map_ok h
    obtain ⟨hk, hw, henc⟩ := decodeSteep_ok hd
    have h0 := leBytes_word_append bs 0 4 rfl (by omega)
    exact ⟨hk, hw, by simpa [encodeBytes, henc] using h0.symm⟩

/-- Settles O56: what is encoded decodes by its form, what decodes is encoded by its opcode. -/
theorem decodingInvertsEncoding : Obligations.DecodingInvertsEncoding := by
  refine ⟨fun k i rest hk hw => decodeIn_encodeBytes rest hk hw, fun k i bs rest h => ?_⟩
  cases k with
  | kloam => exact decodeKloam_ok h
  | lauter => exact decodeLauterBytes_ok h
  | steep => exact decodeSteepBytes_ok h

end Sys2Proof
end

section
/-! PROOFS. Register files (O1): each is the law of a read after a write, and of the register that a write passes by. -/

namespace Sys2Proof.Machine

theorem Group.sReg_zero (g : Group) : g.sReg 0 = 0 := if_pos rfl
theorem Group.kReg_seven (g : Group) : g.kReg 7 = true := rfl
theorem Lane.pReg_seven (x : Lane) : x.pReg 7 = true := rfl

/-- Settles O1, by the laws of each file. -/
theorem registerFilesKeepTheirValues : Obligations.RegisterFilesKeepTheirValues :=
  ⟨fun g n r v => g.sReg_setS n r v, Group.sReg_zero, fun g n r v => g.kReg_setK n r v, Group.kReg_seven, fun x n r v => x.pReg_setP n r v,
    Lane.pReg_seven, fun x n k v r => x.vReg_setVNat n k v r, fun x n k v => x.vNat_setVNat n k v, fun x n k v => x.setVNat_rest n k v⟩

end Sys2Proof.Machine
end

section
/-! PROOFS. Words written out from the encoding tables (O55). -/

namespace Sys2Proof

/-- Settles O55: the words are fixed, so the decoders compute each of them. -/
theorem wordsOfTheSpecDecode : Obligations.WordsOfTheSpecDecode := by
  unfold Obligations.WordsOfTheSpecDecode
  decide

end Sys2Proof
end

section
/-! PROOFS. Operands of the ALU class (O15): the sign of a floating-point value is its top bit, which `modify` flips by an addition. -/

namespace Sys2Proof.Machine

/-- Adding the top bit modulo the width flips it. -/
theorem add_topBit_mod {w m : Nat} (hw : 0 < w) (hm : m < 2 ^ w) :
    (m + 2 ^ (w - 1)) % 2 ^ w = if m < 2 ^ (w - 1) then m + 2 ^ (w - 1) else m - 2 ^ (w - 1) := by
  have htwo : 2 ^ w = 2 ^ (w - 1) + 2 ^ (w - 1) := by rw [← Nat.two_mul, ← Nat.pow_succ', Nat.succ_eq_add_one, Nat.sub_add_cancel hw]
  split
  · exact Nat.mod_eq_of_lt (by omega)
  · rw [Nat.mod_eq_sub_mod (by omega), Nat.mod_eq_of_lt (by omega)]
    omega

/-- R150: the absolute value clears the top bit, the negation flips it; an integer is negated modulo its width. -/
theorem modify_eq {ty : BitVec 5} {v : Nat} (neg abs : Bool) (hw : 0 < tyBits ty) (hv : v < 2 ^ tyBits ty) :
    modify ty neg abs v =
      if tyFloat ty then
        (fun m => if neg then (if m < 2 ^ (tyBits ty - 1) then m + 2 ^ (tyBits ty - 1) else m - 2 ^ (tyBits ty - 1)) else m)
          (if abs then v % 2 ^ (tyBits ty - 1) else v)
      else if neg then ((2 ^ tyBits ty - v % 2 ^ tyBits ty) % 2 ^ tyBits ty) else v := by
  have habs : (if abs then v % 2 ^ (tyBits ty - 1) else v) < 2 ^ tyBits ty := by
    split
    · exact (Nat.mod_le _ _).trans_lt hv
    · exact hv
  simp only [modify, add_topBit_mod hw habs]

theorem modify_plain (ty : BitVec 5) (v : Nat) : modify ty false false v = v := by simp [modify]

theorem rawA_eq (g : Group) (l : Nat) (ty : BitVec 5) (f : LongF) : rawA g l ty f =
    if f.mo.getLsbD 0 then (g.sReg f.a.toNat).toNat % 2 ^ tyBits ty else (g.lane l).vNat f.a.toNat (tyRegs ty) % 2 ^ tyBits ty :=
  apply_ite (· % 2 ^ tyBits ty) _ _ _
theorem rawB_reg {g : Group} {l : Nat} {ty : BitVec 5} {f : LongF} (hx : f.mo.getLsbD 2 = false) : rawB g l ty f =
    if f.mo.getLsbD 1 then (g.sReg f.b.toNat).toNat % 2 ^ tyBits ty else (g.lane l).vNat f.b.toNat (tyRegs ty) % 2 ^ tyBits ty := by
  rw [rawB, if_neg (Bool.eq_false_iff.1 hx)]
  exact apply_ite (· % 2 ^ tyBits ty) _ _ _

/-- R150: an immediate of an integer or raw type is its low bits, sign-extended for `.s64`. -/
theorem immOf_eq {ty : BitVec 5} (x : BitVec 32) (hty : ty.toNat ≤ 8) :
    immOf ty x = if ty.toNat = 8 then (x.signExtend 64).toNat else x.toNat % 2 ^ tyBits ty := by
  have hx := x.isLt
  generalize hn : ty.toNat = n at hty
  interval_cases n <;> simp [immOf, tyBits, hn]
  omega

/-- Settles O15: each operand is the low bits of its source under `modify`. -/
theorem operandsFollowTheirForms : Obligations.OperandsFollowTheirForms := by
  intro g l f w sign v hw
  have hlt (n : Nat) : n % 2 ^ w < 2 ^ w := Nat.mod_lt _ (Nat.two_pow_pos w)
  have hsel (c : Bool) (m n : Nat) : (if c then m % 2 ^ w else n % 2 ^ w) < 2 ^ w := by split <;> exact hlt _
  refine ⟨?a, fun hx => ?b, fun hx hneg hty => ?immediate, modify_eq _ _ hw (hlt _)⟩
  case a =>
    rw [srcA, srcAT, rawA_eq]
    exact modify_eq _ _ hw (hsel _ _ _)
  case b =>
    rw [srcB, srcBT, rawB_reg hx]
    exact modify_eq _ false hw (hsel _ _ _)
  case immediate => rw [srcB, srcBT, hneg, modify_plain, rawB, if_pos hx, immOf_eq f.x hty]

end Sys2Proof.Machine
end

section
/-! PROOFS. SRD reads by number (O3). -/

namespace Sys2Proof.Machine

/-- What SRD answers for a ready split that may read the register. -/
theorem exec_srd_ready {h : Hdr} {f : SIF} {s : State} {g : Group} {sp : Split} (hr : Ready (.srd h f) h s g sp) (hk : g.kGuard h = true)
    (ha : srAssigned f.imm.toNat = true) (hp : f.imm.toNat < 0x80 ∨ sp.sup = true) :
    exec (.srd h f) s = .next (finish s (g.setS f.d.toNat (srRead s g sp f.imm.toNat)) sp 4) := by
  refine (exec_uniform (exec_srd h f s) hr ha ?_).trans (by rw [if_pos hk])
  obtain hn | hs := hp
  · simp [Nat.not_le.2 hn]
  · simp [hs]

theorem roundUp_sixteen (n : Nat) : roundUp n 16 = (n + 15) / 16 * 16 := rfl

/-- Settles O3: `srRead` is the register table, with the split's grid and team found. -/
theorem specialRegistersRead : Obligations.SpecialRegistersRead := by
  intro h f s g sp r tm v hgrid hteam hk hr hp hmem
  generalize hn : f.imm.toNat = n at hmem
  have hread : srAssigned n = true ∧ srRead s g sp n = v := by
    simp only [List.mem_cons, Prod.mk.injEq, List.not_mem_nil, or_false] at hmem
    clear hp
    casesm* _ ∨ (_ : Prop)
    all_goals
      obtain ⟨rfl, rfl⟩ := hmem
      simp [srAssigned, srRead, hgrid, hteam, roundUp_sixteen, pairOf, clusterOf, dieOf]
  have he := exec_srd_ready hr hk (by rw [hn]; exact hread.1) hp
  rw [hn, hread.2] at he
  exact writesS_finish _ s g sp 4 _ v he hr.group hr.split

end Sys2Proof.Machine
end

section
/-! PROOFS. Guards, waits, illegal forms and privilege come before an effect (O5): every instruction of a split is run by `asUniform` or
`asLanes`, which ask `beforeEffect` first. -/

namespace Sys2Proof.Machine

/-! ### The two courses of an instruction -/

/-- The instruction executes once for the split, and asks for nothing beyond its encoding (R146, R152, R161). -/
def RunsUniform (i : Instr) (h : Hdr) : Prop := ∃ body, ∀ s, exec i s = asUniform i h 4 always never body s
/-- The instruction executes for the active lanes, and asks for nothing beyond its encoding. -/
def RunsLanes (i : Instr) (h : Hdr) : Prop := ∃ body, ∀ s, exec i s = asLanes i h always body s

theorem RunsLanes.write {i : Instr} {h : Hdr} {F : Group → Nat → Lane → Lane} (he : ∀ s, exec i s = laneWrite i h always F s) : RunsLanes i h :=
  ⟨_, he⟩
theorem RunsLanes.later {i : Instr} {h : Hdr} {f : LongF} {v : Group → Nat → Nat} (he : ∀ s, exec i s = laneLater i h f v s) : RunsLanes i h :=
  ⟨_, he⟩
theorem RunsLanes.float {i : Instr} {h : Hdr} {f : LongF} {regs n : Nat} {v : Group → Nat → (Nat → Nat) → Nat}
    (he : ∀ s, exec i s = fpLane i h f regs n v s) : RunsLanes i h := ⟨_, he⟩
theorem RunsLanes.floatLater {i : Instr} {h : Hdr} {f : LongF} {n : Nat} {v : Group → Nat → (Nat → Nat) → Nat}
    (he : ∀ s, exec i s = fpLater i h f n v s) : RunsLanes i h := ⟨_, he⟩
theorem RunsLanes.result {i : Instr} {h : Hdr} {f : LongF} {v : Group → Nat → Nat} (he : ∀ s, exec i s = laneResult i h f v s) : RunsLanes i h := .write he
theorem RunsLanes.floatResult {i : Instr} {h : Hdr} {f : LongF} {v : Group → Nat → FVal} (he : ∀ s, exec i s = fpResult i h f v s) : RunsLanes i h :=
  .float he
theorem RunsLanes.memory {i : Instr} {h : Hdr} {o : Ord} {extra : State → Group → Split → List Nat → Waits}
    {order : State → Group → List Nat → State × List Nat} {dest : Option (Dest × BitVec 5)}
    {lane : State → Group → Split → Nat → State × LaneEnd × List (Nat × Nat)} (he : ∀ s, exec i s = memInstrFor i h always o extra order dest lane s) :
    RunsLanes i h := ⟨_, he⟩
theorem RunsLanes.plainMemory {i : Instr} {h : Hdr} {o : Ord} {order : State → Group → List Nat → State × List Nat} {dest : Option (Dest × BitVec 5)}
    {lane : State → Group → Split → Nat → State × LaneEnd × List (Nat × Nat)} (he : ∀ s, exec i s = memInstr i h always o order dest lane s) :
    RunsLanes i h := .memory he

/-- Whatever the instruction does, `beforeEffect` comes before it. -/
def AsksFirst (i : Instr) (h : Hdr) : Prop :=
  ∃ effect : State → Group → Split → State, ∀ s g sp, s.current? = some (g, sp) →
    exec i s = .next (beforeEffect i h true false s g sp (effect s g sp))

theorem RunsUniform.asksFirst {i : Instr} {h : Hdr} (hi : RunsUniform i h) : AsksFirst i h := by
  obtain ⟨body, he⟩ := hi
  exact ⟨fun s g sp => if g.kGuard h then body s g sp else finish s g sp 4, fun s g sp hc => by
    simp only [he, asUniform, hc, always, never, Bool.false_and]⟩
theorem RunsLanes.asksFirst {i : Instr} {h : Hdr} (hi : RunsLanes i h) : AsksFirst i h := by
  obtain ⟨body, he⟩ := hi
  exact ⟨fun s g sp => if (activeLanes g sp h).isEmpty then finish s g sp 12 else body s g sp (activeLanes g sp h),
    fun s g sp hc => by simp only [he, asLanes, hc, always]⟩

/-! ### What comes before the effect -/

section
variable {i : Instr} {h : Hdr} {legal priv : Bool} {s k : State} {g : Group} {sp : Split}

/-- R28: with W = 1 and a result outstanding the split parks. -/
theorem beforeEffect_waits (hro : sp.runOn = none) (hw : h.w = true) (hp : sp.pend ≠ []) :
    beforeEffect i h legal priv s g sp k = parkAt s g sp .results := by
  simp [beforeEffect, hro, hw, hp]
/-- With no result to wait for, the checks of the encoding and of privilege come (R152, R153). -/
theorem beforeEffect_checks (hro : sp.runOn = none) (hw : h.w = true → sp.pend = []) : beforeEffect i h legal priv s g sp k =
    if !(i.wellFormed && vOk g i && legal) then deliver s g sp { code := cIllop } sp.pc sp.mask (encode i)
    else if priv then deliver s g sp { code := cPriv } sp.pc sp.mask (encode i) else k := by
  have hwait : (h.w && !sp.pend.isEmpty) = false := by
    cases hx : h.w with
    | false => rfl
    | true => simp [hw hx]
  simp only [beforeEffect, hro, hwait, raise_of_no_runOn s g sp _ _ hro, Option.isSome_none, Bool.false_and, Bool.false_eq_true, if_false]

theorem AsksFirst.waits (hi : AsksFirst i h) (hc : s.current? = some (g, sp)) (hro : sp.runOn = none) (hw : h.w = true) (hp : sp.pend ≠ []) :
    exec i s = .next (parkAt s g sp .results) := by
  obtain ⟨effect, he⟩ := hi
  rw [he s g sp hc, beforeEffect_waits hro hw hp]
theorem AsksFirst.illegal (hi : AsksFirst i h) (hc : s.current? = some (g, sp)) (hro : sp.runOn = none) (hw : h.w = true → sp.pend = [])
    (hbad : i.wellFormed = false ∨ vOk g i = false) : exec i s = .next (deliver s g sp { code := cIllop } sp.pc sp.mask (encode i)) := by
  obtain ⟨effect, he⟩ := hi
  rw [he s g sp hc, beforeEffect_checks hro hw, if_pos (by obtain hb | hb := hbad <;> simp [hb])]

theorem exec_srd_unprivileged {f : SIF} (hc : s.current? = some (g, sp)) (hro : sp.runOn = none) (hw : h.w = true → sp.pend = [])
    (hk : g.kGuard h = true) (hsup : sp.sup = false) (ha : srAssigned f.imm.toNat = true) (hn : 0x80 ≤ f.imm.toNat)
    (hwf : (Instr.srd h f).wellFormed = true) :
    exec (.srd h f) s = .next (deliver s g sp { code := cPriv } sp.pc sp.mask (encode (.srd h f))) := by
  have hv : vOk g (.srd h f) = true := rfl
  simp [exec_srd, execSrd, asUniform, hc, beforeEffect_checks hro hw, hwf, hv, ha, hn, hsup, hk]

/-! ### Nothing is done -/

theorem RunsUniform.guardedOff (hi : RunsUniform i h) (hr : Ready i h s g sp) (hk : g.kGuard h = false) : exec i s = .next (finish s g sp 4) := by
  obtain ⟨body, he⟩ := hi
  rw [exec_uniform (he s) hr rfl rfl, hk]
  rfl
theorem RunsLanes.noneActive (hi : RunsLanes i h) (hr : Ready i h s g sp) (ha : activeLanes g sp h = []) : exec i s = .next (finish s g sp 12) := by
  obtain ⟨body, he⟩ := hi
  rw [exec_lanes (he s) hr rfl, ha]
  rfl
theorem activeLanes_eq_nil (hno : ∀ l, l < 64 → sp.mask.getLsbD l = true → xor ((g.lane l).pReg h.g.toNat) h.gn = false) :
    activeLanes g sp h = [] := by
  refine List.eq_nil_iff_forall_not_mem.2 fun l hl => ?_
  obtain ⟨hm, hx⟩ := (mem_activeLanes g sp h l).1 hl
  exact Bool.false_ne_true ((hno l (BitVec.lt_of_getLsbD hm) hm).symm.trans hx)

end

/-- Settles O5: guards by the two courses, the rest by what comes before the effect. -/
theorem guardsWaitsAndIllegalFormsComeFirst : Obligations.GuardsWaitsAndIllegalFormsComeFirst := by
  refine ⟨fun h s g sp => ⟨fun hk sr si sb i hi hr => ?guardedOff, fun hno f i hi hr => ?noneActive⟩,
    fun h s g sp hc hro => ⟨fun sr f i hi => ?checks, fun f hw hk hsup hlo hhi hwf => ?privilege⟩⟩
  case guardedOff =>
    have hrun : RunsUniform i h := by
      simp only [List.mem_cons, List.not_mem_nil, or_false] at hi
      casesm* _ ∨ (_ : Prop) <;> subst hi <;> exact ⟨_, fun _ => rfl⟩
    exact completes_finish_same 4 (hrun.guardedOff hr hk) hr.group hr.split
  case noneActive =>
    have hrun : RunsLanes i h := by
      simp only [List.mem_cons, List.not_mem_nil, or_false] at hi
      obtain rfl | rfl | rfl | rfl | rfl | rfl | rfl | rfl | rfl | rfl | rfl | rfl | rfl | rfl | rfl | rfl | rfl | rfl | rfl | rfl | rfl := hi
      · exact .result (exec_mov h f)
      · exact .result (exec_iadd h f)
      · exact .result (exec_imul h f)
      · exact .write (exec_icmp h f)
      · exact .later (exec_idiv h f)
      · exact .floatResult (exec_fadd h f)
      · exact .floatLater (exec_fdiv h f)
      · exact .write (exec_fcmp h f)
      · exact .float (exec_cvt h f)
      · exact ⟨_, exec_vote h f⟩
      · exact ⟨_, exec_fold h f⟩
      · exact ⟨_, exec_elect h f⟩
      · exact ⟨_, exec_brd h f⟩
      · exact ⟨_, exec_lexit h f⟩
      · exact .plainMemory (exec_ld h f)
      · exact .memory (exec_st h f)
      · exact .memory (exec_atom h f)
      · exact .memory (exec_red h f)
      · exact .memory (exec_arrive h f)
      · exact ⟨_, exec_waitph h f⟩
      · exact ⟨_, exec_rawait h f⟩
    exact completes_finish_same 12 (hrun.noneActive hr (activeLanes_eq_nil hno)) hr.group hr.split
  case checks =>
    have hask : AsksFirst i h := by
      simp only [List.mem_cons, List.not_mem_nil, or_false] at hi
      obtain rfl | rfl | rfl | rfl | rfl | rfl | rfl := hi
      · exact RunsUniform.asksFirst ⟨_, exec_sadd h sr⟩
      · exact RunsUniform.asksFirst ⟨_, exec_jr h sr⟩
      · exact (RunsLanes.result (exec_iadd h f)).asksFirst
      · exact (RunsLanes.floatResult (exec_fadd h f)).asksFirst
      · exact (RunsLanes.plainMemory (exec_ld h f)).asksFirst
      · exact (RunsLanes.memory (exec_st h f)).asksFirst
      · exact RunsLanes.asksFirst ⟨_, exec_vote h f⟩
    exact ⟨hask.waits hc hro, hask.illegal hc hro⟩
  case privilege => exact exec_srd_unprivileged hc hro hw hk hsup (by simp [srAssigned, hlo, hhi]) hlo hwf

end Sys2Proof.Machine
end

section
/-! PROOFS. Instruction fetch from the home (R154): the instruction cache is filled with what stands at the home, and every word is read there. -/

namespace Sys2Proof.Machine

/-! ### Translation for a fetch -/

/-- The core's instruction TLB holds the translation of `n` aligned bytes at `va`, which may be executed and lie at byte `pa` of a normal page of HBM that
is not poisoned (R61, R154, R378, R382). -/
def CodePage (s : State) (c : Ctx) (va n pa : Nat) : Prop :=
  va % n = 0 ∧ pa % n = 0 ∧ poisoned s (.hbm pa) = false ∧ ∃ e, tlbFind s (192 + c.core) c va = some e ∧
    permSub c e needX = none ∧ pa = e.pbase + (va - e.vbase) ∧ pa < apertureBase ∧ e.ptype = 0 ∧ e.efmt ≠ 15 ∧ e.efmt ≠ 16

theorem targetOf_plain {c : Ctx} {e : TlbEntry} {va pa : Nat} (hpa : pa = e.pbase + (va - e.vbase)) (hap : pa < apertureBase) (htype : e.ptype = 0)
    (h15 : e.efmt ≠ 15) (h16 : e.efmt ≠ 16) : targetOf c e va = .plain pa e := by
  have h15' : e.efmt.toNat ≠ 15 := fun h => h15 (BitVec.eq_of_toNat_eq h)
  have h16' : e.efmt.toNat ≠ 16 := fun h => h16 (BitVec.eq_of_toNat_eq h)
  simp only [targetOf, ← hpa, htype]
  simp [Nat.not_le.2 hap, h15', h16']

/-- The check of such a fetch changes nothing and finds the page. -/
theorem globalCheck_code {s : State} {c : Ctx} {addr : DWord} {n pa : Nat} (hlt : addr.toNat < 2 ^ 54) (h : CodePage s c addr.toNat n pa) :
    ∃ e, globalCheck s c needX addr n = (s, .ok (.plain pa e)) := by
  obtain ⟨halign, -, -, e, hfind, hperm, hpa, hap, htype, h15, h16⟩ := h
  refine ⟨e, ?_⟩
  have htr : translateFor s c needX.x needX.w addr.toNat = (s, .ok e) := by
    have hf : tlbFind s (tlbOwner c true) c addr.toNat = some e := hfind
    simp [translateFor, translate, hf, needX]
  simp only [globalCheck, htr, hperm, targetOf_plain hpa hap htype h15 h16, if_neg (Nat.not_le.2 hlt)]
  simp [halign, needX]

/-! ### The instruction cache -/

/-- Of the whole device only what caches hold has changed, and the core's instruction cache holds of these lines nothing but what stands at the home. -/
structure CodeFilled (s t : State) (core : Nat) (lines : Nat → Prop) : Prop where
  device : t = { s with caches := t.caches }
  home : ∀ line, lines line → ∀ c, cacheLine? t .instr core line = some c → c.data = BitVec.ofNat 1024 (memReadNat s.hbm (128 * line) 128)

section
variable {s t : State} {core : Nat} {lines : Nat → Prop}

theorem CodeFilled.refl (h : ∀ line, lines line → cacheLine? s .instr core line = none) : CodeFilled s s core lines :=
  ⟨rfl, fun line hl c hc => by rw [h line hl] at hc; cases hc⟩
/-- A line dropped is one less to speak of. -/
theorem CodeFilled.drop (h : CodeFilled s t core lines) (l : Nat) : CodeFilled s (dropLine t .instr core l) core lines := by
  refine ⟨by rw [h.device]; rfl, fun line hl c hc => ?_⟩
  by_cases he : line = l
  · rw [he, cacheLine?_dropLine_self] at hc
    cases hc
  · rw [cacheLine?_dropLine_other t (by simpa using he)] at hc
    exact h.home line hl c hc
theorem CodeFilled.makeRoom (h : CodeFilled s t core lines) : CodeFilled s (Machine.makeRoom t .instr core) core lines := by
  simp only [Machine.makeRoom, CacheKind.lines]
  split
  · exact h
  · split
    · exact h.drop _
    · exact h
/-- After a fill the line is held. -/
theorem CodeFilled.fill (h : CodeFilled s t core lines) (line : Nat) (va : Nat × Nat) : CodeFilled s (fillLine t .instr core line va) core lines ∧
    (cacheLine? (fillLine t .instr core line va) .instr core line).isSome = true := by
  cases hc : cacheLine? t .instr core line with
  | some c =>
    by_cases hv : va ∈ c.vas
    · rw [fillLine_held t .instr core line va c hc hv, hc]
      exact ⟨h, rfl⟩
    · have hfill : fillLine t .instr core line va = modLine t .instr core line (fun x => { x with vas := va :: x.vas }) := by
        simp only [fillLine, hc, List.contains_eq_mem, hv, decide_false, Bool.false_eq_true, if_false]
        rfl
      rw [hfill, cacheLine?_modLine_self hc]
      refine ⟨⟨by rw [h.device]; rfl, fun n hn x hx => ?_⟩, rfl⟩
      rw [cacheLine?_modLine t .instr core line (f := fun x => { x with vas := va :: x.vas }) (fun _ _ _ _ => rfl), Option.map_eq_some_iff] at hx
      obtain ⟨y, hy, rfl⟩ := hx
      have hkept := h.home n hn y hy
      split <;> exact hkept
  | none =>
    have hroom := h.makeRoom
    have hhbm : (Machine.makeRoom t .instr core).hbm = s.hbm := by rw [hroom.device]
    simp only [fillLine, hc, homeRead, hhbm]
    refine ⟨⟨by rw [hroom.device], fun n hn x hx => ?_⟩, by simp [cacheLine?]⟩
    simp only [cacheLine?, List.find?_cons] at hx
    split at hx
    next hline =>
      obtain rfl : line = n := by simpa using hline
      rw [← Option.some.inj hx]
    next => exact hroom.home n hn x hx

theorem lookupNat_nil {α : Type} (k : Nat) : lookupNat k ([] : List (Nat × α)) = none := rfl
/-- R154: a word that is not fetched ahead is the one at the home. -/
theorem CodeFilled.fetchWord {c : Ctx} {va pa : Nat} (h : CodeFilled s t c.core lines) (hl : lines (pa / 128)) (hlt : va < 2 ^ 54)
    (hp : CodePage s c va 4 pa) : ∃ t', Machine.fetchWord t c [] va = (t', .ok (wd (memReadNat s.hbm pa 4))) ∧ CodeFilled s t' c.core lines := by
  have hva : (dw va).toNat = va := by
    rw [dw, BitVec.toNat_ofNat]
    omega
  have hp' : CodePage t c (dw va).toNat 4 pa := by
    rw [hva, h.device]
    exact hp
  obtain ⟨e, hcheck⟩ := globalCheck_code (by omega) hp'
  obtain ⟨-, hpa, hpo, -⟩ := hp'
  obtain ⟨hfilled, hheld⟩ := h.fill (pa / 128) (lineVas va pa false)
  obtain ⟨l, hline⟩ := Option.isSome_iff_exists.1 hheld
  have hbytes : l.bytes (pa % 128) 4 = memReadNat s.hbm pa 4 := by
    rw [CacheLine.bytes, hfilled.home _ hl l hline, bytes_filled _ _ (by omega), Nat.div_add_mod]
  refine ⟨_, ?_, hfilled⟩
  simp only [Machine.fetchWord, lookupNat_nil, hcheck, hpo, hline, hbytes, Bool.false_eq_true, if_false]
end

/-! ### The words of an instruction -/

section
variable {s : State} {g : Group} {sp : Split} {pa : Nat}

/-- Nothing is fetched ahead, and the `n` words at the split's PC lie at `pa`, in pages for a fetch, and in no line of the instruction cache. -/
def CodeAt (s : State) (g : Group) (sp : Split) (pa n : Nat) : Prop :=
  sp.prefetch = [] ∧ ∀ k, k < n → CodePage s (splitCtx g sp) (sp.pc + BitVec.ofNat 54 (4 * k)).toNat 4 (pa + 4 * k) ∧
    cacheLine? s .instr g.core ((pa + 4 * k) / 128) = none
/-- The word `k` at a place of HBM. -/
def codeWord (s : State) (pa k : Nat) : Word := wd (memReadNat s.hbm (pa + 4 * k) 4)

theorem CodeAt.fetch {n k : Nat} {t : State} {lines : Nat → Prop} (h : CodeAt s g sp pa n) (hlines : ∀ k, k < n → lines ((pa + 4 * k) / 128)) (hk : k < n)
    (ht : CodeFilled s t g.core lines) : ∃ t', fetchWord t (splitCtx g sp) sp.prefetch (sp.pc + BitVec.ofNat 54 (4 * k)).toNat = (t', .ok (codeWord s pa k)) ∧
      CodeFilled s t' g.core lines := by
  rw [h.1]
  exact CodeFilled.fetchWord (c := splitCtx g sp) ht (hlines k hk) (BitVec.isLt _) (h.2 k hk).1
theorem CodeAt.unfilled {n : Nat} (h : CodeAt s g sp pa n) : CodeFilled s s g.core (fun line => ∃ k, k < n ∧ line = (pa + 4 * k) / 128) :=
  .refl fun line hl => by
    obtain ⟨k, hk, rfl⟩ := hl
    exact (h.2 k hk).2

/-- A short word is fetched alone. -/
theorem fetchInstr_short (h : CodeAt s g sp pa 1) (hfar : sp.farPc = 0) (hl : isLong (codeWord s pa 0) = false) :
    ∃ t, t = { s with caches := t.caches } ∧ fetchInstr s g sp = (t, .ok [codeWord s pa 0]) := by
  obtain ⟨t, hfetch, hfilled⟩ := h.fetch (fun k hk => ⟨k, hk, rfl⟩) Nat.one_pos h.unfilled
  refine ⟨t, hfilled.device, ?_⟩
  rw [Nat.mul_zero] at hfetch
  simp only [fetchInstr, hfar, bne_self_eq_false, Bool.false_eq_true, if_false, hfetch, hl, Bool.not_false, if_true]
/-- A long instruction is fetched word by word. -/
theorem fetchInstr_long (h : CodeAt s g sp pa 3) (hfar : sp.farPc = 0) (hl : isLong (codeWord s pa 0) = true) :
    ∃ t, t = { s with caches := t.caches } ∧ fetchInstr s g sp = (t, .ok [codeWord s pa 0, codeWord s pa 1, codeWord s pa 2]) := by
  have hlines : ∀ k, k < 3 → (fun line => ∃ k, k < 3 ∧ line = (pa + 4 * k) / 128) ((pa + 4 * k) / 128) := fun k hk => ⟨k, hk, rfl⟩
  obtain ⟨t0, hfetch0, hfilled0⟩ := h.fetch (k := 0) hlines (by omega) h.unfilled
  obtain ⟨t1, hfetch1, hfilled1⟩ := h.fetch (k := 1) hlines (by omega) hfilled0
  obtain ⟨t2, hfetch2, hfilled2⟩ := h.fetch (k := 2) hlines (by omega) hfilled1
  refine ⟨t2, hfilled2.device, ?_⟩
  rw [Nat.mul_zero] at hfetch0
  rw [Nat.mul_one] at hfetch1
  simp only [fetchInstr, hfar, bne_self_eq_false, Bool.false_eq_true, if_false, hfetch0, hfetch1, hfetch2, hl, Bool.not_true]

/-! ### The bytes of the words -/

/-- The `n` bytes of HBM from `pa`. -/
def codeBytes (s : State) (pa n : Nat) : List Byte := (List.range n).map (fun k => memRead s.hbm (pa + k))

theorem leBytes_codeWord (s : State) (pa k : Nat) : leBytes 4 (codeWord s pa k).toNat =
    [memRead s.hbm (pa + 4 * k), memRead s.hbm (pa + 4 * k + 1), memRead s.hbm (pa + 4 * k + 2), memRead s.hbm (pa + 4 * k + 3)] := by
  have h := leBytes_word (n := 4) (m := 32)
    [memRead s.hbm (pa + 4 * k), memRead s.hbm (pa + 4 * k + 1), memRead s.hbm (pa + 4 * k + 2), memRead s.hbm (pa + 4 * k + 3)] (Nat.le_refl 4) rfl
  exact h
theorem codeWord_bit (s : State) (pa : Nat) {i : Nat} (hi : i < 32) : (codeWord s pa 0).getLsbD i = bit (memReadNat s.hbm pa 4) i := by
  rw [codeWord, wd, BitVec.getLsbD_ofNat, Nat.testBit_eq_decide_div_mod_eq, bit, decide_eq_true hi]
  exact (beq_eq_decide _ _).symm
theorem wordBytes_short (s : State) (pa : Nat) : wordBytes [codeWord s pa 0] = codeBytes s pa 4 := by
  simp [wordBytes, leBytes_codeWord, codeBytes, List.range_succ]
theorem wordBytes_long (s : State) (pa : Nat) : wordBytes [codeWord s pa 0, codeWord s pa 1, codeWord s pa 2] = codeBytes s pa 12 := by
  simp [wordBytes, leBytes_codeWord, codeBytes, List.range_succ, Nat.add_assoc]
/-- The first word that the Kloam decoder reads is the first at the place. -/
theorem firstWord_codeBytes {n : Nat} (s : State) (pa : Nat) (hn : 1 ≤ n) : BitVec.ofNat 32 (leNat ((codeBytes s pa (4 * n)).take 4)) = codeWord s pa 0 := by
  have htake : (codeBytes s pa (4 * n)).take 4 = codeBytes s pa 4 := by
    rw [codeBytes, ← List.map_take, List.take_range, Nat.min_eq_left (by omega), codeBytes]
  rw [htake]
  rfl
/-- R144: bytes that are one whole Kloam instruction are a short word or three words of which the first is long. -/
theorem decodeKloam_whole {n : Nat} {i : Instr} (hd : decodeKloam (codeBytes s pa (4 * n)) = .ok (i, [])) :
    (n = 1 ∧ isLong (codeWord s pa 0) = false) ∨ (n = 3 ∧ isLong (codeWord s pa 0) = true) := by
  have hlen : (codeBytes s pa (4 * n)).length = 4 * n := by simp [codeBytes]
  rw [decodeKloam, hlen] at hd
  split at hd
  · cases hd
  · simp only [firstWord_codeBytes s pa (show 1 ≤ n by omega)] at hd
    split at hd
    next hlong =>
      split at hd
      · cases hd
      · have hrest := List.drop_eq_nil_iff.1 (map_ok hd).2.symm
        exact .inr ⟨by omega, hlong⟩
    next hshort =>
      have hrest := List.drop_eq_nil_iff.1 (map_ok hd).2.symm
      exact .inl ⟨by omega, by simpa using hshort⟩
/-- The words of one whole instruction are fetched, and their bytes are those at the place. -/
theorem fetchInstr_whole {n : Nat} {i : Instr} (h : CodeAt s g sp pa n) (hfar : sp.farPc = 0) (hd : decodeKloam (codeBytes s pa (4 * n)) = .ok (i, [])) :
    ∃ t ws, t = { s with caches := t.caches } ∧ fetchInstr s g sp = (t, .ok ws) ∧ wordBytes ws = codeBytes s pa (4 * n) := by
  obtain ⟨rfl, hshort⟩ | ⟨rfl, hlong⟩ := decodeKloam_whole hd
  · obtain ⟨t, ht, hfetch⟩ := fetchInstr_short h hfar hshort
    exact ⟨t, _, ht, hfetch, wordBytes_short s pa⟩
  · obtain ⟨t, ht, hfetch⟩ := fetchInstr_long h hfar hlong
    exact ⟨t, _, ht, hfetch, wordBytes_long s pa⟩

end

end Sys2Proof.Machine
end

section
/-! PROOFS. A step and the instruction it executes (O57): the schedule's next item, the fetch and the decoder before it, and the turns of a cycle. -/

namespace Sys2Proof.Machine

/-! ### The turns of a cycle (R364) -/

/-- The choice between the contender chosen so far and another: the one that comes sooner. -/
def soonerOf (o : Option Contender) (x : Contender) : Option Contender :=
  match o with
  | none => some x
  | some y => if x.sooner y then some x else some y

theorem Contender.sooner_asymm {x y : Contender} (h : x.sooner y = true) : y.sooner x = false := by
  simp only [Contender.sooner, Bool.or_eq_true, Bool.and_eq_true, decide_eq_true_eq, beq_iff_eq] at h
  simp only [Contender.sooner, Bool.or_eq_false_iff, Bool.and_eq_false_iff, decide_eq_false_iff_not, beq_eq_false_iff_ne]
  omega
/-- One that comes sooner than every other is chosen wherever it stands. -/
theorem foldl_soonerOf {x : Contender} (l : List Contender) (o : Option Contender) (hl : ∀ y ∈ l, y ≠ x → x.sooner y = true)
    (ho : ∀ y, o = some y → y ≠ x → x.sooner y = true) (hx : x ∈ l ∨ o = some x) : l.foldl soonerOf o = some x := by
  induction l generalizing o with
  | nil => exact hx.resolve_left (by simp)
  | cons a l ih =>
    have hchosen : soonerOf o a = some a ∨ soonerOf o a = o := by
      cases o with
      | none => exact .inl rfl
      | some y =>
        simp only [soonerOf]
        split
        · exact .inl rfl
        · exact .inr rfl
    refine ih _ (fun y hy => hl y (List.mem_cons_of_mem a hy)) (fun y hy hne => ?_) ?_
    · obtain h | h := hchosen
      · obtain rfl : a = y := Option.some.inj (h.symm.trans hy)
        exact hl a List.mem_cons_self hne
      · exact ho y (h.symm.trans hy) hne
    · obtain hx | rfl := hx
      · obtain rfl | hx := List.mem_cons.1 hx
        · refine .inr ?_
          cases o with
          | none => rfl
          | some y =>
            by_cases hy : y = x
            · simp [soonerOf, hy]
            · simp [soonerOf, ho y rfl hy]
        · exact .inl hx
      · refine .inr ?_
        by_cases ha : a = x
        · simp [soonerOf, ha]
        · simp [soonerOf, Contender.sooner_asymm (hl a List.mem_cons_self ha)]
/-- R364: of a quadrant the contender that comes sooner than every other issues. -/
theorem arbiter_eq {l : List Contender} {q : Nat} {x : Contender} (hx : x ∈ l) (hq : x.quad = q)
    (hl : ∀ y ∈ l, y.quad = q → y ≠ x → x.sooner y = true) : arbiter l q = some x := by
  refine foldl_soonerOf (l.filter (fun y => y.quad == q)) none (fun y hy => ?_) (fun y hy => by cases hy) (.inl ?_)
  · obtain ⟨hy, hyq⟩ := List.mem_filter.1 hy
    exact hl y hy (by simpa using hyq)
  · exact List.mem_filter.2 ⟨hx, by simpa using hq⟩
theorem issue_mem_turns {s : State} {q : Nat} {x : Contender} (hx : x ∈ readySplits s) (hq : x.quad = q)
    (hl : ∀ y ∈ readySplits s, y.quad = q → y ≠ x → x.sooner y = true) (hslow : q ∉ s.slow) : Action.issue x.split ∈ (beginCycle s).turns := by
  have hissuing : x ∈ issuing s := by
    refine List.mem_filterMap.2 ⟨q, List.mem_filter.2 ⟨?_, by simpa using hslow⟩, arbiter_eq hx hq hl⟩
    exact List.mem_eraseDups.2 (List.mem_map.2 ⟨x, hx, hq⟩)
  exact List.mem_append_left _ (List.mem_map.2 ⟨x, hissuing, rfl⟩)

/-! ### Veils (R72) -/

theorem withoutVeils_of_nil {s : State} (h : s.veils = []) : { s with veils := [] } = s := by rw [← h]
theorem settleVeils_ends (i : Instr) (s : State) (h : s.veils = [] ∨ lingers i = false) : settleVeils i s = { s with veils := [] } := by
  by_cases hv : s.veils = []
  · rw [settleVeils_of_none i s hv, withoutVeils_of_nil hv]
  · simp [settleVeils, hv, h.resolve_left hv]

/-! ### The course of a step -/

/-- What follows an action: the instruction or row it came to, if it came to one. -/
def followUp (r : State × Option Instr) : Host.Outcome State Fault Refusal :=
  match r with
  | (t, some i) => exec i t
  | (t, none) => .next t
/-- The state in which an item of the schedule is taken up, `dt` cycles on (R421). -/
def State.taking (s : State) (dt : Nat) (xs : List AgendaItem) : State :=
  { s with agenda := xs, clock := if s.boot = .shutdown then s.clock else s.clock + BitVec.ofNat 64 dt, actor := .nobody }

section
variable {s : State} {dt : Nat} {xs : List AgendaItem}

theorem step_eq_followUp (s : State) : step s = followUp (prepare s) := rfl
theorem step_agenda {a : Action} (h : s.agenda = ⟨dt, a⟩ :: xs) : step s = followUp (performSeen a (s.taking dt xs)) := by
  simp only [step_eq_followUp, prepare, h, State.taking, beq_iff_eq, dw]

/-- An action that keeps the veils comes to an instruction that settles them. -/
theorem performSeen_keeps {a : Action} {s t : State} {i : Instr} (ha : a.keepsVeils = true) (h : perform a s = (t, some i)) :
    performSeen a s = (settleVeils i t, some i) := by
  simp only [performSeen, ha, Bool.or_true, if_true, h]
theorem performSeen_keeps_none {a : Action} {s t : State} (ha : a.keepsVeils = true) (h : perform a s = (t, none)) : performSeen a s = (t, none) := by
  simp only [performSeen, ha, Bool.or_true, if_true, h]
/-- Any other action ends them first. -/
theorem performSeen_ends {a : Action} {s t : State} {i : Instr} (ha : a.keepsVeils = false) (h : perform a { s with veils := [] } = (t, some i))
    (ht : t.veils = []) : performSeen a s = (t, some i) := by
  have hstart : (if (s.veils.isEmpty || a.keepsVeils) = true then s else { s with veils := [] }) = { s with veils := [] } := by
    split
    next hv => rw [withoutVeils_of_nil (by simpa [ha] using hv)]
    next => rfl
  simp only [performSeen, hstart, h, settleVeils_of_none i t ht]

/-! ### The items of the schedule -/

theorem step_event {i : Instr} (h : s.agenda = ⟨dt, .event i⟩ :: xs) : step s = exec i { s.taking dt xs with veils := [] } := by
  rw [step_agenda h, performSeen_ends (a := .event i) (i := i) rfl rfl rfl]
  rfl

theorem step_issue {r : SplitRef} {t : State} {i : Instr} (h : s.agenda = ⟨dt, .issue r⟩ :: xs) (hi : issueSplit (s.taking dt xs) r = (t, some i)) :
    step s = exec i (settleVeils i t) := by
  rw [step_agenda h, performSeen_keeps (a := .issue r) rfl hi]
  rfl
theorem step_issue_none {r : SplitRef} {t : State} (h : s.agenda = ⟨dt, .issue r⟩ :: xs) (hi : issueSplit (s.taking dt xs) r = (t, none)) :
    step s = .next t := by
  rw [step_agenda h, performSeen_keeps_none (a := .issue r) rfl hi]
  rfl
theorem step_engine {r : EngRef} {t : State} {i : Instr} (h : s.agenda = ⟨dt, .engine r⟩ :: xs) (hi : issueEngine (s.taking dt xs) r = (t, some i)) :
    step s = exec i (settleVeils i t) := by
  rw [step_agenda h, performSeen_keeps (a := .engine r) rfl hi]
  rfl
theorem step_steep {id : Nat} {t : State} {i : Instr} (h : s.agenda = ⟨dt, .steep id⟩ :: xs)
    (hi : issueSteep { s.taking dt xs with veils := [] } id = (t, some i)) (ht : t.veils = []) : step s = exec i t := by
  rw [step_agenda h, performSeen_ends (a := .steep id) rfl hi ht]
  rfl

/-! ### The turns of a cycle -/

/-- A new cycle: the rows that are due, and whose turn it is in it. -/
def State.nextCycle (s : State) : State :=
  beginCycle (tick { s with clock := if s.boot = .shutdown then s.clock else s.clock + 1, actor := .nobody, veils := [] })

theorem step_turn {a : Action} {l : List Action} (hag : s.agenda = []) (ha : s.turns = a :: l) :
    step s = followUp (performSeen a { s with turns := l, actor := .nobody }) := by
  simp only [step_eq_followUp, prepare, hag, ha]
theorem nextCycle_eq (s : State) :
    beginCycle (tick { s with clock := if s.boot == .shutdown then s.clock else s.clock + 1, actor := .nobody, veils := [] }) = s.nextCycle := by
  simp only [State.nextCycle, beq_iff_eq]
theorem step_idle (hag : s.agenda = []) (ha : s.turns = []) (hu : s.nextCycle.turns = []) : step s = .next s.nextCycle := by
  simp only [step_eq_followUp, prepare, nextCycle_eq]
  simp only [hag, ha, hu, followUp]
theorem step_newCycle {a : Action} {l : List Action} (hag : s.agenda = []) (ha : s.turns = []) (hu : s.nextCycle.turns = a :: l) :
    step s = followUp (performSeen a { s.nextCycle with turns := l }) := by
  simp only [step_eq_followUp, prepare, nextCycle_eq]
  simp only [hag, ha, hu]

/-! ### An issue of a split -/

/-- With no cause before the instruction the split comes to it. -/
theorem causeAtIssue_none {u : State} {g : Group} {sp : Split} (hpend : pendingCause u g sp = none) (hpoison : sp.poisonAt = none)
    (hwait : waitingCause sp = none) : causeAtIssue u g sp = (u, none) := by
  simp only [causeAtIssue, hpend, hpoison, hwait, ite_self]
/-- The state in which a split that issues fetches its instruction. -/
theorem issueSplit_fetches {u t : State} {r : SplitRef} {g : Group} {sp : Split} {ws : List Word} (hfound : u.split? r = some (g, sp))
    (hrun : canRun u g = true) (hmay : sp.mayIssue = true)
    (hcause : causeAtIssue (u.setGroup (g.setSplit (sp.issuing u.clock))) (g.setSplit (sp.issuing u.clock)) (sp.issuing u.clock) =
      (u.setGroup (g.setSplit (sp.issuing u.clock)), none))
    (hfetch : fetchInstr (u.setGroup (g.setSplit (sp.issuing u.clock))) (g.setSplit (sp.issuing u.clock)) (sp.issuing u.clock) = (t, .ok ws)) :
    (∀ i rest, decodeKloam (wordBytes ws) = .ok (i, rest) → issueSplit u r = ({ t with actor := .split r }, some i)) ∧
      (∀ e, decodeKloam (wordBytes ws) = .error e →
        issueSplit u r = (illegalIssue t (g.setSplit (sp.issuing u.clock)) (sp.issuing u.clock) ws, none)) := by
  refine ⟨fun i rest hd => ?_, fun e hd => ?_⟩ <;>
    simp only [issueSplit, hfound, hrun, hmay, Bool.not_true, Bool.or_self, Bool.false_eq_true, if_false, hcause, hfetch, hd]
/-- R28, R37, R152: a word with W = 0 that decodes to none raises ILLOP where no lanes run on. -/
theorem illegalIssue_raises {t : State} {g : Group} {sp : Split} {w : Word} (hro : sp.runOn = none) (hw : w.getLsbD 1 = false) :
    illegalIssue t g sp [w] = raise t g sp { code := cIllop } [w] := by
  simp only [illegalIssue, hro, hw, Bool.false_and, Bool.false_eq_true, if_false]

/-! ### A word of an engine -/

theorem engineRead_home {u : State} {core pa n : Nat} (h : ∀ k, k < n → cacheLine? u .l1 core ((pa + k) / 128) = none) :
    engineRead u core pa n = memReadNat u.hbm pa n := by
  induction n generalizing pa with
  | zero => rfl
  | succ n ih =>
    have hbyte : engineByte u core pa = (memRead u.hbm pa).toNat := by
      have hline := h 0 (Nat.succ_pos n)
      rw [Nat.add_zero] at hline
      simp [engineByte, hline, homeRead, memReadNat]
    rw [engineRead, memReadNat, hbyte, ih fun k hk => by rw [Nat.add_assoc, Nat.add_comm 1 k]; exact h (k + 1) (by omega)]
theorem issueEngine_fetches {u : State} {r : EngRef} {p : Program} {pa : Nat} {i : Instr} (hp : u.prog? r = some p) (hrun : engineRuns u p = true)
    (hstate : p.state = .running) (hpage : CodePage u p.ctx p.pc.toNat 8 pa) (hline : cacheLine? u .l1 r.core (pa / 128) = none)
    (hd : decodeLauter (dw (memReadNat u.hbm pa 8)) = .ok i) : issueEngine u r = ({ u with actor := .engine r }, some i) := by
  have hpc : (pcWord p.pc).toNat = p.pc.toNat := by
    rw [pcWord, BitVec.zeroExtend, BitVec.toNat_setWidth]
    exact Nat.mod_eq_of_lt (Nat.lt_of_lt_of_le p.pc.isLt (by decide))
  obtain ⟨e, hcheck⟩ := globalCheck_code (addr := pcWord p.pc) (by rw [hpc]; exact p.pc.isLt) (by rw [hpc]; exact hpage)
  obtain ⟨-, hpa, hpo, -⟩ := hpage
  have hread : engineRead u r.core pa 8 = memReadNat u.hbm pa 8 := engineRead_home fun k hk => by
    rw [show (pa + k) / 128 = pa / 128 by omega]
    exact hline
  simp only [issueEngine, hp, hrun, hstate, hcheck, hpo, hread, hd, Bool.not_true, bne_self_eq_false, Bool.or_self, Bool.false_eq_true, if_false]

/-! ### A word of a steep run -/

theorem issueSteep_fetches {u : State} {id : Nat} {x : SteepRun} {w : Word} {i : Instr} (hx : u.run? id = some x) (hboot : u.boot = .running)
    (hwait : x.waitv = none) (haway : x.away = false) (hw : x.steep.code[x.pc]? = some w) (hd : decodeSteep w = .ok i) :
    issueSteep u id = ({ u with actor := .steep id }, some i) := by
  simp [issueSteep, hx, hboot, hwait, haway, hw, hd]
end

/-! ### The decoded instruction -/

/-- Settles O57: an item of the schedule by what it comes to, a cycle by its turns. -/
theorem stepRunsTheDecodedInstruction : Obligations.StepRunsTheDecodedInstruction := by
  intro s
  refine ⟨fun dt xs => ⟨fun i h => step_event h, ?issue, ?engine, ?steep, fun i h => settleVeils_ends i s h⟩, fun hag => ?cycle⟩
  case issue =>
    intro r g sp0 pa h hfound hrun hmay sp g1 v found bytes hpend hpoison hwait hfar
    have hcause := causeAtIssue_none hpend hpoison hwait
    refine ⟨fun n i hf hd => ?decoded, fun e hf hd hl hw hro => ?illegal⟩
    case decoded =>
      obtain ⟨t, ws, ht, hfetch, hbytes⟩ := fetchInstr_whole (s := v) (g := g1) (sp := sp) hf hfar hd
      exact ⟨t, ht, step_issue h ((issueSplit_fetches hfound hrun hmay hcause hfetch).1 i [] (by rw [hbytes]; exact hd))⟩
    case illegal =>
      have hshort : isLong (codeWord v pa 0) = false := (codeWord_bit v pa (by decide)).trans hl
      obtain ⟨t, ht, hfetch⟩ := fetchInstr_short (s := v) (g := g1) (sp := sp) hf hfar hshort
      have hissue := (issueSplit_fetches hfound hrun hmay hcause hfetch).2 e (by rw [wordBytes_short]; exact hd)
      rw [illegalIssue_raises hro ((codeWord_bit v pa (by decide)).trans hw)] at hissue
      exact ⟨t, ht, step_issue_none h hissue⟩
  case engine =>
    intro r p pa i h hp hrun hstate hpage hline hd
    exact step_engine h (issueEngine_fetches hp hrun hstate hpage hline hd)
  case steep =>
    intro id x w i h hx hboot hwait haway hw hd
    exact step_steep h (issueSteep_fetches hx hboot hwait haway hw hd) rfl
  case cycle =>
    exact ⟨fun a l ha => step_turn hag ha, fun ha => ⟨fun hu => step_idle hag ha hu, fun a l hu => step_newCycle hag ha hu⟩,
      fun q x hl hx hq hslow => issue_mem_turns hx hq hl hslow⟩

end Sys2Proof.Machine
end

section
/-! PROOFS. Uniform results (O2): the values of R165's table, of the conditions of SCMP and KLOP, and of the two bit counts. -/

namespace Sys2Proof.Machine

/-! ### Uniform instructions that write one register (R161) -/

section
variable {i : Instr} {h : Hdr} {s : State} {g : Group} {sp : Split} {F : Group → Group}

/-- What a ready uniform instruction answers whose guard holds. -/
theorem exec_uniformWrite (he : exec i s = uniformWrite i h F s) (hr : Ready i h s g sp) (hk : g.kGuard h = true) :
    exec i s = .next (finish s (F g) sp 4) := by
  rw [exec_uniform he hr rfl rfl, if_pos hk]
theorem writesS_uniformWrite {d : Nat} {v : DWord} (he : exec i s = uniformWrite i h F s) (hr : Ready i h s g sp) (hk : g.kGuard h = true)
    (hF : F g = g.setS d v) : WritesS i s g sp (sp.pc + 4) d v :=
  writesS_finish i s g sp 4 d v (hF ▸ exec_uniformWrite he hr hk) hr.group hr.split
theorem writesK_uniformWrite {d : Nat} {v : Bool} (he : exec i s = uniformWrite i h F s) (hr : Ready i h s g sp) (hk : g.kGuard h = true)
    (hF : F g = g.setK d v) : WritesK i s g sp (sp.pc + 4) d v :=
  writesK_finish i s g sp 4 d v (hF ▸ exec_uniformWrite he hr hk) hr.group hr.split
/-- R165: a two-source operation. -/
theorem writesS_alu {op : Nat} {f : SRF} {v : DWord} (he : exec i s = uniformWrite i h (aluWrite op f) s) (hr : Ready i h s g sp)
    (hk : g.kGuard h = true) (hv : uniformAlu op (g.sReg f.a.toNat) (opB g f) = v) : WritesS i s g sp (sp.pc + 4) f.d.toNat v :=
  writesS_uniformWrite he hr hk (by rw [aluWrite, hv])

end

/-! ### Shifts (R165) -/

/-- A shift count names a bit, or everything is shifted out. -/
theorem ite_bigShift {α : Type} (b : DWord) (x y : α) : (if bigShift b then x else y) = if b.toNat < 64 then y else x := by
  by_cases hb : b.toNat < 64
  · rw [if_pos hb, if_neg (by simpa [bigShift] using hb)]
  · rw [if_neg hb, if_pos (by simpa [bigShift] using hb)]
theorem uniformAlu_sshl (a b : DWord) : uniformAlu 0x0B a b = if b.toNat < 64 then a <<< b.toNat else 0 := ite_bigShift b _ _
theorem uniformAlu_sshr (a b : DWord) : uniformAlu 0x0C a b = if b.toNat < 64 then a >>> b.toNat else 0 := ite_bigShift b _ _
theorem uniformAlu_ssra (a b : DWord) : uniformAlu 0x0D a b =
    if b.toNat < 64 then a.sshiftRight b.toNat else if a.getLsbD 63 then BitVec.allOnes 64 else 0 := ite_bigShift b _ _

/-! ### Conditions and operations on K registers (R167, R168) -/

/-- R167: the eight conditions. -/
theorem scmpHolds_eq {c : Nat} {a b : DWord} {v : Bool} (h : (c, v) ∈ [(0, decide (a = b)), (1, decide (a ≠ b)), (2, decide (a.toInt < b.toInt)),
      (3, decide (b.toInt ≤ a.toInt)), (4, decide (a.toNat < b.toNat)), (5, decide (b.toNat ≤ a.toNat)), (6, decide (a &&& b ≠ 0)),
      (7, decide (a &&& b = 0))]) : scmpHolds c a b = v := by
  simp only [List.mem_cons, Prod.mk.injEq, List.not_mem_nil, or_false] at h
  obtain ⟨rfl, rfl⟩ | ⟨rfl, rfl⟩ | ⟨rfl, rfl⟩ | ⟨rfl, rfl⟩ | ⟨rfl, rfl⟩ | ⟨rfl, rfl⟩ | ⟨rfl, rfl⟩ | ⟨rfl, rfl⟩ := h
  · rfl
  · exact decide_not.symm
  · rfl
  · rfl
  · rfl
  · rfl
  · exact decide_not.symm
  · rfl
/-- R168: the eight operations. -/
theorem klopFn_eq {c : Nat} {a b v : Bool} (h : (c, v) ∈ [(0, a && b), (1, a || b), (2, xor a b), (3, a && !b), (4, a || !b), (5, !(a && b)),
      (6, !(a || b)), (7, !(xor a b))]) : klopFn c a b = v := by
  simp only [List.mem_cons, Prod.mk.injEq, List.not_mem_nil, or_false] at h
  obtain ⟨rfl, rfl⟩ | ⟨rfl, rfl⟩ | ⟨rfl, rfl⟩ | ⟨rfl, rfl⟩ | ⟨rfl, rfl⟩ | ⟨rfl, rfl⟩ | ⟨rfl, rfl⟩ | ⟨rfl, rfl⟩ := h <;> rfl

/-! ### Bit counts (R169) -/

theorem popcount_eq_countP (n v : Nat) : popcount n v = (List.range n).countP (fun k => v.testBit k) := by
  induction n generalizing v with
  | zero => rfl
  | succ n ih =>
    have htail : (fun k => v.testBit k) ∘ Nat.succ = fun k => (v / 2).testBit k := funext fun k => Nat.testBit_succ v k
    rw [popcount, ih, List.range_succ_eq_map, List.countP_cons, List.countP_map, htail, Nat.testBit_zero, Nat.add_comm]
    congr 1
    obtain h0 | h1 := Nat.mod_two_eq_zero_or_one v
    · simp [h0]
    · simp [h1]
theorem lt_two_pow_bitLen (v : Nat) : v < 2 ^ bitLen v := by
  unfold bitLen
  split
  next h0 => simp [h0]
  next h0 => exact Nat.lt_log2_self
/-- The highest one bit stands below `bitLen`. -/
theorem testBit_bitLen_pred {v : Nat} (hv : 0 < bitLen v) : v.testBit (bitLen v - 1) = true := by
  unfold bitLen at hv ⊢
  split at hv
  · omega
  next h0 =>
    rw [if_neg h0, Nat.add_sub_cancel]
    exact Nat.testBit_log2 h0
/-- R169: above the highest one bit of a quadword there are `64 - bitLen` zeros, and no more. -/
theorem leadingZeros_spec (x : DWord) : (∀ k, k < 64 - bitLen x.toNat → x.getLsbD (63 - k) = false) ∧
    (64 - bitLen x.toNat < 64 → x.getLsbD (63 - (64 - bitLen x.toNat)) = true) := by
  have hle : bitLen x.toNat ≤ 64 := bitLen_le x.isLt
  refine ⟨fun k hk => ?_, fun hn => ?_⟩
  · exact Nat.testBit_lt_two_pow ((lt_two_pow_bitLen _).trans_le (Nat.pow_le_pow_right (by norm_num) (by omega)))
  · rw [show 63 - (64 - bitLen x.toNat) = bitLen x.toNat - 1 by omega]
    exact testBit_bitLen_pred (by omega)

/-- Settles O2: every instruction is `uniformWrite` with its own value; the values are those of R165 to R169. -/
theorem uniformInstructionsWriteTheirResults : Obligations.UniformInstructionsWriteTheirResults := by
  refine ⟨fun h f s g sp i v hi hr hk => ?alu, fun h s g sp hk => ⟨fun f hr => ?sli, fun f hr => ?sshi, fun f hr => ?spopc, fun f hr => ?sclz,
    fun hr => ?nop⟩, fun h f s g sp hk => ⟨fun v hv hr => ?scmp, fun v hv hr => ?klop, fun hi => ?illegal⟩⟩
  case alu =>
    simp only [List.mem_cons, Prod.mk.injEq, List.not_mem_nil, or_false] at hi
    obtain ⟨rfl, rfl⟩ | ⟨rfl, rfl⟩ | ⟨rfl, rfl⟩ | ⟨rfl, rfl⟩ | ⟨rfl, rfl⟩ | ⟨rfl, rfl⟩ | ⟨rfl, rfl⟩ | ⟨rfl, rfl⟩ | ⟨rfl, rfl⟩ | ⟨rfl, rfl⟩ | ⟨rfl, rfl⟩ |
      ⟨rfl, rfl⟩ | ⟨rfl, rfl⟩ := hi
    · exact writesS_alu (exec_smov h f s) hr hk rfl
    · exact writesS_alu (exec_sadd h f s) hr hk rfl
    · exact writesS_alu (exec_ssub h f s) hr hk rfl
    · exact writesS_alu (exec_smul h f s) hr hk rfl
    · exact writesS_alu (exec_smulh h f s) hr hk rfl
    · exact writesS_alu (exec_sand h f s) hr hk rfl
    · exact writesS_alu (exec_sor h f s) hr hk rfl
    · exact writesS_alu (exec_sxor h f s) hr hk rfl
    · exact writesS_alu (exec_sshl h f s) hr hk (uniformAlu_sshl _ _)
    · exact writesS_alu (exec_sshr h f s) hr hk (uniformAlu_sshr _ _)
    · exact writesS_alu (exec_ssra h f s) hr hk (uniformAlu_ssra _ _)
    · exact writesS_alu (exec_smin h f s) hr hk rfl
    · exact writesS_alu (exec_smax h f s) hr hk rfl
  case sli => exact writesS_uniformWrite (exec_sli h f s) hr hk rfl
  case sshi => exact writesS_uniformWrite (exec_sshi h f s) hr hk rfl
  case spopc => exact writesS_uniformWrite (exec_spopc h f s) hr hk (by rw [popcount_eq_countP]; rfl)
  case sclz =>
    have ⟨hzero, hone⟩ := leadingZeros_spec (g.sReg f.a.toNat)
    exact ⟨_, Nat.sub_le _ _, hzero, hone, writesS_uniformWrite (exec_sclz h f s) hr hk rfl⟩
  case nop => exact completes_finish_same 4 (exec_uniformWrite (exec_nop h s) hr hk) hr.group hr.split
  case scmp => exact writesK_uniformWrite (exec_scmp h f s) hr hk (by rw [← scmpHolds_eq hv]; rfl)
  case klop => exact writesK_uniformWrite (exec_klop h f s) hr hk (by rw [← klopFn_eq hv])
  case illegal => simp [Instr.wellFormed, klopOk, hi]

end Sys2Proof.Machine
end

section
/-! PROOFS. JMP, CALL and JR (O6), and the trap instructions (O10). -/

namespace Sys2Proof.Machine

/-! ### Branches (R175) -/

theorem branchTarget_eq (sp : Split) (f : SBF) : branchTarget sp f = sp.pc + 4 + 4 * f.off.signExtend 54 := by
  rw [branchTarget, BitVec.mul_comm]
  rfl

section
variable {i : Instr} {h : Hdr} {s : State} {g : Group} {sp : Split}

/-- A jump that links completes with the link register written. -/
theorem writesS_goto {d : Nat} {v : DWord} {pc : CodeAddr} (he : exec i s = .next (s.setGroup ((g.setS d v).setSplit (sp.goto pc))))
    (hr : Ready i h s g sp) : WritesS i s g sp pc d v := by
  have ⟨ho, hp⟩ := setSplit_spec hr.group hr.split (g' := g.setS d v) (sp' := sp.goto pc) (by simp) (by simp) rfl
  refine ⟨_, _, _, he, ho, hp, rfl, ?_, fun r => Group.sReg_setS g d r v⟩
  unfold Group.setS Group.setSplit
  split <;> rfl

/-- What JR answers: its target is checked before anything is written. -/
theorem exec_jr_ready {f : SRF} (hr : Ready (.jr h f) h s g sp) (hk : g.kGuard h = true) : exec (.jr h f) s = .next (jumpReg h f s g sp) := by
  rw [exec_uniform (exec_jr h f s) hr rfl rfl, if_pos hk]
/-- The mask of a code address clears bits 1:0 and no other. -/
theorem getLsbD_codeAddr (t : DWord) {k : Nat} (hk : k < 54) : (codeAddr t).getLsbD k = (decide (2 ≤ k) && t.getLsbD k) := by
  have hmask : (~~~3#54).getLsbD k = decide (2 ≤ k) := by
    rw [BitVec.getLsbD_not, BitVec.getLsbD_ofNat]
    obtain rfl | rfl | h2 : k = 0 ∨ k = 1 ∨ 2 ≤ k := by omega
    · rfl
    · rfl
    · have h3 : Nat.testBit 3 k = false := Nat.testBit_lt_two_pow (lt_of_lt_of_le (by norm_num) (Nat.pow_le_pow_right (by norm_num : 0 < 2) h2))
      simp [hk, h2, h3]
  rw [codeAddr, BitVec.getLsbD_and, hmask, BitVec.getLsbD_extractLsb', Nat.zero_add, decide_eq_true hk, Bool.true_and, Bool.and_comm]
theorem codeAddr_of_aligned {t : DWord} (ht : t.toNat % 4 = 0) : codeAddr t = t.extractLsb' 0 54 := by
  refine BitVec.eq_of_getLsbD_eq fun k hk => ?_
  rw [getLsbD_codeAddr t hk, BitVec.getLsbD_extractLsb', Nat.zero_add, decide_eq_true hk, Bool.true_and]
  by_cases h2 : 2 ≤ k
  · simp [h2]
  · have hlow : t.getLsbD k = false := by
      rw [BitVec.getLsbD, Nat.testBit_eq_decide_div_mod_eq]
      obtain rfl | rfl : k = 0 ∨ k = 1 := by omega
      · simp; omega
      · simp; omega
    rw [hlow, Bool.and_false]
theorem causeAt_toNat (code : BitVec 8) (t : DWord) : causeAt code 0 t.toNat = { code := code, addr := t } := by
  simp [causeAt, dw]

end

/-- Settles O6: JMP and CALL go to `branchTarget`; JR is `jumpReg`, branch by branch. -/
theorem branchesGoToTheirTargets : Obligations.BranchesGoToTheirTargets := by
  intro h s g sp hk
  refine ⟨fun f hr => ?jmp, fun f hr => ?call, fun f hr => ⟨fun h4 hpage => ?jr, fun hro h4 => ?misaligned, fun hro h4 hpage => ?far⟩⟩
  case jmp =>
    rw [← branchTarget_eq]
    refine completes_goto ?_ hr.group hr.split
    rw [exec_uniform (exec_jmp h f s) hr rfl rfl, if_pos hk]
  case call =>
    rw [← branchTarget_eq]
    refine writesS_goto ?_ hr
    rw [exec_uniform (exec_call h f s) hr rfl rfl, if_pos hk]
    rfl
  case jr =>
    refine writesS_goto ?_ hr
    rw [exec_jr_ready hr hk, jumpReg, if_neg (by simpa using h4), if_neg (Nat.not_le.2 hpage), codeAddr_of_aligned h4]
    rfl
  case misaligned =>
    rw [exec_jr_ready hr hk, jumpReg, if_pos (by simpa using h4), raise_of_no_runOn s g sp _ _ hro, causeAt_toNat]
    rfl
  case far =>
    rw [exec_jr_ready hr hk, jumpReg, if_neg (by simpa using h4), if_pos hpage, raise_of_no_runOn s g sp _ _ hro, causeAt_toNat]
    rfl

/-! ### TRAP and SYSCALL (R181) -/

/-- R162, R181: with no lanes running on a trap instruction's cause is delivered for the whole split, to return after the instruction. -/
theorem trapInstr_of_no_runOn {sp : Split} (s : State) (g : Group) (c : Cause) (i : Instr) (hro : sp.runOn = none) :
    trapInstr s g sp c i = deliver s g sp c (sp.pc + 4) sp.mask (encode i) := by
  simp only [trapInstr, raiseAt, hro]
  rfl

/-- Settles O10: both are `trapInstr` with their cause. -/
theorem trapInstructionsRaiseTheirCauses : Obligations.TrapInstructionsRaiseTheirCauses := by
  intro h f s g sp hro hk
  refine ⟨fun hr => ?trap, fun hr => ?syscall⟩
  case trap =>
    rw [exec_uniform (exec_trap h f s) hr rfl rfl, if_pos hk, trapInstr_of_no_runOn _ _ _ _ hro]
    rfl
  case syscall =>
    rw [exec_uniform (exec_syscall h f s) hr rfl rfl, if_pos hk, trapInstr_of_no_runOn _ _ _ _ hro]
    rfl

end Sys2Proof.Machine
end

section
/-! PROOFS. ERET (O14): the split returns as `leaveSup` or the user mark says, and splits that waited for its handler are ready. -/

namespace Sys2Proof.Machine

/-! ### Splits that wait for a handler (R325, R384) -/

/-- A split that waits for a handler of this level, or, at supervisor level, for a page fault that no other split of the group has in hand. -/
theorem waitsFor_iff {g : Group} {sup : Bool} {x : Split} : waitsFor g sup x = true ↔ x.status = .parked (.handler sup) ∨
    (sup = true ∧ ∃ p, x.status = .parked (.page p) ∧ ∀ y ∈ g.splits, y.slot ≠ x.slot → p ∉ y.pages) := by
  unfold waitsFor
  split
  next b hb => simp [hb]
  next p hp => simp [hp, pageInHand]
  next hh hp =>
    have hnoHandler : x.status ≠ .parked (.handler sup) := hh sup
    have hnoPage : ∀ p, x.status ≠ .parked (.page p) := hp
    simp [hnoHandler, hnoPage]

/-- A returning split that has no page in hand is no reason for another to wait. -/
theorem waitsFor_setSplit_iff {g : Group} {sup : Bool} {x y : Split} (hpages : sup = true → y.pages = []) (hother : y.slot ≠ x.slot) :
    waitsFor (g.setSplit y) sup x = true ↔ x.status = .parked (.handler sup) ∨
      (sup = true ∧ ∃ p, x.status = .parked (.page p) ∧ ∀ z ∈ g.splits, z.slot ≠ x.slot → z.slot ≠ y.slot → p ∉ z.pages) := by
  rw [waitsFor_iff]
  refine or_congr_right (and_congr_right fun hsup => exists_congr fun p => and_congr_right fun _ => ⟨fun hall z hz hzx hzy => ?_, fun hall z hz hzx => ?_⟩)
  · refine hall z (List.mem_map.2 ⟨z, hz, ?_⟩) hzx
    rw [if_neg (by simpa using hzy)]
  · obtain rfl | ⟨hz, hzy⟩ := Group.mem_setSplit hz
    · simp [hpages hsup]
    · exact hall z hz hzx hzy

/-- Waking keeps each split in its entry. -/
theorem split?_wakeHandlers (s : State) (g : Group) (sup : Bool) (k : Nat) : (wakeHandlers s g sup).split? k =
    (g.split? k).map (fun x => if waitsFor g sup x then { x with status := .ready, readySince := s.clock, aging := 0 } else x) := by
  simp only [Group.split?, wakeHandlers, List.find?_map]
  congr 1
  refine congrArg (fun p => List.find? p g.splits) (funext fun x => ?_)
  simp only [Function.comp]
  split <;> rfl

section
variable {s : State} {g g1 : Group} {sp y : Split} {sup : Bool}

/-- The returning split, which is ready, is found as it was put. -/
theorem split?_wakeHandlers_self (hs : g.split? sp.slot = some sp) (hsplits : g1.splits = g.splits) (hslot : y.slot = sp.slot)
    (hready : y.status = .ready) : (wakeHandlers s (g1.setSplit y) sup).split? sp.slot = some y := by
  have hnot : waitsFor (g1.setSplit y) sup y = false := by simp [waitsFor, hready]
  rw [split?_wakeHandlers, (onlySplit_setSplit g g1 sp y hs hsplits hslot).split, Option.map_some, hnot]
  rfl
/-- Another split is woken if it waited for what ends, and else is as it was. -/
theorem split?_wakeHandlers_other {k : Nat} {x : Split} (hs : g.split? sp.slot = some sp) (hsplits : g1.splits = g.splits) (hslot : y.slot = sp.slot)
    (hpages : sup = true → y.pages = []) (hk : k ≠ sp.slot) (hx : g.split? k = some x) :
    let waits : Prop := x.status = .parked (.handler sup) ∨
      (sup = true ∧ ∃ p, x.status = .parked (.page p) ∧ ∀ z ∈ g.splits, z.slot ≠ x.slot → z.slot ≠ sp.slot → p ∉ z.pages)
    (waits → (wakeHandlers s (g1.setSplit y) sup).split? k = some { x with status := .ready, readySince := s.clock, aging := 0 }) ∧
      (¬ waits → (wakeHandlers s (g1.setSplit y) sup).split? k = some x) := by
  have hxk : x.slot = k := g.split?_slot k x hx
  have hiff := waitsFor_setSplit_iff (g := g1) (x := x) hpages (by rw [hslot, hxk]; exact hk.symm)
  rw [hsplits, hslot] at hiff
  have hfound := split?_wakeHandlers s (g1.setSplit y) sup k
  rw [(onlySplit_setSplit g g1 sp y hs hsplits hslot).others k hk, hx, Option.map_some] at hfound
  refine ⟨fun hw => ?_, fun hw => ?_⟩
  · rw [hfound, if_pos (hiff.2 hw)]
  · rw [hfound, if_neg fun h => hw (hiff.1 h)]

end

/-! ### ERET (R182) -/

section
variable {h : Hdr} {s : State} {g : Group} {sp : Split}

theorem exec_eret_ready (hr : Ready (.eret h) h s g sp) (hk : g.kGuard h = true) :
    exec (.eret h) s = .next (returnFrom s g sp (encode (.eret h))) := by
  rw [exec_uniform (exec_eret h s) hr rfl rfl, if_pos hk]

/-- From the user handler: the mark falls. -/
theorem returnFrom_user {insn : List Word} (hsup : sp.inSup = false) (huser : sp.inUser = true) (hlevel : sp.sup = false) :
    returnFrom s g sp insn =
      s.setGroup (wakeHandlers s (g.setSplit { sp.completed with inUser := false, pc := codeAddr g.utepc, owedUser := 0 }) false) := by
  simp [returnFrom, hsup, huser, hlevel]
/-- From the supervisor handler, with no lauter fault to hand on (R401): SSTATUS is restored and SIH falls. -/
theorem returnFrom_sup {insn : List Word} (hsup : sp.inSup = true) (hlx : g.lxHand = none) :
    returnFrom s g sp insn = s.setGroup (wakeHandlers s ((leaveSup g sp).1.setSplit { (leaveSup g sp).2.completed with pc := codeAddr g.sepc }) true) := by
  simp [returnFrom, hsup, lxfPassed, hlx]
/-- Outside a handler, and at supervisor level outside its handler, there is nothing to return to. -/
theorem returnFrom_outside {insn : List Word} (hsup : sp.inSup = false) (hout : sp.inUser = false ∨ sp.sup = true) :
    returnFrom s g sp insn = raise s g sp { code := cIllop } insn := by
  have hno : (sp.inUser && !sp.sup) = false := by obtain h | h := hout <;> simp [h]
  simp [returnFrom, hsup, hno]

end

/-- Settles O14: one branch of `returnFrom` for each handler, and one for none. -/
theorem returnFromExceptionRestores : Obligations.ReturnFromExceptionRestores := by
  intro h s g sp hr hk woken
  refine ⟨fun hsup huser hlevel hready => ?user, fun hsup hlx hready => ?sup, fun hro hsup hout => ?outside⟩
  case user =>
    have he := exec_eret_ready hr hk
    rw [returnFrom_user hsup huser hlevel] at he
    refine ⟨_, _, he, onlyGroup_setGroup s g _ hr.group rfl, rfl, fun k x hkn hx => ?_,
      _, split?_wakeHandlers_self hr.split rfl rfl hready, rfl⟩
    exact split?_wakeHandlers_other hr.split rfl rfl (by simp) hkn hx
  case sup =>
    have he := exec_eret_ready hr hk
    rw [returnFrom_sup hsup hlx] at he
    refine ⟨_, _, he, onlyGroup_setGroup s g _ hr.group rfl, ?_, fun k x hkn hx => ?_,
      _, split?_wakeHandlers_self hr.split rfl rfl hready, rfl⟩
    · simp only [wakeHandlers, leaveSup, Group.setSplit, ← hlx]
    · exact split?_wakeHandlers_other hr.split rfl rfl (fun _ => rfl) hkn hx
  case outside =>
    rw [exec_eret_ready hr hk, returnFrom_outside hsup hout, raise_of_no_runOn s g sp _ _ hro]
    rfl

end Sys2Proof.Machine
end

section
/-! PROOFS. Predicates of the lanes (O19): ICMP, FCMP and PLOP write one predicate of each lane from that lane alone, ELECT from the order of the
active lanes, and VTOP writes the predicates of its mask one after another. -/

namespace Sys2Proof.Machine

/-! ### Conditions and truth tables (R192, R197, R200) -/

/-- R192: the eight conditions on values of the type. -/
theorem icmpHolds_eq {c : Nat} {ty : BitVec 5} {a b : Nat} {v : Bool} (h : (c, v) ∈ [(0, decide (a = b)), (1, decide (a ≠ b)),
      (2, decide (intVal ty a < intVal ty b)), (3, decide (intVal ty a ≤ intVal ty b)), (4, decide (intVal ty b < intVal ty a)),
      (5, decide (intVal ty b ≤ intVal ty a)), (6, decide (a &&& b ≠ 0)), (7, decide (a &&& b = 0))]) : icmpHolds c ty a b = v := by
  simp only [List.mem_cons, Prod.mk.injEq, List.not_mem_nil, or_false] at h
  obtain ⟨rfl, rfl⟩ | ⟨rfl, rfl⟩ | ⟨rfl, rfl⟩ | ⟨rfl, rfl⟩ | ⟨rfl, rfl⟩ | ⟨rfl, rfl⟩ | ⟨rfl, rfl⟩ | ⟨rfl, rfl⟩ := h
  · rfl
  · exact decide_not.symm
  · rfl
  · rfl
  · rfl
  · rfl
  · exact decide_not.symm
  · rfl
/-- R200: the eight conditions on decoded values; only those of the code `.uno` and its opposite look at NaNs. -/
theorem fcmpHolds_eq {c : Nat} {a b : FVal} {v : Bool} (h : (c, v) ∈ [(0, !(a.isNan || b.isNan) && decide (fcompare a b = 0)),
      (1, !(a.isNan || b.isNan) && decide (fcompare a b ≠ 0)), (2, !(a.isNan || b.isNan) && decide (fcompare a b < 0)),
      (3, !(a.isNan || b.isNan) && decide (fcompare a b ≤ 0)), (4, !(a.isNan || b.isNan) && decide (0 < fcompare a b)),
      (5, !(a.isNan || b.isNan) && decide (0 ≤ fcompare a b)), (6, a.isNan || b.isNan), (7, !(a.isNan || b.isNan))]) : fcmpHolds c a b = v := by
  simp only [List.mem_cons, Prod.mk.injEq, List.not_mem_nil, or_false] at h
  obtain ⟨rfl, rfl⟩ | ⟨rfl, rfl⟩ | ⟨rfl, rfl⟩ | ⟨rfl, rfl⟩ | ⟨rfl, rfl⟩ | ⟨rfl, rfl⟩ | ⟨rfl, rfl⟩ | ⟨rfl, rfl⟩ := h
  · rfl
  · exact congrArg (!(a.isNan || b.isNan) && ·) decide_not.symm
  · rfl
  · rfl
  · rfl
  · rfl
  · rfl
  · rfl
/-- R197: the entry of a truth table that three predicates name. -/
theorem truthBit_eq (table : Nat) (a b c : Bool) :
    truthBit table a b c = bit table ((if a then 1 else 0) + (if b then 2 else 0) + (if c then 4 else 0)) := by
  cases a <;> cases b <;> cases c <;> rfl

/-! ### Lanes by lanes -/

section
variable {i : Instr} {h : Hdr} {s : State} {g : Group} {sp : Split}

/-- What becomes of the lanes matters for the active ones only. -/
theorem LanesBecome.congr {F G : Nat → Lane} (hF : LanesBecome i h s g sp F) (hFG : ∀ l ∈ activeLanes g sp h, F l = G l) :
    LanesBecome i h s g sp G := by
  obtain ⟨t, g', sp', he, ho, hp, hpc, hrest, hlane⟩ := hF
  refine ⟨t, g', sp', he, ho, hp, hpc, hrest, fun l => (hlane l).trans ?_⟩
  split
  next hl => exact hFG l ((mem_activeLanes g sp h l).2 (by simpa using hl))
  next => rfl
/-- R160: a fixed-latency instruction that puts a predicate into each active lane. -/
theorem writesP_laneWrite {d : Nat} {v : Group → Nat → Bool} {w : Nat → Bool} (he : exec i s = laneWrite i h always (fun g l x => x.setP d (v g l)) s)
    (hr : Ready i h s g sp) (hv : ∀ l, v g l = w l) : WritesP i h s g sp d w :=
  (lanesBecome_finish i h always (fun _ g l x => x.setP d (v g l)) s g sp he hr rfl).congr fun l _ => by rw [hv l]

end

/-! ### ELECT (R180) -/

theorem activeLanes_sorted (g : Group) (sp : Split) (h : Hdr) : (activeLanes g sp h).Pairwise (· < ·) := (List.pairwise_lt_range.filter _).filter _
/-- A member of an ascending list is its first if and only if nothing below it is in the list. -/
theorem head?_eq_some_iff_of_sorted {ls : List Nat} (hs : ls.Pairwise (· < ·)) {l : Nat} (hl : l ∈ ls) : ls.head? = some l ↔ ∀ k, k < l → k ∉ ls := by
  cases ls with
  | nil => cases hl
  | cons m t =>
    have hm : ∀ k ∈ t, m < k := (List.pairwise_cons.1 hs).1
    rw [List.head?_cons, Option.some.injEq]
    refine ⟨?_, fun hlow => ?_⟩
    · rintro rfl k hk hmem
      obtain rfl | ht := List.mem_cons.1 hmem
      · exact Nat.lt_irrefl k hk
      · exact Nat.lt_asymm hk (hm k ht)
    · obtain rfl | ht := List.mem_cons.1 hl
      · rfl
      · exact absurd List.mem_cons_self (hlow m (hm l ht))

section
variable {h : Hdr} {f : LongF} {s : State} {g : Group} {sp : Split}

theorem writesP_elect (hr : Ready (.elect h f) h s g sp) :
    WritesP (.elect h f) h s g sp f.d.toNat (fun l => some l == (activeLanes g sp h).head?) := by
  refine lanesBecome_finish _ h always (fun _ _ l x => x.setP f.d.toNat (some l == (activeLanes g sp h).head?)) s g sp ?_ hr rfl
  rw [asLanes_ready _ h always _ s g sp hr rfl, exec_lanes (exec_elect h f s) hr rfl]

/-! ### VTOP (R197) -/

/-- The predicates below `m` that `c` names, written one after another. -/
def writePs (c v : Nat → Bool) (m : Nat) (x : Lane) : Lane := (List.range m).foldl (fun x n => if c n then x.setP n (v n) else x) x
theorem writePs_succ (c v : Nat → Bool) (m : Nat) (x : Lane) :
    writePs c v (m + 1) x = if c m then (writePs c v m x).setP m (v m) else writePs c v m x := by
  simp only [writePs, List.range_succ, List.foldl_append, List.foldl_cons, List.foldl_nil]
theorem pReg_writePs (c v : Nat → Bool) {m : Nat} (hm : m ≤ 7) (x : Lane) (n : Nat) :
    (writePs c v m x).pReg n = if n < m ∧ c n = true then v n else x.pReg n := by
  induction m with
  | zero => simp [writePs]
  | succ m ih =>
    have ih := ih (by omega)
    rw [writePs_succ]
    by_cases hn : n = m
    · subst hn
      by_cases hc : c n = true <;> simp [hc, ih, Lane.pReg_setP, show n < 7 by omega]
    · have hlt : n < m + 1 ↔ n < m := by omega
      split <;> simp [ih, Lane.pReg_setP, hn, hlt]
theorem writePs_rest (c v : Nat → Bool) (m : Nat) (x : Lane) : writePs c v m x = { x with p := (writePs c v m x).p } := by
  induction m with
  | zero => rfl
  | succ m ih =>
    rw [writePs_succ]
    generalize writePs c v m x = y at ih ⊢
    unfold Lane.setP
    split
    · split
      · exact ih
      · rw [ih]
    · exact ih
theorem lanesBecome_vtop (hr : Ready (.vtop h f) h s g sp) :
    LanesBecome (.vtop h f) h s g sp (fun l => writePs f.x.getLsbD ((g.lane l).vReg f.a.toNat).getLsbD 7 (g.lane l)) :=
  lanesBecome_finish _ h always (fun _ g l x => writePs f.x.getLsbD ((g.lane l).vReg f.a.toNat).getLsbD 7 x) s g sp (exec_vtop h f s) hr rfl

end

/-- Settles O19: `laneWrite` with the condition of ICMP, FCMP and PLOP, the first of the active lanes for ELECT, `writePs` for VTOP. -/
theorem predicatesOfTheLanes : Obligations.PredicatesOfTheLanes := by
  intro h f s g sp
  refine ⟨fun v hv hr => ?icmp, fun v hv hr => ?fcmp, fun hr => ?plop, fun hr => ?elect, fun hr => ?vtop⟩
  case icmp =>
    refine writesP_laneWrite (exec_icmp h f s) hr fun l => icmpHolds_eq ?_
    exact List.mem_map_of_mem (f := fun p : Nat × (Nat → Bool) => (p.1, p.2 l)) hv
  case fcmp =>
    refine writesP_laneWrite (exec_fcmp h f s) hr fun l => fcmpHolds_eq ?_
    exact List.mem_map_of_mem (f := fun p : Nat × (Nat → Bool) => (p.1, p.2 l)) hv
  case plop => exact writesP_laneWrite (exec_plop h f s) hr fun l => truthBit_eq _ _ _ _
  case elect =>
    refine (writesP_elect hr).congr fun l hl => congrArg ((g.lane l).setP f.d.toNat) ?_
    rw [Bool.eq_iff_iff, beq_iff_eq, decide_eq_true_iff, eq_comm, head?_eq_some_iff_of_sorted (activeLanes_sorted g sp h) hl]
    simp only [mem_activeLanes]
  case vtop =>
    exact ⟨_, lanesBecome_vtop hr, fun l n _ => ⟨pReg_writePs _ _ le_rfl _ n, writePs_rest _ _ 7 _⟩⟩

end Sys2Proof.Machine
end

section
/-! PROOFS. Bit-field, bit-count and byte functions (O17), bit by bit: a number in two parts has the bits of its low part below the cut and those of
its high part above. -/

namespace Sys2Proof.Machine

/-! ### Bits -/

theorem bit_eq_testBit (v k : Nat) : bit v k = v.testBit k := by
  rw [bit, Nat.testBit_eq_decide_div_mod_eq, beq_eq_decide]
theorem bit_mod_two_pow (v n k : Nat) : bit (v % 2 ^ n) k = (decide (k < n) && bit v k) := by
  simp only [bit_eq_testBit, Nat.testBit_mod_two_pow]
theorem bit_div_two_pow (v n k : Nat) : bit (v / 2 ^ n) k = bit v (n + k) := by
  rw [bit_eq_testBit, bit_eq_testBit, Nat.testBit_div_two_pow, Nat.add_comm]
theorem b2n_le_one (b : Bool) : b2n b ≤ 1 := by cases b <;> decide
theorem bit_b2n (b : Bool) : bit (b2n b) 0 = b := by cases b <;> rfl
/-- A bit of a number in two parts, the low one of `n` bits. -/
theorem bit_of_parts {lo n : Nat} (hlo : lo < 2 ^ n) (hi k : Nat) : bit (lo + 2 ^ n * hi) k = if k < n then bit lo k else bit hi (k - n) := by
  simp only [bit_eq_testBit, Nat.add_comm lo, Nat.testBit_two_pow_mul_add hi hlo]

/-! ### BREV, LOGT, BFI (R190, R191) -/

theorem reverseBits_lt (a w : Nat) : reverseBits a w < 2 ^ w := by
  induction w generalizing a with
  | zero => exact Nat.one_pos
  | succ w ih =>
    have hrest := ih (a / 2)
    have htop : a % 2 * 2 ^ w ≤ 1 * 2 ^ w := Nat.mul_le_mul_right _ (by omega)
    rw [reverseBits, Nat.pow_succ]
    omega
/-- The lowest bit becomes the highest, and the others are reversed below it. -/
theorem bit_reverseBits {w k : Nat} (a : Nat) (hk : k < w) : bit (reverseBits a w) k = bit a (w - 1 - k) := by
  induction w generalizing a with
  | zero => omega
  | succ w ih =>
    rw [reverseBits, Nat.add_comm, Nat.mul_comm, bit_of_parts (reverseBits_lt _ _)]
    split
    next hlow => rw [ih (a / 2) hlow, ← Nat.pow_one 2, bit_div_two_pow]; congr 1; omega
    next htop =>
      obtain rfl : k = w := by omega
      rw [Nat.add_sub_cancel, Nat.sub_self, ← Nat.pow_one 2, bit_mod_two_pow]
      rfl

theorem truthBits_lt (t a b c w : Nat) : truthBits t a b c w < 2 ^ w := by
  induction w with
  | zero => exact Nat.one_pos
  | succ w ih =>
    have htop : 2 ^ w * b2n (truthBit t (bit a w) (bit b w) (bit c w)) ≤ 2 ^ w * 1 := Nat.mul_le_mul_left _ (b2n_le_one _)
    rw [truthBits, Nat.pow_succ]
    omega
/-- R190: each bit is the entry of the table that the three bits at its place name. -/
theorem bit_truthBits {w k : Nat} (t a b c : Nat) (hk : k < w) : bit (truthBits t a b c w) k = truthBit t (bit a k) (bit b k) (bit c k) := by
  induction w with
  | zero => omega
  | succ w ih =>
    rw [truthBits, bit_of_parts (truthBits_lt _ _ _ _ _)]
    split
    next hlow => exact ih hlow
    next htop =>
      obtain rfl : k = w := by omega
      rw [Nat.sub_self, bit_b2n]

/-- R191: the bits from `p` on are those of `x`, below and above they stay. -/
theorem bit_setBits (c p n x k : Nat) : bit (setBits c p n x) k = if p ≤ k ∧ k < p + n then bit x (k - p) else bit c k := by
  have hmod (v m : Nat) : v % 2 ^ m < 2 ^ m := Nat.mod_lt _ (Nat.two_pow_pos m)
  rw [setBits, bit_of_parts (hmod _ _), bit_of_parts (hmod _ _)]
  split
  next hlow => rw [bit_mod_two_pow, decide_eq_true hlow, Bool.true_and, if_neg (by omega)]
  next hhigh =>
    split
    next hfield => rw [bit_mod_two_pow, decide_eq_true hfield, Bool.true_and, if_pos (by omega)]
    next habove => rw [bit_div_two_pow, if_neg (by omega)]; congr 1; omega

/-! ### BFE (R191) -/

theorem wrapInt_natCast (n v : Nat) : wrapInt n v = v % 2 ^ n := by
  rw [wrapInt, ← Int.natCast_mod, Int.toNat_natCast]
/-- A field of an unsigned operand is a number's bits, none where its length is 0. -/
theorem fieldExtract_unsigned {ty : BitVec 5} {a : Nat} (ctl : Nat) (hty : tySignedInt ty = false) (ha : a < 2 ^ tyBits ty) :
    fieldExtract ty a ctl = a / 2 ^ (ctl % 256) % 2 ^ min (ctl / 256 % 256) (tyBits ty) := by
  simp only [fieldExtract, intVal, hty, Bool.false_eq_true, if_false, Nat.mod_eq_of_lt ha, ← Int.natCast_ediv, wrapInt_natCast]
  split
  next hlen => rw [hlen, Nat.pow_zero, Nat.mod_one]
  next => rfl

/-! ### BSEL (R195) -/

/-- The digits of a sum of bytes are the bytes. -/
theorem byte_of_sum {b : Nat → Nat} {n j : Nat} (hb : ∀ i, b i < 256) (hj : j < n) :
    ((List.range n).map (fun i => 256 ^ i * b i)).sum / 256 ^ j % 256 = b j := by
  induction n generalizing b j with
  | zero => omega
  | succ n ih =>
    have htail : (fun i => 256 ^ i * b i) ∘ Nat.succ = fun i => 256 ^ 1 * (256 ^ i * b (i + 1)) := funext fun i => by
      simp only [Function.comp, Nat.succ_eq_add_one, Nat.pow_succ', Nat.pow_zero, Nat.mul_one, Nat.mul_assoc]
    rw [List.range_succ_eq_map, List.map_cons, List.map_map, List.sum_cons, htail, List.sum_map_mul_left, Nat.pow_zero, Nat.one_mul,
      byte_of_parts (hb 0)]
    split
    next hfirst =>
      obtain rfl : j = 0 := by omega
      rw [Nat.pow_zero, Nat.div_one, Nat.mod_eq_of_lt (hb 0)]
    next hlater =>
      rw [ih (b := fun i => b (i + 1)) (fun i => hb (i + 1)) (by omega), Nat.sub_add_cancel (by omega)]
theorem selectByte_lt (src sel : Nat) : selectByte src sel < 256 := by
  have hv : bits src (8 * (sel % 8)) 8 < 256 := Nat.mod_lt _ (by norm_num)
  simp only [selectByte]
  split
  · exact hv
  · norm_num
  · split <;> norm_num
  · norm_num
theorem byteSelect_byte {j : Nat} (a b sel : Nat) (hj : j < 4) :
    byteSelect a b sel / 256 ^ j % 256 = selectByte (a + 2 ^ 32 * b) (sel / 256 ^ j % 256) := by
  simp only [byteSelect, upTo, bits_byte, Nat.pow_mul 2 8]
  rw [foldl_add_map, Nat.zero_add]
  exact byte_of_sum (b := fun i => selectByte (a + 2 ^ 32 * b) (sel / 256 ^ i % 256)) (fun i => selectByte_lt _ _) hj
/-- R195: bits 2:0 of a selector choose one of the eight bytes, bits 4:3 what is made of it. -/
theorem selectByte_eq {a : Nat} (b s : Nat) (ha : a < 2 ^ 32) :
    let v := (if s % 8 < 4 then a / 2 ^ (8 * (s % 8)) else b / 2 ^ (8 * (s % 8 - 4))) % 256
    selectByte (a + 2 ^ 32 * b) s = if s / 8 % 4 = 0 then v else if s / 8 % 4 = 1 then 0 else if s / 8 % 4 = 2 then
      (if 128 ≤ v then 255 else 0) else 255 := by
  intro v
  have hv : bits (a + 2 ^ 32 * b) (8 * (s % 8)) 8 = v := by
    rw [bits_byte, show (2 : Nat) ^ 32 = 256 ^ 4 by norm_num, byte_of_parts (by norm_num at ha ⊢; exact ha)]
    simp only [v, Nat.pow_mul 2 8]
    exact (apply_ite (· % 256) _ _ _).symm
  have hlt : v < 256 := Nat.mod_lt _ (by norm_num)
  have htop : bit v 7 = decide (128 ≤ v) := by
    rw [bit, beq_eq_decide]
    exact decide_eq_decide.2 (by omega)
  have hkind : s / 8 % 4 < 4 := Nat.mod_lt _ (by norm_num)
  rw [selectByte, hv, htop]
  generalize s / 8 % 4 = kind at hkind
  interval_cases kind <;> simp

/-- Settles O17: each function by its bits, BSEL by its bytes. -/
theorem bitFunctionsOfTheLanes : Obligations.BitFunctionsOfTheLanes := by
  refine ⟨fun a w k => ?reverse, fun t a b c w k hk => ?truth, bit_setBits, fun n v => ?count, fun ty a ctl hty ha k => ?extract,
    fun a b sel j ha _ hj => ?select⟩
  case reverse => exact bit_reverseBits a
  case truth => rw [bit_truthBits t a b c hk, truthBit_eq]
  case count => simp only [popcount_eq_countP, bit_eq_testBit]
  case extract =>
    have hunsigned : tySignedInt ty = false := by
      simp only [List.mem_cons, List.not_mem_nil, or_false] at hty
      obtain rfl | rfl := hty <;> rfl
    rw [fieldExtract_unsigned ctl hunsigned ha, bit_mod_two_pow, bit_div_two_pow]
  case select =>
    simp only [Nat.pow_mul 2 8 j]
    exact (byteSelect_byte a b sel hj).trans (selectByte_eq b _ ha)

end Sys2Proof.Machine
end

section
/-! PROOFS. Conversions and quantisation (O23): CVT, CVPK, CVUP and QCVT are `fpLane` with their own number of draws; QSCL takes no draw, and its
value looks at every active lane of a block. -/

namespace Sys2Proof.Machine

section
variable {h : Hdr} {f : LongF} {s : State} {g : Group} {sp : Split}

/-- R109, R207: a conversion draws under RM 5 and where one of its types is floating point. -/
theorem drawsTaken_cvtDraws (f : LongF) (n : Nat) :
    drawsTaken f (cvtDraws f n) = if f.rm.toNat = 5 ∧ (tyFloat f.ty = true ∨ tyFloat (srcTy f) = true) then n else 0 := by
  simp only [drawsTaken, cvtDraws, Bool.or_eq_true]
  exact (ite_and _ _ _ _).symm

/-- R210: the shared scale of a lane's block, chosen from the lanes `ls` that are in the block. -/
def blockScale (g : Group) (f : LongF) (ls : List Nat) (l : Nat) : Nat :=
  chooseScale f.ty (f.x.getLsbD 5) ((ls.filter (fun k => k / qsclBlock f == l / qsclBlock f)).flatMap (fun k => qsclElems g k f))
theorem writesV_qscl (hr : Ready (.qscl h f) h s g sp) :
    WritesV (.qscl h f) h s g sp f.d.toNat 1 (blockScale g f (activeLanes g sp h)) := by
  refine writesV_laneWrite (v := fun _ => blockScale g f (activeLanes g sp h)) ?_ hr
  rw [laneWrite, asLanes_ready _ h always _ s g sp hr rfl, exec_lanes (exec_qscl h f s) hr rfl]
  rfl

end

/-- Settles O23: each of the four that round is `fpLane` with its own value and draws, and QSCL is `blockScale`. -/
theorem conversionsOfTheLanes : Obligations.ConversionsOfTheLanes := by
  intro h f s g sp src d conv draws old up
  have hdraws (n : Nat) : draws n = fun _ => drawsTaken f (cvtDraws f n) := funext fun _ => (drawsTaken_cvtDraws f n).symm
  simp only [hdraws]
  refine ⟨fun hr => ?cvt, fun hr => ?cvpk, fun hr => ?cvup, fun hr => ?qscl, fun hr => ?qcvt⟩
  case cvt => exact (writesVDrawing_fpLane (exec_cvt h f s) hr :)
  case cvpk => exact (writesVDrawing_fpLane (exec_cvpk h f s) hr :)
  case cvup => exact (writesVDrawing_fpLane (exec_cvup h f s) hr :)
  case qscl => exact (writesV_qscl hr :)
  case qcvt => exact (writesVDrawing_fpLane (exec_qcvt h f s) hr :)

end Sys2Proof.Machine
end

section
/-! PROOFS. A memory-class instruction of one lane that counts on its path, or traps (R37, R219): the two courses that an update of a word in memory
can take. -/

namespace Sys2Proof.Machine

-- One proof at a time, as in the tests: proofs that wait for earlier ones would each hold a thread and its stack.
set_option Elab.async false

theorem SameMemory.trans {s t u : State} (h : SameMemory s t) (h' : SameMemory t u) : SameMemory s u := by
  obtain ⟨hhbm, hscratch, hdie, hacc⟩ := h
  obtain ⟨hhbm', hscratch', hdie', hacc'⟩ := h'
  exact ⟨hhbm'.trans hhbm, hscratch'.trans hscratch, hdie'.trans hdie, hacc'.trans hacc⟩

/-! ### The faults of one lane -/

theorem sortFaults_one {l : Nat} (c : Cause) (h : l < 64) : sortFaults [(l, c)] = [(l, c)] := by
  have hrange (n : Nat) : (List.range n).flatMap (fun i => [(l, c)].filter (fun p => p.1 == i)) = if l < n then [(l, c)] else [] := by
    induction n with
    | zero => rfl
    | succ n ih =>
      rw [List.range_succ, List.flatMap_append, ih, List.flatMap_singleton]
      rcases Nat.lt_trichotomy l n with hlt | rfl | hgt
      · simp [hlt, Nat.lt_succ_of_lt hlt, Nat.ne_of_lt hlt]
      · simp
      · simp [Nat.not_lt_of_gt hgt, Nat.ne_of_gt hgt, Nat.not_lt.2 (Nat.succ_le_of_lt hgt)]
  exact (hrange 64).trans (if_pos h)
/-- A lane that has run is one of the 64 (R21). -/
theorem activeLane_lt {g : Group} {sp : Split} {h : Hdr} {l : Nat} (hl : activeLanes g sp h = [l]) : l < 64 := by
  have hmem : l ∈ activeLanes g sp h := hl ▸ List.mem_singleton_self l
  exact BitVec.lt_of_getLsbD ((mem_activeLanes g sp h l).1 hmem).1
/-- R231: the cause BARPOISON at an address, found by an atomic access. -/
theorem barpoison_cause (a : DWord) : (causeAt cBarpoison 0 a.toNat).withAccess 3 = { code := 0x12, addr := a, access := 3 } := by
  simp [causeAt, Cause.withAccess, cBarpoison, dw]

/-- An access refused at its place faults there. -/
theorem laneAccess_fault {s : State} {a : Agent} {sp : Space} {need : Need} {addr : DWord} {n l kind : Nat} {op : RemoteOp} {store : Bool}
    {act : State → Place → Read} {p : Place} {c : Cause} (hp : place s a.ctx sp need addr n = (s, .ok p))
    (hr : ∀ pa e, p ≠ .glob (.remote pa e)) (hv : (act s p).v = .error c) :
    laneAccess s a sp need addr n l kind op store act = ((act s p).s, .fault (c.withAccess (accessAt p kind)), []) := by
  unfold laneAccess
  rw [hp]
  split
  · next h => cases h
  · next h => cases h; exact absurd rfl (hr _ _)
  · next h => cases h; simp only [hv]
theorem Place.At.access {p : Place} {l : Loc} (h : p.At l) (kind : Nat) : accessAt p kind = kind := by
  obtain rfl | ⟨pa, e, rfl, rfl⟩ := h <;> rfl

/-! ### What a read-modify-write waits for -/

/-- It waits for no more than its order asks. -/
theorem rmwWaits_at {s : State} {g : Group} {sp : Split} {f : LongF} {addr : Group → Nat → DWord} {n l : Nat} {at_ : Loc}
    (hw : mustWait s g sp (ordRmw f) = false) (ha : ActsAt s (splitCtx g sp) (spaceOf f.c.toNat) needRW (addr g l) n at_) :
    mustWaitFor s g sp (ordRmw f) (rmwWaits f addr n s g sp [l]) = false := by
  obtain ⟨es, hes, hentry⟩ := ha.entryWaits rfl ((ordRmw f).gang s g)
  rw [rmwWaits, List.foldl_cons, List.foldl_nil, Waits.none_and, hentry]
  exact mustWaitFor_remap hw hes
/-- R84: what an acquire of such an instruction would read. -/
theorem ordRmw_acquires {f : LongF} {sig : List (Nat × Nat)} (h : f.mo = 0 ∨ sig = []) (hacq : (ordRmw f).acquires = true) : sig = [] :=
  h.resolve_left fun hmo => absurd hacq (by rw [ordRmw_weak hmo]; decide)
theorem ordOf_acquires {f : LongF} {sig : List (Nat × Nat)} (h : f.mo = 0 ∨ sig = []) (hacq : (ordOf f).acquires = true) : sig = [] :=
  h.resolve_left fun hmo => absurd hacq (by simp [ordOf, Ord.acquires, hmo])

/-! ### The whole instruction -/

section
variable {i : Instr} {h : Hdr} {o : Ord} {extra : State → Group → Split → List Nat → Waits}
  {order : State → Group → List Nat → State × List Nat}
  {lane : State → Group → Split → Nat → State × LaneEnd × List (Nat × Nat)} {s t : State} {g : Group} {sp : Split} {l : Nat}
  {sig : List (Nat × Nat)} (he : exec i s = memInstrFor i h always o extra order none lane s) (hr : Ready i h s g sp) (hl : activeLanes g sp h = [l])
  (hw : mustWaitFor s g sp o (extra s g sp [l]) = false) (horder : order s g [l] = (s, [l]))
include he hr hl hw horder

/-- The lane is done on a path: the instruction ends, counted there. -/
theorem exec_lane_done {path v : Nat} (hlane : lane s g sp l = (t, .done path v, sig)) (hcount : g.counter path < 63) :
    exec i s = .next (accessEnd t g sp 12 path (unionPairs sp.acqSig (unionPairs [] sig)) none) := by
  rw [exec_memInstrFor he hr (by rw [hl]; exact List.cons_ne_nil _ _) (by rw [hl]; exact hw), hl, horder, runLanes_one hlane,
    memClose_done rfl rfl rfl (List.cons_ne_nil _ _) hcount (by simp)]
  rfl
/-- The lane faults, with no page to wait for: nothing is counted, and the faults are settled. -/
theorem exec_lane_faults {c : Cause} (hlane : lane s g sp l = (t, .fault c, sig)) (hpage : faultPage c = none) :
    exec i s = .next (settleFaults { t with uid := t.uid + 1 } g sp [(l, c)] 12 (encode i)) := by
  have hrun : runLanes s [l] (fun s l => lane s g sp l) = { s := t, faults := [(l, c)] } := by
    rw [runLanes, List.foldl_cons, List.foldl_nil]
    simp only [hlane]
    rfl
  have hheld : faultsHeld g sp [(l, c)] = none := by
    rw [faultsHeld]
    split
    · rfl
    · simp [pageHeld, hpage]
  rw [exec_memInstrFor he hr (by rw [hl]; exact List.cons_ne_nil _ _) (by rw [hl]; exact hw), hl, horder, hrun]
  simp only [memClose, MemRun.blocked, hheld]
  rw [sortFaults_one c (activeLane_lt hl)]
  rfl

/-- A lane that has stored at a location of this device, and is done. -/
theorem exec_lane_stores {path v w n : Nat} {at_ : Loc} (hlane : lane s g sp l = (t, .done path w, sig)) (hcount : g.counter path < 63)
    (hkind : at_.OnChip ∨ ∃ pa, at_ = .hbm pa) (hq : Quiet (locWrite s at_ n v) t) (hcan : s.Canonical) :
    ∃ t g', exec i s = .next t ∧ StoresAt s t at_ n v ∧ MemoryEnds t g g' sp 12 path s.uid none := by
  obtain ⟨t', g', hexec, hstores, -, hends⟩ :=
    access_storesAtLoc (exec_lane_done he hr hl hw horder hlane hcount) hr.group hr.split hkind hq hcan
  exact ⟨t', g', hexec, hstores, hends⟩
/-- A lane that has met poison, or made it: BARPOISON, after what the access has stored. -/
theorem exec_lane_poisons (a : DWord) (hlane : lane s g sp l = (t, .fault ((causeAt cBarpoison 0 a.toNat).withAccess 3), sig)) :
    ∃ m, exec i s = .next (settleFaults m g sp [(l, { code := 0x12, addr := a, access := 3 })] 12 (encode i)) ∧ SameMemory t m := by
  rw [barpoison_cause] at hlane
  exact ⟨_, exec_lane_faults he hr hl hw horder hlane rfl, rfl, rfl, rfl, rfl⟩
end

end Sys2Proof.Machine
end

section
/-! PROOFS. REDT of one lane (O31): what a tag meets in its source's window, and the contribution applied, applied without a record, or dropped. -/

namespace Sys2Proof.Machine

-- One proof at a time, as in the tests: proofs that wait for earlier ones would each hold a thread and its stack.
set_option Elab.async false

/-! ### Tags and their windows (R228) -/

section
variable {s : State} {slice : Nat} {src : List Nat} {tag : Word} {w : RedtWindow}

/-- The window of a source at a home slice. -/
def redtWindow (s : State) (slice : Nat) (src : List Nat) : Option RedtWindow := s.redt.find? (fun w => w.slice == slice && w.src == src)

/-- A distance between tags, as the window counts it. -/
theorem tagDistance (x y : Word) : (x.toNat + 2 ^ 32 - y.toNat) % 2 ^ 32 = (x - y).toNat := by
  rw [BitVec.toNat_sub]
  congr 1
  have := y.isLt
  omega
theorem redtWindow_key (h : redtWindow s slice src = some w) : w.slice = slice ∧ w.src = src := by
  simpa using List.find?_some h
/-- A window that has been put is the one found. -/
theorem redtWindow_putWindow (h : w.slice = slice ∧ w.src = src) : redtWindow (putWindow s w) slice src = some w :=
  List.find?_cons_of_pos (by simpa using h)
/-- What a tag meets where its source has a window. -/
theorem tagCheck_window (h : redtWindow s slice src = some w) : tagCheck s slice src (tag.toNat % 2 ^ 32) =
    if 1 ≤ (tag - w.high).toNat ∧ (tag - w.high).toNat < 2 ^ 31 then .fresh (shiftWindow w tag.toNat)
    else if (w.high - tag).toNat < 4096 then
      if w.bits.getLsbD (w.high - tag).toNat = true then .dup else .fresh { w with bits := w.bits ||| (1#4096 <<< (w.high - tag).toNat) }
    else .dup := by
  unfold redtWindow at h
  simp only [tagCheck, h, Nat.mod_eq_of_lt tag.isLt, tagDistance, Bool.and_eq_true, decide_eq_true_eq]
theorem tagCheck_first (h : redtWindow s slice src = none) (hroom : (s.redt.filter (fun w => w.slice == slice)).length < 1024) :
    tagCheck s slice src (tag.toNat % 2 ^ 32) = .fresh { slice := slice, src := src, high := tag, bits := 1 } := by
  unfold redtWindow at h
  simp only [tagCheck, h, ge_iff_le, if_neg (Nat.not_le.2 hroom), Nat.mod_eq_of_lt tag.isLt]
  simp [wd]
theorem tagCheck_full (h : redtWindow s slice src = none) (hfull : 1024 ≤ (s.redt.filter (fun w => w.slice == slice)).length) :
    tagCheck s slice src (tag.toNat % 2 ^ 32) = .noWindow := by
  unfold redtWindow at h
  simp only [tagCheck, h, ge_iff_le, if_pos hfull]
/-- Two tags are not ahead of each other. -/
theorem tag_not_newer (h : (w.high - tag).toNat < 4096 ∨ 2 ^ 31 ≤ (tag - w.high).toNat) :
    ¬ (1 ≤ (tag - w.high).toNat ∧ (tag - w.high).toNat < 2 ^ 31) := by
  rintro ⟨hone, hhalf⟩
  simp only [← tagDistance] at h hone hhalf
  have := tag.isLt
  have := w.high.isLt
  omega
theorem tagCheck_newer (h : redtWindow s slice src = some w) (hone : 1 ≤ (tag - w.high).toNat) (hhalf : (tag - w.high).toNat < 2 ^ 31) :
    tagCheck s slice src (tag.toNat % 2 ^ 32) = .fresh (shiftWindow w tag.toNat) := by
  rw [tagCheck_window h, if_pos ⟨hone, hhalf⟩]
theorem tagCheck_seen (h : redtWindow s slice src = some w)
    (hseen : ((w.high - tag).toNat < 4096 ∧ w.bits.getLsbD (w.high - tag).toNat = true) ∨
      (4096 ≤ (w.high - tag).toNat ∧ 2 ^ 31 ≤ (tag - w.high).toNat)) : tagCheck s slice src (tag.toNat % 2 ^ 32) = .dup := by
  rw [tagCheck_window h]
  rcases hseen with ⟨hnear, hbit⟩ | ⟨hfar, hold⟩
  · rw [if_neg (tag_not_newer (.inl hnear)), if_pos hnear, if_pos hbit]
  · rw [if_neg (tag_not_newer (.inr hold)), if_neg (Nat.not_lt.2 hfar)]
theorem tagCheck_inside (h : redtWindow s slice src = some w) (hnear : (w.high - tag).toNat < 4096)
    (hbit : w.bits.getLsbD (w.high - tag).toNat = false) :
    tagCheck s slice src (tag.toNat % 2 ^ 32) = .fresh { w with bits := w.bits ||| (1#4096 <<< (w.high - tag).toNat) } := by
  rw [tagCheck_window h, if_neg (tag_not_newer (.inl hnear)), if_pos hnear, if_neg (by rw [hbit]; exact Bool.false_ne_true)]
theorem shiftWindow_high (w : RedtWindow) (tag : Word) : (shiftWindow w tag.toNat).high = tag := by simp [shiftWindow, wd]
theorem shiftWindow_bit (w : RedtWindow) (t : Nat) : (shiftWindow w t).bits.getLsbD 0 = true := by simp [shiftWindow]
/-- The record of one tag more. -/
theorem getLsbD_record (b : BitVec 4096) {d k : Nat} (hk : k < 4096) : (b ||| (1#4096 <<< d)).getLsbD k = (b.getLsbD k || k == d) := by
  rw [BitVec.getLsbD_or, BitVec.getLsbD_shiftLeft, BitVec.getLsbD_one]
  congr 1
  rw [Bool.eq_iff_iff]
  simp only [hk, decide_true, Bool.true_and, Bool.and_eq_true, Bool.not_eq_true', decide_eq_true_eq, decide_eq_false_iff_not, beq_iff_eq]
  omega
end

/-! ### The contribution -/

/-- A REDT names global memory (R227). -/
theorem redt_space {h : Hdr} {f : LongF} (hwf : (Instr.redt h f).wellFormed = true) : spaceOf f.c.toNat = .global := by
  simp only [Instr.wellFormed, redtOk, Bool.and_eq_true] at hwf
  obtain ⟨-, ⟨⟨⟨⟨⟨-, haddr⟩, -⟩, -⟩, -⟩, -⟩, -⟩ := hwf
  simp only [addrOk, Bool.and_eq_true, List.contains_eq_mem, List.mem_singleton, decide_eq_true_eq] at haddr
  obtain ⟨⟨-, hspace⟩, -⟩ := haddr
  exact spaceOf_global hspace

/-- Without a deadline list a contribution is deduplicated and applied (R228, R413). -/
theorem taggedReduce_noList {s : State} {part : Nat} (hlist : dltBase s part = 0) (pa n : Nat) (src : List Nat) (tag : Nat) (apply : State → State) :
    taggedReduce s part [(pa, n)] src tag apply = dedupApply s pa src (tag % 2 ^ 32) apply := by
  simp only [taggedReduce, dltFind, hlist, if_true]
/-- The state in which a contribution with these windows and Kiln registers is applied. -/
def State.withWindows (s : State) (R : List RedtWindow) (K : Kiln) : State := { s with redt := R, kiln := K }

section
variable {h : Hdr} {f : LongF} {s : State} {g : Group} {sp : Split} {l pa : Nat} (hr : Ready (.redt h f) h s g sp)
  (hl : activeLanes g sp h = [l]) (ha : ActsAt s (splitCtx g sp) .global needRW (laneAddr0 g l f) (memBytes f.ty) (.hbm pa))
  (hw : mustWait s g sp (ordRmw f) = false) (hcount : g.counter 1 < 63) (hlist : dltBase s (fld g.partid 0 4) = 0)
include hr hl ha hw hcount hlist

/-- The instruction ends where its contribution has been applied or dropped. -/
theorem exec_redt_lane {t : State} {e : RedtEnd} (hend : redtCause (laneAddr0 g l f).toNat e = none)
    (hdedup : dedupApply s pa (redtSource s g) (((g.lane l).vReg f.d.toNat).toNat % 2 ^ 32)
      (fun s' => (rmwAt s' (laneAgent s g sp) (ordRmw f) sp.relFence (.hbm pa) (memBytes f.ty)
        (rmwValue (xByte 0 f).toNat f.ty (laneReg g l (xByte 1 f) f.ty))).1) = (t, e)) :
    exec (.redt h f) s = .next (accessEnd t g sp 12 1 (unionPairs sp.acqSig (unionPairs [] [])) none) := by
  obtain ⟨p, hplace, hat, hpath⟩ := ha.place rfl
  have hspace := redt_space hr.wellFormed
  have hact : redtPlace s (laneAgent s g sp) (ordRmw f) sp.relFence (laneAddr0 g l f).toNat (memBytes f.ty) (redtSource s g)
      ((g.lane l).vReg f.d.toNat).toNat (rmwValue (xByte 0 f).toNat f.ty (laneReg g l (xByte 1 f) f.ty)) p = ⟨t, .ok 0, []⟩ := by
    simp only [redtPlace, hat.refusal, hat.loc?, ha.1, Bool.false_eq_true, if_false]
    rw [taggedReduce_noList (part := (laneAgent s g sp).ctx.part) hlist, hdedup]
    simp only [hend]
  refine exec_lane_done (path := 1) (v := 0) (exec_redt h f s) hr hl (rmwWaits_at hw (by rw [hspace]; exact ha)) (rmwOrder_one s l _) ?_ hcount
  exact (laneAccess_done (a := laneAgent s g sp) hplace hat.here (by rw [hact])).trans (by rw [hact, hpath]; rfl)

/-- A contribution applied with the windows `R` and the Kiln registers `K` has stored its value. -/
theorem redt_applies (hcan : s.Canonical) (hsig : f.mo = 0 ∨ sigAt s (.hbm pa) (memBytes f.ty) = []) {R : List RedtWindow} {K : Kiln}
    (hdedup : ∀ apply, dedupApply s pa (redtSource s g) (((g.lane l).vReg f.d.toNat).toNat % 2 ^ 32) apply = (apply (s.withWindows R K), .ok)) :
    ∃ t g', exec (.redt h f) s = .next t ∧
      StoresAt s t (.hbm pa) (memBytes f.ty) (rmwValue (xByte 0 f).toNat f.ty (laneReg g l (xByte 1 f) f.ty) (memReadNat s.hbm pa (memBytes f.ty))) ∧
      OtherGroupsKept s t g.uid ∧ MemoryEnds t g g' sp 12 1 s.uid none ∧ t.redt = R ∧ t.kiln = K := by
  obtain ⟨t, sig, hstep, hq⟩ := rmwAt_spec (s := s.withWindows R K) (a := laneAgent s g sp) (o := ordRmw f) (fence := sp.relFence) (l := .hbm pa)
    (n := memBytes f.ty) (rmwValue (xByte 0 f).toNat f.ty (laneReg g l (xByte 1 f) f.ty)) ha.kind ha.uncached ha.2.1 (ordRmw_acquires hsig)
  have hexec := exec_redt_lane hr hl ha hw hcount hlist rfl (hdedup _)
  rw [hstep] at hexec
  obtain ⟨g', hends, hother⟩ := accessEnd_spec 12 1 (unionPairs sp.acqSig (unionPairs [] [])) none hr.group hr.split hq.groups hq.uid
  exact ⟨_, g', hexec, storesAt_locWrite _ _ hcan ha.kind hq.memory, hother, hends,
    show t.redt = R by rw [hq]; rfl, show t.kiln = K by rw [hq]; rfl⟩
/-- A duplicate changes nothing. -/
theorem redt_skips (hdup : tagCheck s (homeSliceOf pa) (redtSource s g) (((g.lane l).vReg f.d.toNat).toNat % 2 ^ 32) = .dup) :
    ∃ t g', exec (.redt h f) s = .next t ∧ SameMemory s t ∧ OtherGroupsKept s t g.uid ∧ MemoryEnds t g g' sp 12 1 s.uid none ∧ t.redt = s.redt := by
  have hexec := exec_redt_lane (t := s) (e := .dup) hr hl ha hw hcount hlist rfl (by simp only [dedupApply, hdup])
  obtain ⟨g', hends, hother⟩ := accessEnd_spec 12 1 (unionPairs sp.acqSig (unionPairs [] [])) none hr.group hr.split rfl rfl
  exact ⟨_, g', hexec, ⟨rfl, rfl, rfl, rfl⟩, hother, hends, rfl⟩
/-- A tag that has not been used is recorded in its source's window, and applied. -/
theorem redt_records (hcan : s.Canonical) (hsig : f.mo = 0 ∨ sigAt s (.hbm pa) (memBytes f.ty) = []) {w : RedtWindow}
    (hfresh : tagCheck s (homeSliceOf pa) (redtSource s g) (((g.lane l).vReg f.d.toNat).toNat % 2 ^ 32) = .fresh w)
    (hkey : w.slice = homeSliceOf pa ∧ w.src = redtSource s g) :
    ∃ t g', exec (.redt h f) s = .next t ∧
      StoresAt s t (.hbm pa) (memBytes f.ty) (rmwValue (xByte 0 f).toNat f.ty (laneReg g l (xByte 1 f) f.ty) (memReadNat s.hbm pa (memBytes f.ty))) ∧
      OtherGroupsKept s t g.uid ∧ MemoryEnds t g g' sp 12 1 s.uid none ∧ redtWindow t (homeSliceOf pa) (redtSource s g) = some w := by
  obtain ⟨t, g', hexec, hstores, hother, hends, hredt, -⟩ := redt_applies (R := (putWindow s w).redt) (K := s.kiln) hr hl ha hw hcount hlist hcan hsig
    (fun apply => by simp only [dedupApply, hfresh]; rfl)
  exact ⟨t, g', hexec, hstores, hother, hends, by rw [redtWindow, hredt]; exact redtWindow_putWindow hkey⟩
end

/-- Settles O31: each case is what the tag meets in its source's window. -/
theorem taggedReductionsApplyOnce : Obligations.TaggedReductionsApplyOnce := by
  intro h f s g sp l pa n tag window x hwf hl ha hsig hw hcount hlist hr
  have hcan := (memoriesWf_iff s).1 hwf
  have records {w : RedtWindow} := redt_records (w := w) hr hl ha hw hcount hlist hcan hsig
  refine ⟨?new, fun w hwin hseen => ?seen, fun w hwin hnear hbit => ?inside, fun hnone hfull => ?full⟩
  case new =>
    rintro (⟨hnone, hroom⟩ | ⟨w, hwin, hone, hhalf⟩)
    · obtain ⟨t, g', hexec, hstores, hother, hends, hfound⟩ := records (tagCheck_first hnone hroom) ⟨rfl, rfl⟩
      exact ⟨t, g', _, hexec, hstores, hother, hends, hfound, rfl, by simp⟩
    · have hkey : w.slice = homeSliceOf pa ∧ w.src = redtSource s g := redtWindow_key hwin
      obtain ⟨t, g', hexec, hstores, hother, hends, hfound⟩ := records (tagCheck_newer hwin hone hhalf) hkey
      exact ⟨t, g', _, hexec, hstores, hother, hends, hfound, shiftWindow_high w tag, shiftWindow_bit w tag.toNat⟩
  case seen => exact redt_skips hr hl ha hw hcount hlist (tagCheck_seen hwin hseen)
  case inside =>
    have hkey : w.slice = homeSliceOf pa ∧ w.src = redtSource s g := redtWindow_key hwin
    obtain ⟨t, g', hexec, hstores, hother, hends, hfound⟩ := records (tagCheck_inside hwin hnear hbit) hkey
    exact ⟨t, g', _, hexec, hstores, hother, hends, hfound, rfl, fun k hk => getLsbD_record w.bits hk⟩
  case full =>
    exact redt_applies hr hl ha hw hcount hlist hcan hsig
      (fun apply => by simp only [dedupApply, tagCheck_full hnone hfull]; rfl)

end Sys2Proof.Machine
end

section
/-! PROOFS. Barrier words (O33): an arrival at its word, and the words that a WAITPH reads. -/

namespace Sys2Proof.Machine

-- One proof at a time, as in the tests: proofs that wait for earlier ones would each hold a thread and its stack.
set_option Elab.async false

/-! ### The word after an arrival (R231) -/

section
variable {n w : Nat}
theorem arriveValue_less (h : n < w % 2 ^ 32 ∨ n = 0) : arriveValue n w = w - n := by
  rw [arriveValue, if_neg (by omega), if_neg (by simp only [Bool.and_eq_true, decide_eq_true_eq, bne_iff_ne]; omega)]
theorem arriveValue_last (hpos : 0 < n) (h : n = w % 2 ^ 32) :
    arriveValue n w = (if bit w 63 then 0 else 2 ^ 63) + w / 2 ^ 32 % 2 ^ 30 * 2 ^ 32 + w / 2 ^ 32 % 2 ^ 30 := by
  rw [arriveValue, if_neg (by omega), if_pos (by simp only [Bool.and_eq_true, decide_eq_true_eq, bne_iff_ne]; omega), bits]
theorem arriveValue_more (h : w % 2 ^ 32 < n) : arriveValue n w = (if bit w 63 then 0 else 2 ^ 63) + 2 ^ 62 + w % 2 ^ 62 := by
  rw [arriveValue, if_pos h]
/-- An arrival on a word that is not poisoned poisons it when it takes more than is pending. -/
theorem arrivePoisons_eq (h : bit w 62 = false) : arrivePoisons n w = decide (w % 2 ^ 32 < n) := by
  rw [arrivePoisons, h, Bool.false_or]
end

/-! ### ARRIVE -/

section
variable {h : Hdr} {f : LongF} {s : State} {g : Group} {sp : Split} {l n va : Nat} {at_ : Loc} {a : Agent} {o : Ord} {fence : Option (BitVec 4)} {p : Place}

/-- A core that holds no copy of the line reads the home without a change. -/
theorem homeValue_uncached {core : Nat} (hline : ∀ pa, at_ = .hbm pa → cacheLine? s .l1 core (pa / 128) = none) (n : Nat) :
    homeValue s core at_ n = (s, bytesAt s at_ n) := by
  cases at_ with
  | hbm pa => rw [homeValue, flushLine_none _ _ _ (hline pa rfl)]; rfl
  | _ => rfl
/-- At its place an arrival is one read-modify-write, or meets poison and does nothing. -/
theorem arrivePlace_eq (hat : p.At at_) (hpo : poisoned s at_ = false) (hline : ∀ pa, at_ = .hbm pa → cacheLine? s .l1 a.ctx.core (pa / 128) = none) :
    arrivePlace s a o fence va n p =
      if bit (bytesAt s at_ 8) 62 then ⟨s, .error (causeAt cBarpoison 0 va), []⟩
      else
        let r := rmwAt s a o fence at_ 8 (arriveValue n)
        ⟨r.1, if arrivePoisons n r.2.1 then .error (causeAt cBarpoison 0 va) else .ok 0, r.2.2⟩ := by
  simp only [arrivePlace, hat.refusal, hat.loc?, hpo, Bool.false_eq_true, if_false, arriveAt, homeValue_uncached hline]
  split <;> rfl

/-- The step of an arrival on a word that is not poisoned. -/
theorem arrive_step (ha : ActsAt s (splitCtx g sp) (spaceOf f.c.toNat) needRW (laneAddr g l f) 8 at_) (hsig : f.mo = 0 ∨ sigAt s at_ 8 = [])
    (hbit : bit (bytesAt s at_ 8) 62 = false) : ∃ t sig, Quiet (locWrite s at_ 8 (arriveValue ((g.sReg f.d.toNat).toNat % 2 ^ 32) (bytesAt s at_ 8))) t ∧
    ∀ p, p.At at_ → arrivePlace s (laneAgent s g sp) (ordRmw f) sp.relFence (laneAddr g l f).toNat ((g.sReg f.d.toNat).toNat % 2 ^ 32) p =
      ⟨t, if bytesAt s at_ 8 % 2 ^ 32 < (g.sReg f.d.toNat).toNat % 2 ^ 32 then .error (causeAt cBarpoison 0 (laneAddr g l f).toNat) else .ok 0, sig⟩ := by
  obtain ⟨t, sig, hstep, hq⟩ := rmwAt_spec (a := laneAgent s g sp) (o := ordRmw f) (fence := sp.relFence)
    (arriveValue ((g.sReg f.d.toNat).toNat % 2 ^ 32)) ha.kind ha.uncached ha.2.1 (ordRmw_acquires hsig)
  refine ⟨t, sig, hq, fun p hat => ?_⟩
  rw [arrivePlace_eq hat ha.1 ha.uncached, hbit, hstep]
  simp only [arrivePoisons_eq hbit, Bool.false_eq_true, if_false, decide_eq_true_eq]

variable (hr : Ready (.arrive h f) h s g sp) (hl : activeLanes g sp h = [l])
  (ha : ActsAt s (splitCtx g sp) (spaceOf f.c.toNat) needRW (laneAddr g l f) 8 at_) (hw : mustWait s g sp (ordRmw f) = false)
include hr hl ha hw

/-- An arrival on a poisoned word. -/
theorem arrive_meetsPoison (hbit : bit (bytesAt s at_ 8) 62 = true) : ∃ m, exec (.arrive h f) s = .next
    (settleFaults m g sp [(l, { code := 0x12, addr := laneAddr g l f, access := 3 })] 12 (encode (.arrive h f))) ∧ SameMemory s m := by
  obtain ⟨p, hplace, hat, -⟩ := ha.place rfl
  have hact := arrivePlace_eq (a := laneAgent s g sp) (o := ordRmw f) (fence := sp.relFence) (va := (laneAddr g l f).toNat)
    (n := (g.sReg f.d.toNat).toNat % 2 ^ 32) hat ha.1 ha.uncached
  rw [if_pos hbit] at hact
  refine exec_lane_poisons (exec_arrive h f s) hr hl (rmwWaits_at (addr := fun g l => laneAddr g l f) hw ha) (rmwOrder_one s l _) (laneAddr g l f)
    (sig := []) ?_
  exact (laneAccess_fault (a := laneAgent s g sp) hplace hat.here (by rw [hact])).trans (by rw [hact, hat.access])

variable (hsig : f.mo = 0 ∨ sigAt s at_ 8 = []) (hcan : s.Canonical) (hbit : bit (bytesAt s at_ 8) 62 = false)
include hsig hcan hbit

/-- An arrival of no more than is pending counts. -/
theorem arrive_counts (hcount : g.counter (if f.c.toNat % 4 = 0 then 1 else 2) < 63)
    (hfew : (g.sReg f.d.toNat).toNat % 2 ^ 32 ≤ bytesAt s at_ 8 % 2 ^ 32) : ∃ t g', exec (.arrive h f) s = .next t ∧
      StoresAt s t at_ 8 (arriveValue ((g.sReg f.d.toNat).toNat % 2 ^ 32) (bytesAt s at_ 8)) ∧
      MemoryEnds t g g' sp 12 (if f.c.toNat % 4 = 0 then 1 else 2) s.uid none := by
  obtain ⟨t, sig, hq, hact⟩ := arrive_step ha hsig hbit
  obtain ⟨p, hplace, hat, hpath⟩ := ha.place rfl
  specialize hact p hat
  rw [if_neg (Nat.not_lt.2 hfew)] at hact
  have hcounted : pathOf (spaceOf f.c.toNat) p true = if f.c.toNat % 4 = 0 then 1 else 2 := by
    rw [hpath]
    by_cases hc : f.c.toNat % 4 = 0
    · simp [hc, spaceOf_global hc]
    · simp [hc, spaceOf_ne_global hc]
  refine exec_lane_stores (w := 0) (sig := sig) (exec_arrive h f s) hr hl (rmwWaits_at (addr := fun g l => laneAddr g l f) hw ha)
    (rmwOrder_one s l _) ?_ hcount ha.kind hq hcan
  exact (laneAccess_done (a := laneAgent s g sp) hplace hat.here (by rw [hact])).trans (by rw [hact, hcounted])
/-- An arrival of more than is pending poisons the word, and traps. -/
theorem arrive_poisons (hmany : bytesAt s at_ 8 % 2 ^ 32 < (g.sReg f.d.toNat).toNat % 2 ^ 32) : ∃ m, exec (.arrive h f) s = .next
    (settleFaults m g sp [(l, { code := 0x12, addr := laneAddr g l f, access := 3 })] 12 (encode (.arrive h f))) ∧
    StoresAt s m at_ 8 (arriveValue ((g.sReg f.d.toNat).toNat % 2 ^ 32) (bytesAt s at_ 8)) := by
  obtain ⟨t, sig, hq, hact⟩ := arrive_step ha hsig hbit
  obtain ⟨p, hplace, hat, -⟩ := ha.place rfl
  specialize hact p hat
  rw [if_pos hmany] at hact
  obtain ⟨m, hexec, hsame⟩ := exec_lane_poisons (t := t) (sig := []) (exec_arrive h f s) hr hl (rmwWaits_at (addr := fun g l => laneAddr g l f) hw ha)
    (rmwOrder_one s l _) (laneAddr g l f)
    ((laneAccess_fault (a := laneAgent s g sp) hplace hat.here (by rw [hact])).trans (by rw [hact, hat.access]))
  exact ⟨m, hexec, storesAt_locWrite _ _ hcan ha.kind (SameMemory.trans hq.memory hsame)⟩
end

/-! ### WAITPH (R233) -/

section
variable {h : Hdr} {f : LongF} {s : State} {g : Group} {sp : Split} {l : Nat} {at_ : Loc}

/-- The word as a strong load finds it: what stands at its location, with lines filled at most; read at the home, nothing has changed at all. -/
theorem phaseValue_finds {a : Agent} {o : Ord} {x : LaneLoc} (hkind : x.loc.OnChip ∨ ∃ pa, x.loc = .hbm pa)
    (hline : ∀ pa, x.loc = .hbm pa → cacheLine? s .l1 a.ctx.core (pa / 128) = none ∧ l1Fits s a.ctx.core (pa / 128) ∧ pa % 8 = 0) :
    ∃ t, phaseValue s a o x = (t, bytesAt s x.loc 8) ∧ Quiet s t ∧ (atHome a o = true → t = s) := by
  obtain ⟨lane, addr, loc, cp⟩ := x
  cases loc with
  | hbm pa =>
    obtain ⟨hnone, hfit, halign⟩ := hline pa rfl
    by_cases hhome : atHome a o = true
    · refine ⟨s, ?_, .refl s, fun _ => rfl⟩
      simp only [phaseValue, lineLoad]
      rw [if_pos (show atHome a { o with cp := cp.toNat } = true from hhome), flushLine_none _ _ _ hnone]
      rfl
    · have hload : phaseValue s a o ⟨lane, addr, .hbm pa, cp⟩ = l1Load s a.ctx.core cp.toNat addr.toNat pa 8 false :=
        if_neg (show ¬ atHome a { o with cp := cp.toNat } = true from hhome)
      by_cases hcp : cp.toNat = 1
      · exact ⟨s, by rw [hload, hcp, l1Load_home _ _ hnone]; rfl, .refl s, fun _ => rfl⟩
      · obtain ⟨hv, hq, -⟩ := l1Load_finds addr.toNat false hcp hfit (show pa % 128 + 8 ≤ 128 by omega)
        refine ⟨_, ?_, hq, fun hh => absurd hh hhome⟩
        rw [hload]
        refine Prod.ext rfl (hv.trans ?_)
        simp only [coreBytes, hnone]
        rfl
  | scratch m k => exact ⟨s, rfl, .refl s, fun _ => rfl⟩
  | die m k => exact ⟨s, rfl, .refl s, fun _ => rfl⟩
  | page m k => obtain hk | ⟨pa, hk⟩ := hkind; exacts [hk.elim, nomatch hk]
  | away m k => obtain hk | ⟨pa, hk⟩ := hkind; exacts [hk.elim, nomatch hk]
/-- R49: its byte at the home is aligned as the access is. -/
theorem ActsAt.homeAligned {c : Ctx} {space : Space} {need : Need} {addr : DWord} {n : Nat} (ha : ActsAt s c space need addr n at_) (pa : Nat)
    (hpa : at_ = .hbm pa) : pa % n = 0 := by
  subst hpa
  obtain ⟨-, -, -, ⟨-, hoff⟩ | ⟨pa', -, hloc, hreach, -⟩⟩ := ha
  · exact (placeOffset_onChip hoff).elim
  · obtain rfl := Loc.hbm.inj hloc
    obtain ⟨-, -, e, -, -, -, -, halign, -⟩ := hreach
    exact halign
theorem Quiet.agent {t : State} (h : Quiet s t) : laneAgent t g sp = laneAgent s g sp := by
  rw [h]
  rfl

variable (ha : ActsAt s (splitCtx g sp) (spaceOf f.c.toNat) needR (laneAddr g l f) 8 at_)
include ha

/-- The lane's word passes its checks. -/
theorem waitphLanes_here : ∃ cp, waitphLanes s g sp f [l] = { s := s, here := [⟨l, laneAddr g l f, at_, cp⟩] } := by
  obtain ⟨p, hplace, hat, -⟩ := ha.place rfl
  refine ⟨wordPolicy (laneAgent s g sp) (ordOf f) p, ?_⟩
  have hword : wordAt s (laneAddr g l f).toNat p = .ok at_ := by
    simp only [wordAt, hat.refusal, hat.loc?, ha.1, Bool.false_eq_true, if_false]
  have hlane : waitphLane s g sp f l = (s, .ok (.inl ⟨l, laneAddr g l f, at_, wordPolicy (laneAgent s g sp) (ordOf f) p⟩)) := by
    unfold waitphLane
    extract_lets a addr
    rw [show place s a.ctx (spaceOf f.c.toNat) needR addr 8 = (s, .ok p) from hplace]
    obtain rfl | ⟨pa, e, rfl, rfl⟩ := hat
    · simp only [show wordAt s addr.toNat (.loc at_) = .ok at_ from hword]
      rfl
    · simp only [show wordAt s addr.toNat (.glob (.plain pa e)) = .ok (.hbm pa) from hword]
      rfl
  rw [waitphLanes, List.foldl_cons, List.foldl_nil, hlane]
  rfl

variable (hr : Ready (.waitph h f) h s g sp) (hl : activeLanes g sp h = [l]) (hw : mustWait s g sp (ordOf f) = false)
  (hfit : ∀ pa, at_ = .hbm pa → l1Fits s g.core (pa / 128))
include hr hl hw hfit

/-- The course of a WAITPH whose word lies here: one read, then the wait is over or the split parks on the word. -/
theorem exec_waitph_one : ∃ t cp, Quiet s t ∧ (atHome (laneAgent s g sp) (ordOf f) = true → t = s) ∧
    exec (.waitph h f) s = .next (
      if phaseReady ((g.sReg f.d.toNat).getLsbD 0) (bytesAt s at_ 8) then
        waitphEnd t g sp (ordOf f) [(⟨l, laneAddr g l f, at_, cp⟩, bytesAt s at_ 8)] [] (encode (.waitph h f))
      else parkAt t g sp (.waitph ((g.sReg f.d.toNat).getLsbD 0) f.mo f.sc [⟨l, laneAddr g l f, at_, cp⟩] [] (encode (.waitph h f)) false)) := by
  obtain ⟨cp, hlanes⟩ := waitphLanes_here ha
  obtain ⟨t, hvalue, hq, hhome⟩ := phaseValue_finds (a := laneAgent s g sp) (o := ordOf f) (x := ⟨l, laneAddr g l f, at_, cp⟩) ha.kind
    (fun pa hpa => ⟨ha.uncached pa hpa, hfit pa hpa, ha.homeAligned pa hpa⟩)
  refine ⟨t, cp, hq, hhome, ?_⟩
  have hnofault : faultsHeld g sp [] = none := by rw [faultsHeld]; split <;> rfl
  have hwords : phaseWords s (laneAgent s g sp) (ordOf f) [⟨l, laneAddr g l f, at_, cp⟩] =
      (t, [(⟨l, laneAddr g l f, at_, cp⟩, bytesAt s at_ 8)]) := by
    rw [phaseWords, List.foldl_cons, List.foldl_nil, hvalue]
    rfl
  rw [exec_lanes (exec_waitph h f s) hr rfl, hl, if_neg (by simp), hw]
  simp only [Bool.false_eq_true, if_false, hlanes, hnofault, hwords, List.all_cons, List.all_nil, Bool.and_true, List.isEmpty_nil, Bool.not_true,
    if_true]
  cases phaseReady ((g.sReg f.d.toNat).getLsbD 0) (bytesAt s at_ 8) <;> rfl
end

/-- Effects that touch no group, then the split parks at its instruction. -/
theorem parkAt_after {s t : State} {g : Group} {sp : Split} {p : Park} (hg : s.group? g.uid = some g) (hs : g.split? sp.slot = some sp)
    (ht : t.groups = s.groups) : (parkAt t g sp p).group? g.uid = some (g.setSplit { sp with status := .parked p }) ∧
      OnlySplit g (g.setSplit { sp with status := .parked p }) sp { sp with status := .parked p } := by
  obtain ⟨-, hself, -⟩ := onlyGroup_setGroup t g (g.setSplit { sp with status := .parked p }) ((State.group?_congr ht _).trans hg) rfl
  exact ⟨hself, onlySplit_setSplit g g sp _ hs rfl rfl⟩

/-- The end of the wait at a word that is not poisoned: the acquire of the read, then the split goes on. -/
theorem waitphEnd_one {t : State} {g : Group} {sp : Split} {o : Ord} {x : LaneLoc} {w : Nat} {insn : List Word} (hbit : bit w 62 = false)
    (hsig : o.acquires = true → wideScope o.scope (laneAgent t g sp).paired = true → sigAt t x.loc 8 = []) :
    ∃ u read, Quiet t u ∧ waitphEnd t g sp o [(x, w)] [] insn = finish u g { sp with acqSig := read } 12 := by
  refine ⟨_, unionPairs sp.acqSig (readSide t (laneAgent t g sp) o x.loc 8).2, readSide_quiet hsig, ?_⟩
  have hfaults : phaseFaults [(x, w)] = [] := by simp [phaseFaults, hbit]
  simp only [waitphEnd, hfaults, List.append_nil, sortFaults_nil, settleFaults]
  rfl

/-- Settles O33: an arrival is one read-modify-write by `arriveValue`, or meets poison; a WAITPH reads its word once, and goes on or parks. -/
theorem barrierWordsCountArrivals : Obligations.BarrierWordsCountArrivals := by
  intro h f s g sp l at_ w pending count again flip path hwf hl hsig
  have hcan := (memoriesWf_iff s).1 hwf
  refine ⟨fun hr ha hw hcount => ⟨fun hbit hless => ?less, fun hbit hpos hlast => ?last, fun hbit hmore => ?more,
    fun hbit => arrive_meetsPoison hr hl ha hw hbit⟩, fun hr ha hw hfit hbit => ?waitph⟩
  case less =>
    have hcounts := arrive_counts hr hl ha hw hsig hcan hbit hcount (show count ≤ pending by omega)
    rwa [arriveValue_less hless] at hcounts
  case last =>
    have hcounts := arrive_counts hr hl ha hw hsig hcan hbit hcount (Nat.le_of_eq hlast)
    rwa [arriveValue_last hpos hlast] at hcounts
  case more =>
    have hpoisons := arrive_poisons hr hl ha hw hsig hcan hbit hmore
    rwa [arriveValue_more hmore] at hpoisons
  case waitph =>
    obtain ⟨t, cp, hq, hhome, hexec⟩ := exec_waitph_one ha hr hl hw hfit
    refine ⟨fun hother => ?goesOn, fun hsame => ?parks⟩
    case goesOn =>
      obtain ⟨u, read, hread, hend⟩ := waitphEnd_one (t := t) (g := g) (sp := sp) (o := ordOf f) (x := ⟨l, laneAddr g l f, at_, cp⟩)
        (insn := encode (.waitph h f)) hbit (fun hacq hwide => by
          have hat : atHome (laneAgent s g sp) (ordOf f) = true := by
            rw [atHome, acquires_strong hacq, ← hq.agent, hwide]
            rfl
          rw [hhome hat]
          exact ordOf_acquires hsig hacq)
      rw [if_pos (by rw [phaseReady, hbit]; simpa using hother), hend] at hexec
      obtain ⟨hgroup, -, hsplit⟩ := finish_after (g' := g) (sp' := { sp with acqSig := read }) 12 hr.group hr.split (hq.trans hread).groups rfl rfl rfl
      exact ⟨_, _, _, hexec, (hq.trans hread).memory, hgroup, hsplit, rfl, rfl⟩
    case parks =>
      rw [if_neg (by rw [phaseReady, hbit]; simpa using hsame)] at hexec
      obtain ⟨hgroup, hsplit⟩ := parkAt_after (p := .waitph ((g.sReg f.d.toNat).getLsbD 0) f.mo f.sc [⟨l, laneAddr g l f, at_, cp⟩] []
        (encode (.waitph h f)) false) hr.group hr.split hq.groups
      exact ⟨_, _, _, hexec, hq.memory, hgroup, hsplit, rfl, ⟨cp, rfl⟩, rfl⟩

end Sys2Proof.Machine
end

section
/-! PROOFS. Rings (O34): the header after a claim and after a release, and the one lane that makes it. -/

namespace Sys2Proof.Machine

-- One proof at a time, as in the tests: proofs that wait for earlier ones would each hold a thread and its stack.
set_option Elab.async false

/-! ### Fields of a number -/

section
variable {v lo n p m : Nat}

/-- A field replaced: the number loses what stood there and gains what stands there now. -/
theorem setBits_add_bits (v lo n x : Nat) : setBits v lo n x + bits v lo n * 2 ^ lo = v + x % 2 ^ n * 2 ^ lo := by
  have hlow := Nat.mod_add_div v (2 ^ lo)
  have hfield := Nat.mod_add_div (v / 2 ^ lo) (2 ^ n)
  rw [setBits, bits, Nat.pow_add, ← Nat.div_div_eq_div_mul]
  generalize v / 2 ^ lo / 2 ^ n = top at *
  generalize v / 2 ^ lo % 2 ^ n = field at *
  rw [← hfield] at hlow
  linear_combination hlow
theorem bits_mul_le (v lo n : Nat) : bits v lo n * 2 ^ lo ≤ v :=
  (Nat.mul_le_mul_right _ (Nat.mod_le _ _)).trans (Nat.div_mul_le_self v (2 ^ lo))
theorem setBits_eq (v lo n x : Nat) : setBits v lo n x = v - bits v lo n * 2 ^ lo + x % 2 ^ n * 2 ^ lo := by
  have hsum := setBits_add_bits v lo n x
  have hle := bits_mul_le v lo n
  omega
/-- A bit that was 0, set. -/
theorem setBits_one (h : bit v p = false) : setBits v p 1 1 = v + 2 ^ p := by
  have hzero : bits v p 1 = 0 := by
    rw [bit, beq_eq_false_iff_ne] at h
    rw [bits]
    omega
  rw [setBits_eq, hzero]
  simp
/-- Another field keeps its value. -/
theorem bits_setBits_apart (x : Nat) (h : lo + n ≤ p ∨ p + m ≤ lo) : bits (setBits v lo n x) p m = bits v p m := by
  refine Nat.eq_of_testBit_eq fun i => ?_
  simp only [bits, Nat.testBit_mod_two_pow, Nat.testBit_div_two_pow]
  by_cases hi : i < m
  · rw [← bit_eq_testBit, ← bit_eq_testBit, bit_setBits, if_neg (by omega)]
  · simp [hi]
/-- A bit set and cleared again. -/
theorem setBits_clear (h : bit v p = false) : setBits (setBits v p 1 1) p 1 0 = v := by
  rw [setBits_eq (setBits v p 1 1), bits_setBits, setBits_one h]
  simp
end

/-! ### Ring headers (R234, R235, R284) -/

section
variable {hd k x i : Nat}

theorem ringBad_slots (h : ringBad hd = false) : 0 < rNslot hd ∧ rNslot hd ≤ 64 := by
  simp only [ringBad, Bool.or_eq_false_iff, decide_eq_false_iff_not] at h
  obtain ⟨⟨⟨⟨hzero, hmany⟩, -⟩, -⟩, -⟩ := h
  omega
theorem bit_rMap (hi : i < 64) : bit (rMap hd) i = bit hd (192 + i) := by
  rw [rMap, bits, bit_mod_two_pow, bit_div_two_pow, decide_eq_true hi, Bool.true_and]
/-- The bit of a claim's slot lies in the released map. -/
theorem ringSlot_lt (h : ringBad hd = false) (k : Nat) : k % rNslot hd < 64 := by
  obtain ⟨hpos, hle⟩ := ringBad_slots h
  exact Nat.lt_of_lt_of_le (Nat.mod_lt _ hpos) hle

/-! Marks in the map leave the fields below it. -/
@[simp] theorem rFront_setMap : rFront (setBits hd (192 + i) 1 x) = rFront hd := bits_setBits_apart x (.inr (by omega))
@[simp] theorem rCptr_setMap : rCptr (setBits hd (192 + i) 1 x) = rCptr hd := bits_setBits_apart x (.inr (by omega))
@[simp] theorem rNslot_setMap : rNslot (setBits hd (192 + i) 1 x) = rNslot hd := bits_setBits_apart x (.inr (by omega))
@[simp] theorem rMap_setFront : rMap (setBits hd 128 32 x) = rMap hd := bits_setBits_apart x (.inl (by decide))
theorem bit_rMap_setMap {j : Nat} (hi : i < 64) (hj : j < 64) :
    bit (rMap (setBits hd (192 + i) 1 1)) j = if j = i then true else bit (rMap hd) j := by
  rw [bit_rMap hj, bit_rMap hj, bit_setBits]
  by_cases hji : j = i
  · subst hji
    simp [bit]
  · rw [if_neg (by omega), if_neg hji]

theorem rBase_eq (hd : Nat) : rBase hd = hd % 2 ^ 32 := by rw [rBase, bits, Nat.pow_zero, Nat.div_one]
theorem ringPoison_eq (h : bit hd 191 = false) : ringPoison hd = hd + 2 ^ 191 := setBits_one h
theorem ringClaim_eq (hd : Nat) : ringClaim hd = hd - rCptr hd * 2 ^ 96 + (rCptr hd + 1) % 2 ^ 32 * 2 ^ 96 := by
  rw [ringClaim, setBits_eq, Nat.mod_mod]
  rfl
/-- R235: the frontier stands at a claim that is not released. -/
theorem ringAdvance_stays (n : Nat) (h : bit (rMap hd) (rFront hd % rNslot hd) = false) : ringAdvance n hd = hd := by
  cases n with
  | zero => rfl
  | succ n => rw [ringAdvance, h, Bool.and_false, if_neg Bool.false_ne_true]
/-- R235: it passes a claim that is. -/
theorem ringAdvance_passes (n : Nat) (hclaimed : rFront hd ≠ rCptr hd) (h : bit (rMap hd) (rFront hd % rNslot hd) = true) :
    ringAdvance (n + 1) hd = ringAdvance n (setBits (setBits hd (192 + rFront hd % rNslot hd) 1 0) 128 32 ((rFront hd + 1) % 2 ^ 32)) := by
  rw [ringAdvance, h, Bool.and_true, if_pos (by simpa using hclaimed)]

/-- A release behind a frontier that stays is marked. -/
theorem ringRelease_marks (hbad : ringBad hd = false) (huse : ringMisuse k hd = false) (hfront : bit (rMap hd) (rFront hd % rNslot hd) = false)
    (hslot : k % rNslot hd ≠ rFront hd % rNslot hd) : ringRelease k hd = hd + 2 ^ (192 + k % rNslot hd) := by
  obtain ⟨-, hfree⟩ : _ ∧ bit (rMap hd) (k % rNslot hd) = false := by simpa only [ringMisuse, Bool.or_eq_false_iff] using huse
  rw [bit_rMap (ringSlot_lt hbad k)] at hfree
  rw [ringRelease, huse, if_neg Bool.false_ne_true, ringAdvance_stays, setBits_one hfree]
  rw [rFront_setMap, rNslot_setMap, bit_rMap_setMap (ringSlot_lt hbad k) (ringSlot_lt hbad _), if_neg hslot.symm, hfront]
/-- A release at the frontier, none other being marked, lets it pass one claim. -/
theorem ringRelease_passes (hbad : ringBad hd = false) (huse : ringMisuse (rFront hd) hd = false) (hmap : rMap hd = 0) :
    ringRelease (rFront hd) hd = hd - rFront hd * 2 ^ 128 + (rFront hd + 1) % 2 ^ 32 * 2 ^ 128 := by
  have hslot := ringSlot_lt hbad (rFront hd)
  have hfree : bit hd (192 + rFront hd % rNslot hd) = false := by
    rw [← bit_rMap hslot, hmap]
    simp [bit]
  have hclaimed : rFront hd ≠ rCptr hd := by
    intro heq
    simp [ringMisuse, heq] at huse
  calc ringRelease (rFront hd) hd
      = ringAdvance (63 + 1) (setBits hd (192 + rFront hd % rNslot hd) 1 1) := by rw [ringRelease, huse, if_neg Bool.false_ne_true]
    _ = ringAdvance 63 (setBits hd 128 32 ((rFront hd + 1) % 2 ^ 32)) := by
        rw [ringAdvance_passes 63 (by simpa using hclaimed) (by rw [rFront_setMap, rNslot_setMap, bit_rMap_setMap hslot hslot, if_pos rfl]),
          rFront_setMap, rNslot_setMap, setBits_clear hfree]
    _ = setBits hd 128 32 ((rFront hd + 1) % 2 ^ 32) := ringAdvance_stays _ (by rw [rMap_setFront, hmap]; simp [bit])
    _ = _ := by
        rw [setBits_eq, Nat.mod_mod]
        rfl
end

/-! ### RAWAIT (R234) -/

/-- What the registers of a claim hold: its number, and the offset of its slot. -/
def ringClaimed (hd : Nat) : Nat := rCptr hd + 2 ^ 32 * ((rBase hd + rCptr hd % rNslot hd * rSlotsz hd) % 2 ^ 32)

section
variable {h : Hdr} {f : LongF} {s : State} {g : Group} {sp : Split} {l : Nat} {at_ : Loc}

/-- A claim of a filled slot is one read-modify-write. -/
theorem claimAt_claims {a : Agent} {o : Ord} {fence : Option (BitVec 4)} {x : LaneLoc} {t : State} {sig : List (Nat × Nat)} {hd : Nat}
    (hhd : bytesAt s x.loc 32 = hd) (hpo : poisoned s x.loc = false) (hbad : ringBad hd = false) (hsound : rPoison hd = false)
    (hslot : ringHasSlot hd = true) (hstep : rmwAt s a o fence x.loc 32 ringClaim = (t, hd, sig)) : claimAt s a o fence x =
      (t, some (.ok (ringClaimed hd)), sig) := by
  simp only [claimAt, hpo, locRead_eq_bytesAt, hhd, hbad, hsound, hslot, hstep, Bool.false_eq_true, Bool.not_true, if_false]
  rfl
/-- With no filled slot it waits. -/
theorem claimAt_waits {a : Agent} {o : Ord} {fence : Option (BitVec 4)} {x : LaneLoc} {hd : Nat} (hhd : bytesAt s x.loc 32 = hd)
    (hpo : poisoned s x.loc = false) (hbad : ringBad hd = false) (hsound : rPoison hd = false) (hslot : ringHasSlot hd = false) :
    claimAt s a o fence x = (s, none, []) := by
  simp only [claimAt, hpo, locRead_eq_bytesAt, hhd, hbad, hsound, hslot, Bool.false_eq_true, Bool.not_false, if_false, if_true]

variable (hspace : spaceOf f.c.toNat ≠ .global) (ha : ActsAt s (splitCtx g sp) (spaceOf f.c.toNat) needRW (laneAddr g l f) 32 at_)
include hspace ha

theorem ringLane_here : ringLane s g sp f l = .ok ⟨l, laneAddr g l f, at_, 0⟩ := by
  obtain ⟨-, -, -, ⟨-, hoff⟩ | ⟨pa, hglobal, -⟩⟩ := ha
  · simp only [ringLane, hoff]
    rfl
  · exact absurd hglobal hspace

variable (hr : Ready (.rawait h f) h s g sp) (hl : activeLanes g sp h = [l]) (hw : mustWait s g sp (ordOf f) = false) (hcount : g.counter 2 < 63)
include hr hl hw hcount

theorem exec_rawait_one : exec (.rawait h f) s =
    .next (rawaitGo s g sp (ordOf f) f.d.toNat [⟨l, laneAddr g l f, at_, 0⟩] [] (encode (.rawait h f))) := by
  rw [exec_lanes (exec_rawait h f s) hr rfl, hl, if_neg (by simp), hw, if_neg Bool.false_ne_true, if_neg (Nat.not_le.2 hcount)]
  simp only [List.map_cons, List.map_nil, ringLane_here hspace ha, List.filterMap_cons, List.filterMap_nil]

variable (hbad : ringBad (bytesAt s at_ 32) = false) (hsound : bit (bytesAt s at_ 32) 191 = false)
include hbad hsound

/-- With no filled slot the split parks on its ring. -/
theorem rawait_parks (hslot : ringHasSlot (bytesAt s at_ 32) = false) : exec (.rawait h f) s = .next (s.setGroup (g.setSplit
    { sp with status := .parked (.rawait f.d.toNat f.mo f.sc [⟨l, laneAddr g l f, at_, 0⟩] [] (encode (.rawait h f))) })) := by
  rw [exec_rawait_one hspace ha hr hl hw hcount]
  simp only [rawaitGo, claimLanes, claimAt_waits (x := ⟨l, laneAddr g l f, at_, 0⟩) rfl ha.1 hbad hsound hslot, List.isEmpty_cons, Bool.false_eq_true,
    if_false, parkAt, ordOf, BitVec.ofNat_toNat, BitVec.setWidth_eq]
/-- A filled slot is claimed, and its registers hold the claim at once. -/
theorem rawait_claims (hcan : s.Canonical) (hsig : f.mo = 0 ∨ sigAt s at_ 32 = []) (hslot : ringHasSlot (bytesAt s at_ 32) = true) :
    ∃ t g', exec (.rawait h f) s = .next t ∧ StoresAt s t at_ 32 (ringClaim (bytesAt s at_ 32)) ∧ t.group? g.uid = some g' ∧
      g' = { g with lanes := g'.lanes, splits := g'.splits, flights := g.flights ++ [{ path := 2, op := s.uid, done := true }] } ∧
      (∀ n, g'.lane n = if n = l then (g.lane l).setVNat f.d.toNat 2 (ringClaimed (bytesAt s at_ 32)) else g.lane n) ∧
      ∃ sp', g'.split? sp.slot = some sp' ∧
        sp' = { sp with pc := sp.pc + 12, status := .ready, lastTrap := sp'.lastTrap, fenceWait := none, acqSig := sp'.acqSig } := by
  obtain ⟨t, sig, hstep, hq⟩ := rmwAt_spec (a := laneAgent s g sp) (o := ordOf f) (fence := sp.relFence) ringClaim ha.kind ha.uncached ha.2.1
    (ordOf_acquires hsig)
  have hnotes := locWrite_notes s (n := 32) (ringClaim (bytesAt s at_ 32)) ha.kind
  have hexec := exec_rawait_one hspace ha hr hl hw hcount
  simp only [rawaitGo, claimLanes, claimAt_claims (x := ⟨l, laneAddr g l f, at_, 0⟩) rfl ha.1 hbad hsound hslot hstep, List.isEmpty_nil, if_true,
    sortFaults_nil, settleFaults, State.fresh, hq.uid.trans (show (locWrite s at_ 32 (ringClaim (bytesAt s at_ 32))).uid = s.uid by rw [hnotes])] at hexec
  obtain ⟨hgroup, -, hsplit⟩ := finish_after (t := { t with uid := s.uid + 1 })
    (g' := (g.modLane l (fun y => y.setVNat f.d.toNat 2 (ringClaimed (bytesAt s at_ 32)))).addFlight 2 s.uid true)
    (sp' := { sp with acqSig := unionPairs sp.acqSig sig, status := .ready }) 12 hr.group hr.split
    (hq.groups.trans (by rw [hnotes])) rfl rfl rfl
  exact ⟨_, _, hexec, storesAt_locWrite _ _ hcan ha.kind hq.memory, hgroup, rfl,
    fun n => g.lane_modLane l n (fun y => y.setVNat f.d.toNat 2 (ringClaimed (bytesAt s at_ 32))), _, hsplit.split, rfl⟩
end

/-! ### RREL (R235) -/

/-- One lane of RREL. -/
def rrelLane (f : LongF) (s : State) (g : Group) (sp : Split) (l : Nat) : State × LaneEnd × List (Nat × Nat) :=
  laneAccess s (laneAgent s g sp) (spaceOf f.c.toNat) needRW (laneAddr g l f) 32 l 3 (.read 0) false
    (fun t p => rrelPlace t (laneAgent s g sp) (ordOf f) sp.relFence (laneAddr g l f).toNat ((g.lane l).vReg f.d.toNat).toNat p)
theorem exec_rrel_lanes (h : Hdr) (f : LongF) (s : State) :
    exec (.rrel h f) s = memInstrFor (.rrel h f) h always (ordOf f) (fun _ _ _ _ => {}) inOrder none (rrelLane f) s := rfl

section
variable {h : Hdr} {f : LongF} {s : State} {g : Group} {sp : Split} {l : Nat} {at_ : Loc}
  (ha : ActsAt s (splitCtx g sp) (spaceOf f.c.toNat) needRW (laneAddr g l f) 32 at_) (hsig : f.mo = 0 ∨ sigAt s at_ 32 = [])
  (hbad : ringBad (bytesAt s at_ 32) = false) (hsound : bit (bytesAt s at_ 32) 191 = false)
include ha hsig hbad hsound

/-- A release at its place is one read-modify-write; one of a claim that cannot be released traps besides. -/
theorem rrel_step (k : Nat) : ∃ t sig, Quiet (locWrite s at_ 32 (ringRelease k (bytesAt s at_ 32))) t ∧
    ∀ p, p.At at_ → rrelPlace s (laneAgent s g sp) (ordOf f) sp.relFence (laneAddr g l f).toNat k p =
      ⟨t, if ringMisuse k (bytesAt s at_ 32) then .error (causeAt cBarpoison 0 (laneAddr g l f).toNat) else .ok 0, sig⟩ := by
  obtain ⟨t, sig, hstep, hq⟩ := rmwAt_spec (a := laneAgent s g sp) (o := ordOf f) (fence := sp.relFence) (ringRelease k) ha.kind ha.uncached ha.2.1
    (ordOf_acquires hsig)
  refine ⟨t, sig, hq, fun p hat => ?_⟩
  simp only [rrelPlace, hat.loc?, locRead_eq_bytesAt, ha.1, hbad, show rPoison (bytesAt s at_ 32) = false from hsound, hstep, Bool.false_eq_true, if_false]

variable (hr : Ready (.rrel h f) h s g sp) (hl : activeLanes g sp h = [l]) (hw : mustWait s g sp (ordOf f) = false) (hcan : s.Canonical)
include hr hl hw hcan

theorem rrel_releases (hspace : spaceOf f.c.toNat ≠ .global) (hcount : g.counter 2 < 63)
    (huse : ringMisuse ((g.lane l).vReg f.d.toNat).toNat (bytesAt s at_ 32) = false) :
    ∃ t g', exec (.rrel h f) s = .next t ∧ StoresAt s t at_ 32 (ringRelease ((g.lane l).vReg f.d.toNat).toNat (bytesAt s at_ 32)) ∧
      MemoryEnds t g g' sp 12 2 s.uid none := by
  obtain ⟨t, sig, hq, hact⟩ := rrel_step ha hsig hbad hsound ((g.lane l).vReg f.d.toNat).toNat
  obtain ⟨p, hplace, hat, hpath⟩ := ha.place rfl
  specialize hact p hat
  rw [huse, if_neg Bool.false_ne_true] at hact
  refine exec_lane_stores (w := 0) (sig := sig) (exec_rrel_lanes h f s) hr hl hw rfl ?_ hcount ha.kind hq hcan
  exact (laneAccess_done (a := laneAgent s g sp) hplace hat.here (by rw [hact])).trans (by rw [hact, hpath, if_pos hspace])
/-- A release of a claim that was not made, or was released before, poisons the header. -/
theorem rrel_poisons (huse : ringMisuse ((g.lane l).vReg f.d.toNat).toNat (bytesAt s at_ 32) = true) : ∃ m, exec (.rrel h f) s = .next
    (settleFaults m g sp [(l, { code := 0x12, addr := laneAddr g l f, access := 3 })] 12 (encode (.rrel h f))) ∧
    StoresAt s m at_ 32 (ringPoison (bytesAt s at_ 32)) := by
  obtain ⟨t, sig, hq, hact⟩ := rrel_step ha hsig hbad hsound ((g.lane l).vReg f.d.toNat).toNat
  obtain ⟨p, hplace, hat, -⟩ := ha.place rfl
  specialize hact p hat
  rw [huse, if_pos rfl] at hact
  rw [ringRelease, huse, if_pos rfl] at hq
  obtain ⟨m, hexec, hsame⟩ := exec_lane_poisons (t := t) (sig := []) (exec_rrel_lanes h f s) hr hl hw rfl (laneAddr g l f)
    ((laneAccess_fault (a := laneAgent s g sp) hplace hat.here (by rw [hact])).trans (by rw [hact, hat.access]))
  exact ⟨m, hexec, storesAt_locWrite _ _ hcan ha.kind (SameMemory.trans hq.memory hsame)⟩
end

/-- Settles O34: a claim stores `ringClaim`, a release `ringRelease`, each worked out on the header's fields. -/
theorem ringsClaimAndRelease : Obligations.RingsClaimAndRelease := by
  intro h f s g sp l at_ hd base slot wptr cptr front nslot map k hwf hl hsig hw hcount hspace ha hbad hsound
  have hcan := (memoriesWf_iff s).1 hwf
  refine ⟨fun hr => ⟨fun hfilled => ?claims, fun hempty => ?parks⟩, fun hr => ?releases⟩
  case claims =>
    have hclaims := rawait_claims hspace ha hr hl hw hcount hbad hsound hcan hsig (by rw [ringHasSlot, bne_iff_ne]; exact hfilled)
    rw [ringClaim_eq, ringClaimed, rBase_eq] at hclaims
    exact hclaims
  case parks => exact rawait_parks hspace ha hr hl hw hcount hbad hsound (by rw [ringHasSlot, bne_eq_false_iff_eq]; exact hempty)
  case releases =>
    intro misuse
    have hmisuse : misuse ↔ ringMisuse k hd = true := by simp only [misuse, ringMisuse, Bool.or_eq_true, decide_eq_true_eq]; rfl
    refine ⟨fun huse hne hfront hslot => ?marks, fun huse hk hmap => ?passes, fun huse => ?poisons⟩
    case marks =>
      have huse := Bool.eq_false_iff.2 (mt hmisuse.2 huse)
      have hreleases := rrel_releases ha hsig hbad hsound hr hl hw hcan hspace hcount huse
      rwa [ringRelease_marks hbad huse hfront hslot] at hreleases
    case passes =>
      have hkey : ((g.lane l).vReg f.d.toNat).toNat = rFront hd := hk
      have huse : ringMisuse ((g.lane l).vReg f.d.toNat).toNat hd = false := Bool.eq_false_iff.2 (mt hmisuse.2 huse)
      have hreleases := rrel_releases ha hsig hbad hsound hr hl hw hcan hspace hcount huse
      rw [hkey] at huse hreleases
      rwa [ringRelease_passes hbad huse hmap] at hreleases
    case poisons =>
      have hpoisons := rrel_poisons ha hsig hbad hsound hr hl hw hcan (hmisuse.1 huse)
      rwa [ringPoison_eq hsound] at hpoisons

end Sys2Proof.Machine
end

section
/-! PROOFS. Casks (O35): pushes and pops of a cask whose cellar is empty or whose chip is full, and the one lane that makes them. -/

namespace Sys2Proof.Machine

-- One proof at a time, as in the tests: proofs that wait for earlier ones would each hold a thread and its stack.
set_option Elab.async false

/-! ### Pushes and pops (R237) -/

section
variable {c : Cask}

/-- Nothing moves from an empty cellar, or to a full chip. -/
theorem refill_still (h : c.cellar = [] ∨ 4096 ≤ c.chip.length) : c.refill = c := by
  have hmoved : min (chipSize - c.chip.length) c.cellar.length = 0 := by
    rcases h with h | h
    · rw [h, List.length_nil, Nat.min_zero]
    · rw [chipSize, Nat.sub_eq_zero_of_le h, Nat.zero_min]
  simp only [Cask.refill, hmoved, List.take_zero, List.append_nil, List.drop_zero]
/-- The cellar keeps entries only behind a full chip. -/
theorem refill_cellar_nil (h : c.refill.chip.length < 4096) : c.refill.cellar = [] := by
  simp only [Cask.refill, chipSize, List.length_append, List.length_take] at h ⊢
  exact List.drop_eq_nil_of_le (by omega)

variable (e : CaskEntry)
theorem push_chip (hcellar : c.cellar = []) (hroom : c.chip.length < 4096) : c.push e = ({ c with chip := c.chip ++ [e] }, 0) := by
  simp only [Cask.push, refill_still (.inl hcellar), Cask.sticky, hcellar, List.any_nil, Bool.false_eq_true, if_false, chipSize, if_pos hroom]
theorem push_cellar (hchip : 4096 ≤ c.chip.length) (hroom : c.cellar.length < c.cap) : c.push e = ({ c with cellar := c.cellar ++ [e] }, 1) := by
  simp only [Cask.push, refill_still (.inr hchip), if_pos hroom, chipSize, if_neg (Nat.not_lt.2 hchip), ite_self]
theorem push_full (hchip : 4096 ≤ c.chip.length) (hfull : c.cap ≤ c.cellar.length) : c.push e = (c, 2) := by
  simp only [Cask.push, refill_still (.inr hchip), if_neg (Nat.not_lt.2 hfull), chipSize, if_neg (Nat.not_lt.2 hchip), ite_self]
theorem pop_oldest {es : List CaskEntry} (hcellar : c.cellar = []) (hchip : c.chip = e :: es) : c.pop = ({ c with chip := es }, some e) := by
  simp only [Cask.pop, refill_still (.inl hcellar), hchip]
theorem pop_empty (hcellar : c.cellar = []) (hchip : c.chip = []) : c.pop = (c, none) := by
  simp only [Cask.pop, refill_still (.inl hcellar), hchip]
end

/-! ### The cask of a lane (R236) -/

section
variable {s : State} {part n : Nat} {c : Cask}

theorem caskLane_ok {g : Group} {l : Nat} {f : LongF} (h : (laneAddr0 g l f).toNat < 1024) : caskLane g l f = .ok (laneAddr0 g l f).toNat := by
  simp only [caskLane, ge_iff_le, if_neg (Nat.not_le.2 h)]
theorem caskOf_own (hc : s.cask? n = some c) (hp : c.part = part) : caskOf s part n = some c := by
  simp only [caskOf, hc, if_pos hp]
theorem caskOf_none (h : s.cask? n = none ∨ ∃ c, s.cask? n = some c ∧ c.part ≠ part) : caskOf s part n = none := by
  rcases h with hnone | ⟨c, hc, hp⟩
  · simp only [caskOf, hnone]
  · simp only [caskOf, hc, if_neg hp]
/-- A cask replaced by one of its number. -/
theorem cask?_replaced (hc : s.cask? n = some c) {c' : Cask} (hnum : c'.num = c.num) : (s.modCask n (fun _ => c')).cask? n = some c' :=
  State.cask?_modCask hc fun _ _ => hnum.trans (by simpa using List.find?_some hc)

/-- Groups, casks and the next number are as they were. -/
def KeepsCasks (s t : State) : Prop := t.groups = s.groups ∧ t.casks = s.casks ∧ t.uid = s.uid
theorem applySig_keepsCasks (s : State) (core : Nat) (sig : List (Nat × Nat)) : KeepsCasks s (applySig s core sig) := by
  have hback (t : State) (p : Nat × Nat) : ((writeBack t p.1 p.2).casks, (writeBack t p.1 p.2).uid) = (t.casks, t.uid) := by
    rw [MemoryOnly.writeBack t p.1 p.2]
  have hdrop (t : State) (p : Nat × Nat) :
      ((touch (flushLine t core p.2) core p.2).casks, (touch (flushLine t core p.2) core p.2).uid) = (t.casks, t.uid) := by
    obtain ⟨T, htouch⟩ := touch_frame (flushLine t core p.2) core p.2
    rw [htouch, MemoryOnly.flushLine t core p.2]
  have hkept : ((applySig s core sig).casks, (applySig s core sig).uid) = (s.casks, s.uid) :=
    (foldl_field (fun t => (t.casks, t.uid)) hdrop sig _).trans (foldl_field (fun t => (t.casks, t.uid)) hback sig s)
  obtain ⟨hcasks, huid⟩ := Prod.ext_iff.1 hkept
  exact ⟨applySig_groups s core sig, hcasks, huid⟩
end

/-! ### The end of the instruction (R238) -/

/-- The split is past a QPUT or QGET, counted on its path; its writes are outstanding, and a QPUT waits until they are made. -/
def CaskEnds (s : State) (g : Group) (sp : Split) (t : State) (park : Bool) (ws : List RegWrite) : Prop :=
  ∃ g' sp', t.group? g.uid = some g' ∧ OnlySplit g g' sp sp' ∧
    g' = { g with splits := g'.splits, flights := g.flights ++ [{ path := 7, op := s.uid, done := true }] } ∧
    sp' = { sp with pc := sp.pc + 12, status := if park then .parked (.statuses s.uid) else sp.status, lastTrap := sp'.lastTrap, fenceWait := none,
                    acqSig := sp'.acqSig, pend := sp.pend ++ [{ op := s.uid, writes := ws }] }

section
variable {i : Instr} {h : Hdr} {f : LongF} {s : State} {g : Group} {sp : Split} {l : Nat}

/-- A lane that has not faulted and has writes left. -/
theorem caskClose_ends {m : CaskRun} {ws : List RegWrite} (park : Bool) (insn : List Word) (hg : s.group? g.uid = some g) (hs : g.split? sp.slot = some sp)
    (hkeep : m.s.groups = s.groups ∧ m.s.uid = s.uid) (hfaults : m.faults = []) (hwrites : m.writes = ws) (hws : ws ≠ []) :
    CaskEnds s g sp (caskClose g sp m park insn) park ws ∧ (caskClose g sp m park insn).casks = m.s.casks := by
  obtain ⟨hgroups, huid⟩ := hkeep
  have hsome : ws.isEmpty = false := by simpa using hws
  obtain ⟨hgroup, -, hsplit⟩ := finish_after (t := { m.s with uid := m.s.uid + 1 }) (g' := g.addFlight 7 s.uid true)
    (sp' := sp.accessed (unionPairs sp.acqSig m.sig) s.uid (some ws)) 12 hg hs hgroups rfl rfl rfl
  simp only [caskClose, State.fresh, hfaults, hwrites, hsome, huid, sortFaults_nil, settleFaults, Bool.false_eq_true, if_false, Bool.not_false, Bool.and_true]
  cases park with
  | false => exact ⟨⟨_, _, hgroup, hsplit, rfl, rfl⟩, rfl⟩
  | true =>
    obtain ⟨g', hgroup', -, hsplit', hrest⟩ := modSplit_spec (sp := (sp.accessed (unionPairs sp.acqSig m.sig) s.uid (some ws)).next 12)
      (f := fun x => { x with status := .parked (.statuses s.uid) }) hgroup hsplit.split fun _ => rfl
    exact ⟨⟨g', _, hgroup', hsplit.trans hsplit' rfl, by rw [hrest]; rfl, rfl⟩, rfl⟩

variable {lane : Group → Split → LongF → CaskRun → Nat → CaskRun} {park : Bool}
  (he : exec i s = caskInstr i h f lane park s) (hr : Ready i h s g sp)
  (hl : activeLanes g sp h = [l]) (hw : mustWait s g sp (ordOf f) = false) (hroom : sp.pend.length < 16) (hcount : g.counter 7 < 63)
include he hr hl hw hroom hcount

/-- QPUT or QGET of one lane that does not fault. -/
theorem exec_cask_one {u : State} {ws : List RegWrite} {sig : List (Nat × Nat)} (hlane : lane g sp f { s := s } l = { s := u, writes := ws, sig := sig })
    (hkeep : u.groups = s.groups ∧ u.uid = s.uid) (hws : ws ≠ []) :
    ∃ t, exec i s = .next t ∧ t.casks = u.casks ∧ CaskEnds s g sp t park ws := by
  have hexec : exec i s = .next (caskClose g sp { s := u, writes := ws, sig := sig } park (encode i)) := by
    rw [exec_lanes he hr rfl, hl, if_neg (by simp), hw, if_neg Bool.false_ne_true, List.foldl_cons, List.foldl_nil, hlane]
    simp [withRoom, Nat.not_le.2 hroom, Nat.not_le.2 hcount]
  obtain ⟨hends, hcasks⟩ := caskClose_ends (m := { s := u, writes := ws, sig := sig }) park (encode i) hr.group hr.split hkeep rfl rfl hws
  exact ⟨_, hexec, hcasks, hends⟩
/-- One that replaces a cask. -/
theorem exec_cask_changes {u : State} {c c' : Cask} {n : Nat} {ws : List RegWrite} {sig : List (Nat × Nat)} (hc : s.cask? n = some c) (hnum : c'.num = c.num)
    (hkeep : KeepsCasks (s.modCask n (fun _ => c')) u) (hlane : lane g sp f { s := s } l = { s := u, writes := ws, sig := sig }) (hws : ws ≠ []) :
    ∃ t, exec i s = .next t ∧ t.cask? n = some c' ∧ CaskEnds s g sp t park ws := by
  obtain ⟨hgroups, hcasks, huid⟩ := hkeep
  obtain ⟨t, hexec, ht, hends⟩ := exec_cask_one he hr hl hw hroom hcount hlane ⟨hgroups, huid⟩ hws
  refine ⟨t, hexec, ?_, hends⟩
  rw [State.cask?, ht, hcasks]
  exact cask?_replaced hc hnum
end

/-! ### QPUT and QGET -/

/-- The state after a pop has acquired what the pushing core released (R84, R238). -/
def popAcquire (s : State) (g : Group) (sp : Split) (o : Ord) (sig : List (Nat × Nat)) : State :=
  if o.acquires then if wideScope o.scope (laneAgent s g sp).paired then applySig s g.core sig else narrowAcquire s g.core else s
theorem popAcquire_keepsCasks (s : State) (g : Group) (sp : Split) (o : Ord) (sig : List (Nat × Nat)) : KeepsCasks s (popAcquire s g sp o sig) := by
  unfold popAcquire
  split
  · split
    · exact applySig_keepsCasks s g.core sig
    · exact ⟨rfl, rfl, rfl⟩
  · exact ⟨rfl, rfl, rfl⟩

/-- R236: the four words of a task are the entry's, the second being 0. -/
theorem taskWrites (l d : Nat) (e : CaskEntry) : vWrites l d 4 (e.w0.toNat + 2 ^ 64 * e.lo.toNat + 2 ^ 96 * e.hi.toNat) =
    [.v l d e.w0, .v l (d + 1) 0, .v l (d + 2) e.lo, .v l (d + 3) e.hi] := by
  have hw0 := e.w0.isLt
  have hlo := e.lo.isLt
  have hhi := e.hi.isLt
  have hword (x : Nat) (w : Word) (hx : x % 2 ^ 32 = w.toNat) : wd x = w := BitVec.eq_of_toNat_eq (by rw [wd, BitVec.toNat_ofNat]; exact hx)
  simp only [vWrites]
  rw [hword _ e.w0 (by omega), hword _ 0 (show _ = 0 by omega), hword _ e.lo (by omega), hword _ e.hi (by omega)]

section
variable {h : Hdr} {f : LongF} {s : State} {g : Group} {sp : Split} {l : Nat} {c : Cask} (hnum : (laneAddr0 g l f).toNat < 1024)
include hnum

/-- A push changes no number or group, and writes its status. -/
theorem qputLane_push {r : Cask × Nat} (hc : s.cask? (laneAddr0 g l f).toNat = some c) (hp : c.part = fld g.partid 0 4)
    (hpush : c.push (taskEntry s g sp f l) = r) : qputLane g sp f { s := s } l =
      { s := s.modCask (laneAddr0 g l f).toNat (fun _ => r.1), writes := [.v l (xByte 0 f).toNat (wd r.2)] } := by
  simp only [qputLane, caskLane_ok hnum, caskOf_own hc hp, hpush, List.nil_append]
theorem qputLane_refused (h : s.cask? (laneAddr0 g l f).toNat = none ∨ ∃ c, s.cask? (laneAddr0 g l f).toNat = some c ∧ c.part ≠ fld g.partid 0 4) :
    qputLane g sp f { s := s } l = { s := s, writes := [.v l (xByte 0 f).toNat 3] } := by
  simp only [qputLane, caskLane_ok hnum, caskOf_none h, List.nil_append]
  rfl
theorem qgetLane_refused (h : s.cask? (laneAddr0 g l f).toNat = none ∨
    ∃ c, s.cask? (laneAddr0 g l f).toNat = some c ∧ (c.part ≠ fld g.partid 0 4 ∨ c.bound.isSome = true)) :
    qgetLane g sp f { s := s } l = { s := s, writes := [.v l (xByte 0 f).toNat 3] } := by
  by_cases hown : ∃ c, s.cask? (laneAddr0 g l f).toNat = some c ∧ c.part = fld g.partid 0 4
  · obtain ⟨c, hc, hp⟩ := hown
    have hbound : c.bound.isSome = true := by
      rcases h with hnone | ⟨c', hc', hbad⟩
      · rw [hc] at hnone; cases hnone
      · obtain rfl : c = c' := Option.some.inj (hc.symm.trans hc')
        exact hbad.resolve_left (not_not_intro hp)
    simp only [qgetLane, caskLane_ok hnum, caskOf_own hc hp, hbound, if_true, List.nil_append]
    rfl
  · have hother : s.cask? (laneAddr0 g l f).toNat = none ∨ ∃ c, s.cask? (laneAddr0 g l f).toNat = some c ∧ c.part ≠ fld g.partid 0 4 :=
      h.imp_right fun ⟨c, hc, _⟩ => ⟨c, hc, fun hp => hown ⟨c, hc, hp⟩⟩
    simp only [qgetLane, caskLane_ok hnum, caskOf_none hother, List.nil_append]
    rfl
/-- An empty cask is found so. -/
theorem qgetLane_empty (hc : s.cask? (laneAddr0 g l f).toNat = some c) (hp : c.part = fld g.partid 0 4) (hbound : c.bound = none)
    (hpop : c.pop = (c, none)) : qgetLane g sp f { s := s } l =
      { s := s.modCask (laneAddr0 g l f).toNat (fun _ => c), writes := [.v l (xByte 0 f).toNat 2] } := by
  simp only [qgetLane, caskLane_ok hnum, caskOf_own hc hp, hbound, hpop, Option.isSome_none, Bool.false_eq_true, if_false, List.nil_append]
  rfl
/-- The oldest entry is taken, and an acquire applies its signature. -/
theorem qgetLane_pop {c' : Cask} {e : CaskEntry} (hc : s.cask? (laneAddr0 g l f).toNat = some c) (hp : c.part = fld g.partid 0 4)
    (hbound : c.bound = none) (hpop : c.pop = (c', some e)) : ∃ sig, qgetLane g sp f { s := s } l =
      { s := popAcquire (s.modCask (laneAddr0 g l f).toNat (fun _ => c')) g sp (ordOf f) e.sig, sig := sig,
        writes := [.v l f.d.toNat e.w0, .v l (f.d.toNat + 1) 0, .v l (f.d.toNat + 2) e.lo, .v l (f.d.toNat + 3) e.hi, .v l (xByte 0 f).toNat 0] } := by
  refine ⟨(qgetLane g sp f { s := s } l).sig, ?_⟩
  simp only [qgetLane, caskLane_ok hnum, caskOf_own hc hp, hbound, hpop, Option.isSome_none, Bool.false_eq_true, if_false, List.nil_append, taskWrites]
  rfl
end

/-- Settles O35: each case is a row of R237 for the cask of the lane, or a cask it may not use. -/
theorem casksKeepTasksInOrder : Obligations.CasksKeepTasksInOrder := by
  intro h f s g sp l n v status ends hl hnum hw hroom hcount
  have puts {c c' : Cask} {st : Nat} (hr : Ready (.qput h f) h s g sp) (hc : s.cask? n = some c) (hp : c.part = fld g.partid 0 4)
      (hpush : c.push (taskEntry s g sp f l) = (c', st)) (hsame : c'.num = c.num) :
      ∃ t, exec (.qput h f) s = .next t ∧ t.cask? n = some c' ∧ ends t true [.v l status (wd st)] :=
    exec_cask_changes (exec_qput h f s) hr hl hw hroom hcount hc hsame ⟨rfl, rfl, rfl⟩ (qputLane_push hnum hc hp hpush) (List.cons_ne_nil _ _)
  refine ⟨fun hr => ⟨fun c hc hp => ⟨fun hcellar hchip => ?chip, fun hchip hcellar => ?cellar, fun hchip hcellar => ?full⟩, fun hno => ?refused⟩,
    fun hr => ⟨fun c hc hp hbound hcellar => ⟨fun e es hchip => ?pops, fun hchip => ?empty⟩, fun hno => ?bound⟩,
    fun c => ⟨refill_entries c, rfl, refill_cellar_nil⟩⟩
  case chip =>
    obtain ⟨t, hexec, hfound, hends⟩ := puts hr hc hp (push_chip _ hcellar hchip) rfl
    exact ⟨t, _, hexec, hfound, rfl, hends⟩
  case cellar =>
    obtain ⟨t, hexec, hfound, hends⟩ := puts hr hc hp (push_cellar _ hchip hcellar) rfl
    exact ⟨t, _, hexec, hfound, rfl, hends⟩
  case full => exact puts hr hc hp (push_full _ hchip hcellar) rfl
  case refused =>
    exact exec_cask_one (exec_qput h f s) hr hl hw hroom hcount (qputLane_refused hnum hno) ⟨rfl, rfl⟩ (List.cons_ne_nil _ _)
  case pops =>
    obtain ⟨sig, hlane⟩ := qgetLane_pop (sp := sp) hnum hc hp hbound (pop_oldest e hcellar hchip)
    exact exec_cask_changes (exec_qget h f s) hr hl hw hroom hcount hc rfl (popAcquire_keepsCasks _ g sp _ e.sig) hlane (List.cons_ne_nil _ _)
  case empty =>
    exact exec_cask_changes (exec_qget h f s) hr hl hw hroom hcount hc rfl ⟨rfl, rfl, rfl⟩ (qgetLane_empty hnum hc hp hbound (pop_empty hcellar hchip))
      (List.cons_ne_nil _ _)
  case bound =>
    exact exec_cask_one (exec_qget h f s) hr hl hw hroom hcount (qgetLane_refused hnum hno) ⟨rfl, rfl⟩ (List.cons_ne_nil _ _)

end Sys2Proof.Machine
end
